-- ==== Sys2Proof/Word.lean ====
section
/-! DEFINITION. The word types of the Filmond FM9 and the sparse map that holds every numbered collection of the
machine (registers, semaphores, memory, cores): a list of (number, value) pairs, strictly rising, listing no value
equal to the collection's default. The operations on it stand in Sys2Proof/Machine/Sparse.lean. -/

namespace Sys2Proof

/-- A 64-bit word: a scalar register, a special register, an address (R9, R14). -/
abbrev Word := BitVec 64

/-- A byte of memory. -/
abbrev Byte := BitVec 8

/-- A vector register, and an entry of a load-data or store-data queue: 1,024 bits (R240, R315). -/
abbrev Line := BitVec 1024

/-- A numbered collection with a default for every number it does not list. -/
abbrev Sparse (α : Type) := List (Nat × α)

end Sys2Proof
end

