-- ==== Sys2Proof/Syntax.lean ====
section
/-! DEFINITION. The syntax of the machine's steps: one constructor of `Instr` for every row of spec/opcode_table.json.
The first part are the instruction forms of the Wystad instruction set, each with its clauses (`Hdr`) and the fields of
its format (R246); a row that is one variant of an opcode (a KIND, SUB, TBL, DIR or SPR value) is a constructor of its own.
The last part are the device's events, each one indivisible step (spec/95_what_each_step_holds.md). -/

namespace Sys2Proof

/-- An operand field of an instruction word (R239). Reserved numbers have no constructor: the decoder refuses them. -/
inductive Operand where
  | x (n : Fin 64)   -- scalar register
  | v (n : Fin 32)   -- vector register
  | lq (n : Fin 4)   -- load-data queue
  | sq (n : Fin 2)   -- store-data queue
  | p (n : Fin 8)    -- predicate
  | k (n : Fin 8)    -- lane mask
  deriving DecidableEq, Repr

/-- The guard, wait clause, signal clause and hints that every instruction word carries (R236-R238, R242, R243). -/
structure Hdr where
  gn : Bool
  gp : Fin 8
  ws : BitVec 8
  wt : BitVec 6
  ss : BitVec 8
  si : BitVec 4
  la : Bool
  lb : Bool
  pr : Bool
  deriving DecidableEq, Repr

/-- Format RR (R246). -/
structure FmtRR where
  d : Operand
  a : Operand
  b : Operand
  psel : BitVec 3
  deriving DecidableEq, Repr

/-- Format I (R246). -/
structure FmtI where
  d : Operand
  a : Operand
  imm : BitVec 32
  deriving DecidableEq, Repr

/-- Format C (R246). -/
structure FmtC where
  d : Operand
  a : Operand
  b : Operand
  cond : BitVec 4
  deriving DecidableEq, Repr

/-- Format CI (R246). -/
structure FmtCI where
  d : Operand
  a : Operand
  imm : BitVec 24
  cond : BitVec 4
  deriving DecidableEq, Repr

/-- Format BF (R246). -/
structure FmtBF where
  d : Operand
  a : Operand
  b : Operand
  len : BitVec 7
  pos : BitVec 6
  deriving DecidableEq, Repr

/-- Format J (R246). -/
structure FmtJ where
  d : Operand
  off : BitVec 32
  deriving DecidableEq, Repr

/-- Format CR (R246). -/
structure FmtCR where
  d : Operand
  a : Operand
  b : Operand
  deriving DecidableEq, Repr

/-- Format FK (R246). -/
structure FmtFK where
  coff : BitVec 16
  moff : BitVec 16
  deriving DecidableEq, Repr

/-- Format S (R246). -/
structure FmtS where
  d : Operand
  a : Operand
  imm : BitVec 16
  sem : BitVec 8
  deriving DecidableEq, Repr

/-- Format SYS (R246). -/
structure FmtSYS where
  d : Operand
  a : Operand
  spr : BitVec 12
  deriving DecidableEq, Repr

/-- Format SC (R246); KIND is part of the constructor. -/
structure FmtSC where
  b : Operand
  deriving DecidableEq, Repr

/-- Format CAP (R246). -/
structure FmtCAP where
  d : Operand
  a : Operand
  b : Operand
  sealTy : BitVec 4
  sel : BitVec 4
  perm : BitVec 12
  deriving DecidableEq, Repr

/-- Format F (R246). -/
structure FmtF where
  d : Operand
  a : Operand
  b : Operand
  fcond : BitVec 3
  fmt2 : BitVec 4
  sat : Bool
  rnd : BitVec 2
  fmt : BitVec 4
  deriving DecidableEq, Repr

/-- Format V (R246). -/
structure FmtV where
  d : Operand
  a : Operand
  b : Operand
  vimm : BitVec 8
  fmt2 : BitVec 4
  seld : BitVec 3
  selb : BitVec 3
  sela : BitVec 3
  msk : Fin 8
  men : Bool
  sat : Bool
  rnd : BitVec 2
  fmt : BitVec 4
  deriving DecidableEq, Repr

/-- Format M (R246). -/
structure FmtM where
  d : Operand
  a : Operand
  b : Operand
  order : BitVec 2
  policy : BitVec 3
  size : BitVec 3
  offset : BitVec 24
  deriving DecidableEq, Repr

/-- Format K (R246). -/
structure FmtK where
  d : Operand
  a : Operand
  b : Operand
  dir : Bool
  tsem : BitVec 8
  tcore : BitVec 9
  tslot : BitVec 4
  slot : BitVec 4
  deriving DecidableEq, Repr

/-- Format PB (R246). -/
structure FmtPB where
  foff : BitVec 24
  strm : BitVec 4
  deriving DecidableEq, Repr

/-- Format P (R246); TBL is part of the constructor. -/
structure FmtP where
  d : Operand
  a : Operand
  b : Operand
  wsel : BitVec 2
  tcnt : BitVec 7
  strm : BitVec 4
  deriving DecidableEq, Repr

/-- Format E (R246). -/
structure FmtE where
  d : Operand
  a : Operand
  b : Operand
  chk : Bool
  dec : Bool
  enc : Bool
  dim : BitVec 2
  fmt2 : BitVec 4
  fmt : BitVec 4
  mp : BitVec 2
  ch : BitVec 2
  rel : Bool
  acq : Bool
  deriving DecidableEq, Repr

/-- Format XC (R246). -/
structure FmtXC where
  d : Operand
  a : Operand
  b : Operand
  idx : BitVec 8
  opr : BitVec 4
  fmt : BitVec 4
  deriving DecidableEq, Repr

/-- Format T (R246); SUB is kept where it is not part of the constructor (`tdecl`). -/
structure FmtT where
  d : Operand
  a : Operand
  b : Operand
  imm : BitVec 8
  sub : BitVec 4
  sel : BitVec 4
  deriving DecidableEq, Repr

/-- An agent: a core (`gid` = 256 x cluster + index, R141; 2048 + cluster for a service core) and one of its contexts
(0 control, 1-10 helpers, 11 matrix sequencer, 12 copy sequencer, R269 CID.CTX). -/
structure Agent where
  gid : Nat
  ctx : Nat
  deriving DecidableEq, Repr

/-- A function of the device that bring-up readies (R429). -/
inductive Func where
  | dram (stack : Nat) (avail : List Nat)   -- with the channels found working, ascending (R110)
  | cluster (c : Nat)
  | service (c : Nat)
  | draw (c : Nat)
  | link (port : Nat)
  | tier (port : Nat) (isMem : Bool) (bytes : Nat)   -- CXL memory of so many bytes, or NVMe storage (R424)
  | host
  deriving DecidableEq, Repr

/-- A firmware image as the boot ROM sees it (R427), with what bring-up takes from it (R44). -/
structure FwImage where
  payload : List Byte
  signature : List Byte
  version : Nat
  reservedSet : Bool
  handler : Word          -- block address of the hypervisor handler
  handlerMeta : Word
  svcBase : Nat           -- physical address the service program is copied to, in the reserved granules
  svcEntry : Word         -- its first block
  svcMeta : Word
  svcTlb : List (Word × Word)   -- the translations installed for it, as words 0 and 1 of R34
  rnge : List (List Word)       -- first range-table entries of every cluster, three words each (R42)
  deriving DecidableEq, Repr

/-- Where a read or write from outside the package is aimed (R413, R414). -/
inductive LinkTarget where
  | mem (pa : Nat)
  | bar0 (off : Nat)
  deriving DecidableEq, Repr

/-- A link of the device edge: the host port, or the Casfort link of a peer (R137). -/
inductive Link where
  | host
  | peer (g : Nat)
  deriving DecidableEq, Repr

/-- A Heneri frame (R422). -/
structure HeneriFrame where
  hstr : BitVec 16
  reserved : Bool         -- a reserved field is nonzero
  ts : Word
  payload : List Byte     -- LEN bytes
  deriving DecidableEq, Repr

/-- One IEEE 1588 Sync as the device time unit sees it (R420). -/
structure PtpSync where
  grandmaster : Bool
  port : Nat
  masterNs : Nat          -- the master's time, integer nanoseconds
  offset : Int            -- measured offset, nanoseconds
  deriving DecidableEq, Repr

/-- A gang descriptor offered by a peer device (R198): its bytes with the tags of its granules, and the gang's other devices, by their
numbers here. -/
structure GangOffer where
  peer : Nat
  others : List Nat
  part : Nat
  bytes : List Byte
  tags : List Bool
  deriving DecidableEq, Repr

/-- The operands of an event: which access, agent, core, cluster, slot or record it concerns, or what arrives. -/
inductive EvArg where
  | none
  | one (n : Nat)
  | two (m n : Nat)
  | three (m n k : Nat)
  | agent (a : Agent)
  | access (a : Agent) (j u : Nat)   -- unit `u` of access `j` of an agent
  | piece (a : Agent) (j u n : Nat)   -- the next `n` bytes of the element of command `u` of queue `j`
  | fetch (a : Agent) (u : Nat)       -- 8-byte unit `u` of the block an agent fetches next
  | firmware (img : FwImage)
  | func (f : Func)
  | frame (port : Nat) (f : HeneriFrame)
  | sync (m : PtpSync)
  | write (l : Link) (t : LinkTarget) (data : List Byte)
  | read (l : Link) (t : LinkTarget) (n : Nat)
  | offer (o : GangOffer)
  deriving DecidableEq, Repr

/-- The steps of the machine: one constructor per row of spec/opcode_table.json. An event takes its operands from the
agenda entry that names it (`State.ev`), so that its constructor has no field. -/
inductive Instr where
  | nop (h : Hdr)
  | br (h : Hdr) (o : FmtCR)
  | bri (h : Hdr) (o : FmtJ)
  | call (h : Hdr) (o : FmtJ)
  | ret (h : Hdr) (o : FmtCR)
  | loop (h : Hdr) (o : FmtJ)
  | halt (h : Hdr)
  | exit (h : Hdr)
  | start (h : Hdr) (o : FmtJ)
  | fork (h : Hdr) (o : FmtFK)
  | join (h : Hdr)
  | yield (h : Hdr) (o : FmtCR)
  | trap (h : Hdr) (o : FmtI)
  | sysc (h : Hdr) (o : FmtCR)
  | rfu (h : Hdr)
  | rfe (h : Hdr)
  | semSet (h : Hdr) (o : FmtS)
  | semAdd (h : Hdr) (o : FmtS)
  | semSig (h : Hdr) (o : FmtS)
  | semRd (h : Hdr) (o : FmtS)
  | mfs (h : Hdr) (o : FmtSYS)
  | mts (h : Hdr) (o : FmtSYS)
  | prgnWrite (h : Hdr) (o : FmtSYS)
  | svcrReadyWrite (h : Hdr) (o : FmtSYS)
  | mqoWrite (h : Hdr) (o : FmtSYS)
  | bar (h : Hdr) (o : FmtSC)
  | gang (h : Hdr)
  | wmon (h : Hdr) (o : FmtM)
  | dtime (h : Hdr) (o : FmtRR)
  | budget (h : Hdr) (o : FmtS)
  | sstep (h : Hdr) (o : FmtSC)
  | fenceLl (h : Hdr) (o : FmtSC)
  | fenceSs (h : Hdr) (o : FmtSC)
  | fenceFull (h : Hdr) (o : FmtSC)
  | fenceEng (h : Hdr) (o : FmtSC)
  | add (h : Hdr) (o : FmtRR)
  | sub (h : Hdr) (o : FmtRR)
  | addi (h : Hdr) (o : FmtI)
  | mul (h : Hdr) (o : FmtRR)
  | mulh (h : Hdr) (o : FmtRR)
  | mulhu (h : Hdr) (o : FmtRR)
  | div (h : Hdr) (o : FmtRR)
  | divu (h : Hdr) (o : FmtRR)
  | rem (h : Hdr) (o : FmtRR)
  | remu (h : Hdr) (o : FmtRR)
  | and (h : Hdr) (o : FmtRR)
  | or (h : Hdr) (o : FmtRR)
  | xor (h : Hdr) (o : FmtRR)
  | andn (h : Hdr) (o : FmtRR)
  | shl (h : Hdr) (o : FmtRR)
  | shr (h : Hdr) (o : FmtRR)
  | sar (h : Hdr) (o : FmtRR)
  | rol (h : Hdr) (o : FmtRR)
  | shlI (h : Hdr) (o : FmtI)
  | shrI (h : Hdr) (o : FmtI)
  | sarI (h : Hdr) (o : FmtI)
  | rolI (h : Hdr) (o : FmtI)
  | clz (h : Hdr) (o : FmtRR)
  | ctz (h : Hdr) (o : FmtRR)
  | popc (h : Hdr) (o : FmtRR)
  | min (h : Hdr) (o : FmtRR)
  | max (h : Hdr) (o : FmtRR)
  | minu (h : Hdr) (o : FmtRR)
  | maxu (h : Hdr) (o : FmtRR)
  | cmp (h : Hdr) (o : FmtC)
  | cmpi (h : Hdr) (o : FmtCI)
  | sel (h : Hdr) (o : FmtRR)
  | movi (h : Hdr) (o : FmtI)
  | movhi (h : Hdr) (o : FmtI)
  | mov (h : Hdr) (o : FmtRR)
  | bfx (h : Hdr) (o : FmtBF)
  | bfi (h : Hdr) (o : FmtBF)
  | pand (h : Hdr) (o : FmtRR)
  | por (h : Hdr) (o : FmtRR)
  | pnot (h : Hdr) (o : FmtRR)
  | cset (h : Hdr) (o : FmtCAP)
  | cinc (h : Hdr) (o : FmtCAP)
  | cbnd (h : Hdr) (o : FmtCAP)
  | cbndX (h : Hdr) (o : FmtCAP)
  | cperm (h : Hdr) (o : FmtCAP)
  | cseal (h : Hdr) (o : FmtCAP)
  | cget (h : Hdr) (o : FmtCAP)
  | ctag (h : Hdr) (o : FmtCAP)
  | cclr (h : Hdr) (o : FmtCAP)
  | fadd (h : Hdr) (o : FmtF)
  | fsub (h : Hdr) (o : FmtF)
  | fmul (h : Hdr) (o : FmtF)
  | ffma (h : Hdr) (o : FmtF)
  | fdiv (h : Hdr) (o : FmtF)
  | fsqrt (h : Hdr) (o : FmtF)
  | fmin (h : Hdr) (o : FmtF)
  | fmax (h : Hdr) (o : FmtF)
  | fcmp (h : Hdr) (o : FmtF)
  | fcvt (h : Hdr) (o : FmtF)
  | fexp2 (h : Hdr) (o : FmtF)
  | vadd (h : Hdr) (o : FmtV)
  | vsub (h : Hdr) (o : FmtV)
  | vmul (h : Hdr) (o : FmtV)
  | vfma (h : Hdr) (o : FmtV)
  | vmin (h : Hdr) (o : FmtV)
  | vmax (h : Hdr) (o : FmtV)
  | vabs (h : Hdr) (o : FmtV)
  | vcmp (h : Hdr) (o : FmtV)
  | vsel (h : Hdr) (o : FmtV)
  | viadd (h : Hdr) (o : FmtV)
  | visub (h : Hdr) (o : FmtV)
  | vimul (h : Hdr) (o : FmtV)
  | vand (h : Hdr) (o : FmtV)
  | vor (h : Hdr) (o : FmtV)
  | vxor (h : Hdr) (o : FmtV)
  | vshl (h : Hdr) (o : FmtV)
  | vshr (h : Hdr) (o : FmtV)
  | vsar (h : Hdr) (o : FmtV)
  | vcvt (h : Hdr) (o : FmtV)
  | vquant (h : Hdr) (o : FmtV)
  | vquantFold (h : Hdr) (o : FmtV)
  | vdeq (h : Hdr) (o : FmtV)
  | vexp2 (h : Hdr) (o : FmtV)
  | vrcp (h : Hdr) (o : FmtV)
  | vrsq (h : Hdr) (o : FmtV)
  | vdot4 (h : Hdr) (o : FmtV)
  | vpermB (h : Hdr) (o : FmtV)
  | vpermBN (h : Hdr) (o : FmtV)
  | vpermBNs (h : Hdr) (o : FmtV)
  | vshuf (h : Hdr) (o : FmtV)
  | vbcast (h : Hdr) (o : FmtV)
  | vins (h : Hdr) (o : FmtV)
  | vext (h : Hdr) (o : FmtV)
  | vrot (h : Hdr) (o : FmtV)
  | vredadd (h : Hdr) (o : FmtV)
  | vredmax (h : Hdr) (o : FmtV)
  | vredmin (h : Hdr) (o : FmtV)
  | vargmax (h : Hdr) (o : FmtV)
  | vscan (h : Hdr) (o : FmtV)
  | vscanX (h : Hdr) (o : FmtV)
  | vhist (h : Hdr) (o : FmtV)
  | vordkey (h : Hdr) (o : FmtV)
  | vunord (h : Hdr) (o : FmtV)
  | vlaneid (h : Hdr) (o : FmtV)
  | vcount (h : Hdr) (o : FmtV)
  | vcompress (h : Hdr) (o : FmtV)
  | ld (h : Hdr) (o : FmtM)
  | st (h : Hdr) (o : FmtM)
  | ldc (h : Hdr) (o : FmtM)
  | stc (h : Hdr) (o : FmtM)
  | ldv (h : Hdr) (o : FmtM)
  | stv (h : Hdr) (o : FmtM)
  | ldq (h : Hdr) (o : FmtM)
  | stq (h : Hdr) (o : FmtM)
  | ldg (h : Hdr) (o : FmtM)
  | stg (h : Hdr) (o : FmtM)
  | amoAdd (h : Hdr) (o : FmtM)
  | amoAnd (h : Hdr) (o : FmtM)
  | amoOr (h : Hdr) (o : FmtM)
  | amoXor (h : Hdr) (o : FmtM)
  | amoMin (h : Hdr) (o : FmtM)
  | amoMax (h : Hdr) (o : FmtM)
  | amoSwap (h : Hdr) (o : FmtM)
  | amoCas (h : Hdr) (o : FmtM)
  | amoFadd (h : Hdr) (o : FmtM)
  | stMc (h : Hdr) (o : FmtM)
  | stRedAdd (h : Hdr) (o : FmtM)
  | stRedMin (h : Hdr) (o : FmtM)
  | stRedMax (h : Hdr) (o : FmtM)
  | stRedFadd (h : Hdr) (o : FmtM)
  | pref (h : Hdr) (o : FmtM)
  | cinv (h : Hdr) (o : FmtM)
  | cwb (h : Hdr) (o : FmtM)
  | bgive (h : Hdr) (o : FmtK)
  | btake (h : Hdr) (o : FmtK)
  | bfree (h : Hdr) (o : FmtK)
  | bmap (h : Hdr) (o : FmtK)
  | ringrot (h : Hdr) (o : FmtK)
  | bdrain (h : Hdr) (o : FmtK)
  | pbegin (h : Hdr) (o : FmtPB)
  | pcommit (h : Hdr) (o : FmtP)
  | pabort (h : Hdr) (o : FmtP)
  | pseed (h : Hdr) (o : FmtP)
  | pseedTbl (h : Hdr) (o : FmtP)
  | pdraw (h : Hdr) (o : FmtP)
  | pstat (h : Hdr) (o : FmtP)
  | pstatE (h : Hdr) (o : FmtP)
  | mlds (h : Hdr) (o : FmtE)
  | mswp (h : Hdr) (o : FmtE)
  | mstream (h : Hdr) (o : FmtE)
  | mzero (h : Hdr) (o : FmtE)
  | mdrain (h : Hdr) (o : FmtE)
  | mgang (h : Hdr) (o : FmtE)
  | mfwd (h : Hdr) (o : FmtE)
  | msave (h : Hdr) (o : FmtE)
  | msaveSt (h : Hdr) (o : FmtE)
  | mrest (h : Hdr) (o : FmtE)
  | cpy (h : Hdr) (o : FmtE)
  | cpwp (h : Hdr) (o : FmtE)
  | cps (h : Hdr) (o : FmtE)
  | cpsw (h : Hdr) (o : FmtE)
  | cpm (h : Hdr) (o : FmtE)
  | cpmFin (h : Hdr) (o : FmtE)
  | send (h : Hdr) (o : FmtXC)
  | recv (h : Hdr) (o : FmtXC)
  | recvT (h : Hdr) (o : FmtXC)
  | xphase (h : Hdr) (o : FmtXC)
  | xmit (h : Hdr) (o : FmtXC)
  | xsel (h : Hdr) (o : FmtXC)
  | cred (h : Hdr) (o : FmtXC)
  | cbc (h : Hdr) (o : FmtXC)
  | cag (h : Hdr) (o : FmtXC)
  | launch (h : Hdr) (o : FmtT)
  | tpsh (h : Hdr) (o : FmtT)
  | tpop (h : Hdr) (o : FmtT)
  | tdecl (h : Hdr) (o : FmtT)
  | qprio (h : Hdr) (o : FmtT)
  | wid (h : Hdr) (o : FmtT)
  | widSet (h : Hdr) (o : FmtT)
  | twget (h : Hdr) (o : FmtT)
  | twadv (h : Hdr) (o : FmtT)
  | twput (h : Hdr) (o : FmtT)
  | tlbwInstall (h : Hdr) (o : FmtT)
  | tlbwUpcall (h : Hdr) (o : FmtT)
  | tlbwTrap (h : Hdr) (o : FmtT)
  | tlbwFail (h : Hdr) (o : FmtT)
  | tlbiPage (h : Hdr) (o : FmtT)
  | tlbiDomain (h : Hdr) (o : FmtT)
  | tlbiAll (h : Hdr) (o : FmtT)
  | fnote (h : Hdr) (o : FmtT)
  | rtab (h : Hdr) (o : FmtT)
  | rtabRd (h : Hdr) (o : FmtT)
  | unassignedOpcode (w : BitVec 96)
  | reset
  | firmwareLoad
  | functionReady
  | performStore
  | readHome
  | readCopy
  | forward
  | atomic
  | deliver
  | drop
  | sliceFill
  | writeBack
  | directoryReply
  | missReply
  | messageArrival
  | semSigArrival
  | engineCommandCompletion
  | bgiveDrainComplete
  | bfreeDrainComplete
  | bankZeroingComplete
  | ringrotBarrierComplete
  | ringrotDrainComplete
  | distributorSelect
  | headAging
  | rebalance
  | preemptionRequest
  | forcedSave
  | saveWriteOut
  | taskEnd
  | launchStatusWrite
  | stage0Enqueue
  | gangAcknowledge
  | gangStart
  | gangCancelBeforeTick
  | gangCancelAfterTick
  | fallbackReport
  | timeWindowTick
  | heneriFrame
  | ptpSync
  | lockLossTimeout
  | ticketResolve
  | sstepMerge
  | superstepRollback
  | barPass
  | jointRowFormed
  | collectiveAllArrived
  | budgetExpiry
  | sequencerFault
  | thermalStop
  | healthWindowEnd
  | bubble
  | linkWrite
  | linkRead
  | flitRetry
  | laneLoss
  | writePeerTableEntry
  | writeCollectiveGroup
  | writeStorageHandle
  | writeHomeRangeEntry
  | writeFormatWindow
  | rakeStop
  | releaseStoppedCores
  | moveToPartition
  | setQueuePool
  | readStatus
  | attestationReport
  | gangOffer
  | qprioChangeArrival
  | semSigCheckReturn
  | unknownOpRequest
  | bringupEnd
  deriving DecidableEq, Repr

end Sys2Proof
end

