-- ==== Sys2Proof/WellFormed.lean ====
section
/-! DEFINITION. Which instructions are well formed: the legality that R239, R241, R242, R245, R247, R251, R293, R318,
R319 and the entries of the instruction chapters decide from the encoding alone (R250). The decoder answers only
well-formed instructions; every other encoding takes the illegal-instruction trap. -/

namespace Sys2Proof

def Operand.isX : Operand → Bool
  | .x _ => true
  | _ => false

/-- The field holds operand number 0 (R251). -/
def Operand.isZero (o : Operand) : Bool := o == .x 0

/-- A capability pair field: an even scalar register (R241). -/
def Operand.isPair : Operand → Bool
  | .x n => n.val % 2 == 0
  | _ => false

def Operand.isV : Operand → Bool
  | .v _ => true
  | _ => false

def Operand.isP : Operand → Bool
  | .p _ => true
  | _ => false

def Operand.isK : Operand → Bool
  | .k _ => true
  | _ => false

def Operand.isLq : Operand → Bool
  | .lq _ => true
  | _ => false

def Operand.isSq : Operand → Bool
  | .sq _ => true
  | _ => false

/-- A scalar source: x0-x63 or a load-data queue (R240). -/
def Operand.isSSrc (o : Operand) : Bool := o.isX || o.isLq

/-- A scalar destination: x0-x63 or a store-data queue (R240). -/
def Operand.isSDst (o : Operand) : Bool := o.isX || o.isSq

/-- A vector source: v0-v31 or a load-data queue (R317). -/
def Operand.isVSrc (o : Operand) : Bool := o.isV || o.isLq

/-- A vector destination: v0-v31 or a store-data queue (R316). -/
def Operand.isVDst (o : Operand) : Bool := o.isV || o.isSq

/-- A V/S source of R317. -/
def Operand.isVSSrc (o : Operand) : Bool := o.isVSrc || o.isX

/-- WS is zero when WT is 0, and SS when SI is 0 (R242). -/
def Hdr.wf (h : Hdr) : Bool := (h.wt != 0 || h.ws == 0) && (h.si != 0 || h.ss == 0)

/-! Sets of format codes (R319). -/

def fmtF (f : BitVec 4) : Bool := f.toNat ∈ [0x8, 0x9, 0xA, 0xB, 0xC]
def fmtI (f : BitVec 4) : Bool := f.toNat ∈ [0x0, 0x1, 0x2, 0x3, 0x5, 0x6]
def fmtW (f : BitVec 4) : Bool := f.toNat ∈ [0x0, 0x2, 0x3, 0x5]
def fmtFI (f : BitVec 4) : Bool := fmtF f || fmtI f
/-- Formats of `fcvt` (R290). -/
def fmtCvt (f : BitVec 4) : Bool := f.toNat ∈ [0x0, 0x1, 0x2, 0x3, 0x4, 0x7, 0x8, 0x9, 0xA, 0xB, 0xC]
/-- Narrow formats that `vcvt` (R330) converts. -/
def fmtVcvt (f : BitVec 4) : Bool :=
  f.toNat ∈ [0x0, 0x1, 0x2, 0x3, 0x5, 0x6, 0x8, 0x9, 0xA, 0xB, 0xC, 0xD]
/-- Formats of `vquant` (R319) and of the encoded and decoded tiles of `cpy` (R354). -/
def fmtTile (f : BitVec 4) : Bool := f.toNat ∈ [0x0, 0x1, 0x5, 0x6, 0xB, 0xC, 0xD]
/-- Formats of `vdeq` (R319). -/
def fmtVdeq (f : BitVec 4) : Bool := f.toNat ∈ [0x0, 0x1, 0x5, 0x6, 0x9, 0xA, 0xB, 0xC, 0xD]
/-- Operand formats of the matrix engine (R359). -/
def fmtMat (f : BitVec 4) : Bool := f.toNat ∈ [0x0, 0x5, 0x9, 0xA, 0xB, 0xC, 0xD]
/-- A floating format. -/
def fmtFloat (f : BitVec 4) : Bool := f.toNat ∈ [0x7, 0x8, 0x9, 0xA, 0xB, 0xC, 0xD]

/-- The width in bits of a format's values (R165); 8 for the bit-plane code. -/
def fmtWidth (f : BitVec 4) : Nat :=
  match f.toNat with
  | 0x2 | 0x9 | 0xA => 16
  | 0x3 | 0x8 => 32
  | 0x4 | 0x7 => 64
  | 0x5 | 0x6 | 0xD => 4
  | _ => 8

/-- A selector uses as many low bits as its format gives (R246): none for 32-bit values, 1, 2, 3 for narrower ones. -/
def selOk (f : BitVec 4) (s : BitVec 3) : Bool := s.toNat * fmtWidth f < 32 || s == 0

/-- The special register is one of R269. -/
def sprListed (n : BitVec 12) : Bool :=
  let k := n.toNat
  k ≤ 0x002 || k == 0x010 || k == 0x012 || k == 0x013 || (0x018 ≤ k && k ≤ 0x01D) || (0x020 ≤ k && k ≤ 0x02D) ||
  (0x030 ≤ k && k ≤ 0x036) || (0x040 ≤ k && k ≤ 0x04F) || (0x050 ≤ k && k ≤ 0x054) || k == 0x058 || k == 0x05C ||
  k == 0x060 || k == 0x061 || (0x070 ≤ k && k ≤ 0x076) || (0x078 ≤ k && k ≤ 0x07E) || k == 0x080 || k == 0x084 ||
  k == 0x088 || k == 0x089 || k == 0x08C || k == 0x08D || k == 0x090 || k == 0x098

/-- The special register has a writable field (R267, R269). TVAL and its hypervisor copy are read-only registers. -/
def sprWritable (n : BitVec 12) : Bool :=
  let k := n.toNat
  (0x018 ≤ k && k ≤ 0x01A) || k == 0x01C || k == 0x01D || k == 0x050 || k == 0x053 || k == 0x054 || k == 0x058 ||
  (0x070 ≤ k && k ≤ 0x074) || k == 0x076 || (0x078 ≤ k && k ≤ 0x07C) || k == 0x07E || k == 0x088 || k == 0x089 || k == 0x098

/-! Field checks shared by instructions of one shape. -/

def FmtRR.bin (o : FmtRR) : Bool := o.d.isSDst && o.a.isSSrc && o.b.isSSrc && o.psel == 0
def FmtRR.un (o : FmtRR) : Bool := o.d.isSDst && o.a.isSSrc && o.b.isZero && o.psel == 0
def FmtI.bin (o : FmtI) : Bool := o.d.isSDst && o.a.isSSrc
/-- The shift-immediate forms use IMM[5:0] (R277). -/
def FmtI.shift (o : FmtI) : Bool := o.bin && o.imm.toNat < 64
def FmtCAP.plain (o : FmtCAP) : Bool := o.d.isPair && o.a.isPair && o.sealTy == 0 && o.perm == 0
def FmtF.arith (o : FmtF) : Bool :=
  o.d.isSDst && o.a.isSSrc && o.b.isSSrc && (o.fmt == 7 || o.fmt == 8) && o.fmt2 == 0 && o.fcond == 0
def FmtF.cmpLike (o : FmtF) : Bool :=
  o.a.isSSrc && o.b.isSSrc && (o.fmt == 7 || o.fmt == 8) && o.fmt2 == 0 && o.rnd == 0 && !o.sat
/-- A V/S source in B carries a zero selector when it is scalar (R317). -/
def FmtV.bOk (o : FmtV) : Bool := o.b.isVSSrc && selOk o.fmt o.selb && (!o.b.isX || o.selb == 0)
def FmtV.bNone (o : FmtV) : Bool := o.b.isZero && o.selb == 0
def FmtV.noRound (o : FmtV) : Bool := !o.sat && o.rnd == 0
def FmtV.noSel (o : FmtV) : Bool := o.seld == 0 && o.selb == 0 && o.sela == 0
def FmtV.elem2 (o : FmtV) : Bool :=
  o.a.isVSrc && selOk o.fmt o.sela && o.bOk && selOk o.fmt o.seld && o.fmt2 == 0
def FmtV.elem1 (o : FmtV) : Bool :=
  o.a.isVSrc && selOk o.fmt o.sela && o.bNone && selOk o.fmt o.seld && o.fmt2 == 0
def FmtV.floatBin (o : FmtV) : Bool := o.d.isVDst && o.elem2 && fmtF o.fmt && o.vimm == 0
def FmtV.intBin (o : FmtV) : Bool := o.d.isVDst && o.elem2 && fmtI o.fmt && o.vimm == 0 && o.rnd == 0
def FmtV.logic (o : FmtV) : Bool := o.d.isVDst && o.elem2 && o.fmt == 3 && o.vimm == 0 && o.noRound
def FmtV.shift (o : FmtV) : Bool := o.d.isVDst && o.elem2 && fmtI o.fmt && o.noRound
def FmtV.approx (o : FmtV) : Bool := o.d.isVDst && o.elem1 && o.fmt == 8 && o.vimm == 0 && o.noRound
def FmtV.permB (o : FmtV) : Bool :=
  o.d.isVDst && o.a.isVSrc && o.b.isVSrc && o.fmt == 3 && o.fmt2 == 0 && o.noSel && o.noRound && o.vimm == 0
def FmtV.red (o : FmtV) : Bool :=
  o.d.isVDst && o.a.isVSrc && selOk o.fmt o.sela && o.bNone && o.seld == 0 && o.fmt2 == 0 && fmtFI o.fmt && o.vimm == 0
def FmtV.keys (o : FmtV) : Bool := o.d.isVDst && o.elem1 && fmtF o.fmt && o.vimm == 0 && o.noRound
def FmtV.scan (o : FmtV) : Bool :=
  o.d.isVDst && o.a.isVSrc && o.bNone && o.seld == 0 && o.sela == 0 && o.fmt2 == 0 && (o.fmt == 3 || o.fmt == 8) &&
  (o.fmt == 8 || o.rnd == 0) && o.vimm == 0

/-- Authority, index or scope, and policy of a memory instruction (R247, R293). -/
def FmtM.base (o : FmtM) : Bool := o.a.isPair && o.b.isX && o.policy.toNat < 5
def FmtM.plainOrder (o : FmtM) : Bool := o.order == 0
def FmtM.amo (o : FmtM) : Bool := o.base && o.d.isX && (o.size == 2 || o.size == 3)
def FmtM.red (o : FmtM) : Bool := o.base && (o.d.isX || o.d.isV || o.d.isLq) && (o.size == 2 || o.size == 3)
def FmtM.cacheOp (o : FmtM) : Bool := o.base && o.plainOrder && o.size == 0 && o.d.isZero

def FmtK.noTarget (o : FmtK) : Bool := o.tcore == 0 && o.tslot == 0 && o.tsem == 0
def FmtK.base (o : FmtK) : Bool := o.d.isP && o.a.isPair
def FmtP.none3 (o : FmtP) : Bool := o.d.isZero && o.a.isZero && o.b.isZero
def FmtP.rd (o : FmtP) : Bool := o.d.isSDst && o.a.isZero && o.b.isZero

/-- A register group starts at a multiple of n (R349). -/
def Operand.isGroup (n : Nat) : Operand → Bool
  | .x r => r.val % n == 0
  | _ => false

def FmtE.noFlags (o : FmtE) : Bool := !o.chk && !o.dec && !o.enc
def FmtE.scopeOk (o : FmtE) : Bool := o.b.isX && (o.acq || o.rel || o.b.isZero)
def FmtE.mat (o : FmtE) : Bool := o.d.isX && o.noFlags && o.fmt2 == 0 && o.ch == 0 && o.scopeOk
def FmtE.bare (o : FmtE) : Bool := o.a.isZero && o.b.isZero && !o.acq && !o.rel && o.dim == 0
def FmtE.copyGroup (o : FmtE) : Bool := o.d.isX && o.a.isGroup 8 && o.scopeOk

/-- The mode table of `cpy` (R354). -/
def FmtE.cpyMode (o : FmtE) : Bool :=
  o.dim.toNat < 3 &&
  match o.enc, o.dec, o.chk with
  | false, false, false => o.fmt == 0 && o.fmt2 == 0
  | false, false, true => o.fmt == o.fmt2 && o.fmt.toNat < 0xE && o.dim == 0
  | false, true, _ => fmtTile o.fmt2 && (o.fmt == 8 || o.fmt == 9)
  | true, false, false =>
    ((o.fmt2 == 8 || o.fmt2 == 9) && fmtTile o.fmt) || (o.fmt2 == 0 && o.fmt == 0xF)
  | _, _, _ => false

def FmtXC.noFmt (o : FmtXC) : Bool := o.opr == 0 && o.fmt == 0
def FmtXC.coll (o : FmtXC) : Bool := o.d.isSDst && o.a.isPair && o.b.isSSrc
def FmtT.noSub (o : FmtT) : Bool := o.sub == 0
def FmtT.noSel (o : FmtT) : Bool := o.sel == 0
def FmtT.noImm (o : FmtT) : Bool := o.imm == 0
def FmtT.tlbw (o : FmtT) : Bool := o.d.isSDst && o.a.isPair && o.b.isSSrc && o.noSub && o.noSel
/-- A cause of 1-7 for upcall and trap (R376). -/
def FmtT.cause (o : FmtT) : Bool := 1 ≤ o.imm.toNat && o.imm.toNat ≤ 7

/-- The opcode numbers that the map assigns (R249). -/
def opAssigned (op : Nat) : Bool :=
  (0x001 ≤ op && op ≤ 0x01D) || (0x040 ≤ op && op ≤ 0x067) || (0x080 ≤ op && op ≤ 0x087) ||
  (0x0C0 ≤ op && op ≤ 0x0CA) || (0x100 ≤ op && op ≤ 0x118) || (0x140 ≤ op && op ≤ 0x150) ||
  (0x180 ≤ op && op ≤ 0x19A) || (0x1C0 ≤ op && op ≤ 0x1CB) || (0x200 ≤ op && op ≤ 0x208) ||
  (0x240 ≤ op && op ≤ 0x245) || (0x280 ≤ op && op ≤ 0x287) || (0x2C0 ≤ op && op ≤ 0x2CC)

/-- The step is an event of the device, not an instruction of a block. -/
def Instr.isEvent : Instr → Bool
  | .nop _ => false
  | .br _ _ => false
  | .bri _ _ => false
  | .call _ _ => false
  | .ret _ _ => false
  | .loop _ _ => false
  | .halt _ => false
  | .exit _ => false
  | .start _ _ => false
  | .fork _ _ => false
  | .join _ => false
  | .yield _ _ => false
  | .trap _ _ => false
  | .sysc _ _ => false
  | .rfu _ => false
  | .rfe _ => false
  | .semSet _ _ => false
  | .semAdd _ _ => false
  | .semSig _ _ => false
  | .semRd _ _ => false
  | .mfs _ _ => false
  | .mts _ _ => false
  | .prgnWrite _ _ => false
  | .svcrReadyWrite _ _ => false
  | .mqoWrite _ _ => false
  | .bar _ _ => false
  | .gang _ => false
  | .wmon _ _ => false
  | .dtime _ _ => false
  | .budget _ _ => false
  | .sstep _ _ => false
  | .fenceLl _ _ => false
  | .fenceSs _ _ => false
  | .fenceFull _ _ => false
  | .fenceEng _ _ => false
  | .add _ _ => false
  | .sub _ _ => false
  | .addi _ _ => false
  | .mul _ _ => false
  | .mulh _ _ => false
  | .mulhu _ _ => false
  | .div _ _ => false
  | .divu _ _ => false
  | .rem _ _ => false
  | .remu _ _ => false
  | .and _ _ => false
  | .or _ _ => false
  | .xor _ _ => false
  | .andn _ _ => false
  | .shl _ _ => false
  | .shr _ _ => false
  | .sar _ _ => false
  | .rol _ _ => false
  | .shlI _ _ => false
  | .shrI _ _ => false
  | .sarI _ _ => false
  | .rolI _ _ => false
  | .clz _ _ => false
  | .ctz _ _ => false
  | .popc _ _ => false
  | .min _ _ => false
  | .max _ _ => false
  | .minu _ _ => false
  | .maxu _ _ => false
  | .cmp _ _ => false
  | .cmpi _ _ => false
  | .sel _ _ => false
  | .movi _ _ => false
  | .movhi _ _ => false
  | .mov _ _ => false
  | .bfx _ _ => false
  | .bfi _ _ => false
  | .pand _ _ => false
  | .por _ _ => false
  | .pnot _ _ => false
  | .cset _ _ => false
  | .cinc _ _ => false
  | .cbnd _ _ => false
  | .cbndX _ _ => false
  | .cperm _ _ => false
  | .cseal _ _ => false
  | .cget _ _ => false
  | .ctag _ _ => false
  | .cclr _ _ => false
  | .fadd _ _ => false
  | .fsub _ _ => false
  | .fmul _ _ => false
  | .ffma _ _ => false
  | .fdiv _ _ => false
  | .fsqrt _ _ => false
  | .fmin _ _ => false
  | .fmax _ _ => false
  | .fcmp _ _ => false
  | .fcvt _ _ => false
  | .fexp2 _ _ => false
  | .vadd _ _ => false
  | .vsub _ _ => false
  | .vmul _ _ => false
  | .vfma _ _ => false
  | .vmin _ _ => false
  | .vmax _ _ => false
  | .vabs _ _ => false
  | .vcmp _ _ => false
  | .vsel _ _ => false
  | .viadd _ _ => false
  | .visub _ _ => false
  | .vimul _ _ => false
  | .vand _ _ => false
  | .vor _ _ => false
  | .vxor _ _ => false
  | .vshl _ _ => false
  | .vshr _ _ => false
  | .vsar _ _ => false
  | .vcvt _ _ => false
  | .vquant _ _ => false
  | .vquantFold _ _ => false
  | .vdeq _ _ => false
  | .vexp2 _ _ => false
  | .vrcp _ _ => false
  | .vrsq _ _ => false
  | .vdot4 _ _ => false
  | .vpermB _ _ => false
  | .vpermBN _ _ => false
  | .vpermBNs _ _ => false
  | .vshuf _ _ => false
  | .vbcast _ _ => false
  | .vins _ _ => false
  | .vext _ _ => false
  | .vrot _ _ => false
  | .vredadd _ _ => false
  | .vredmax _ _ => false
  | .vredmin _ _ => false
  | .vargmax _ _ => false
  | .vscan _ _ => false
  | .vscanX _ _ => false
  | .vhist _ _ => false
  | .vordkey _ _ => false
  | .vunord _ _ => false
  | .vlaneid _ _ => false
  | .vcount _ _ => false
  | .vcompress _ _ => false
  | .ld _ _ => false
  | .st _ _ => false
  | .ldc _ _ => false
  | .stc _ _ => false
  | .ldv _ _ => false
  | .stv _ _ => false
  | .ldq _ _ => false
  | .stq _ _ => false
  | .ldg _ _ => false
  | .stg _ _ => false
  | .amoAdd _ _ => false
  | .amoAnd _ _ => false
  | .amoOr _ _ => false
  | .amoXor _ _ => false
  | .amoMin _ _ => false
  | .amoMax _ _ => false
  | .amoSwap _ _ => false
  | .amoCas _ _ => false
  | .amoFadd _ _ => false
  | .stMc _ _ => false
  | .stRedAdd _ _ => false
  | .stRedMin _ _ => false
  | .stRedMax _ _ => false
  | .stRedFadd _ _ => false
  | .pref _ _ => false
  | .cinv _ _ => false
  | .cwb _ _ => false
  | .bgive _ _ => false
  | .btake _ _ => false
  | .bfree _ _ => false
  | .bmap _ _ => false
  | .ringrot _ _ => false
  | .bdrain _ _ => false
  | .pbegin _ _ => false
  | .pcommit _ _ => false
  | .pabort _ _ => false
  | .pseed _ _ => false
  | .pseedTbl _ _ => false
  | .pdraw _ _ => false
  | .pstat _ _ => false
  | .pstatE _ _ => false
  | .mlds _ _ => false
  | .mswp _ _ => false
  | .mstream _ _ => false
  | .mzero _ _ => false
  | .mdrain _ _ => false
  | .mgang _ _ => false
  | .mfwd _ _ => false
  | .msave _ _ => false
  | .msaveSt _ _ => false
  | .mrest _ _ => false
  | .cpy _ _ => false
  | .cpwp _ _ => false
  | .cps _ _ => false
  | .cpsw _ _ => false
  | .cpm _ _ => false
  | .cpmFin _ _ => false
  | .send _ _ => false
  | .recv _ _ => false
  | .recvT _ _ => false
  | .xphase _ _ => false
  | .xmit _ _ => false
  | .xsel _ _ => false
  | .cred _ _ => false
  | .cbc _ _ => false
  | .cag _ _ => false
  | .launch _ _ => false
  | .tpsh _ _ => false
  | .tpop _ _ => false
  | .tdecl _ _ => false
  | .qprio _ _ => false
  | .wid _ _ => false
  | .widSet _ _ => false
  | .twget _ _ => false
  | .twadv _ _ => false
  | .twput _ _ => false
  | .tlbwInstall _ _ => false
  | .tlbwUpcall _ _ => false
  | .tlbwTrap _ _ => false
  | .tlbwFail _ _ => false
  | .tlbiPage _ _ => false
  | .tlbiDomain _ _ => false
  | .tlbiAll _ _ => false
  | .fnote _ _ => false
  | .rtab _ _ => false
  | .rtabRd _ _ => false
  | .reset => true
  | .firmwareLoad => true
  | .functionReady => true
  | .performStore => true
  | .readHome => true
  | .readCopy => true
  | .forward => true
  | .atomic => true
  | .deliver => true
  | .drop => true
  | .sliceFill => true
  | .writeBack => true
  | .directoryReply => true
  | .missReply => true
  | .messageArrival => true
  | .semSigArrival => true
  | .engineCommandCompletion => true
  | .bgiveDrainComplete => true
  | .bfreeDrainComplete => true
  | .bankZeroingComplete => true
  | .ringrotBarrierComplete => true
  | .ringrotDrainComplete => true
  | .distributorSelect => true
  | .headAging => true
  | .rebalance => true
  | .preemptionRequest => true
  | .forcedSave => true
  | .saveWriteOut => true
  | .taskEnd => true
  | .launchStatusWrite => true
  | .stage0Enqueue => true
  | .gangAcknowledge => true
  | .gangStart => true
  | .gangCancelBeforeTick => true
  | .gangCancelAfterTick => true
  | .fallbackReport => true
  | .timeWindowTick => true
  | .heneriFrame => true
  | .ptpSync => true
  | .lockLossTimeout => true
  | .ticketResolve => true
  | .sstepMerge => true
  | .superstepRollback => true
  | .barPass => true
  | .jointRowFormed => true
  | .collectiveAllArrived => true
  | .budgetExpiry => true
  | .sequencerFault => true
  | .thermalStop => true
  | .healthWindowEnd => true
  | .bubble => true
  | .linkWrite => true
  | .linkRead => true
  | .flitRetry => true
  | .laneLoss => true
  | .writePeerTableEntry => true
  | .writeCollectiveGroup => true
  | .writeStorageHandle => true
  | .writeHomeRangeEntry => true
  | .writeFormatWindow => true
  | .rakeStop => true
  | .releaseStoppedCores => true
  | .moveToPartition => true
  | .setQueuePool => true
  | .readStatus => true
  | .attestationReport => true
  | .gangOffer => true
  | .qprioChangeArrival => true
  | .semSigCheckReturn => true
  | .unassignedOpcode _ => false
  | .unknownOpRequest => true
  | .bringupEnd => true

/-- An instruction that its encoding makes legal. Events carry no encoding; their operands are free. DESIGN CHOICE (log entry 23): R318
does not name MSK among the fields that must be zero, and R245 has unused subfields zero; the model accepts a MSK other than 0 with
MEN 0, but for `vins` and `vext`, whose entries refuse it. -/
def Instr.wf : Instr → Bool
  | .nop h => h.wf
  | .br h o => h.wf && (o.d.isZero && o.a.isPair && o.b.isZero)
  | .bri h o => h.wf && (o.d.isZero)
  | .call h o => h.wf && (o.d.isPair)
  | .ret h o => h.wf && (o.d.isZero && o.a.isPair && o.b.isZero)
  | .loop h o => h.wf && (o.d.isX)
  | .halt h => h.wf
  | .exit h => h.wf
  | .start h o => h.wf && (o.d.isP)
  | .fork h _ => h.wf && true
  | .join h => h.wf
  | .yield h o => h.wf && (o.d.isZero && o.a.isPair && o.b.isZero)
  | .trap h o => h.wf && (o.d.isZero && o.a.isZero)
  | .sysc h o => h.wf && (o.d.isPair && o.a.isPair && o.b.isZero)
  | .rfu h => h.wf
  | .rfe h => h.wf
  | .semSet h o => h.wf && (o.d.isZero && o.a.isSSrc)
  | .semAdd h o => h.wf && (o.d.isZero && o.a.isSSrc)
  | .semSig h o => h.wf && ((o.d.isP || o.d.isZero) && o.a.isSSrc)
  | .semRd h o => h.wf && (o.d.isSDst && o.a.isZero && o.imm == 0)
  | .mfs h o => h.wf && (o.d.isSDst && o.a.isZero && sprListed o.spr)
  | .mts h o => h.wf && (o.d.isZero && o.a.isSSrc && sprWritable o.spr && o.spr != 0x050 && o.spr != 0x088 && o.spr != 0x089 && o.spr != 0x098)
  | .prgnWrite h o => h.wf && (o.d.isZero && o.a.isSSrc && o.spr == 0x050)
  | .svcrReadyWrite h o => h.wf && (o.d.isZero && o.a.isSSrc && o.spr == 0x098)
  | .mqoWrite h o => h.wf && (o.d.isZero && o.a.isSSrc && (o.spr == 0x088 || o.spr == 0x089))
  | .bar h o => h.wf && (o.b.isX)
  | .gang h => h.wf
  | .wmon h o => h.wf && (o.base && o.plainOrder && o.size == 0 && o.d.isSDst)
  | .dtime h o => h.wf && (o.d.isSDst && o.a.isZero && o.b.isZero && o.psel == 0)
  | .budget h o => h.wf && (o.d.isP && o.a.isSSrc && 1 ≤ o.imm.toNat && o.imm.toNat ≤ 10)
  | .sstep h o => h.wf && (o.b.isX)
  | .fenceLl h o => h.wf && (o.b.isX)
  | .fenceSs h o => h.wf && (o.b.isX)
  | .fenceFull h o => h.wf && (o.b.isX)
  | .fenceEng h o => h.wf && (o.b.isX)
  | .add h o => h.wf && (o.bin)
  | .sub h o => h.wf && (o.bin)
  | .addi h o => h.wf && (o.bin)
  | .mul h o => h.wf && (o.bin)
  | .mulh h o => h.wf && (o.bin)
  | .mulhu h o => h.wf && (o.bin)
  | .div h o => h.wf && (o.bin)
  | .divu h o => h.wf && (o.bin)
  | .rem h o => h.wf && (o.bin)
  | .remu h o => h.wf && (o.bin)
  | .and h o => h.wf && (o.bin)
  | .or h o => h.wf && (o.bin)
  | .xor h o => h.wf && (o.bin)
  | .andn h o => h.wf && (o.bin)
  | .shl h o => h.wf && (o.bin)
  | .shr h o => h.wf && (o.bin)
  | .sar h o => h.wf && (o.bin)
  | .rol h o => h.wf && (o.bin)
  | .shlI h o => h.wf && (o.shift)
  | .shrI h o => h.wf && (o.shift)
  | .sarI h o => h.wf && (o.shift)
  | .rolI h o => h.wf && (o.shift)
  | .clz h o => h.wf && (o.un)
  | .ctz h o => h.wf && (o.un)
  | .popc h o => h.wf && (o.un)
  | .min h o => h.wf && (o.bin)
  | .max h o => h.wf && (o.bin)
  | .minu h o => h.wf && (o.bin)
  | .maxu h o => h.wf && (o.bin)
  | .cmp h o => h.wf && (o.d.isP && o.a.isSSrc && o.b.isSSrc && o.cond.toNat < 10)
  | .cmpi h o => h.wf && (o.d.isP && o.a.isSSrc && o.cond.toNat < 10)
  | .sel h o => h.wf && (o.d.isSDst && o.a.isSSrc && o.b.isSSrc)
  | .movi h o => h.wf && (o.d.isSDst && o.a.isZero)
  | .movhi h o => h.wf && (o.bin)
  | .mov h o => h.wf && (o.b.isZero && o.psel == 0 && ((o.d.isSDst && o.a.isSSrc) || (o.d.isK && o.a.isSSrc) || (o.d.isSDst && o.a.isK)))
  | .bfx h o => h.wf && (o.d.isSDst && o.a.isSSrc && o.b.isZero && 1 ≤ o.len.toNat && o.len.toNat ≤ 64 && o.pos.toNat + o.len.toNat ≤ 64)
  | .bfi h o => h.wf && (o.d.isSDst && o.a.isSSrc && o.b.isSSrc && 1 ≤ o.len.toNat && o.len.toNat ≤ 64 && o.pos.toNat + o.len.toNat ≤ 64)
  | .pand h o => h.wf && (o.d.isP && o.a.isP && o.b.isP && o.psel == 0)
  | .por h o => h.wf && (o.d.isP && o.a.isP && o.b.isP && o.psel == 0)
  | .pnot h o => h.wf && (o.d.isP && o.a.isP && o.b.isZero && o.psel == 0)
  | .cset h o => h.wf && (o.plain && o.b.isSSrc && o.sel == 0)
  | .cinc h o => h.wf && (o.plain && o.b.isSSrc && o.sel == 0)
  | .cbnd h o => h.wf && (o.plain && o.b.isSSrc && o.sel == 0)
  | .cbndX h o => h.wf && (o.plain && o.b.isSSrc && o.sel == 0)
  | .cperm h o => h.wf && (o.d.isPair && o.a.isPair && o.b.isZero && o.sealTy == 0 && o.sel == 0 && o.perm.extractLsb' 0 2 == 0)
  | .cseal h o => h.wf && (o.d.isPair && o.a.isPair && o.b.isZero && o.sealTy != 0 && o.sel == 0 && o.perm == 0)
  | .cget h o => h.wf && (o.d.isSDst && o.a.isPair && o.b.isZero && o.sealTy == 0 && o.sel.toNat ≤ 8 && o.perm == 0)
  | .ctag h o => h.wf && (o.d.isP && o.a.isPair && o.sealTy == 0 && o.sel.toNat ≤ 2 && (if o.sel == 2 then o.b.isSSrc else o.b.isZero && o.perm == 0))
  | .cclr h o => h.wf && (o.plain && o.b.isZero && o.sel == 0)
  | .fadd h o => h.wf && (o.arith)
  | .fsub h o => h.wf && (o.arith)
  | .fmul h o => h.wf && (o.arith)
  | .ffma h o => h.wf && (o.arith && o.d.isX && !o.d.isZero)
  | .fdiv h o => h.wf && (o.arith)
  | .fsqrt h o => h.wf && (o.arith && o.b.isZero)
  | .fmin h o => h.wf && (o.d.isSDst && o.cmpLike && o.fcond == 0)
  | .fmax h o => h.wf && (o.d.isSDst && o.cmpLike && o.fcond == 0)
  | .fcmp h o => h.wf && (o.d.isP && o.cmpLike)
  | .fcvt h o => h.wf && (o.d.isSDst && o.a.isSSrc && o.b.isZero && fmtCvt o.fmt && fmtCvt o.fmt2 && o.fcond == 0 && (fmtFloat o.fmt || fmtFloat o.fmt2 || o.rnd == 0))
  | .fexp2 h o => h.wf && (o.d.isSDst && o.a.isSSrc && o.b.isZero && o.fmt == 8 && o.fmt2 == 0 && o.fcond == 0 && o.rnd == 0 && !o.sat)
  | .vadd h o => h.wf && (o.floatBin)
  | .vsub h o => h.wf && (o.floatBin)
  | .vmul h o => h.wf && (o.floatBin)
  | .vfma h o => h.wf && (o.floatBin && o.d.isV)
  | .vmin h o => h.wf && (o.d.isVDst && o.elem2 && fmtFI o.fmt && o.vimm == 0 && o.noRound)
  | .vmax h o => h.wf && (o.d.isVDst && o.elem2 && fmtFI o.fmt && o.vimm == 0 && o.noRound)
  | .vabs h o => h.wf && (o.d.isVDst && o.elem1 && fmtFI o.fmt && o.vimm == 0 && o.rnd == 0 && (fmtI o.fmt || !o.sat))
  | .vcmp h o => h.wf && (o.d.isK && o.elem2 && o.seld == 0 && o.noRound && ((fmtF o.fmt && o.vimm.toNat < 8) || (fmtI o.fmt && o.vimm.toNat < 10)))
  | .vsel h o => h.wf && (o.d.isVDst && o.elem2 && fmtW o.fmt && o.vimm == 0 && o.noRound)
  | .viadd h o => h.wf && (o.intBin)
  | .visub h o => h.wf && (o.intBin)
  | .vimul h o => h.wf && (o.intBin)
  | .vand h o => h.wf && (o.logic)
  | .vor h o => h.wf && (o.logic)
  | .vxor h o => h.wf && (o.logic)
  | .vshl h o => h.wf && (o.shift)
  | .vshr h o => h.wf && (o.shift)
  | .vsar h o => h.wf && (o.shift)
  | .vcvt h o => h.wf && (o.d.isVDst && o.a.isVSrc && o.bNone && fmtVcvt o.fmt && (o.fmt2 == 3 || o.fmt2 == 8) && o.vimm.toNat < 2 && (if o.vimm == 0 then o.seld == 0 && selOk o.fmt o.sela else o.sela == 0 && selOk o.fmt o.seld) && (fmtFloat o.fmt || fmtFloat o.fmt2 || o.rnd == 0))
  | .vquant h o => h.wf && (o.a.isVSrc && o.b.isVSSrc && o.sela == 0 && o.selb == 0 && selOk o.fmt o.seld && fmtTile o.fmt && o.fmt2 == 0 && !o.vimm.getLsbD 5 && !o.vimm.getLsbD 6 && (if o.vimm.getLsbD 7 then o.d.isV && o.d != .v ⟨(o.vimm.extractLsb' 0 5).toNat, (o.vimm.extractLsb' 0 5).isLt⟩ else o.d.isVDst && o.vimm == 0))
  | .vquantFold h o => h.wf && (o.d.isV && o.a.isVSrc && o.bNone && o.noSel && o.noRound && o.fmt == 3 && o.fmt2 == 0 && o.vimm == 0x40)
  | .vdeq h o => h.wf && (o.d.isVDst && o.a.isVSrc && o.b.isVSSrc && selOk o.fmt o.sela && o.selb == 0 && o.seld == 0 && fmtVdeq o.fmt && o.fmt2 == 0 && o.vimm == 0 && !o.sat)
  | .vexp2 h o => h.wf && (o.approx)
  | .vrcp h o => h.wf && (o.approx)
  | .vrsq h o => h.wf && (o.approx)
  | .vdot4 h o => h.wf && (o.d.isV && o.a.isVSrc && o.b.isVSrc && o.noSel && o.vimm == 0 && ((o.fmt.toNat < 2 && o.fmt2.toNat < 2 && o.rnd == 0) || ((o.fmt == 0xB || o.fmt == 0xC) && (o.fmt2 == 0xB || o.fmt2 == 0xC))))
  | .vpermB h o => h.wf && (o.permB)
  | .vpermBN h o => h.wf && (o.permB)
  | .vpermBNs h o => h.wf && (o.permB)
  | .vshuf h o => h.wf && (o.permB)
  | .vbcast h o => h.wf && (o.d.isVDst && o.a.isVSSrc && o.bNone && fmtW o.fmt && o.fmt2 == 0 && o.noRound && selOk o.fmt o.seld && selOk o.fmt o.sela && o.vimm.toNat < 32 && (!o.a.isX || (o.vimm == 0 && o.sela == 0)))
  | .vins h o => h.wf && (o.d.isV && o.a.isSSrc && o.bNone && (fmtW o.fmt || o.fmt == 4) && o.fmt2 == 0 && o.noRound && !o.men && o.msk == 0 && o.sela == 0 && selOk o.fmt o.seld && o.vimm.toNat < 32 && (o.fmt != 4 || o.vimm.toNat % 2 == 0))
  | .vext h o => h.wf && (o.d.isSDst && o.a.isVSrc && o.bNone && (fmtW o.fmt || o.fmt == 1 || o.fmt == 6 || o.fmt == 4) && o.fmt2 == 0 && o.noRound && !o.men && o.msk == 0 && o.seld == 0 && selOk o.fmt o.sela && o.vimm.toNat < 32 && (o.fmt != 4 || o.vimm.toNat % 2 == 0))
  | .vrot h o => h.wf && (o.d.isVDst && o.a.isVSrc && o.b.isSSrc && o.fmt == 3 && o.fmt2 == 0 && o.noSel && o.noRound && o.vimm.toNat < 32)
  | .vredadd h o => h.wf && (o.red && (fmtF o.fmt || o.rnd == 0))
  | .vredmax h o => h.wf && (o.red && o.noRound)
  | .vredmin h o => h.wf && (o.red && o.noRound)
  | .vargmax h o => h.wf && (o.red && o.noRound)
  | .vscan h o => h.wf && (o.scan)
  | .vscanX h o => h.wf && (o.scan)
  | .vhist h o => h.wf && (o.d.isV && o.a.isVSrc && selOk o.fmt o.sela && o.bNone && o.seld == 0 && fmtI o.fmt && o.fmt2 == 0 && o.noRound && o.vimm.toNat < 64 && o.vimm.toNat % 32 + 4 ≤ fmtWidth o.fmt)
  | .vordkey h o => h.wf && (o.keys)
  | .vunord h o => h.wf && (o.keys)
  | .vlaneid h o => h.wf && (o.d.isVDst && o.a.isZero && o.bNone && o.noSel && o.noRound && o.fmt == 3 && o.fmt2 == 0)
  | .vcount h o => h.wf && (o.d.isSDst && o.a.isVSrc && selOk o.fmt o.sela && o.bNone && o.seld == 0 && fmtI o.fmt && o.fmt2 == 0 && o.noRound && o.vimm == 0)
  | .vcompress h o => h.wf && (o.d.isVDst && o.a.isVSrc && o.bNone && o.noSel && o.noRound && o.fmt == 3 && o.fmt2 == 0 && o.vimm == 0)
  | .ld h o => h.wf && (o.base && o.size.toNat < 4 && (o.d.isX || o.d.isLq || o.d.isSq))
  | .st h o => h.wf && (o.base && o.size.toNat < 4 && (o.d.isX || o.d.isLq || o.d.isSq))
  | .ldc h o => h.wf && (o.base && o.size == 4 && o.d.isPair)
  | .stc h o => h.wf && (o.base && o.size == 4 && o.d.isPair)
  | .ldv h o => h.wf && (o.base && o.size == 5 && o.d.isVDst)
  | .stv h o => h.wf && (o.base && o.size == 5 && o.d.isVSrc)
  | .ldq h o => h.wf && (o.base && o.size == 5 && o.d.isLq)
  | .stq h o => h.wf && (o.base && o.size == 5 && o.d.isSq)
  | .ldg h o => h.wf && (o.a.isPair && o.b.isV && o.policy.toNat < 5 && o.plainOrder && (o.size == 2 || o.size == 3) && o.d.isV)
  | .stg h o => h.wf && (o.a.isPair && o.b.isV && o.policy.toNat < 5 && o.plainOrder && (o.size == 2 || o.size == 3) && o.d.isV)
  | .amoAdd h o => h.wf && (o.amo)
  | .amoAnd h o => h.wf && (o.amo)
  | .amoOr h o => h.wf && (o.amo)
  | .amoXor h o => h.wf && (o.amo)
  | .amoMin h o => h.wf && (o.amo)
  | .amoMax h o => h.wf && (o.amo)
  | .amoSwap h o => h.wf && (o.amo)
  | .amoCas h o => h.wf && (o.amo && o.d.isPair)
  | .amoFadd h o => h.wf && (o.amo)
  | .stMc h o => h.wf && (o.base && o.b.isPair && ((o.size.toNat < 4 && o.d.isSSrc) || (o.size == 5 && o.d.isVSrc)))
  | .stRedAdd h o => h.wf && (o.red)
  | .stRedMin h o => h.wf && (o.red)
  | .stRedMax h o => h.wf && (o.red)
  | .stRedFadd h o => h.wf && (o.red)
  | .pref h o => h.wf && (o.cacheOp)
  | .cinv h o => h.wf && (o.cacheOp)
  | .cwb h o => h.wf && (o.cacheOp)
  | .bgive h o => h.wf && (o.base && o.b.isSSrc && !o.dir && (o.b.isZero || o.tcore == 0))
  | .btake h o => h.wf && (o.base && o.b.isZero && !o.dir && o.noTarget)
  | .bfree h o => h.wf && (o.base && o.b.isZero && !o.dir && o.noTarget)
  | .bmap h o => h.wf && (o.base && o.b.isSSrc && !o.dir && o.noTarget)
  | .ringrot h o => h.wf && (o.base && o.b.isX && o.noTarget)
  | .bdrain h o => h.wf && (o.base && o.b.isZero && !o.dir && o.noTarget)
  | .pbegin h _ => h.wf && (h.si == 0)
  | .pcommit h o => h.wf && (o.d.isP && o.a.isSSrc && o.b.isX && o.wsel == 0 && o.tcnt == 0 && o.strm == 0)
  | .pabort h o => h.wf && (o.none3 && o.wsel == 0 && o.tcnt == 0 && o.strm == 0)
  | .pseed h o => h.wf && (o.d.isP && o.a.isSSrc && o.b.isSSrc && o.wsel == 0 && o.tcnt == 0)
  | .pseedTbl h o => h.wf && (o.d.isP && o.a.isPair && o.b.isSSrc && o.wsel == 0)
  | .pdraw h o => h.wf && (o.rd && o.wsel != 3 && o.tcnt == 0 && o.strm == 0)
  | .pstat h o => h.wf && (o.rd && o.wsel != 3 && o.tcnt == 0)
  | .pstatE h o => h.wf && (o.rd && o.wsel == 0 && o.tcnt.toNat < 64)
  | .mlds h o => h.wf && (o.mat && o.a.isGroup 4 && fmtMat o.fmt && o.mp == 0 && o.dim == 0)
  | .mswp h o => h.wf && (o.mat && o.bare && o.d.isZero && o.fmt == 0 && o.mp == 0)
  | .mstream h o => h.wf && (o.mat && o.a.isGroup 4 && fmtMat o.fmt && o.dim == 0)
  | .mzero h o => h.wf && (o.mat && o.bare && o.d.isZero && o.fmt == 0)
  | .mdrain h o => h.wf && (o.mat && o.a.isGroup 4 && (o.fmt == 3 || o.fmt == 8 || o.fmt == 9 || o.fmt == 0xA) && o.dim == 0)
  | .mgang h o => h.wf && (o.mat && o.bare && o.fmt == 0 && o.mp == 0)
  | .mfwd h o => h.wf && (o.mat && o.bare && fmtMat o.fmt)
  | .msave h o => h.wf && (o.mat && o.a.isGroup 4 && o.fmt == 0 && o.dim == 0)
  | .msaveSt h o => h.wf && (o.mat && o.a.isGroup 4 && o.fmt == 0 && o.dim == 1)
  | .mrest h o => h.wf && (o.mat && o.a.isGroup 4 && o.fmt == 0 && o.dim.toNat < 2)
  | .cpy h o => h.wf && (o.copyGroup && o.cpyMode && o.mp == 0)
  | .cpwp h o => h.wf && (o.d.isSDst && o.a.isZero && o.b.isZero && o.noFlags && o.dim == 0 && o.mp == 0 && !o.acq && !o.rel)
  | .cps h o => h.wf && (o.copyGroup && !o.enc && !o.dec && o.dim == 0 && o.fmt == 0 && o.fmt2 == 0 && o.mp == 0)
  | .cpsw h o => h.wf && (o.copyGroup && !o.enc && !o.dec && o.dim == 0 && o.fmt == 0 && o.fmt2 == 0 && o.mp == 0)
  | .cpm h o => h.wf && (o.copyGroup && o.noFlags && o.dim == 0 && o.fmt == 0 && o.fmt2 == 0 && o.mp == 0 && !o.acq && !o.rel)
  | .cpmFin h o => h.wf && (o.copyGroup && o.noFlags && o.dim == 0 && o.fmt == 0 && o.fmt2 == 0 && o.mp == 0 && !o.acq && !o.rel)
  | .send h o => h.wf && (o.d.isP && o.a.isVSrc && o.b.isSSrc && o.idx == 0 && o.noFmt)
  | .recv h o => h.wf && (o.d.isVDst && o.a.isZero && o.b.isZero && o.idx == 0 && o.noFmt)
  | .recvT h o => h.wf && (o.d.isVDst && o.a.isZero && o.b.isZero && o.idx == 0 && o.noFmt)
  | .xphase h o => h.wf && (o.d.isSDst && o.a.isZero && o.b.isX && o.idx != 0 && o.noFmt)
  | .xmit h o => h.wf && (o.d.isZero && o.a.isVSrc && o.b.isZero && o.noFmt)
  | .xsel h o => h.wf && (o.d.isVDst && o.a.isZero && o.b.isSSrc && o.noFmt)
  | .cred h o => h.wf && (o.coll && o.fmt.toNat ∈ [0x3, 0x4, 0x7, 0x8, 0x9] && o.opr.toNat ≤ 2)
  | .cbc h o => h.wf && (o.coll && o.fmt.toNat ∈ [0x0, 0x3, 0x4, 0x7, 0x8, 0x9] && o.opr == 0)
  | .cag h o => h.wf && (o.coll && o.fmt.toNat ∈ [0x0, 0x3, 0x4, 0x7, 0x8, 0x9] && o.opr == 0)
  | .launch h o => h.wf && (o.d.isSDst && o.a.isPair && o.b.isZero && o.noSub && o.noSel && o.noImm)
  | .tpsh h o => h.wf && (o.d.isP && o.a.isPair && o.b.isSSrc && o.noSub && o.sel.toNat < 8 && o.noImm)
  | .tpop h o => h.wf && (o.d.isP && o.a.isPair && o.b.isZero && o.noSub && o.noSel && o.noImm)
  | .tdecl h o => h.wf && (o.d.isZero && o.a.isSSrc && o.b.isSSrc && o.sub.toNat < 2 && o.noSel && o.noImm)
  | .qprio h o => h.wf && (o.d.isP && o.a.isSSrc && o.b.isZero && o.noSub && o.sel.toNat < 8 && o.imm.toNat < 24)
  | .wid h o => h.wf && (o.d.isSDst && o.a.isZero && o.b.isZero && o.noSub && o.sel.toNat < 6 && o.noImm)
  | .widSet h o => h.wf && (o.d.isSDst && o.a.isSSrc && o.b.isSSrc && o.noSub && o.sel.toNat < 6 && o.noImm)
  | .twget h o => h.wf && (o.d.isSDst && o.a.isZero && o.b.isZero && o.noSub && o.sel.toNat < 4 && o.imm.toNat < 8)
  | .twadv h o => h.wf && (o.d.isP && o.a.isSSrc && o.b.isZero && o.noSub && o.sel.toNat < 4 && o.noImm)
  | .twput h o => h.wf && (o.d.isP && o.a.isSSrc && o.b.isZero && o.noSub && o.sel.toNat < 4 && o.imm.toNat < 5)
  | .tlbwInstall h o => h.wf && (o.tlbw && o.noImm)
  | .tlbwUpcall h o => h.wf && (o.tlbw && o.cause)
  | .tlbwTrap h o => h.wf && (o.tlbw && o.cause)
  | .tlbwFail h o => h.wf && (o.tlbw && o.noImm)
  | .tlbiPage h o => h.wf && (o.d.isZero && o.a.isPair && o.b.isX && o.noSub && o.noSel && o.noImm)
  | .tlbiDomain h o => h.wf && (o.d.isZero && o.a.isPair && o.b.isX && o.noSub && o.noSel && o.noImm)
  | .tlbiAll h o => h.wf && (o.d.isZero && o.a.isZero && o.b.isX && o.noSub && o.noSel && o.noImm)
  | .fnote h o => h.wf && (o.d.isZero && o.a.isPair && o.b.isZero && o.noSub && o.noSel && o.noImm)
  | .rtab h o => h.wf && (o.d.isZero && o.a.isSSrc && o.b.isZero && o.noSub && o.sel.toNat < 3 && o.imm.toNat < 48)
  | .rtabRd h o => h.wf && (o.d.isSDst && o.a.isZero && o.b.isZero && o.noSub && o.sel.toNat < 3 && o.imm.toNat < 48)
  | .reset => true
  | .firmwareLoad => true
  | .functionReady => true
  | .performStore => true
  | .readHome => true
  | .readCopy => true
  | .forward => true
  | .atomic => true
  | .deliver => true
  | .drop => true
  | .sliceFill => true
  | .writeBack => true
  | .directoryReply => true
  | .missReply => true
  | .messageArrival => true
  | .semSigArrival => true
  | .engineCommandCompletion => true
  | .bgiveDrainComplete => true
  | .bfreeDrainComplete => true
  | .bankZeroingComplete => true
  | .ringrotBarrierComplete => true
  | .ringrotDrainComplete => true
  | .distributorSelect => true
  | .headAging => true
  | .rebalance => true
  | .preemptionRequest => true
  | .forcedSave => true
  | .saveWriteOut => true
  | .taskEnd => true
  | .launchStatusWrite => true
  | .stage0Enqueue => true
  | .gangAcknowledge => true
  | .gangStart => true
  | .gangCancelBeforeTick => true
  | .gangCancelAfterTick => true
  | .fallbackReport => true
  | .timeWindowTick => true
  | .heneriFrame => true
  | .ptpSync => true
  | .lockLossTimeout => true
  | .ticketResolve => true
  | .sstepMerge => true
  | .superstepRollback => true
  | .barPass => true
  | .jointRowFormed => true
  | .collectiveAllArrived => true
  | .budgetExpiry => true
  | .sequencerFault => true
  | .thermalStop => true
  | .healthWindowEnd => true
  | .bubble => true
  | .linkWrite => true
  | .linkRead => true
  | .flitRetry => true
  | .laneLoss => true
  | .writePeerTableEntry => true
  | .writeCollectiveGroup => true
  | .writeStorageHandle => true
  | .writeHomeRangeEntry => true
  | .writeFormatWindow => true
  | .rakeStop => true
  | .releaseStoppedCores => true
  | .moveToPartition => true
  | .setQueuePool => true
  | .readStatus => true
  | .attestationReport => true
  | .gangOffer => true
  | .qprioChangeArrival => true
  | .semSigCheckReturn => true
  | .unassignedOpcode w => !opAssigned (w.extractLsb' 86 10).toNat
  | .unknownOpRequest => true
  | .bringupEnd => true

end Sys2Proof
end

