-- ==== Sys2Proof/Decode.lean ====
section
/-! DEFINITION. The decoder of instruction words (R228, R236, R239, R246, R249), total on any 96-bit word, and after it
the encoder written from the same tables. Numbers the tables leave unassigned, reserved or nonzero unused fields and
refused operand classes decode to no instruction (R250). -/

namespace Sys2Proof

/-! ## Fields of the word (R236) -/

def fOp (w : BitVec 96) : BitVec 10 := w.extractLsb' 86 10
def fD (w : BitVec 96) : BitVec 7 := w.extractLsb' 75 7
def fA (w : BitVec 96) : BitVec 7 := w.extractLsb' 68 7
def fB (w : BitVec 96) : BitVec 7 := w.extractLsb' 61 7
def fX (w : BitVec 96) : BitVec 32 := w.extractLsb' 0 32

def fHdr (w : BitVec 96) : Hdr where
  gn := w.getLsbD 85
  gp := (w.extractLsb' 82 3).toFin
  ws := w.extractLsb' 53 8
  wt := w.extractLsb' 47 6
  ss := w.extractLsb' 39 8
  si := w.extractLsb' 35 4
  la := w.getLsbD 34
  lb := w.getLsbD 33
  pr := w.getLsbD 32

/-- The operand a 7-bit number names (R239); 102, 103 and 120-127 are reserved. -/
def decOperand (n : BitVec 7) : Option Operand :=
  let k := n.toNat
  if h : k < 64 then some (.x ⟨k, h⟩)
  else if h : k - 64 < 32 then some (.v ⟨k - 64, h⟩)
  else if h : k - 96 < 4 then some (.lq ⟨k - 96, h⟩)
  else if h : k - 100 < 2 then some (.sq ⟨k - 100, h⟩)
  else if k < 104 then none
  else if h : k - 104 < 8 then some (.p ⟨k - 104, h⟩)
  else if h : k - 112 < 8 then some (.k ⟨k - 112, h⟩)
  else none

/-- The 7-bit number of an operand (R239). -/
def encOperand : Operand → BitVec 7
  | .x n => BitVec.ofNat 7 n.val
  | .v n => BitVec.ofNat 7 (64 + n.val)
  | .lq n => BitVec.ofNat 7 (96 + n.val)
  | .sq n => BitVec.ofNat 7 (100 + n.val)
  | .p n => BitVec.ofNat 7 (104 + n.val)
  | .k n => BitVec.ofNat 7 (112 + n.val)

/-! ## Formats (R246): each reader refuses nonzero fields that the format fixes at zero -/

def isN (w : BitVec 96) : Bool := fD w == 0 && fA w == 0 && fB w == 0 && fX w == 0

def rdRR (w : BitVec 96) : Option FmtRR :=
  match decOperand (fD w), decOperand (fA w), decOperand (fB w) with
  | some d, some a, some b =>
    if (fX w).extractLsb' 3 29 == 0 then some { d, a, b, psel := (fX w).extractLsb' 0 3 } else none
  | _, _, _ => none

def rdI (w : BitVec 96) : Option FmtI :=
  match decOperand (fD w), decOperand (fA w) with
  | some d, some a => if fB w == 0 then some { d, a, imm := fX w } else none
  | _, _ => none

def rdC (w : BitVec 96) : Option FmtC :=
  match decOperand (fD w), decOperand (fA w), decOperand (fB w) with
  | some d, some a, some b =>
    if (fX w).extractLsb' 4 28 == 0 then some { d, a, b, cond := (fX w).extractLsb' 0 4 } else none
  | _, _, _ => none

def rdCI (w : BitVec 96) : Option FmtCI :=
  match decOperand (fD w), decOperand (fA w) with
  | some d, some a =>
    if fB w == 0 && (fX w).extractLsb' 4 4 == 0 then
      some { d, a, imm := (fX w).extractLsb' 8 24, cond := (fX w).extractLsb' 0 4 }
    else none
  | _, _ => none

def rdBF (w : BitVec 96) : Option FmtBF :=
  match decOperand (fD w), decOperand (fA w), decOperand (fB w) with
  | some d, some a, some b =>
    if (fX w).extractLsb' 13 19 == 0 then
      some { d, a, b, len := (fX w).extractLsb' 6 7, pos := (fX w).extractLsb' 0 6 }
    else none
  | _, _, _ => none

def rdJ (w : BitVec 96) : Option FmtJ :=
  match decOperand (fD w) with
  | some d => if fA w == 0 && fB w == 0 then some { d, off := fX w } else none
  | none => none

def rdCR (w : BitVec 96) : Option FmtCR :=
  match decOperand (fD w), decOperand (fA w), decOperand (fB w) with
  | some d, some a, some b => if fX w == 0 then some { d, a, b } else none
  | _, _, _ => none

def rdFK (w : BitVec 96) : Option FmtFK :=
  if fD w == 0 && fA w == 0 && fB w == 0 then
    some { coff := (fX w).extractLsb' 16 16, moff := (fX w).extractLsb' 0 16 }
  else none

def rdS (w : BitVec 96) : Option FmtS :=
  match decOperand (fD w), decOperand (fA w) with
  | some d, some a =>
    if fB w == 0 && (fX w).extractLsb' 24 8 == 0 then
      some { d, a, imm := (fX w).extractLsb' 8 16, sem := (fX w).extractLsb' 0 8 }
    else none
  | _, _ => none

def rdSYS (w : BitVec 96) : Option FmtSYS :=
  match decOperand (fD w), decOperand (fA w) with
  | some d, some a =>
    if fB w == 0 && (fX w).extractLsb' 12 20 == 0 then some { d, a, spr := (fX w).extractLsb' 0 12 } else none
  | _, _ => none

/-- Format SC for one KIND. -/
def rdSC (kind : BitVec 2) (w : BitVec 96) : Option FmtSC :=
  match decOperand (fB w) with
  | some b =>
    if fD w == 0 && fA w == 0 && (fX w).extractLsb' 2 30 == 0 && (fX w).extractLsb' 0 2 == kind then some { b } else none
  | none => none

def rdCAP (w : BitVec 96) : Option FmtCAP :=
  match decOperand (fD w), decOperand (fA w), decOperand (fB w) with
  | some d, some a, some b =>
    if (fX w).extractLsb' 20 12 == 0 then
      some { d, a, b, sealTy := (fX w).extractLsb' 16 4, sel := (fX w).extractLsb' 12 4, perm := (fX w).extractLsb' 0 12 }
    else none
  | _, _, _ => none

def rdF (w : BitVec 96) : Option FmtF :=
  match decOperand (fD w), decOperand (fA w), decOperand (fB w) with
  | some d, some a, some b =>
    if (fX w).extractLsb' 15 17 == 0 && (fX w).extractLsb' 7 1 == 0 then
      some { d, a, b, fcond := (fX w).extractLsb' 12 3, fmt2 := (fX w).extractLsb' 8 4, sat := (fX w).getLsbD 6,
             rnd := (fX w).extractLsb' 4 2, fmt := (fX w).extractLsb' 0 4 }
    else none
  | _, _, _ => none

def rdV (w : BitVec 96) : Option FmtV :=
  match decOperand (fD w), decOperand (fA w), decOperand (fB w) with
  | some d, some a, some b =>
    some { d, a, b, vimm := (fX w).extractLsb' 24 8, fmt2 := (fX w).extractLsb' 20 4, seld := (fX w).extractLsb' 17 3,
           selb := (fX w).extractLsb' 14 3, sela := (fX w).extractLsb' 11 3, msk := ((fX w).extractLsb' 8 3).toFin,
           men := (fX w).getLsbD 7, sat := (fX w).getLsbD 6, rnd := (fX w).extractLsb' 4 2,
           fmt := (fX w).extractLsb' 0 4 }
  | _, _, _ => none

def rdM (w : BitVec 96) : Option FmtM :=
  match decOperand (fD w), decOperand (fA w), decOperand (fB w) with
  | some d, some a, some b =>
    some { d, a, b, order := (fX w).extractLsb' 30 2, policy := (fX w).extractLsb' 27 3, size := (fX w).extractLsb' 24 3,
           offset := (fX w).extractLsb' 0 24 }
  | _, _, _ => none

def rdK (w : BitVec 96) : Option FmtK :=
  match decOperand (fD w), decOperand (fA w), decOperand (fB w) with
  | some d, some a, some b =>
    if (fX w).extractLsb' 26 6 == 0 then
      some { d, a, b, dir := (fX w).getLsbD 25, tsem := (fX w).extractLsb' 17 8, tcore := (fX w).extractLsb' 8 9,
             tslot := (fX w).extractLsb' 4 4, slot := (fX w).extractLsb' 0 4 }
    else none
  | _, _, _ => none

def rdPB (w : BitVec 96) : Option FmtPB :=
  if fD w == 0 && fA w == 0 && fB w == 0 && (fX w).extractLsb' 4 4 == 0 then
    some { foff := (fX w).extractLsb' 8 24, strm := (fX w).extractLsb' 0 4 }
  else none

/-- Format P for one value of TBL. -/
def rdP (tbl : Bool) (w : BitVec 96) : Option FmtP :=
  match decOperand (fD w), decOperand (fA w), decOperand (fB w) with
  | some d, some a, some b =>
    if (fX w).extractLsb' 14 18 == 0 && (fX w).getLsbD 4 == tbl then
      some { d, a, b, wsel := (fX w).extractLsb' 12 2, tcnt := (fX w).extractLsb' 5 7, strm := (fX w).extractLsb' 0 4 }
    else none
  | _, _, _ => none

def rdE (w : BitVec 96) : Option FmtE :=
  match decOperand (fD w), decOperand (fA w), decOperand (fB w) with
  | some d, some a, some b =>
    if (fX w).extractLsb' 19 13 == 0 then
      some { d, a, b, chk := (fX w).getLsbD 18, dec := (fX w).getLsbD 17, enc := (fX w).getLsbD 16,
             dim := (fX w).extractLsb' 14 2, fmt2 := (fX w).extractLsb' 10 4, fmt := (fX w).extractLsb' 6 4,
             mp := (fX w).extractLsb' 4 2, ch := (fX w).extractLsb' 2 2, rel := (fX w).getLsbD 1, acq := (fX w).getLsbD 0 }
    else none
  | _, _, _ => none

def rdXC (w : BitVec 96) : Option FmtXC :=
  match decOperand (fD w), decOperand (fA w), decOperand (fB w) with
  | some d, some a, some b =>
    if (fX w).extractLsb' 20 12 == 0 && (fX w).extractLsb' 4 4 == 0 then
      some { d, a, b, idx := (fX w).extractLsb' 12 8, opr := (fX w).extractLsb' 8 4, fmt := (fX w).extractLsb' 0 4 }
    else none
  | _, _, _ => none

def rdT (w : BitVec 96) : Option FmtT :=
  match decOperand (fD w), decOperand (fA w), decOperand (fB w) with
  | some d, some a, some b =>
    if (fX w).extractLsb' 16 16 == 0 then
      some { d, a, b, imm := (fX w).extractLsb' 8 8, sub := (fX w).extractLsb' 4 4, sel := (fX w).extractLsb' 0 4 }
    else none
  | _, _, _ => none

/-! Readers that keep the fields a variant row fixes out of the syntax: the field must hold the row's value and is
stored as zero. -/

/-- Format XC for one value of OPR. -/
def rdXCOpr (opr : BitVec 4) (w : BitVec 96) : Option FmtXC :=
  match rdXC w with
  | some o => if o.opr == opr then some { o with opr := 0 } else none
  | none => none

/-- Format T for one value of SUB. -/
def rdTSub (sub : BitVec 4) (w : BitVec 96) : Option FmtT :=
  match rdT w with
  | some o => if o.sub == sub then some { o with sub := 0 } else none
  | none => none

/-- Format CAP for one value of SEL. -/
def rdCAPSel (sel : BitVec 4) (w : BitVec 96) : Option FmtCAP :=
  match rdCAP w with
  | some o => if o.sel == sel then some { o with sel := 0 } else none
  | none => none

/-- Format V for one value of VIMM. -/
def rdVImm (vimm : BitVec 8) (w : BitVec 96) : Option FmtV :=
  match rdV w with
  | some o => if o.vimm == vimm then some { o with vimm := 0 } else none
  | none => none

/-! ## The opcode map (R249) -/

/-- Group 0x0, control and system (R249), by index. -/
def decControl (ix : Nat) (w : BitVec 96) : Option Instr :=
  match ix with
  | 1 => if isN w then some (.nop (fHdr w)) else none
  | 2 => (rdCR w).map (.br (fHdr w))
  | 3 => (rdJ w).map (.bri (fHdr w))
  | 4 => (rdJ w).map (.call (fHdr w))
  | 5 => (rdCR w).map (.ret (fHdr w))
  | 6 => (rdJ w).map (.loop (fHdr w))
  | 7 => if isN w then some (.halt (fHdr w)) else none
  | 8 => if isN w then some (.exit (fHdr w)) else none
  | 9 => (rdJ w).map (.start (fHdr w))
  | 10 => (rdFK w).map (.fork (fHdr w))
  | 11 => if isN w then some (.join (fHdr w)) else none
  | 12 => (rdCR w).map (.yield (fHdr w))
  | 13 => (rdI w).map (.trap (fHdr w))
  | 14 => (rdCR w).map (.sysc (fHdr w))
  | 15 => if isN w then some (.rfu (fHdr w)) else none
  | 16 => if isN w then some (.rfe (fHdr w)) else none
  | 17 => (rdS w).map (.semSet (fHdr w))
  | 18 => (rdS w).map (.semAdd (fHdr w))
  | 19 => (rdS w).map (.semSig (fHdr w))
  | 20 => (rdS w).map (.semRd (fHdr w))
  | 21 => (rdSYS w).map (.mfs (fHdr w))
  | 22 => (rdSYS w).map fun o =>
      if o.spr == 0x050 then .prgnWrite (fHdr w) o
      else if o.spr == 0x098 then .svcrReadyWrite (fHdr w) o
      else if o.spr == 0x088 || o.spr == 0x089 then .mqoWrite (fHdr w) o
      else .mts (fHdr w) o
  | 23 => (rdSC 0 w).map (.bar (fHdr w))
  | 24 => if isN w then some (.gang (fHdr w)) else none
  | 25 => (rdM w).map (.wmon (fHdr w))
  | 26 => (rdRR w).map (.dtime (fHdr w))
  | 27 => (rdS w).map (.budget (fHdr w))
  | 28 => (rdSC 0 w).map (.sstep (fHdr w))
  | 29 => ((rdSC 0 w).map (Instr.fenceLl (fHdr w))) <|>
      ((rdSC 1 w).map (Instr.fenceSs (fHdr w))) <|>
      ((rdSC 2 w).map (Instr.fenceFull (fHdr w))) <|>
      ((rdSC 3 w).map (Instr.fenceEng (fHdr w)))
  | _ => none

/-- Group 0x1, integer (R249), by index. -/
def decInteger (ix : Nat) (w : BitVec 96) : Option Instr :=
  match ix with
  | 0 => (rdRR w).map (.add (fHdr w))
  | 1 => (rdRR w).map (.sub (fHdr w))
  | 2 => (rdI w).map (.addi (fHdr w))
  | 3 => (rdRR w).map (.mul (fHdr w))
  | 4 => (rdRR w).map (.mulh (fHdr w))
  | 5 => (rdRR w).map (.mulhu (fHdr w))
  | 6 => (rdRR w).map (.div (fHdr w))
  | 7 => (rdRR w).map (.divu (fHdr w))
  | 8 => (rdRR w).map (.rem (fHdr w))
  | 9 => (rdRR w).map (.remu (fHdr w))
  | 10 => (rdRR w).map (.and (fHdr w))
  | 11 => (rdRR w).map (.or (fHdr w))
  | 12 => (rdRR w).map (.xor (fHdr w))
  | 13 => (rdRR w).map (.andn (fHdr w))
  | 14 => (rdRR w).map (.shl (fHdr w))
  | 15 => (rdRR w).map (.shr (fHdr w))
  | 16 => (rdRR w).map (.sar (fHdr w))
  | 17 => (rdRR w).map (.rol (fHdr w))
  | 18 => (rdI w).map (.shlI (fHdr w))
  | 19 => (rdI w).map (.shrI (fHdr w))
  | 20 => (rdI w).map (.sarI (fHdr w))
  | 21 => (rdI w).map (.rolI (fHdr w))
  | 22 => (rdRR w).map (.clz (fHdr w))
  | 23 => (rdRR w).map (.ctz (fHdr w))
  | 24 => (rdRR w).map (.popc (fHdr w))
  | 25 => (rdRR w).map (.min (fHdr w))
  | 26 => (rdRR w).map (.max (fHdr w))
  | 27 => (rdRR w).map (.minu (fHdr w))
  | 28 => (rdRR w).map (.maxu (fHdr w))
  | 29 => (rdC w).map (.cmp (fHdr w))
  | 30 => (rdCI w).map (.cmpi (fHdr w))
  | 31 => (rdRR w).map (.sel (fHdr w))
  | 32 => (rdI w).map (.movi (fHdr w))
  | 33 => (rdI w).map (.movhi (fHdr w))
  | 34 => (rdRR w).map (.mov (fHdr w))
  | 35 => (rdBF w).map (.bfx (fHdr w))
  | 36 => (rdBF w).map (.bfi (fHdr w))
  | 37 => (rdRR w).map (.pand (fHdr w))
  | 38 => (rdRR w).map (.por (fHdr w))
  | 39 => (rdRR w).map (.pnot (fHdr w))
  | _ => none

/-- Group 0x2, capability (R249), by index. -/
def decCap (ix : Nat) (w : BitVec 96) : Option Instr :=
  match ix with
  | 0 => (rdCAP w).map (.cset (fHdr w))
  | 1 => (rdCAP w).map (.cinc (fHdr w))
  | 2 => ((rdCAPSel 0 w).map (Instr.cbnd (fHdr w))) <|>
      ((rdCAPSel 1 w).map (Instr.cbndX (fHdr w)))
  | 3 => (rdCAP w).map (.cperm (fHdr w))
  | 4 => (rdCAP w).map (.cseal (fHdr w))
  | 5 => (rdCAP w).map (.cget (fHdr w))
  | 6 => (rdCAP w).map (.ctag (fHdr w))
  | 7 => (rdCAP w).map (.cclr (fHdr w))
  | _ => none

/-- Group 0x3, scalar FP and conversion (R249), by index. -/
def decFp (ix : Nat) (w : BitVec 96) : Option Instr :=
  match ix with
  | 0 => (rdF w).map (.fadd (fHdr w))
  | 1 => (rdF w).map (.fsub (fHdr w))
  | 2 => (rdF w).map (.fmul (fHdr w))
  | 3 => (rdF w).map (.ffma (fHdr w))
  | 4 => (rdF w).map (.fdiv (fHdr w))
  | 5 => (rdF w).map (.fsqrt (fHdr w))
  | 6 => (rdF w).map (.fmin (fHdr w))
  | 7 => (rdF w).map (.fmax (fHdr w))
  | 8 => (rdF w).map (.fcmp (fHdr w))
  | 9 => (rdF w).map (.fcvt (fHdr w))
  | 10 => (rdF w).map (.fexp2 (fHdr w))
  | _ => none

/-- Group 0x4, vector arithmetic (R249), by index. -/
def decVec (ix : Nat) (w : BitVec 96) : Option Instr :=
  match ix with
  | 0 => (rdV w).map (.vadd (fHdr w))
  | 1 => (rdV w).map (.vsub (fHdr w))
  | 2 => (rdV w).map (.vmul (fHdr w))
  | 3 => (rdV w).map (.vfma (fHdr w))
  | 4 => (rdV w).map (.vmin (fHdr w))
  | 5 => (rdV w).map (.vmax (fHdr w))
  | 6 => (rdV w).map (.vabs (fHdr w))
  | 7 => (rdV w).map (.vcmp (fHdr w))
  | 8 => (rdV w).map (.vsel (fHdr w))
  | 9 => (rdV w).map (.viadd (fHdr w))
  | 10 => (rdV w).map (.visub (fHdr w))
  | 11 => (rdV w).map (.vimul (fHdr w))
  | 12 => (rdV w).map (.vand (fHdr w))
  | 13 => (rdV w).map (.vor (fHdr w))
  | 14 => (rdV w).map (.vxor (fHdr w))
  | 15 => (rdV w).map (.vshl (fHdr w))
  | 16 => (rdV w).map (.vshr (fHdr w))
  | 17 => (rdV w).map (.vsar (fHdr w))
  | 18 => (rdV w).map (.vcvt (fHdr w))
  | 19 => (rdV w).map fun o => if o.vimm.getLsbD 6 then .vquantFold (fHdr w) o else .vquant (fHdr w) o
  | 20 => (rdV w).map (.vdeq (fHdr w))
  | 21 => (rdV w).map (.vexp2 (fHdr w))
  | 22 => (rdV w).map (.vrcp (fHdr w))
  | 23 => (rdV w).map (.vrsq (fHdr w))
  | 24 => (rdV w).map (.vdot4 (fHdr w))
  | _ => none

/-- Group 0x5, vector permute, reduce and special (R249), by index. -/
def decPerm (ix : Nat) (w : BitVec 96) : Option Instr :=
  match ix with
  | 0 => ((rdVImm 0 w).map (Instr.vpermB (fHdr w))) <|>
      ((rdVImm 1 w).map (Instr.vpermBN (fHdr w))) <|>
      ((rdVImm 3 w).map (Instr.vpermBNs (fHdr w)))
  | 1 => (rdV w).map (.vshuf (fHdr w))
  | 2 => (rdV w).map (.vbcast (fHdr w))
  | 3 => (rdV w).map (.vins (fHdr w))
  | 4 => (rdV w).map (.vext (fHdr w))
  | 5 => (rdV w).map (.vrot (fHdr w))
  | 6 => (rdV w).map (.vredadd (fHdr w))
  | 7 => (rdV w).map (.vredmax (fHdr w))
  | 8 => (rdV w).map (.vredmin (fHdr w))
  | 9 => (rdV w).map (.vargmax (fHdr w))
  | 10 => ((rdVImm 0 w).map (Instr.vscan (fHdr w))) <|>
      ((rdVImm 1 w).map (Instr.vscanX (fHdr w)))
  | 11 => (rdV w).map (.vhist (fHdr w))
  | 12 => (rdV w).map (.vordkey (fHdr w))
  | 13 => (rdV w).map (.vunord (fHdr w))
  | 14 => (rdV w).map (.vlaneid (fHdr w))
  | 15 => (rdV w).map (.vcount (fHdr w))
  | 16 => (rdV w).map (.vcompress (fHdr w))
  | _ => none

/-- Group 0x6, memory and atomics (R249), by index. -/
def decMem (ix : Nat) (w : BitVec 96) : Option Instr :=
  match ix with
  | 0 => (rdM w).map (.ld (fHdr w))
  | 1 => (rdM w).map (.st (fHdr w))
  | 2 => (rdM w).map (.ldc (fHdr w))
  | 3 => (rdM w).map (.stc (fHdr w))
  | 4 => (rdM w).map (.ldv (fHdr w))
  | 5 => (rdM w).map (.stv (fHdr w))
  | 6 => (rdM w).map (.ldq (fHdr w))
  | 7 => (rdM w).map (.stq (fHdr w))
  | 8 => (rdM w).map (.ldg (fHdr w))
  | 9 => (rdM w).map (.stg (fHdr w))
  | 10 => (rdM w).map (.amoAdd (fHdr w))
  | 11 => (rdM w).map (.amoAnd (fHdr w))
  | 12 => (rdM w).map (.amoOr (fHdr w))
  | 13 => (rdM w).map (.amoXor (fHdr w))
  | 14 => (rdM w).map (.amoMin (fHdr w))
  | 15 => (rdM w).map (.amoMax (fHdr w))
  | 16 => (rdM w).map (.amoSwap (fHdr w))
  | 17 => (rdM w).map (.amoCas (fHdr w))
  | 18 => (rdM w).map (.amoFadd (fHdr w))
  | 19 => (rdM w).map (.stMc (fHdr w))
  | 20 => (rdM w).map (.stRedAdd (fHdr w))
  | 21 => (rdM w).map (.stRedMin (fHdr w))
  | 22 => (rdM w).map (.stRedMax (fHdr w))
  | 23 => (rdM w).map (.stRedFadd (fHdr w))
  | 24 => (rdM w).map (.pref (fHdr w))
  | 25 => (rdM w).map (.cinv (fHdr w))
  | 26 => (rdM w).map (.cwb (fHdr w))
  | _ => none

/-- Group 0x7, banks and proposals (R249), by index. -/
def decBank (ix : Nat) (w : BitVec 96) : Option Instr :=
  match ix with
  | 0 => (rdK w).map (.bgive (fHdr w))
  | 1 => (rdK w).map (.btake (fHdr w))
  | 2 => (rdK w).map (.bfree (fHdr w))
  | 3 => (rdK w).map (.bmap (fHdr w))
  | 4 => (rdK w).map (.ringrot (fHdr w))
  | 5 => (rdK w).map (.bdrain (fHdr w))
  | 6 => (rdPB w).map (.pbegin (fHdr w))
  | 7 => (rdP false w).map (.pcommit (fHdr w))
  | 8 => (rdP false w).map (.pabort (fHdr w))
  | 9 => ((rdP false w).map (Instr.pseed (fHdr w))) <|>
      ((rdP true w).map (Instr.pseedTbl (fHdr w)))
  | 10 => (rdP false w).map (.pdraw (fHdr w))
  | 11 => ((rdP false w).map (Instr.pstat (fHdr w))) <|>
      ((rdP true w).map (Instr.pstatE (fHdr w)))
  | _ => none

/-- Group 0x8, matrix engine (R249), by index. -/
def decMatrix (ix : Nat) (w : BitVec 96) : Option Instr :=
  match ix with
  | 0 => (rdE w).map (.mlds (fHdr w))
  | 1 => (rdE w).map (.mswp (fHdr w))
  | 2 => (rdE w).map (.mstream (fHdr w))
  | 3 => (rdE w).map (.mzero (fHdr w))
  | 4 => (rdE w).map (.mdrain (fHdr w))
  | 5 => (rdE w).map (.mgang (fHdr w))
  | 6 => (rdE w).map (.mfwd (fHdr w))
  | 7 => (rdE w).map fun o => if o.dim == 0 then .msave (fHdr w) o else .msaveSt (fHdr w) o
  | 8 => (rdE w).map (.mrest (fHdr w))
  | _ => none

/-- Group 0x9, copy engine and storage (R249), by index. -/
def decCopy (ix : Nat) (w : BitVec 96) : Option Instr :=
  match ix with
  | 0 => (rdE w).map (.cpy (fHdr w))
  | 1 => (rdE w).map (.cpwp (fHdr w))
  | 2 => (rdE w).map (.cps (fHdr w))
  | 3 => (rdE w).map (.cpsw (fHdr w))
  | 4 => (rdE w).map (.cpm (fHdr w))
  | 5 => (rdE w).map (.cpmFin (fHdr w))
  | _ => none

/-- Group 0xA, collectives, exchange and messages (R249), by index. -/
def decExch (ix : Nat) (w : BitVec 96) : Option Instr :=
  match ix with
  | 0 => (rdXC w).map (.send (fHdr w))
  | 1 => ((rdXCOpr 0 w).map (Instr.recv (fHdr w))) <|>
      ((rdXCOpr 1 w).map (Instr.recvT (fHdr w)))
  | 2 => (rdXC w).map (.xphase (fHdr w))
  | 3 => (rdXC w).map (.xmit (fHdr w))
  | 4 => (rdXC w).map (.xsel (fHdr w))
  | 5 => (rdXC w).map (.cred (fHdr w))
  | 6 => (rdXC w).map (.cbc (fHdr w))
  | 7 => (rdXC w).map (.cag (fHdr w))
  | _ => none

/-- Group 0xB, tasks, time and translation service (R249), by index. -/
def decTask (ix : Nat) (w : BitVec 96) : Option Instr :=
  match ix with
  | 0 => (rdT w).map (.launch (fHdr w))
  | 1 => (rdT w).map (.tpsh (fHdr w))
  | 2 => (rdT w).map (.tpop (fHdr w))
  | 3 => (rdT w).map (.tdecl (fHdr w))
  | 4 => (rdT w).map (.qprio (fHdr w))
  | 5 => ((rdTSub 0 w).map (Instr.wid (fHdr w))) <|>
      ((rdTSub 1 w).map (Instr.widSet (fHdr w)))
  | 6 => (rdT w).map (.twget (fHdr w))
  | 7 => (rdT w).map (.twadv (fHdr w))
  | 8 => (rdT w).map (.twput (fHdr w))
  | 9 => ((rdTSub 0 w).map (Instr.tlbwInstall (fHdr w))) <|>
      ((rdTSub 1 w).map (Instr.tlbwUpcall (fHdr w))) <|>
      ((rdTSub 2 w).map (Instr.tlbwTrap (fHdr w))) <|>
      ((rdTSub 3 w).map (Instr.tlbwFail (fHdr w)))
  | 10 => ((rdTSub 0 w).map (Instr.tlbiPage (fHdr w))) <|>
      ((rdTSub 1 w).map (Instr.tlbiDomain (fHdr w))) <|>
      ((rdTSub 2 w).map (Instr.tlbiAll (fHdr w)))
  | 11 => (rdT w).map (.fnote (fHdr w))
  | 12 => ((rdTSub 0 w).map (Instr.rtab (fHdr w))) <|>
      ((rdTSub 1 w).map (Instr.rtabRd (fHdr w)))
  | _ => none

/-- The instruction a word spells before the checks of WellFormed. -/
def decodeRaw (w : BitVec 96) : Option Instr :=
  let op := (fOp w).toNat
  if !opAssigned op then some (.unassignedOpcode w)
  else
    match op / 64 with
    | 0 => decControl (op % 64) w
    | 1 => decInteger (op % 64) w
    | 2 => decCap (op % 64) w
    | 3 => decFp (op % 64) w
    | 4 => decVec (op % 64) w
    | 5 => decPerm (op % 64) w
    | 6 => decMem (op % 64) w
    | 7 => decBank (op % 64) w
    | 8 => decMatrix (op % 64) w
    | 9 => decCopy (op % 64) w
    | 10 => decExch (op % 64) w
    | 11 => decTask (op % 64) w
    | _ => none

/-- The decoder: the well-formed instruction that a 96-bit word encodes. An unassigned opcode decodes to the row of its
own, whose meaning is its trap; any other refused encoding decodes to none (R250). -/
def decodeWord (w : BitVec 96) : Option Instr :=
  match decodeRaw w with
  | some i => if i.wf then some i else none
  | none => none

/-- The host's reading of the decoder: an instruction word is 96 bits, bit 0 the least significant bit of byte 0 of its
slot (R228); bits above `nbits` are zero. -/
def decodeTableWord (nbits w : Nat) : Option Instr :=
  decodeWord (BitVec.ofNat 96 (w % 2 ^ min nbits 96))

/-! ## The encoder -/

/-- An instruction word from its fields (R236). -/
def asm (op : BitVec 10) (h : Hdr) (d a b : BitVec 7) (x : BitVec 32) : BitVec 96 :=
  op ++ BitVec.ofBool h.gn ++ BitVec.ofFin (w := 3) h.gp ++ d ++ a ++ b ++ h.ws ++ h.wt ++ h.ss ++ h.si ++
    BitVec.ofBool h.la ++ BitVec.ofBool h.lb ++ BitVec.ofBool h.pr ++ x

def FmtRR.x (o : FmtRR) : BitVec 32 := (0 : BitVec 29) ++ o.psel
def FmtC.x (o : FmtC) : BitVec 32 := (0 : BitVec 28) ++ o.cond
def FmtCI.x (o : FmtCI) : BitVec 32 := o.imm ++ (0 : BitVec 4) ++ o.cond
def FmtBF.x (o : FmtBF) : BitVec 32 := (0 : BitVec 19) ++ o.len ++ o.pos
def FmtFK.x (o : FmtFK) : BitVec 32 := o.coff ++ o.moff
def FmtS.x (o : FmtS) : BitVec 32 := (0 : BitVec 8) ++ o.imm ++ o.sem
def FmtSYS.x (o : FmtSYS) : BitVec 32 := (0 : BitVec 20) ++ o.spr
def FmtSC.x (kind : BitVec 2) : BitVec 32 := (0 : BitVec 30) ++ kind
def FmtCAP.x (sel : BitVec 4) (o : FmtCAP) : BitVec 32 := (0 : BitVec 12) ++ o.sealTy ++ (o.sel ||| sel) ++ o.perm
def FmtF.x (o : FmtF) : BitVec 32 :=
  (0 : BitVec 17) ++ o.fcond ++ o.fmt2 ++ (0 : BitVec 1) ++ BitVec.ofBool o.sat ++ o.rnd ++ o.fmt
def FmtV.x (vimm : BitVec 8) (o : FmtV) : BitVec 32 :=
  (o.vimm ||| vimm) ++ o.fmt2 ++ o.seld ++ o.selb ++ o.sela ++ BitVec.ofFin (w := 3) o.msk ++ BitVec.ofBool o.men ++
    BitVec.ofBool o.sat ++ o.rnd ++ o.fmt
def FmtM.x (o : FmtM) : BitVec 32 := o.order ++ o.policy ++ o.size ++ o.offset
def FmtK.x (o : FmtK) : BitVec 32 :=
  (0 : BitVec 6) ++ BitVec.ofBool o.dir ++ o.tsem ++ o.tcore ++ o.tslot ++ o.slot
def FmtPB.x (o : FmtPB) : BitVec 32 := o.foff ++ (0 : BitVec 4) ++ o.strm
def FmtP.x (tbl : Bool) (o : FmtP) : BitVec 32 :=
  (0 : BitVec 18) ++ o.wsel ++ o.tcnt ++ BitVec.ofBool tbl ++ o.strm
def FmtE.x (o : FmtE) : BitVec 32 :=
  (0 : BitVec 13) ++ BitVec.ofBool o.chk ++ BitVec.ofBool o.dec ++ BitVec.ofBool o.enc ++ o.dim ++ o.fmt2 ++ o.fmt ++
    o.mp ++ o.ch ++ BitVec.ofBool o.rel ++ BitVec.ofBool o.acq
def FmtXC.x (opr : BitVec 4) (o : FmtXC) : BitVec 32 :=
  (0 : BitVec 12) ++ o.idx ++ (o.opr ||| opr) ++ (0 : BitVec 4) ++ o.fmt
def FmtT.x (sub : BitVec 4) (o : FmtT) : BitVec 32 := (0 : BitVec 16) ++ o.imm ++ (o.sub ||| sub) ++ o.sel

/-- A word whose format names D, A and B. -/
def asm3 (op : BitVec 10) (h : Hdr) (d a b : Operand) (x : BitVec 32) : BitVec 96 :=
  asm op h (encOperand d) (encOperand a) (encOperand b) x

/-- The word of an instruction; events have none. -/
def encode : Instr → Option (BitVec 96)
  | .nop h => some (asm 0x001 h 0 0 0 0)
  | .br h o => some (asm3 0x002 h o.d o.a o.b 0)
  | .bri h o => some (asm3 0x003 h o.d (.x 0) (.x 0) o.off)
  | .call h o => some (asm3 0x004 h o.d (.x 0) (.x 0) o.off)
  | .ret h o => some (asm3 0x005 h o.d o.a o.b 0)
  | .loop h o => some (asm3 0x006 h o.d (.x 0) (.x 0) o.off)
  | .halt h => some (asm 0x007 h 0 0 0 0)
  | .exit h => some (asm 0x008 h 0 0 0 0)
  | .start h o => some (asm3 0x009 h o.d (.x 0) (.x 0) o.off)
  | .fork h o => some (asm3 0x00A h (.x 0) (.x 0) (.x 0) o.x)
  | .join h => some (asm 0x00B h 0 0 0 0)
  | .yield h o => some (asm3 0x00C h o.d o.a o.b 0)
  | .trap h o => some (asm3 0x00D h o.d o.a (.x 0) o.imm)
  | .sysc h o => some (asm3 0x00E h o.d o.a o.b 0)
  | .rfu h => some (asm 0x00F h 0 0 0 0)
  | .rfe h => some (asm 0x010 h 0 0 0 0)
  | .semSet h o => some (asm3 0x011 h o.d o.a (.x 0) o.x)
  | .semAdd h o => some (asm3 0x012 h o.d o.a (.x 0) o.x)
  | .semSig h o => some (asm3 0x013 h o.d o.a (.x 0) o.x)
  | .semRd h o => some (asm3 0x014 h o.d o.a (.x 0) o.x)
  | .mfs h o => some (asm3 0x015 h o.d o.a (.x 0) o.x)
  | .mts h o => some (asm3 0x016 h o.d o.a (.x 0) o.x)
  | .prgnWrite h o => some (asm3 0x016 h o.d o.a (.x 0) o.x)
  | .svcrReadyWrite h o => some (asm3 0x016 h o.d o.a (.x 0) o.x)
  | .mqoWrite h o => some (asm3 0x016 h o.d o.a (.x 0) o.x)
  | .bar h o => some (asm3 0x017 h (.x 0) (.x 0) o.b (FmtSC.x 0))
  | .gang h => some (asm 0x018 h 0 0 0 0)
  | .wmon h o => some (asm3 0x019 h o.d o.a o.b o.x)
  | .dtime h o => some (asm3 0x01A h o.d o.a o.b o.x)
  | .budget h o => some (asm3 0x01B h o.d o.a (.x 0) o.x)
  | .sstep h o => some (asm3 0x01C h (.x 0) (.x 0) o.b (FmtSC.x 0))
  | .fenceLl h o => some (asm3 0x01D h (.x 0) (.x 0) o.b (FmtSC.x 0))
  | .fenceSs h o => some (asm3 0x01D h (.x 0) (.x 0) o.b (FmtSC.x 1))
  | .fenceFull h o => some (asm3 0x01D h (.x 0) (.x 0) o.b (FmtSC.x 2))
  | .fenceEng h o => some (asm3 0x01D h (.x 0) (.x 0) o.b (FmtSC.x 3))
  | .add h o => some (asm3 0x040 h o.d o.a o.b o.x)
  | .sub h o => some (asm3 0x041 h o.d o.a o.b o.x)
  | .addi h o => some (asm3 0x042 h o.d o.a (.x 0) o.imm)
  | .mul h o => some (asm3 0x043 h o.d o.a o.b o.x)
  | .mulh h o => some (asm3 0x044 h o.d o.a o.b o.x)
  | .mulhu h o => some (asm3 0x045 h o.d o.a o.b o.x)
  | .div h o => some (asm3 0x046 h o.d o.a o.b o.x)
  | .divu h o => some (asm3 0x047 h o.d o.a o.b o.x)
  | .rem h o => some (asm3 0x048 h o.d o.a o.b o.x)
  | .remu h o => some (asm3 0x049 h o.d o.a o.b o.x)
  | .and h o => some (asm3 0x04A h o.d o.a o.b o.x)
  | .or h o => some (asm3 0x04B h o.d o.a o.b o.x)
  | .xor h o => some (asm3 0x04C h o.d o.a o.b o.x)
  | .andn h o => some (asm3 0x04D h o.d o.a o.b o.x)
  | .shl h o => some (asm3 0x04E h o.d o.a o.b o.x)
  | .shr h o => some (asm3 0x04F h o.d o.a o.b o.x)
  | .sar h o => some (asm3 0x050 h o.d o.a o.b o.x)
  | .rol h o => some (asm3 0x051 h o.d o.a o.b o.x)
  | .shlI h o => some (asm3 0x052 h o.d o.a (.x 0) o.imm)
  | .shrI h o => some (asm3 0x053 h o.d o.a (.x 0) o.imm)
  | .sarI h o => some (asm3 0x054 h o.d o.a (.x 0) o.imm)
  | .rolI h o => some (asm3 0x055 h o.d o.a (.x 0) o.imm)
  | .clz h o => some (asm3 0x056 h o.d o.a o.b o.x)
  | .ctz h o => some (asm3 0x057 h o.d o.a o.b o.x)
  | .popc h o => some (asm3 0x058 h o.d o.a o.b o.x)
  | .min h o => some (asm3 0x059 h o.d o.a o.b o.x)
  | .max h o => some (asm3 0x05A h o.d o.a o.b o.x)
  | .minu h o => some (asm3 0x05B h o.d o.a o.b o.x)
  | .maxu h o => some (asm3 0x05C h o.d o.a o.b o.x)
  | .cmp h o => some (asm3 0x05D h o.d o.a o.b o.x)
  | .cmpi h o => some (asm3 0x05E h o.d o.a (.x 0) o.x)
  | .sel h o => some (asm3 0x05F h o.d o.a o.b o.x)
  | .movi h o => some (asm3 0x060 h o.d o.a (.x 0) o.imm)
  | .movhi h o => some (asm3 0x061 h o.d o.a (.x 0) o.imm)
  | .mov h o => some (asm3 0x062 h o.d o.a o.b o.x)
  | .bfx h o => some (asm3 0x063 h o.d o.a o.b o.x)
  | .bfi h o => some (asm3 0x064 h o.d o.a o.b o.x)
  | .pand h o => some (asm3 0x065 h o.d o.a o.b o.x)
  | .por h o => some (asm3 0x066 h o.d o.a o.b o.x)
  | .pnot h o => some (asm3 0x067 h o.d o.a o.b o.x)
  | .cset h o => some (asm3 0x080 h o.d o.a o.b (o.x 0))
  | .cinc h o => some (asm3 0x081 h o.d o.a o.b (o.x 0))
  | .cbnd h o => some (asm3 0x082 h o.d o.a o.b (o.x 0))
  | .cbndX h o => some (asm3 0x082 h o.d o.a o.b (o.x 1))
  | .cperm h o => some (asm3 0x083 h o.d o.a o.b (o.x 0))
  | .cseal h o => some (asm3 0x084 h o.d o.a o.b (o.x 0))
  | .cget h o => some (asm3 0x085 h o.d o.a o.b (o.x 0))
  | .ctag h o => some (asm3 0x086 h o.d o.a o.b (o.x 0))
  | .cclr h o => some (asm3 0x087 h o.d o.a o.b (o.x 0))
  | .fadd h o => some (asm3 0x0C0 h o.d o.a o.b o.x)
  | .fsub h o => some (asm3 0x0C1 h o.d o.a o.b o.x)
  | .fmul h o => some (asm3 0x0C2 h o.d o.a o.b o.x)
  | .ffma h o => some (asm3 0x0C3 h o.d o.a o.b o.x)
  | .fdiv h o => some (asm3 0x0C4 h o.d o.a o.b o.x)
  | .fsqrt h o => some (asm3 0x0C5 h o.d o.a o.b o.x)
  | .fmin h o => some (asm3 0x0C6 h o.d o.a o.b o.x)
  | .fmax h o => some (asm3 0x0C7 h o.d o.a o.b o.x)
  | .fcmp h o => some (asm3 0x0C8 h o.d o.a o.b o.x)
  | .fcvt h o => some (asm3 0x0C9 h o.d o.a o.b o.x)
  | .fexp2 h o => some (asm3 0x0CA h o.d o.a o.b o.x)
  | .vadd h o => some (asm3 0x100 h o.d o.a o.b (o.x 0))
  | .vsub h o => some (asm3 0x101 h o.d o.a o.b (o.x 0))
  | .vmul h o => some (asm3 0x102 h o.d o.a o.b (o.x 0))
  | .vfma h o => some (asm3 0x103 h o.d o.a o.b (o.x 0))
  | .vmin h o => some (asm3 0x104 h o.d o.a o.b (o.x 0))
  | .vmax h o => some (asm3 0x105 h o.d o.a o.b (o.x 0))
  | .vabs h o => some (asm3 0x106 h o.d o.a o.b (o.x 0))
  | .vcmp h o => some (asm3 0x107 h o.d o.a o.b (o.x 0))
  | .vsel h o => some (asm3 0x108 h o.d o.a o.b (o.x 0))
  | .viadd h o => some (asm3 0x109 h o.d o.a o.b (o.x 0))
  | .visub h o => some (asm3 0x10A h o.d o.a o.b (o.x 0))
  | .vimul h o => some (asm3 0x10B h o.d o.a o.b (o.x 0))
  | .vand h o => some (asm3 0x10C h o.d o.a o.b (o.x 0))
  | .vor h o => some (asm3 0x10D h o.d o.a o.b (o.x 0))
  | .vxor h o => some (asm3 0x10E h o.d o.a o.b (o.x 0))
  | .vshl h o => some (asm3 0x10F h o.d o.a o.b (o.x 0))
  | .vshr h o => some (asm3 0x110 h o.d o.a o.b (o.x 0))
  | .vsar h o => some (asm3 0x111 h o.d o.a o.b (o.x 0))
  | .vcvt h o => some (asm3 0x112 h o.d o.a o.b (o.x 0))
  | .vquant h o => some (asm3 0x113 h o.d o.a o.b (o.x 0))
  | .vquantFold h o => some (asm3 0x113 h o.d o.a o.b (o.x 0))
  | .vdeq h o => some (asm3 0x114 h o.d o.a o.b (o.x 0))
  | .vexp2 h o => some (asm3 0x115 h o.d o.a o.b (o.x 0))
  | .vrcp h o => some (asm3 0x116 h o.d o.a o.b (o.x 0))
  | .vrsq h o => some (asm3 0x117 h o.d o.a o.b (o.x 0))
  | .vdot4 h o => some (asm3 0x118 h o.d o.a o.b (o.x 0))
  | .vpermB h o => some (asm3 0x140 h o.d o.a o.b (o.x 0))
  | .vpermBN h o => some (asm3 0x140 h o.d o.a o.b (o.x 1))
  | .vpermBNs h o => some (asm3 0x140 h o.d o.a o.b (o.x 3))
  | .vshuf h o => some (asm3 0x141 h o.d o.a o.b (o.x 0))
  | .vbcast h o => some (asm3 0x142 h o.d o.a o.b (o.x 0))
  | .vins h o => some (asm3 0x143 h o.d o.a o.b (o.x 0))
  | .vext h o => some (asm3 0x144 h o.d o.a o.b (o.x 0))
  | .vrot h o => some (asm3 0x145 h o.d o.a o.b (o.x 0))
  | .vredadd h o => some (asm3 0x146 h o.d o.a o.b (o.x 0))
  | .vredmax h o => some (asm3 0x147 h o.d o.a o.b (o.x 0))
  | .vredmin h o => some (asm3 0x148 h o.d o.a o.b (o.x 0))
  | .vargmax h o => some (asm3 0x149 h o.d o.a o.b (o.x 0))
  | .vscan h o => some (asm3 0x14A h o.d o.a o.b (o.x 0))
  | .vscanX h o => some (asm3 0x14A h o.d o.a o.b (o.x 1))
  | .vhist h o => some (asm3 0x14B h o.d o.a o.b (o.x 0))
  | .vordkey h o => some (asm3 0x14C h o.d o.a o.b (o.x 0))
  | .vunord h o => some (asm3 0x14D h o.d o.a o.b (o.x 0))
  | .vlaneid h o => some (asm3 0x14E h o.d o.a o.b (o.x 0))
  | .vcount h o => some (asm3 0x14F h o.d o.a o.b (o.x 0))
  | .vcompress h o => some (asm3 0x150 h o.d o.a o.b (o.x 0))
  | .ld h o => some (asm3 0x180 h o.d o.a o.b o.x)
  | .st h o => some (asm3 0x181 h o.d o.a o.b o.x)
  | .ldc h o => some (asm3 0x182 h o.d o.a o.b o.x)
  | .stc h o => some (asm3 0x183 h o.d o.a o.b o.x)
  | .ldv h o => some (asm3 0x184 h o.d o.a o.b o.x)
  | .stv h o => some (asm3 0x185 h o.d o.a o.b o.x)
  | .ldq h o => some (asm3 0x186 h o.d o.a o.b o.x)
  | .stq h o => some (asm3 0x187 h o.d o.a o.b o.x)
  | .ldg h o => some (asm3 0x188 h o.d o.a o.b o.x)
  | .stg h o => some (asm3 0x189 h o.d o.a o.b o.x)
  | .amoAdd h o => some (asm3 0x18A h o.d o.a o.b o.x)
  | .amoAnd h o => some (asm3 0x18B h o.d o.a o.b o.x)
  | .amoOr h o => some (asm3 0x18C h o.d o.a o.b o.x)
  | .amoXor h o => some (asm3 0x18D h o.d o.a o.b o.x)
  | .amoMin h o => some (asm3 0x18E h o.d o.a o.b o.x)
  | .amoMax h o => some (asm3 0x18F h o.d o.a o.b o.x)
  | .amoSwap h o => some (asm3 0x190 h o.d o.a o.b o.x)
  | .amoCas h o => some (asm3 0x191 h o.d o.a o.b o.x)
  | .amoFadd h o => some (asm3 0x192 h o.d o.a o.b o.x)
  | .stMc h o => some (asm3 0x193 h o.d o.a o.b o.x)
  | .stRedAdd h o => some (asm3 0x194 h o.d o.a o.b o.x)
  | .stRedMin h o => some (asm3 0x195 h o.d o.a o.b o.x)
  | .stRedMax h o => some (asm3 0x196 h o.d o.a o.b o.x)
  | .stRedFadd h o => some (asm3 0x197 h o.d o.a o.b o.x)
  | .pref h o => some (asm3 0x198 h o.d o.a o.b o.x)
  | .cinv h o => some (asm3 0x199 h o.d o.a o.b o.x)
  | .cwb h o => some (asm3 0x19A h o.d o.a o.b o.x)
  | .bgive h o => some (asm3 0x1C0 h o.d o.a o.b o.x)
  | .btake h o => some (asm3 0x1C1 h o.d o.a o.b o.x)
  | .bfree h o => some (asm3 0x1C2 h o.d o.a o.b o.x)
  | .bmap h o => some (asm3 0x1C3 h o.d o.a o.b o.x)
  | .ringrot h o => some (asm3 0x1C4 h o.d o.a o.b o.x)
  | .bdrain h o => some (asm3 0x1C5 h o.d o.a o.b o.x)
  | .pbegin h o => some (asm3 0x1C6 h (.x 0) (.x 0) (.x 0) o.x)
  | .pcommit h o => some (asm3 0x1C7 h o.d o.a o.b (o.x false))
  | .pabort h o => some (asm3 0x1C8 h o.d o.a o.b (o.x false))
  | .pseed h o => some (asm3 0x1C9 h o.d o.a o.b (o.x false))
  | .pseedTbl h o => some (asm3 0x1C9 h o.d o.a o.b (o.x true))
  | .pdraw h o => some (asm3 0x1CA h o.d o.a o.b (o.x false))
  | .pstat h o => some (asm3 0x1CB h o.d o.a o.b (o.x false))
  | .pstatE h o => some (asm3 0x1CB h o.d o.a o.b (o.x true))
  | .mlds h o => some (asm3 0x200 h o.d o.a o.b o.x)
  | .mswp h o => some (asm3 0x201 h o.d o.a o.b o.x)
  | .mstream h o => some (asm3 0x202 h o.d o.a o.b o.x)
  | .mzero h o => some (asm3 0x203 h o.d o.a o.b o.x)
  | .mdrain h o => some (asm3 0x204 h o.d o.a o.b o.x)
  | .mgang h o => some (asm3 0x205 h o.d o.a o.b o.x)
  | .mfwd h o => some (asm3 0x206 h o.d o.a o.b o.x)
  | .msave h o => some (asm3 0x207 h o.d o.a o.b o.x)
  | .msaveSt h o => some (asm3 0x207 h o.d o.a o.b o.x)
  | .mrest h o => some (asm3 0x208 h o.d o.a o.b o.x)
  | .cpy h o => some (asm3 0x240 h o.d o.a o.b o.x)
  | .cpwp h o => some (asm3 0x241 h o.d o.a o.b o.x)
  | .cps h o => some (asm3 0x242 h o.d o.a o.b o.x)
  | .cpsw h o => some (asm3 0x243 h o.d o.a o.b o.x)
  | .cpm h o => some (asm3 0x244 h o.d o.a o.b o.x)
  | .cpmFin h o => some (asm3 0x245 h o.d o.a o.b o.x)
  | .send h o => some (asm3 0x280 h o.d o.a o.b (o.x 0))
  | .recv h o => some (asm3 0x281 h o.d o.a o.b (o.x 0))
  | .recvT h o => some (asm3 0x281 h o.d o.a o.b (o.x 1))
  | .xphase h o => some (asm3 0x282 h o.d o.a o.b (o.x 0))
  | .xmit h o => some (asm3 0x283 h o.d o.a o.b (o.x 0))
  | .xsel h o => some (asm3 0x284 h o.d o.a o.b (o.x 0))
  | .cred h o => some (asm3 0x285 h o.d o.a o.b (o.x 0))
  | .cbc h o => some (asm3 0x286 h o.d o.a o.b (o.x 0))
  | .cag h o => some (asm3 0x287 h o.d o.a o.b (o.x 0))
  | .launch h o => some (asm3 0x2C0 h o.d o.a o.b (o.x 0))
  | .tpsh h o => some (asm3 0x2C1 h o.d o.a o.b (o.x 0))
  | .tpop h o => some (asm3 0x2C2 h o.d o.a o.b (o.x 0))
  | .tdecl h o => some (asm3 0x2C3 h o.d o.a o.b (o.x 0))
  | .qprio h o => some (asm3 0x2C4 h o.d o.a o.b (o.x 0))
  | .wid h o => some (asm3 0x2C5 h o.d o.a o.b (o.x 0))
  | .widSet h o => some (asm3 0x2C5 h o.d o.a o.b (o.x 1))
  | .twget h o => some (asm3 0x2C6 h o.d o.a o.b (o.x 0))
  | .twadv h o => some (asm3 0x2C7 h o.d o.a o.b (o.x 0))
  | .twput h o => some (asm3 0x2C8 h o.d o.a o.b (o.x 0))
  | .tlbwInstall h o => some (asm3 0x2C9 h o.d o.a o.b (o.x 0))
  | .tlbwUpcall h o => some (asm3 0x2C9 h o.d o.a o.b (o.x 1))
  | .tlbwTrap h o => some (asm3 0x2C9 h o.d o.a o.b (o.x 2))
  | .tlbwFail h o => some (asm3 0x2C9 h o.d o.a o.b (o.x 3))
  | .tlbiPage h o => some (asm3 0x2CA h o.d o.a o.b (o.x 0))
  | .tlbiDomain h o => some (asm3 0x2CA h o.d o.a o.b (o.x 1))
  | .tlbiAll h o => some (asm3 0x2CA h o.d o.a o.b (o.x 2))
  | .fnote h o => some (asm3 0x2CB h o.d o.a o.b (o.x 0))
  | .rtab h o => some (asm3 0x2CC h o.d o.a o.b (o.x 0))
  | .rtabRd h o => some (asm3 0x2CC h o.d o.a o.b (o.x 1))
  | .reset => none
  | .firmwareLoad => none
  | .functionReady => none
  | .performStore => none
  | .readHome => none
  | .readCopy => none
  | .forward => none
  | .atomic => none
  | .deliver => none
  | .drop => none
  | .sliceFill => none
  | .writeBack => none
  | .directoryReply => none
  | .missReply => none
  | .messageArrival => none
  | .semSigArrival => none
  | .engineCommandCompletion => none
  | .bgiveDrainComplete => none
  | .bfreeDrainComplete => none
  | .bankZeroingComplete => none
  | .ringrotBarrierComplete => none
  | .ringrotDrainComplete => none
  | .distributorSelect => none
  | .headAging => none
  | .rebalance => none
  | .preemptionRequest => none
  | .forcedSave => none
  | .saveWriteOut => none
  | .taskEnd => none
  | .launchStatusWrite => none
  | .stage0Enqueue => none
  | .gangAcknowledge => none
  | .gangStart => none
  | .gangCancelBeforeTick => none
  | .gangCancelAfterTick => none
  | .fallbackReport => none
  | .timeWindowTick => none
  | .heneriFrame => none
  | .ptpSync => none
  | .lockLossTimeout => none
  | .ticketResolve => none
  | .sstepMerge => none
  | .superstepRollback => none
  | .barPass => none
  | .jointRowFormed => none
  | .collectiveAllArrived => none
  | .budgetExpiry => none
  | .sequencerFault => none
  | .thermalStop => none
  | .healthWindowEnd => none
  | .bubble => none
  | .linkWrite => none
  | .linkRead => none
  | .flitRetry => none
  | .laneLoss => none
  | .writePeerTableEntry => none
  | .writeCollectiveGroup => none
  | .writeStorageHandle => none
  | .writeHomeRangeEntry => none
  | .writeFormatWindow => none
  | .rakeStop => none
  | .releaseStoppedCores => none
  | .moveToPartition => none
  | .setQueuePool => none
  | .readStatus => none
  | .attestationReport => none
  | .gangOffer => none
  | .qprioChangeArrival => none
  | .semSigCheckReturn => none
  | .unassignedOpcode w => some w
  | .unknownOpRequest => none
  | .bringupEnd => none

end Sys2Proof
end

