-- ==== Sys2Proof/Config.lean ====
section
/-! DEFINITION. What an implementation fixes and the manual does not: opaque constants, so that nothing proved of the
model rests on one of their values. Each is named in the assumption log. -/

namespace Sys2Proof

/-- `fexp2` and `vexp2` (R291): which of the two FP32 neighbours of an inexact 2^a is delivered (true: the upper one).
Either lies within one ulp. Free value, log entry 9. -/
opaque Config.exp2Up : BitVec 32 → Bool

/-- `vrcp` (R334): which of the two FP32 neighbours of an inexact 1/a is delivered. Free value, log entry 9. -/
opaque Config.rcpUp : BitVec 32 → Bool

/-- `vrsq` (R334): which of the two FP32 neighbours of an inexact 1/sqrt a is delivered. Free value, log entry 9. -/
opaque Config.rsqUp : BitVec 32 → Bool

/-- The scalar registers a `yield` did not name (R218): undefined values of the task's own domain. Log entry 12. -/
opaque Config.freeWord : Nat → Word

/-- The vector registers a `yield` did not name (R218). Log entry 12. -/
opaque Config.freeLine : Nat → Line

/-- The lane masks a `yield` did not name (R218). Log entry 12. -/
opaque Config.freeMask : Nat → BitVec 32

/-- The predicates a `yield` did not name (R218). Log entry 12. -/
opaque Config.freeBool : Nat → Bool

/-- The accumulator and stationary planes a `yield` did not name (R218): the byte at an offset. Log entry 12. -/
opaque Config.freeByte : Nat → Nat → Byte

/-- The SM2 signature check of a firmware image under the fused key (R427). Log entry 11. -/
opaque Config.sm2Verify : FwImage → Bool

/-- The fused minimum security version (R427). Log entry 11. -/
opaque Config.fusedMinVersion : Nat

/-- The attestation report with its certificate chain (R427), for a nonce, a device time, its lock state, and the SM3 measurement of
every firmware component in load order. Log entry 11. -/
opaque Config.attestReport : List Byte → Nat → Bool → List (List Byte) → List Byte

end Sys2Proof
end

