-- ==== Sys2Proof/Machine/State.lean ====
section
/-! DEFINITION. The state of the Filmond FM9, as plain data: every register, table, queue and memory that spec/ gives
the device, what is in flight between its agents, and the model's own bookkeeping (the agenda of moves). Every numbered
collection is a `Sparse` map with the default its field names. `State.reset` is the device right after reset. -/

namespace Sys2Proof.Machine

open Sys2Proof

/-! ## One context -/

/-- The level of a context, LVL 0x002 (R252). -/
inductive Level where
  | user
  | supervisor
  | hypervisor
  deriving DecidableEq, Repr

/-- A scalar register with its tag bit (R21). -/
structure Reg where
  val : Word
  tag : Bool
  deriving DecidableEq, Repr

/-- A capability: its address, its metadata word and whether both tags are set (R14). -/
structure Cap where
  addr : Word
  md : Word
  tag : Bool
  deriving DecidableEq, Repr

/-- An entry of a load-data or store-data queue (R240): a value, or the place of a load not yet performed. -/
inductive QEntry where
  | val (v : Line)
  | pending (id : Nat)
  deriving DecidableEq, Repr

/-- Where the value of a load or atomic goes. -/
inductive Dest where
  | none
  | x (n : Nat)                          -- zero-extended into a scalar register
  | pair (n : Nat) (lc : Bool)           -- `ldc`, and whether its authority holds load-capability (R23)
  | v (n : Nat)
  | lq (q : Nat)
  | sq (q : Nat)
  | buffer                               -- the bytes an instruction reads for itself (R437)
  deriving DecidableEq, Repr

/-- What a pending access does at the home copy (R123, R130, R131). -/
inductive AccOp where
  | load
  | amo (op : Nat)     -- an index into the atomic operations of R300
  | red (op : Nat)     -- a reducing store, the same operations: a store that returns nothing (R126, R131)
  deriving DecidableEq, Repr

/-- One single-copy atomic unit of an access (R129): its home address, its length, where its bytes lie in the value,
and what it took once it is performed. -/
structure AUnit where
  addr : Nat
  len : Nat
  off : Nat
  pol : Nat                -- effective policy, 0-4 (R97)
  got : Option (List Byte)
  tag : Bool
  psn : Bool
  deriving DecidableEq, Repr

/-- The order field of an access (R26). -/
structure Order where
  acq : Bool
  rel : Bool
  scope : Word       -- the scope value, meaningful when acq or rel
  core : Bool        -- the scope operand was number 0: the core scope (R120)
  deriving DecidableEq, Repr

/-- A pending load or atomic of an agent (R123). -/
structure Access where
  id : Nat
  seq : Nat                -- place in the agent's program order
  op : AccOp
  ord : Order
  size : Nat               -- access size in bytes
  units : List AUnit
  opnd : List Byte         -- operand of an atomic
  cmp : List Byte          -- comparand of `amo.cas`
  dest : Dest
  ovl : List (Nat × Byte) -- bytes taken from the Brine or a log record at issue (R151, R160)
  tagOver : Option Bool    -- the tag they give, when any were taken
  via : List (Nat × Nat × Nat)   -- translations it used: VPN, size, domain (R45)
  deriving DecidableEq, Repr

/-- One unit of a buffered store. -/
structure SUnit where
  addr : Nat
  len : Nat
  off : Nat
  pol : Nat
  done : Bool
  deriving DecidableEq, Repr

/-- A store in a store buffer (R118). -/
structure SbEntry where
  seq : Nat
  ord : Order
  units : List SUnit
  data : List Byte
  tag : Bool               -- `stc` of a pair whose tags are set (R22)
  whole : Bool             -- one 128-byte line written whole: clears poison (R436)
  multi : Bool             -- a multicast store: its writes go in any order (R302)
  via : List (Nat × Nat × Nat)   -- translations it used: VPN, size, domain (R45)
  deriving DecidableEq, Repr

/-- A fence that has taken its place in program order and not yet retired (R126, R274). -/
structure Fence where
  kind : Nat               -- 0 `ll`, 1 `ss`, 2 `full`, 3 `eng`
  ord : Order
  seq : Nat
  issued : Nat             -- moment of its issue: engine commands accepted before it are earlier (R127)
  reached : Option Nat     -- moment at which every load before it was performed
  h : Hdr
  deriving DecidableEq, Repr

/-- An 8-byte unit of a block as a fetch took it (R234): its number, its bytes, and whether its line was poisoned. `home` says that
it came from the home. -/
structure FUnit where
  n : Nat
  bytes : List Byte
  psn : Bool
  home : Bool
  deriving DecidableEq, Repr

/-- A Brine line (R145): identity, byte mask, data and granule tags. -/
structure BrineLine where
  line : Nat
  mask : BitVec 128
  data : Line
  tags : BitVec 8
  psn : Bool               -- its bytes came from a poisoned line (R436)
  deriving DecidableEq, Repr

/-- An open commit region (R149-R151). -/
structure Region where
  blk : Word               -- block of its `pbegin`
  fail : Word              -- fail block
  reads : List Nat
  lines : List BrineLine
  tokens : List (Nat × Nat)   -- (VPN, size) under which proposals were stored (R156)
  begun : Nat              -- 1 + the cycle of its Begin
  drawn : Option Nat       -- the draw taken, once `pcommit` has drawn (R152)
  deriving DecidableEq, Repr

/-- The seven trap registers (R209 ff.), and the hypervisor copies (R212). -/
structure TrapRegs where
  vec : Word
  vem : Word
  epc : Word
  epm : Word
  cau : Word
  val : Word
  scr : Word
  deriving DecidableEq, Repr

/-- PRGN 0x050 (R147). -/
structure Prgn where
  opn : Bool
  tv : Bool
  mrg : Bool
  strm : BitVec 4
  rpl : BitVec 8
  ticket : BitVec 32
  deriving DecidableEq, Repr

/-- BUDG 0x084 (R221). -/
structure Budget where
  arm : Bool
  ended : Bool
  kind : BitVec 5
  sem : BitVec 8
  cnt : BitVec 32
  deriving DecidableEq, Repr

/-- A fault as TCAU and TVAL report it (R207). -/
structure TrapInfo where
  kind : Nat
  sub : Nat
  val : Word
  fseq : Nat
  deriving DecidableEq, Repr

/-- What a context took with its latest load of a line (R273). -/
structure Mon where
  place : Nat              -- the load's place in program order
  base : Nat               -- 1 + the version of the line at that load, for the bytes it did not take
  took : Sparse Nat        -- by address, 1 + the version that the byte's value came from
  held : List (Nat × Nat × Nat)  -- bytes taken from a buffered store: its place, their address and number
  deriving DecidableEq, Repr

/-- A member of a barrier arrival waits for, or an instruction that has taken its first step and not yet retired. -/
inductive Busy where
  | barrier (h : Hdr) (d : Operand)              -- arrived: bar, gang, sstep, ringrot, xphase, collectives
  | drain (h : Hdr) (d : Operand)                -- a bank instruction past its indivisible step (R80)
  | sigCheck (h : Hdr) (d : Operand)             -- `sem.sig` whose check is under way (R265)
  | publish (h : Hdr) (d : Operand)              -- `pcommit` past its draw (R152)
  | late (n : Nat)                               -- a count an exchange wait keeps (R367)
  | monitor (line : Nat) (m : Mon)               -- `wmon` waits on a line, for a write later than those taken (R273)
  | ending                                       -- the control context has executed `exit` (R189)
  | saving (adv : Bool)                          -- `yield` has read its record (R218); whether it resumes after itself
  | invalidating (waits : List (Nat × Nat × Nat × Nat)) (devs : List Nat)   -- `tlbi` has removed its entries; the accesses and the
                                                                            -- devices of its gang that it waits for (R45)
  | written (t : Nat)                            -- a release write of the instruction is in the store buffer
  | reading                                      -- it waits for the bytes it reads for itself (R437)
  | read (bs : List Byte) (tags : List Bool)     -- it has them, and the tags of their granules of 16
  deriving DecidableEq, Repr

/-- One context of a core: control (0), helper (1-10), matrix sequencer (11), copy sequencer (12). -/
structure Ctx where
  live : Bool
  level : Level
  pcc : Cap                     -- PCCA 0x012, PCCM 0x013 and the tags (R28, R29)
  pcOut : Bool                  -- the program capability's address has left its representable region (R19)
  slot : Nat
  blk : Option (BitVec 512)     -- the block as fetched (R234)
  waitTaken : Bool              -- the current instruction's wait count is consumed (R208)
  waiting : Bool                -- the current instruction is ready to issue but for its wait clause (R244)
  x : Sparse Reg
  v : Sparse Line
  k : Sparse (BitVec 32)
  p : Sparse Bool
  lq : Sparse (List QEntry)
  sq : Sparse (List QEntry)
  bankDom : BitVec 12           -- domain record of the register bank (R31)
  cdom : BitVec 12              -- CDOM 0x010
  upv : Word
  upn : Word
  upc : Word
  upa : Word
  upi : Word
  upk : Word
  bstat : BitVec 4              -- BSTAT 0x02D
  prgn : Prgn
  pres : Word                   -- PRES 0x051
  fstat : BitVec 6              -- FSTAT 0x058
  inex : Bool                   -- CAPST 0x05C.INEX
  twid : Word                   -- TWID 0x060
  tinf : Word                   -- TINF 0x061
  sup : TrapRegs                -- 0x070-0x076
  hyp : TrapRegs                -- 0x078-0x07E
  budg : Budget                 -- BUDG 0x084
  dtLock : Bool                 -- DTFR 0x090
  dtFrac : BitVec 32
  region : Option Region
  pend : List Access            -- pending loads and atomics, in program order
  sb : List SbEntry             -- store buffer, in program order
  fences : List Fence           -- fences not yet retired, in program order (R126)
  fpart : List FUnit            -- 8-byte units of the next block fetched so far (R234)
  acqs : List (Nat × Order × Nat)  -- performed acquires and passed barriers: program place, scope, moment (R125)
  obs : List Nat                -- observed writes that still have an invalidation in flight (R122)
  seq : Nat
  mon : Sparse (Option Mon)     -- for `wmon`: by line, what the context's latest load of it took (R273)
  dtSeen : Nat                  -- the latest reading of device time the context took (R419)
  missEA : Option Word          -- the destination that a fault of its outstanding miss reports, for a multicast or reducing store (R303)
  busy : Option Busy
  sfault : Option TrapInfo      -- a sequencer's fault, held for the task (R351)
  forker : Nat                  -- for a sequencer: the context whose `fork` started its run (R127)
  deriving DecidableEq, Repr

/-! ## One core -/

/-- A semaphore with its sticky overflow bit (R243). -/
structure Sem where
  val : BitVec 16
  ovf : Bool
  deriving DecidableEq, Repr

/-- A bank-map register (R69). -/
structure Slot where
  valid : Bool
  out : Bool
  inn : Bool
  bank : Nat
  deriving DecidableEq, Repr

/-- An installed TLB entry (R34); `vpn` is VA[56:16], `pfn` is PA[51:16]. -/
structure TlbEntry where
  vpn : Nat
  size : Nat
  dom : Nat
  pfn : Nat
  attr : Nat
  pin : Bool
  rd : Bool
  wr : Bool
  ex : Bool
  deriving DecidableEq, Repr

/-- A miss tracker (R37). `ctx` and `chan` name the waiter whose miss opened it (R38). -/
structure Tracker where
  fseq : Nat
  gen : Nat
  va : Word
  dom : Nat
  kind : Nat
  ctx : Nat
  chan : Option Nat            -- an engine command: copy channel, 4 for the matrix engine
  sem : Nat
  prot : Bool
  waiters : List (Nat × Option Nat)   -- waiting contexts, and the engine channel of a waiting command
  deriving DecidableEq, Repr

/-- A core's copy of a line (R118): the bytes it holds, their tags and poison, and the writes it took them from. -/
structure CopyLine where
  data : Line
  tags : BitVec 8
  psn : Bool
  writers : Sparse Nat
  ver : Nat                    -- the line's version as it was fetched (R273)
  own : Sparse Nat             -- bytes that its core has written since: by address, the line's version after that write
  deriving DecidableEq, Repr

/-- A line of a format window as its home slice holds it decoded (R106), with its poison mark (R436). -/
structure DecLine where
  data : Line
  psn : Bool
  deriving DecidableEq, Repr

/-- A 64-byte message in a receive queue, with what `recv` reports beside it (R365). -/
structure Msg where
  bytes : List Byte
  sys : Bool
  sknd : Nat
  cl : Nat
  idx : Nat
  deriving DecidableEq, Repr

/-- A message spilled to the overflow region (R214): where its bytes lie, and its report fields. -/
structure OvMsg where
  addr : Nat
  sys : Bool
  sknd : Nat
  cl : Nat
  idx : Nat
  deriving DecidableEq, Repr

/-- A stationary plane (R360): elements and scales by byte offset. -/
structure Stat where
  valid : Bool
  fmt : Nat
  elems : Sparse Byte
  scales : Sparse Byte
  psn : Bool                   -- it was loaded from poisoned data (R225)
  deriving DecidableEq, Repr

/-- An accumulator plane (R179): its words by index 64 x row + column, and its poison mark (R361). -/
structure Plane where
  words : Sparse (BitVec 32)
  psn : Bool
  deriving DecidableEq, Repr

/-- A part of an access at its home: home address, length, place in the value, and the page's ATTR. -/
structure Seg where
  addr : Nat
  len : Nat
  off : Nat
  attr : Nat
  deriving DecidableEq, Repr

/-- An element of a command under way: its places at home, the translations it used, and how many of its bytes are
performed (R133, R355). -/
structure EngAt where
  segs : List Seg
  via : List (Nat × Nat × Nat)
  n : Nat
  deriving DecidableEq, Repr

/-- The kinds of engine command. -/
inductive CmdKind where
  | cpy | cps | cpsw | cpm | cpmFin
  | mlds | mswp | mstream | mzero | mdrain | mgang | mfwd | msave | mrest
  deriving DecidableEq, Repr

/-- An accepted engine command (R349, R350). -/
structure Cmd where
  kind : CmdKind
  o : FmtE
  h : Hdr
  ord : Order
  regs : List Reg              -- its register group, read at acceptance
  slotsUp : List (Nat × Nat)   -- slots valid at acceptance with their banks (R75)
  forker : Nat                 -- the context whose `fork` started the sequencer's run (R127)
  seqFork : Nat                -- that context's program place at acceptance
  accepted : Nat               -- the moment of acceptance
  cdom : BitVec 12             -- domain of the sequencer
  readPos : Nat                -- source elements read
  writePos : Nat               -- destination elements written
  buf : List Byte              -- source bytes read and not yet written
  bufTags : List Bool
  psns : List Bool             -- for each source element held: it was poisoned
  done : Nat                   -- destination bytes performed
  bad : Nat
  stopped : Option (Nat × Nat) -- CST and SUB at an early stop
  upTo : Nat                   -- after a stop: the destination elements that it performs in all (R350)
  waiting : Option Nat         -- FSEQ of the tracker that its next read waits on (R37)
  waitingW : Option Nat        -- the same for its next write
  num : BitVec 24              -- its channel's SEQ as it was accepted (R85)
  rat : Option EngAt           -- the source element under way
  wat : Option EngAt           -- the destination element under way
  effected : Bool              -- a matrix command has had its effect on the planes (R360)
  row : List Nat               -- `cpm`: source frame and size; a command stopped at a source element: that element's number
  issuedAt : Word × Nat        -- block and slot of the instruction (R363)
  deriving DecidableEq, Repr

/-- A copy channel (R84, R350): CPWP's SEQ and DONE, and its command queue. -/
structure Channel where
  seq : BitVec 24
  done : BitVec 40
  cmds : List Cmd
  deriving DecidableEq, Repr

/-- A forwarded pass of a joint row (R363): A's rows as member 0 read them. -/
structure FwdPass where
  fmt : Nat
  rows : List Byte
  scales : List Byte
  psn : Bool
  deriving DecidableEq, Repr

/-- The matrix engine of a core (R360-R363). -/
structure Matrix where
  planes : Sparse Plane
  act : Stat
  shd : Stat
  cmds : List Cmd
  late : List Cmd              -- completed commands whose effect on the planes is still to come, in order of acceptance (R135, R360)
  row : List Nat               -- members of the formed joint row, by gid; empty when none is formed
  joined : Bool                -- the matrix sequencer has executed `join` since the row was formed (R363)
  fwd : List FwdPass           -- forwarded passes not yet consumed
  deriving DecidableEq, Repr

/-- The task bound to a core (R183, R188, R189). A joint row's members each hold one. -/
structure Task where
  ord : Nat                    -- the task's place in the order of enqueues (R196)
  lid : Nat
  stage : Nat
  wid : Word
  dom : Nat
  mem : Nat
  cpi : Nat
  level : Nat
  slip : Bool
  det : Bool
  merged : Bool                -- superstep-merged stage
  members : List Nat           -- cores of the instance by gid, ascending member
  record : List Byte
  popped : Bool
  halted : Bool                -- one of its contexts has executed `halt` (R257)
  logSlot : Option Nat         -- log slot of this member (R162)
  sscope : Option Word         -- scope of its last `sstep` (R160)
  reps : Nat                   -- failures of the current superstep (R227)
  pdl : Nat
  hlp : Nat
  deriving DecidableEq, Repr

/-- The merge buffer and log bookkeeping of a member in merge mode (R160-R162, R226). -/
structure Merge where
  failed : Bool                -- a member consumed poisoned data or a bad block: it rolls back (R226)
  lines : List BrineLine       -- in allocation order
  up : Nat                     -- merge records in the log slot
  down : Nat                   -- undo records in the log slot
  undone : List Nat            -- scratch lines that have an undo record in this superstep
  wrote : List Nat             -- lines that engines wrote in this superstep (R227)
  via : List (Nat × Nat × Nat × Nat × Nat)   -- translations of its stores: moment, core, VPN, size, domain (R45)
  snap : List (Nat × Ctx)      -- the snapshot of the contexts
  snapPlanes : Sparse Plane
  snapAct : Stat
  snapShd : Stat
  snapSems : Sparse Sem
  snapFaults : List TrapInfo   -- sequencers' faults held at the snapshot (R351)
  deriving DecidableEq, Repr

/-- A bank leaving a slot (R77, R79, R82): a give, free, drain or rotation past its indivisible step. -/
structure Drain where
  kind : Nat                   -- 0 give, 1 free, 2 drain, 3 rotation, 4 freed by the device, 5 kept for a saved task
  slot : Nat
  bank : Nat
  tgt : Nat                    -- target gid
  tslot : Nat
  tsem : Nat
  ctx : Nat                    -- waiting context
  held : Bool                  -- the context still waits (R80)
  ss : BitVec 8
  si : BitVec 4
  waits : List (Nat × Nat × Nat)   -- accesses a `bdrain` waits for: gid, context, access id or store place
  deriving DecidableEq, Repr

/-- A phase of the exchange wires (R366). -/
structure Phase where
  start : Nat                  -- the cycle of phase cycle 0, counted without bubbles (R434)
  len : Nat
  members : List Nat
  driven : Sparse Line         -- by phase cycle
  cycles : List Nat            -- cycles driven
  late : Nat
  deriving DecidableEq, Repr

/-- A task that a save has written out (R218-R220). -/
structure Saved where
  forced : Bool                -- by the forced save of R219
  task : Task
  ctxs : List (Nat × Ctx)
  sems : Sparse Sem
  banks : List (Nat × Nat)     -- slot and bank kept
  planes : Sparse Plane
  act : Stat
  shd : Stat
  mrg : Option Merge
  faults : List TrapInfo
  conflict : Option TrapInfo
  deriving DecidableEq, Repr

/-- A task selected for a core and not yet bound (R70, R71): its banks to place, or the saved task to restore. -/
structure Binding where
  saved : Option Saved
  bnk : Nat
  deriving DecidableEq, Repr

/-- The L1 caches of a core (R92, R101): which lines they hold, and how; the bytes a core reads are its copies' (R118). -/
structure L1 where
  dl : List Nat                -- lines in the data cache, most recently used first
  il : List Nat                -- lines in the instruction cache, most recently used first
  kept : List Nat              -- lines of the data cache under policy keep (R96)
  own : List Nat               -- lines held exclusively
  dirty : List Nat             -- dirty lines of the data cache
  vict : List Nat              -- dirty lines in the victim entries, waiting for a write-back slot
  deriving DecidableEq, Repr

/-- One core, or one cluster service core. -/
structure Core where
  ctxs : Sparse Ctx
  sems : Sparse Sem
  semSets : List (Nat × Nat × BitVec 16)   -- `sem.set`s that take effect in the next cycle: agent, semaphore, value (R265)
  semAdds : List (Nat × Nat)   -- additions that take effect in the next cycle: semaphore, count (R244)
  lastTurn : Nat               -- 1 + the context that issued last in this cycle; 0 at its start (R244)
  relSig : Sparse (List Nat)   -- writes of release-flagged engine commands behind a semaphore's signals (R122)
  slots : Sparse Slot
  slotDom : BitVec 12
  chans : Sparse Channel
  matrix : Matrix
  tlb : List TlbEntry          -- most recently used first (R33)
  trackers : List Tracker
  fseq : BitVec 16
  gen : BitVec 16
  copies : Sparse (Option CopyLine)
  l1 : L1
  mrg : Option Merge
  pdsd : Word
  pdct : Word
  pcntCap : BitVec 16
  pcntRply : BitVec 16
  pcntMcnf : BitVec 16
  pcntAbnd : BitVec 16
  recvq : List Msg
  mqoa : Word
  mqosSize : BitVec 16
  mqosSpill : BitVec 32
  ovq : List OvMsg
  msgSent : BitVec 32
  msgRecv : BitVec 32
  rkcy : Word
  rkms : Word
  req : Bool                   -- PRST.REQ
  dlc : BitVec 32              -- PRST.DLC
  stopped : Bool               -- stopped by the Rake (R223)
  task : Option Task
  saving : Nat                 -- 0 no save, 1 `yield` has begun, 2 forced save
  saveSlots : BitVec 8         -- slots a `yield` keeps (R218)
  saveMask : List Word         -- the liveness record of the `yield` that is saving
  drains : List Drain
  phase : Option Phase
  pastPhases : List Phase      -- phases that are over here: what they drove may still be on its way (R367)
  lateCount : Nat              -- late instructions of the last phase (R366)
  binding : Option Binding     -- a task selected for the core whose first fetch is still to come (R70)
  conflict : Option TrapInfo   -- pending merge-conflict fault (R164, R226)
  faults : List TrapInfo       -- sequencers' faults held for the task, copy first (R351)
  deriving DecidableEq, Repr

/-! ## One cluster -/

/-- Who made a request to a home slice: an access of a context (kind 0 pending, 1 buffered, 2 a publication or merge, 3 a collective,
4 a prefetch) with its identity and, of a buffered store, the first unit's address; an element of an engine command; or a fetch. An
access makes one request for each line it touches (R397). -/
inductive ReqWho where
  | unit (a : Agent) (kind id u : Nat)
  | elem (g ch acc : Nat) (write : Bool) (pos : Nat)
  | fetch (a : Agent)
  deriving DecidableEq, Repr

/-- A request to a home slice (R100, R102): who made it, its line, its policy, and whether it writes. -/
structure SReq where
  who : ReqWho
  line : Nat
  pol : Nat
  wr : Bool
  deriving DecidableEq, Repr

/-- An open entry of a miss table (R100): whether its fill is installed in the slice and whether the data has come, and the
requests attached to it that are not yet served. -/
structure MissEntry where
  line : Nat
  alloc : Bool
  filled : Bool
  reqs : List SReq
  deriving DecidableEq, Repr

/-- A quiesce under way (R113): the affected lines are those homed in a cluster, in some buckets, in a range of lines. -/
structure Quiesce where
  cl : Nat
  buckets : List Nat
  lo : Nat
  hi : Nat
  deriving DecidableEq, Repr

/-- One slice of the L2 (R95, R100-R103): counters, open fills, lines present and dirty. -/
structure Slice where
  req : BitVec 20
  miss : BitVec 20
  open_ : List MissEntry       -- the miss table (R100)
  queue : List SReq            -- requests that wait for an entry (R102)
  granted : List SReq          -- accepted requests to lines present, not yet performed (R113)
  present : List Nat           -- lines held, least recently used first
  kept : List Nat              -- lines under policy keep (R96)
  dirty : List Nat
  wb : List (Nat × Bool)       -- write-back slots in use: line, and whether its data has still to be merged (R101)
  cseq : BitVec 16
  ovf : List Nat               -- lines whose OVF flag is set
  bc : List Nat                -- lines whose BC flag is set
  collects : List (Nat × Nat × Nat)   -- open collects: CSEQ, line, write id
  retired : Bool
  deriving DecidableEq, Repr

/-- One stream of the commit sequencer (R146). -/
structure Stream where
  seed : Word
  next : BitVec 32
  head : BitVec 32
  tbl : Bool
  tcnt : BitVec 7
  tidx : BitVec 7
  table : Sparse (BitVec 24)
  resolved : List (BitVec 32 × List Nat)     -- tickets resolved and not yet passed by HEAD; writes a published one waits for
  pubs : List (BitVec 32 × Nat × List Nat)   -- publications: ticket, 1 + the cycle HEAD passed it (0 while open), lines written
  tookAt : Nat × Nat           -- the latest ticket taken: 1 + its cycle, and the agent, 16 x core + context (R149)
  deriving DecidableEq, Repr

/-- A range-table entry (R42), as its three words. -/
structure Rnge where
  w0 : Word
  w1 : Word
  w2 : Word
  deriving DecidableEq, Repr

/-- A record of a stage queue: one task not yet bound (R188), or a saved task (R220), one `Saved` for each member. -/
structure QItem where
  ord : Nat
  wid : Word
  record : List Byte
  slip : Bool
  saved : List Saved
  deriving DecidableEq, Repr

/-- A stage queue of a cluster (R188, R191). -/
structure StageQ where
  lid : Nat
  stage : Nat
  base : Nat
  headOrd : Nat                -- 1 + the place of the record whose age and wait are counted; 0 for none (R191)
  age : Nat                    -- levels that the head has aged (R191)
  aged : Nat                   -- cycles as a ready head towards the next level
  waited : Nat                 -- cycles the ready head has waited without placement (R195)
  past : List (Nat × Nat × Nat × Nat)  -- the same four counts of records that were the head before and still wait
  items : List QItem
  deriving DecidableEq, Repr

/-- A region of the dependence unit (R196). -/
structure DepRegion where
  ord : Nat
  lo : Nat
  hi : Nat
  write : Bool
  dom : Nat
  deriving DecidableEq, Repr

/-- A time window (R201), as its eight words. -/
structure Twin where
  w : Sparse Word
  deriving DecidableEq, Repr

/-- One cluster: Saltern, slices, commit sequencer, service-core tables, distributor, dependence unit. -/
structure Cluster where
  taken : List Nat             -- banks that are not in the free pool, ascending (R63)
  zeroing : List Nat           -- banks being zeroed (R79)
  failing : List Nat           -- banks that leave the pool at their next free (R432)
  bkt : Sparse Word            -- BKT0-BKT3 (R91)
  slices : Sparse Slice
  streams : Sparse Stream
  rnge : Sparse Rnge
  gens : Sparse (BitVec 16)    -- generation last observed of each core (R46)
  svcr : Bool
  queues : List StageQ
  lastSel : Sparse (Nat × Nat) -- last selected queue of each level (R192)
  deps : List DepRegion
  lc : Sparse Nat              -- LC of each launch (R200)
  ran : List (Nat × Nat × Nat × Nat) -- tasks that ran in the window: core, level, launch, stage (R194)
  marks : List (Nat × Nat × Nat)     -- marked cores, and the stage that each goes to (R194)
  windows : Nat                -- windows of 1,024 cycles rebalanced so far
  freeCores : List Nat         -- idle cores of the last report to the master distributor (R199)
  freeBanks : Nat              -- free banks of that report
  request : Option Nat         -- core with an unanswered pre-emption request (R195)
  twin : Sparse Twin
  part : Nat
  closing : Option Nat         -- partition to which the cluster is moving (R187)
  deriving DecidableEq, Repr

/-! ## The device -/

/-- A stage of a launch (R185). -/
structure Stage where
  code : Cap
  cpi : Nat
  hlp : Nat
  bnk : Nat
  prio : Nat
  mrg : Bool
  qdep : Nat
  rsz : Nat
  nxt : Nat
  rbase : Word
  rlen : Nat
  rfld : Nat
  rstr : Nat
  wbase : Word
  wlen : Nat
  wfld : Nat
  wstr : Nat
  deriving DecidableEq, Repr

/-- An accepted launch (R184-R189, R198). -/
structure Launch where
  lid : Nat
  dom : Nat
  det : Bool
  gang : Bool
  gangState : Nat              -- 0 not a gang, 1 collecting, 2 armed, 3 running, 4 cancelled, 5 stopped
  peers : List Nat             -- member devices of the gang (GSET)
  acks : List Nat              -- peers that have acknowledged
  cacks : List Nat             -- clusters of this device that have acknowledged (R198)
  part : Nat
  clm : List Nat
  pdl : Nat
  gtick : Nat
  gmarg : Nat
  widths : List Nat
  wbase : Word
  logcap : Cap
  logrec : Nat
  logPages : List Nat          -- physical addresses of the 64 KiB pages of the log region (R162)
  logOff : Nat                 -- its base within the first
  logFree : List Nat           -- free log slots
  statusAt : Nat               -- home address of STATUS; 0 for a gang offered by a peer
  stages : List Stage
  count : Nat                  -- stage-0 tasks of the launch, dealt to the clusters of CLM in rotation
  given : Sparse Nat           -- how many of its share each cluster has enqueued
  first : Bool                 -- the first STATUS has been written (R370)
  alive : Nat                  -- tasks created and not yet ended, those not yet enqueued included
  ended : Nat                  -- tasks ended
  counted : Nat                -- tasks counted in a STATUS write (DONE)
  waits : List Nat             -- writes of ended tasks that a STATUS write waits for (R186)
  mc : Bool
  code : Nat
  written : Bool               -- STATUS holds the current CODE
  storage : Nat                -- queue storage taken from the pool
  deriving DecidableEq, Repr

/-- A write performed that still has an invalidation in flight, or whose writer's observed set a reader may gain (R122). -/
structure WriteRec where
  wid : Nat
  gid : Nat                    -- position of the writer; 4096 for the host port, 4097 + g for peer g
  time : Nat                   -- moment it was performed
  rel : Bool                   -- a release, a publication or a release-flagged engine write
  obs : List Nat
  eng : Option (Nat × Nat × Nat)   -- an engine's write: sequencer, forking context, moment of acceptance
  deriving DecidableEq, Repr

/-- An invalidation in flight (R118). -/
structure Inval where
  wid : Nat
  line : Nat
  target : Nat
  deriving DecidableEq, Repr

/-- A migration (R56): frames, page size, lines copied so far. -/
structure Migration where
  src : Nat
  dst : Nat
  bytes : Nat
  copied : Nat                 -- lines copied, ascending from the frame's first line
  copying : Bool
  moved : Bool                 -- one line of another record's page, which an earlier migration had moved (R57)
  deriving DecidableEq, Repr

/-- A barrier that agents arrive at: its kind, its members and what each brings. -/
inductive BarKind where
  | bar (scope : Word) (core : Bool)
  | gang (lid : Nat)
  | sstep (lid : Nat) (scope : Word) (core : Bool)
  | ring (rect : Word)
  | mgang (row : List Nat)
  | xphase (scope : Word) (core : Bool) (len : Nat)
  | coll (part grp : Nat)
  deriving DecidableEq, Repr

/-- An arrival at a barrier: the agent, and its payload (a slot and direction, the operands of a collective). -/
structure Arrival where
  kind : BarKind
  agent : Agent
  members : List Nat           -- gids of the members
  w0 : Word
  w1 : Word
  cap : Cap
  final : Bool                 -- the final arrival of a task in merge mode (R160)
  empty : Bool                 -- it has no writes: `halt` (R160)
  places : List (Nat × Nat)    -- a collective's buffer: home address and length of each piece (R368)
  via : List (Nat × Nat × Nat)   -- translations the buffer used: VPN, size, domain (R45)
  deriving DecidableEq, Repr

/-- An arrival of a core of a peer device at a barrier or collective that spans devices (R120, R271, R272, R368): the device, the
core's number there, the barrier, the operands, the buffer of a collective, the devices of the core's gang besides this one, and a
superstep's writes of lines whose home is here. -/
structure Remote where
  dev : Nat
  gid : Nat
  kind : BarKind
  w0 : Word
  w1 : Word
  data : List Byte
  devs : List Nat
  lines : List BrineLine
  deriving DecidableEq, Repr

/-- A running task of a gang on a peer device (R198): the device, the gang's launch number here, its stage and work ID, its cores there. -/
structure FarTask where
  dev : Nat
  lid : Nat
  stage : Nat
  wid : Word
  members : List Nat
  deriving DecidableEq, Repr

/-- What a `tlbi` removes: a page of a domain, a domain, everything (R45). -/
inductive TlbiWhat where
  | page (va : Word) (dom : Nat)
  | domain (dom : Nat)
  | all
  deriving DecidableEq, Repr

/-- Messages and other traffic between units. -/
inductive Flight where
  | msg (dst : Nat) (m : Msg)                              -- a message to a core's receive queue (R214)
  | dir (cl slice : Nat) (bytes : List Byte)              -- a directory reply (R143)
  | ubhal (from_ : Nat) (level : Level) (dom : Nat) (part : Nat) (bytes : List Byte)   -- a request on its way (R428)
  | sigCheck (a : Agent) (tgt sem n : Nat)                -- `sem.sig` to its target (R265)
  | sigAdd (tgt sem n : Nat)                              -- the increment on its way (R265)
  | reply (gid : Nat) (cl : Nat) (disp cause fseq gen : Nat) (uns : Bool) (w0 w1 : Word) (svc : Agent) (d : Operand)   -- `tlbw` (R39)
  | qprio (cl lid stage lvl : Nat)                        -- a priority change (R372)
  deriving DecidableEq, Repr

/-- Ubhal requests and who asked (R428). -/
structure UbReq where
  bytes : List Byte
  from_ : Option Nat           -- the sending core; none for the mailbox
  level : Level
  dom : Nat
  part : Nat
  deriving DecidableEq, Repr

/-- A peer table entry (R417). -/
structure Peer where
  valid : Bool
  ports : BitVec 16
  mac : BitVec 48
  part : Nat
  deriving DecidableEq, Repr

/-- A collective group (R418). -/
structure Group where
  valid : Bool
  n : Nat
  list : Nat
  deriving DecidableEq, Repr

/-- A storage handle (R425). -/
structure Handle where
  valid : Bool
  ro : Bool
  port : Nat
  ns : Nat
  deriving DecidableEq, Repr

/-- A partition's queue pool (R187). -/
structure Pool where
  base : Nat
  size : Nat
  used : Nat
  deriving DecidableEq, Repr

/-- A home range entry (R89) or the first words of a format window (R104), as written. -/
structure Words3 where
  w0 : Word
  w1 : Word
  w2 : Word
  deriving DecidableEq, Repr

/-- The health bookkeeping of one unit (R432): counts at the last window's end and windows in a row in which its
uncorrectable count rose. -/
structure Health where
  ce : Nat
  ue : Nat
  rises : Nat
  deriving DecidableEq, Repr

/-- Device-wide registers and tables. -/
structure Device where
  cycl : Word                  -- CYCL 0x000, the same count on every core (R269)
  cyc : Nat                    -- cycles that were no bubbles (R434)
  reports : Nat                -- periods of 64 cycles reported to the master distributor (R199)
  bubbleRun : Nat              -- bubbles in a row (R434)
  acted : Bool                 -- a move has been made in the present cycle: it is no bubble (R434)
  hrng : Sparse Words3
  fwin : Sparse Words3
  scales : List (Nat × Nat × Nat × Word × Bool)   -- scale caches: controller, window, block, scale word and its poison (R106)
  memmap : Word                -- 0x034
  memhole : Word               -- 0x035
  avail : List Nat             -- available channels (R110)
  hole : Option Nat            -- first hole address accessed (R112)
  migs : List Migration
  rdy : Word                   -- RDY (R429)
  repl : Word                  -- REPL (R433)
  replAt : Word                -- the cycle in which REPL.REQ was set
  healthWindows : Nat          -- windows of 2^30 cycles judged so far (R432)
  dtst : Word                  -- DTST (R420)
  ns : Nat                     -- device time, integer nanoseconds (R419)
  frac : BitVec 32
  syncGood : Nat               -- consecutive Sync intervals within 50 ns (R420)
  fallback : Bool              -- the base-die distributor still binds, until the window boundary (R199)
  ctr : Sparse (BitVec 32)     -- error counters, keyed 4096 x counter + unit (R428 OP 0x0A)
  health : Sparse Health       -- keyed the same way by the first counter of the unit's pair
  lanes : Sparse Bool          -- true: lane 4p + l is lost (R416)
  portPart : Sparse Nat        -- partition tag of each Casfort port (R187)
  pools : Sparse Pool
  peers : Sparse Peer
  groups : Sparse Group        -- keyed 256 x partition + group
  handles : Sparse Handle      -- keyed 64 x partition + handle
  tierMem : Sparse Nat         -- bytes of memory behind a second-tier port trained as memory
  tierNvm : Sparse Bool
  launches : List Launch
  nextLid : Nat
  mboxReq : List Byte          -- BAR0 mailbox (R428)
  mboxReply : List Byte
  go : Bool
  quiesce : List Quiesce       -- the quiesce under way (R113); empty when there is none
  held : List SReq             -- requests held by it, in arrival order
  badChans : List Nat          -- DRAM channels found failing: not available at the next bring-up (R432)
  badBlocks : List Nat         -- namespace blocks whose device errs (R357), by byte address of `storage`
  ubq : List UbReq
  fw : Option FwImage          -- firmware in use (R427)
  fwLoaded : List (List Byte)  -- components in load order
  rakeLog : List (Nat × Nat)   -- events of the Ubhal's error log: kind, number
  thermal : Bool               -- stopped until reset (R435)
  bringupDone : Bool
  deriving DecidableEq, Repr

/-- What comes about in the physical world, with no event row of its own: a word of memory or the tags of a slice upset (R68, R431), a
storage block that errs (R357), a Sync that does not come (R420), an attestation request over Casfort (R427); and what a peer device tells of a gang: its running tasks, their
arrivals, an arrival withdrawn, a superstep that fails (R120, R226, R271, R272), and the two sides of a `tlbi` that acts on it (R45). -/
inductive Outside where
  | upset (word : Nat) (kind : Nat)      -- `ecc` of that word becomes `kind`
  | tagError (slice : Nat) (ue : Bool)   -- an error in the tags or the directory of a slice, 16 x cluster + number
  | storageError (key : Nat)
  | syncMissed                           -- a Sync interval passes without a Sync (R420)
  | arrival (r : Remote)
  | departure (r : Remote)
  | farTask (t : FarTask) (runs : Bool)
  | farFails (lid stage : Nat) (scope : Word)
  | tlbReport (dev : Nat) (a : Agent)                     -- the device has done what the `tlbi` of `a` asks
  | tlbRequest (dev : Nat) (w : TlbiWhat) (scope : Word)  -- a `tlbi` of the device asks this one
  | request (bytes : List Byte)
  deriving DecidableEq, Repr

/-- What the agenda names next. -/
inductive Turn where
  | agent (a : Agent)                    -- that agent issues its next instruction
  | event (i : Instr) (x : EvArg)        -- that event comes about
  | elapse (cycles dt df : Nat)          -- core cycles, nanoseconds and 2^-32 parts of one of device time pass
  | outside (x : Outside)
  deriving DecidableEq, Repr

/-- The machine. -/
structure State where
  cores : Sparse Core                    -- 256 x cluster + index; 2048 + cluster for the service cores
  clusters : Sparse Cluster
  mem : List Host.Cell                   -- bytes by home address; an unlisted byte reads 0
  tags : List Nat                        -- granules (address / 16) whose tag is set, ascending
  poison : List Nat                      -- lines (address / 128) that are poisoned, ascending
  ecc : Sparse Nat                       -- words (address / 8) with an error: 1 correctable, 2 uncorrectable in a bank or DRAM;
                                         -- 3, 4 the same in the home slice (R68, R431)
  storage : List (Nat × Byte)            -- NVMe contents: ((port x 2^32 + namespace) x 2^76 + byte)
  dir : Sparse (List Nat)                -- the sharer pointers of each line, at most four (R141)
  dec : Sparse (Option DecLine)          -- lines of format windows held decoded in their home slice (R106)
  writers : Sparse Nat                   -- per byte, the write it holds while that write is recorded
  recs : List WriteRec
  invals : List Inval
  lineVer : Sparse Nat                   -- writes performed to each line, for `wmon`
  byteVer : Sparse Nat                   -- per byte, its line's version after the latest write to it, for `wmon`
  now : Nat                              -- moments: one for each move
  nextWid : Nat
  nextId : Nat
  nextOrd : Nat
  fresh : Nat                            -- counter of free values (model)
  dev : Device
  arrivals : List Arrival
  remote : List Remote                   -- arrivals of peers' cores
  far : List FarTask                     -- running tasks of gangs on peers
  flights : List Flight
  agenda : List Turn
  cur : Agent
  ev : EvArg
  rr : Nat                               -- default schedule: the live agent that moved last
  deriving DecidableEq, Repr

/-! ## Why a step stops -/

/-- Reasons for which a step ends in a fault of the model. -/
inductive Fault where
  /-- Raised by an event of the agenda that its rule does not enable now, or by an agenda entry that names an
  instruction form as an event or an agent that owns no program counter. Safe: the agenda asked for a move that the
  device cannot make. -/
  | notEnabled (move : String)
  deriving DecidableEq, Repr

/-- Reasons for which an instruction has no meaning in the model. -/
inductive Refusal where
  /-- Raised by an arm of `exec` that has no meaning yet. Safe: the run stops. -/
  | notModelled (mnemonic : String)
  deriving DecidableEq, Repr

/-! ## Reset -/

def Reg.zero : Reg := ⟨0, false⟩
def Cap.null : Cap := ⟨0, 0, false⟩
def TrapRegs.reset : TrapRegs := ⟨0, 0, 0, 0, 0, 0, 0⟩
def Prgn.reset : Prgn := ⟨false, false, false, 0, 0, 0⟩
def Budget.reset : Budget := ⟨false, false, 0, 0, 0⟩

/-- A context after reset. -/
def Ctx.reset : Ctx where
  live := false
  level := .user
  pcc := Cap.null
  pcOut := false
  slot := 0
  blk := none
  waitTaken := false
  waiting := false
  x := []
  v := []
  k := []
  p := []
  lq := []
  sq := []
  bankDom := 0xFFF
  cdom := 0xFFF
  upv := 0
  upn := 0
  upc := 0
  upa := 0
  upi := 0
  upk := 0
  bstat := 0
  prgn := Prgn.reset
  pres := 0
  fstat := 0
  inex := false
  twid := 0
  tinf := 0
  sup := TrapRegs.reset
  hyp := TrapRegs.reset
  budg := Budget.reset
  dtLock := false
  dtFrac := 0
  region := none
  pend := []
  sb := []
  fences := []
  fpart := []
  acqs := []
  obs := []
  seq := 0
  mon := []
  dtSeen := 0
  missEA := none
  busy := none
  sfault := none
  forker := 0

def Sem.reset : Sem := ⟨0, false⟩
def Slot.empty : Slot := ⟨false, false, false, 0⟩
def Stat.reset : Stat := ⟨false, 0, [], [], false⟩
def Plane.reset : Plane := ⟨[], false⟩
def Channel.reset : Channel := ⟨0, 0, []⟩
def L1.reset : L1 := ⟨[], [], [], [], [], []⟩
def Matrix.reset : Matrix := ⟨[], Stat.reset, Stat.reset, [], [], [], false, []⟩

/-- A core after reset. -/
def Core.reset : Core where
  ctxs := []
  sems := []
  semSets := []
  semAdds := []
  lastTurn := 0
  relSig := []
  slots := []
  slotDom := 0xFFF
  chans := []
  matrix := Matrix.reset
  tlb := []
  trackers := []
  fseq := 0
  gen := 0
  copies := []
  l1 := L1.reset
  mrg := none
  pdsd := 0
  pdct := 0
  pcntCap := 0
  pcntRply := 0
  pcntMcnf := 0
  pcntAbnd := 0
  recvq := []
  mqoa := 0
  mqosSize := 0
  mqosSpill := 0
  ovq := []
  msgSent := 0
  msgRecv := 0
  rkcy := 0
  rkms := 0
  req := false
  dlc := 0
  stopped := false
  task := none
  saving := 0
  saveSlots := 0
  saveMask := []
  drains := []
  phase := none
  pastPhases := []
  lateCount := 0
  binding := none
  conflict := none
  faults := []

def Slice.reset : Slice := ⟨0, 0, [], [], [], [], [], [], [], 0, [], [], [], false⟩
def Stream.reset : Stream := ⟨0, 0, 0, false, 0, 0, [], [], [], (0, 0)⟩
def Rnge.reset : Rnge := ⟨0, 0, 0⟩
def Twin.reset : Twin := ⟨[]⟩

/-- A cluster after reset. Its banks are all free and zero (SPOOL reset, R63). -/
def Cluster.reset : Cluster where
  taken := []
  zeroing := []
  failing := []
  bkt := []
  slices := []
  streams := []
  rnge := []
  gens := []
  svcr := false
  queues := []
  lastSel := []
  deps := []
  lc := []
  ran := []
  marks := []
  windows := 0
  freeCores := []
  freeBanks := 0
  request := none
  twin := []
  part := 0
  closing := none

def Words3.zero : Words3 := ⟨0, 0, 0⟩
def Peer.reset : Peer := ⟨false, 0, 0, 0⟩
def Group.reset : Group := ⟨false, 0, 0⟩
def Handle.reset : Handle := ⟨false, false, 0, 0⟩
def Pool.reset : Pool := ⟨0, 0, 0⟩
def Health.reset : Health := ⟨0, 0, 0⟩

/-- The device-wide registers after reset. -/
def Device.reset : Device where
  cycl := 0
  cyc := 0
  reports := 0
  bubbleRun := 0
  acted := false
  hrng := []
  fwin := []
  scales := []
  memmap := 0
  memhole := 0
  avail := []
  hole := none
  migs := []
  rdy := 0
  repl := 0
  replAt := 0
  healthWindows := 0
  dtst := 0
  ns := 0
  frac := 0
  syncGood := 0
  fallback := true
  ctr := []
  health := []
  lanes := []
  portPart := []
  pools := []
  peers := []
  groups := []
  handles := []
  tierMem := []
  tierNvm := []
  launches := []
  nextLid := 1
  mboxReq := []
  mboxReply := []
  go := false
  quiesce := []
  held := []
  badChans := []
  badBlocks := []
  ubq := []
  fw := none
  fwLoaded := []
  rakeLog := []
  thermal := false
  bringupDone := false

/-- The device right after reset. -/
def State.reset : State where
  cores := []
  clusters := []
  mem := []
  tags := []
  poison := []
  ecc := []
  storage := []
  dir := []
  dec := []
  writers := []
  recs := []
  invals := []
  lineVer := []
  byteVer := []
  now := 1
  nextWid := 1
  nextId := 1
  nextOrd := 1
  fresh := 0
  dev := Device.reset
  arrivals := []
  remote := []
  far := []
  flights := []
  agenda := []
  cur := ⟨0, 0⟩
  ev := .none
  rr := 0

end Sys2Proof.Machine
end

