-- ==== Sys2Proof/Machine/Sparse.lean ====
section
/-! DEFINITION. Operations on the sparse maps and ordered sets of the state. `put` keeps a map in its one canonical
form: keys strictly rising, no entry equal to the default. Memory is such a map with default 0 (log entry 1). -/

namespace Sys2Proof.Machine

open Sys2Proof

/-- The value at a number, the default where the map lists none. -/
def Sparse.look {α : Type} (d : α) : Sparse α → Nat → α
  | [], _ => d
  | (k, v) :: m, n => if k = n then v else Sparse.look d m n

/-- Insert or replace an entry, in key order. -/
def Sparse.ins {α : Type} (m : Sparse α) (n : Nat) (v : α) : Sparse α :=
  match m with
  | [] => [(n, v)]
  | (k, w) :: t => if k < n then (k, w) :: Sparse.ins t n v else if k = n then (n, v) :: t else (n, v) :: (k, w) :: t

/-- Write a value; writing the default removes the entry. -/
def Sparse.put {α : Type} [DecidableEq α] (d : α) (m : Sparse α) (n : Nat) (v : α) : Sparse α :=
  if v = d then m.filter (fun e => e.1 ≠ n) else Sparse.ins m n v

/-- Keys strictly above `lo`, strictly rising. -/
def keysAbove {α : Type} : Nat → Sparse α → Bool
  | _, [] => true
  | lo, (k, _) :: m => decide (lo < k) && keysAbove k m

/-- The canonical form: keys strictly rising and no entry equal to the default. -/
def Sparse.wf {α : Type} [DecidableEq α] (d : α) : Sparse α → Bool
  | [] => true
  | (k, v) :: m => keysAbove k m && ((k, v) :: m).all (fun e => decide (e.2 ≠ d))

/-- The canonical form of memory: addresses strictly rising, no byte equal to 0, what an unlisted address reads as. -/
def Memory.wf (m : List Host.Cell) : Bool := Sparse.wf (0 : Byte) m

/-- An ordered set of numbers: add one. -/
def natIns : List Nat → Nat → List Nat
  | [], n => [n]
  | k :: t, n => if k < n then k :: natIns t n else if k = n then k :: t else n :: k :: t

/-- An ordered set of numbers: remove one. -/
def natDel (l : List Nat) (n : Nat) : List Nat := l.filter (fun k => k ≠ n)

/-- Put a number into a set or take it out of it. -/
def natSet (l : List Nat) (n : Nat) (b : Bool) : List Nat := if b then natIns l n else natDel l n

/-- The first `n` elements of a list, filled up with a default. -/
def padTo {α : Type} (d : α) : Nat → List α → List α
  | 0, _ => []
  | n + 1, [] => d :: padTo d n []
  | n + 1, a :: l => a :: padTo d n l

/-- Change the first element that satisfies a test. -/
def updFirst {α : Type} (p : α → Bool) (f : α → α) : List α → List α
  | [] => []
  | a :: l => if p a then f a :: l else a :: updFirst p f l

end Sys2Proof.Machine
end

