-- ==== Sys2Proof/Machine/Bits.lean ====
section
/-! DEFINITION. Bit fields, bytes and words, check codes, and the small conversions that the meanings share. -/

namespace Sys2Proof.Machine

open Sys2Proof

/-- Bits [hi:lo] of a word, as a number. -/
def bits (w : Word) (hi lo : Nat) : Nat := w.toNat / 2 ^ lo % 2 ^ (hi + 1 - lo)

/-- One bit of a word. -/
def bit (w : Word) (i : Nat) : Bool := w.getLsbD i

/-- A Bool as a bit. -/
def b2n (b : Bool) : Nat := if b then 1 else 0

/-- A word from a number, modulo 2^64. -/
def wd (n : Nat) : Word := BitVec.ofNat 64 n

/-- A word from an integer, modulo 2^64. -/
def wdI (i : Int) : Word := BitVec.ofInt 64 i

/-- A field value placed at bit `lo`. -/
def fld (v lo : Nat) : Word := wd (v * 2 ^ lo)

/-- The number's low `w` bits, sign-extended. -/
def sext (w : Nat) (n : Nat) : Int :=
  let m := n % 2 ^ w
  if 2 ^ (w - 1) ≤ m ∧ 0 < w then (m : Int) - (2 ^ w : Nat) else m

/-- Byte `i` of a vector register or queue entry (R165: little-endian). -/
def lineByte (v : Line) (i : Nat) : Byte := v.extractLsb' (8 * i) 8

/-- `n` bytes of a number, least significant first. -/
def toBytes : Nat → Nat → List Byte
  | 0, _ => []
  | n + 1, w => BitVec.ofNat 8 w :: toBytes n (w / 256)

/-- The number that bytes spell, least significant first. -/
def ofBytes : List Byte → Nat
  | [] => 0
  | b :: l => b.toNat + 256 * ofBytes l

/-- A word from eight bytes. -/
def wordOf (l : List Byte) : Word := wd (ofBytes l)

/-- Lane `i` of 32 bits (R315). -/
def lane (v : Line) (i : Nat) : BitVec 32 := v.extractLsb' (32 * i) 32

/-- A vector from the value of each lane. -/
def ofLanes (f : Nat → BitVec 32) : Line :=
  BitVec.ofNat 1024 ((List.range 32).foldr (fun i acc => (f i).toNat + 2 ^ 32 * acc) 0)

/-- Word `i` (64 bits) of a byte list. -/
def wordAt (l : List Byte) (i : Nat) : Word := wordOf ((l.drop (8 * i)).take 8)

/-- CRC-16 of R230 over one bit. -/
def crc16Bit (c : Nat) (b : Bool) : Nat :=
  let f := (c / 2 ^ 15 % 2 == 1) != b
  let c2 := c * 2 % 2 ^ 16
  if f then c2 ^^^ 0x1021 else c2

/-- CRC-16 of R230 over the bits `n-1 .. 0` of a number, most significant first. -/
def crc16 : Nat → Nat → Nat → Nat
  | 0, c, _ => c
  | n + 1, c, w => crc16 n (crc16Bit c (w.testBit n)) w

/-- CRC-32C, reflected polynomial 0x82F63B78, one bit step (R177). -/
def crc32Step : Nat → Nat → Nat
  | 0, c => c
  | n + 1, c => crc32Step n (if c % 2 = 1 then (c / 2) ^^^ 0x82F63B78 else c / 2)

/-- CRC-32C of a byte list (R177): initial value all ones, final complement. -/
def crc32c (l : List Byte) : Nat :=
  (l.foldl (fun c b => crc32Step 8 (c ^^^ b.toNat)) 0xFFFFFFFF) ^^^ 0xFFFFFFFF

/-- Leading zeros of the low `n` bits of a number. -/
def clzN : Nat → Nat → Nat
  | 0, _ => 0
  | n + 1, w => if w.testBit n then 0 else 1 + clzN n w

/-- Trailing zeros of a number below 2^n, `n` when it is 0. -/
def ctzN : Nat → Nat → Nat
  | 0, _ => 0
  | n + 1, w => if w % 2 = 1 then 0 else 1 + ctzN n (w / 2)

/-- The bits set in a number below 2^n. -/
def popN : Nat → Nat → Nat
  | 0, _ => 0
  | n + 1, w => w % 2 + popN n (w / 2)

/-- Saturating 16-bit addition and whether it saturated (R243). -/
def satAdd16 (a : BitVec 16) (n : Nat) : BitVec 16 × Bool :=
  if a.toNat + n ≤ 0xFFFF then (BitVec.ofNat 16 (a.toNat + n), false) else (0xFFFF, true)

/-- A vector from up to 128 bytes. -/
def lineOf (l : List Byte) : Line := BitVec.ofNat 1024 (ofBytes l)

/-- The 128 bytes of a vector. -/
def lineBytes (v : Line) : List Byte := toBytes 128 v.toNat

end Sys2Proof.Machine
end

