-- ==== Sys2Proof/Machine/Float.lean ====
section
/-! DEFINITION. Number formats and exact arithmetic (R165-R174): decoding to exact dyadic values, the one rounding, the
saturation table of R170, conversions, sums in the order of R179, and the functions whose last bit is left open
(`fexp2`, R291). -/

namespace Sys2Proof.Machine

open Sys2Proof

/-- An exact value: NaN, an infinity, or +-m x 2^e (a zero keeps its sign). -/
inductive FVal where
  | nan
  | inf (neg : Bool)
  | fin (neg : Bool) (m : Nat) (e : Int)
  deriving DecidableEq, Repr

/-- A result and the FSTAT bits it sets. -/
structure FRes where
  raw : Nat
  flags : BitVec 6
  deriving DecidableEq, Repr

def flIV : BitVec 6 := 1
def flDZ : BitVec 6 := 2
def flOF : BitVec 6 := 4
def flUF : BitVec 6 := 8
def flNX : BitVec 6 := 16
def flSAT : BitVec 6 := 32

/-! ## Formats (R165) -/

def fmtBits (f : Nat) : Nat :=
  match f with
  | 0 => 8 | 1 => 8 | 2 => 16 | 3 => 32 | 4 => 64 | 5 => 4 | 6 => 4 | 7 => 64 | 8 => 32 | 9 => 16 | 10 => 16
  | 11 => 8 | 12 => 8 | 13 => 4 | _ => 8

def fmtMan (f : Nat) : Nat :=
  match f with
  | 7 => 52 | 8 => 23 | 9 => 7 | 10 => 10 | 11 => 3 | 12 => 2 | _ => 1

def fmtExp (f : Nat) : Nat :=
  match f with
  | 7 => 11 | 8 => 8 | 9 => 8 | 10 => 5 | 11 => 4 | 12 => 5 | _ => 2

def fmtBias (f : Nat) : Nat :=
  match f with
  | 7 => 1023 | 8 => 127 | 9 => 127 | 10 => 15 | 11 => 7 | 12 => 15 | _ => 1

def fmtIsInt (f : Nat) : Bool := decide (f ≤ 6)
def fmtSigned (f : Nat) : Bool := !(f == 1 || f == 6)
/-- Formats that have infinities: FP64, FP32, BF16, FP16, E5M2. -/
def fmtHasInf (f : Nat) : Bool := f == 7 || f == 8 || f == 9 || f == 10 || f == 12

/-- The canonical NaN (R165); E2M1 has none and gives +0 (R170). -/
def fmtNaN (f : Nat) : Nat :=
  match f with
  | 7 => 0x7FF8000000000000 | 8 => 0x7FC00000 | 9 => 0x7FC0 | 10 => 0x7E00 | 11 => 0x7F | 12 => 0x7E | _ => 0

/-- The bit pattern of the largest finite magnitude. -/
def fmtMaxBits (f : Nat) : Nat :=
  match f with
  | 7 => 0x7FEFFFFFFFFFFFFF | 8 => 0x7F7FFFFF | 9 => 0x7F7F | 10 => 0x7BFF | 11 => 0x7E | 12 => 0x7B | _ => 7

def fmtInfBits (f : Nat) : Nat := (2 ^ fmtExp f - 1) * 2 ^ fmtMan f
def fmtSignBit (f : Nat) : Nat := 2 ^ (fmtBits f - 1)

/-- The exponent of the least subnormal quantum. -/
def fmtQmin (f : Nat) : Int := 1 - (fmtBias f : Int) - fmtMan f

/-- The largest finite magnitude as m x 2^e. -/
def fmtMax (f : Nat) : Nat × Int :=
  let b := fmtMaxBits f
  let ef := b / 2 ^ fmtMan f
  (b % 2 ^ fmtMan f + 2 ^ fmtMan f, (ef : Int) - fmtBias f - fmtMan f)

/-- The value of a floating bit pattern (R165, R166). -/
def decodeF (f raw : Nat) : FVal :=
  let r := raw % 2 ^ fmtBits f
  let neg := decide (fmtSignBit f ≤ r)
  let mag := r % fmtSignBit f
  let ef := mag / 2 ^ fmtMan f
  let man := mag % 2 ^ fmtMan f
  if fmtHasInf f && decide (ef = 2 ^ fmtExp f - 1) then (if man = 0 then .inf neg else .nan)
  else if f = 11 ∧ mag = 0x7F then .nan
  else if ef = 0 then .fin neg man (fmtQmin f)
  else .fin neg (man + 2 ^ fmtMan f) ((ef : Int) - fmtBias f - fmtMan f)

/-- The value of a signed or unsigned integer pattern. -/
def decodeI (f raw : Nat) : Int := if fmtSigned f then sext (fmtBits f) raw else ((raw % 2 ^ fmtBits f : Nat) : Int)

/-- A value from an integer. -/
def ofInt (i : Int) : FVal := .fin (decide (i < 0)) i.natAbs 0

def decodeVal (f raw : Nat) : FVal := if fmtIsInt f then ofInt (decodeI f raw) else decodeF f raw

/-! ## Rounding (R169, R170) -/

/-- The length of a number in bits. -/
def bitLen (m : Nat) : Nat := if m = 0 then 0 else Nat.log2 m + 1

/-- Whether a magnitude `r + rem / 2^shift (+ sticky)` rounds up. -/
def roundsUp (rnd : Nat) (neg : Bool) (r rem half : Nat) (sticky : Bool) : Bool :=
  let inexact := decide (rem ≠ 0) || sticky
  if rnd = 0 then
    decide (half < rem) || (decide (rem = half) && decide (0 < half) && (sticky || decide (r % 2 = 1)))
  else if rnd = 1 then false
  else if rnd = 2 then neg && inexact
  else !neg && inexact

/-- `m x 2^e` (and something below, when `sticky`) rounded to a multiple of 2^q: the multiple, and whether inexact. -/
def roundQ (rnd : Nat) (neg : Bool) (m : Nat) (e q : Int) (sticky : Bool) : Nat × Bool :=
  if q ≤ e then
    let r := m * 2 ^ (e - q).toNat
    (if roundsUp rnd neg r 0 0 sticky then r + 1 else r, sticky)
  else
    let sh := (q - e).toNat
    let r := m / 2 ^ sh
    let rem := m % 2 ^ sh
    (if roundsUp rnd neg r rem (2 ^ (sh - 1)) sticky then r + 1 else r, decide (rem ≠ 0) || sticky)

/-- Compare m1 x 2^e1 with m2 x 2^e2: whether the first is above. -/
def dyGt (m1 : Nat) (e1 : Int) (m2 : Nat) (e2 : Int) : Bool :=
  if e1 ≤ e2 then decide (m2 * 2 ^ (e2 - e1).toNat < m1) else decide (m2 < m1 * 2 ^ (e1 - e2).toNat)

/-- The bit pattern of `r x 2^q`, where `r` fits the precision and `q` is at least the least quantum. -/
def packF (f : Nat) (neg : Bool) (r : Nat) (q : Int) : Nat :=
  let p := fmtMan f
  let s := if neg then fmtSignBit f else 0
  let r2 := if r = 2 ^ (p + 1) then 2 ^ p else r
  let q2 := if r = 2 ^ (p + 1) then q + 1 else q
  if r2 < 2 ^ p then s + r2
  else s + (q2 + p + fmtBias f).toNat * 2 ^ p + (r2 - 2 ^ p)

/-- The result of an overflow (R170). SAT is set where the saturation flag is what makes the result finite: under a code that
rounds towards zero the result is Max with the flag or without it. (DEDUCED, entry 21.) -/
def overflowRes (f rnd : Nat) (sat neg : Bool) : FRes :=
  let s := if neg then fmtSignBit f else 0
  let away := rnd = 0 ∨ (rnd = 2 ∧ neg) ∨ (rnd = 3 ∧ !neg)
  if f = 13 then ⟨s + fmtMaxBits f, flOF ||| flNX ||| flSAT⟩
  else if sat && away then ⟨s + fmtMaxBits f, flOF ||| flNX ||| flSAT⟩
  else if away then ⟨if f = 11 then fmtNaN f else s + fmtInfBits f, flOF ||| flNX⟩
  else ⟨s + fmtMaxBits f, flOF ||| flNX⟩

/-- A finite value rounded once into a floating format (R169). -/
def roundF (f rnd : Nat) (sat neg : Bool) (m : Nat) (e : Int) (sticky : Bool) : FRes :=
  if m = 0 ∧ !sticky then ⟨if neg then fmtSignBit f else 0, 0⟩
  else
    let top : Int := (bitLen m : Int) - 1 + e
    let q := max (top - fmtMan f) (fmtQmin f)
    let r := roundQ rnd neg m e q sticky
    let mx := fmtMax f
    if dyGt r.1 q mx.1 mx.2 then overflowRes f rnd sat neg
    else
      let tiny := decide (top < 1 - (fmtBias f : Int)) || decide (m = 0)
      ⟨packF f neg r.1 q, (if r.2 then flNX else 0) ||| (if r.2 && tiny then flUF else 0)⟩

/-- A value rounded into a floating format, with infinities and NaN as R170 states. -/
def toF (f rnd : Nat) (sat : Bool) (v : FVal) : FRes :=
  match v with
  | .nan => ⟨fmtNaN f, if f = 13 then flIV else 0⟩
  | .inf neg =>
    let s := if neg then fmtSignBit f else 0
    if f = 13 then ⟨s + fmtMaxBits f, flIV ||| flSAT⟩
    else if sat then ⟨s + fmtMaxBits f, flSAT⟩
    else if f = 11 then ⟨fmtNaN f, 0⟩
    else ⟨s + fmtInfBits f, 0⟩
  | .fin neg m e => roundF f rnd sat neg m e false

/-- An integer into an integer format: exact, modulo 2^n, or clamped (R170). -/
def fitInt (f : Nat) (sat : Bool) (i : Int) : FRes :=
  let n := fmtBits f
  let lo : Int := if fmtSigned f then -(2 ^ (n - 1) : Nat) else 0
  let hi : Int := if fmtSigned f then (2 ^ (n - 1) : Nat) - 1 else (2 ^ n : Nat) - 1
  let wrap (j : Int) : Nat := (j % (2 ^ n : Nat)).toNat
  if i < lo then (if sat then ⟨wrap lo, flOF ||| flSAT⟩ else ⟨wrap i, flOF⟩)
  else if hi < i then (if sat then ⟨wrap hi, flOF ||| flSAT⟩ else ⟨wrap i, flOF⟩)
  else ⟨wrap i, 0⟩

/-- A value into an integer format (R170). -/
def toI (f rnd : Nat) (sat : Bool) (v : FVal) : FRes :=
  let n := fmtBits f
  match v with
  | .nan => ⟨0, flIV⟩
  | .inf neg =>
    if sat then
      let lo : Nat := if fmtSigned f then 2 ^ (n - 1) else 0
      let hi : Nat := if fmtSigned f then 2 ^ (n - 1) - 1 else 2 ^ n - 1
      ⟨if neg then lo else hi, flIV ||| flSAT⟩
    else ⟨0, flIV⟩
  | .fin neg m e =>
    let r := roundQ rnd neg m e 0 false
    let res := fitInt f sat (if neg then -(r.1 : Int) else r.1)
    ⟨res.raw, res.flags ||| (if r.2 then flNX else 0)⟩

/-- Convert between any two formats (R290): an unchanged format keeps its bits, but for NaN. -/
def convert (dst src rnd : Nat) (sat : Bool) (raw : Nat) : FRes :=
  if fmtIsInt dst then
    (if fmtIsInt src then fitInt dst sat (decodeI src raw) else toI dst rnd sat (decodeF src raw))
  else if dst = src then
    (match decodeF src raw with
     | .nan => ⟨fmtNaN dst, 0⟩
     | _ => ⟨raw % 2 ^ fmtBits dst, 0⟩)
  else toF dst rnd sat (decodeVal src raw)

/-! ## Exact operations -/

def FVal.neg : FVal → FVal
  | .nan => .nan
  | .inf s => .inf (!s)
  | .fin s m e => .fin (!s) m e

/-- The value with magnitude only. -/
def FVal.abs : FVal → FVal
  | .nan => .nan
  | .inf _ => .inf false
  | .fin _ m e => .fin false m e

/-- A product, and whether it is invalid (0 x infinity). -/
def fmulV (a b : FVal) : FVal × Bool :=
  match a, b with
  | .nan, _ => (.nan, false)
  | _, .nan => (.nan, false)
  | .inf s, .inf t => (.inf (s != t), false)
  | .inf s, .fin t m _ => if m = 0 then (.nan, true) else (.inf (s != t), false)
  | .fin s m _, .inf t => if m = 0 then (.nan, true) else (.inf (s != t), false)
  | .fin s m e, .fin t n d => (.fin (s != t) (m * n) (e + d), false)

/-- The exact signed sum of finite terms, as an integer multiple of a power of two. -/
def dySum : List (Bool × Nat × Int) → Int × Int
  | [] => (0, 0)
  | (s, m, e) :: l =>
    let r := dySum l
    let v : Int := if s then -(m : Int) else m
    if m = 0 then r
    else if r.1 = 0 then (v, e)
    else if e ≤ r.2 then (v + r.1 * (2 ^ (r.2 - e).toNat : Nat), e)
    else (v * (2 ^ (e - r.2).toNat : Nat) + r.1, r.2)

/-- Finite terms of a list. -/
def finTerms (l : List FVal) : List (Bool × Nat × Int) :=
  l.filterMap (fun v => match v with | .fin s m e => some (s, m, e) | _ => none)

/-- An exact sum (R170, R179): NaN, infinities of both signs, an infinity, or the finite sum; and whether it is invalid
(infinities of both signs and no NaN). -/
def fsumV (rnd : Nat) (l : List FVal) : FVal × Bool :=
  let isNan := l.any (fun v => match v with | .nan => true | _ => false)
  let pinf := l.any (fun v => match v with | .inf false => true | _ => false)
  let ninf := l.any (fun v => match v with | .inf true => true | _ => false)
  if isNan then (.nan, false)
  else if pinf && ninf then (.nan, true)
  else if pinf then (.inf false, false)
  else if ninf then (.inf true, false)
  else
    let ts := finTerms l
    let r := dySum ts
    if r.1 = 0 then
      let allNegZero := ts.all (fun t => t.1 && decide (t.2.1 = 0)) && !ts.isEmpty
      (.fin (allNegZero || decide (rnd = 2)) 0 0, false)
    else (.fin (decide (r.1 < 0)) r.1.natAbs r.2, false)

def invFlag (b : Bool) : BitVec 6 := if b then flIV else 0

def FRes.orFlags (r : FRes) (f : BitVec 6) : FRes := ⟨r.raw, r.flags ||| f⟩

def faddF (f rnd : Nat) (sat : Bool) (a b : FVal) : FRes :=
  let v := fsumV rnd [a, b]
  (toF f rnd sat v.1).orFlags (invFlag v.2)

def fmulF (f rnd : Nat) (sat : Bool) (a b : FVal) : FRes :=
  let v := fmulV a b
  (toF f rnd sat v.1).orFlags (invFlag v.2)

/-- `a x b + c`, one rounding. -/
def ffmaF (f rnd : Nat) (sat : Bool) (a b c : FVal) : FRes :=
  let p := fmulV a b
  let v := fsumV rnd [p.1, c]
  (toF f rnd sat v.1).orFlags (invFlag (p.2 || v.2))

/-- Division (R288). A finite nonzero value divided by zero gives an infinity and DZ with the saturation flag too: R170's table has no
column for it (DEDUCED, log entry 21). -/
def fdivF (f rnd : Nat) (sat : Bool) (a b : FVal) : FRes :=
  match a, b with
  | .nan, _ => toF f rnd sat .nan
  | _, .nan => toF f rnd sat .nan
  | .inf _, .inf _ => (toF f rnd sat .nan).orFlags flIV
  | .inf s, .fin t _ _ => toF f rnd sat (.inf (s != t))
  | .fin s _ _, .inf t => toF f rnd sat (.fin (s != t) 0 0)
  | .fin s m e, .fin t n d =>
    if n = 0 then
      (if m = 0 then (toF f rnd sat .nan).orFlags flIV else (toF f rnd false (.inf (s != t))).orFlags flDZ)
    else if m = 0 then toF f rnd sat (.fin (s != t) 0 0)
    else
      let q := m * 2 ^ 128 / n
      roundF f rnd sat (s != t) q (e - d - 128) (decide (m * 2 ^ 128 % n ≠ 0))

/-- Integer square root by bits: the largest r below 2^n with r x r at most `m`. -/
def isqrt : Nat → Nat → Nat → Nat
  | 0, _, r => r
  | n + 1, m, r => let t := r + 2 ^ n; if t * t ≤ m then isqrt n m t else isqrt n m r

/-- Square root (R288). -/
def fsqrtF (f rnd : Nat) (sat : Bool) (a : FVal) : FRes :=
  match a with
  | .nan => toF f rnd sat .nan
  | .inf false => toF f rnd sat (.inf false)
  | .inf true => (toF f rnd sat .nan).orFlags flIV
  | .fin s m e =>
    if m = 0 then toF f rnd sat (.fin s 0 0)
    else if s then (toF f rnd sat .nan).orFlags flIV
    else
      let odd := e % 2 ≠ 0
      let m2 := (if odd then m * 2 else m) * 2 ^ 128
      let e2 := (if odd then e - 1 else e) - 128
      let r := isqrt 96 m2 0
      roundF f rnd sat false r (e2 / 2) (decide (r * r ≠ m2))

/-! ## Comparison -/

/-- The order of two values that are not NaN: below, equal, above; -0 and +0 are equal. -/
def fcmpV (a b : FVal) : Option Ordering :=
  match a, b with
  | .nan, _ => none
  | _, .nan => none
  | .inf s, .inf t => some (if s = t then .eq else if s then .lt else .gt)
  | .inf s, .fin _ _ _ => some (if s then .lt else .gt)
  | .fin _ _ _, .inf t => some (if t then .gt else .lt)
  | .fin s m e, .fin t n d =>
    let r := dySum [(s, m, e), (!t, n, d)]
    some (if r.1 = 0 then .eq else if r.1 < 0 then .lt else .gt)

/-- The test FCOND (R245). -/
def fcond (c : Nat) (o : Option Ordering) : Bool :=
  match c, o with
  | 0, some .eq => true
  | 1, some .eq => false
  | 1, _ => true
  | 2, some .lt => true
  | 3, some .lt => true
  | 3, some .eq => true
  | 4, some .gt => true
  | 5, some .gt => true
  | 5, some .eq => true
  | 6, none => true
  | 7, some _ => true
  | _, _ => false

def FVal.isNeg : FVal → Bool
  | .nan => false
  | .inf s => s
  | .fin s _ _ => s

/-- Whether a value orders below another, -0 below +0 (R289). -/
def fltZ (a b : FVal) : Bool :=
  match fcmpV a b with
  | some .lt => true
  | some .eq => a.isNeg && !b.isNeg
  | _ => false

/-- Minimum or maximum on bit patterns (R289). -/
def fminmax (f : Nat) (isMax : Bool) (ra rb : Nat) : Nat :=
  let a := decodeF f ra
  let b := decodeF f rb
  let w := 2 ^ fmtBits f
  match a, b with
  | .nan, .nan => fmtNaN f
  | .nan, _ => rb % w
  | _, .nan => ra % w
  | _, _ => if isMax then (if fltZ a b then rb % w else ra % w) else (if fltZ b a then rb % w else ra % w)

/-! ## 2^a, 1/a, 1/sqrt a -/

/-- 2^f in 2^-128 steps, rounded down at each factor: `bs` are the fraction's bits from 2^-1 down, `cur` the last
root of two. -/
def exp2Frac : List Bool → Nat → Nat → Nat
  | [], _, acc => acc
  | b :: bs, cur, acc =>
    let t := isqrt 130 (cur * 2 ^ 128) 0
    exp2Frac bs t (if b then acc * t / 2 ^ 128 else acc)

/-- Bits of a fraction `m / 2^k` from 2^-1 down, 64 of them. -/
def fracBits (m k : Nat) : List Bool :=
  (List.range 64).map (fun i => if i < k then m.testBit (k - 1 - i) else false)

/-- `fexp2` of a finite FP32 value (R291); an inexact result is one of its two neighbours (log entry 9). -/
def exp2Fin (raw : BitVec 32) (neg : Bool) (m : Nat) (e : Int) : FRes :=
  if m = 0 then ⟨0x3F800000, 0⟩
  else if 0 ≤ e then
    let n := m * 2 ^ min e.toNat 64
    if neg then roundF 8 0 false false 1 (-(min n 4096 : Nat)) false
    else if 128 ≤ n then overflowRes 8 0 false false else roundF 8 0 false false 1 n false
  else
    let k := (-e).toNat
    let fm := m % 2 ^ k
    let ip : Int := ((m / 2 ^ k : Nat) : Int)
    if fm = 0 then
      (if neg then roundF 8 0 false false 1 (-(min ip 4096)) false
       else if 128 ≤ ip then overflowRes 8 0 false false else roundF 8 0 false false 1 ip false)
    else
      let n : Int := if neg then -ip - 1 else ip
      let fr := if neg then 2 ^ k - fm else fm
      if 128 ≤ n then overflowRes 8 0 false false
      else if n < -4096 then roundF 8 (if Config.exp2Up raw then 3 else 1) false false 0 (-8192) true
      else
        let v := exp2Frac (fracBits fr k) (2 * 2 ^ 128) (2 ^ 128)
        roundF 8 (if Config.exp2Up raw then 3 else 1) false false v (n - 128) true

/-- `fexp2`, `vexp2` (R291). -/
def exp2F (raw : BitVec 32) : FRes :=
  match decodeF 8 raw.toNat with
  | .nan => ⟨fmtNaN 8, 0⟩
  | .inf false => ⟨fmtInfBits 8, 0⟩
  | .inf true => ⟨0, 0⟩
  | .fin neg m e => exp2Fin raw neg m e

end Sys2Proof.Machine
end

