-- ==== Sys2Proof/Machine/Caps.lean ====
section
/-! DEFINITION. Capabilities: the fields of the metadata word (R14), malformed and sealed (R16, R17), the bounds decode
(R18), the representable region (R19) and the bounds encoder (R20). -/

namespace Sys2Proof.Machine

open Sys2Proof

/-- The permission bits of R15, by their bit number in the metadata word. -/
def permLoad : Nat := 63
def permStore : Nat := 62
def permExec : Nat := 61
def permLoadCap : Nat := 60
def permStoreCap : Nat := 59
def permGive : Nat := 58
def permCommit : Nat := 57
def permAtomic : Nat := 56
def permEngine : Nat := 55
def permStorage : Nat := 54

def mdPerm (md : Word) : Nat := bits md 63 52
def mdSeal (md : Word) : Nat := bits md 51 48
def mdE (md : Word) : Nat := bits md 47 42
def mdB (md : Word) : Nat := bits md 41 21
def mdT (md : Word) : Nat := bits md 20 0

/-- Whether every permission of a list is held (R15). -/
def mdHas (md : Word) (ps : List Nat) : Bool := ps.all (fun p => bit md p)

/-- R16. -/
def mdMalformed (md : Word) : Bool := decide (40 < mdE md) || decide (bits md 53 52 ≠ 0)

/-- A metadata word with its seal replaced. -/
def mdSetSeal (md : Word) (s : Nat) : Word := wd (md.toNat - mdSeal md * 2 ^ 48 + s % 16 * 2 ^ 48)

/-- A metadata word with its bounds fields replaced. -/
def mdSetBounds (md : Word) (e b t : Nat) : Word :=
  wd (bits md 63 48 * 2 ^ 48 + e % 64 * 2 ^ 42 + b % 2 ^ 21 * 2 ^ 21 + t % 2 ^ 21)

/-- The whole-space capability (R18). -/
def mdWhole (md : Word) : Bool := decide (mdE md = 40) && decide (mdB md = mdT md)

/-- The decoded base, exact (R18). -/
def capBase (a md : Word) : Int :=
  if mdWhole md then 0 else
    let e := mdE md
    let amid : Nat := a.toNat / 2 ^ e % 2 ^ 21
    let d : Nat := (amid + 2 ^ 21 - mdB md) % 2 ^ 21
    let dist : Int := if 2 ^ 20 ≤ d then Int.ofNat d - 2 ^ 21 else Int.ofNat d
    Int.ofNat (a.toNat - a.toNat % 2 ^ e) - dist * Int.ofNat (2 ^ e)

/-- Top less base (R18). -/
def capSpan (md : Word) : Nat := (mdT md + 2 ^ 21 - mdB md) % 2 ^ 21 * 2 ^ mdE md

/-- The decoded top, exact (R18). -/
def capTop (a md : Word) : Int := if mdWhole md then 2 ^ 64 else capBase a md + capSpan md

/-- A valid capability: its base is not negative and its top does not exceed 2^64 (R18). -/
def capValid (a md : Word) : Bool := decide (0 ≤ capBase a md) && decide (capTop a md ≤ 2 ^ 64)

/-- Whether an address lies in the representable region of the capability at `a` (R19). -/
def capRepresentable (a md new : Word) : Bool :=
  mdWhole md ||
    (decide (capBase a md - (2 ^ (mdE md + 20) : Nat) ≤ (new.toNat : Int))
      && decide ((new.toNat : Int) < capBase a md + (2 ^ (mdE md + 20) : Nat)))

/-- Whether the bounds cover `n` bytes from `ea` (R27, check 5). -/
def capCovers (c : Cap) (ea : Word) (n : Nat) : Bool :=
  capValid c.addr c.md && decide (capBase c.addr c.md ≤ (ea.toNat : Int))
    && decide ((ea.toNat + n : Nat) ≤ capTop c.addr c.md)

/-- What the encoder of R20 makes of requested bounds. -/
structure EncBounds where
  e : Nat
  b : Nat
  t : Nat
  base : Nat       -- the encoded bounds
  top : Nat
  wider : Bool     -- wider than requested
  clear : Bool     -- the tags are cleared: no E up to 40 encodes the request
  deriving DecidableEq, Repr

/-- Round down to a multiple of 2^e. -/
def roundDown (n e : Nat) : Nat := n - n % 2 ^ e

/-- Round up to a multiple of 2^e. -/
def roundUp (n e : Nat) : Nat := (n + 2 ^ e - 1) / 2 ^ e * 2 ^ e

/-- Step 1 of R20: the smallest exponent, from `e`, whose rounded bounds fit. -/
def findE : Nat → Nat → Nat → Nat → Option Nat
  | 0, _, _, _ => none
  | fuel + 1, e, base, top =>
    if roundUp top e - roundDown base e ≤ 2 ^ (e + 20) then some e else findE fuel (e + 1) base top

/-- R20. `whole` says that the source is the whole-space capability. -/
def encodeBounds (whole : Bool) (base top : Nat) : EncBounds :=
  match findE 41 0 base top with
  | some e =>
    let b := roundDown base e
    let t := roundUp top e
    ⟨e, b / 2 ^ e % 2 ^ 21, t / 2 ^ e % 2 ^ 21, b, t, decide (b ≠ base ∨ t ≠ top), false⟩
  | none =>
    let b := roundDown base 40
    let t := roundUp top 40
    if whole then ⟨40, 0, 0, 0, 2 ^ 64, decide (base ≠ 0 ∨ top ≠ 2 ^ 64), false⟩
    else ⟨40, b / 2 ^ 40 % 2 ^ 21, t / 2 ^ 40 % 2 ^ 21, b, t, true, true⟩

/-- A capability moved to another address: its tags clear when the address leaves the representable region (R19). -/
def Cap.move (c : Cap) (a : Word) : Cap := ⟨a, c.md, c.tag && capRepresentable c.addr c.md a⟩

/-- The metadata unsealed (R17). -/
def Cap.unsealed (c : Cap) : Cap := ⟨c.addr, mdSetSeal c.md 0, c.tag⟩

/-- A canonical address: bits [63:56] all equal (R9). -/
def canonical (a : Word) : Bool := decide (bits a 63 56 = 0) || decide (bits a 63 56 = 255)

/-- Checks 1 to 6 of R27 for `n` bytes at `ea` with the permissions `ps`: the cause of the first that fails. -/
def capCheck (c : Cap) (ps : List Nat) (ea : Word) (n : Nat) : Option Nat :=
  if !c.tag then some 1
  else if mdMalformed c.md then some 7
  else if mdSeal c.md ≠ 0 then some 2
  else if !mdHas c.md ps then some 3
  else if !capCovers c ea n then some 4
  else if !(canonical ea && canonical (ea + wd (n - 1))) then some 5
  else none

end Sys2Proof.Machine
end

