-- ==== Sys2Proof/Machine/Access.lean ====
section
/-! DEFINITION. Reading and writing the parts of the state: cores, contexts, clusters, registers, predicates, masks,
queues, semaphores, bank slots, memory bytes with their tags and poison, and the geometry of the mesh (R3, R64). -/

namespace Sys2Proof.Machine

open Sys2Proof

/-! ## Parts of the state -/

def State.core (s : State) (g : Nat) : Core := Sparse.look Core.reset s.cores g
def State.setCore (s : State) (g : Nat) (c : Core) : State := { s with cores := Sparse.put Core.reset s.cores g c }
def State.updCore (s : State) (g : Nat) (f : Core → Core) : State := s.setCore g (f (s.core g))

def Core.ctx (c : Core) (i : Nat) : Ctx := Sparse.look Ctx.reset c.ctxs i
def Core.setCtx (c : Core) (i : Nat) (x : Ctx) : Core := { c with ctxs := Sparse.put Ctx.reset c.ctxs i x }
def Core.updCtx (c : Core) (i : Nat) (f : Ctx → Ctx) : Core := c.setCtx i (f (c.ctx i))

def State.ctx (s : State) (a : Agent) : Ctx := (s.core a.gid).ctx a.ctx
def State.setCtx (s : State) (a : Agent) (x : Ctx) : State := s.updCore a.gid (fun c => c.setCtx a.ctx x)
def State.updCtx (s : State) (a : Agent) (f : Ctx → Ctx) : State := s.setCtx a (f (s.ctx a))

def State.cluster (s : State) (c : Nat) : Cluster := Sparse.look Cluster.reset s.clusters c
def State.setCluster (s : State) (c : Nat) (x : Cluster) : State :=
  { s with clusters := Sparse.put Cluster.reset s.clusters c x }
def State.updCluster (s : State) (c : Nat) (f : Cluster → Cluster) : State := s.setCluster c (f (s.cluster c))

def State.updDev (s : State) (f : Device → Device) : State := { s with dev := f s.dev }

def Cluster.slice (c : Cluster) (i : Nat) : Slice := Sparse.look Slice.reset c.slices i
def State.updSlice (s : State) (c i : Nat) (f : Slice → Slice) : State :=
  s.updCluster c (fun k => { k with slices := Sparse.put Slice.reset k.slices i (f (k.slice i)) })

def Cluster.stream (c : Cluster) (i : Nat) : Stream := Sparse.look Stream.reset c.streams i
def State.updStream (s : State) (c i : Nat) (f : Stream → Stream) : State :=
  s.updCluster c (fun k => { k with streams := Sparse.put Stream.reset k.streams i (f (k.stream i)) })

/-! ## Geometry -/

/-- Compute cores are 0-2047; the service core of cluster c is 2048 + c (log entry 18). -/
def isSvc (g : Nat) : Bool := decide (2048 ≤ g)
def gidCl (g : Nat) : Nat := if g < 2048 then g / 256 else (g - 2048) % 8
def gidIdx (g : Nat) : Nat := if g < 2048 then g % 256 else 0
def gidOf (cl idx : Nat) : Nat := 256 * (cl % 8) + idx % 256
def svcOf (cl : Nat) : Nat := 2048 + cl % 8

/-- Mesh position of a compute core (R3). -/
def gidX (g : Nat) : Nat := 16 * (gidCl g % 4) + gidIdx g % 16
def gidY (g : Nat) : Nat := 16 * (gidCl g / 4) + gidIdx g / 16

/-- The core at a mesh position (R3). -/
def gidAt (x y : Nat) : Nat := 256 * (x / 16 + 4 * (y / 16)) + 16 * (y % 16) + x % 16

/-- The latency class of two core indices of one cluster (R64). -/
def latency (i j : Nat) : Nat :=
  let xi := i % 16
  let yi := i / 16
  let xj := j % 16
  let yj := j / 16
  if xi / 2 = xj / 2 ∧ yi / 2 = yj / 2 then 1
  else if xi / 4 = xj / 4 ∧ yi / 4 = yj / 4 then 3
  else if xi / 8 = xj / 8 ∧ yi / 8 = yj / 8 then 5
  else 7

/-! ## Registers -/

/-- Scalar register `n`; `x0` reads zero with its tag clear (R21). -/
def Ctx.getX (c : Ctx) (n : Nat) : Reg := if n = 0 then Reg.zero else Sparse.look Reg.zero c.x n

/-- Put a register with its tag; a write to `x0` is discarded (R239). -/
def Ctx.putX (c : Ctx) (n : Nat) (r : Reg) : Ctx := if n = 0 then c else { c with x := Sparse.put Reg.zero c.x n r }

/-- The other register of a pair. -/
def pairMate (n : Nat) : Nat := if n % 2 = 0 then n + 1 else n - 1

/-- An ordinary scalar write: the tags of both registers of the pair clear (R21). -/
def Ctx.writeX (c : Ctx) (n : Nat) (v : Word) : Ctx :=
  if n = 0 then c
  else (c.putX n ⟨v, false⟩).putX (pairMate n) ⟨(c.getX (pairMate n)).val, false⟩

/-- The pair whose even register is `n`, as a capability (R14). -/
def Ctx.getPair (c : Ctx) (n : Nat) : Cap :=
  ⟨(c.getX n).val, (c.getX (n + 1)).val, (c.getX n).tag && (c.getX (n + 1)).tag⟩

/-- Write a pair with its tags; the pair of `x0` never holds a capability (R14). -/
def Ctx.writePair (c : Ctx) (n : Nat) (k : Cap) : Ctx :=
  (c.putX n ⟨k.addr, k.tag⟩).putX (n + 1) ⟨k.md, k.tag && decide (n ≠ 0)⟩

def Ctx.getV (c : Ctx) (n : Nat) : Line := Sparse.look 0 c.v n
def Ctx.writeV (c : Ctx) (n : Nat) (v : Line) : Ctx := { c with v := Sparse.put 0 c.v n v }
def Ctx.getK (c : Ctx) (n : Nat) : BitVec 32 := Sparse.look 0 c.k n
def Ctx.writeK (c : Ctx) (n : Nat) (v : BitVec 32) : Ctx := { c with k := Sparse.put 0 c.k n v }

/-- Predicate `n`; `p0` reads true (R237). -/
def Ctx.getP (c : Ctx) (n : Nat) : Bool := if n = 0 then true else Sparse.look false c.p n
/-- A write to `p0` is discarded (R239). -/
def Ctx.writeP (c : Ctx) (n : Nat) (b : Bool) : Ctx := if n = 0 then c else { c with p := Sparse.put false c.p n b }

def Ctx.getLq (c : Ctx) (q : Nat) : List QEntry := Sparse.look [] c.lq q
def Ctx.putLq (c : Ctx) (q : Nat) (l : List QEntry) : Ctx := { c with lq := Sparse.put [] c.lq q l }
def Ctx.getSq (c : Ctx) (q : Nat) : List QEntry := Sparse.look [] c.sq q
def Ctx.putSq (c : Ctx) (q : Nat) (l : List QEntry) : Ctx := { c with sq := Sparse.put [] c.sq q l }

/-! ## Semaphores and slots of a core -/

def Core.sem (c : Core) (n : Nat) : Sem := Sparse.look Sem.reset c.sems n
def Core.setSem (c : Core) (n : Nat) (v : Sem) : Core := { c with sems := Sparse.put Sem.reset c.sems n v }

/-- A saturating addition to a semaphore; saturation sets the sticky overflow bit (R243). -/
def Core.addSem (c : Core) (n k : Nat) : Core :=
  let r := satAdd16 (c.sem n).val k
  c.setSem n ⟨r.1, (c.sem n).ovf || r.2⟩

def State.addSem (s : State) (g n k : Nat) : State := s.updCore g (fun c => c.addSem n k)

/-- An addition, and a set by an agent, that an instruction's retirement makes: they take effect in the first step of the next
cycle (R244, R265). -/
def State.addSemNext (s : State) (g n k : Nat) : State := s.updCore g (fun c => { c with semAdds := c.semAdds ++ [(n, k)] })
def State.setSemNext (s : State) (a : Agent) (n : Nat) (v : BitVec 16) : State :=
  s.updCore a.gid (fun c => { c with semSets := c.semSets ++ [(a.ctx, n, v)] })

/-- Insert by a key, keeping equal keys in order. -/
def insBy {α : Type} (key : α → Nat) (a : α) : List α → List α
  | [] => [a]
  | b :: l => if key a ≤ key b then a :: b :: l else b :: insBy key a l

def sortBy {α : Type} (key : α → Nat) (l : List α) : List α := l.foldr (insBy key) []

/-- The first step of a cycle (R244): every set, that of the highest agent standing, then every addition. -/
def Core.semStep (c : Core) : Core :=
  if c.semSets.isEmpty && c.semAdds.isEmpty then { c with lastTurn := 0 }
  else
    let c1 := (sortBy (fun e => e.1) c.semSets).foldl (fun (k : Core) e => k.setSem e.2.1 ⟨e.2.2, false⟩) c
    let c2 := c.semAdds.foldl (fun (k : Core) e => k.addSem e.1 e.2) c1
    { c2 with semSets := [], semAdds := [], lastTurn := 0 }

def Core.slot (c : Core) (n : Nat) : Slot := Sparse.look Slot.empty c.slots n
def Core.setSlot (c : Core) (n : Nat) (v : Slot) : Core := { c with slots := Sparse.put Slot.empty c.slots n v }
def Slot.isEmpty (t : Slot) : Bool := !t.valid && !t.out && !t.inn

def Core.chan (c : Core) (n : Nat) : Channel := Sparse.look Channel.reset c.chans n
def Core.setChan (c : Core) (n : Nat) (v : Channel) : Core := { c with chans := Sparse.put Channel.reset c.chans n v }
def Matrix.plane (m : Matrix) (n : Nat) : Plane := Sparse.look Plane.reset m.planes n
def Matrix.setPlane (m : Matrix) (n : Nat) (p : Plane) : Matrix := { m with planes := Sparse.put Plane.reset m.planes n p }

/-! ## Memory: home addresses, bytes, tags, poison -/

/-- Scratch banks lie above the 52-bit physical space in the home address space. -/
def scratchBase : Nat := 2 ^ 52

/-- Home address of an offset in a bank of a cluster (R60). -/
def bankAddr (cl bank off : Nat) : Nat := scratchBase + (cl * 2048 + bank) * 65536 + off

def isScratch (addr : Nat) : Bool := decide (scratchBase ≤ addr)

/-- The cluster and bank that hold a scratch home address. -/
def bankOf (addr : Nat) : Nat × Nat :=
  let b := (addr - scratchBase) / 65536
  (b / 2048, b % 2048)

/-- One byte at its home. -/
def State.byte (s : State) (addr : Nat) : Byte := Sparse.look 0 s.mem addr

def State.setByte (s : State) (addr : Nat) (b : Byte) : State := { s with mem := Sparse.put 0 s.mem addr b }

/-- `n` bytes at their home. -/
def State.bytes (s : State) (addr : Nat) : Nat → List Byte
  | 0 => []
  | n + 1 => s.byte addr :: s.bytes (addr + 1) n

/-- Write bytes at their home. -/
def State.setBytes (s : State) (addr : Nat) : List Byte → State
  | [] => s
  | b :: l => (s.setByte addr b).setBytes (addr + 1) l

/-- A granule's tag (R22). -/
def State.tagAt (s : State) (addr : Nat) : Bool := s.tags.contains (addr / 16)

def State.setTag (s : State) (addr : Nat) (b : Bool) : State := { s with tags := natSet s.tags (addr / 16) b }

/-- Clear the tags of every granule that `n` bytes overlap. -/
def State.clearTags (s : State) (addr n : Nat) : State :=
  if n = 0 then s
  else { s with tags := s.tags.filter (fun g => !(decide (addr / 16 ≤ g) && decide (g ≤ (addr + n - 1) / 16))) }

/-- Whether the line of an address is poisoned (R436). -/
def State.poisoned (s : State) (addr : Nat) : Bool := s.poison.contains (addr / 128)

def State.setPoison (s : State) (addr : Nat) (b : Bool) : State := { s with poison := natSet s.poison (addr / 128) b }

/-- A 64-bit word at its home. -/
def State.word (s : State) (addr : Nat) : Word := wordOf (s.bytes addr 8)

/-! ## Error counters (R431) -/

/-- One count of an error counter: counter number in the order of R428 OP 0x0A, and its unit. -/
def State.count (s : State) (ctr unit n : Nat) : State :=
  s.updDev (fun d =>
    let k := 4096 * ctr + unit
    let v := (Sparse.look (0 : BitVec 32) d.ctr k).toNat + n
    { d with ctr := Sparse.put 0 d.ctr k (if v < 2 ^ 32 then BitVec.ofNat 32 v else 0xFFFFFFFF) })

/-! ## Tasks, launches -/

def State.launch? (s : State) (lid : Nat) : Option Launch := s.dev.launches.find? (fun l => l.lid == lid)

def State.updLaunch (s : State) (lid : Nat) (f : Launch → Launch) : State :=
  s.updDev (fun d => { d with launches := d.launches.map (fun l => if l.lid == lid then f l else l) })

/-- The stage of the task bound to a core. -/
def State.stage? (s : State) (g : Nat) : Option Stage :=
  match (s.core g).task with
  | none => none
  | some t => (s.launch? t.lid).bind (fun l => l.stages[t.stage]?)

/-- One move later. -/
def State.tick (s : State) : State := { s with now := s.now + 1 }

/-- A readiness bit (R429). -/
def State.ready (s : State) (i : Nat) : Bool := bit s.dev.rdy i

/-- Agents of a core that own a program counter. -/
def State.liveAgents (s : State) (g : Nat) : List Agent :=
  ((s.core g).ctxs.filter (fun e => e.2.live)).map (fun e => ⟨g, e.1⟩)

end Sys2Proof.Machine
end

