-- ==== Sys2Proof/Machine/Translate.lean ====
section
/-! DEFINITION. From an effective address to its home: the scratch region and its slots (R11, R12), the TLB (R33-R35),
misses and their trackers (R37, R38), format windows (R104), the physical map (R109, R112), migration forwarding (R57),
home slices (R88-R91), and the checks of R27 in their order. -/

namespace Sys2Proof.Machine

open Sys2Proof

/-! ## The physical map -/

def memTop (s : State) : Nat := bits s.dev.memmap 51 12 * 4096
def memHend (s : State) : Nat := bits s.dev.memhole 51 12 * 4096

def hostBase : Nat := 2 ^ 51
def hostEnd : Nat := 0xC000000000000
def tierBase : Nat := 0x200000000000

/-- Bytes that the Ubhal keeps above the hole (R110; their place is presumed, log entry 19). -/
def ubhalBytes : Nat := 16384 * 4096

/-- Whether an address lies in the Ubhal's own granules (R110). -/
def inUbhal (s : State) (pa : Nat) : Bool :=
  decide (memHend s ≠ 0) && decide (memHend s ≤ pa) && decide (pa < memHend s + ubhalBytes)

def State.peer (s : State) (g : Nat) : Peer := Sparse.look Peer.reset s.dev.peers g

/-- Whether a queue pool holds an address (R187). -/
def inPool (s : State) (pa : Nat) : Bool :=
  s.dev.pools.any (fun e => decide (e.2.base ≤ pa) && decide (pa < e.2.base + e.2.size))

/-- Whether a core's access to a physical address is handled as an access to a hole or a reserved range (R109, R112,
R187, R417, R424). `part` is the accessor's partition, a service core's as well; the device's own accesses have none. -/
def reservedPA (s : State) (part : Option Nat) (svc : Bool) (pa : Nat) : Bool :=
  if isScratch pa then false
  else if pa < memTop s then part.isSome && inPool s pa
  else if inUbhal s pa then !(svc || part.isNone)
  else if tierBase ≤ pa ∧ pa < 2 * tierBase then
    let p := (pa - tierBase) / 2 ^ 42
    !(s.ready (40 + p) && decide ((pa - tierBase) % 2 ^ 42 < Sparse.look 0 s.dev.tierMem p))
  else if hostBase ≤ pa ∧ pa < hostEnd then false
  else if hostEnd ≤ pa ∧ pa < scratchBase then
    let q := s.peer ((pa - hostEnd) / 2 ^ 46)
    match part with
    | none => !q.valid
    | some t => !(q.valid && decide (q.part = t))
  else true

/-- The DRAM channel that holds an address of the DRAM region (R111). -/
def State.channelOf (s : State) (pa : Nat) : Option Nat := s.dev.avail[(pa / 4096) % s.dev.avail.length]?

/-- Whether an access has to wait for a function that is not ready: a DRAM stack, or every port to a peer (R430). An access
that is handled as one to a reserved range waits for nothing (R417). -/
def notReadyPA (s : State) (part : Option Nat) (svc : Bool) (pa : Nat) : Bool :=
  if reservedPA s part svc pa then false
  else if pa < memTop s then
    match s.channelOf pa with
    | none => false
    | some ch => !s.ready (ch / 32)
  else if hostEnd ≤ pa ∧ pa < scratchBase then
    !(List.range 16).any (fun p => (s.peer ((pa - hostEnd) / 2 ^ 46)).ports.getLsbD p && s.ready (24 + p))
  else false

/-- The new address of a line that a migration has copied (R57); a page's addresses wrap at 52 bits (R10, R42). -/
def Migration.fwd (m : Migration) (pa : Nat) : Nat :=
  let d := (pa + 2 ^ 52 - m.src) % 2 ^ 52
  if pa < 2 ^ 52 ∧ d < m.bytes ∧ d / 128 < m.copied then m.dst + d else pa

/-- Where an access to a frame goes: each migration in turn, the oldest first, so that a frame moved twice leads to its last
place (R57). -/
def fwdAddr (s : State) (pa : Nat) : Nat := s.dev.migs.foldl (fun a m => m.fwd a) pa

/-! ## Home slices -/

def State.hrng (s : State) (i : Nat) : Words3 := Sparse.look Words3.zero s.dev.hrng i

/-- The home cluster of a physical address (R89). -/
def homeCluster (s : State) (pa : Nat) : Nat :=
  match (List.range 16).find? (fun i =>
      let e := s.hrng i
      bit e.w0 63 && decide (bits e.w0 51 30 ≤ pa / 2 ^ 30) && decide (pa / 2 ^ 30 ≤ bits e.w1 51 30)) with
  | some i => bits (s.hrng i).w0 54 52
  | none => pa / 2 ^ 30 % 8

/-- The bucket of a physical address (R90). -/
def bucket (pa : Nat) : Nat :=
  (List.range 8).foldl (fun b i => b ^^^ (pa / 2 ^ (7 + 6 * i) % (if i = 7 then 8 else 64))) 0

/-- Reset value of the bucket table registers (R91). -/
def bktReset : Word := 0xFEDCBA9876543210

def Cluster.bktReg (c : Cluster) (i : Nat) : Word := Sparse.look bktReset c.bkt i

/-- The home slice of a line: cluster and slice (R88). -/
def homeSlice (s : State) (pa : Nat) : Nat × Nat :=
  let c := homeCluster s pa
  let b := bucket pa
  (c, bits ((s.cluster c).bktReg (b / 16)) (4 * (b % 16) + 3) (4 * (b % 16)))

/-! ## Format windows -/

def State.fwin (s : State) (i : Nat) : Words3 := Sparse.look Words3.zero s.dev.fwin i

def fwinBase (w : Words3) : Nat := bits w.w0 51 12 * 4096
def fwinEnd (w : Words3) : Nat := (bits w.w1 51 12 + 1) * 4096

/-- The active window that governs an address, if any: the lowest-numbered (R105). -/
def windowOf (s : State) (pa : Nat) : Option Nat :=
  (List.range 16).find? (fun i =>
    let w := s.fwin i
    bit w.w0 63 && decide (fwinBase w ≤ pa) && decide (pa < fwinEnd w))

/-! ## The TLB -/

/-- Address bits below a page of a size code (R34). -/
def pageBits (size : Nat) : Nat := if size = 0 then 16 else if size = 1 then 21 else 30

/-- The virtual address as 57 bits. -/
def va57 (va : Word) : Nat := va.toNat % 2 ^ 57

def TlbEntry.covers (e : TlbEntry) (va : Word) (dom : Nat) : Bool :=
  decide (e.dom = dom) && decide (va57 va / 2 ^ pageBits e.size = e.vpn * 65536 / 2 ^ pageBits e.size)

/-- The physical address of a byte of an entry's page, modulo 2^52 (R10, R42). -/
def TlbEntry.pa (e : TlbEntry) (va : Word) : Nat := (e.pfn * 65536 + va.toNat % 2 ^ pageBits e.size) % 2 ^ 52

/-- Look an address up: the entry that matches (R33). -/
def Core.lookup (c : Core) (va : Word) (dom : Nat) : Option TlbEntry := c.tlb.find? (fun e => e.covers va dom)

/-- Mark an entry as the most recently used. -/
def Core.touch (c : Core) (e : TlbEntry) : Core := { c with tlb := e :: c.tlb.filter (fun f => decide (f ≠ e)) }

/-- The page of an entry as a range of 57-bit addresses. -/
def TlbEntry.range (e : TlbEntry) : Nat × Nat :=
  (e.vpn * 65536, e.vpn * 65536 + 2 ^ pageBits e.size)

/-- Install an entry: overlapping entries of its domain go first; 128 entries, least recently used out (R33, R35). -/
def Core.install (c : Core) (e : TlbEntry) : Core :=
  let keep := c.tlb.filter (fun f =>
    !(decide (f.dom = e.dom) && decide (f.range.1 < e.range.2) && decide (e.range.1 < f.range.2)))
  { c with tlb := (e :: keep).take 128 }

/-- An entry from its two words, when they are well formed (R34). -/
def tlbOfWords (w0 w1 : Word) : Option TlbEntry :=
  let size := bits w0 22 21
  let vpn := bits w0 63 23
  let pfn := bits w1 51 16
  let g := 2 ^ (pageBits size - 16)
  if size = 3 ∨ bits w0 20 12 ≠ 0 ∨ bits w0 11 0 = 0xFFF ∨ bits w1 63 52 ≠ 0 ∨ bits w1 15 14 = 3 ∨ bits w1 9 0 ≠ 0
    ∨ vpn % g ≠ 0 ∨ pfn % g ≠ 0 then none
  else some ⟨vpn, size, bits w0 11 0, pfn, bits w1 15 14, bit w1 13, bit w1 12, bit w1 11, bit w1 10⟩

/-! ## The scratch region -/

def scratchLo : Nat := 0xFFFFFFFFF0000000
def localLo : Nat := 0xFFFFFFFFFFF80000
def clusterHi : Nat := 0xFFFFFFFFF8000000

/-- The home of `n` bytes at a scratch address, for an accessor of a core and domain; none is a detached address
(R12, R69). -/
def scratchHome (s : State) (g : Nat) (dom : BitVec 12) (ea : Word) (n : Nat) : Option Nat :=
  let a := ea.toNat
  if a % 65536 + n > 65536 then none
  else if localLo ≤ a then
    let t := (s.core g).slot ((a - localLo) / 65536)
    if t.valid && !isSvc g then some (bankAddr (gidCl g) t.bank (a % 65536)) else none
  else if a < clusterHi then
    let k := gidOf (gidCl g) ((a - scratchLo) / 0x80000)
    let t := (s.core k).slot ((a - scratchLo) % 0x80000 / 65536)
    if t.valid && decide ((s.core k).slotDom = dom) then some (bankAddr (gidCl g) t.bank (a % 65536)) else none
  else none

/-- Whether bytes lie in the scratch region, outside it, or on both sides. -/
def touchesScratch (ea : Word) (n : Nat) : Bool × Bool :=
  (decide (scratchLo ≤ ea.toNat) , decide (scratchLo ≤ ea.toNat) != decide (scratchLo ≤ (ea + wd (n - 1)).toNat))

/-! ## One access: the checks of R27 -/

/-- The access kinds of a miss record (R38). -/
def kLoad : Nat := 0
def kStore : Nat := 1
def kFetch : Nat := 2
def kAtomic : Nat := 3
def kLdc : Nat := 4
def kStc : Nat := 5
def kMulti : Nat := 6

/-- Whether an entry permits an access kind (R35). -/
def TlbEntry.permits (e : TlbEntry) (kind : Nat) : Bool :=
  if kind = kFetch then e.ex
  else if kind = kAtomic then e.rd && e.wr
  else if kind = kLoad ∨ kind = kLdc then e.rd
  else e.wr

/-- Whether an access kind is a processor store for check 10 (R107). -/
def kindStores (kind : Nat) : Bool := !(kind == kLoad || kind == kLdc || kind == kFetch)

/-- What the checks of one access come to. -/
inductive Checked where
  | ok (segs : List Seg) (used : List TlbEntry)
  | trap (kind sub : Nat) (val : Word)
  | miss (va : Word) (prot : Bool)
  deriving DecidableEq, Repr

/-- Cut `n` bytes at 64 KiB boundaries: address, length and place of each piece. -/
def cutPages : Nat → Word → Nat → Nat → List (Word × Nat × Nat)
  | 0, _, _, _ => []
  | fuel + 1, va, n, off =>
    if n = 0 then []
    else
      let m := min n (65536 - va.toNat % 65536)
      (va, m, off) :: cutPages fuel (va + wd m) (n - m) (off + m)

/-- The pages of an access: address, length and place of each part. -/
def pageParts (ea : Word) (n : Nat) : List (Word × Nat × Nat) := cutPages (n / 65536 + 2) ea n 0

/-- Check 9 of R27, page by page. -/
def translateParts (c : Core) (dom kind : Nat) : List (Word × Nat × Nat) → List Seg → List TlbEntry → Checked
  | [], segs, used => .ok segs.reverse used
  | (va, n, off) :: rest, segs, used =>
    match c.lookup va dom with
    | none => .miss va false
    | some e =>
      if e.permits kind then translateParts c dom kind rest (⟨e.pa va, n, off, e.attr⟩ :: segs) (e :: used)
      else .miss va true

/-- Checks 1 to 10 of R27 for `n` bytes at `ea` by a context of core `g` in domain `dom`, through `c` with the
permissions `ps`, aligned to `al`. -/
def checkAccess (s : State) (g : Nat) (dom : BitVec 12) (c : Cap) (ps : List Nat) (kind : Nat) (ea : Word) (n al : Nat) :
    Checked :=
  match capCheck c ps ea n with
  | some cause => .trap 1 cause ea
  | none =>
    if ea.toNat % al ≠ 0 then .trap 1 6 ea
    else if (touchesScratch ea n).2 then .trap 3 0 ea
    else if (touchesScratch ea n).1 then
      match scratchHome s g dom ea n with
      | none => .trap 3 0 ea
      | some h => .ok [⟨h, n, 0, 0⟩] []
    else
      match translateParts (s.core g) dom.toNat kind (pageParts ea n) [] [] with
      | .ok segs used =>
        if kindStores kind && segs.any (fun t => (windowOf s t.addr).isSome || (windowOf s (t.addr + t.len - 1)).isSome)
        then .trap 4 0 ea else .ok segs used
      | r => r

/-- Mark the entries an access used. -/
def State.touchAll (s : State) (g : Nat) (used : List TlbEntry) : State :=
  if used.isEmpty then s else s.updCore g (fun c => used.foldr (fun e k => k.touch e) c)

/-- The effective policy of an access on a page (R97). -/
def effPolicy (attr pol : Nat) : Nat := if attr = 2 then 4 else if attr = 1 then (if pol = 4 then 4 else 3) else pol

/-- Cut `n` bytes at aligned 8-byte boundaries: offset and length of each piece. -/
def cutWords : Nat → Nat → Nat → Nat → List (Nat × Nat)
  | 0, _, _, _ => []
  | fuel + 1, ea, n, off =>
    if n = 0 then []
    else
      let m := min n (8 - ea % 8)
      (off, m) :: cutWords fuel (ea + m) (n - m) (off + m)

/-- The cuts of an access into single-copy atomic units, as offsets and lengths (R129). `words` is an access that is atomic for
each aligned 8 bytes whatever its length (R437). -/
def unitCuts (ea n kind : Nat) (words : Bool) : List (Nat × Nat) :=
  if kind = kLdc ∨ kind = kStc then [(0, n)]
  else if n ≤ 8 ∧ !words then (if ea % n = 0 then [(0, n)] else (List.range n).map (fun i => (i, 1)))
  else cutWords (n / 8 + 2) ea n 0

/-- The segment of an access that holds an offset. -/
def segAt (segs : List Seg) (off : Nat) : Option Seg :=
  segs.find? (fun t => decide (t.off ≤ off) && decide (off < t.off + t.len))

/-- Home places of the units of a checked access. -/
def placeUnits (segs : List Seg) (cuts : List (Nat × Nat)) (pol : Nat) : List (Nat × Nat × Nat × Nat) :=
  cuts.filterMap (fun q =>
    (segAt segs q.1).map (fun t => (t.addr + (q.1 - t.off), q.2, q.1, effPolicy t.attr pol)))

def loadUnits (segs : List Seg) (ea n kind pol base : Nat) (words : Bool) : List AUnit :=
  (placeUnits segs (unitCuts ea n kind words) pol).map (fun q => ⟨q.1, q.2.1, base + q.2.2.1, q.2.2.2, none, false, false⟩)

def storeUnits (segs : List Seg) (ea n kind pol base : Nat) (words : Bool) : List SUnit :=
  (placeUnits segs (unitCuts ea n kind words) pol).map (fun q => ⟨q.1, q.2.1, base + q.2.2.1, q.2.2.2, false⟩)

/-! ## Misses -/

/-- Bytes of a record from its words (little-endian, R165), filled up to 64. -/
def recordBytes (ws : List Word) : List Byte := padTo 0 64 (ws.flatMap (fun w => toBytes 8 w.toNat))

/-- Words 0 to 2 of the miss record of R38, with a given word 0. -/
def missWords (g : Nat) (t : Tracker) (va : Word) : List Word :=
  [va,
    wd (t.gen * 2 ^ 48 + t.fseq * 2 ^ 32 + t.dom * 2 ^ 20 + t.kind * 2 ^ 16 + t.sem * 2 ^ 8 + gidIdx g),
    wd (t.ctx * 2 ^ 60 + b2n t.prot * 2 ^ 59 + (match t.chan with | some ch => if ch < 4 then ch * 2 ^ 57 else 0 | none => 0))]

/-- The tracker that waits for a page of a domain (R37). -/
def Core.trackerFor (c : Core) (dom : Nat) (va : Word) : Option Tracker :=
  c.trackers.find? (fun t => !t.waiters.isEmpty && decide (t.dom = dom) && decide (va57 t.va / 65536 = va57 va / 65536))

/-- A miss of a context or of an engine command: a tracker and its record, or a place on a tracker that waits for the page and
domain; with all eight busy it waits (R37). A tracker whose waiters have all abandoned it waits no more: an access executed again
sends a record of its own (R40, log entry 29). -/
def State.miss (s : State) (a : Agent) (chan : Option Nat) (dom kind : Nat) (va : Word) (prot : Bool) : State :=
  let c := s.core a.gid
  let w := (a.ctx, chan)
  match c.trackerFor dom va with
  | some t =>
    if t.waiters.contains w then s
    else
      let join : Tracker → Tracker := fun u => { u with waiters := u.waiters ++ [w] }
      s.updCore a.gid (fun k => { k with trackers := updFirst (fun u => u.fseq == t.fseq) join k.trackers })
  | none =>
    if 8 ≤ c.trackers.length then s
    else
      let fs := c.fseq.toNat
      let t : Tracker := ⟨fs, c.gen.toNat, va, dom, kind, a.ctx, chan, bits (c.ctx a.ctx).upn 7 0, prot, [w]⟩
      let s1 := s.updCore a.gid (fun k => { k with trackers := k.trackers ++ [t], fseq := k.fseq + 1 })
      { s1 with flights := s1.flights ++ [.msg (svcOf (gidCl a.gid)) ⟨recordBytes (missWords a.gid t t.va), true, 1, 0, 0⟩] }

/-- A context waits for the answer to a miss (R37). -/
def Core.misses (c : Core) (ctx : Nat) : Bool := c.trackers.any (fun t => t.waiters.contains (ctx, none))

/-- A waiter abandons its wait (R40). -/
def Core.unwait (c : Core) (ctx : Nat) : Core :=
  let leave : Tracker → Tracker := fun t =>
    { t with waiters := t.waiters.filter (fun w => !(w.1 == ctx && w.2.isNone)) }
  { c with
    trackers := c.trackers.map leave
    ctxs := c.ctxs.map (fun e => if e.1 = ctx ∧ e.2.missEA.isSome then (e.1, { e.2 with missEA := none }) else e) }

end Sys2Proof.Machine
end

