-- ==== Sys2Proof/Machine/Order.lean ====
section
/-! DEFINITION. The ordering machine (R117-R144): scopes, RelDone and AcqDone, program order (R126), the moves that
perform reads and writes at their homes, copies and invalidations, the directory with its overflow records, the home
slices' counters, format-window decoding (R106), poison (R436) and the holes of the physical map (R112). -/

namespace Sys2Proof.Machine

open Sys2Proof

/-! ## Scopes (R119, R120) -/

/-- A scope value with no reserved bit and no reserved DEV (R120). -/
def scopeOk (w : Word) : Bool := decide (bits w 63 40 = 0) && (decide (bits w 39 32 = 0) || decide (bits w 39 32 = 255))

/-- The rectangle of a scope value, corners clipped to the mesh: least x, greatest x, least y, greatest y. -/
def scopeRect (w : Word) : Nat × Nat × Nat × Nat :=
  let x0 := min (bits w 7 0) 63
  let y0 := min (bits w 15 8) 31
  let x1 := min (bits w 23 16) 63
  let y1 := min (bits w 31 24) 31
  (min x0 x1, max x0 x1, min y0 y1, max y0 y1)

def inRect (w : Word) (g : Nat) : Bool :=
  let r := scopeRect w
  decide (g < 2048) && decide (r.1 ≤ gidX g) && decide (gidX g ≤ r.2.1) && decide (r.2.2.1 ≤ gidY g) && decide (gidY g ≤ r.2.2.2)

/-- Whether a core belongs to Cores(S) for an issuer on core `own` (R120). -/
def inScope (o : Order) (own g : Nat) : Bool := decide (g = own) || (!o.core && inRect o.scope g)

/-- The cores of a scope's rectangle, ascending. -/
def rectCores (w : Word) : List Nat :=
  let r := scopeRect w
  let l := (List.range 32).flatMap (fun y => (List.range 64).filterMap (fun x =>
    if r.1 ≤ x ∧ x ≤ r.2.1 ∧ r.2.2.1 ≤ y ∧ y ≤ r.2.2.2 then some (gidAt x y) else none))
  l.foldl natIns []

/-- The members of Cores(S) on this device, ascending. -/
def scopeCores (o : Order) (own : Nat) : List Nat := if o.core then [own] else natIns (rectCores o.scope) own

/-- Plain order. -/
def Order.plain : Order := ⟨false, false, 0, true⟩
/-- Device scope of this device (R139, R186). -/
def deviceScope : Word := 0x1F3F0000
def Order.device : Order := ⟨false, true, deviceScope, false⟩
/-- The scope of a cluster. -/
def clusterScope (cl : Nat) : Word :=
  let x := 16 * (cl % 4)
  let y := 16 * (cl / 4 % 2)
  wd ((y + 15) * 2 ^ 24 + (x + 15) * 2 ^ 16 + y * 2 ^ 8 + x)
def Order.cluster (cl : Nat) : Order := ⟨false, true, clusterScope cl, false⟩

/-! ## Invalidations in flight, RelDone and AcqDone (R125) -/

/-- The target that stands for every core, while a collect is open (R144); no 16-bit entry of a reply names it. -/
def allCores : Nat := 0x10000

def State.inFlight (s : State) (wid g : Nat) : Bool :=
  s.invals.any (fun v => v.wid == wid && (v.target == g || v.target == allCores))

def State.anyInFlight (s : State) (wid : Nat) : Bool := s.invals.any (fun v => v.wid == wid)

/-- Whether a write has an invalidation in flight to a core of Cores(S). -/
def State.inFlightTo (s : State) (wid : Nat) (o : Order) (own : Nat) : Bool :=
  s.invals.any (fun v => v.wid == wid && (v.target == allCores || inScope o own v.target))

/-- RelDone(a, S) over the stores before a place in program order (R125). -/
def relDone (s : State) (a : Agent) (o : Order) (before : Nat) : Bool :=
  let c := s.ctx a
  c.sb.all (fun e => decide (before ≤ e.seq)) && c.obs.all (fun w => !s.inFlightTo w o a.gid)
    && c.pend.all (fun e => decide (before ≤ e.seq) || (match e.op with | .load => true | _ => false))

/-- AcqDone(a, S, t) (R125). -/
def acqDone (s : State) (a : Agent) (o : Order) (t : Nat) : Bool :=
  s.invals.all (fun v =>
    !(v.target == a.gid || v.target == allCores) ||
      s.recs.all (fun r => !(r.wid == v.wid && decide (r.time < t) && inScope o a.gid r.gid)))

/-! ## Program order (R124, R126) -/

def overlap (a m b n : Nat) : Bool := decide (a < b + n) && decide (b < a + m)

/-- R126 for an access at a place of the agent's program order. -/
def orderOk (s : State) (a : Agent) (n : Nat) (o : Order) : Bool :=
  let c := s.ctx a
  c.pend.all (fun e => decide (n ≤ e.seq) || !e.ord.acq)
    && c.sb.all (fun e => decide (n ≤ e.seq) || !e.ord.acq)
    && c.acqs.all (fun q => decide (n ≤ q.1) || acqDone s a q.2.1 q.2.2)
    && (!o.rel || (c.pend.all (fun e => decide (n ≤ e.seq)) && relDone s a o n))
    && (!o.acq || (c.pend.all (fun e => decide (n ≤ e.seq) || !e.ord.rel)
      && c.sb.all (fun e => decide (n ≤ e.seq) || !e.ord.rel)))

/-! ## Fences (R126, R274) -/

/-- The sequencer that issues a kind of command. -/
def CmdKind.seqr (k : CmdKind) : Nat := match k with | .cpy => 12 | .cps => 12 | .cpsw => 12 | .cpm => 12 | .cpmFin => 12 | _ => 11

/-- Engine commands of an agent accepted by a moment are complete, and none of their writes has an invalidation in flight
to a core of the scope (R126, R127). -/
def engDone (s : State) (a : Agent) (o : Order) (t : Nat) : Bool :=
  let k := s.core a.gid
  let cmds := k.matrix.cmds ++ (List.range 4).flatMap (fun i => (k.chan i).cmds)
  let mine := fun (seqr forker acc : Nat) =>
    decide (acc ≤ t) && (if 11 ≤ a.ctx then seqr == a.ctx else forker == a.ctx)
  cmds.all (fun c => !mine c.kind.seqr c.forker c.accepted)
    && s.recs.all (fun r => !(r.gid == a.gid && (match r.eng with
        | some e => mine e.1 e.2.1 e.2.2
        | none => false) && s.inFlightTo r.wid o a.gid))

/-- The condition under which a fence retires: kind 0 `ll`, 1 `ss`, 2 `full`, 3 `eng` (R126). All but `ss` are first reached. -/
def fenceOk (s : State) (a : Agent) (f : Fence) : Bool :=
  let acq := match f.reached with | some t => acqDone s a f.ord t | none => false
  match f.kind with
  | 0 => acq
  | 1 => relDone s a f.ord f.seq
  | 2 => relDone s a f.ord f.seq && acq
  | _ => relDone s a f.ord f.seq && acq && (match f.reached with | some t => engDone s a f.ord t | none => false)

/-- Whether a fence orders a later load, a later store. -/
def Fence.orders (f : Fence) (ld st : Bool) : Bool := match f.kind with | 0 => ld | 1 => st | _ => ld || st

/-- The rows of R126 for the fences before a place of an agent's program order, for a load, a store or both. -/
def fencesOk (s : State) (a : Agent) (n : Nat) (ld st : Bool) : Bool :=
  (s.ctx a).fences.all (fun f => decide (n ≤ f.seq) || !f.orders ld st || fenceOk s a f)

/-- A pending access that is a load: a reducing store is none (R126, R131). -/
def Access.loads (e : Access) : Bool := match e.op with | .red _ => false | _ => true

/-- A fence is reached once every load before it is performed (R126). -/
def Ctx.reachFences (c : Ctx) (now : Nat) : Ctx :=
  if c.fences.isEmpty then c
  else
    let reach : Fence → Fence := fun f =>
      if f.reached.isSome || c.pend.any (fun e => e.loads && decide (e.seq < f.seq)) then f else { f with reached := some now }
    { c with fences := c.fences.map reach }

/-! ## Overlap within one agent (R124) -/

/-- No earlier pending load or atomic of the agent overlaps the bytes (R124). -/
def noPendOverlap (c : Ctx) (n : Nat) (addr len : Nat) : Bool :=
  c.pend.all (fun e => decide (n ≤ e.seq) || e.units.all (fun u => u.got.isSome || !overlap u.addr u.len addr len))

/-- No earlier buffered store of the agent overlaps the bytes. -/
def noSbOverlap (c : Ctx) (n : Nat) (addr len : Nat) : Bool :=
  c.sb.all (fun e => decide (n ≤ e.seq) || e.units.all (fun u => u.done || !overlap u.addr u.len addr len))

/-- The youngest earlier buffered store unit that overlaps the bytes, with its entry. -/
def youngestOverlap (c : Ctx) (n : Nat) (addr len : Nat) : Option (SbEntry × SUnit) :=
  (c.sb.filter (fun e => decide (e.seq < n))).foldl (fun acc e =>
    e.units.foldl (fun acc u => if !u.done && overlap u.addr u.len addr len then some (e, u) else acc) acc) none

/-- No earlier unit of the same access, in element order, that is still to be performed overlaps a unit (R131). -/
def Access.unitFirst (e : Access) (u : AUnit) : Bool :=
  e.units.all (fun x => x.got.isSome || decide (u.off ≤ x.off) || !overlap x.addr x.len u.addr u.len)

/-! ## Directory (R141-R144) -/

def State.sharers (s : State) (line : Nat) : List Nat := Sparse.look [] s.dir line
def State.setSharers (s : State) (line : Nat) (l : List Nat) : State := { s with dir := Sparse.put [] s.dir line l }

/-- Post a device record to a cluster's service core (R142). -/
def State.post (s : State) (cl sknd : Nat) (ws : List Word) : State :=
  { s with flights := s.flights ++ [.msg (svcOf cl) ⟨recordBytes ws, true, sknd, 0, 0⟩] }

/-- A directory record (R142). -/
def dirRecord (kind slice line cseq core : Nat) : List Word :=
  [wd (kind * 2 ^ 60 + slice * 2 ^ 56 + line % 2 ^ 45 * 2 ^ 7), wd (cseq * 2 ^ 48 + core % 2 ^ 11)]

/-- A core gains a copy: a free pointer, or overflow and an add record; none while BC is set (R141, R144). A service core has
no device-wide number that a record could carry, so that its pointer lies outside the four (log entry 18). -/
def State.addSharer (s : State) (line g : Nat) : State :=
  let p := s.sharers line
  let h := homeSlice s (line * 128)
  let k := (s.cluster h.1).slice h.2
  if p.contains g || k.bc.contains line then s
  else if isSvc g || decide ((p.filter (fun k => !isSvc k)).length < 4) then s.setSharers line (p ++ [g])
  else
    (s.updSlice h.1 h.2 (fun k => { k with ovf := natIns k.ovf line })).post h.1 3 (dirRecord 1 h.2 line 0 g)

/-- Post a collect for a line in overflow: OVF clears, and the write counts as in flight to every core (R142, R144). -/
def State.collect (s : State) (line wid : Nat) : State :=
  let h := homeSlice s (line * 128)
  let k := (s.cluster h.1).slice h.2
  let q := k.cseq
  let s1 := s.updSlice h.1 h.2 (fun k =>
    { k with ovf := natDel k.ovf line, cseq := k.cseq + 1, collects := k.collects ++ [(q.toNat, line, wid)] })
  let s2 := s1.post h.1 3 (dirRecord 2 h.2 line q.toNat 0)
  { s2 with invals := s2.invals ++ [⟨wid, line, allCores⟩] }

/-- Remove a core's copy of a line, with its pointer. A line that the core holds exclusively stays in its data cache (R92). -/
def State.dropCopy (s : State) (line g : Nat) : State :=
  let s1 := s.updCore g (fun c => { c with
    copies := Sparse.put none c.copies line none
    l1 := if c.l1.own.contains line then c.l1
      else { c.l1 with dl := c.l1.dl.erase line, il := c.l1.il.erase line, kept := natDel c.l1.kept line } })
  s1.setSharers line ((s1.sharers line).filter (fun k => k ≠ g))

def Core.copy (c : Core) (line : Nat) : Option CopyLine := Sparse.look none c.copies line

/-- Every core that holds a copy of a line. -/
def State.holders (s : State) (line : Nat) : List Nat :=
  (s.cores.filter (fun e => (e.2.copy line).isSome)).map (fun e => e.1)

/-! ## The home copy of a line: windows, holes, poison -/

/-- Bit `k` of plane `j` of a block (R106). -/
def planeBit (s : State) (base j k : Nat) : Bool := (s.byte (base + 128 * j + k / 8)).getLsbD (k % 8)

/-- The prefix of the first planes of a value (R106). -/
def planePrefix (s : State) (base k : Nat) : Nat → Nat
  | 0 => 0
  | n + 1 => 2 * planePrefix s base k n + b2n (planeBit s base n k)

/-- One decoded byte (R106, R175). -/
def decodeByte (s : State) (w : Words3) (scale : Nat) (base k : Nat) : Nat :=
  let n := bits w.w0 3 0
  let q0 : Int := sext n (planePrefix s base k n) * (2 ^ (8 - n) : Nat)
  let q := if n < 8 then q0 + (2 ^ (7 - n) : Nat) else q0
  if bits w.w0 55 52 = 0 then (q % 256).toNat
  else
    match decodeF 8 scale with
    | .fin neg m e => (toF 11 0 true (fmulV (ofInt q) (.fin neg m e)).1).raw
    | _ => 0x7F

/-- The memory controller, one a stack, that serves an address of the DRAM region (R104, R111). -/
def State.ctlOf (s : State) (pa : Nat) : Nat := match s.channelOf pa with | some ch => ch / 32 | none => 0

/-- Where a window keeps the scale of a block. -/
def scaleAddr (w : Words3) (blk : Nat) : Nat := bits w.w2 51 2 * 4 + 4 * blk

/-- The scale that a controller holds for a block, with its poison: its cache keeps 64 (R106). -/
def State.scaleHeld (s : State) (ctl i blk : Nat) : Option (Word × Bool) :=
  (s.dev.scales.find? (fun e => e.1 == ctl && e.2.1 == i && e.2.2.1 == blk)).map (fun e => e.2.2.2)

/-- The scale word a controller uses for a block, with its poison: from its cache, else from memory (R106). DESIGN CHOICE (log entry 52):
R106 says only that the stored bytes are taken as they are; the model takes the bytes of the word's home, those that a store has left
dirty in a cache among them, and those of the new home of a line that a migration has moved (R57). -/
def scaleOf (s : State) (ctl i : Nat) (w : Words3) (blk : Nat) : Word × Bool :=
  match s.scaleHeld ctl i blk with
  | some e => e
  | none =>
    let a := fwdAddr s (scaleAddr w blk)
    (wd (ofBytes (s.bytes a 4)), s.poisoned a)

/-- Keep a block's scale among the 64 that its controller used last. -/
def State.useScale (s : State) (ctl i : Nat) (w : Words3) (blk : Nat) : State :=
  let v := scaleOf s ctl i w blk
  s.updDev (fun d =>
    let others := d.scales.filter (fun e => e.1 ≠ ctl)
    let mine := d.scales.filter (fun e => e.1 == ctl && !(e.2.1 == i && e.2.2.1 == blk))
    { d with scales := others ++ ((ctl, i, blk, v) :: mine).take 64 })

/-- A window that has scales: one in FMT 0x0 decodes without (R106). -/
def hasScale (w : Words3) : Bool := decide (bits w.w0 55 52 ≠ 0)

/-- The block of a window that holds an address, and the line's number in it. -/
def winBlock (w : Words3) (addr : Nat) : Nat := (addr - fwinBase w) / 1024
def lineIn (w : Words3) (addr : Nat) : Nat := (addr - fwinBase w) % 1024 / 128

/-- Where the 16 bytes of plane `j` lie that a line is decoded from (R106). -/
def planePlace (w : Words3) (addr j : Nat) : Nat := fwinBase w + 1024 * winBlock w addr + 128 * j + 16 * lineIn w addr

/-- The decoded line of an active window (R106). -/
def decodeLine (s : State) (i : Nat) (addr : Nat) : Line :=
  let w := s.fwin i
  let blk := winBlock w addr
  let scale := (scaleOf s (s.ctlOf addr) i w blk).1.toNat
  lineOf ((List.range 128).map (fun v =>
    BitVec.ofNat 8 (decodeByte s w scale (fwinBase w + 1024 * blk) (128 * lineIn w addr + v))))

/-- Whether a decode takes poisoned data (R436): a plane that it reads, or the scale that it uses. -/
def decodePoison (s : State) (i : Nat) (addr : Nat) : Bool :=
  let w := s.fwin i
  (List.range (bits w.w0 3 0)).any (fun j => s.poisoned (planePlace w addr j))
    || (hasScale w && (scaleOf s (s.ctlOf addr) i w (winBlock w addr)).2)

/-- The line of a window that its home slice holds decoded. -/
def State.decoded (s : State) (line : Nat) : Option DecLine := Sparse.look none s.dec line

/-- The 128 bytes of a line as its home gives them: decoded in an active window, else as stored. -/
def homeLine (s : State) (line : Nat) : Line :=
  match s.decoded line with
  | some v => v.data
  | none =>
    match windowOf s (line * 128) with
    | some i => decodeLine s i (line * 128)
    | none => lineOf (s.bytes (line * 128) 128)

/-- Granule tags of a line at its home; none in a window (R25). -/
def homeTags (s : State) (line : Nat) : BitVec 8 :=
  if (windowOf s (line * 128)).isSome then 0
  else BitVec.ofNat 8 ((List.range 8).foldl (fun acc i => acc + b2n (s.tags.contains (line * 8 + i)) * 2 ^ i) 0)

/-- Whether a read of a line takes poisoned data (R436): the line's mark, that of the line held decoded, or what its decode takes. -/
def linePoison (s : State) (addr : Nat) : Bool :=
  if isScratch addr then s.poisoned addr
  else
    match s.decoded (addr / 128), windowOf s addr with
    | some v, _ => v.psn
    | none, some i => decodePoison s i addr
    | none, none => s.poisoned addr

/-- The line of an address is poisoned: the decoded copy that its slice holds, else the line itself. -/
def State.spoil (s : State) (addr : Nat) : State :=
  match s.decoded (addr / 128) with
  | some v => { s with dec := Sparse.put none s.dec (addr / 128) (some { v with psn := true }) }
  | none => s.setPoison addr true

/-! ## Check bits and parity (R60, R62, R67, R68, R431) -/

/-- The home of a data bank and of a parity bank: a core index of the cluster (R60). -/
def bankHome (n : Nat) : Nat := n / 8
def parityHome (g : Nat) : Nat := g / 2

/-- A place in a parity bank, for the error marks alone: software cannot address parity banks (R62). -/
def parityAddr (cl g off : Nat) : Nat := 2 ^ 53 + (cl * 512 + g) * 65536 + off

/-- A byte and a granule tag of a parity bank: the XOR of the four data banks of its group (R62). -/
def State.parityByte (s : State) (cl g off : Nat) : Byte :=
  (List.range 4).foldl (fun acc i => acc ^^^ s.byte (bankAddr cl (4 * g + i) off)) 0
def State.parityTag (s : State) (cl g off : Nat) : Bool :=
  (List.range 4).foldl (fun acc i => acc != s.tagAt (bankAddr cl (4 * g + i) off)) false

/-- The other data banks of a bank's group. -/
def bankMates (b : Nat) : List Nat := ((List.range 4).map (fun i => 4 * (b / 4) + i)).filter (fun k => k ≠ b)

/-- A byte and a tag of a bank rebuilt from the rest of its group (R67). -/
def State.rebuiltByte (s : State) (cl b off : Nat) : Byte :=
  (bankMates b).foldl (fun acc k => acc ^^^ s.byte (bankAddr cl k off)) (s.parityByte cl (b / 4) off)
def State.rebuiltTag (s : State) (cl b off : Nat) : Bool :=
  (bankMates b).foldl (fun acc k => acc != s.tagAt (bankAddr cl k off)) (s.parityTag cl (b / 4) off)

/-- The error mark of the 8-byte word that holds an address. -/
def State.errAt (s : State) (addr : Nat) : Nat := Sparse.look 0 s.ecc (addr / 8)
def State.setErr (s : State) (addr k : Nat) : State := { s with ecc := Sparse.put 0 s.ecc (addr / 8) k }

/-- Clear the error marks of the words that `n` bytes cover whole. -/
def State.clearErrs (s : State) (addr n : Nat) : State :=
  { s with ecc := s.ecc.filter (fun e => !(decide (addr ≤ 8 * e.1) && decide (8 * e.1 + 8 ≤ addr + n))) }

/-- The errors of one data bank are counted for its health (R432) under the numbers 16, correctable, and 20, uncorrectable, which no
request reads. A parity bank has no such count. -/
def State.countBank (s : State) (ctr addr : Nat) : State :=
  if isScratch addr then s.count ctr (2048 * (bankOf addr).1 + (bankOf addr).2) 1 else s

/-- A bank word in error as it is read (R68): a correctable error is corrected and counted; an uncorrectable one is rebuilt
from the rest of the group and written back, or, when the rebuild meets one too, its row is poisoned and the event counted. -/
def State.fixBank (s : State) (addr kind : Nat) : State :=
  let cl := (bankOf addr).1
  let b := (bankOf addr).2
  let off := (addr - scratchBase) % 65536
  let s1 := s.setErr addr 0
  if kind = 1 then (s1.count 2 cl 1).countBank 16 addr
  else
    let rest := parityAddr cl (b / 4) off :: (bankMates b).map (fun k => bankAddr cl k off)
    if rest.any (fun a => decide (s.errAt a = 2)) then ((s1.setPoison addr true).count 3 cl 1).countBank 20 addr
    else
      let s2 := rest.foldl (fun u a => if u.errAt a = 1 then ((u.setErr a 0).count 2 cl 1).countBank 16 a else u) (s1.countBank 20 addr)
      (s2.setBytes addr ((List.range 8).map (fun i => s.rebuiltByte cl b (off + i)))).setTag addr (s.rebuiltTag cl b off)

/-- A word in error as its memory controller reads it (R431). -/
def State.fixDram (s : State) (addr kind : Nat) : State :=
  let ch := (s.channelOf addr).getD 0
  if kind = 1 then (s.setErr addr 0).count 4 ch 1 else ((s.setErr addr 0).setPoison addr true).count 5 ch 1

/-- A word in error as it is read: in a bank, in its home slice, or in DRAM when the slice does not hold the line (R68, R431). -/
def State.fixWord (s : State) (addr kind : Nat) : State :=
  if isScratch addr then s.fixBank addr kind
  else
    let h := homeSlice s addr
    let unit := 16 * h.1 + h.2
    if kind = 3 then (s.setErr addr 0).count 0 unit 1
    else if kind = 4 then ((s.setErr addr 0).spoil addr).count 1 unit 1
    else if ((s.cluster h.1).slice h.2).present.contains (addr / 128) then s
    else s.fixDram addr kind

/-- The errors of the words that `n` bytes touch. -/
def State.errsIn (s : State) (addr n : Nat) : Sparse Nat := s.ecc.filter (fun e => decide (addr / 8 ≤ e.1) && decide (8 * e.1 < addr + n))

/-- The check bits of the words that `n` bytes touch are looked at as they are read. -/
def State.scrub (s : State) (addr n : Nat) : State := (s.errsIn addr n).foldl (fun u e => u.fixWord (8 * e.1) e.2) s

/-- The same as a memory controller reads planes, whatever line of the window the slice holds at that address (R106). -/
def State.scrubPlane (s : State) (addr n : Nat) : State :=
  ((s.errsIn addr n).filter (fun e => decide (e.2 ≤ 2))).foldl (fun u e => u.fixDram (8 * e.1) e.2) s

/-- The check bits of what a read of a line at its home takes: of a line that is decoded now, the 16 bytes of each plane that the decode
reads, and the scale where the controller does not hold it (R106). -/
def State.scrubRead (s : State) (addr n : Nat) : State :=
  match (if isScratch addr || (s.decoded (addr / 128)).isSome then none else windowOf s addr) with
  | none => s.scrub addr n
  | some i =>
    let w := s.fwin i
    let t := (List.range (bits w.w0 3 0)).foldl (fun u j => u.scrubPlane (planePlace w addr j) 16) s
    if hasScale w && (s.scaleHeld (s.ctlOf addr) i (winBlock w addr)).isNone then t.scrub (fwdAddr t (scaleAddr w (winBlock w addr))) 4 else t

/-! ## Reading at the home -/

/-- What a read at the home takes: bytes, the granule tag of the first, and poison. -/
structure HomeRead where
  bytes : List Byte
  tag : Bool
  psn : Bool
  deriving DecidableEq, Repr

/-- Read bytes of one line at the home. A hole or reserved range gives poison (R112). -/
def readHomeBytes (s : State) (part : Option Nat) (svc : Bool) (addr len : Nat) : HomeRead :=
  if reservedPA s part svc addr then ⟨(List.range len).map (fun _ => 0), false, true⟩
  else if isScratch addr || (windowOf s addr).isNone then
    ⟨s.bytes addr len, s.tagAt addr, s.poisoned addr⟩
  else
    let l := homeLine s (addr / 128)
    ⟨(List.range len).map (fun i => lineByte l (addr % 128 + i)), false, linePoison s addr⟩

/-- Record the first address in a hole or reserved range accessed since reset (R112). -/
def State.noteHole (s : State) (addr : Nat) : State :=
  s.updDev (fun d => { d with hole := match d.hole with | none => some addr | some h => some h })

/-- Count an access to a hole or reserved range too (R112, R431 POIS). -/
def State.countHole (s : State) (addr : Nat) : State := (s.count 7 0 1).noteHole addr

/-- The state after a read at the home: an access to a hole or reserved range is counted, errors are handled. -/
def State.noteRead (s : State) (part : Option Nat) (svc : Bool) (addr len : Nat) : State :=
  if reservedPA s part svc addr then s.countHole addr else s.scrubRead addr len

/-- A decode at a memory controller: the scale it used stays in its cache; a line that enters the home slice is held decoded
(R106). -/
def State.noteDecode (s : State) (addr pol : Nat) : State :=
  if isScratch addr then s
  else
    match windowOf s addr with
    | none => s
    | some i =>
      if (s.decoded (addr / 128)).isSome then s
      else
        let w := s.fwin i
        let v : DecLine := ⟨decodeLine s i addr, decodePoison s i addr⟩
        let s1 := if hasScale w then s.useScale (s.ctlOf addr) i w (winBlock w addr) else s
        if pol = 4 then s1 else { s1 with dec := Sparse.put none s1.dec (addr / 128) (some v) }

/-! ## Performing a write -/

/-- The writes that given bytes hold, where recorded (R122). -/
def writersOf (m : Sparse Nat) (addr len : Nat) : List Nat :=
  (List.range len).foldl (fun acc i => let w := Sparse.look 0 m (addr + i); if w = 0 then acc else natIns acc w) []

/-- Observed writes gained with given write ids: each, and the writer's set when it was a release (R122). Writes with no
invalidation left in flight matter to no condition and are not kept. -/
def obsGain (s : State) (ws obs : List Nat) : List Nat :=
  let more := ws ++ (s.recs.filter (fun r => ws.contains r.wid && r.rel)).flatMap (fun r => r.obs)
  (more.foldl natIns obs).filter (fun w => s.anyInFlight w)

/-- Forget records that no condition can use any more. -/
def State.prune (s : State) : State :=
  { s with recs := s.recs.filter (fun r => s.anyInFlight r.wid || r.obs.any (fun w => s.anyInFlight w)) }

/-- A write at its home (R121, R123): bytes within one line. `own` is the writer's core; an engine's own core is
invalidated like any other (R93), another writer's copy is updated. -/
structure HomeWrite where
  addr : Nat
  data : List Byte
  tag : Bool           -- the granule tag it sets; every other granule it overlaps clears
  own : Nat
  engine : Bool
  rel : Bool
  obs : List Nat
  owned : Bool         -- the writer's core owns the line: the write stays in its data cache (R92)
  part : Option Nat
  svc : Bool
  eng : Option (Nat × Nat × Nat)
  deriving DecidableEq, Repr

/-- Replace bytes of a copy by a write of its own core; `ver` is the line's version after it, which those bytes then have (R273). -/
def CopyLine.patch (k : CopyLine) (addr : Nat) (data : List Byte) (tag : Bool) (wid ver : Nat) : CopyLine :=
  let off := addr % 128
  let n := data.length
  let f (i : Nat) : Byte := if off ≤ i ∧ i < off + n then data.getD (i - off) 0 else lineByte k.data i
  let t (i : Nat) : Bool :=
    if overlap (16 * i) 16 off n then tag else k.tags.getLsbD i
  { k with
    data := lineOf ((List.range 128).map f)
    tags := BitVec.ofNat 8 ((List.range 8).foldl (fun acc i => acc + b2n (t i) * 2 ^ i) 0)
    writers := (List.range n).foldl (fun m i => Sparse.put 0 m (addr + i) wid) k.writers
    own := (List.range n).foldl (fun m i => Sparse.put 0 m (addr + i) ver) k.own }

/-- The version that a byte of a copy came from (R273). -/
def CopyLine.verAt (k : CopyLine) (addr : Nat) : Nat := match Sparse.look 0 k.own addr with | 0 => k.ver | v => v

/-- A performed write leaves its line dirty in the home slice when the slice holds it (R95); an owner's write stays in its data
cache (R92), and a write to a line that no slice holds goes to its memory (R98). -/
def State.markDirty (s : State) (addr : Nat) : State :=
  if isScratch addr then s
  else
    let h := homeSlice s addr
    let line := addr / 128
    s.updSlice h.1 h.2 (fun k => if k.present.contains line then { k with dirty := natIns k.dirty line } else k)

/-- The cores to which a write of a line sends an invalidation (R123, R141, R144): those with a pointer; with BC set every core; also the
holders that the handler alone knows, all of them while a collect is open, and those it has listed until they are invalidated. -/
def State.targets (s : State) (line : Nat) (skip : Nat → Bool) : List Nat :=
  let h := homeSlice s (line * 128)
  let k := (s.cluster h.1).slice h.2
  if k.bc.contains line then (List.range 2056).filter (fun g => !skip g)
  else
    let opn := k.collects.any (fun c => c.2.1 == line)
    let listed := (s.holders line).filter (fun g => opn || s.invals.any (fun v => v.line == line && v.target == g))
    (listed.foldl (fun l g => if l.contains g then l else l ++ [g]) (s.sharers line)).filter (fun g => !skip g)

/-- The bytes of a write stand at their home: the granules it overlaps lose their tags but for the one it sets, and the words it covers
whole their errors. -/
def State.putWrite (s : State) (w : HomeWrite) : State :=
  let n := w.data.length
  let s1 := ((s.setBytes w.addr w.data).clearTags w.addr n).clearErrs w.addr n
  if w.tag then s1.setTag w.addr true else s1

/-- The bytes of a write name it as their writer while it is recorded, and have the version of the line that it makes. -/
def State.nameWriter (s : State) (w : HomeWrite) (tag ver : Nat) : State :=
  let put (m : Sparse Nat) (v : Nat) : Sparse Nat := (List.range w.data.length).foldl (fun m i => Sparse.put 0 m (w.addr + i) v) m
  { s with writers := put s.writers tag, byteVer := put s.byteVer ver }

/-- The writer's own copy of the line takes its write; an engine's write goes past it (R93). -/
def State.patchOwn (s : State) (w : HomeWrite) (tag ver : Nat) : State :=
  if w.engine then s
  else
    s.updCore w.own (fun c =>
      match c.copy (w.addr / 128) with
      | none => c
      | some k => { c with copies := Sparse.put none c.copies (w.addr / 128) (some (k.patch w.addr w.data w.tag tag ver)) })

/-- Whether a write is recorded: an invalidation of its own, or of a write that it releases, is in flight (R122). -/
def State.keepsWrite (s : State) (w : HomeWrite) (wid : Nat) : Bool :=
  s.anyInFlight wid || (w.rel && w.obs.any (fun v => s.anyInFlight v))

/-- Perform one write at its home; the write's number is the old `nextWid`. -/
def State.writeHome (s : State) (w : HomeWrite) : State :=
  if reservedPA s w.part w.svc w.addr then s.countHole w.addr
  else
    let wid := s.nextWid
    let line := w.addr / 128
    let scratch := isScratch w.addr
    let h := homeSlice s w.addr
    let k := (s.cluster h.1).slice h.2
    let targets := if scratch then [] else s.targets line (fun g => !w.engine && g == w.own)
    let ver := Sparse.look 0 s.lineVer line + 1
    let s1 := s.putWrite w
    let s2 := { s1 with
      nextWid := wid + 1
      lineVer := Sparse.put 0 s1.lineVer line ver
      dec := Sparse.put none s1.dec line none
      invals := s1.invals ++ targets.map (fun g => (⟨wid, line, g⟩ : Inval)) }
    let s3 := if !scratch && k.ovf.contains line && !k.bc.contains line then s2.collect line wid else s2
    let kept := s3.keepsWrite w wid
    let tag := if kept then wid else 0
    let s4 := { s3 with recs := if kept then s3.recs ++ [(⟨wid, w.own, s.now, w.rel, w.obs, w.eng⟩ : WriteRec)] else s3.recs }
    let s5 := (s4.nameWriter w tag ver).patchOwn w tag ver
    (if w.owned then s5 else s5.markDirty w.addr).prune

/-- More bytes of the line that the write numbered `wid` has just written, in the same move: each is a byte of that write (R155). -/
def State.writeMore (s : State) (wid : Nat) (w : HomeWrite) : State :=
  if reservedPA s w.part w.svc w.addr then s
  else
    let tag := if s.recs.any (fun r => r.wid == wid) then wid else 0
    let ver := Sparse.look 0 s.lineVer (w.addr / 128)
    ((s.putWrite w).nameWriter w tag ver).patchOwn w tag ver

/-- A line written whole with sound data loses its mark, at its home and in the writer's copy (R436). -/
def State.soundLine (s : State) (addr own : Nat) : State :=
  (s.setPoison addr false).updCore own (fun c =>
    match c.copy (addr / 128) with
    | some k => if k.psn then { c with copies := Sparse.put none c.copies (addr / 128) (some { k with psn := false }) } else c
    | none => c)

/-- Count a lookup of the current version of a line (R273). -/
def State.version (s : State) (addr : Nat) : Nat := Sparse.look 0 s.lineVer (addr / 128)

/-! ## Delivering a load's value -/

/-- The bytes of an access from its units and its overlay. -/
def Access.value (e : Access) : List Byte :=
  (List.range e.size).map (fun i =>
    match e.ovl.find? (fun p => p.1 == i) with
    | some p => p.2
    | none =>
      match e.units.find? (fun u => decide (u.off ≤ i) && decide (i < u.off + u.len)) with
      | some u => (u.got.getD []).getD (i - u.off) 0
      | none => 0)

def Access.poisoned (e : Access) : Bool := e.units.any (fun u => u.psn)

/-- The poisoned lines that an access took, those of a hole among them (R431 POIS). -/
def Access.psnLines (e : Access) : List Nat := (e.units.filter (fun u => u.psn)).foldl (fun l u => natIns l (u.addr / 128)) []

/-- The tags of the value's granules of 16 bytes, all clear when it took poisoned data. -/
def Access.granuleTags (e : Access) : List Bool :=
  (List.range ((e.size + 15) / 16)).map (fun i =>
    !e.poisoned && e.units.all (fun u => !overlap (16 * i) 16 u.off u.len || u.tag))

/-- The tag an `ldc` takes (R23, R151). -/
def Access.tagVal (e : Access) : Bool :=
  match e.tagOver with
  | some t => t
  | none => e.units.all (fun u => u.tag) && !e.units.isEmpty

/-- Push a value into a store-data queue. -/
def Ctx.pushSq (c : Ctx) (q : Nat) (v : Line) : Ctx := c.putSq q (c.getSq q ++ [.val v])

/-- Replace the place of a performed load in a queue by its value. -/
def fillEntry (id : Nat) (v : Line) (l : List QEntry) : List QEntry :=
  l.map (fun e => if e = .pending id then .val v else e)

/-- Write a performed load's value where it goes: zero with tags clear when it took poisoned data (R225). -/
def Ctx.deliver (c : Ctx) (e : Access) : Ctx :=
  let bs := if e.poisoned then (List.range e.size).map (fun _ => (0 : Byte)) else e.value
  let n := ofBytes bs
  match e.dest with
  | .none => c
  | .x r => c.writeX r (wd n)
  | .pair r lc => c.writePair r ⟨wordAt bs 0, wordAt bs 1, lc && !e.poisoned && e.tagVal⟩
  | .v r => c.writeV r (lineOf bs)
  | .lq q => c.putLq q (fillEntry e.id (BitVec.ofNat 1024 n) (c.getLq q))
  | .sq q => c.putSq q (fillEntry e.id (BitVec.ofNat 1024 n) (c.getSq q))
  | .buffer => if c.busy = some .reading then { c with busy := some (.read bs (e.granuleTags)) } else c

/-- In a superstep-merged stage the consumption of poisoned data rolls the superstep back (R226). -/
def State.mergeFail (s : State) (g : Nat) : State :=
  s.updCore g (fun c => { c with mrg := c.mrg.map (fun m => { m with failed := true }) })

/-- What a part of a load took, for `wmon`: 1 + the version of its line at that moment, and for each byte 1 + the version of its value. -/
structure Took where
  base : Nat
  ths : List Nat

/-- What `wmon` remembers of a load's part: a later load of the line stands against an earlier, and the parts of one join (R273). -/
def Ctx.noteMon (c : Ctx) (m : Mon) (line : Nat) : Ctx :=
  let keep (k : Mon) : Ctx := { c with mon := Sparse.put none c.mon line (some k) }
  match Sparse.look none c.mon line with
  | none => keep m
  | some o =>
    if m.place < o.place then c
    else if o.place < m.place then keep m
    else keep ⟨m.place, min o.base m.base, m.took.foldl (fun l e => Sparse.put 0 l e.1 e.2) o.took, o.held ++ m.held⟩

/-- A buffered store's unit is performed at a version of its line: its bytes that a load had taken came from that version (R273). -/
def Ctx.fwdStored (c : Ctx) (line store addr len ver : Nat) : Ctx :=
  match Sparse.look none c.mon line with
  | none => c
  | some m =>
    let hit (e : Nat × Nat × Nat) : Bool := decide (e.1 = store) && overlap e.2.1 e.2.2 addr len
    let bytes := (m.held.filter hit).flatMap (fun e => ((List.range e.2.2).map (fun i => e.2.1 + i)).filter (fun a => decide (addr ≤ a) && decide (a < addr + len)))
    let left := m.held.flatMap (fun e =>
      if hit e then
        (if e.2.1 < addr then [(e.1, e.2.1, addr - e.2.1)] else []) ++
          (if addr + len < e.2.1 + e.2.2 then [(e.1, addr + len, e.2.1 + e.2.2 - (addr + len))] else [])
      else [e])
    { c with mon := Sparse.put none c.mon line (some { m with took := bytes.foldl (fun l a => Sparse.put 0 l a (ver + 1)) m.took, held := left }) }

/-- Whether some byte of a line has at its home a write later than the one that the load took (R273). A byte taken from a store that is
still buffered has none. `line` names the bytes as the load did, `home` is where the line lies now. -/
def State.laterWrite (s : State) (m : Mon) (line home : Nat) : Bool :=
  (List.range 128).any (fun i =>
    let a := line * 128 + i
    let th := match Sparse.look 0 m.took a with | 0 => m.base | t => t
    !m.held.any (fun e => decide (e.2.1 ≤ a) && decide (a < e.2.1 + e.2.2)) && decide (th ≤ Sparse.look 0 s.byteVer (home * 128 + i)))

/-- An access all of whose units are performed leaves the pending list: its value is delivered, an acquire is noted, and fences
that waited for it alone are reached. The poisoned lines it consumed are counted (R225, R431). -/
def finishAccess (s : State) (a : Agent) (e : Access) : State :=
  let s1 := s.updCtx a (fun c =>
    let c1 := { c with
      pend := c.pend.filter (fun f => f.id ≠ e.id)
      acqs := (if e.ord.acq then c.acqs.filter (fun (q : Nat × Order × Nat) => !acqDone s a q.2.1 q.2.2) ++ [(e.seq, e.ord, s.now)] else c.acqs) }
    (c1.reachFences s.now).deliver e)
  if e.poisoned then (s1.count 7 0 e.psnLines.length).mergeFail a.gid else s1

/-- Put what a unit took into its access; finish the access when it was the last. `took` is none where the monitor is not concerned. -/
def performUnit (s : State) (a : Agent) (e : Access) (u : Nat) (r : HomeRead) (took : Option Took) : State :=
  let take : AUnit → AUnit := fun x => { x with got := some r.bytes, tag := r.tag, psn := r.psn }
  let e1 : Access := { e with units := e.units.mapIdx (fun i x => if i = u then take x else x) }
  let s1 := s.updCtx a (fun c => { c with pend := c.pend.map (fun f => if f.id = e.id then e1 else f) })
  let s2 := match e.units[u]?, took with
    | some x, some t =>
      s1.updCtx a (fun c => c.noteMon ⟨e.seq, t.base, t.ths.mapIdx (fun i v => (x.addr + i, v)), []⟩ (x.addr / 128))
    | _, _ => s1
  if e1.units.all (fun x => x.got.isSome) then finishAccess s2 a e1 else s2

/-- The partition of an agent's cluster; none for a link (R122). -/
def State.partOf (s : State) (g : Nat) : Option Nat := if decide (4096 ≤ g) && decide (g < 5000) then none else some ((s.cluster (gidCl g)).part)

/-- Add observed writes to an agent. -/
def State.observe (s : State) (a : Agent) (ws : List Nat) : State :=
  if ws.isEmpty then s else s.updCtx a (fun c => { c with obs := obsGain s ws c.obs })

end Sys2Proof.Machine
end

