-- ==== Sys2Proof/Machine/Caches.lean ====
section
/-! DEFINITION. The caches of the cores (R92-R99, R101) and the slices of the L2 (R95-R103, R113): which lines they hold and under
which policy, miss tables, pending queues and write-back slots, recalls, fills and evictions. The bytes a core reads are those of
its copies (R118); what the caches hold decides which moves are open, what waits, and what is counted. -/

namespace Sys2Proof.Machine

open Sys2Proof

/-! ## The L1 data and instruction caches (R92) -/

/-- The line that leaves the data cache for a new one (R92, R96): none while its set of eight has room; the least recently used,
a line under policy keep only when every line of the set is. -/
def L1.victim (l : L1) (line : Nat) : Option Nat :=
  if l.dl.contains line then none
  else
    let set := l.dl.filter (fun k => decide (k % 64 = line % 64))
    if set.length < 8 then none
    else
      match set.reverse.find? (fun k => !l.kept.contains k) with
      | some v => some v
      | none => set.getLast?

/-- A line can enter the data cache: a dirty victim needs one of the four victim entries (R101). -/
def L1.room (l : L1) (line : Nat) : Bool :=
  match l.victim line with
  | none => true
  | some v => !l.dirty.contains v || decide (l.vict.length < 4)

/-- A line leaves the data cache; a dirty one waits in a victim entry for a write-back slot (R101). -/
def L1.out (l : L1) (line : Nat) : L1 :=
  { l with
    dl := l.dl.erase line, kept := natDel l.kept line, own := natDel l.own line, dirty := natDel l.dirty line
    vict := if l.dirty.contains line then l.vict ++ [line] else l.vict }

/-- A line leaves the data cache of a core, and its copy unless the instruction cache holds it too. -/
def State.l1Out (s : State) (line g : Nat) : State :=
  let s1 := s.updCore g (fun c => { c with l1 := c.l1.out line })
  if (s1.core g).l1.il.contains line then s1 else s1.dropCopy line g

/-- A line enters the data cache of a core, or is used there (R96): a line under policy stream enters at the least recently used place, and
stays where it is when it is used under that policy (log entry 13). -/
def State.l1Data (s : State) (line g pol : Nat) : State :=
  let s1 := match (s.core g).l1.victim line with | none => s | some v => s.l1Out v g
  s1.updCore g (fun c =>
    let held := c.l1.dl.contains line
    let rest := c.l1.dl.erase line
    { c with l1 := { c.l1 with
        dl := if pol = 2 then (if held then c.l1.dl else rest ++ [line]) else line :: rest
        kept := if pol = 1 then natIns c.l1.kept line else c.l1.kept } })

/-- A line enters the instruction cache of a core, or is used there: 128 sets of four, never dirty (R92). -/
def State.l1Instr (s : State) (line g : Nat) : State :=
  let l := (s.core g).l1
  let set := l.il.filter (fun k => decide (k % 128 = line % 128))
  let s1 := if l.il.contains line ∨ set.length < 4 then s
    else
      match set.getLast? with
      | none => s
      | some v =>
        let s2 := s.updCore g (fun c => { c with l1 := { c.l1 with il := c.l1.il.erase v } })
        if l.dl.contains v then s2 else s2.dropCopy v g
  s1.updCore g (fun c => { c with l1 := { c.l1 with il := line :: c.l1.il.erase line } })

/-! ## Copies (R118) -/

/-- The core's copy of a line as its home gives it now. -/
def State.copyOf (s : State) (line : Nat) : CopyLine where
  data := homeLine s line
  tags := homeTags s line
  psn := linePoison s (line * 128)
  writers := s.writers.filter (fun e => decide (e.1 / 128 = line))
  ver := Sparse.look 0 s.lineVer line
  own := []

/-- A core gains a copy of a line (R123, R141). -/
def State.gainCopy (s : State) (line g : Nat) : State :=
  let k := s.copyOf line
  (s.updCore g (fun c => { c with copies := Sparse.put none c.copies line (some k) })).addSharer line g

/-- Every trace of a line leaves a core's caches. -/
def State.strip (s : State) (line g : Nat) : State :=
  (s.updCore g (fun c =>
    let l := c.l1
    { c with l1 := ⟨l.dl.erase line, l.il.erase line, natDel l.kept line, natDel l.own line, natDel l.dirty line, natDel l.vict line⟩ }))
      |>.dropCopy line g

/-- Cores in whose caches a line stands. -/
def State.keepers (s : State) (line : Nat) : List Nat :=
  (s.cores.filter (fun e => (e.2.copy line).isSome || e.2.l1.dl.contains line || e.2.l1.il.contains line || e.2.l1.vict.contains line)).map
    (fun e => e.1)

/-- Remove every copy of a line from the cores. -/
def State.dropAll (s : State) (line : Nat) : State := (s.keepers line).foldl (fun acc g => acc.strip line g) s

/-! ## Ownership and recalls (R92, R95, R101) -/

/-- The core that holds a line exclusively. -/
def State.ownerOf (s : State) (line : Nat) : Option Nat :=
  (s.cores.find? (fun e => e.2.l1.own.contains line)).map (fun e => e.1)

def State.owns (s : State) (g line : Nat) : Bool := (s.core g).l1.own.contains line

/-- A line's newest data is in an L1. -/
def State.l1Dirty (s : State) (line : Nat) : Bool :=
  s.cores.any (fun e => e.2.l1.dirty.contains line || e.2.l1.vict.contains line)

/-- The home slice of a line. -/
def State.sliceOf (s : State) (line : Nat) : Slice :=
  let h := homeSlice s (line * 128)
  (s.cluster h.1).slice h.2

def State.updSliceOf (s : State) (line : Nat) (f : Slice → Slice) : State :=
  let h := homeSlice s (line * 128)
  s.updSlice h.1 h.2 f

/-- A line is clean everywhere, or a write-back slot is free for its data (R101). -/
def State.slotFor (s : State) (line : Nat) : Bool :=
  !(s.l1Dirty line || (s.sliceOf line).dirty.contains line) || decide ((s.sliceOf line).wb.length < 16)

/-- A line can be recalled from its owner now: dirty data needs a write-back slot (R101). -/
def State.recallOk (s : State) (line : Nat) : Bool :=
  match s.ownerOf line with
  | none => true
  | some g => !(s.core g).l1.dirty.contains line || decide ((s.sliceOf line).wb.length < 16)

/-- The owner of a line gives up its ownership; dirty data goes to a write-back slot and is merged into the L2 line. The line
stays in the owner's cache where the owner holds a copy that it took by a read (log entry 13). -/
def State.recall (s : State) (line : Nat) : State :=
  match s.ownerOf line with
  | none => s
  | some g =>
    let dirty := (s.core g).l1.dirty.contains line
    let kept := ((s.core g).copy line).isSome
    let s1 := s.updCore g (fun c => { c with l1 := { c.l1 with
      own := natDel c.l1.own line, dirty := natDel c.l1.dirty line
      dl := if kept then c.l1.dl else c.l1.dl.erase line } })
    if dirty then s1.updSliceOf line (fun k => { k with wb := k.wb ++ [(line, true)] }) else s1

/-- The line of an access by a core other than the owner is recalled first; the owner's own access needs no recall. -/
def State.recallFor (s : State) (g line : Nat) : State := if s.owns g line then s else s.recall line

/-- A store or near atomic of a core under an allocating policy leaves its line exclusive and dirty in the core's data cache (R92). -/
def State.ownLine (s : State) (line g pol : Nat) : State :=
  (s.l1Data line g pol).updCore g (fun c => { c with l1 := { c.l1 with
    own := natIns c.l1.own line, dirty := natIns c.l1.dirty line } })

/-- A core's own L1 holds a dirty line, in the cache or in a victim entry. -/
def L1.holdsDirty (l : L1) (line : Nat) : Bool := l.dirty.contains line || l.vict.contains line

/-- A slice or bypass access first writes back its own core's L1 copy, when dirty, through a write-back slot, and removes it (R98, R101). -/
def State.ownCopyOut (s : State) (g line pol : Nat) : State :=
  if pol < 3 then s
  else
    let t := s.strip line g
    if (s.core g).l1.holdsDirty line then t.updSliceOf line (fun k => { k with wb := k.wb ++ [(line, true)] }) else t

/-- A write-back slot is free for the dirty L1 copy that a slice or bypass access writes back first (R101). -/
def State.ownOutOk (s : State) (g line pol : Nat) : Bool :=
  decide (pol < 3) || !(s.core g).l1.holdsDirty line || decide ((s.sliceOf line).wb.length < 16)

/-! ## Requests to a home slice (R100, R102, R397) -/

/-- A command of a core by its channel (4 for the matrix engine) and moment of acceptance. -/
def Core.cmdAt (c : Core) (ch acc : Nat) : Option Cmd :=
  (if ch = 4 then c.matrix.cmds else (c.chan ch).cmds).find? (fun e => decide (e.accepted = acc))

/-- A prefetch, which nobody waits for (R304). -/
def SReq.pref (r : SReq) : Bool := match r.who with | .unit _ 4 _ _ => true | _ => false

/-- Whether an access still needs a line: one of its units there is to be performed. -/
def Access.wantsLine (e : Access) (s : State) (line : Nat) : Bool :=
  e.units.any (fun x => x.got.isNone && decide (fwdAddr s x.addr / 128 = line))
def SbEntry.wantsLine (e : SbEntry) (s : State) (line : Nat) : Bool :=
  e.units.any (fun x => !x.done && decide (fwdAddr s x.addr / 128 = line))

/-- The first address of a buffered store, which tells the elements of one multicast store apart. -/
def SbEntry.firstAddr (e : SbEntry) : Nat := match e.units with | x :: _ => x.addr | [] => 0

/-- Whether the maker of a request still needs the line. -/
def State.wants (s : State) (r : SReq) : Bool :=
  match r.who with
  | .unit a 0 id _ => (s.ctx a).pend.any (fun e => decide (e.id = id) && e.wantsLine s r.line)
  | .unit a 1 n addr => (s.ctx a).sb.any (fun e => decide (e.seq = n) && decide (e.firstAddr = addr) && e.wantsLine s r.line)
  | .unit a 2 _ _ => (s.core a.gid).mrg.isSome || (match (s.ctx a).busy with | some (.publish _ _) => true | _ => false)
  | .unit _ 4 _ _ => true
  | .unit a _ _ _ => s.arrivals.any (fun q => decide (q.agent = a))
  | .elem g ch acc write pos =>
    match (s.core g).cmdAt ch acc with
    | none => false
    | some c =>
      match (if write then c.wat else c.rat) with
      | some e => decide ((if write then c.writePos else c.readPos) = pos) && e.segs.any (fun t =>
          decide (t.off ≤ e.n) && decide (e.n < t.off + t.len) && decide (fwdAddr s (t.addr + (e.n - t.off)) / 128 = r.line))
      | none => false
  | .fetch a =>
    (s.ctx a).live && (match (s.ctx a).blk with
      | none => true
      | some b => let op := (fOp (b.extractLsb' (96 * (s.ctx a).slot) 96)).toNat; decide (op = 0x00A) || decide (op = 0x00E))

/-- Requests affected by a quiesce under way are held at their slice (R113). -/
def Quiesce.hits (q : Quiesce) (s : State) (line : Nat) : Bool :=
  decide (homeCluster s (line * 128) = q.cl) && q.buckets.contains (bucket (line * 128)) && decide (q.lo ≤ line) && decide (line ≤ q.hi)

def State.quiesced (s : State) (line : Nat) : Bool := s.dev.quiesce.any (fun q => q.hits s line)

/-- An open entry of a line. -/
def Slice.entry? (k : Slice) (line : Nat) : Option MissEntry := k.open_.find? (fun e => decide (e.line = line))

/-- A request that attaches to an open entry; one that installs the line makes a fill that does not into one that does. -/
def MissEntry.attach (e : MissEntry) (r : SReq) : MissEntry :=
  if e.filled && !e.alloc && decide (r.pol ≠ 4) then { e with alloc := true, filled := false, reqs := e.reqs ++ [r] }
  else { e with alloc := e.alloc || decide (r.pol ≠ 4), reqs := e.reqs ++ [r] }

/-- A request finds its line present, attaches to its open entry, or opens one; none when it has to wait for an entry (R100). A
bypass write of an absent line takes no entry. A prefetch of a line that is present by then is over. -/
def Slice.serve (k : Slice) (r : SReq) : Option Slice :=
  if k.present.contains r.line then some (if r.pref then k else { k with granted := k.granted ++ [r] })
  else if (k.entry? r.line).isSome then some { k with open_ := updFirst (fun e => decide (e.line = r.line)) (fun e => e.attach r) k.open_ }
  else if r.wr && decide (r.pol = 4) then some { k with granted := k.granted ++ [r] }
  else if k.open_.length < 64 then
    some { k with open_ := k.open_ ++ [⟨r.line, decide (r.pol ≠ 4), false, [r]⟩], miss := k.miss + 1 }
  else none

/-- A slice takes a request (R102, R397): behind an earlier request for its line it takes its own place in the queue. -/
def Slice.accept (k : Slice) (r : SReq) : Slice :=
  let k1 := { k with req := k.req + 1 }
  if !k.present.contains r.line && (k.entry? r.line).isNone && k.queue.any (fun q => decide (q.line = r.line)) then
    { k1 with queue := k.queue ++ [r] }
  else
    match k1.serve r with
    | some k2 => k2
    | none => { k1 with queue := k.queue ++ [r] }

/-- Requests leave the pending queue in arrival order while their head can be served (R102). -/
def Slice.pump : Nat → Slice → Slice
  | 0, k => k
  | fuel + 1, k =>
    match k.queue with
    | [] => k
    | r :: rest =>
      match ({ k with queue := rest } : Slice).serve r with
      | some k2 => Slice.pump fuel k2
      | none => k

/-- A slice takes no request while its miss table and its pending queue are full (R102). -/
def Slice.full (k : Slice) : Bool := decide (64 ≤ k.open_.length) && decide (128 ≤ k.queue.length)

/-- Whether a request has been made and not yet been consumed. -/
def Slice.has (k : Slice) (who : ReqWho) (line : Nat) : Bool :=
  let p : SReq → Bool := fun r => decide (r.who = who) && decide (r.line = line)
  k.queue.any p || k.granted.any p || k.open_.any (fun e => e.reqs.any p)

/-- Whether a request can be performed: its line is present, or its fill has come (R100). -/
def Slice.grants (k : Slice) (who : ReqWho) (line : Nat) : Bool :=
  let p : SReq → Bool := fun r => decide (r.who = who) && decide (r.line = line)
  k.granted.any p || k.open_.any (fun e => e.filled && e.reqs.any p)

/-- Entries whose fill has come and whose requests are all served free (R100). -/
def Slice.free (k : Slice) : Slice :=
  let k1 := { k with open_ := k.open_.filter (fun e => !(e.filled && e.reqs.isEmpty)) }
  Slice.pump (k1.queue.length + 1) k1

/-- A request is performed: it leaves the tables, and the line is used under its policy (R96); under policy stream the line keeps its
place (log entry 13). -/
def Slice.consume (k : Slice) (who : ReqWho) (line pol : Nat) : Slice :=
  let p : SReq → Bool := fun r => decide (r.who = who) && decide (r.line = line)
  let rest : MissEntry → MissEntry := fun e => { e with reqs := e.reqs.filter (fun r => !p r) }
  let k1 := { k with granted := k.granted.filter (fun r => !p r), open_ := k.open_.map rest }
  let k2 := if !k1.present.contains line then k1 else
    { k1 with
      present := if pol = 4 then line :: k1.present.erase line else if pol = 2 then k1.present else k1.present.erase line ++ [line]
      kept := if pol = 1 then natIns k1.kept line else k1.kept }
  k2.free

/-- Requests whose makers no longer need them leave a slice. -/
def State.sweep (s : State) (k : Slice) : Slice :=
  let rest : MissEntry → MissEntry := fun e => { e with reqs := e.reqs.filter s.wants }
  ({ k with granted := k.granted.filter s.wants, queue := k.queue.filter s.wants, open_ := k.open_.map rest } : Slice).free

/-- The same at the home slice of a line, after an access that went on without its request. -/
def State.swept (s : State) (line : Nat) : State := if isScratch (line * 128) then s else s.updSliceOf line s.sweep

/-- What asking a home slice for a line comes to: the access is performed now, the request has been made, or nothing can be done
yet. -/
inductive Ask where
  | go (s : State)
  | wait (s : State)
  | no

/-- An access, or a further step of it, goes on once its line is there. -/
def Ask.andThen (r : Ask) (k : State → State) : Option State := match r with | .go t => some (k t) | .wait t => some t | .no => none
def Ask.bind (r : Ask) (k : State → Option State) : Option State := match r with | .go t => k t | .wait t => some t | .no => none

/-- Make a request, where none is made yet. -/
def State.send (s : State) (who : ReqWho) (line pol : Nat) (wr : Bool) : State :=
  let r : SReq := ⟨who, line, pol, wr⟩
  if s.quiesced line then s.updDev (fun d => { d with held := d.held ++ [r] })
  else s.updSliceOf line (fun k => k.accept r)

/-- Held requests that no quiesce holds any more are accepted at their homes in their held order (R113); one whose slice takes no request
now stays behind (R102). -/
def State.readmit (s : State) : State :=
  if s.dev.held.isEmpty then s
  else
    s.dev.held.foldl (fun u r =>
      if u.quiesced r.line || (u.sliceOf r.line).full then u.updDev (fun d => { d with held := d.held ++ [r] })
      else u.updSliceOf r.line (fun k => k.accept r)) (s.updDev (fun d => { d with held := [] }))

/-- Whether a request has been made. -/
def State.sent (s : State) (who : ReqWho) (line : Nat) : Bool :=
  (s.sliceOf line).has who line || s.dev.held.any (fun r => decide (r.who = who) && decide (r.line = line))

/-- An access asks the home slice of its address (R100, R102); a scratch access goes straight to its bank (R61). `more` says that the
access has further units to perform in the line, which its one request serves as well. -/
def State.ask (s0 : State) (who : ReqWho) (addr pol : Nat) (wr more : Bool) : Ask :=
  let s := s0.readmit
  let line := addr / 128
  let take (t : State) : State := if more then t else t.updSliceOf line (fun k => k.consume who line pol)
  if isScratch addr then .go s0
  else if (s.sliceOf line).grants who line then .go (take s)
  else if s.sent who line then .no
  else if !s.quiesced line && (s.sliceOf line).full then .no
  else
    let t := s.send who line pol wr
    if (t.sliceOf line).grants who line then .go (take t) else .wait t

/-- Several lines asked for together: performed once all are there. -/
def State.askAll (s0 : State) (pol : Nat) (wr : Bool) (l : List (ReqWho × Nat)) : Ask :=
  let s := s0.readmit
  let lines := l.filter (fun e => !isScratch (e.2 * 128))
  let ready (t : State) : Bool := lines.all (fun e => (t.sliceOf e.2).grants e.1 e.2)
  let take (t : State) : State := lines.foldl (fun u e => u.updSliceOf e.2 (fun k => k.consume e.1 e.2 pol)) t
  if ready s then .go (take s)
  else
    let todo := lines.filter (fun e => !s.sent e.1 e.2)
    let t := todo.foldl (fun u e =>
      if u.sent e.1 e.2 || (!u.quiesced e.2 && (u.sliceOf e.2).full) then u else u.send e.1 e.2 pol wr) s
    if ready t then .go (take t) else if t = s0 then .no else .wait t

/-- An access of a core asks for its line: under an allocating policy a line held exclusively needs no request (R92), and a line
that enters the data cache needs room there; the line is recalled from another owner (R101). -/
def State.askCore (s : State) (who : ReqWho) (g addr pol : Nat) (wr more : Bool) : Ask :=
  let line := addr / 128
  if isScratch addr then .go s
  else if pol ≤ 2 ∧ !(s.core g).l1.room line then .no
  else if pol ≤ 2 ∧ s.owns g line then .go s
  else if !s.recallOk line || !s.ownOutOk g line pol then .no
  else
    match s.ask who addr pol wr more with
    | .go t => .go (t.recall line)
    | r => r

/-! ## Fills, evictions and write-backs (R95, R100, R101) -/

/-- A line leaves its slice: every L1 copy is recalled, dirty data goes to a write-back slot, the entry and the broadcast flag go
(R95, R101, R144). -/
def State.evict (s : State) (line : Nat) : State :=
  let s0 := s.scrub (line * 128) 128
  let dirty := s0.l1Dirty line || (s0.sliceOf line).dirty.contains line
  let s1 := (s0.dropAll line).updSliceOf line (fun k => { k with
    present := k.present.erase line
    kept := natDel k.kept line
    wb := if dirty then k.wb ++ [(line, false)] else k.wb
    dirty := natDel k.dirty line
    bc := natDel k.bc line })
  let s2 := { s1 with dec := Sparse.put none s1.dec line none }
  if dirty then s2.clearErrs (line * 128) 128 else s2

/-- A line can be evicted when no request waits for it. A collect that is still open holds nothing back: a handler that does not answer
delays no plain load (R144), and the recall of every L1 copy reaches the cores themselves (R95). -/
def Slice.evictable (k : Slice) (line : Nat) : Bool :=
  !k.granted.any (fun r => decide (r.line = line)) && (k.entry? line).isNone

/-- The line that makes room in a full set of 16 (R95, R96). -/
def Slice.victim (k : Slice) (line : Nat) : Option Nat :=
  let set := k.present.filter (fun l => decide (l % 1024 = line % 1024) && k.evictable l)
  match set.find? (fun l => !k.kept.contains l) with
  | some v => some v
  | none => set.head?

/-- A line's eviction takes its next step (R95, R142): a collect when its sharers overflowed, else the eviction itself. -/
def State.evictStep (s0 : State) (line : Nat) : Option State :=
  let s := s0.swept line
  let k := s.sliceOf line
  if k.ovf.contains line && !k.bc.contains line then some (s.collect line 0)
  else if !k.evictable line || !s.slotFor line then none
  else some (s.evict line)

/-- A prefetch brings a line of its slice into its core's data cache, where that is open at once (R304). -/
def State.prefCopy (s : State) (g line pol : Nat) : State :=
  if 3 ≤ pol ∨ !(s.core g).l1.room line ∨ !s.recallOk line then s
  else (((s.recallFor g line).noteDecode (line * 128) 0).l1Data line g pol).gainCopy line g

/-- The data of an open entry arrives (R100): the line is installed in its slice, decoded in a format window, or only delivered. -/
def State.fill (s : State) (line : Nat) (e : MissEntry) : State :=
  let s1 := (s.scrubRead (line * 128) 128).noteDecode (line * 128) (if e.alloc then 0 else 4)
  let pol := match e.reqs.find? (fun r => decide (r.pol ≠ 4)) with | some r => r.pol | none => 0
  let s2 := s1.updSliceOf line (fun k =>
    let come : MissEntry → MissEntry := fun x => { x with filled := true, reqs := x.reqs.filter (fun r => !r.pref) }
    let k1 := { k with open_ := updFirst (fun x => decide (x.line = line)) come k.open_ }
    let k2 := if !e.alloc then k1 else
      { k1 with
        present := if pol = 2 then line :: k1.present.erase line else k1.present.erase line ++ [line]
        kept := if pol = 1 then natIns k1.kept line else k1.kept }
    k2.free)
  e.reqs.foldl (fun u r => match r.who with
    | .unit a 4 _ _ => u.prefCopy a.gid line r.pol
    | _ => u) s2

/-- A fill of a line (R100): a function that is not ready is waited for (R430); with its set full, a victim makes room first. -/
def State.sliceFill (s0 : State) (line : Nat) : Option State :=
  let s := s0.updSliceOf line s0.sweep
  let k := s.sliceOf line
  match k.entry? line with
  | none => if ((s0.sliceOf line).entry? line).isSome then some s else none
  | some e =>
    if e.filled || notReadyPA s none true (line * 128) then none
    else if !e.alloc || decide ((k.present.filter (fun l => decide (l % 1024 = line % 1024))).length < 16) then some (s.fill line e)
    else
      match k.victim line with
      | none => none
      | some v => s.evictStep v

/-- A step of `cwb` (R305): dirty data of the line goes to a write-back slot on its way to memory, and every copy stays, clean. -/
def State.cleanLine (s0 : State) (line : Nat) : State :=
  let s := s0.scrub (line * 128) 128
  let tidy : Core → Core := fun c =>
    if c.l1.dirty.contains line || c.l1.vict.contains line then
      { c with l1 := { c.l1 with dirty := natDel c.l1.dirty line, vict := natDel c.l1.vict line } }
    else c
  let s1 := ({ s with cores := s.cores.map (fun (e : Nat × Core) => (e.1, tidy e.2)) } : State).updSliceOf line (fun k =>
    { k with dirty := natDel k.dirty line, wb := k.wb ++ [(line, false)] })
  s1.clearErrs (line * 128) 128

/-- A write-back slot drains: L1 data is merged into its L2 line, a victim goes to the memory controller (R101). -/
def State.writeBack (s : State) (line : Nat) : Option State :=
  match (s.sliceOf line).wb.find? (fun e => decide (e.1 = line)) with
  | none => none
  | some e => some (s.updSliceOf line (fun k => { k with
      wb := k.wb.erase e
      dirty := if e.2 && k.present.contains line then natIns k.dirty line else k.dirty }))

/-- A victim entry of an L1 moves into a free write-back slot (R101). -/
def State.victimOut (s : State) (g line : Nat) : Option State :=
  if !(s.core g).l1.vict.contains line || decide (16 ≤ (s.sliceOf line).wb.length) then none
  else some ((s.updCore g (fun c => { c with l1 := { c.l1 with vict := c.l1.vict.erase line } })).updSliceOf line (fun k =>
    { k with wb := k.wb ++ [(line, true)] }))

/-! ## Quiesce, flush and release (R113) -/

/-- Whether requests accepted for affected lines have still to run to completion. An open collect is none: it delays no load (R144). -/
def State.unsettled (s : State) (q : Quiesce) : Bool :=
  (s.cluster q.cl).slices.any (fun e =>
    e.2.open_.any (fun m => q.hits s m.line) || e.2.queue.any (fun r => q.hits s r.line) || e.2.granted.any (fun r => q.hits s r.line))

/-- The affected lines that a slice still holds. -/
def State.affected (s : State) (q : Quiesce) : List Nat :=
  (s.cluster q.cl).slices.flatMap (fun e => e.2.present.filter (q.hits s))

/-- Begin a quiesce, let accepted requests run to completion, flush line by line; `done` once no affected line is left. -/
def State.quiesceStep (s0 : State) (q : Quiesce) : Option State :=
  let s := s0.updCluster q.cl (fun k => { k with slices := k.slices.map (fun (e : Nat × Slice) => (e.1, s0.sweep e.2)) })
  if !s.dev.quiesce.contains q then some (s.updDev (fun d => { d with quiesce := d.quiesce ++ [q] }))
  else if s.unsettled q then none
  else
    match s.affected q with
    | [] => none
    | l :: _ => s.evictStep l

/-- The quiesces of a change are over: all begun, nothing under way, nothing held in the slices. -/
def State.flushed (s : State) (qs : List Quiesce) : Bool :=
  qs.all (fun q => s.dev.quiesce.contains q && !s.unsettled q && (s.affected q).isEmpty)

/-- One step of the quiesces of a change; none when all that is left has to come about elsewhere. -/
def State.quiesceAll (s : State) : List Quiesce → Option State
  | [] => none
  | q :: rest => match s.quiesceStep q with | some t => some t | none => s.quiesceAll rest

/-- The quiesce is over: held requests are accepted at their new homes in their held order (R113). -/
def State.releaseHeld (s : State) : State := (s.updDev (fun d => { d with quiesce := [] })).readmit

/-! ## Accesses that make no request: the device's own, those over a link, and a migration's -/

/-- A line that such an access reaches lies in scratch or in no memory, or can be reached now: its memory is ready (R430), no quiesce
holds it (R113), and an owner can give up its dirty data, of which `n` of the access's lines take a slot together (R101). -/
def State.lineFree (s : State) (pa n : Nat) : Bool :=
  isScratch pa || reservedPA s none true pa
    || (!notReadyPA s none true pa && !s.quiesced (pa / 128) && (match s.ownerOf (pa / 128) with
      | none => true
      | some g => !(s.core g).l1.dirty.contains (pa / 128) || decide ((s.sliceOf (pa / 128)).wb.length + n ≤ 16)))

/-- A read of a line that its slice does not hold takes an entry of its miss table, until its data is delivered (R100). -/
def State.missRoom (s : State) (pa : Nat) : Bool :=
  let k := s.sliceOf (pa / 128)
  isScratch pa || reservedPA s none true pa || k.present.contains (pa / 128) || (k.entry? (pa / 128)).isSome || decide (k.open_.length < 64)

def State.noteMiss (s : State) (pa : Nat) : State :=
  let k := s.sliceOf (pa / 128)
  if isScratch pa || reservedPA s none true pa || k.present.contains (pa / 128) || (k.entry? (pa / 128)).isSome then s
  else s.updSliceOf (pa / 128) (fun k => { k with miss := k.miss + 1 })

end Sys2Proof.Machine
end

