-- ==== Sys2Proof/Machine/Flags.lean ====
section
/-! DEFINITION. Flag computations: the conditions of R245, FSTAT's sticky bits (R171), CAPST.INEX (R284). No integer
instruction sets a flag (R277). -/

namespace Sys2Proof.Machine

open Sys2Proof

/-- The test COND of two words (R245). -/
def condTest (c : Nat) (a b : Word) : Bool :=
  match c with
  | 0 => a == b
  | 1 => a != b
  | 2 => a.slt b
  | 3 => !a.slt b
  | 4 => !b.slt a
  | 5 => b.slt a
  | 6 => a.ult b
  | 7 => !a.ult b
  | 8 => !b.ult a
  | _ => b.ult a

/-- Set sticky FSTAT bits (R171). -/
def Ctx.raise (c : Ctx) (f : BitVec 6) : Ctx := { c with fstat := c.fstat ||| f }

/-- FSTAT's bits clear where ones are written (W1C, R267). -/
def Ctx.clearFstat (c : Ctx) (w : Word) : Ctx := { c with fstat := c.fstat &&& ~~~(BitVec.ofNat 6 w.toNat) }

/-- CAPST.INEX (R284). -/
def Ctx.setInex (c : Ctx) (b : Bool) : Ctx := { c with inex := b }

/-- PRGN as `mfs` reads it (R147). -/
def Prgn.word (p : Prgn) : Word :=
  wd (b2n p.opn * 2 ^ 63 + b2n p.tv * 2 ^ 62 + b2n p.mrg * 2 ^ 61 + p.strm.toNat * 2 ^ 56 + p.rpl.toNat * 2 ^ 40
    + p.ticket.toNat)

/-- BUDG as `mfs` reads it (R221). -/
def Budget.word (b : Budget) : Word :=
  wd (b2n b.arm * 2 ^ 63 + b2n b.ended * 2 ^ 62 + b.kind.toNat * 2 ^ 57 + b.sem.toNat * 2 ^ 40 + b.cnt.toNat)

/-- A bank-map register as `mfs` reads it (R69). -/
def Slot.word (t : Slot) : Word :=
  wd (b2n t.valid * 2 ^ 15 + b2n t.out * 2 ^ 14 + b2n t.inn * 2 ^ 13 + (if t.valid then t.bank % 2 ^ 11 else 0))

/-- PRES (R147). -/
def presWord (ticket : BitVec 32) (k stat : Nat) : Word := wd (ticket.toNat * 2 ^ 32 + k % 2 ^ 24 * 2 ^ 8 + stat % 16)

/-- TCAU (R209 ff.). -/
def tcauWord (fseq sub plv kind : Nat) : Word :=
  wd (fseq % 2 ^ 16 * 2 ^ 16 + sub % 16 * 2 ^ 8 + 2 ^ 7 + plv % 4 * 2 ^ 5 + kind % 32)

/-- TCAU with ACT replaced. -/
def tcauSetAct (w : Word) (b : Bool) : Word := (w &&& ~~~(0x80 : Word)) ||| (if b then 0x80 else 0)

def Level.num : Level → Nat
  | .user => 0
  | .supervisor => 1
  | .hypervisor => 2

def Level.ofNum (n : Nat) : Level := if n = 0 then .user else if n = 1 then .supervisor else .hypervisor

end Sys2Proof.Machine
end

