-- ==== Sys2Proof/Machine/TaskEnd.lean ====
section
/-! DEFINITION. Tickets that resolve without a draw (R151, R154, R256), the dependence unit's test (R197), deterministic
stealing (R200), and the end of a task (R189). -/

namespace Sys2Proof.Machine

open Sys2Proof

/-- A ticket resolves: HEAD passes it in its turn. A published ticket waits for the listed writes (R155). -/
def State.resolve (s : State) (cl st : Nat) (ticket : BitVec 32) (wids : List Nat) : State :=
  s.updStream cl st (fun t => { t with resolved := t.resolved ++ [(ticket, wids)] })

/-- A held ticket resolves as aborted, in the same way as by `pabort` (R154, R256): PRES takes STAT 3. -/
def State.abortTicket (s : State) (a : Agent) : State :=
  let c := s.ctx a
  if c.prgn.tv then
    (s.updCtx a (fun c => { c with
      pres := presWord c.prgn.ticket 0 3
      prgn := { c.prgn with opn := false, tv := false } })).resolve (gidCl a.gid) c.prgn.strm.toNat c.prgn.ticket []
  else s

/-! ## The dependence unit -/

/-- Whether a task's regions are free of every earlier task in flight (R197). -/
def depReady (k : Cluster) (ord : Nat) : Bool :=
  (k.deps.filter (fun r => r.ord == ord)).all (fun r =>
    k.deps.all (fun e => !(decide (e.ord < ord) && e.dom == r.dom && decide (e.lo < r.hi) && decide (r.lo < e.hi)
      && (e.write || r.write))))

/-- The queue of a stage in a cluster. -/
def Cluster.queue? (k : Cluster) (lid stage : Nat) : Option StageQ :=
  k.queues.find? (fun q => q.lid == lid && q.stage == stage)

def Cluster.updQueue (k : Cluster) (lid stage : Nat) (f : StageQ → StageQ) : Cluster :=
  { k with queues := k.queues.map (fun q => if q.lid == lid && q.stage == stage then f q else q) }

/-- The next cluster of a launch's CLM at or after a number, in ascending order and around (R200). -/
def nextClm (clm : List Nat) : Nat → Nat → Nat
  | 0, c => c % 8
  | fuel + 1, c => if clm.contains (c % 8) then c % 8 else nextClm clm fuel (c + 1)

/-- The place of an enqueue in the order of tasks (R196): by its cycle, then by the index of the core that makes it; enqueues of the
distributor itself follow those of the cores (`idx` 256), and those of one core keep their order. -/
def State.enqOrd (s : State) (idx : Nat) : Nat := (s.dev.cyc * 512 + idx) * 2 ^ 40 + s.nextOrd

/-- One task of the launch ends in a cluster of a launch in deterministic mode: LC counts, and a cluster with no ready
task of the launch steals the youngest ready task of the cluster that LC names (R200). DESIGN CHOICE (log entry 42): LC names the
cluster after it has counted this end; the stolen task takes a new, youngest place in the thief's order and may enter a queue that
is full; a task whose regions do not fit the thief's dependence unit is not stolen. -/
def State.stealFor (s : State) (l : Launch) (cl : Nat) : State :=
  if !l.det then s
  else
    let s1 := s.updCluster cl (fun k => { k with lc := Sparse.put 0 k.lc l.lid (Sparse.look 0 k.lc l.lid + 1) })
    let k := s1.cluster cl
    let mine := k.queues.any (fun q => q.lid == l.lid && q.items.any (fun it => depReady k it.ord))
    let v := nextClm l.clm 8 (cl + 1 + Sparse.look 0 k.lc l.lid % 7)
    if mine || v == cl then s1
    else
      let vk := s1.cluster v
      let cands := (vk.queues.filter (fun q => q.lid == l.lid)).flatMap (fun q =>
        (q.items.filter (fun it => it.saved.isEmpty && depReady vk it.ord)).map (fun it => (q.stage, it)))
      match cands.foldl (fun acc e => match acc with
          | none => some e
          | some b => if b.2.ord < e.2.ord then some e else some b) none with
      | none => s1
      | some (stg, it) =>
        let regs := vk.deps.filter (fun r => r.ord == it.ord)
        if 512 < k.deps.length + regs.length then s1
        else
          let s2 := s1.updCluster v (fun c =>
            let c1 := c.updQueue l.lid stg (fun q => { q with items := q.items.filter (fun x => x.ord ≠ it.ord) })
            { c1 with deps := c1.deps.filter (fun r => r.ord ≠ it.ord) })
          let ord := s2.enqOrd 256
          let it2 : QItem := { it with ord := ord }
          let s3 := s2.updCluster cl (fun c =>
            let c1 := c.updQueue l.lid stg (fun q => { q with items := insBy (fun i => i.ord) it2 q.items })
            { c1 with deps := c1.deps ++ regs.map (fun r => { r with ord := ord }) })
          { s3 with nextOrd := s2.nextOrd + 1 }

/-! ## Binding a context to a domain (R31) -/

/-- A bank bound to a domain: kept when its record names that domain, else cleared (R31). -/
def Ctx.bindDom (c : Ctx) (dom : BitVec 12) : Ctx :=
  if c.bankDom = dom then { c with cdom := dom }
  else { c with x := [], v := [], k := [], p := [], lq := [], sq := [], bankDom := dom, cdom := dom }

/-! ## The end of a task -/

/-- A context that no task owns any more. -/
def Ctx.idle (c : Ctx) : Ctx :=
  { c with
    live := false, cdom := 0xFFF, twid := 0, tinf := 0, busy := none, blk := none, fpart := [], fences := [], slot := 0
    waitTaken := false, waiting := false, region := none, sfault := none, prgn := { c.prgn with opn := false, mrg := false } }

/-- An exchange phase is over for a core; what it drove goes on along the wires (R367). -/
def Core.closePhase (c : Core) : Core := { c with phase := none, pastPhases := c.pastPhases ++ c.phase.toList }

/-- A core becomes idle; it keeps its semaphores, planes, slots and write pointers (R190). The signals of the task's last cycle have taken
effect (R244). -/
def Core.idle (c0 : Core) : Core :=
  let c := c0.semStep.closePhase
  { c with
    ctxs := c.ctxs.map (fun e => (e.1, e.2.idle))
    task := none, saving := 0, saveSlots := 0, saveMask := [], mrg := none, binding := none, conflict := none, faults := []
    req := false
    matrix := { c.matrix with late := [], row := [], joined := false, fwd := [] }
    trackers := c.trackers.map (fun t => { t with waiters := t.waiters.filter (fun w => w.2.isSome) }) }

/-- Writes of a core's contexts that still have an invalidation in flight. -/
def coreObs (c : Core) : List Nat := c.ctxs.flatMap (fun e => e.2.obs)

/-- A launch that completes or is cancelled returns its queue storage, and its queues are gone (R187). -/
def State.returnStorage (s : State) (lid : Nat) : State :=
  match s.launch? lid with
  | none => s
  | some l =>
    let s1 := s.updDev (fun d =>
      let p := Sparse.look Pool.reset d.pools l.part
      { d with pools := Sparse.put Pool.reset d.pools l.part { p with used := p.used - l.storage } })
    let s2 := s1.updLaunch lid (fun l => { l with storage := 0, count := 0 })
    l.clm.foldl (fun acc c => acc.updCluster c (fun k => { k with queues := k.queues.filter (fun q => q.lid ≠ lid) })) s2

/-- The task on a core ends: every core of the task becomes idle, its regions leave the dependence unit, its log slots
free, and its launch counts it for a later STATUS write (R186, R189). -/
def State.endTask (s : State) (g : Nat) : State :=
  match (s.core g).task with
  | none => s.updCore g Core.idle
  | some t =>
    let eng := (s.recs.filter (fun r => t.members.contains r.gid && r.eng.isSome && s.anyInFlight r.wid)).map (fun r => r.wid)
    let obs := t.members.flatMap (fun m => coreObs (s.core m)) ++ eng
    let slots := t.members.filterMap (fun m => ((s.core m).task).bind (fun u => u.logSlot))
    let s1 := t.members.foldl (fun acc m => acc.updCore m Core.idle) s
    let s2 := { s1 with arrivals := s1.arrivals.filter (fun r => !t.members.contains r.agent.gid) }
    let cl := gidCl g
    let s3 := s2.updCluster cl (fun k => { k with
      deps := k.deps.filter (fun r => r.ord ≠ t.ord)
      request := match k.request with
        | none => none
        | some c => if t.members.contains c then none else some c })
    let s4 := s3.updLaunch t.lid (fun l => { l with
      alive := l.alive - 1, ended := l.ended + 1, waits := l.waits ++ obs, written := false
      code := if l.alive ≤ 1 ∧ l.code = 0 then 1 else l.code
      logFree := slots.foldl natIns l.logFree })
    match s4.launch? t.lid with
    | none => s4
    | some l => if l.code = 1 then s4.returnStorage t.lid else s4.stealFor l cl

end Sys2Proof.Machine
end

