-- ==== Sys2Proof/Machine/Ops.lean ====
section
/-! DEFINITION. The operations every meaning shares: how an instruction issues, waits, retires and signals (R237, R242,
R243), how control moves (R235, R253), how a fault is delivered (R207-R212, R222, R351), how an upcall is (R48, R49), and
the returns `rfe` and `rfu` (R50, R211). -/

namespace Sys2Proof.Machine

open Sys2Proof

/-! ## The block being executed -/

/-- The 96 bits of a slot of a fetched block (R228). -/
def slotWord (blk : BitVec 512) (i : Nat) : BitVec 96 := blk.extractLsb' (96 * i) 96

/-- The trailer of a fetched block (R228). -/
def trailerOf (blk : BitVec 512) : BitVec 32 := blk.extractLsb' 480 32

def blkNv (blk : BitVec 512) : Nat := (trailerOf blk).toNat / 32 % 8
def blkClass (blk : BitVec 512) : Nat := (trailerOf blk).toNat / 256 % 256
def blkSig (blk : BitVec 512) : Nat := (trailerOf blk).toNat / 65536

/-- Valid slots of the block a context executes; five where no block is held. -/
def Ctx.nv (c : Ctx) : Nat := match c.blk with | some b => blkNv b | none => 5

/-- TVAL of an illegal instruction: bits [95:32] of the slot (R207). -/
def Ctx.slotVal (c : Ctx) : Word :=
  match c.blk with | some b => (slotWord b c.slot).extractLsb' 32 64 | none => 0

/-! ## Moving on -/

/-- The program capability moved by a signed count of blocks (R253). -/
def Ctx.jumpCap (c : Ctx) (off : Int) : Cap := ⟨c.pcc.addr + wdI (64 * off), c.pcc.md, c.pcc.tag⟩

/-- Enter a block at a slot under a program capability; `out` says that its address has left the representable region. -/
def Ctx.enter (c : Ctx) (p : Cap) (out : Bool) (slot : Nat) : Ctx :=
  { c with
    pcc := p, pcOut := out, slot := slot, blk := none, fpart := [], waitTaken := false, waiting := false, busy := none }

/-- Go to a block and slot under the unchanged program capability. -/
def Ctx.goBlock (c : Ctx) (blk : Word) (slot : Nat) : Ctx :=
  c.enter ⟨blk, c.pcc.md, c.pcc.tag⟩ (c.pcOut || !capRepresentable c.pcc.addr c.pcc.md blk) slot

/-- Jump by a count of blocks under the unchanged program capability. -/
def Ctx.jump (c : Ctx) (off : Int) : Ctx := c.goBlock (c.pcc.addr + wdI (64 * off)) 0

/-- The next slot, or slot 0 of the next block after the last valid slot (R235). -/
def Ctx.advance (c : Ctx) : Ctx :=
  if c.slot + 1 < c.nv then { c with slot := c.slot + 1, waitTaken := false, waiting := false, busy := none } else c.jump 1

/-- The signal clause of an engine command, at its completion (R243). -/
def State.signal (s : State) (g : Nat) (h : Hdr) : State :=
  if h.si = 0 then s else s.addSem g h.ss.toNat h.si.toNat

/-- The signal clause of an instruction that retires: it takes effect in the next cycle (R243, R244). -/
def State.signalNext (s : State) (g : Nat) (h : Hdr) : State :=
  if h.si = 0 then s else s.addSemNext g h.ss.toNat h.si.toNat

/-- An ordinary instruction retires: it signals and the context moves on. -/
def State.retire (s : State) (a : Agent) (h : Hdr) : State := (s.signalNext a.gid h).updCtx a Ctx.advance

/-- The wait count an instruction consumed is added back (R48, R208). -/
def State.addBack (s : State) (a : Agent) (h : Hdr) : State :=
  if (s.ctx a).waitTaken && decide (h.wt ≠ 0) then
    (s.addSem a.gid h.ws.toNat h.wt.toNat).updCtx a (fun c => { c with waitTaken := false })
  else s

/-! ## Commit regions abandoned (R156) -/

/-- Drop an open region, keeping its ticket; the context resumes at slot 0 of the `pbegin` block. DESIGN CHOICE: the spec does not
say under which program-capability metadata it resumes when the region has branched by a capability; the model keeps the
metadata that is current when the region is dropped (log entry 6). -/
def State.abandon (s : State) (a : Agent) : State :=
  match (s.ctx a).region with
  | none => s
  | some r =>
    (s.updCtx a (fun c => { c with
      region := none
      prgn := { c.prgn with opn := false }
      pcc := ⟨r.blk, c.pcc.md, c.pcc.tag⟩
      slot := 0, blk := none, fpart := [], waitTaken := false, waiting := false, busy := none })).updCore a.gid
        (fun c => { c with pcntAbnd := c.pcntAbnd + 1 })

/-! ## Traps (R207-R212) -/

/-- Fill a set of trap registers (R210). -/
def TrapRegs.take (r : TrapRegs) (t : TrapInfo) (kind sub plv : Nat) (blk : Word) (slot : Nat) (md : Word) : TrapRegs :=
  { r with
    epc := wd (blk.toNat / 64 * 64 + slot % 8 * 8)
    epm := md
    cau := tcauWord (if kind = 0x0A ∨ kind = 0x0B then t.fseq else 0) sub plv kind
    val := t.val }

/-- The handler's program capability (R210). -/
def TrapRegs.handler (r : TrapRegs) : Cap := ⟨wd (r.vec.toNat / 64 * 64), r.vem, true⟩

/-- The header of the instruction a context executes; a plain one where no block is held. -/
def Ctx.curHdr (c : Ctx) : Hdr := match c.blk with | some b => fHdr (slotWord b c.slot) | none => fHdr 0

/-- A context leaves what it waits for: its arrivals are withdrawn, and a bank instruction past its indivisible step is
carried through without it (R80, R83, R270). -/
def State.letGo (s : State) (a : Agent) : State :=
  let leave : Drain → Drain := fun d => if d.ctx = a.ctx then { d with held := false } else d
  ({ s with arrivals := s.arrivals.filter (fun r => r.agent ≠ a) }).updCore a.gid (fun c =>
    if c.drains.isEmpty then c else { c with drains := c.drains.map leave })

/-- A context stops (R256, R260). -/
def Ctx.stop (c : Ctx) : Ctx :=
  { c with live := false, busy := none, blk := none, fpart := [], fences := [], waitTaken := false, waiting := false }

/-- A context is stopped where it stands: a wait count taken is given back, an open region abandoned, a held ticket aborted (R212, R257). -/
def State.haltCtx (s : State) (a : Agent) : State :=
  let s1 := ((s.addBack a (s.ctx a).curHdr).abandon a).abortTicket a
  (s1.updCtx a Ctx.stop).updCore a.gid (fun k => k.unwait a.ctx)

/-- A task ends without output (R212): its contexts stop at once, and it ends once its stores and engine commands are over, as
after `halt` (R127, R189); it takes part in no merge and no rollback. A core without a task just stops the context. DESIGN CHOICE (log
entry 40): how the other contexts of the task stop; a bank instruction past its step is carried through without its context, a commit
past its draw ends as aborted. -/
def State.condemn (s : State) (a : Agent) : State :=
  match (s.core a.gid).task with
  | none => s.haltCtx a
  | some t =>
    let s1 := t.members.foldl (fun acc m => (acc.liveAgents m).foldl (fun st b => (st.haltCtx b).letGo b) acc) s
    let s2 := { s1 with arrivals := s1.arrivals.filter (fun r => !t.members.contains r.agent.gid) }
    t.members.foldl (fun acc m => acc.updCore m (fun c => { c with task := c.task.map (fun k => { k with halted := true }), mrg := none })) s2

/-- A trap through the hypervisor copies (R212), with its own KIND or as a nested trap. -/
def State.hypTrap (s : State) (a : Agent) (t : TrapInfo) (kind sub : Nat) (blk : Word) (slot : Nat) : State :=
  let c := s.ctx a
  if bit c.hyp.cau 7 then (s.condemn a).updDev (fun d => { d with rakeLog := d.rakeLog ++ [(1, a.gid)] })
  else
    let h := c.hyp.take t kind sub c.level.num blk slot c.pcc.md
    s.updCtx a (fun c => { (c.enter h.handler false 0) with hyp := h, level := .hypervisor })

/-- The supervisor trap of R210, at a resume point. -/
def State.supTrap (s : State) (a : Agent) (t : TrapInfo) (blk : Word) (slot : Nat) : State :=
  let c := s.ctx a
  if c.level = .hypervisor then s.hypTrap a t t.kind t.sub blk slot
  else if bit c.sup.cau 7 then s.hypTrap a t 0x0D t.kind blk slot
  else
    let r := c.sup.take t t.kind t.sub c.level.num blk slot c.pcc.md
    s.updCtx a (fun c => { (c.enter r.handler false 0) with sup := r, level := .supervisor })

/-- A budgeted helper is ended (R222): a wait count already taken is given back. -/
def State.endHelper (s : State) (a : Agent) (kind : Nat) : State :=
  let s1 := ((s.addBack a (s.ctx a).curHdr).abandon a).letGo a
  let c := s1.ctx a
  let s2 := s1.updCore a.gid (fun k => (k.addSem c.budg.sem.toNat 1).unwait a.ctx)
  let s3 := s2.abortTicket a
  s3.updCtx a (fun c => { c.stop with budg := { c.budg with ended := true, kind := BitVec.ofNat 5 kind, arm := false } })

/-- A fault that R207 delivers to the supervisor: a sequencer's is held (R351), a budgeted helper is ended (R222),
otherwise the trap is taken. An open region is abandoned first (R156). -/
def State.deliverTrap (s : State) (a : Agent) (t : TrapInfo) : State :=
  if 11 ≤ a.ctx then s.updCtx a (fun c => { c with sfault := some t, waitTaken := false, waiting := false, busy := none })
  else if 1 ≤ a.ctx ∧ (s.ctx a).budg.arm then s.endHelper a t.kind
  else
    let s1 := (s.abandon a).updCore a.gid (fun k => k.unwait a.ctx)
    let c := s1.ctx a
    s1.supTrap a t c.pcc.addr c.slot

/-- A fault raised by the instruction in the current slot: no effect, its wait count added back (R208). -/
def State.fault (s : State) (a : Agent) (h : Hdr) (kind sub : Nat) (val : Word) : State :=
  (s.addBack a h).deliverTrap a ⟨kind, sub, val, 0⟩

/-- An upcall (R48), for a context whose handler is enabled and not active. -/
def State.upcall (s : State) (a : Agent) (va : Word) (fseq kind cause : Nat) : State :=
  let s1 := (s.abandon a).updCore a.gid (fun k => k.unwait a.ctx)
  s1.updCtx a (fun c => { (c.goBlock (wd (bits c.upv 63 6 * 64)) 0) with
    upc := wd (c.pcc.addr.toNat / 64 * 64 + c.slot % 8 * 8)
    upa := va
    upi := wd (fseq % 2 ^ 16 * 2 ^ 16 + kind % 16 * 2 ^ 12 + cause % 16 * 2 ^ 8 + 2 ^ 7) })

/-- A fault that may become an upcall: `trapKind` is its supervisor kind (R48, R49, R213). -/
def State.upcallOrTrap (s : State) (a : Agent) (h : Hdr) (trapKind sub : Nat) (va : Word) (fseq kind cause : Nat) : State :=
  let s0 := s.addBack a h
  let c := s0.ctx a
  if !bit c.upv 0 then s0.deliverTrap a ⟨trapKind, sub, va, fseq⟩
  else if bit c.upi 7 then s0.deliverTrap a ⟨0x0B, cause, va, fseq⟩
  else s0.upcall a va fseq kind cause

/-! ## Returns (R50, R211) -/

/-- `rfu`: resume where UPC names, with ACT clear (R50). -/
def Ctx.rfuResume (c : Ctx) : Ctx :=
  { (c.goBlock (wd (bits c.upc 63 6 * 64)) (bits c.upc 5 3)) with
    upi := tcauSetAct c.upi false }

/-- `rfe` through a set of trap registers (R211). -/
def Ctx.rfeResume (c : Ctx) (r : TrapRegs) : Ctx :=
  { (c.enter ⟨wd (bits r.epc 63 6 * 64), r.epm, true⟩ false (bits r.epc 5 3)) with
    level := Level.ofNum (bits r.cau 6 5) }

/-! ## Issuing an instruction -/

/-- What an instruction's body comes to. -/
inductive Res where
  | done (s : State)                               -- it retires
  | goto (s : State) (p : Cap) (out : Bool)        -- it retires and control moves to a block
  | keep (s : State)                               -- the state is final as it stands
  | wait (s : State)                               -- it waits, and is executed again
  | trap (kind sub : Nat) (val : Word)             -- it faults, with no effect
  | illegal                                        -- it raises the illegal-instruction trap
  | late (s : State) (kind sub : Nat) (val : Word) -- it faults in a state of its own

/-- How an instruction stands inside a commit region (R150). -/
inductive InRegion where
  | normal
  | closes      -- `pcommit`, `pabort`: their clauses act
  | illegal
  deriving DecidableEq, Repr

/-- Whether pending loads write a scalar register, or its pair when `mate` (R294). -/
def Ctx.xPending (c : Ctx) (n : Nat) (mate : Bool) : Bool :=
  c.pend.any (fun e => match e.dest with
    | .x r => decide (r ≠ 0) && (decide (r = n) || (mate && decide (r = pairMate n)))
    | .pair r _ => decide (n / 2 = r / 2)
    | _ => false)

def Ctx.vPending (c : Ctx) (n : Nat) : Bool :=
  c.pend.any (fun e => match e.dest with | .v r => decide (r = n) | _ => false)

/-- Readiness of operands. -/
inductive OpsReady where
  | ready
  | wait
  | illegal
  deriving DecidableEq, Repr

/-- The first entries of a load-data queue that an instruction pops: there and performed (R240). -/
def lqReady (l : List QEntry) (k : Nat) : OpsReady :=
  if l.length < k then .illegal
  else if (l.take k).all (fun e => match e with | .val _ => true | .pending _ => false) then .ready else .wait

def srcReady (c : Ctx) (o : Operand) : OpsReady :=
  match o with
  | .x n => if c.xPending n.val false then .wait else .ready
  | .v n => if c.vPending n.val then .wait else .ready
  | _ => .ready

def dstReady (c : Ctx) (o : Operand) : OpsReady :=
  match o with
  | .x n => if c.xPending n.val true then .wait else .ready
  | .v n => if c.vPending n.val then .wait else .ready
  | .sq n => if (c.getSq n.val).length < 16 then .ready else .wait
  | _ => .ready

/-- How often a list of operands pops a load-data queue. -/
def lqPops (srcs : List Operand) (q : Nat) : Nat :=
  (srcs.filter (fun o => match o with | .lq n => n.val == q | _ => false)).length

/-- All operands of an instruction: an illegal one first, then a wait. -/
def opsReady (c : Ctx) (srcs dsts : List Operand) : OpsReady :=
  let l := srcs.map (srcReady c) ++ dsts.map (dstReady c)
    ++ (List.range 4).map (fun q => let k := lqPops srcs q; if k = 0 then .ready else lqReady (c.getLq q) k)
  if l.contains .illegal then .illegal else if l.contains .wait then .wait else .ready

/-- Commands accepted and incomplete on a core, each with its channel (4 for the matrix engine). -/
def Core.cmds (c : Core) : List (Nat × Cmd) :=
  (List.range 4).flatMap (fun i => (c.chan i).cmds.map (fun e => (i, e))) ++ c.matrix.cmds.map (fun e => (4, e))

/-- Whether an accepted command will still write a register of a sequencer's bank that a list of operands reads (R350). -/
def Core.statusDue (k : Core) (ctx : Nat) (srcs : List Operand) : Bool :=
  decide (11 ≤ ctx) && k.cmds.any (fun e => ((e.1 == 4) == (ctx == 11)) && e.2.o.d ≠ .x 0 && srcs.contains e.2.o.d)

/-- Whether a `tlbw` of an agent has yet to write a register that a list of operands reads, or the pair of one it writes
(R376). -/
def State.replyDue (s : State) (a : Agent) (srcs dsts : List Operand) : Bool :=
  s.flights.any (fun f => match f with
    | .reply _ _ _ _ _ _ _ _ _ v (.x n) =>
      decide (v = a) && decide (n.val ≠ 0) && (srcs.contains (.x n) || dsts.any (fun o => match o with
        | .x m => decide (m.val / 2 = n.val / 2)
        | _ => false))
    | _ => false)

/-- The guard (R237). -/
def Ctx.guard (c : Ctx) (h : Hdr) : Bool := c.getP h.gp.val != h.gn

/-- Whether a busy context can do nothing until an event moves it. -/
def Ctx.held (c : Ctx) : Bool :=
  match c.busy with
  | some (.barrier _ _) => true
  | some (.drain _ _) => true
  | some (.sigCheck _ _) => true
  | some .ending => true
  | some (.saving _) => true
  | some .reading => true
  | _ => false

/-- The end of one execution of an instruction. -/
def Res.close (r : Res) (a : Agent) (h : Hdr) (s : State) : Host.Outcome State Fault Refusal :=
  match r with
  | .done t => .next (t.retire a h)
  | .goto t p out => .next ((t.signalNext a.gid h).updCtx a (fun c => c.enter p out 0))
  | .keep t => .next t
  | .wait t => .next t
  | .trap k sub v => .next (s.fault a h k sub v)
  | .illegal => .next (s.fault a h 5 0 (s.ctx a).slotVal)
  | .late t k sub v => .next (t.fault a h k sub v)

/-- A lower-numbered agent of the core whose ready instruction waits on the same semaphore and can pass goes first
(R244). -/
def State.outranked (s : State) (a : Agent) (sem : Nat) : Bool :=
  let k := s.core a.gid
  k.ctxs.any (fun e => decide (e.1 < a.ctx) && e.2.live && e.2.waiting && (match e.2.blk with
    | none => false
    | some b =>
      let h := fHdr (slotWord b e.2.slot)
      decide (h.ws.toNat = sem) && decide (h.wt.toNat ≤ (k.sem sem).val.toNat)))

/-- The wait clause taken: the count leaves the semaphore, and the writes of release-flagged engine commands behind its signals join the
observed set (R242, R122). -/
def State.takeSem (s : State) (a : Agent) (h : Hdr) : State :=
  let m := (s.core a.gid).sem h.ws.toNat
  let left := m.val - BitVec.ofNat 16 h.wt.toNat
  let ws := Sparse.look [] (s.core a.gid).relSig h.ws.toNat
  let s1 := s.updCore a.gid (fun c =>
    let c1 := c.setSem h.ws.toNat ⟨left, m.ovf⟩
    { c1 with relSig := if left = 0 then Sparse.put [] c1.relSig h.ws.toNat [] else c1.relSig })
  (s1.observe a ws).updCtx a (fun c => { c with waitTaken := true, waiting := false })

/-- Take the wait clause: none while the semaphore is too low, or a lower-numbered agent goes first (R242, R244). -/
def State.takeWait (s : State) (a : Agent) (h : Hdr) : Option State :=
  if (s.ctx a).waitTaken || decide (h.wt = 0) then some s
  else if decide (((s.core a.gid).sem h.ws.toNat).val.toNat < h.wt.toNat) || s.outranked a h.ws.toNat then none
  else some (s.takeSem a h)

/-- The instruction stays at its wait clause (R242). -/
def State.waitMore (s : State) (a : Agent) : State := s.updCtx a (fun c => { c with waiting := true })

/-- One execution of an instruction by the agent whose turn it is: region rule, operands, wait clause, guard, body
(R150, R237, R240, R242). -/
def issue (h : Hdr) (s : State) (rg : InRegion) (srcs dsts : List Operand) (body : State → Res) :
    Host.Outcome State Fault Refusal :=
  let a := s.cur
  let c := s.ctx a
  if c.held then .next s
  else if !c.guard h then
    match s.takeWait a h with
    | none => .next (s.waitMore a)
    | some s1 => .next (s1.retire a h)
  else if c.region.isSome && (rg = .illegal || (rg = .normal && (decide (h.wt ≠ 0) || decide (h.si ≠ 0)))) then
    .next (s.fault a h 5 0 c.slotVal)
  else if (s.core a.gid).statusDue a.ctx srcs || s.replyDue a srcs dsts then .next s
  else
    match opsReady c srcs dsts with
    | .illegal => .next (s.fault a h 5 0 c.slotVal)
    | .wait => .next s
    | .ready =>
      match s.takeWait a h with
      | none => .next (s.waitMore a)
      | some s1 => (body s1).close a h s1

end Sys2Proof.Machine
end

