-- ==== Sys2Proof/Machine/Operands.lean ====
section
/-! DEFINITION. Operand forms: scalar, vector, predicate, mask and queue sources and destinations (R239, R240), pairs
(R241), scope operands (R119, R120), and the shapes that the plain register instructions share. -/

namespace Sys2Proof.Machine

open Sys2Proof

/-- The register number of a scalar operand, 0 for another class. -/
def opNum : Operand → Nat
  | .x n => n.val
  | .v n => n.val
  | .lq n => n.val
  | .sq n => n.val
  | .p n => n.val
  | .k n => n.val

/-- Pop the head of a load-data queue. -/
def Ctx.popLq (c : Ctx) (q : Nat) : Line × Ctx :=
  match c.getLq q with
  | .val v :: r => (v, c.putLq q r)
  | _ => (0, c)

/-- Read a scalar source; a queue gives the low 64 bits of its head and pops it; a mask is zero-extended (R240, R281). -/
def Ctx.readS (c : Ctx) (o : Operand) : Word × Ctx :=
  match o with
  | .x n => ((c.getX n.val).val, c)
  | .lq n => let r := c.popLq n.val; (r.1.setWidth 64, r.2)
  | .k n => ((c.getK n.val).setWidth 64, c)
  | _ => (0, c)

/-- Write a scalar destination; a push zeroes the upper bits (R240); a mask takes the low 32 bits (R281). -/
def Ctx.writeS (c : Ctx) (o : Operand) (v : Word) : Ctx :=
  match o with
  | .x n => c.writeX n.val v
  | .sq n => c.pushSq n.val (v.setWidth 1024)
  | .k n => c.writeK n.val (v.setWidth 32)
  | _ => c

/-- Read a vector source. -/
def Ctx.readV (c : Ctx) (o : Operand) : Line × Ctx :=
  match o with
  | .v n => (c.getV n.val, c)
  | .lq n => c.popLq n.val
  | _ => (0, c)

/-- Write a vector destination. -/
def Ctx.writeVO (c : Ctx) (o : Operand) (v : Line) : Ctx :=
  match o with
  | .v n => c.writeV n.val v
  | .sq n => c.pushSq n.val v
  | _ => c

/-- Read a predicate operand. -/
def Ctx.readP (c : Ctx) (o : Operand) : Bool := match o with | .p n => c.getP n.val | _ => false

/-- Write a predicate destination; nothing where the field is 0. -/
def Ctx.writePO (c : Ctx) (o : Operand) (b : Bool) : Ctx := match o with | .p n => c.writeP n.val b | _ => c

/-- The capability in the pair an operand names (R241). -/
def Ctx.readPair (c : Ctx) (o : Operand) : Cap := c.getPair (opNum o)

/-- The registers of a pair, as operands whose readiness matters. -/
def pairOps (o : Operand) : List Operand :=
  match o with
  | .x n => [.x n, .x (Fin.ofNat 64 (n.val + 1))]
  | _ => []

/-- `k` registers from the one an operand names. -/
def groupOps (o : Operand) (k : Nat) : List Operand :=
  match o with
  | .x n => (List.range k).map (fun i => .x (Fin.ofNat 64 (n.val + i)))
  | _ => []

/-- The scope an operand names: operand number 0 is the core scope (R120). -/
def Ctx.scopeArg (c : Ctx) (o : Operand) : Order := ⟨false, false, (c.getX (opNum o)).val, decide (opNum o = 0)⟩

/-- Whether a scope operand is acceptable (R120). -/
def Order.ok (o : Order) : Bool := o.core || scopeOk o.scope

/-- Change the context whose turn it is. -/
def State.self (s : State) (f : Ctx → Ctx) : State := s.updCtx s.cur f

/-- The context whose turn it is. -/
def State.me (s : State) : Ctx := s.ctx s.cur

/-- The core whose turn it is. -/
def State.here (s : State) : Core := s.core s.cur.gid

/-- An instruction that only changes its own context. -/
def pure1 (h : Hdr) (s : State) (srcs dsts : List Operand) (f : Ctx → Ctx) : Host.Outcome State Fault Refusal :=
  issue h s .normal srcs dsts (fun t => .done (t.self f))

/-- D := f(A, B), scalar; A is read, and popped, before B (R240). -/
def aluCtx (f : Word → Word → Word) (d a b : Operand) (c : Ctx) : Ctx :=
  let ra := c.readS a
  let rb := ra.2.readS b
  rb.2.writeS d (f ra.1 rb.1)

/-- D := f(A), scalar. -/
def unCtx (f : Word → Word) (d a : Operand) (c : Ctx) : Ctx :=
  let ra := c.readS a
  ra.2.writeS d (f ra.1)

def aluRR (f : Word → Word → Word) (h : Hdr) (o : FmtRR) (s : State) : Host.Outcome State Fault Refusal :=
  pure1 h s [o.a, o.b] [o.d] (aluCtx f o.d o.a o.b)

def unRR (f : Word → Word) (h : Hdr) (o : FmtRR) (s : State) : Host.Outcome State Fault Refusal :=
  pure1 h s [o.a] [o.d] (unCtx f o.d o.a)

def unI (f : Word → Word) (h : Hdr) (o : FmtI) (s : State) : Host.Outcome State Fault Refusal :=
  pure1 h s [o.a] [o.d] (unCtx f o.d o.a)

end Sys2Proof.Machine
end

