-- ==== Sys2Proof/Machine/Integer.lean ====
section
/-! DEFINITION. Group 0x1: integer, compare, select, move, bit-field and predicate instructions (R277-R281). -/

namespace Sys2Proof.Machine

open Sys2Proof

abbrev Out : Type := Host.Outcome State Fault Refusal

/-- Sign-extended 32-bit immediate. -/
def immS (i : BitVec 32) : Word := i.signExtend 64

def execAdd (h : Hdr) (o : FmtRR) (s : State) : Out := aluRR (fun a b => a + b) h o s
def execSub (h : Hdr) (o : FmtRR) (s : State) : Out := aluRR (fun a b => a - b) h o s
def execAddi (h : Hdr) (o : FmtI) (s : State) : Out := unI (fun a => a + immS o.imm) h o s
def execMul (h : Hdr) (o : FmtRR) (s : State) : Out := aluRR (fun a b => a * b) h o s

/-- Bits [127:64] of the exact signed product (R277). -/
def mulHighS (a b : Word) : Word := wdI (a.toInt * b.toInt / 2 ^ 64)
/-- Bits [127:64] of the exact unsigned product (R277). -/
def mulHighU (a b : Word) : Word := wd (a.toNat * b.toNat / 2 ^ 64)

def execMulh (h : Hdr) (o : FmtRR) (s : State) : Out := aluRR mulHighS h o s
def execMulhu (h : Hdr) (o : FmtRR) (s : State) : Out := aluRR mulHighU h o s

/-- R278: the quotient rounds toward zero; by zero it is all ones; -2^63 by -1 gives -2^63. -/
def divS (a b : Word) : Word := if b = 0 then -1 else wdI (a.toInt.tdiv b.toInt)
def divU (a b : Word) : Word := if b = 0 then -1 else wd (a.toNat / b.toNat)
/-- R278: the remainder takes the dividend's sign; by zero it is A. -/
def remS (a b : Word) : Word := if b = 0 then a else wdI (a.toInt.tmod b.toInt)
def remU (a b : Word) : Word := if b = 0 then a else wd (a.toNat % b.toNat)

def execDiv (h : Hdr) (o : FmtRR) (s : State) : Out := aluRR divS h o s
def execDivu (h : Hdr) (o : FmtRR) (s : State) : Out := aluRR divU h o s
def execRem (h : Hdr) (o : FmtRR) (s : State) : Out := aluRR remS h o s
def execRemu (h : Hdr) (o : FmtRR) (s : State) : Out := aluRR remU h o s
def execAnd (h : Hdr) (o : FmtRR) (s : State) : Out := aluRR (fun a b => a &&& b) h o s
def execOr (h : Hdr) (o : FmtRR) (s : State) : Out := aluRR (fun a b => a ||| b) h o s
def execXor (h : Hdr) (o : FmtRR) (s : State) : Out := aluRR (fun a b => a ^^^ b) h o s
def execAndn (h : Hdr) (o : FmtRR) (s : State) : Out := aluRR (fun a b => a &&& ~~~b) h o s

/-- The shift distance: six bits (R277). -/
def sh6 (b : Word) : Nat := b.toNat % 64

def shlW (a b : Word) : Word := a <<< sh6 b
def shrW (a b : Word) : Word := a >>> sh6 b
def sarW (a b : Word) : Word := a.sshiftRight (sh6 b)
def rolW (a b : Word) : Word := a.rotateLeft (sh6 b)

def execShl (h : Hdr) (o : FmtRR) (s : State) : Out := aluRR shlW h o s
def execShr (h : Hdr) (o : FmtRR) (s : State) : Out := aluRR shrW h o s
def execSar (h : Hdr) (o : FmtRR) (s : State) : Out := aluRR sarW h o s
def execRol (h : Hdr) (o : FmtRR) (s : State) : Out := aluRR rolW h o s
def execShlI (h : Hdr) (o : FmtI) (s : State) : Out := unI (fun a => shlW a (o.imm.setWidth 64)) h o s
def execShrI (h : Hdr) (o : FmtI) (s : State) : Out := unI (fun a => shrW a (o.imm.setWidth 64)) h o s
def execSarI (h : Hdr) (o : FmtI) (s : State) : Out := unI (fun a => sarW a (o.imm.setWidth 64)) h o s
def execRolI (h : Hdr) (o : FmtI) (s : State) : Out := unI (fun a => rolW a (o.imm.setWidth 64)) h o s

def clzW (a : Word) : Word := wd (clzN 64 a.toNat)
def ctzW (a : Word) : Word := wd (ctzN 64 a.toNat)
def popcW (a : Word) : Word := wd (popN 64 a.toNat)

def execClz (h : Hdr) (o : FmtRR) (s : State) : Out := unRR clzW h o s
def execCtz (h : Hdr) (o : FmtRR) (s : State) : Out := unRR ctzW h o s
def execPopc (h : Hdr) (o : FmtRR) (s : State) : Out := unRR popcW h o s

def execMin (h : Hdr) (o : FmtRR) (s : State) : Out := aluRR (fun a b => if b.slt a then b else a) h o s
def execMax (h : Hdr) (o : FmtRR) (s : State) : Out := aluRR (fun a b => if a.slt b then b else a) h o s
def execMinu (h : Hdr) (o : FmtRR) (s : State) : Out := aluRR (fun a b => if b.ult a then b else a) h o s
def execMaxu (h : Hdr) (o : FmtRR) (s : State) : Out := aluRR (fun a b => if a.ult b then b else a) h o s

/-- `cmp`, `cmpi`: the predicate takes the test COND (R279). -/
def cmpCtx (cond : Nat) (d a : Operand) (b : Ctx → Word × Ctx) (c : Ctx) : Ctx :=
  let ra := c.readS a
  let rb := b ra.2
  rb.2.writePO d (condTest cond ra.1 rb.1)

def execCmp (h : Hdr) (o : FmtC) (s : State) : Out :=
  pure1 h s [o.a, o.b] [o.d] (cmpCtx o.cond.toNat o.d o.a (fun c => c.readS o.b))
def execCmpi (h : Hdr) (o : FmtCI) (s : State) : Out :=
  pure1 h s [o.a] [o.d] (cmpCtx o.cond.toNat o.d o.a (fun c => (o.imm.signExtend 64, c)))

/-- `sel`: A when the predicate PSEL is true, else B; both sources are read (R279). -/
def execSel (h : Hdr) (o : FmtRR) (s : State) : Out :=
  pure1 h s [o.a, o.b] [o.d] (fun c => aluCtx (fun a b => if c.getP o.psel.toNat then a else b) o.d o.a o.b c)

def execMovi (h : Hdr) (o : FmtI) (s : State) : Out :=
  pure1 h s [] [o.d] (fun c => c.writeS o.d (immS o.imm))
def execMovhi (h : Hdr) (o : FmtI) (s : State) : Out :=
  unI (fun a => (o.imm.setWidth 64 <<< 32) ||| (a &&& 0xFFFFFFFF)) h o s
def execMov (h : Hdr) (o : FmtRR) (s : State) : Out := unRR (fun a => a) h o s

/-- `bfx` (R280). -/
def bfxW (pos len : Nat) (a : Word) : Word := wd (a.toNat / 2 ^ pos % 2 ^ len)
/-- `bfi` (R280). -/
def bfiW (pos len : Nat) (a b : Word) : Word :=
  let m : Word := wd ((2 ^ len - 1) * 2 ^ pos)
  (a &&& ~~~m) ||| (wd (b.toNat % 2 ^ len * 2 ^ pos) &&& m)

def execBfx (h : Hdr) (o : FmtBF) (s : State) : Out :=
  pure1 h s [o.a] [o.d] (unCtx (bfxW o.pos.toNat o.len.toNat) o.d o.a)
def execBfi (h : Hdr) (o : FmtBF) (s : State) : Out :=
  pure1 h s [o.a, o.b] [o.d] (aluCtx (bfiW o.pos.toNat o.len.toNat) o.d o.a o.b)

def execPand (h : Hdr) (o : FmtRR) (s : State) : Out :=
  pure1 h s [] [] (fun c => c.writePO o.d (c.readP o.a && c.readP o.b))
def execPor (h : Hdr) (o : FmtRR) (s : State) : Out :=
  pure1 h s [] [] (fun c => c.writePO o.d (c.readP o.a || c.readP o.b))
def execPnot (h : Hdr) (o : FmtRR) (s : State) : Out :=
  pure1 h s [] [] (fun c => c.writePO o.d (!c.readP o.a))

end Sys2Proof.Machine
end

