-- ==== Sys2Proof/Machine/MemOps.lean ====
section
/-! DEFINITION. How an instruction takes its memory accesses: elements and their checks (R27, R294, R303), misses (R37), loads
with the context's own proposals laid over them (R151, R160), stores into the store buffer, the Brine of a region or the
merge buffer with its log (R151, R160-R162), capacity aborts (R151), atomics (R298), the reads an instruction makes for
itself (R437), copies (R118), and writes of the device's own units. -/

namespace Sys2Proof.Machine

open Sys2Proof

/-! ## Elements and their checks -/

/-- One element of an access: its effective address, its length, and where its bytes lie in the value. -/
structure Elem where
  ea : Word
  len : Nat
  off : Nat
  deriving DecidableEq, Repr

/-- What an instruction asks of memory. -/
structure Req where
  cap : Cap
  perms : List Nat
  kind : Nat
  al : Nat
  pol : Nat
  elems : List Elem
  words : Bool             -- single-copy atomic for each aligned 8 bytes, whatever the length (R437)
  deriving DecidableEq, Repr

/-- A checked element with its places at home. -/
structure Part where
  el : Elem
  segs : List Seg
  deriving DecidableEq, Repr

inductive Passed where
  | ok (parts : List Part) (used : List TlbEntry)
  | trap (kind sub : Nat) (val : Word)
  | miss (va : Word) (prot : Bool) (ea : Word)
  deriving DecidableEq, Repr

/-- The checks of R27 for each element in turn; the first that fails is reported. -/
def checkElems (s : State) (g : Nat) (dom : BitVec 12) (q : Req) : List Elem → List Part → List TlbEntry → Passed
  | [], ps, used => .ok ps.reverse used
  | e :: rest, ps, used =>
    match checkAccess s g dom q.cap q.perms q.kind e.ea e.len q.al with
    | .ok segs u => checkElems s g dom q rest (⟨e, segs⟩ :: ps) (u ++ used)
    | .trap k sub v => .trap k sub v
    | .miss va prot => .miss va prot e.ea

/-- Go on with a checked access, or fault, or wait for its translation. A miss on a service core is a trap at once (R44). A multicast or
reducing store reports the address of its destination (R303). -/
def withAccess (t : State) (q : Req) (k : State → List Part → List TlbEntry → Res) : Res :=
  let dom := t.me.cdom
  match checkElems t t.cur.gid dom q q.elems [] [] with
  | .trap kind sub v => .trap kind sub v
  | .miss va prot ea =>
    let tval := if q.kind = kMulti then ea else va
    if isSvc t.cur.gid then .trap 0x0A 1 tval
    else
      let t1 := t.miss t.cur none dom.toNat q.kind va prot
      .wait (t1.self (fun c => { c with missEA := if q.kind = kMulti then some ea else none }))
  | .ok parts used => k (t.touchAll t.cur.gid used) parts used

def Part.loadUnits (p : Part) (q : Req) : List AUnit :=
  Machine.loadUnits p.segs p.el.ea.toNat p.el.len q.kind q.pol p.el.off q.words

def Part.storeUnits (p : Part) (q : Req) : List SUnit :=
  Machine.storeUnits p.segs p.el.ea.toNat p.el.len q.kind q.pol p.el.off q.words

/-- The translations an access used, by page and domain (R45). -/
def viaOf (used : List TlbEntry) : List (Nat × Nat × Nat) := used.map (fun e => (e.vpn, e.size, e.dom))

/-! ## Brine lines -/

/-- Put bytes into a Brine line at an offset; the tags of the granules they overlap become `tag` (R151). Bytes that fill the line clear
its mark (R436). -/
def BrineLine.put (b : BrineLine) (off : Nat) (bs : List Byte) (tag : Bool) : BrineLine :=
  let n := bs.length
  let mask : BitVec 128 := BitVec.ofNat 128 ((2 ^ n - 1) * 2 ^ off)
  let wide : Line := BitVec.ofNat 1024 ((2 ^ (8 * n) - 1) * 2 ^ (8 * off))
  let val : Line := BitVec.ofNat 1024 (ofBytes bs * 2 ^ (8 * off))
  let gr : BitVec 8 := BitVec.ofNat 8
    ((List.range 8).foldl (fun acc i => if overlap (16 * i) 16 off n then acc + 2 ^ i else acc) 0)
  { b with
    mask := b.mask ||| mask
    data := (b.data &&& ~~~wide) ||| (val &&& wide)
    tags := if tag then b.tags ||| gr else b.tags &&& ~~~gr
    psn := b.psn && decide (n < 128) }

def BrineLine.new (line : Nat) : BrineLine := ⟨line, 0, 0, 0, false⟩

/-- Brine lines in use on a core (R145). -/
def Core.brineUsed (c : Core) : Nat :=
  c.ctxs.foldl (fun acc e => acc + (match e.2.region with | some r => r.lines.length | none => 0)) 0
    + (match c.mrg with | some m => m.lines.length | none => 0)

/-- The masked bytes of a Brine line, as runs to write: offset and bytes of each. -/
def runsFrom (b : BrineLine) : Nat → Nat → List (Nat × List Byte) → List (Nat × List Byte)
  | 0, _, acc => acc.reverse
  | fuel + 1, i, acc =>
    if b.mask.getLsbD i then
      match acc with
      | (o, bs) :: rest =>
        if o + bs.length = i ∧ i % 16 ≠ 0 then runsFrom b fuel (i + 1) ((o, bs ++ [lineByte b.data i]) :: rest)
        else runsFrom b fuel (i + 1) ((i, [lineByte b.data i]) :: acc)
      | [] => runsFrom b fuel (i + 1) [(i, [lineByte b.data i])]
    else runsFrom b fuel (i + 1) acc

/-- The masked bytes of a Brine line in runs that lie within one granule. -/
def BrineLine.runs (b : BrineLine) : List (Nat × List Byte) := runsFrom b 128 0 []

/-! ## Writes of the device's own units -/

/-- The position of a unit of the device that is no core, host port or peer. -/
def devUnit : Nat := 5000

/-- Cut bytes at line boundaries. -/
def splitLines : Nat → Nat → List Byte → List (Nat × List Byte)
  | 0, _, _ => []
  | fuel + 1, addr, bs =>
    if bs.isEmpty then []
    else
      let n := 128 - addr % 128
      (addr, bs.take n) :: splitLines fuel (addr + n) (bs.drop n)

/-- The parts of `n` bytes from an address that lie within one line each. -/
def lineParts : Nat → Nat → Nat → List (Nat × Nat)
  | 0, _, _ => []
  | fuel + 1, addr, n =>
    if n = 0 then []
    else
      let k := min n (128 - addr % 128)
      (addr, k) :: lineParts fuel (addr + k) (n - k)

/-- Where such a part lies: a physical address has 52 bits, and what lies above them is no memory (R10, R57, R112). -/
def State.partHome (s : State) (addr : Nat) : Option Nat := if scratchBase ≤ addr then none else some (fwdAddr s addr)

/-- The lines at home of a run of bytes at a physical address. -/
def State.devLines (s : State) (addr n : Nat) : List Nat :=
  ((lineParts (n / 128 + 2) addr n).filterMap (fun p => s.partHome p.1)).foldl (fun l h => natIns l (h / 128)) []

/-- The write-back slots of a line's slice that an access of several lines takes, one for each line whose owner holds it dirty (R101). -/
def State.slotsTaken (s : State) (lines : List Nat) (line : Nat) : Nat :=
  (lines.filter (fun l => decide (homeSlice s (l * 128) = homeSlice s (line * 128)) &&
    (match s.ownerOf l with | some g => (s.core g).l1.dirty.contains l | none => false))).length

/-- A unit of the device can reach lines at their homes now; a read needs room for its misses as well (R100, R101, R113, R430). -/
def State.devMay (s : State) (rd : Bool) (lines : List Nat) : Bool :=
  lines.all (fun l => s.lineFree (l * 128) (s.slotsTaken lines l) && (!rd || s.missRoom (l * 128)))

/-- A unit of the device gets the lines that it reaches: owners give them up as write-back slots come free (R101). -/
def State.devGet (s : State) (rd : Bool) (lines : List Nat) : Ask :=
  if s.devMay rd lines then .go s
  else
    let t := lines.foldl (fun u l => if u.recallOk l then u.recall l else u) s
    if t = s then .no else .wait t

/-- An instruction goes on once the device's units have got their lines for it; it waits until then. -/
def Ask.await (r : Ask) (t : State) (k : State → Res) : Res := match r with | .go u => k u | .wait u => .wait u | .no => .wait t

/-- A unit of the device writes bytes of one line at its home; a line that a core holds exclusively is recalled first. -/
def State.devLine (s : State) (own : Nat) (rel : Bool) (addr : Nat) (bs : List Byte) : State :=
  (s.recall (addr / 128)).writeHome ⟨addr, bs, false, own, true, rel, [], false, none, true, none⟩

/-- A unit of the device writes bytes at a home address, line by line. -/
def State.devWrite (s : State) (own : Nat) (rel : Bool) (addr : Nat) (bs : List Byte) : State :=
  (splitLines (bs.length / 128 + 2) addr bs).foldl (fun acc e => acc.devLine own rel (fwdAddr acc e.1) e.2) s

/-- The same at a physical address. -/
def State.physWrite (s : State) (own : Nat) (rel : Bool) (addr : Nat) (bs : List Byte) : State :=
  (splitLines (bs.length / 128 + 2) addr bs).foldl (fun acc e =>
    match acc.partHome e.1 with
    | none => acc.countHole e.1
    | some h => acc.devLine own rel h e.2) s

/-- What a unit of the device reads at a physical address, without its traces: bytes that are poisoned or lie in no memory read zero
(R112, R436; log entry 14). -/
def State.devPeek (s : State) (addr n : Nat) : List Byte :=
  (lineParts (n / 128 + 2) addr n).flatMap (fun p =>
    match s.partHome p.1 with
    | none => (List.range p.2).map (fun _ => (0 : Byte))
    | some h =>
      let r := readHomeBytes s none true h p.2
      if r.psn then r.bytes.map (fun _ => (0 : Byte)) else r.bytes)

/-- The traces of such a read: a recall from an owner, a miss, the check of the words read, a decode, and the count of poisoned lines
(R92, R100, R106, R112, R431). -/
def State.devTrace (s : State) (addr n : Nat) : State :=
  (lineParts (n / 128 + 2) addr n).foldl (fun u p =>
    match u.partHome p.1 with
    | none => u.countHole p.1
    | some h =>
      let t := (((u.recall (h / 128)).noteMiss h).noteRead none true h p.2).noteDecode h 4
      if (readHomeBytes t none true h p.2).psn && !reservedPA t none true h then t.count 7 0 1 else t) s

/-- A unit of the device reads bytes at a physical address: the state after it, and what it took. -/
def State.devRead (s : State) (addr n : Nat) : List Byte × State :=
  let t := s.devTrace addr n
  (t.devPeek addr n, t)

/-- Writes made since a write number that still have an invalidation in flight. -/
def State.newWids (s : State) (since : Nat) : List Nat :=
  (s.recs.filter (fun r => decide (since ≤ r.wid) && s.anyInFlight r.wid)).map (fun r => r.wid)

/-! ## The merge log (R161, R162) -/

/-- The log slot of a core's member: its launch, its offset in the log region, and its size in records. -/
def State.logSlotOf (s : State) (g : Nat) : Option (Launch × Nat × Nat) :=
  match (s.core g).task with
  | none => none
  | some t =>
    match t.logSlot, s.launch? t.lid with
    | some i, some l => some (l, i * (l.logrec * 160), l.logrec)
    | _, _ => none

/-- Physical address of an offset in a launch's log region. -/
def Launch.logAddr (l : Launch) (off : Nat) : Nat :=
  l.logPages.getD ((l.logOff + off) / 65536) 0 + (l.logOff + off) % 65536

/-- A run of bytes of a log region, page by page: physical addresses and lengths. -/
def Launch.logRuns (l : Launch) (off n : Nat) : List (Nat × Nat) :=
  let k := min n (65536 - (l.logOff + off) % 65536)
  (l.logAddr off, k) :: (if n ≤ k then [] else [(l.logAddr (off + k), n - k)])

/-- Write bytes into a log region. -/
def State.logWrite (s : State) (l : Launch) (off : Nat) (bs : List Byte) : State :=
  let n := 65536 - (l.logOff + off) % 65536
  let s1 := s.physWrite devUnit false (l.logAddr off) (bs.take n)
  if bs.length ≤ n then s1 else s1.physWrite devUnit false (l.logAddr (off + n)) (bs.drop n)

/-- Bytes of a log region: those in no memory read zero (R112). -/
def State.logRead (s : State) (l : Launch) (off n : Nat) : List Byte :=
  (l.logRuns off n).flatMap (fun r => (lineParts (r.2 / 128 + 2) r.1 r.2).flatMap (fun p =>
    match s.partHome p.1 with
    | none => (List.range p.2).map (fun _ => (0 : Byte))
    | some h => (readHomeBytes s none true h p.2).bytes))

/-- Whether a run of bytes of a log region is poisoned, or lies in no memory (R112, R436). -/
def State.logPoison (s : State) (l : Launch) (off n : Nat) : Bool :=
  (l.logRuns off n).any (fun r => (lineParts (r.2 / 128 + 2) r.1 r.2).any (fun p =>
    match s.partHome p.1 with
    | none => true
    | some h => (readHomeBytes s none true h p.2).psn))

/-- The lines of a run of a log region. -/
def State.logLines (s : State) (l : Launch) (off n : Nat) : List Nat := ((l.logRuns off n).flatMap (fun r => s.devLines r.1 r.2)).foldl natIns []

/-- The traces of a read of a log region. -/
def State.logTrace (s : State) (l : Launch) (off n : Nat) : State := (l.logRuns off n).foldl (fun u r => u.devTrace r.1 r.2) s

/-- The lines of a log record that holds poisoned data become poisoned (R225, R436). -/
def State.logMark (s : State) (l : Launch) (off : Nat) (psn : Bool) : State :=
  if psn then (s.logLines l off 160).foldl (fun u h => u.setPoison (h * 128) true) s else s

/-- Words 0 to 3 of a log record and its data (R161). -/
def logBytes (kind : Nat) (b : BrineLine) : List Byte :=
  let id := if isScratch (b.line * 128) then (b.line - scratchBase / 128) % (2048 * 512) else b.line
  toBytes 8 (kind * 2 ^ 60 + id * 2 ^ 7) ++ toBytes 16 b.mask.toNat ++ toBytes 8 (b.tags.toNat * 2 ^ 56) ++ lineBytes b.data

/-- A log record read back for a core of a cluster. -/
def logRecord (cl : Nat) (bs : List Byte) (psn : Bool) : BrineLine :=
  let w0 := wordAt bs 0
  let line := if bits w0 63 60 = 1 then bits w0 51 7 else scratchBase / 128 + cl * (2048 * 512) + bits w0 26 7
  ⟨line, BitVec.ofNat 128 (ofBytes ((bs.drop 8).take 16)), lineOf ((bs.drop 32).take 128),
    BitVec.ofNat 8 (bits (wordAt bs 3) 63 56), psn⟩

/-- The merge records of a member, in append order. -/
def State.mergeRecords (s : State) (g : Nat) : List BrineLine :=
  match s.logSlotOf g, (s.core g).mrg with
  | some (l, base, _), some m => (List.range m.up).map (fun i =>
      logRecord (gidCl g) (s.logRead l (base + 160 * i) 160) (s.logPoison l (base + 160 * i) 160))
  | _, _ => []

/-- The undo records of a member, the newest first (R162, R226). -/
def State.undoRecords (s : State) (g : Nat) : List BrineLine :=
  match s.logSlotOf g, (s.core g).mrg with
  | some (l, base, n), some m =>
    (List.range m.down).map (fun i =>
      let off := base + 160 * (n - m.down + i)
      logRecord (gidCl g) (s.logRead l off 160) (s.logPoison l off 160))
  | _, _ => []

/-- The log of a core's member: the run of its merge records, or of its undo records. -/
def State.logRun (s : State) (g : Nat) (undo : Bool) : Option (Launch × Nat × Nat) :=
  match s.logSlotOf g, (s.core g).mrg with
  | some (l, base, n), some m =>
    if undo then (if m.down = 0 then none else some (l, base + 160 * (n - m.down), 160 * m.down))
    else if m.up = 0 then none else some (l, base, 160 * m.up)
  | _, _ => none

/-- The records of members are got for reading, and the traces of reading those of one. -/
def State.recordsGet (s : State) (gs : List Nat) (undo : Bool) : Ask :=
  s.devGet true ((gs.flatMap (fun g => match s.logRun g undo with | none => [] | some r => s.logLines r.1 r.2.1 r.2.2)).foldl natIns [])
def State.recordsTrace (s : State) (g : Nat) (undo : Bool) : State := match s.logRun g undo with | none => s | some r => s.logTrace r.1 r.2.1 r.2.2

/-- The lines that the next `k` merge records of a member are written to; more than fit are none. -/
def State.spillLines (s : State) (g k : Nat) : List Nat :=
  match s.logSlotOf g, (s.core g).mrg with
  | some (l, base, n), some m => let j := min k (n - (m.up + m.down)); if j = 0 then [] else s.logLines l (base + 160 * m.up) (160 * j)
  | _, _ => []

/-- The merge record of one Brine line is appended; none when it does not fit (R161, R162). -/
def State.appendRecord (s : State) (g : Nat) (b : BrineLine) : Option State :=
  match s.logSlotOf g, (s.core g).mrg with
  | some (l, base, n), some m =>
    if n < m.up + 1 + m.down then none
    else
      let kind := if isScratch (b.line * 128) then 2 else 1
      some (((s.logWrite l (base + 160 * m.up) (logBytes kind b)).logMark l (base + 160 * m.up) b.psn).updCore g (fun c =>
        { c with mrg := c.mrg.map (fun m => { m with up := m.up + 1 }) }))
  | _, _ => none

/-- A merge store of bytes within one line (R160, R161): its Brine line takes them; the oldest line makes room. -/
def State.mergeStore (s : State) (g addr : Nat) (bs : List Byte) (tag : Bool) : Option State :=
  let line := addr / 128
  match (s.core g).mrg with
  | none => none
  | some m =>
    if m.lines.any (fun b => b.line == line) then
      let patch : BrineLine → BrineLine := fun b => if b.line = line then b.put (addr % 128) bs tag else b
      some (s.updCore g (fun c => { c with mrg := some { m with lines := m.lines.map patch } }))
    else
      let fresh := (BrineLine.new line).put (addr % 128) bs tag
      if (s.core g).brineUsed < 256 then
        some (s.updCore g (fun c => { c with mrg := some { m with lines := m.lines ++ [fresh] } }))
      else
        match m.lines with
        | [] => none
        | old :: rest =>
          (s.appendRecord g old).map (fun t => t.updCore g (fun c =>
            { c with mrg := c.mrg.map (fun m => { m with lines := rest ++ [fresh] }) }))

/-! ## What a context reads of its own proposals -/

/-- The proposals that cover bytes of a line for a context, the newest first (R151, R160). -/
def State.proposals (s : State) (a : Agent) (line : Nat) : List BrineLine :=
  match (s.ctx a).region with
  | some r => r.lines.filter (fun b => b.line == line)
  | none =>
    match (s.core a.gid).mrg with
    | none => []
    | some m => m.lines.filter (fun b => b.line == line) ++ ((s.mergeRecords a.gid).filter (fun b => b.line == line)).reverse

/-- The proposed byte at an offset of a line, and whether its proposal is poisoned (R436). -/
def proposedByte (ps : List BrineLine) (i : Nat) : Option (Byte × Bool) :=
  (ps.find? (fun b => b.mask.getLsbD i)).map (fun b => (lineByte b.data i, b.psn))

/-- The bytes of a unit that the context's own proposals give, by their place in the value, and whether one of them is poisoned. -/
def State.unitOverlay (s : State) (a : Agent) (u : AUnit) : List (Nat × Byte) × Bool :=
  let ps := s.proposals a (u.addr / 128)
  if ps.isEmpty then ([], false)
  else
    let l := (List.range u.len).filterMap (fun k => (proposedByte ps (u.addr % 128 + k)).map (fun b => (u.off + k, b)))
    (l.map (fun e => (e.1, e.2.1)), l.any (fun e => e.2.2))

/-- The tag an `ldc` takes from proposals: none when no byte of the granule is proposed (R151). -/
def State.tagOverlay (s : State) (a : Agent) (u : AUnit) : Option Bool :=
  let ps := s.proposals a (u.addr / 128)
  let o := u.addr % 128
  let m : BitVec 128 := BitVec.ofNat 128 ((2 ^ 16 - 1) * 2 ^ o)
  match ps.find? (fun b => b.mask &&& m != 0) with
  | none => none
  | some b => some (b.mask &&& m == m && b.tags.getLsbD (o / 16))

/-! ## Capacity aborts (R151) -/

/-- A region aborts for capacity: its fail block is fetched next. -/
def State.capacityAbort (s : State) (a : Agent) : State :=
  let c := s.ctx a
  match c.region with
  | none => s
  | some r =>
    let s1 := s.updCtx a (fun c => { (c.goBlock r.fail 0) with
      region := none
      pres := presWord c.prgn.ticket 0 4
      prgn := { c.prgn with opn := false, tv := false } })
    (s1.updCore a.gid (fun k => { k with pcntCap := k.pcntCap + 1 })).resolve (gidCl a.gid) c.prgn.strm.toNat c.prgn.ticket []

/-! ## Loads -/

/-- What an issue comes to: the access has issued, or the region has aborted for capacity. -/
inductive Issued where
  | ok (s : State)
  | aborted (s : State)

/-- The place of a load in its destination queue (R295). -/
def Ctx.reserve (c : Ctx) (d : Dest) (id : Nat) : Ctx :=
  match d with
  | .lq q => c.putLq q (c.getLq q ++ [.pending id])
  | .sq q => c.putSq q (c.getSq q ++ [.pending id])
  | _ => c

/-- The units of a load that its home or a copy is still to give, and those that took a poisoned proposal (R436). -/
def loadRest (ovls : List (AUnit × List (Nat × Byte) × Bool)) : List AUnit :=
  ovls.flatMap (fun e =>
    (if e.2.1.length < e.1.len then [e.1] else []) ++ (if e.2.2 then [{ e.1 with got := some [], psn := true }] else []))

/-- The lines that a load adds to the read set of a region: those of which it takes a byte that the region has not proposed (R151), for a
gather those of all its elements (R297). -/
def readLines (gather : Bool) (ovls : List (AUnit × List (Nat × Byte) × Bool)) (reads : List Nat) : List Nat :=
  (ovls.filter (fun e => gather || decide (e.2.1.length < e.1.len))).foldl (fun acc e => natIns acc (e.1.addr / 128)) reads

/-- A load issues: it becomes pending with the bytes its own proposals give; its lines join the read set (R123, R151). -/
def State.issueLoad (t : State) (a : Agent) (q : Req) (parts : List Part) (used : List TlbEntry) (ord : Order) (size : Nat)
    (dest : Dest) : Issued :=
  let c := t.ctx a
  let units := parts.flatMap (fun p => p.loadUnits q)
  let ovls := units.map (fun u => (u, t.unitOverlay a u))
  let ovl := ovls.flatMap (fun e => e.2.1)
  let rest := loadRest ovls
  let tagOver := match dest, units with
    | .pair _ _, u :: _ => t.tagOverlay a u
    | _, _ => none
  let reads : List Nat := match c.region with
    | none => []
    | some r => readLines (decide (1 < parts.length)) ovls r.reads
  if 64 < reads.length then .aborted (t.capacityAbort a)
  else
    let id := t.nextId
    let e : Access := ⟨id, c.seq, .load, ord, size, rest, [], [], dest, ovl, tagOver, viaOf used⟩
    let t1 := t.updCtx a (fun c => { (c.reserve dest id) with
      pend := c.pend ++ [e]
      seq := c.seq + 1
      region := c.region.map (fun r => { r with reads := reads }) })
    let t2 := { t1 with nextId := id + 1 }
    .ok (if rest.all (fun u => u.got.isSome) then finishAccess t2 a e else t2)

/-- A load in merge mode reads the records of its member beside its Brine lines (R160): it waits while they cannot be reached, and leaves
the traces of that read. -/
def mergeLoad (t : State) (a : Agent) (k : State → Res) : Res :=
  if (t.ctx a).region.isSome then k t
  else (t.recordsGet [a.gid] false).await t (fun u => k (u.recordsTrace a.gid false))

/-! ## Stores -/

/-- The proposals of a store inside a region (R151): none when the write set or the Brine is exceeded. -/
def proposeUnits (room : Nat) (data : List Byte) (tag : Bool) : List SUnit → List BrineLine → Option (List BrineLine)
  | [], ls => some ls
  | u :: rest, ls =>
    let line := u.addr / 128
    let bs := (data.drop u.off).take u.len
    if ls.any (fun b => b.line == line) then
      proposeUnits room data tag rest (ls.map (fun b => if b.line = line then b.put (u.addr % 128) bs tag else b))
    else if 64 ≤ ls.length ∨ room = 0 then none
    else proposeUnits (room - 1) data tag rest (ls ++ [(BrineLine.new line).put (u.addr % 128) bs tag])

/-- The translations of a merge store stand beside its bytes until the merge performs them (R45). -/
def State.mergeVia (s : State) (g : Nat) (used : List TlbEntry) : State :=
  let vs := used.map (fun e => (s.now, g, e.vpn, e.size, e.dom))
  s.updCore g (fun c => { c with mrg := c.mrg.map (fun m =>
    { m with via := m.via ++ vs.filter (fun v => !m.via.any (fun w => decide (w.2 = v.2))) }) })

/-- Merge stores of a list of units (R160). -/
def State.mergeUnits (s : State) (g : Nat) (data : List Byte) (tag : Bool) : List SUnit → Option State
  | [] => some s
  | u :: rest =>
    match s.mergeStore g u.addr ((data.drop u.off).take u.len) tag with
    | none => none
    | some t => t.mergeUnits g data tag rest

/-- Whether a store covers one 128-byte line whole (R436). -/
def wholeLine (p : Part) : Bool :=
  decide (p.el.len = 128) && (match p.segs with | [g] => decide (g.addr % 128 = 0) | _ => false)

/-- How the elements of a store stand to each other: in element order, or in any order (`st.mc`, R131). -/
def sbEntries (seq : Nat) (q : Req) (ord : Order) (data : List Byte) (tag multi : Bool) (via : List (Nat × Nat × Nat)) :
    List Part → List SbEntry
  | [] => []
  | p :: rest =>
    ⟨seq, ord, p.storeUnits q, data, tag, wholeLine p, multi, via⟩
      :: sbEntries (if multi then seq else seq + 1) q ord data tag multi via rest

/-- A store whose checks have passed: into the store buffer, the Brine, or the merge buffer. DESIGN CHOICE (log entry 43): the spec does
not say what becomes of a region that is open on a helper as its task enters merge mode (R160); the model lets the region go on, its
stores and loads with the region's lines, until it is over. -/
def State.issueStore (t : State) (a : Agent) (q : Req) (parts : List Part) (used : List TlbEntry) (ord : Order)
    (data : List Byte) (tag multi : Bool) : Res :=
  let c := t.ctx a
  let units := parts.flatMap (fun p => p.storeUnits q)
  match c.region with
  | some r =>
    match proposeUnits (256 - (t.core a.gid).brineUsed) data tag units r.lines with
    | none => .keep (t.capacityAbort a)
    | some ls =>
      let toks := (used.map (fun e => (e.vpn, e.size))).filter (fun k => !r.tokens.contains k)
      .done (t.updCtx a (fun c => { c with region := some { r with lines := ls, tokens := r.tokens ++ toks } }))
  | none =>
    if (t.core a.gid).mrg.isSome then
      (t.devGet false (t.spillLines a.gid (units.length + (t.core a.gid).brineUsed - 256))).await t (fun t1 =>
        match t1.mergeUnits a.gid data tag units with
        | none => .trap 7 2 (match parts with | p :: _ => p.el.ea | [] => 0)
        | some s => .done (s.mergeVia a.gid used))
    else
      .done (t.updCtx a (fun c => { c with
        sb := c.sb ++ sbEntries c.seq q ord data tag multi (viaOf used) parts
        seq := c.seq + parts.length + 1 }))

/-! ## Atomics -/

/-- An atomic or reducing store issues: one pending access for each element (R298, R301). -/
def State.issueAmo (t : State) (a : Agent) (q : Req) (used : List TlbEntry) (op : AccOp) (ord : Order) (cmp : List Byte)
    (dest : Dest) : List (Part × List Byte) → State
  | [] => t.updCtx a (fun c => { c with seq := c.seq + 1 })
  | (p, opnd) :: rest =>
    let c := t.ctx a
    let id := t.nextId
    let us := (p.loadUnits q).map (fun u => { u with off := u.off - p.el.off })
    let e : Access := ⟨id, c.seq, op, ord, p.el.len, us, opnd, cmp, dest, [], none, viaOf used⟩
    ({ (t.updCtx a (fun c => { c with pend := c.pend ++ [e] })) with nextId := id + 1 }).issueAmo a q used op ord cmp dest rest

/-! ## Reads an instruction makes for itself (R437) -/

/-- Begin to read `n` bytes at `ea` through a capability; the context waits for them. -/
def readStart (t : State) (cap : Cap) (perms : List Nat) (ea : Word) (n al : Nat) : Res :=
  let q : Req := ⟨cap, perms, kLoad, al, 0, [⟨ea, n, 0⟩], true⟩
  withAccess t q (fun t1 parts used =>
    mergeLoad t1 t1.cur (fun t2 =>
      match (t2.self (fun c => { c with busy := some .reading })).issueLoad t2.cur q parts used Order.plain n .buffer with
      | .ok s => .wait s
      | .aborted s => .keep s))

/-- Read `n` bytes at `ea` through a capability, then go on with them; the context waits meanwhile. -/
def withRead (t : State) (cap : Cap) (perms : List Nat) (ea : Word) (n al : Nat) (k : State → List Byte → Res) : Res :=
  match t.me.busy with
  | some (.read bs _) => k t bs
  | _ => if n = 0 then k t [] else readStart t cap perms ea n al

/-! ## Forming an address (R26) -/

/-- The size in bytes of a size code (R247). -/
def sizeBytes (c : BitVec 3) : Nat := if c = 5 then 128 else 2 ^ c.toNat

/-- The order field of a memory instruction with the scope B names (R26, R119). -/
def memOrder (c : Ctx) (o : FmtM) : Order :=
  if o.order = 0 then Order.plain
  else ⟨o.order.getLsbD 0, o.order.getLsbD 1, (c.getX (opNum o.b)).val, decide (opNum o.b = 0)⟩

/-- The effective address of a memory instruction (R26). -/
def memEA (c : Ctx) (o : FmtM) (n : Nat) : Word :=
  (c.readPair o.a).addr + o.offset.signExtend 64 + (if o.order = 0 then (c.getX (opNum o.b)).val * wd n else 0)

end Sys2Proof.Machine
end

