-- ==== Sys2Proof/Machine/Commands.lean ====
section
/-! DEFINITION. What an accepted engine command names (R349): its register group, the shapes of its sources and destinations (R353,
R357, R360, R362), the elements it has still to read and write, and the slots and banks it resolved at acceptance (R75). An element is
one row, run, block or row of planes (log entry 7). -/

namespace Sys2Proof.Machine

open Sys2Proof

/-! ## The register group -/

def Cmd.reg (c : Cmd) (i : Nat) : Word := (c.regs.getD i Reg.zero).val

/-- The capability in the pair of group registers `i`, `i + 1`. -/
def Cmd.cap (c : Cmd) (i : Nat) : Cap :=
  ⟨c.reg i, c.reg (i + 1), (c.regs.getD i Reg.zero).tag && (c.regs.getD (i + 1) Reg.zero).tag⟩

/-- Whether a command belongs to the matrix engine. -/
def CmdKind.isMatrix (k : CmdKind) : Bool :=
  match k with
  | .cpy => false | .cps => false | .cpsw => false | .cpm => false | .cpmFin => false
  | _ => true

/-! ## Counts and formats -/

def Cmd.n0 (c : Cmd) : Nat := bits (c.reg 4) 63 40
def Cmd.n1 (c : Cmd) : Nat := if c.o.dim.toNat = 0 then 1 else bits (c.reg 4) 39 20
def Cmd.n2 (c : Cmd) : Nat := if c.o.dim.toNat < 2 then 1 else bits (c.reg 4) 19 0
def Cmd.total (c : Cmd) : Nat := c.n0 * c.n1 * c.n2
def Cmd.rows (c : Cmd) : Nat := if c.total = 0 then 0 else c.n1 * c.n2

/-- The bytes of a tile: its elements, and a scale byte for each MXFP4 block (R176). -/
def tileBytes (f n : Nat) : Nat := n * fmtBits f / 8 + (if f = 0xD then n / 32 else 0)

/-- A contiguous tile that R354 refuses. -/
def badTile (f n : Nat) : Bool :=
  decide (n * fmtBits f % 8 ≠ 0) || decide (tileBytes f n % 16 ≠ 0) || (f == 0xD && decide (n % 32 ≠ 0))

/-- The depth of a matrix pass (R179). -/
def passDepth (f : Nat) : Nat := 1024 / fmtBits f

/-- Namespace blocks of a storage command, and the blocks of one of its elements. -/
def Cmd.blocks (c : Cmd) : Nat := bits (c.reg 6) 23 0
def Cmd.perElem (c : Cmd) : Nat := if c.o.chk then 16 else 1

/-- The byte width of one word of a drained row (R362). -/
def drainWidth (f : Nat) : Nat := if f = 3 ∨ f = 8 then 4 else 2

/-! ## Elements: how many a command reads and writes, and where -/

/-- One element of memory: which capability of the group, its address and its length. -/
structure EngElem where
  cap : Nat
  ea : Word
  len : Nat
  deriving DecidableEq, Repr

/-- A row of a strided side of `cpy` (R353). -/
def Cmd.strided (c : Cmd) (cap sreg width i : Nat) : EngElem :=
  let i1 := i % c.n1
  let i2 := i / c.n1
  let s1 := sext 32 (bits (c.reg sreg) 63 32)
  let s2 := sext 32 (bits (c.reg sreg) 31 0)
  ⟨cap, c.reg cap + wdI ((i1 : Int) * s1) + wdI ((i2 : Int) * s2), c.n0 * width⟩

/-- A row of a matrix operand (R359). -/
def Cmd.matRow (c : Cmd) (len i : Nat) : EngElem := ⟨0, c.reg 0 + wd i * c.reg 2, len⟩

/-- The scales of an E2M1 matrix operand: 512 bytes in one run (R360). -/
def Cmd.matScales (c : Cmd) : EngElem := ⟨0, c.reg 0 + c.reg 3, 512⟩

/-- Elements a command reads from memory or storage. -/
def Cmd.srcCount (c : Cmd) : Nat :=
  let f := c.o.fmt.toNat
  match c.kind with
  | .cpy => if c.total = 0 then 0 else if c.o.dec ∨ c.o.chk then 1 else c.rows
  | .cps => c.blocks / c.perElem
  | .cpsw => c.blocks / c.perElem
  | .mlds => passDepth f + (if f = 0xD then 1 else 0)
  | .mstream => 64 + (if f = 0xD then 1 else 0)
  | .mrest => 1
  | _ => 0

/-- The memory that source element `i` reads; for `cps` under CHK it is the digest. -/
def Cmd.srcElem (c : Cmd) (i : Nat) : Option EngElem :=
  let f := c.o.fmt.toNat
  let f2 := c.o.fmt2.toNat
  match c.kind with
  | .cpy =>
    if c.o.dec ∨ c.o.chk then some ⟨0, c.reg 0, tileBytes f2 c.total + (if c.o.chk then 16 else 0)⟩
    else some (c.strided 0 5 (fmtBits f2 / 8) i)
  | .cps => if c.o.chk then some ⟨2, c.reg 2 + wd (32 * i), 32⟩ else none
  | .cpsw => some ⟨0, c.reg 0 + wd (4096 * c.perElem * i), 4096 * c.perElem⟩
  | .mlds => if i < passDepth f then some (c.matRow (8192 / passDepth f) i) else some c.matScales
  | .mstream => if i < 64 then some (c.matRow 128 i) else some c.matScales
  | .mrest => some ⟨0, c.reg 0, if c.o.dim = 0 then 16384 else 17472⟩
  | _ => none

/-- Elements a command writes. -/
def Cmd.dstCount (c : Cmd) : Nat :=
  match c.kind with
  | .cpy =>
    if c.total = 0 then 0
    else if c.o.fmt = 0xF then c.total / 1024
    else if c.o.enc ∨ (c.o.chk ∧ !c.o.dec) then 2
    else c.rows
  | .cps => c.blocks / c.perElem
  | .cpsw => c.blocks / c.perElem
  | .mdrain => 64
  | .msave => 1
  | _ => 0

/-- The memory that destination element `i` covers; for `cpsw` under CHK it is the digest. -/
def Cmd.dstElem (c : Cmd) (i : Nat) : Option EngElem :=
  let f := c.o.fmt.toNat
  match c.kind with
  | .cpy =>
    if f = 0xF then some ⟨2, c.reg 2 + wd (1024 * i), 1024⟩
    else if c.o.enc ∨ (c.o.chk ∧ !c.o.dec) then
      let n := tileBytes f c.total
      if i = 0 then some ⟨2, c.reg 2, n⟩ else some ⟨2, c.reg 2 + wd n, 16⟩
    else some (c.strided 2 6 (fmtBits f / 8) i)
  | .cps => some ⟨0, c.reg 0 + wd (4096 * c.perElem * i), 4096 * c.perElem⟩
  | .cpsw => if c.o.chk then some ⟨2, c.reg 2 + wd (32 * i), 32⟩ else none
  | .mdrain => some (c.matRow (64 * drainWidth f) i)
  | .msave => some ⟨0, c.reg 0, if c.o.dim = 0 then 16384 else 17472⟩
  | _ => none

/-- The permissions of a source element (R355, R357, R359). -/
def Cmd.srcPerms (c : Cmd) : List Nat :=
  [permLoad, permEngine] ++ (if c.kind = .cpsw then [permStorage] else [])

/-- The permissions of a destination element. -/
def Cmd.dstPerms (c : Cmd) : List Nat :=
  [permStore, permEngine] ++ (if c.kind = .cps then [permStorage] else [])

/-! ## Slots named at acceptance (R75) -/

/-- The least and the greatest address of a run that moves by strides. -/
def hull (base : Nat) (s1 s2 : Int) (n1 n2 len : Nat) : Int × Int :=
  let d1 := s1 * ((n1 : Int) - 1)
  let d2 := s2 * ((n2 : Int) - 1)
  ((base : Int) + min 0 d1 + min 0 d2, (base : Int) + max 0 d1 + max 0 d2 + len)

def stridesOf (w : Word) : Int × Int := (sext 32 (bits w 63 32), sext 32 (bits w 31 0))

/-- The address ranges a command names. -/
def Cmd.hulls (c : Cmd) : List (Int × Int) :=
  let base (i : Nat) : Nat := (c.reg i).toNat
  let f := c.o.fmt.toNat
  let f2 := c.o.fmt2.toNat
  let row (len n : Nat) : Int × Int := hull (base 0) (c.reg 2).toInt 0 n 1 len
  let scales : List (Int × Int) := if f = 0xD then [hull (c.reg 0 + c.reg 3).toNat 0 0 1 1 512] else []
  match c.kind with
  | .cpy =>
    let s := if c.o.dec ∨ c.o.chk then hull (base 0) 0 0 1 1 (tileBytes f2 c.total + 16)
      else hull (base 0) (stridesOf (c.reg 5)).1 (stridesOf (c.reg 5)).2 c.n1 c.n2 (c.n0 * fmtBits f2 / 8)
    let d := if c.o.enc ∨ (c.o.chk ∧ !c.o.dec) then hull (base 2) 0 0 1 1 (tileBytes f c.total + 16)
      else hull (base 2) (stridesOf (c.reg 6)).1 (stridesOf (c.reg 6)).2 c.n1 c.n2 (c.n0 * fmtBits f / 8)
    [s, d]
  | .cps => [hull (base 0) 0 0 1 1 (4096 * c.blocks), hull (base 2) 0 0 1 1 (if c.o.chk then 2 * c.blocks else 0)]
  | .cpsw => [hull (base 0) 0 0 1 1 (4096 * c.blocks), hull (base 2) 0 0 1 1 (if c.o.chk then 2 * c.blocks else 0)]
  | .mlds => row (8192 / passDepth f) (passDepth f) :: scales
  | .mstream => row 128 64 :: scales
  | .mdrain => [row (64 * drainWidth f) 64]
  | .msave => [hull (base 0) 0 0 1 1 17472]
  | .mrest => [hull (base 0) 0 0 1 1 17472]
  | _ => []

/-- Whether a range of unwrapped addresses meets the 64 KiB from `lo`, addresses being taken modulo 2^64 (R353, R359). -/
def hullHits (h : Int × Int) (lo : Nat) : Bool := decide ((lo : Int) - h.2 < ((lo : Int) + 65535 - h.1) / 2 ^ 64 * 2 ^ 64)

/-- The slots that address ranges name for a core and a domain: keys 8 x gid + slot, with their banks (R12, R75). -/
def State.slotsNamed (s : State) (g : Nat) (dom : BitVec 12) (hs : List (Int × Int)) : List (Nat × Nat) :=
  let hit (lo : Nat) : Bool := hs.any (fun h => hullHits h lo)
  (s.cores.filter (fun e => decide (gidCl e.1 = gidCl g) && !isSvc e.1)).flatMap (fun e =>
    (e.2.slots.filter (fun t => t.2.valid &&
      ((decide (e.1 = g) && hit (localLo + t.1 * 65536))
        || (decide (e.2.slotDom = dom) && hit (scratchLo + gidIdx e.1 * 0x80000 + t.1 * 65536))))).map
          (fun t => (8 * e.1 + t.1, t.2.bank)))

/-- The key of the slot that a scratch address names. -/
def slotKey (g : Nat) (va : Word) : Option Nat :=
  let a := va.toNat
  if localLo ≤ a then some (8 * g + (a - localLo) / 65536)
  else if scratchLo ≤ a ∧ a < clusterHi then
    some (8 * gidOf (gidCl g) ((a - scratchLo) / 0x80000) + (a - scratchLo) % 0x80000 / 65536)
  else none

/-! ## What a command has still to do -/

/-- Values in whole tile bytes: the element codes that a narrow encode writes of the values before a failing row (log entry 7). -/
def encodedPrefix (f v : Nat) : Nat := if f = 0xD then v / 32 * 16 else v * fmtBits f / 8

/-- The destination elements that the source rows before `r` give (R350). -/
def Cmd.givenBy (c : Cmd) (r : Nat) : Nat :=
  if c.o.enc then
    (if c.o.fmt = 0xF then r * c.n0 / 1024 else if encodedPrefix c.o.fmt.toNat (r * c.n0) = 0 then 0 else 1)
  else min r c.dstCount

/-- How many destination elements a command performs: all, or after a stop those that come before it. -/
def Cmd.dstLimit (c : Cmd) : Nat := if c.stopped.isSome then c.upTo else c.dstCount

/-- Destination element `i` as the command performs it: the tile of a narrow encode that stopped is cut short. -/
def Cmd.dstNow (c : Cmd) (i : Nat) : Option EngElem :=
  match c.stopped, c.row with
  | some _, [r] =>
    if c.o.enc ∧ c.o.fmt ≠ 0xF then (c.dstElem i).map (fun e => { e with len := encodedPrefix c.o.fmt.toNat (r * c.n0) }) else c.dstElem i
  | _, _ => c.dstElem i

/-- The elements of memory that a command has still to read or write. -/
def Cmd.remaining (c : Cmd) : List EngElem :=
  (if c.stopped.isSome then [] else (List.range (c.srcCount - c.readPos)).filterMap (fun i => c.srcElem (c.readPos + i)))
    ++ (List.range (c.dstLimit - c.writePos)).filterMap (fun i => c.dstNow (c.writePos + i))

/-- Whether a command of a core is in flight through a bank of its cluster (R75): it resolved a slot that holds the bank, and has still
an access there to perform. -/
def Cmd.throughBank (c : Cmd) (g n : Nat) : Bool :=
  c.slotsUp.any (fun p => decide (p.2 = n)) &&
    c.remaining.any (fun e => decide (e.len ≠ 0) && (match slotKey g e.ea with
      | some k => c.slotsUp.any (fun p => decide (p.1 = k) && decide (p.2 = n))
      | none => false))

end Sys2Proof.Machine
end

