-- ==== Sys2Proof/Machine/Fetch.lean ====
section
/-! DEFINITION. Fetching a block through a program capability (R28, R99, R234), and the checks of a block as it is entered:
malformed trailers, signatures, classes and resume slots (R229-R235). -/

namespace Sys2Proof.Machine

open Sys2Proof

/-- What a fetch comes to: the block and whether it took poisoned data, a fault, a miss, or a wait. -/
inductive Fetched where
  | ok (blk : BitVec 512) (psn : Bool) (s : State)
  | trap (kind sub : Nat) (val : Word)
  | miss (va : Word) (prot : Bool)
  | wait (s : State)

/-- A block from its 64 bytes. -/
def blockOf (bs : List Byte) : BitVec 512 := BitVec.ofNat 512 (ofBytes bs)

/-- The checks of a fetch of the block at a program capability's address (R28): its physical address, its page's ATTR and the TLB
entries used. `out` says that the address has left the capability's representable region: its bounds then do not cover the block
(log entry 17). -/
inductive FetchAt where
  | ok (pa attr : Nat) (used : List TlbEntry)
  | trap (kind sub : Nat) (val : Word)
  | miss (va : Word) (prot : Bool)
  | wait
  deriving DecidableEq, Repr

def fetchAt (s : State) (a : Agent) (p : Cap) (out : Bool) : FetchAt :=
  let va := p.addr
  match checkAccess s a.gid (s.ctx a).cdom p [permExec] kFetch va 64 1 with
  | .trap k sub v => if out && decide (k = 1) && decide (sub = 5) then .trap 1 4 v else .trap k sub v
  | .miss w prot => if out then .trap 1 4 va else .miss w prot
  | .ok segs used =>
    if out then .trap 1 4 va
    else
      match segs with
      | t :: _ =>
        let pa := fwdAddr s t.addr
        if notReadyPA s (s.partOf a.gid) (isSvc a.gid) pa then .wait else .ok pa t.attr used
      | [] => .wait

/-- A copy that a fetch may be served from (R92, R99): under default policy, in the core's instruction cache. -/
def Core.fetchCopy (c : Core) (addr attr : Nat) : Option CopyLine :=
  if attr = 0 ∧ !isScratch addr ∧ c.l1.il.contains (addr / 128) then c.copy (addr / 128) else none

/-- The home of a block is asked for its line, once for a block (R99, R397); under default policy the core gains a copy in its
instruction cache, under slice and bypass it keeps none (R98). -/
def State.fetchAsk (s : State) (a : Agent) (pa attr : Nat) : Ask :=
  let line := pa / 128
  let pol := effPolicy attr 0
  if isScratch pa ∨ reservedPA s (s.partOf a.gid) (isSvc a.gid) pa ∨ (s.ctx a).fpart.any (fun f => f.home) then .go s
  else if !s.recallOk line then .no
  else
    match s.ask (.fetch a) pa pol false false with
    | .go t =>
      let t1 := ((t.recall line).ownCopyOut a.gid line pol).noteDecode pa 4
      .go (if attr = 0 then (t1.l1Instr line a.gid).gainCopy line a.gid else t1)
    | r => r

/-- One 8-byte unit of a block, from a copy or from the home. -/
def unitOfCopy (k : CopyLine) (pa u : Nat) : FUnit :=
  ⟨u, (List.range 8).map (fun i => lineByte k.data (pa % 128 + 8 * u + i)), k.psn, false⟩

def State.unitOfHome (s : State) (a : Agent) (pa u : Nat) : FUnit :=
  let r := readHomeBytes s (s.partOf a.gid) (isSvc a.gid) (pa + 8 * u) 8
  ⟨u, r.bytes, r.psn, true⟩

/-- Units join those fetched so far. -/
def State.addUnits (s : State) (a : Agent) (l : List FUnit) : State := s.updCtx a (fun c => { c with fpart := c.fpart ++ l })

/-- The block that eight units make; zeros when one is poisoned. -/
def blockFrom (l : List FUnit) : BitVec 512 × Bool :=
  if l.any (fun f => f.psn) then (0, true)
  else (blockOf ((List.range 8).flatMap (fun u => match l.find? (fun f => decide (f.n = u)) with | some f => f.bytes | none => [])), false)

/-- Units of the next block still to be fetched. -/
def Ctx.unitsDue (c : Ctx) : List Nat := (List.range 8).filter (fun u => !c.fpart.any (fun f => decide (f.n = u)))

/-- A fetch of the block at a program capability's address by a context: the units it has not taken yet, from the copy of its
core's instruction cache, else from the home (R28, R99, R234). Poisoned data that it takes is counted (R225, R431). -/
def fetchBlock (s : State) (a : Agent) (p : Cap) (out : Bool) : Fetched :=
  match fetchAt s a p out with
  | .trap k sub v => .trap k sub v
  | .miss w prot => .miss w prot
  | .wait => .wait s
  | .ok pa attr used =>
    let c := s.ctx a
    match (s.core a.gid).fetchCopy pa attr with
    | some k =>
      let r := blockFrom (c.fpart ++ c.unitsDue.map (unitOfCopy k pa))
      let t := (s.touchAll a.gid used).l1Instr (pa / 128) a.gid
      .ok r.1 r.2 (if r.2 then t.count 7 0 1 else t)
    | none =>
      match s.fetchAsk a pa attr with
      | .no => .wait s
      | .wait t => .wait t
      | .go t =>
        let t1 := (t.touchAll a.gid used).noteRead (t.partOf a.gid) (isSvc a.gid) pa 64
        let r := blockFrom (c.fpart ++ c.unitsDue.map (t1.unitOfHome a pa))
        .ok r.1 r.2 (if r.2 && !reservedPA s (s.partOf a.gid) (isSvc a.gid) pa then t1.count 7 0 1 else t1)

/-- One unit of the next block is fetched by itself: from the core's copy, or from the home (R234). -/
def State.fetchUnit (s : State) (a : Agent) (u : Nat) (home : Bool) : Option State :=
  let c := s.ctx a
  if !c.live || c.blk.isSome || !c.unitsDue.contains u || (s.core a.gid).misses a.ctx then none
  else
    match fetchAt s a c.pcc c.pcOut with
    | .ok pa attr used =>
      if reservedPA s (s.partOf a.gid) (isSvc a.gid) pa then none
      else if !home then
        ((s.core a.gid).fetchCopy pa attr).map (fun k =>
          (((s.touchAll a.gid used).l1Instr (pa / 128) a.gid).addUnits a [unitOfCopy k pa u]))
      else
        match s.fetchAsk a pa attr with
        | .no => none
        | .wait t => some t
        | .go t =>
          let t1 := (t.touchAll a.gid used).noteRead (t.partOf a.gid) (isSvc a.gid) pa 64
          some (t1.addUnits a [t1.unitOfHome a pa u])
    | _ => none

/-- In a merged stage bad code or poisoned data rolls the superstep back, until it has failed for the third time (R226, R227). -/
def State.rollsBack (s : State) (g : Nat) : Bool :=
  (s.core g).mrg.isSome && decide ((match (s.core g).task with | some t => t.reps | none => 0) < 3)

/-- Whether a trailer is malformed (R231). -/
def blkMalformed (b : BitVec 512) : Bool :=
  decide (blkNv b = 0) || decide (5 < blkNv b) || decide ((trailerOf b).toNat % 32 ≠ 0) || decide (3 < blkClass b)

/-- SIG recomputed over the valid slots (R230). -/
def blkCrc (b : BitVec 512) : Nat :=
  (List.range (blkNv b)).foldl (fun c i => crc16 35 c ((slotWord b i).extractLsb' 61 35).toNat) 0xFFFF

/-- Whether an agent may execute a block of a class (R232). -/
def classFor (ctx cls : Nat) : Bool :=
  if ctx = 11 then decide (cls = 1) else if ctx = 12 then decide (cls = 2) else decide (cls = 0) || decide (cls = 3)

/-- TVAL of an illegal instruction in a slot (R207): its bits [95:32]. DESIGN CHOICE (log entry 24): a resume point may name a slot of 5 to 7, of which a
block has none; its TVAL is then what stands at that place counted on from slot 4, the trailer and zeros beyond the block. -/
def slotTval (b : BitVec 512) (slot : Nat) : Word := (slotWord b slot).extractLsb' 32 64

/-- The fault with which a block is refused as it is entered at a slot, in the order of R209: malformed, signature, class,
resume slot. -/
def entryFault (ctx slot : Nat) (b : BitVec 512) : Option (Nat × Nat × Word) :=
  if blkMalformed b then some (5, 0, slotTval b slot)
  else if blkCrc b ≠ blkSig b then some (6, 0, wd (blkCrc b * 2 ^ 16 + blkSig b))
  else if !classFor ctx (blkClass b) then some (5, 0, slotTval b slot)
  else if blkNv b ≤ slot then some (5, 0, slotTval b slot)
  else none

/-- Whether a block's class admits an opcode (R232). -/
def admits (cls op : Nat) : Bool :=
  let g := op / 64
  let seqOp := decide (op ∈ [0x001, 0x002, 0x003, 0x006, 0x00B, 0x011, 0x012, 0x014, 0x01D])
  if cls = 1 then (g == 0 && seqOp) || g == 1 || g == 2 || g == 8
  else if cls = 2 then (g == 0 && seqOp) || g == 1 || g == 2 || g == 9
  else !(g == 8 || g == 9) || op == 0x241

/-- Whether a service core refuses an opcode (R44). -/
def svcRefuses (op : Nat) : Bool :=
  decide (op = 0x00A) || (decide (0x1C0 ≤ op) && decide (op ≤ 0x1C5)) || op / 64 == 8 || op / 64 == 9

end Sys2Proof.Machine
end

