-- ==== Sys2Proof/Machine/Control.lean ====
section
/-! DEFINITION. Group 0x0: transfers, contexts and sequencers, traps and gates, semaphores, special registers, barriers,
waiting, fences, device time and budgets (R251-R276), and the unassigned opcodes (R250). -/

namespace Sys2Proof.Machine

open Sys2Proof

/-- An illegal instruction that its encoding or placement shows, before the wait clause and whatever the guard (R237). -/
def illegalNow (h : Hdr) (s : State) : Out := .next (s.fault s.cur h 5 0 s.me.slotVal)

/-- R250: an opcode that is not assigned, or a word that its own rules refuse. -/
def execUnassignedOpcode (_ : BitVec 96) (s : State) : Out :=
  .next (s.deliverTrap s.cur ⟨5, 0, s.me.slotVal, 0⟩)

def execNop (h : Hdr) (s : State) : Out := issue h s .normal [] [] (fun t => .done t)

/-! ## Transfers (R253, R254) -/

/-- A transfer through a pair (R253). -/
def transfer (h : Hdr) (o : FmtCR) (s : State) : Out :=
  issue h s .normal (pairOps o.a) [] (fun t =>
    let p := t.me.readPair o.a
    if p.addr.toNat % 64 ≠ 0 then .trap 2 0 p.addr
    else
      match capCheck p [permExec] p.addr 64 with
      | some cause => .trap 1 cause p.addr
      | none => .goto t p false)

def execBr (h : Hdr) (o : FmtCR) (s : State) : Out := transfer h o s
def execRet (h : Hdr) (o : FmtCR) (s : State) : Out := transfer h o s

/-- A jump by a block offset under the unchanged program capability (R253). -/
def jumpBy (t : State) (off : Int) : Res :=
  let c := t.me
  let p := c.jumpCap off
  .goto t p (c.pcOut || !capRepresentable c.pcc.addr c.pcc.md p.addr)

def execBri (h : Hdr) (o : FmtJ) (s : State) : Out :=
  issue h s .normal [] [] (fun t => jumpBy t o.off.toInt)

/-- The program capability with the address of the next block (R254). -/
def Ctx.linkCap (c : Ctx) : Cap :=
  let a := c.pcc.addr + 64
  ⟨a, c.pcc.md, c.pcc.tag && !c.pcOut && capRepresentable c.pcc.addr c.pcc.md a⟩

/-- `call` stands in the last valid slot (R235). -/
def execCall (h : Hdr) (o : FmtJ) (s : State) : Out :=
  if s.me.slot + 1 ≠ s.me.nv then illegalNow h s
  else
    issue h s .normal [] (if opNum o.d = 0 then [] else pairOps o.d) (fun t =>
      let link := t.me.linkCap
      let t1 := if opNum o.d = 0 then t else t.self (fun c => c.writePair (opNum o.d) link)
      jumpBy t1 o.off.toInt)

def execLoop (h : Hdr) (o : FmtJ) (s : State) : Out :=
  issue h s .normal [o.d] [o.d] (fun t =>
    let n := opNum o.d
    let v := (t.me.getX n).val - 1
    let t1 := t.self (fun c => c.writeX n v)
    if v ≠ 0 then jumpBy t1 o.off.toInt else .done t1)

/-! ## Contexts and engines (R255-R260) -/

/-- The helper contexts a core may use: its stage's HLP; all ten where no task is bound. -/
def State.helpers (s : State) (g : Nat) : Nat := match s.stage? g with | some st => st.hlp | none => 10

/-- A helper after `start` (R31, R255). DESIGN CHOICE (log entry 39): R31 zeroes the registers when a bank is bound to a task of another
domain; a helper's bank counts as bound when the task starts it, a sequencer's when it is forked, so that a task that starts no helper
leaves what the bank held. -/
def Ctx.startFrom (h c : Ctx) (p : Cap) (out : Bool) : Ctx :=
  { ((h.bindDom c.cdom).enter p out 0) with
    live := true, level := c.level, twid := c.twid, tinf := c.tinf, region := none
    prgn := { h.prgn with opn := false, mrg := c.prgn.mrg } }

def execStart (h : Hdr) (o : FmtJ) (s : State) : Out :=
  issue h s .illegal [] [] (fun t =>
    let a := t.cur
    let c := t.me
    let p := c.jumpCap o.off.toInt
    let out := c.pcOut || !capRepresentable c.pcc.addr c.pcc.md p.addr
    match (List.range (t.helpers a.gid)).find? (fun i => !(t.here.ctx (i + 1)).live) with
    | none => .done (t.self (fun c => c.writePO o.d false))
    | some i =>
      .done ((t.updCtx ⟨a.gid, i + 1⟩ (fun k => k.startFrom c p out)).self (fun c => c.writePO o.d true)))

/-- A matrix sequencer's run ends: the joint row of its core lasts until each member's has; the forwarded passes that have not been
consumed are then discarded (R363). -/
def State.dissolveRow (s0 : State) (a : Agent) : State :=
  if a.ctx ≠ 11 then s0
  else
    let s := s0.updCore a.gid (fun c => { c with matrix := { c.matrix with joined := true } })
    let row := (s.core a.gid).matrix.row
    if row.all (fun m => (s.core m).matrix.joined) then
      row.foldl (fun acc m => acc.updCore m (fun c => { c with matrix := { c.matrix with row := [], fwd := [] } })) s
    else s

/-- Whether a core's engines are quiet: no sequencer runs and no command is accepted and incomplete (R259). -/
def Core.enginesQuiet (c : Core) : Bool :=
  !(c.ctx 11).live && !(c.ctx 12).live && c.matrix.cmds.isEmpty && (List.range 4).all (fun i => (c.chan i).cmds.isEmpty)

/-- Raise the first fault a sequencer left for the task, at the instruction that waits for it (R351). -/
def State.raiseHeld (s : State) (a : Agent) (h : Hdr) : State :=
  match (s.core a.gid).faults with
  | [] => s
  | f :: rest => ((s.updCore a.gid (fun c => { c with faults := rest })).addBack a h).deliverTrap a f

/-- The superstep barrier of a task's last `sstep`, where its final arrival goes (R160). -/
def scopeCode (o : Order) : Word := if o.core then -1 else o.scope
def codeScope (w : Word) : Order := ⟨false, false, w, decide (w = -1)⟩

/-- The final arrival of a task in merge mode (R160). -/
def State.finalArrival (s : State) (g : Nat) (empty : Bool) : State :=
  match (s.core g).task with
  | some t =>
    match t.sscope, (s.core g).mrg with
    | some w, some _ =>
      let o := codeScope w
      let r : Arrival := ⟨.sstep t.lid w o.core, ⟨g, 0⟩, scopeCores o g, wd t.stage, 0, Cap.null, true, empty, [], []⟩
      { s with arrivals := s.arrivals ++ [r] }
    | _, _ => s
  | none => s

/-- `exit` ends a helper's run at once; a task's control context waits for the task's end, where its signal clause acts (R189, R243,
R256). -/
def execExit (h : Hdr) (s : State) : Out :=
  issue h s .illegal [] [] (fun t =>
    let a := t.cur
    if a.ctx = 0 ∧ t.here.faults ≠ [] then .keep (t.raiseHeld a h)
    else
      let t1 := t.abortTicket a
      if a.ctx = 0 ∧ t.here.task.isSome then
        .keep ((t1.finalArrival a.gid false).self (fun c => { c with busy := some .ending }))
      else
        .keep ((t1.signalNext a.gid h).self Ctx.stop))

/-- Whether a context is past a step that must run to its end (R152, R80, R265). -/
def Ctx.past (c : Ctx) : Bool :=
  match c.busy with
  | some (.publish _ _) => true
  | some (.drain _ _) => true
  | some (.sigCheck _ _) => true
  | _ => false

def execHalt (h : Hdr) (s : State) : Out :=
  issue h s .normal [] [] (fun t =>
    let a := t.cur
    let ms := match t.here.task with | some k => k.members | none => [a.gid]
    let others := ms.flatMap (fun m => (t.liveAgents m).filter (fun b => b ≠ a))
    if others.any (fun b => (t.ctx b).past) then .wait t
    else
      let t1 := others.foldl State.haltCtx (t.signalNext a.gid h)
      let t2 := t1.self (fun c => { c with waitTaken := false })
      let t3 := t2.haltCtx a
      let t4 := { t3 with arrivals := t3.arrivals.filter (fun r => !ms.contains r.agent.gid) }
      .keep (ms.foldl (fun acc m =>
        (acc.finalArrival m true).updCore m (fun c =>
          { c with
            task := c.task.map (fun k => { k with halted := true })
            mrg := c.mrg.map (fun m => { m with lines := [], up := 0 }) })) t4))

/-- A sequencer's bank as `fork` starts it (R258, R351). -/
def Ctx.forkFrom (q c : Ctx) (p : Cap) (out : Bool) (forker : Nat) : Ctx :=
  { ((q.bindDom c.cdom).enter p out 0) with
    live := true, level := c.level, twid := c.twid, tinf := c.tinf, x := c.x, p := c.p, forker := forker }

/-- Check the target block of one sequencer: its class, read as a fetch of the forking context (R258). In a merged stage a poisoned
block rolls the superstep back (R226). -/
def forkTarget (t : State) (off : BitVec 16) (cls : Nat) (k : State → Res) : Res :=
  if off = 0x8000 then k t
  else
    let c := t.me
    let p := c.jumpCap off.toInt
    let out := c.pcOut || !capRepresentable c.pcc.addr c.pcc.md p.addr
    match fetchBlock t t.cur p out with
    | .trap kind sub v => .trap kind sub v
    | .miss va prot =>
      if isSvc t.cur.gid then .trap 0x0A 1 va else .wait (t.miss t.cur none c.cdom.toNat kFetch va prot)
    | .wait u => .wait u
    | .ok b psn t1 =>
      if psn ∧ t1.rollsBack t.cur.gid then .keep (t1.mergeFail t.cur.gid)
      else if blkClass b ≠ cls then .illegal
      else k t1

def startSeq (t : State) (off : BitVec 16) (ctx : Nat) : State :=
  if off = 0x8000 then t
  else
    let c := t.me
    let p := c.jumpCap off.toInt
    let out := c.pcOut || !capRepresentable c.pcc.addr c.pcc.md p.addr
    t.updCtx ⟨t.cur.gid, ctx⟩ (fun q => q.forkFrom c p out t.cur.ctx)

/-- `fork` copies the scalar registers, so that it waits like a reader of each for a value still to come (R294, R351). -/
def forkSrcs : List Operand := (List.finRange 64).map Operand.x

def execFork (h : Hdr) (o : FmtFK) (s : State) : Out :=
  issue h s .illegal forkSrcs [] (fun t =>
    if isSvc t.cur.gid ∨ (o.coff ≠ 0x8000 ∧ (t.here.ctx 12).live) ∨ (o.moff ≠ 0x8000 ∧ (t.here.ctx 11).live) then .illegal
    else
      forkTarget t o.coff 2 (fun t1 => forkTarget t1 o.moff 1 (fun t2 =>
        .done (startSeq (startSeq t2 o.coff 12) o.moff 11))))

def execJoin (h : Hdr) (s : State) : Out :=
  issue h s .illegal [] [] (fun t =>
    let a := t.cur
    if 11 ≤ a.ctx then
      .keep (((t.signalNext a.gid h).self Ctx.stop).dissolveRow a)
    else if !t.here.enginesQuiet then .wait t
    else if t.here.faults ≠ [] then .keep (t.raiseHeld a h)
    else .done t)

/-- The reserved bits of a liveness record are zero (R217). -/
def livenessOk (bs : List Byte) : Bool :=
  !bit (wordAt bs 0) 0 && decide (bits (wordAt bs 1) 63 56 = 0) && !bit (wordAt bs 1) 32
    && decide (bits (wordAt bs 2) 63 5 = 0) && decide (wordAt bs 3 = 0)

/-- `yield` reads its record, abandons an open region and begins to save (R217, R218); the save itself is a step of its
own. With no task bound there is nothing to save. -/
def execYield (h : Hdr) (o : FmtCR) (s : State) : Out :=
  issue h s .normal (pairOps o.a) [] (fun t =>
    let a := t.cur
    if a.ctx ≠ 0 then .illegal
    else
      let cap := t.me.readPair o.a
      withRead t cap [permLoad] cap.addr 32 1 (fun t1 bs =>
        if !livenessOk bs then .illegal
        else
          let adv := t1.me.region.isNone
          let t2 := t1.abandon a
          if t2.here.task.isNone then (if adv then .done t2 else .keep t2)
          else
            let mask := (List.range 4).map (wordAt bs)
            .keep ((t2.self (fun c => { c with busy := some (.saving adv) })).updCore a.gid (fun c =>
              { c with saving := 1, saveSlots := BitVec.ofNat 8 (bits (wordAt bs 1) 55 48), saveMask := mask }))))

/-! ## Traps and gates (R261-R263) -/

def execTrap (h : Hdr) (o : FmtI) (s : State) : Out :=
  issue h s .normal [] [] (fun t =>
    .keep ((t.retire t.cur h).deliverTrap t.cur ⟨0x0C, o.imm.toNat % 16, o.imm.setWidth 64, 0⟩))

/-- A gate of seal type 15: the trap state is written as a trap's, nested when the supervisor ACT is set (R210, R212), and the gate is
entered at its own address at supervisor level, whatever the level before (R17, R262). -/
def gateTrap (t : State) (h : Hdr) (g : Cap) : Res :=
  let a := t.cur
  let c := t.me
  let info : TrapInfo := ⟨0x0C, 0, g.addr, 0⟩
  let next := c.pcc.addr + 64
  let t1 := t.signalNext a.gid h
  if c.level ≠ .hypervisor ∧ !bit c.sup.cau 7 then
    .keep (t1.self (fun c => { (c.enter g.unsealed false 0) with
      sup := c.sup.take info 0x0C 0 c.level.num next 0 c.pcc.md, level := .supervisor }))
  else if bit c.hyp.cau 7 then .keep (t1.hypTrap a info 0x0C 0 next 0)
  else if c.level = .hypervisor then
    .keep (t1.self (fun c => { (c.enter g.unsealed false 0) with hyp := c.hyp.take info 0x0C 0 2 next 0 c.pcc.md, level := .supervisor }))
  else
    .keep (t1.self (fun c => { (c.enter g.unsealed false 0) with
      hyp := c.hyp.take info 0x0D 0x0C c.level.num next 0 c.pcc.md, level := .supervisor }))

def execSysc (h : Hdr) (o : FmtCR) (s : State) : Out :=
  issue h s .illegal (pairOps o.a) (if opNum o.d = 0 then [] else pairOps o.d) (fun t =>
    let g := t.me.readPair o.a
    if g.addr.toNat % 64 ≠ 0 then .trap 2 0 g.addr
    else if !g.tag then .trap 1 1 g.addr
    else if mdMalformed g.md then .trap 1 7 g.addr
    else if mdSeal g.md = 0 ∨ !bit g.md permExec then .trap 1 3 g.addr
    else if !capCovers g g.addr 64 then .trap 1 4 g.addr
    else
      match fetchBlock t t.cur g.unsealed false with
      | .trap kind sub v => .trap kind sub v
      | .miss va prot =>
        if isSvc t.cur.gid then .trap 0x0A 1 va else .wait (t.miss t.cur none t.me.cdom.toNat kFetch va prot)
      | .wait u => .wait u
      | .ok b psn t1 =>
        if psn ∧ t1.rollsBack t.cur.gid then .keep (t1.mergeFail t.cur.gid)
        else if blkClass b ≠ 3 then .illegal
        else if mdSeal g.md = 15 then gateTrap t1 h g
        else
          let link := t1.me.linkCap
          let rc : Cap := { link with md := mdSetSeal link.md (mdSeal g.md) }
          .goto (if opNum o.d = 0 then t1 else t1.self (fun c => c.writePair (opNum o.d) rc)) g.unsealed false)

def execRfu (h : Hdr) (s : State) : Out :=
  issue h s .illegal [] [] (fun t => .keep ((t.signalNext t.cur.gid h).self Ctx.rfuResume))

def execRfe (h : Hdr) (s : State) : Out :=
  issue h s .illegal [] [] (fun t =>
    let c := t.me
    if c.level = .user then .illegal
    else
      let r := if c.level = .hypervisor then c.hyp else c.sup
      if bits r.cau 6 5 = 3 then .illegal
      else
        let r2 : TrapRegs := { r with cau := tcauSetAct r.cau false }
        .keep ((t.signalNext t.cur.gid h).self (fun c =>
          let c1 := c.rfeResume r
          if c.level = .hypervisor then { c1 with hyp := r2 } else { c1 with sup := r2 })))

/-! ## Semaphores (R264, R265): a set and an addition of the own core take effect in the first step of the next cycle -/

def execSemSet (h : Hdr) (o : FmtS) (s : State) : Out :=
  issue h s .illegal [o.a] [] (fun t =>
    let r := t.me.readS o.a
    let v := min 0xFFFF (r.1.toNat + o.imm.toNat)
    .done ((t.setCtx t.cur r.2).setSemNext t.cur o.sem.toNat (BitVec.ofNat 16 v)))

def execSemAdd (h : Hdr) (o : FmtS) (s : State) : Out :=
  issue h s .illegal [o.a] [] (fun t =>
    let r := t.me.readS o.a
    .done ((t.setCtx t.cur r.2).addSemNext t.cur.gid o.sem.toNat (r.1.toNat + o.imm.toNat)))

/-- `sem.sig`: to the own core at once; else its check goes out and the context waits for it (R265). -/
def execSemSig (h : Hdr) (o : FmtS) (s : State) : Out :=
  issue h s .illegal [o.a] [] (fun t =>
    let a := t.cur
    let r := t.me.readS o.a
    let t1 := t.setCtx a r.2
    let tgt := gidOf (gidCl a.gid) (r.1.toNat % 256)
    if tgt = a.gid then .done ((t1.addSemNext a.gid o.sem.toNat o.imm.toNat).self (fun c => c.writePO o.d true))
    else
      let f : Flight := .sigCheck a tgt o.sem.toNat o.imm.toNat
      let t2 := { t1 with flights := t1.flights ++ [f] }
      .keep (t2.self (fun c => { c with busy := some (.sigCheck h o.d) })))

def execSemRd (h : Hdr) (o : FmtS) (s : State) : Out :=
  issue h s .normal [] [o.d] (fun t =>
    let m := t.here.sem o.sem.toNat
    .done (t.self (fun c => c.writeS o.d (wd (b2n m.ovf * 2 ^ 16 + m.val.toNat)))))

/-! ## Special registers (R267-R269) -/

/-- The cluster of the agent whose turn it is. -/
def State.myCluster (s : State) : Cluster := s.cluster (gidCl s.cur.gid)

/-- CID (R269). A service core has no mesh position (R44): its X, Y and IDX read zero. -/
def cidWord (a : Agent) : Word :=
  let pos := if isSvc a.gid then 0 else gidX a.gid * 2 ^ 19 + gidY a.gid * 2 ^ 14 + gidIdx a.gid
  wd (a.ctx * 2 ^ 28 + gidCl a.gid * 2 ^ 25 + pos)

/-- One trap register of a set by its place (R209 ff., R212). -/
def TrapRegs.get (r : TrapRegs) (i : Nat) : Word :=
  match i with
  | 0 => r.vec | 1 => r.vem | 2 => r.epc | 3 => r.epm | 4 => r.cau | 5 => r.val | _ => r.scr

/-- Write the writable fields of a trap register. -/
def TrapRegs.put (r : TrapRegs) (i : Nat) (w : Word) : TrapRegs :=
  match i with
  | 0 => { r with vec := w &&& ~~~0x3F }
  | 1 => { r with vem := w }
  | 2 => { r with epc := w &&& ~~~0x7 }
  | 3 => { r with epm := w }
  | 4 => { r with cau := (r.cau &&& ~~~0xE0) ||| (w &&& 0xE0) }
  | 6 => { r with scr := w }
  | _ => r

def sliceWord (k : Slice) : Word :=
  wd (k.open_.length * 2 ^ 50 + k.wb.length * 2 ^ 45 + k.miss.toNat * 2 ^ 20 + k.req.toNat)

/-- The value of a special register for the agent whose turn it is; none where its level or core forbids (R267, R269). -/
def sprRead (s : State) (n : Nat) : Option Word :=
  let c := s.me
  let k := s.here
  let cl := s.myCluster
  if n = 0x000 then some s.dev.cycl
  else if n = 0x001 then some (cidWord s.cur)
  else if n = 0x002 then some (wd c.level.num)
  else if n = 0x010 then some (c.cdom.setWidth 64)
  else if n = 0x012 then some c.pcc.addr
  else if n = 0x013 then some c.pcc.md
  else if n = 0x018 then some c.upv
  else if n = 0x019 then some c.upn
  else if n = 0x01A then some c.upc
  else if n = 0x01B then some c.upa
  else if n = 0x01C then some c.upi
  else if n = 0x01D then some c.upk
  else if 0x020 ≤ n ∧ n ≤ 0x027 then some (k.slot (n - 0x020)).word
  else if 0x028 ≤ n ∧ n ≤ 0x02B then
    let ch := k.chan (n - 0x028)
    some (wd (ch.seq.toNat * 2 ^ 40 + ch.done.toNat))
  else if n = 0x02C then some (wd (cl.zeroing.length * 2 ^ 16 + (2048 - cl.taken.length)))
  else if n = 0x02D then some (c.bstat.setWidth 64)
  else if 0x030 ≤ n ∧ n ≤ 0x033 then some (cl.bktReg (n - 0x030))
  else if n = 0x034 then some s.dev.memmap
  else if n = 0x035 then some s.dev.memhole
  else if n = 0x036 then some (wd ((List.range 16).foldl (fun acc i => acc + b2n (cl.slice i).retired * 2 ^ i) 0))
  else if 0x040 ≤ n ∧ n ≤ 0x04F then some (sliceWord (cl.slice (n - 0x040)))
  else if n = 0x050 then some c.prgn.word
  else if n = 0x051 then some c.pres
  else if n = 0x052 then some (wd (k.pcntCap.toNat * 2 ^ 48 + k.pcntRply.toNat * 2 ^ 32 + k.pcntMcnf.toNat * 2 ^ 16
    + k.pcntAbnd.toNat))
  else if n = 0x053 then some k.pdsd
  else if n = 0x054 then some k.pdct
  else if n = 0x058 then some (c.fstat.setWidth 64)
  else if n = 0x05C then some (wd (b2n c.inex))
  else if n = 0x060 then some c.twid
  else if n = 0x061 then some c.tinf
  else if 0x070 ≤ n ∧ n ≤ 0x076 then (if c.level = .user then none else some (c.sup.get (n - 0x070)))
  else if 0x078 ≤ n ∧ n ≤ 0x07E then (if c.level = .hypervisor then some (c.hyp.get (n - 0x078)) else none)
  else if n = 0x080 then some (wd (b2n k.req * 2 ^ 32 + k.dlc.toNat))
  else if n = 0x084 then some c.budg.word
  else if n = 0x088 then (if c.level = .user then none else some k.mqoa)
  else if n = 0x089 then
    (if c.level = .user then none
     else some (wd (k.ovq.length % 2 ^ 16 * 2 ^ 48 + k.mqosSpill.toNat * 2 ^ 16 + k.mqosSize.toNat)))
  else if n = 0x08C then some k.rkcy
  else if n = 0x08D then some k.rkms
  else if n = 0x090 then some (wd (b2n c.dtLock * 2 ^ 63 + c.dtFrac.toNat))
  else if n = 0x098 then (if c.level = .hypervisor ∧ isSvc s.cur.gid then some (wd (b2n cl.svcr)) else none)
  else none

/-- Write the writable fields of a context's own special registers; none where the level forbids (R267, R269). -/
def Ctx.sprWrite (c : Ctx) (n : Nat) (w : Word) : Option Ctx :=
  if n = 0x018 then some { c with upv := w &&& ~~~0x3E }
  else if n = 0x019 then some { c with upn := w &&& 0xFF }
  else if n = 0x01A then some { c with upc := w &&& ~~~0x7 }
  else if n = 0x01C then some { c with upi := (c.upi &&& ~~~0x80) ||| (w &&& 0x80) }
  else if n = 0x01D then some { c with upk := w }
  else if n = 0x058 then some (c.clearFstat w)
  else if 0x070 ≤ n ∧ n ≤ 0x076 ∧ n ≠ 0x075 then
    (if c.level = .user then none else some { c with sup := c.sup.put (n - 0x070) w })
  else if 0x078 ≤ n ∧ n ≤ 0x07E ∧ n ≠ 0x07D then
    (if c.level = .hypervisor then some { c with hyp := c.hyp.put (n - 0x078) w } else none)
  else none

/-- Whether a destination takes the whole program capability from `mfs` of PCCA (R268). -/
def takesPair (d : Operand) : Bool := match d with | .x n => decide (n.val % 2 = 0) | _ => false

def execMfs (h : Hdr) (o : FmtSYS) (s : State) : Out :=
  let whole := decide (o.spr = 0x012) && takesPair o.d
  issue h s .normal [] (if whole then pairOps o.d else [o.d]) (fun t =>
    match sprRead t o.spr.toNat with
    | none => .illegal
    | some w =>
      if whole then .done (t.self (fun c => c.writePair (opNum o.d) ⟨c.pcc.addr, c.pcc.md, true⟩))
      else .done (t.self (fun c => c.writeS o.d w)))

def execMts (h : Hdr) (o : FmtSYS) (s : State) : Out :=
  issue h s .normal [o.a] [] (fun t =>
    let r := t.me.readS o.a
    if o.spr = 0x053 then .done ((t.setCtx t.cur r.2).updCore t.cur.gid (fun k => { k with pdsd := r.1 }))
    else if o.spr = 0x054 then .done ((t.setCtx t.cur r.2).updCore t.cur.gid (fun k => { k with pdct := r.1 }))
    else
      match r.2.sprWrite o.spr.toNat r.1 with
      | none => .illegal
      | some c => .done (t.setCtx t.cur c))

/-- An `mts` to PRGN (R148). -/
def execPrgnWrite (h : Hdr) (o : FmtSYS) (s : State) : Out :=
  issue h s .normal [o.a] [] (fun t =>
    if t.me.prgn.opn then .illegal
    else
      let r := t.me.readS o.a
      let w := r.1
      .done (t.setCtx t.cur { r.2 with prgn := { r.2.prgn with
        tv := bit w 62, strm := w.extractLsb' 56 4, ticket := w.extractLsb' 0 32 } }))

/-- A write of SVCR.READY (R44). -/
def execSvcrReadyWrite (h : Hdr) (o : FmtSYS) (s : State) : Out :=
  issue h s .normal [o.a] [] (fun t =>
    if t.me.level ≠ .hypervisor ∨ !isSvc t.cur.gid then .illegal
    else
      let r := t.me.readS o.a
      let cl := gidCl t.cur.gid
      let on := bit r.1 0
      let t1 := (t.setCtx t.cur r.2).updCluster cl (fun k => { k with svcr := on })
      .done (if on then t1.updDev (fun d => { d with rdy := d.rdy ||| wd (2 ^ (16 + cl)) }) else t1))

/-- A write to MQOA or MQOS (R213, R214): ignored while messages lie in the overflow region. -/
def execMqoWrite (h : Hdr) (o : FmtSYS) (s : State) : Out :=
  issue h s .normal [o.a] [] (fun t =>
    if t.me.level = .user then .illegal
    else
      let r := t.me.readS o.a
      let t1 := t.setCtx t.cur r.2
      if t.here.ovq ≠ [] then .done t1
      else if o.spr = 0x088 then .done (t1.updCore t.cur.gid (fun k => { k with mqoa := fld (bits r.1 51 6) 6 }))
      else .done (t1.updCore t.cur.gid (fun k => { k with mqosSize := r.1.setWidth 16 })))

/-! ## Barriers and supersteps (R270-R272) -/

/-- An arrival: the context waits for its barrier (R270). -/
def arrive (t : State) (h : Hdr) (d : Operand) (kind : BarKind) (members : List Nat) (w0 w1 : Word) (cap : Cap) : Res :=
  let r : Arrival := ⟨kind, t.cur, members, w0, w1, cap, false, false, [], []⟩
  .keep ({ t with arrivals := t.arrivals ++ [r] }.self (fun c => { c with busy := some (.barrier h d) }))

/-- The launch of a core's task when it is a gang's: the current gang. -/
def State.gangLaunch (s : State) (g : Nat) : Option Launch :=
  match (s.core g).task with
  | none => none
  | some k =>
    match s.launch? k.lid with
    | some l => if l.gang then some l else none
    | none => none

/-- The peer devices whose cores belong to Cores(S), a bit for each: with DEV 0xFF those of the current gang (R120). -/
def State.peerMask (s : State) (g : Nat) (o : Order) : Word :=
  match s.gangLaunch g with
  | some l => if !o.core && decide (bits o.scope 39 32 = 255) then l.peers.foldl (fun m p => m ||| wd (2 ^ p)) 0 else 0
  | none => 0

/-- A scope as it acts for an agent of a core: without a peer device in its current gang, DEV 0xFF acts as DEV 0 (R120). -/
def State.liveScope (s : State) (g : Nat) (o : Order) : Order :=
  if s.peerMask g o ≠ 0 then o else { o with scope := wd (bits o.scope 31 0) }

def execBar (h : Hdr) (o : FmtSC) (s : State) : Out :=
  issue h s .illegal [o.b] [] (fun t =>
    let q := t.me.scopeArg o.b
    if !q.ok then .illegal
    else
      let w := t.liveScope t.cur.gid q
      arrive t h (.x 0) (.bar w.scope w.core) (scopeCores w t.cur.gid) (t.peerMask t.cur.gid w) 0 Cap.null)

def execGang (h : Hdr) (s : State) : Out :=
  issue h s .illegal [] [] (fun t =>
    match t.gangLaunch t.cur.gid with
    | none => .illegal
    | some l => arrive t h (.x 0) (.gang l.lid) [] 0 0 Cap.null)

def execSstep (h : Hdr) (o : FmtSC) (s : State) : Out :=
  issue h s .illegal [o.b] [] (fun t =>
    match t.here.task, t.stage? t.cur.gid with
    | some k, some st =>
      let q0 := t.me.scopeArg o.b
      let q := t.liveScope t.cur.gid q0
      if !st.mrg ∨ !q0.ok then .illegal
      else
        let w := scopeCode q
        let t1 := t.updCore t.cur.gid (fun c => { c with task := c.task.map (fun k => { k with sscope := some w }) })
        arrive t1 h (.x 0) (.sstep k.lid w q.core) (scopeCores q t.cur.gid) (wd k.stage) 0 Cap.null
    | _, _ => .illegal)

/-! ## Waiting, time, budgets (R273, R275, R276) -/

/-- What `wmon` measures from: what the context's latest load of the line took; where there is none, the line as the instruction found it
at its issue (R273). -/
def Ctx.monitored (c : Ctx) (line now : Nat) : Mon :=
  match Sparse.look none c.mon line, c.busy with
  | some m, _ => m
  | none, some (.monitor l m) => if l = line then m else ⟨c.seq, now + 1, [], []⟩
  | none, _ => ⟨c.seq, now + 1, [], []⟩

/-- `wmon` (R273): it waits for a write later than what the context's latest load of the line took; with no load of it, for one after its
issue. -/
def execWmon (h : Hdr) (o : FmtM) (s : State) : Out :=
  issue h s .illegal (pairOps o.a ++ [o.b]) [o.d] (fun t =>
    let ea := memEA t.me o 1
    let q : Req := ⟨t.me.readPair o.a, [permLoad], kLoad, 1, 0, [⟨ea, 1, 0⟩], false⟩
    withAccess t q (fun t1 parts _ =>
      let addr := match parts with
        | p :: _ => (match p.segs with | g :: _ => g.addr | [] => 0)
        | [] => 0
      let line := addr / 128
      let home := fwdAddr t1 addr / 128
      let m := t1.me.monitored line (Sparse.look 0 t1.lineVer home)
      let fin := fun (v : Word) => Res.done (t1.self (fun c => { (c.writeS o.d v) with mon := Sparse.put none c.mon line none }))
      if t1.laterWrite m line home then fin 1
      else if t1.here.req then fin 0
      else .wait (t1.self (fun c => { c with busy := some (.monitor line m) }))))

/-- Device time is locked (R420). -/
def State.locked (s : State) : Bool := bit s.dev.dtst 63

/-- A reading of device time; it does not fall below the context's latest (R419). -/
def Ctx.readTime (c : Ctx) (ns : Nat) (frac : BitVec 32) : Nat × BitVec 32 :=
  if ns * 2 ^ 32 + frac.toNat < c.dtSeen * 2 ^ 32 + c.dtFrac.toNat then (c.dtSeen, c.dtFrac) else (ns, frac)

def execDtime (h : Hdr) (o : FmtRR) (s : State) : Out :=
  issue h s .normal [] [o.d] (fun t =>
    let r := t.me.readTime t.dev.ns t.dev.frac
    .done (t.self (fun c => { (c.writeS o.d (wd r.1)) with dtLock := t.locked, dtFrac := r.2, dtSeen := r.1 })))

def execBudget (h : Hdr) (o : FmtS) (s : State) : Out :=
  issue h s .illegal [o.a] [] (fun t =>
    let n := o.imm.toNat % 16
    let r := t.me.readS o.a
    if n = 0 ∨ 11 ≤ n then .illegal
    else
      let t1 := t.setCtx t.cur r.2
      if t.helpers t.cur.gid < n then .done (t1.self (fun c => c.writePO o.d false))
      else
        let cnt : BitVec 32 := r.1.setWidth 32
        let arm : Budget → Budget := fun b =>
          if cnt = 0 then { b with arm := false } else ⟨true, false, b.kind, o.sem, cnt⟩
        .done ((t1.updCtx ⟨t.cur.gid, n⟩ (fun c => { c with budg := arm c.budg })).self (fun c => c.writePO o.d true)))

/-! ## Fences (R126, R274) -/

/-- A fence takes its place in the agent's program order: it retires at once when its condition holds, else it orders the later accesses
that R126 names while the agent goes on, and retires when the condition comes to hold. -/
def fence (kind : Nat) (h : Hdr) (o : FmtSC) (s : State) : Out :=
  issue h s .normal [o.b] [] (fun t =>
    let q := t.me.scopeArg o.b
    if !q.ok then .illegal
    else
      let f : Fence := ⟨kind, q, t.me.seq, t.now, if t.me.pend.any Access.loads then none else some t.now, h⟩
      if t.me.fences.isEmpty && fenceOk t t.cur f then .done t
      else .keep (t.self (fun c => { c with fences := c.fences ++ [f], seq := c.seq + 1 }.advance)))

def execFenceLl (h : Hdr) (o : FmtSC) (s : State) : Out := fence 0 h o s
def execFenceSs (h : Hdr) (o : FmtSC) (s : State) : Out := fence 1 h o s
def execFenceFull (h : Hdr) (o : FmtSC) (s : State) : Out := fence 2 h o s
def execFenceEng (h : Hdr) (o : FmtSC) (s : State) : Out := fence 3 h o s

end Sys2Proof.Machine
end

