-- ==== Sys2Proof/Machine/Memory.lean ====
section
/-! DEFINITION. Group 0x6: loads and stores, capability loads and stores, queues, gather and scatter, atomics, reducing and
multicast stores, prefetch and cache maintenance (R292-R305). -/

namespace Sys2Proof.Machine

open Sys2Proof

/-! ## Loads -/

/-- Where a loaded value goes (R293). -/
def loadDest (d : Operand) : Dest :=
  match d with
  | .x n => .x n.val
  | .v n => .v n.val
  | .lq n => .lq n.val
  | .sq n => .sq n.val
  | _ => .none

/-- A load-data queue has room for one more (R295). -/
def lqRoom (c : Ctx) (d : Operand) : Bool := match d with | .lq n => decide ((c.getLq n.val).length < 16) | _ => true

/-- A checked load of `n` bytes at `ea` (R294). -/
def loadBody (t : State) (cap : Cap) (kind al : Nat) (o : FmtM) (elems : List Elem) (size : Nat) (dest : Dest) : Res :=
  let q := memOrder t.me o
  if !q.ok then .illegal
  else if !lqRoom t.me o.d then .wait t
  else
    let r : Req := ⟨cap, [permLoad], kind, al, o.policy.toNat, elems, false⟩
    withAccess t r (fun t1 parts used =>
      mergeLoad t1 t1.cur (fun t2 =>
        match t2.issueLoad t2.cur r parts used q size dest with
        | .ok s => .done s
        | .aborted s => .keep s))

/-- `ld`, `ldv`, `ldq`: one element at EA. -/
def plainLoad (h : Hdr) (o : FmtM) (s : State) : Out :=
  issue h s .normal (pairOps o.a ++ [o.b]) [o.d] (fun t =>
    let n := sizeBytes o.size
    loadBody t (t.me.readPair o.a) kLoad 1 o [⟨memEA t.me o n, n, 0⟩] n (loadDest o.d))

def execLd (h : Hdr) (o : FmtM) (s : State) : Out := plainLoad h o s
def execLdv (h : Hdr) (o : FmtM) (s : State) : Out := plainLoad h o s
def execLdq (h : Hdr) (o : FmtM) (s : State) : Out := plainLoad h o s

def execLdc (h : Hdr) (o : FmtM) (s : State) : Out :=
  issue h s .normal (pairOps o.a ++ [o.b]) (pairOps o.d) (fun t =>
    let cap := t.me.readPair o.a
    loadBody t cap kLdc 16 o [⟨memEA t.me o 16, 16, 0⟩] 16 (.pair (opNum o.d) (bit cap.md permLoadCap)))

/-! ## Gather and scatter (R297) -/

/-- The elements of a gather or scatter. -/
def gatherElems (c : Ctx) (o : FmtM) : List Elem :=
  let n := sizeBytes o.size
  let idx := c.getV (opNum o.b)
  let base := (c.readPair o.a).addr + o.offset.signExtend 64
  (List.range (128 / n)).map (fun e => ⟨base + (lane idx e).signExtend 64 * wd n, n, e * n⟩)

/-- Elements in ascending address order, in which their faults are reported (R294). -/
def byAddr (l : List Elem) : List Elem := sortBy (fun e => e.ea.toNat) l

def execLdg (h : Hdr) (o : FmtM) (s : State) : Out :=
  issue h s .normal (pairOps o.a ++ [o.b]) [o.d] (fun t =>
    loadBody t (t.me.readPair o.a) kLoad 1 o (byAddr (gatherElems t.me o)) 128 (loadDest o.d))

/-! ## Stores -/

/-- The data a store takes: bytes, and the context after popping a queue; or it waits for the entry of its store-data queue (R295). -/
inductive StoreData where
  | bytes (bs : List Byte) (c : Ctx)
  | wait

/-- The next entry of a store-data queue, where it is there, and the context without it. -/
def sqHead (c : Ctx) (q : Nat) : Option (Line × Ctx) :=
  match c.getSq q with
  | .val v :: rest => some (v, c.putSq q rest)
  | _ => none

/-- Take the data of a store. A store enters the store buffer, the Brine or the merge buffer when the entry that it takes is there; until
then it waits at its issue, and a forced save may come between (R118, R240, R295; log entry 20). -/
def storeData (c : Ctx) (d : Operand) (n : Nat) : StoreData :=
  match d with
  | .x r => .bytes (toBytes n (c.getX r.val).val.toNat) c
  | .v r => .bytes ((lineBytes (c.getV r.val)).take n) c
  | .lq q => let p := c.popLq q.val; .bytes ((lineBytes p.1).take n) p.2
  | .sq q =>
    match sqHead c q.val with
    | some (v, c1) => .bytes ((lineBytes v).take n) c1
    | none => .wait
  | _ => .bytes [] c

/-- The operands a store reads. -/
def storeSrcs (d : Operand) : List Operand := match d with | .sq _ => [] | d => [d]

/-- The permissions a store needs (R15). -/
def storePerms (c : Ctx) (tagged : Bool) : List Nat :=
  [permStore] ++ (if c.region.isSome then [permCommit] else []) ++ (if tagged then [permStoreCap] else [])

/-- A store whose data has been taken, in the context `c` that is left, is put where it goes; where it has to wait the data stays. -/
def putStore (t : State) (c : Ctx) (r : Req) (ps : List Part) (used : List TlbEntry) (q : Order) (bs : List Byte) (tag : Bool) : Res :=
  match (t.setCtx t.cur c).issueStore t.cur r ps used q bs tag false with
  | .wait u => .wait (u.setCtx t.cur t.me)
  | r => r

/-- A checked store of given data. -/
def storeBody (t : State) (cap : Cap) (kind al : Nat) (o : FmtM) (elems : List Elem) (n : Nat) : Res :=
  let q := memOrder t.me o
  if !q.ok then .illegal
  else
    let r : Req := ⟨cap, storePerms t.me false, kind, al, o.policy.toNat, elems, false⟩
    withAccess t r (fun t1 parts used =>
      let ps := sortBy (fun p => p.el.off) parts
      match storeData t1.me o.d n with
      | .wait => .wait t1
      | .bytes bs c => putStore t1 c r ps used q bs false)

/-- `st`, `stv`, `stq`: one element at EA. -/
def plainStore (h : Hdr) (o : FmtM) (s : State) : Out :=
  issue h s .normal (pairOps o.a ++ [o.b] ++ storeSrcs o.d) [] (fun t =>
    let n := sizeBytes o.size
    storeBody t (t.me.readPair o.a) kStore 1 o [⟨memEA t.me o n, n, 0⟩] n)

def execSt (h : Hdr) (o : FmtM) (s : State) : Out := plainStore h o s
def execStv (h : Hdr) (o : FmtM) (s : State) : Out := plainStore h o s
def execStq (h : Hdr) (o : FmtM) (s : State) : Out := plainStore h o s

/-- `stc`: the granule's tag becomes the AND of the pair's tags (R22). -/
def execStc (h : Hdr) (o : FmtM) (s : State) : Out :=
  issue h s .normal (pairOps o.a ++ [o.b] ++ pairOps o.d) [] (fun t =>
    let q := memOrder t.me o
    if !q.ok then .illegal
    else
      let v := t.me.readPair o.d
      let r : Req := ⟨t.me.readPair o.a, storePerms t.me v.tag, kStc, 16, o.policy.toNat, [⟨memEA t.me o 16, 16, 0⟩], false⟩
      withAccess t r (fun t1 parts used =>
        putStore t1 t1.me r parts used q (toBytes 8 v.addr.toNat ++ toBytes 8 v.md.toNat) v.tag))

def execStg (h : Hdr) (o : FmtM) (s : State) : Out :=
  issue h s .normal (pairOps o.a ++ [o.b, o.d]) [] (fun t =>
    storeBody t (t.me.readPair o.a) kStore 1 o (byAddr (gatherElems t.me o)) 128)

/-! ## Atomics (R298-R300) -/

/-- The permissions of an atomic (R298). -/
def amoPerms : List Nat := [permLoad, permStore, permAtomic]

/-- Operand and comparand of an atomic. -/
def amoOpnd (c : Ctx) (d : Operand) (n : Nat) (cas : Bool) : List Byte × List Byte :=
  let r := opNum d
  if cas then (toBytes n (c.getX (r + 1)).val.toNat, toBytes n (c.getX r).val.toNat)
  else (toBytes n (c.getX r).val.toNat, [])

/-- An atomic: illegal inside a region (R150) and in merge mode (R160). -/
def amo (op : Nat) (h : Hdr) (o : FmtM) (s : State) : Out :=
  let cas := decide (op = 7)
  issue h s .illegal (pairOps o.a ++ [o.b] ++ (if cas then pairOps o.d else [o.d])) [o.d] (fun t =>
    let q := memOrder t.me o
    if t.here.mrg.isSome ∨ !q.ok then .illegal
    else
      let n := sizeBytes o.size
      let r : Req := ⟨t.me.readPair o.a, amoPerms, kAtomic, n, o.policy.toNat, [⟨memEA t.me o n, n, 0⟩], false⟩
      let v := amoOpnd t.me o.d n cas
      withAccess t r (fun t1 parts used =>
        .done (t1.issueAmo t1.cur r used (.amo op) q v.2 (.x (opNum o.d)) (parts.map (fun p => (p, v.1))))))

def execAmoAdd (h : Hdr) (o : FmtM) (s : State) : Out := amo 0 h o s
def execAmoAnd (h : Hdr) (o : FmtM) (s : State) : Out := amo 1 h o s
def execAmoOr (h : Hdr) (o : FmtM) (s : State) : Out := amo 2 h o s
def execAmoXor (h : Hdr) (o : FmtM) (s : State) : Out := amo 3 h o s
def execAmoMin (h : Hdr) (o : FmtM) (s : State) : Out := amo 4 h o s
def execAmoMax (h : Hdr) (o : FmtM) (s : State) : Out := amo 5 h o s
def execAmoSwap (h : Hdr) (o : FmtM) (s : State) : Out := amo 6 h o s
def execAmoCas (h : Hdr) (o : FmtM) (s : State) : Out := amo 7 h o s
def execAmoFadd (h : Hdr) (o : FmtM) (s : State) : Out := amo 8 h o s

/-! ## Reducing stores (R301) -/

/-- The elements of a reducing store, checked in ascending order of their addresses (R294, R303). -/
def redElems (c : Ctx) (o : FmtM) : List Elem :=
  let n := sizeBytes o.size
  let ea := memEA c o n
  byAddr <| match o.d with
  | .v _ => (List.range (128 / n)).map (fun e => ⟨ea + wd (e * n), n, e * n⟩)
  | _ => [⟨ea, n, 0⟩]

def stRed (op : Nat) (h : Hdr) (o : FmtM) (s : State) : Out :=
  issue h s .illegal (pairOps o.a ++ [o.b, o.d]) [] (fun t =>
    let q := memOrder t.me o
    if t.here.mrg.isSome ∨ !q.ok then .illegal
    else
      let n := sizeBytes o.size
      let r : Req := ⟨t.me.readPair o.a, amoPerms, kMulti, n, o.policy.toNat, redElems t.me o, false⟩
      withAccess t r (fun t1 parts used =>
        match storeData t1.me o.d 128 with
        | .bytes bs c =>
          .done ((t1.setCtx t1.cur c).issueAmo t1.cur r used (.red op) q [] .none
            (parts.map (fun p => (p, (bs.drop p.el.off).take n))))
        | _ => .wait t1))

def execStRedAdd (h : Hdr) (o : FmtM) (s : State) : Out := stRed 0 h o s
def execStRedMin (h : Hdr) (o : FmtM) (s : State) : Out := stRed 4 h o s
def execStRedMax (h : Hdr) (o : FmtM) (s : State) : Out := stRed 5 h o s
def execStRedFadd (h : Hdr) (o : FmtM) (s : State) : Out := stRed 8 h o s

/-! ## Multicast stores (R302, R303) -/

/-- The destinations of a fan, checked in ascending order of their addresses (R294, R303). -/
def fanElems (ea fan : Word) (n : Nat) : List Elem :=
  byAddr <| (List.range (bits fan 63 56 + 1)).map (fun j => ⟨ea + wd j * wdI (sext 48 fan.toNat), n, 0⟩)

def execStMc (h : Hdr) (o : FmtM) (s : State) : Out :=
  issue h s .illegal (pairOps o.a ++ pairOps o.b ++ [o.d]) [] (fun t =>
    let c := t.me
    let fan := (c.getX (opNum o.b)).val
    let cs := bit fan 48
    let plain := decide (o.order = 0)
    let q : Order := if plain then Order.plain
      else ⟨o.order.getLsbD 0, o.order.getLsbD 1, (c.getX (opNum o.b + 1)).val, cs⟩
    if t.here.mrg.isSome ∨ bits fan 55 49 ≠ 0 ∨ (plain && cs) ∨ !q.ok then .illegal
    else
      let n := sizeBytes o.size
      let ea := (c.readPair o.a).addr + o.offset.signExtend 64
      let r : Req := ⟨c.readPair o.a, [permStore], kMulti, 1, o.policy.toNat, fanElems ea fan n, false⟩
      withAccess t r (fun t1 parts used =>
        match storeData t1.me o.d n with
        | .bytes bs c => (t1.setCtx t1.cur c).issueStore t1.cur r parts used q bs false true
        | _ => .wait t1))

/-! ## Prefetch and cache maintenance (R304, R305) -/

/-- `pref` (R36, R304): a line that its slice holds comes into the L1 at once; for one that it does not hold a request goes out, and
its fill brings the line into the slice and, under a policy below slice, into the L1. It faults on nothing, waits for nothing, and
does nothing where the slice takes no request. -/
def execPref (h : Hdr) (o : FmtM) (s : State) : Out :=
  issue h s .normal (pairOps o.a ++ [o.b]) [] (fun t =>
    let g := t.cur.gid
    let ea := memEA t.me o 1
    match checkAccess t g t.me.cdom (t.me.readPair o.a) [permLoad] kLoad ea 1 1 with
    | .ok (seg :: _) used =>
      let addr := fwdAddr t seg.addr
      let line := addr / 128
      let part := t.partOf g
      let pol := effPolicy seg.attr o.policy.toNat
      if isScratch addr || reservedPA t part (isSvc g) addr || notReadyPA t part (isSvc g) addr || decide (pol = 4) then .done t
      else
        let t1 := t.touchAll g used
        if pol < 3 ∧ (t1.core g).l1.dl.contains line then .done (t1.l1Data line g pol)
        else if !t1.quiesced line && (t1.sliceOf line).full then .done t1
        else
          let held := (t1.sliceOf line).present.contains line && !t1.quiesced line
          let t2 := t1.send (.unit t.cur 4 t1.nextId 0) line pol false
          .done (if held then t2.prefCopy g line pol else t2)
    | _ => .done t)

/-- A cache-maintenance instruction: the checks of a 1-byte load, then `f` on the line's home address; nothing on a
scratch address (R305). -/
def lineOp (h : Hdr) (o : FmtM) (s : State) (f : State → Nat → Res) : Out :=
  issue h s .illegal (pairOps o.a ++ [o.b]) [] (fun t =>
    let r : Req := ⟨t.me.readPair o.a, [permLoad], kLoad, 1, 0, [⟨memEA t.me o 1, 1, 0⟩], false⟩
    withAccess t r (fun t1 parts _ =>
      match parts with
      | ⟨_, seg :: _⟩ :: _ => if isScratch seg.addr then .done t1 else f t1 (fwdAddr t1 seg.addr)
      | _ => .done t1))

/-- A write-back slot holds data of a line that its memory controller has not accepted (R101). -/
def State.draining (s : State) (line : Nat) : Bool := (s.sliceOf line).wb.any (fun e => decide (e.1 = line))

/-- `cwb`: dirty data of the line goes to memory through a write-back slot; every copy stays, clean (R305). -/
def execCwb (h : Hdr) (o : FmtM) (s : State) : Out :=
  lineOp h o s (fun t addr =>
    let line := addr / 128
    if t.l1Dirty line || (t.sliceOf line).dirty.contains line then .wait (if t.slotFor line then t.cleanLine line else t)
    else if t.draining line then .wait t
    else .done t)

/-- `cinv`: the line leaves every L1 and the home slice, dirty data through a write-back slot; with sharers held by the overflow
handler it waits for their collect (R305, R142, R144). -/
def execCinv (h : Hdr) (o : FmtM) (s : State) : Out :=
  lineOp h o s (fun t addr =>
    let line := addr / 128
    let k := t.sliceOf line
    if k.present.contains line || k.collects.any (fun c => c.2.1 == line) || k.ovf.contains line || !(t.keepers line).isEmpty then
      .wait ((t.evictStep line).getD t)
    else if t.draining line then .wait t
    else .done t)

end Sys2Proof.Machine
end

