-- ==== Sys2Proof/Machine/Banks.lean ====
section
/-! DEFINITION. Bank instructions: authority (R72), results (R73), the indivisible steps of `btake`, `bmap`, `bgive`, `bfree` and
`bdrain` (R74-R80), the arrival of `ringrot` (R81), and their operands (R306-R308). The drains end by events of their own. -/

namespace Sys2Proof.Machine

open Sys2Proof

/-! ## Authority and results -/

/-- The local window of a slot (R72). -/
def slotWindow (slot : Nat) : Word := wd (localLo + slot * 65536)

/-- Checks 1 to 6 of R27 over a slot's window with one permission; none for a slot number above 7 (R72, R306). DESIGN CHOICE (log entry
32): R72 speaks of each slot that an instruction names, and its table of the permission on the slot whose bank moves; the pair of `bgive` is checked
over the window of SLOT alone, and not over that of the target core's slot. -/
def bankAuth (c : Ctx) (a : Operand) (perm slot : Nat) : Option Nat :=
  if 7 < slot then none else capCheck (c.readPair a) [perm] (slotWindow slot) 65536

/-- The result of a bank instruction: BSTAT.REASON and the predicate, true exactly when REASON is 0 (R73). -/
def Ctx.bankResult (c : Ctx) (d : Operand) (reason : Nat) : Ctx :=
  { (c.writePO d (decide (reason = 0))) with bstat := BitVec.ofNat 4 reason }

/-- A bank instruction retires with a reason. -/
def bankDone (t : State) (d : Operand) (reason : Nat) : Res := .done (t.self (fun c => c.bankResult d reason))

/-- The common form: illegal inside a region, the authority checked, then the body. `merge` says that merge mode forbids
it (R308). -/
def bankOp (h : Hdr) (o : FmtK) (s : State) (perm : Nat) (merge : Bool) (body : State → Res) : Out :=
  issue h s .illegal (pairOps o.a ++ [o.b]) [o.d] (fun t =>
    if merge && t.here.mrg.isSome then .illegal
    else
      match bankAuth t.me o.a perm o.slot.toNat with
      | some cause => .trap 1 cause (slotWindow o.slot.toNat)
      | none => body t)

/-! ## The free pool -/

/-- Whether a bank is in the free pool (R63). -/
def Cluster.isFree (k : Cluster) (n : Nat) : Bool := decide (n < 2048) && !k.taken.contains n

/-- The free bank with the least latency from a core, lowest number on ties (R75, R64). -/
def Cluster.nearest (k : Cluster) (idx : Nat) : Option Nat :=
  (List.range 2048).foldl (fun acc n =>
    if !k.isFree n then acc
    else
      match acc with
      | none => some n
      | some b => if latency idx (n / 8) < latency idx (b / 8) then some n else some b) none

/-- A free bank is mapped in an empty slot (R76). -/
def State.mapBank (s : State) (g slot n : Nat) : State :=
  (s.updCluster (gidCl g) (fun k => { k with taken := natIns k.taken n })).updCore g
    (fun c => c.setSlot slot ⟨true, false, false, n⟩)

def execBtake (h : Hdr) (o : FmtK) (s : State) : Out :=
  bankOp h o s permStore false (fun t =>
    let g := t.cur.gid
    let slot := o.slot.toNat
    if 7 < slot then bankDone t o.d 6
    else if !(t.here.slot slot).isEmpty then bankDone t o.d 1
    else
      match t.myCluster.nearest (gidIdx g) with
      | none => bankDone t o.d 4
      | some n => bankDone (t.mapBank g slot n) o.d 0)

def execBmap (h : Hdr) (o : FmtK) (s : State) : Out :=
  bankOp h o s permStore false (fun t =>
    let g := t.cur.gid
    let slot := o.slot.toNat
    let r := t.me.readS o.b
    let n := r.1.toNat
    let t1 := t.setCtx t.cur r.2
    if 7 < slot ∨ 2047 < n then bankDone t1 o.d 6
    else if !(t.here.slot slot).isEmpty then bankDone t1 o.d 1
    else if !t.myCluster.isFree n then bankDone t1 o.d 5
    else bankDone (t1.mapBank g slot n) o.d 0)

/-! ## Accesses in flight through a bank (R75) -/

/-- Whether a home address lies in a bank of a cluster. -/
def inBank (cl n addr : Nat) : Bool := isScratch addr && decide (bankOf addr = (cl, n))

def Access.throughBank (e : Access) (cl n : Nat) : Bool := e.units.any (fun u => u.got.isNone && inBank cl n u.addr)
def SbEntry.throughBank (e : SbEntry) (cl n : Nat) : Bool := e.units.any (fun u => !u.done && inBank cl n u.addr)

/-- What the contexts of a core have fetched of a next block is fetched anew: a fetch goes on in no bank that the core has given away, and
under no translation that it has removed (R45, R75, R234). -/
def Core.refetch (c : Core) : Core :=
  { c with ctxs := c.ctxs.map (fun e => if e.2.fpart.isEmpty then e else (e.1, { e.2 with fpart := [] })) }

/-- A valid slot is unmapped and drains (R76-R80). -/
def Core.unmapSlot (c : Core) (slot : Nat) : Core := c.refetch.setSlot slot ⟨false, true, false, 0⟩

/-- The accesses of one core in flight through a bank of its cluster, `cl`: kind (0 load or atomic, 1 store, 2 command, 3 the buffer of a
collective that waits), context or channel, and identity. -/
def State.flightsThrough (s : State) (g cl n : Nat) : List (Nat × Nat × Nat) :=
  let c := s.core g
  c.ctxs.flatMap (fun e =>
    ((e.2.pend.filter (fun p => p.throughBank cl n)).map (fun p => (0, e.1, p.id)))
      ++ ((e.2.sb.filter (fun p => p.throughBank cl n)).map (fun p => (1, e.1, p.seq))))
    ++ ((c.cmds.filter (fun e => e.2.throughBank g n)).map (fun e => (2, e.1, e.2.accepted)))
    ++ ((s.arrivals.filter (fun r => decide (r.agent.gid = g) && r.places.any (fun p => inBank cl n p.1))).map
      (fun r => (3, r.agent.ctx, (s.ctx r.agent).seq)))

/-- Whether any access is in flight through a bank of a cluster, from any core. -/
def State.bankBusy (s : State) (cl n : Nat) : Bool :=
  s.cores.any (fun e => decide (gidCl e.1 = cl) && !(s.flightsThrough e.1 cl n).isEmpty)

/-! ## Regions that hold proposals for a bank (R156) -/

def Region.inBank (r : Region) (cl n : Nat) : Bool := r.lines.any (fun b => Machine.inBank cl n (b.line * 128))

/-- Agents of a cluster whose open region holds proposals for a bank. -/
def State.proposers (s : State) (cl n : Nat) : List Agent :=
  (s.cores.filter (fun e => decide (gidCl e.1 = cl))).flatMap (fun e =>
    (e.2.ctxs.filter (fun x => match x.2.region with | some r => r.inBank cl n | none => false)).map (fun x => ⟨e.1, x.1⟩))

/-- Whether a region between its draw and the end of its publication holds proposals for a bank (R156). -/
def State.publishing (s : State) (cl n : Nat) : Bool :=
  (s.proposers cl n).any (fun a => match (s.ctx a).busy with | some (.publish _ _) => true | _ => false)

/-- Abandon a region and the wait for a translation with it. -/
def State.abandonFor (s : State) (a : Agent) : State := (s.abandon a).updCore a.gid (fun k => k.unwait a.ctx)

/-- The regions that hold proposals for a bank are abandoned as it moves (R156). -/
def State.abandonBank (s : State) (cl n : Nat) : State := (s.proposers cl n).foldl State.abandonFor s

/-! ## Gives, frees and drains (R77, R79) -/

/-- A bank instruction has taken its indivisible step; its drain runs. -/
def startDrain (t : State) (h : Hdr) (d : Operand) (r : Drain) : Res :=
  .keep ((t.updCore t.cur.gid (fun c => { c with drains := c.drains ++ [r] })).self (fun c =>
    { c with busy := some (.drain h d) }))

def execBgive (h : Hdr) (o : FmtK) (s : State) : Out :=
  bankOp h o s permGive true (fun t =>
    let g := t.cur.gid
    let cl := gidCl g
    let slot := o.slot.toNat
    let ts := o.tslot.toNat
    let r := t.me.readS o.b
    let tc := if o.b.isZero then o.tcore.toNat else r.1.toNat
    let u := t.setCtx t.cur r.2
    if 7 < slot ∨ 7 < ts ∨ 255 < tc then bankDone u o.d 6
    else
      let tg := gidOf cl tc
      let b := t.here.slot slot
      if !b.valid then bankDone u o.d 3
      else if (t.core tg).slotDom ≠ t.here.slotDom then bankDone u o.d 2
      else if !((t.core tg).slot ts).isEmpty then bankDone u o.d 1
      else if t.publishing cl b.bank then .wait t
      else
        let t1 := (u.abandonBank cl b.bank).updCore g (fun c => c.unmapSlot slot)
        let t2 := t1.updCore tg (fun c => c.setSlot ts { c.slot ts with inn := true })
        startDrain t2 h o.d ⟨0, slot, b.bank, tg, ts, o.tsem.toNat, t.cur.ctx, true, h.ss, h.si, []⟩)

def execBfree (h : Hdr) (o : FmtK) (s : State) : Out :=
  bankOp h o s permGive true (fun t =>
    let g := t.cur.gid
    let cl := gidCl g
    let slot := o.slot.toNat
    if 7 < slot then bankDone t o.d 6
    else
      let b := t.here.slot slot
      if !b.valid then bankDone t o.d 3
      else if t.publishing cl b.bank then .wait t
      else
        let t1 := (t.abandonBank cl b.bank).updCore g (fun c => c.unmapSlot slot)
        startDrain t1 h o.d ⟨1, slot, b.bank, 0, 0, 0, t.cur.ctx, true, h.ss, h.si, []⟩)

/-- `bdrain` (R79): it waits for the accesses of its core that are in flight through the bank now. -/
def execBdrain (h : Hdr) (o : FmtK) (s : State) : Out :=
  bankOp h o s permLoad false (fun t =>
    let g := t.cur.gid
    let slot := o.slot.toNat
    if 7 < slot then bankDone t o.d 6
    else
      let b := t.here.slot slot
      if !b.valid then bankDone t o.d 3
      else
        let t1 := t.updCore g Core.refetch
        let ws := t.flightsThrough g (gidCl g) b.bank
        if ws.isEmpty then bankDone t1 o.d 0
        else startDrain t1 h o.d ⟨2, slot, b.bank, 0, 0, 0, t.cur.ctx, true, h.ss, h.si, ws⟩)

/-! ## Ring rotation (R81, R82) -/

/-- A ring's rectangle lies in the cluster of the executing core and contains it, and its device field is zero (R81). DESIGN CHOICE (log
entry 32): a corner beyond the mesh is not clipped as a scope's is (R120): the rectangle then lies in no cluster. -/
def ringOk (w : Word) (g : Nat) : Bool :=
  let x0 := min (bits w 7 0) (bits w 23 16)
  let x1 := max (bits w 7 0) (bits w 23 16)
  let y0 := min (bits w 15 8) (bits w 31 24)
  let y1 := max (bits w 15 8) (bits w 31 24)
  scopeOk w && decide (bits w 39 32 = 0) && decide (x0 ≤ gidX g) && decide (gidX g ≤ x1) && decide (y0 ≤ gidY g)
    && decide (gidY g ≤ y1) && decide (x0 / 16 = x1 / 16) && decide (y0 / 16 = y1 / 16) && decide (x1 ≤ 63) && decide (y1 ≤ 31)

/-- The members of a ring in ring order (R81). -/
def ringOrder (w : Word) : List Nat :=
  let r := scopeRect w
  (List.range (r.2.2.2 + 1 - r.2.2.1)).flatMap (fun j =>
    let row := (List.range (r.2.1 + 1 - r.1)).map (fun i => gidAt (r.1 + i) (r.2.2.1 + j))
    if j % 2 = 0 then row else row.reverse)

def execRingrot (h : Hdr) (o : FmtK) (s : State) : Out :=
  issue h s .illegal (pairOps o.a ++ [o.b]) [o.d] (fun t =>
    let g := t.cur.gid
    let slot := o.slot.toNat
    let w := (t.me.getX (opNum o.b)).val
    if t.here.mrg.isSome ∨ (opNum o.b ≠ 0 ∧ !ringOk w g) then .illegal
    else
      match bankAuth t.me o.a permGive slot with
      | some cause => .trap 1 cause (slotWindow slot)
      | none =>
        if 7 < slot then bankDone t o.d 6
        else if opNum o.b = 0 then bankDone t o.d 0
        else arrive t h o.d (.ring w) (ringOrder w) (wd slot) (wd (b2n o.dir)) Cap.null)

end Sys2Proof.Machine
end

