-- ==== Sys2Proof/Machine/Capability.lean ====
section
/-! DEFINITION. Group 0x2: the capability instructions (R282-R287). -/

namespace Sys2Proof.Machine

open Sys2Proof

/-- The fault that an instruction which modifies a capability raises on its tagged source (R282). -/
def capSourceFault (k : Cap) : Option Nat :=
  if k.tag && mdMalformed k.md then some 7 else if k.tag && decide (mdSeal k.md ≠ 0) then some 2 else none

/-- An instruction that modifies the capability in A: `f` gives the result, or a fault's cause (R282, R283). -/
def capModify (h : Hdr) (o : FmtCAP) (s : State) (f : Ctx → Cap → Word → Except Nat (Cap × Ctx)) : Out :=
  issue h s .normal (pairOps o.a ++ [o.b]) [o.d] (fun t =>
    let a := t.me.readPair o.a
    match capSourceFault a with
    | some cause => .trap 1 cause a.addr
    | none =>
      let rb := t.me.readS o.b
      match f rb.2 a rb.1 with
      | .error cause => .trap 1 cause a.addr
      | .ok (k, c) => .done (t.setCtx t.cur (c.writePair (opNum o.d) k)))

def execCset (h : Hdr) (o : FmtCAP) (s : State) : Out :=
  capModify h o s (fun c a b => .ok (a.move b, c))

def execCinc (h : Hdr) (o : FmtCAP) (s : State) : Out :=
  capModify h o s (fun c a b => .ok (a.move (a.addr + b), c))

/-- The capability `cbnd` makes of a source and a length, and INEX (R284). -/
def boundCap (a : Cap) (len : Word) (exact : Bool) : Cap × Bool :=
  let lo := a.addr.toNat
  let hi := lo + len.toNat
  let e := encodeBounds (mdWhole a.md) lo hi
  let inex := e.wider
  let keep := a.tag && !e.clear && capValid a.addr a.md && decide (hi ≤ 2 ^ 64)
    && decide (capBase a.addr a.md ≤ (e.base : Int)) && decide ((e.top : Int) ≤ capTop a.addr a.md) && !(exact && inex)
  (⟨a.addr, mdSetBounds a.md e.e e.b e.t, keep⟩, inex)

def cbndWith (exact : Bool) (h : Hdr) (o : FmtCAP) (s : State) : Out :=
  capModify h o s (fun c a b => let r := boundCap a b exact; .ok (r.1, c.setInex r.2))

def execCbnd (h : Hdr) (o : FmtCAP) (s : State) : Out := cbndWith false h o s
def execCbndX (h : Hdr) (o : FmtCAP) (s : State) : Out := cbndWith true h o s

/-- A metadata word with its permissions cut down to a mask (R283). -/
def mdAndPerm (md : Word) (perm : BitVec 12) : Word := md &&& ((perm.setWidth 64 <<< 52) ||| 0x000FFFFFFFFFFFFF)

def execCperm (h : Hdr) (o : FmtCAP) (s : State) : Out :=
  capModify h o s (fun c a _ => .ok (⟨a.addr, mdAndPerm a.md o.perm, a.tag⟩, c))

/-- `cseal` (R285): seal type 15 only above user level; a tagged source needs execute and a block address. -/
def execCseal (h : Hdr) (o : FmtCAP) (s : State) : Out :=
  issue h s .normal (pairOps o.a) [o.d] (fun t =>
    let a := t.me.readPair o.a
    if o.sealTy = 0 ∨ (o.sealTy = 15 ∧ t.me.level = .user) then .illegal
    else
      match capSourceFault a with
      | some cause => .trap 1 cause a.addr
      | none =>
        if a.tag && !(bit a.md permExec && decide (a.addr.toNat % 64 = 0)) then .trap 1 3 a.addr
        else .done (t.self (fun c => c.writePair (opNum o.d) ⟨a.addr, mdSetSeal a.md o.sealTy.toNat, a.tag⟩)))

/-- An exact bound as `cget` shows it: 2^64 reads all ones, an invalid one modulo 2^64 (R286). -/
def showTop (i : Int) : Word := if i = 2 ^ 64 then -1 else wdI i

/-- The field `cget` reads (R286). -/
def cgetField (a : Cap) (sel : Nat) : Word :=
  match sel with
  | 0 => a.addr
  | 1 => wdI (capBase a.addr a.md)
  | 2 => if capValid a.addr a.md then showTop (capTop a.addr a.md) else wdI (capTop a.addr a.md)
  | 3 => showTop (capTop a.addr a.md - capBase a.addr a.md)
  | 4 => wd (mdPerm a.md)
  | 5 => wd (mdSeal a.md)
  | 6 => wd (mdE a.md)
  | 7 => wd (b2n a.tag)
  | _ => a.md

def execCget (h : Hdr) (o : FmtCAP) (s : State) : Out :=
  pure1 h s (pairOps o.a) [o.d] (fun c => c.writeS o.d (cgetField (c.readPair o.a) o.sel.toNat))

/-- The test of `ctag` (R287). -/
def ctagTest (a : Cap) (sel : Nat) (len : Word) (perm : BitVec 12) : Bool :=
  let sound := a.tag && !mdMalformed a.md && decide (mdSeal a.md = 0) && capValid a.addr a.md
  match sel with
  | 0 => a.tag
  | 1 => sound
  | _ => sound && decide (mdPerm a.md &&& perm.toNat = perm.toNat)
      && decide (capBase a.addr a.md ≤ (a.addr.toNat : Int)) && decide ((a.addr.toNat + len.toNat : Nat) ≤ capTop a.addr a.md)

def execCtag (h : Hdr) (o : FmtCAP) (s : State) : Out :=
  pure1 h s (pairOps o.a ++ [o.b]) [o.d] (fun c =>
    let a := c.readPair o.a
    let rb := c.readS o.b
    rb.2.writePO o.d (ctagTest a o.sel.toNat rb.1 o.perm))

def execCclr (h : Hdr) (o : FmtCAP) (s : State) : Out :=
  pure1 h s (pairOps o.a) [o.d] (fun c =>
    let a := c.readPair o.a
    c.writePair (opNum o.d) ⟨a.addr, a.md, false⟩)

end Sys2Proof.Machine
end

