-- ==== Sys2Proof/Machine/Proposals.lean ====
section
/-! DEFINITION. Proposal instructions: `pbegin` (R149, R309), `pcommit` with validation, replay, draw and publication (R152, R153,
R155, R310), `pabort` (R154, R311), `pseed` (R147, R312), `pdraw` (R154, R313) and `pstat` (R146, R314). -/

namespace Sys2Proof.Machine

open Sys2Proof

/-- The cluster whose sequencer a context names (R146). -/
def State.psq (s : State) (st : Nat) : Stream := s.myCluster.stream st

/-- The draw units of the own cluster are ready (R430). -/
def State.drawReady (s : State) : Bool := s.ready (50 + gidCl s.cur.gid)

/-- Tickets taken in one cycle go by ascending core, and in a core by context (R149): one that is out of turn is taken in a later cycle. -/
def Stream.turn (q : Stream) (cyc : Nat) (a : Agent) : Bool := decide (q.tookAt.1 ≠ cyc + 1) || decide (q.tookAt.2 ≤ 16 * a.gid + a.ctx)

/-- A stream gives out its next ticket. -/
def Stream.take (q : Stream) (cyc : Nat) (a : Agent) : Stream := { q with next := q.next + 1, tookAt := (cyc + 1, 16 * a.gid + a.ctx) }

def execPbegin (h : Hdr) (o : FmtPB) (s : State) : Out :=
  if s.me.slot ≠ 0 ∨ h.si ≠ 0 then illegalNow h s
  else
    issue h s .illegal [] [] (fun t =>
      let a := t.cur
      let c := t.me
      let st := o.strm.toNat
      if c.prgn.mrg ∨ (c.prgn.tv ∧ c.prgn.strm ≠ o.strm) then .illegal
      else if !c.prgn.tv && !(t.psq st).turn t.dev.cyc a then .wait t
      else
        let p : Prgn := if c.prgn.tv then c.prgn
          else { c.prgn with ticket := (t.psq st).next, strm := o.strm, tv := true, rpl := 0 }
        let t1 := if c.prgn.tv then t else t.updStream (gidCl a.gid) st (fun q => q.take t.dev.cyc a)
        let fail := c.pcc.addr + o.foff.signExtend 64 * 64
        let r : Region := ⟨c.pcc.addr, fail, [], [], [], t.dev.cyc + 1, none⟩
        .done (t1.self (fun c => { c with prgn := { p with opn := true }, region := some r })))

/-! ## The draw (R153) -/

/-- The mixing steps of the draw function, modulo 2^64, and its 24 bits. -/
def drawMix (z0 : Word) : Nat :=
  let z1 := z0 + 0x9E3779B97F4A7C15
  let z2 := (z1 ^^^ (z1 >>> 30)) * 0xBF58476D1CE4E5B9
  let z3 := (z2 ^^^ (z2 >>> 27)) * 0x94D049BB133111EB
  bits (z3 ^^^ (z3 >>> 31)) 63 40

/-- The draw of function mode for a seed, a stream number and a ticket. -/
def drawFn (seed : Word) (st : Nat) (tk : Word) : Nat := drawMix (seed ^^^ fld st 56 ^^^ tk)

/-- The draw of a ticket, and the stream after it. -/
def Stream.draw (q : Stream) (st : Nat) (tk : BitVec 32) : Nat × Stream :=
  if q.tbl then ((Sparse.look 0 q.table q.tidx.toNat).toNat, { q with tidx := q.tidx + 1 })
  else (drawFn q.seed st (tk.setWidth 64), q)

/-- How a drawn region resolves: 0 it publishes, 1 rejected, 2 discarded. -/
def verdict (ratio : BitVec 32) (k : Nat) : Nat :=
  match decodeF 8 ratio.toNat with
  | .nan => 2
  | .inf neg => if neg then 2 else 0
  | .fin neg m e => if neg ∨ m = 0 then 2 else if fcmpV (.fin false k (-24)) (.fin false m e) = some .lt then 0 else 1

/-! ## Resolving and publishing (R155) -/

/-- A region resolves without publication: proposals dropped, PRES written, the ticket resolved. -/
def State.resolveRegion (s : State) (a : Agent) (k stat : Nat) (wids : List Nat) : State :=
  let p := (s.ctx a).prgn
  (s.updCtx a (fun c => { c with
    region := none
    pres := presWord p.ticket k stat
    prgn := { c.prgn with opn := false, tv := false } })).resolve (gidCl a.gid) p.strm.toNat p.ticket wids

/-- The masked bytes of a Brine line are written at their home in one move, as one write with one invalidation to each other holder of the
line (R155, R163); a line written whole with sound data loses its poison, one written from poisoned data gains it (R436). -/
def State.writeBrine (s : State) (own : Nat) (rel : Bool) (obs : List Nat) (b : BrineLine) : State :=
  let base := fwdAddr s (b.line * 128)
  let wr (e : Nat × List Byte) : HomeWrite :=
    ⟨base + e.1, e.2, b.tags.getLsbD (e.1 / 16), own, decide (4096 ≤ own), rel, obs, false, s.partOf own, isSvc own, none⟩
  match b.runs with
  | [] => s
  | e :: rest =>
    let s1 := rest.foldl (fun u x => u.writeMore s.nextWid (wr x)) (s.writeHome (wr e))
    if reservedPA s (s.partOf own) (isSvc own) base then s1
    else if b.psn then s1.setPoison base true
    else if b.mask = BitVec.allOnes 128 then s1.soundLine base own
    else s1

/-- No earlier load of the context still has to read a byte that the region would write (R124). -/
def noLoadOverlap (c : Ctx) (ls : List BrineLine) : Bool :=
  ls.all (fun b => b.runs.all (fun e => noPendOverlap c c.seq (b.line * 128 + e.1) e.2.length))

/-- The lines that a publication or a merge writes, each with its writer, are asked for at their homes (R102, R397), once no core holds
one exclusively; a function that is not ready is waited for (R430). -/
def State.askLines (s : State) (lines : List (Agent × Nat)) : Ask :=
  let ls := (lines.map (fun e => (e.1, fwdAddr s (e.2 * 128) / 128))).filter (fun e =>
    !isScratch (e.2 * 128) && !reservedPA s (s.partOf e.1.gid) (isSvc e.1.gid) (e.2 * 128))
  let owned := ls.filter (fun e => (s.ownerOf e.2).isSome)
  if ls.any (fun e => notReadyPA s (s.partOf e.1.gid) (isSvc e.1.gid) (e.2 * 128)) then .no
  else if owned.isEmpty then s.askAll 3 true (ls.map (fun e => (.unit e.1 2 0 0, e.2)))
  else
    let t := owned.foldl (fun u e => if u.recallOk e.2 then u.recall e.2 else u) s
    if t = s then .no else .wait t

/-- The publication of a region, once RelDone holds (R155). -/
def publishStep (t : State) (d : Operand) (ratio : Operand) (q : Order) (r : Region) (k : Nat) : Res :=
  let a := t.cur
  let c := t.me
  if !(relDone t a q c.seq && noLoadOverlap c r.lines) then .wait t
  else
    match t.askLines (r.lines.map (fun b => (a, b.line))) with
    | .no => .wait t
    | .wait u => .wait u
    | .go u =>
      let n0 := u.nextWid
      let t1 := r.lines.foldl (fun acc b => acc.writeBrine a.gid true c.obs b) u
      let ws := t1.newWids n0
      let t2 := (t1.observe a ws).resolveRegion a k 0 ws
      let lines := (r.lines.map (fun b => b.line)).foldl natIns []
      let t3 := t2.updStream (gidCl a.gid) c.prgn.strm.toNat (fun s => { s with pubs := s.pubs ++ [(c.prgn.ticket, 0, lines)] })
      .done (t3.self (fun c => ((c.readS ratio).2.writePO d true)))

/-- A region replays (R152): proposals dropped, the ticket kept, the `pbegin` block next. DESIGN CHOICE (log entry 43): the spec does not say
whether a `pcommit` that replays takes the queue entry that its ratio names; the model leaves the entry, since the instruction has not retired. -/
def replay (t : State) (r : Region) : Res :=
  let a := t.cur
  .keep ((t.self (fun c => { (c.goBlock r.blk 0) with
    region := none
    prgn := { c.prgn with opn := false, rpl := if c.prgn.rpl = 0xFF then 0xFF else c.prgn.rpl + 1 } })).updCore a.gid
      (fun k => { k with pcntRply := k.pcntRply + 1 }))

/-- Whether a publication of the stream that HEAD passed in the cycle in which the region began, or later, wrote a line that the region
read (R152, R155). -/
def mustReplay (q : Stream) (r : Region) : Bool :=
  q.pubs.any (fun p => decide (p.2.1 ≠ 0) && decide (r.begun ≤ p.2.1) && p.2.2.any (fun l => r.reads.contains l))

def execPcommit (h : Hdr) (o : FmtP) (s : State) : Out :=
  issue h s .closes [o.a, o.b] [o.d] (fun t =>
    let a := t.cur
    let c := t.me
    match c.region with
    | none => .illegal
    | some r =>
      let sc := c.scopeArg o.b
      let st := c.prgn.strm.toNat
      let q := t.psq st
      if !sc.ok then .illegal
      else
        match r.drawn with
        | some k => publishStep t o.d o.a sc r k
        | none =>
          if !t.drawReady || decide (q.head ≠ c.prgn.ticket) then .wait t
          else if mustReplay q r then replay t r
          else
            let ratio := c.readS o.a
            let fin (u : State) (k stat : Nat) : Res :=
              .done ((u.setCtx a (ratio.2.writePO o.d false)).resolveRegion a k stat [])
            if q.tbl && decide (q.tidx = q.tcnt) then fin t 0 5
            else
              let dr := q.draw st c.prgn.ticket
              let t1 := t.updStream (gidCl a.gid) st (fun _ => dr.2)
              match verdict (ratio.1.setWidth 32) dr.1 with
              | 0 =>
                let r1 := { r with drawn := some dr.1 }
                let t2 := t1.self (fun c => { c with region := some r1, busy := some (.publish h o.d) })
                match publishStep t2 o.d o.a sc r1 dr.1 with
                | .wait u => .keep u
                | x => x
              | stat => fin t1 dr.1 stat)

def execPabort (h : Hdr) (_ : FmtP) (s : State) : Out :=
  issue h s .closes [] [] (fun t =>
    if t.me.region.isNone then .illegal else .done (t.resolveRegion t.cur 0 3 []))

/-! ## Streams (R147, R312, R314) -/

/-- The sequencer's step of `pseed`: its check and its writes. -/
def seedStream (t : State) (o : FmtP) (seed : Word) (first : BitVec 32) (tbl : Bool) (ws : List Nat) : Res :=
  let st := o.strm.toNat
  let q := t.psq st
  if q.head ≠ q.next ∨ 64 < o.tcnt.toNat ∨ ws.any (fun w => decide (2 ^ 24 ≤ w)) then .done (t.self (fun c => c.writePO o.d false))
  else
    let table := (List.range ws.length).foldl (fun m i => Sparse.put 0 m i (BitVec.ofNat 24 (ws.getD i 0))) q.table
    let t1 := t.updStream (gidCl t.cur.gid) st (fun q =>
      { q with seed := seed, next := first, head := first, tbl := tbl, tcnt := o.tcnt, tidx := 0, table := table, pubs := [] })
    .done (t1.self (fun c => c.writePO o.d true))

def execPseed (h : Hdr) (o : FmtP) (s : State) : Out :=
  issue h s .illegal [o.a, o.b] [o.d] (fun t =>
    if !t.drawReady then .wait t
    else
      let ra := t.me.readS o.a
      let rb := ra.2.readS o.b
      seedStream (t.setCtx t.cur rb.2) o ra.1 (rb.1.setWidth 32) false [])

def execPseedTbl (h : Hdr) (o : FmtP) (s : State) : Out :=
  issue h s .illegal (pairOps o.a ++ [o.b]) [o.d] (fun t =>
    if !t.drawReady then .wait t
    else
      let cap := t.me.readPair o.a
      let n := o.tcnt.toNat
      let go (t1 : State) (bs : List Byte) : Res :=
        let rb := t1.me.readS o.b
        let ws := (List.range n).map (fun i => ofBytes ((bs.drop (4 * i)).take 4))
        seedStream (t1.setCtx t1.cur rb.2) o 0 (rb.1.setWidth 32) true (if n ≤ 64 then ws else [])
      if n = 0 then withAccess t ⟨cap, [permLoad], kLoad, 1, 0, [⟨cap.addr, 0, 0⟩], true⟩ (fun t1 _ _ => go t1 [])
      else withRead t cap [permLoad] cap.addr (4 * n) 1 go)

/-- `pdraw` in the form that WSEL selects (R313). -/
def execPdraw (h : Hdr) (o : FmtP) (s : State) : Out :=
  issue h s .illegal [] [o.d] (fun t =>
    if !t.drawReady then .wait t
    else
      let g := t.cur.gid
      let k := drawFn t.here.pdsd 16 t.here.pdct
      let v : Nat := if o.wsel = 0 then (toF 8 0 false (.fin false k (-24))).raw
        else if o.wsel = 1 then k else (toF 7 0 false (.fin false k (-24))).raw
      .done ((t.updCore g (fun c => { c with pdct := c.pdct + 1 })).self (fun c => c.writeS o.d (wd v))))

/-- The three words of PSQ (R146). -/
def Stream.word (q : Stream) (i : Nat) : Word :=
  if i = 0 then q.seed
  else if i = 1 then wd (q.next.toNat * 2 ^ 32 + q.head.toNat)
  else wd (b2n q.tbl * 2 ^ 63 + q.tcnt.toNat * 2 ^ 48 + q.tidx.toNat * 2 ^ 34)

def execPstat (h : Hdr) (o : FmtP) (s : State) : Out :=
  issue h s .normal [] [o.d] (fun t =>
    .done (t.self (fun c => c.writeS o.d ((t.psq o.strm.toNat).word o.wsel.toNat))))

def execPstatE (h : Hdr) (o : FmtP) (s : State) : Out :=
  issue h s .normal [] [o.d] (fun t =>
    .done (t.self (fun c => c.writeS o.d ((Sparse.look 0 (t.psq o.strm.toNat).table o.tcnt.toNat).setWidth 64))))

end Sys2Proof.Machine
end

