-- ==== Sys2Proof/Machine/Engine.lean ====
section
/-! DEFINITION. Engine commands (R349, R350): acceptance into a queue with the slots they name (R75), the checks of one element
(R355, R350), and the reads and writes of parts of an element at their homes (R133, R93, R107, R225, R226). -/

namespace Sys2Proof.Machine

open Sys2Proof

/-! ## Acceptance (R349, R350) -/

/-- A queue of a core: a copy channel, or 4 for the matrix engine. -/
def Core.queueOf (c : Core) (ch : Nat) : List Cmd := if ch = 4 then c.matrix.cmds else (c.chan ch).cmds

def Core.setQueue (c : Core) (ch : Nat) (l : List Cmd) : Core :=
  if ch = 4 then { c with matrix := { c.matrix with cmds := l } } else c.setChan ch { c.chan ch with cmds := l }

/-- Change a command of a queue. -/
def State.updCmd (s : State) (g ch i : Nat) (f : Cmd → Cmd) : State :=
  s.updCore g (fun c => c.setQueue ch ((c.queueOf ch).mapIdx (fun j e => if j = i then f e else e)))

/-- A storage handle that a command may use (R425). -/
def State.handle? (s : State) (part h : Nat) : Option Handle :=
  let e := Sparse.look Handle.reset s.dev.handles (64 * part + h)
  if h < 64 ∧ e.valid then some e else none

/-- Register values that complete a command with CST 0x05 (R354, R357). -/
def State.badShape (s : State) (g : Nat) (c : Cmd) : Bool :=
  let part := (s.cluster (gidCl g)).part
  match c.kind with
  | .cpy =>
    decide (c.total ≠ 0) &&
      (((c.o.dec || c.o.chk) && badTile c.o.fmt2.toNat c.total)
        || (c.o.enc && c.o.fmt ≠ 0xF && badTile c.o.fmt.toNat c.total)
        || (c.o.fmt = 0xF && (decide ((c.reg 2).toNat % 1024 ≠ 0) || decide (c.total % 1024 ≠ 0))))
  | .cps => decide (bits (c.reg 4) 47 0 ≠ 0) || decide (bits (c.reg 6) 63 24 ≠ 0)
      || (c.o.chk && decide (c.blocks % 16 ≠ 0)) || (s.handle? part (bits (c.reg 4) 63 48)).isNone
  | .cpsw => decide (bits (c.reg 4) 47 0 ≠ 0) || decide (bits (c.reg 6) 63 24 ≠ 0)
      || (c.o.chk && decide (c.blocks % 16 ≠ 0))
      || (match s.handle? part (bits (c.reg 4) 63 48) with | some e => e.ro | none => true)
  | _ => false

/-- The scope and flags of a command (R134, R135, R349). -/
def Ctx.cmdOrder (c : Ctx) (o : FmtE) : Order :=
  if o.acq || o.rel then ⟨o.acq, o.rel, (c.getX (opNum o.b)).val, decide (opNum o.b = 0)⟩ else Order.plain

/-- A sequencer issues a command: its queue accepts it, or it waits while the queue holds eight (R350). -/
def acceptCmd (kind : CmdKind) (group : Nat) (h : Hdr) (o : FmtE) (s : State) : Out :=
  issue h s .illegal (groupOps o.a group ++ [o.b]) [] (fun t =>
    let a := t.cur
    let c := t.me
    let q := c.cmdOrder o
    let ch := if kind.isMatrix then 4 else o.ch.toNat
    if !q.ok then .illegal
    else if (kind = .cpm ∨ kind = .cpmFin) ∧ c.level = .user then .illegal
    else if 8 ≤ (t.here.queueOf ch).length then .wait t
    else
      let regs := (List.range group).map (fun i => c.getX (opNum o.a + i))
      let num := if kind.isMatrix then 0 else (t.here.chan ch).seq + 1
      let cmd0 : Cmd := ⟨kind, o, h, q, regs, [], c.forker, (t.here.ctx c.forker).seq, t.now, c.cdom, 0, 0, [], [], [], 0, 0,
        none, 0, none, none, num, none, none, false, [], (c.pcc.addr, c.slot)⟩
      let cmd1 := { cmd0 with slotsUp := t.slotsNamed a.gid c.cdom cmd0.hulls }
      let cmd := if t.badShape a.gid cmd1 then { cmd1 with stopped := some (5, 0) } else cmd1
      let t1 := t.updCore a.gid (fun k =>
        let k1 := if kind.isMatrix then k else
          k.setChan ch { k.chan ch with seq := num, done := 0 }
        k1.setQueue ch (k1.queueOf ch ++ [cmd]))
      .keep (t1.self Ctx.advance))

/-! ## One element: checks -/

/-- What the checks of one element come to. -/
inductive EngTry where
  | ok (segs : List Seg) (used : List TlbEntry)
  | stop (cst sub : Nat)
  | miss (va : Word) (prot : Bool)
  deriving DecidableEq, Repr

/-- Check 8 of R27 for an element that touches the scratch region: it lies whole in one slot that the command resolved at acceptance
(R12, R75). -/
def engSlot (g : Nat) (cmd : Cmd) (ea : Word) (n : Nat) : EngTry :=
  if (touchesScratch ea n).2 ∨ ea.toNat / 65536 ≠ (ea.toNat + n - 1) / 65536 then .stop 1 0
  else
    match (slotKey g ea).bind (fun k => (cmd.slotsUp.find? (fun p => decide (p.1 = k))).map (fun p => p.2)) with
    | none => .stop 1 0
    | some b => .ok [⟨bankAddr (gidCl g) b (ea.toNat % 65536), n, 0, 0⟩] []

/-- Checks 8 and 9 of R27 for an element. -/
def engPlaces (c : Core) (g : Nat) (cmd : Cmd) (kind : Nat) (ea : Word) (n : Nat) : EngTry :=
  if (touchesScratch ea n).1 || (touchesScratch ea n).2 then engSlot g cmd ea n
  else
    match translateParts c cmd.cdom.toNat kind (pageParts ea n) [] [] with
    | .ok segs used => .ok segs used
    | .miss va prot => .miss va prot
    | .trap _ _ _ => .stop 1 0

/-- Whether a run touches an active format window. -/
def inWindow (s : State) (addr n : Nat) : Bool :=
  (List.range 16).any (fun i =>
    let w := s.fwin i
    bit w.w0 63 && decide (fwinBase w < addr + n) && decide (addr < fwinEnd w))

/-- Checks 1 to 10 of R27 for one element (R355); both memory sides of a storage command lie in pinned pages (R357). -/
def engCheck (s : State) (g : Nat) (cmd : Cmd) (e : EngElem) (perms : List Nat) (store : Bool) : EngTry :=
  if e.len = 0 then .ok [] []
  else
    match capCheck (cmd.cap e.cap) perms e.ea e.len with
    | some cause => .stop 6 cause
    | none =>
      match engPlaces (s.core g) g cmd (if store then kStore else kLoad) e.ea e.len with
      | .ok segs used =>
        if store && cmd.o.fmt ≠ 0xF && segs.any (fun t => !isScratch t.addr && inWindow s t.addr t.len) then .stop 3 0
        else if (cmd.kind = .cps ∨ cmd.kind = .cpsw) ∧ used.any (fun u => !u.pin) then .stop 0xF 0
        else .ok segs used
      | r => r

/-! ## One part of an element -/

/-- A part of an element within one line: its home address, its length, its place in the element, and the page's ATTR. -/
def partAt (segs : List Seg) (n : Nat) : Option Seg :=
  (segs.find? (fun t => decide (t.off ≤ n) && decide (n < t.off + t.len))).map (fun t =>
    let addr := t.addr + (n - t.off)
    (⟨addr, min (t.off + t.len - n) (128 - addr % 128), n, t.attr⟩ : Seg))

/-- Cut a part down to a length, not within an aligned 8 bytes (R129), and not within a granule whose tag travels with it (R24). -/
def Seg.cut (t : Seg) (n : Nat) (tagged : Nat → Bool) : Seg :=
  let hi := (t.addr + n + 7) / 8 * 8
  let hi := if hi % 16 ≠ 0 ∧ tagged (hi / 16 * 16) then hi + 8 else hi
  { t with len := min t.len (hi - t.addr) }

/-- What an engine reads or writes: for each byte its value, whether its line was poisoned, and its granule's tag. -/
structure EngBytes where
  data : List Byte
  psn : List Bool
  tags : List Bool
  deriving DecidableEq, Repr

def EngBytes.none : EngBytes := ⟨[], [], []⟩

def EngBytes.part (b : EngBytes) (lo n : Nat) : EngBytes := ⟨(b.data.drop lo).take n, (b.psn.drop lo).take n, (b.tags.drop lo).take n⟩

/-- The name under which an engine asks for the lines of the element under way. -/
def Cmd.asker (c : Cmd) (g ch : Nat) (write : Bool) : ReqWho :=
  .elem g ch c.accepted write (if write then c.writePos else c.readPos)

/-- An engine asks the home of a part's line (R93, R102) under a policy: bypass goes beyond the slice; a line that a core holds
exclusively is recalled. `more` says that the element has further bytes in the line. -/
def State.askEng (s : State) (g ch : Nat) (c : Cmd) (write more : Bool) (pol : Nat) (t : Seg) : Ask :=
  let addr := fwdAddr s t.addr
  let part := s.partOf g
  if isScratch addr ∨ reservedPA s part (isSvc g) addr then .go s
  else if notReadyPA s part (isSvc g) addr ∨ !s.recallOk (addr / 128) then .no
  else
    match s.ask (c.asker g ch write) addr pol write more with
    | .go u => .go (u.recall (addr / 128))
    | r => r

/-- Read a part at its home (R93, R133); the writes whose bytes it takes join the sequencer's observed set (R122). -/
def State.engRead (s : State) (g : Nat) (c : Cmd) (t : Seg) : EngBytes × State :=
  let addr := fwdAddr s t.addr
  let part := s.partOf g
  let s1 := (s.noteRead part (isSvc g) addr t.len).noteDecode addr (effPolicy t.attr 0)
  let r := readHomeBytes s1 part (isSvc g) addr t.len
  let tag (i : Nat) : Bool := (isScratch addr || (windowOf s1 addr).isNone) && s1.tagAt (addr + i)
  (⟨r.bytes, r.bytes.map (fun _ => r.psn), (List.range t.len).map tag⟩,
    s1.observe ⟨g, c.kind.seqr⟩ (writersOf s1.writers addr t.len))

/-- Where the undo record of a line goes that an engine writes for the first time in a superstep: a launch's log and an offset; none
where the line needs none, or has no room (R162). -/
def State.undoPlace (s : State) (g line : Nat) : Option (Launch × Nat) :=
  match (s.core g).mrg, s.logSlotOf g with
  | some m, some (l, base, n) =>
    if !isScratch (line * 128) || m.undone.contains line || decide (n < m.up + m.down + 1) then none else some (l, base + 160 * (n - m.down - 1))
  | _, _ => none

/-- The undo record that a write needs can be written now (R113, R430). -/
def State.undoMay (s : State) (g line : Nat) : Bool := match s.undoPlace g line with | none => true | some r => s.devMay false (s.logLines r.1 r.2 160)

/-- The first engine write of a scratch line in a superstep: an undo record, or a merge-conflict fault when the log has no
room (R162, R226); the lines an engine wrote are kept for R227. -/
def State.noteUndo (s : State) (g line : Nat) (ea : Word) : State :=
  match (s.core g).mrg with
  | none => s
  | some m =>
    let s1 := s.updCore g (fun c => { c with mrg := c.mrg.map (fun m => { m with wrote := natIns m.wrote line }) })
    if !isScratch (line * 128) || m.undone.contains line then s1
    else
      match s1.undoPlace g line with
      | none => s1.updCore g (fun c => { c with conflict := some ⟨7, 2, ea, 0⟩ })
      | some (l, off) =>
        let b : BrineLine := ⟨line, BitVec.allOnes 128, lineOf (s1.bytes (line * 128) 128), homeTags s1 line, s1.poisoned (line * 128)⟩
        ((s1.logWrite l off (logBytes 3 b)).logMark l off b.psn).updCore g (fun c =>
          { c with mrg := c.mrg.map (fun m => { m with down := m.down + 1, undone := natIns m.undone line }) })

/-- The observed set that a release-flagged command's write carries (R122, R127). -/
def State.cmdObs (s : State) (g : Nat) (cmd : Cmd) : List Nat :=
  if cmd.ord.rel then
    (((s.core g).ctx cmd.kind.seqr).obs ++ ((s.core g).ctx cmd.forker).obs).foldl natIns []
  else []

/-- Granules of a line piece that receive a tag: whole, aligned, and tagged at their source. -/
def tagGranules (addr len : Nat) (tags : List Bool) : List Nat :=
  (List.range (len / 16 + 1)).filterMap (fun i =>
    let lo := (16 - addr % 16) % 16 + 16 * i
    if lo + 16 ≤ len ∧ ((tags.drop lo).take 16).all id ∧ lo + 16 ≤ tags.length then some (addr + lo) else none)

/-- Whether an element covers the line of an address whole with sound data; `seg` holds the address, `b` is the whole element. -/
def soundWhole (seg : Seg) (addr : Nat) (b : EngBytes) : Bool :=
  let lo := addr / 128 * 128
  decide (seg.addr ≤ lo) && decide (lo + 128 ≤ seg.addr + seg.len) && !((b.psn.drop (seg.off + (lo - seg.addr))).take 128).any id

/-- Write a part of an element at its home (R93, R133): the destination line of poisoned data becomes poisoned, a line that the
element has written whole with sound data loses its mark (R225, R436). The write joins the sequencer's observed set (R122). -/
def State.engWrite (s : State) (g : Nat) (cmd : Cmd) (ea : Word) (segs : List Seg) (t : Seg) (b : EngBytes) : State :=
  let addr := fwdAddr s t.addr
  let p := b.part t.off t.len
  let s1 := s.noteUndo g (addr / 128) ea
  let s2 := s1.writeHome ⟨addr, p.data, false, g, true, cmd.ord.rel, s1.cmdObs g cmd, false, s1.partOf g, isSvc g,
    some (cmd.kind.seqr, cmd.forker, cmd.accepted)⟩
  if reservedPA s1 (s1.partOf g) (isSvc g) addr then s2
  else
    let s3 := ((tagGranules addr t.len p.tags).foldl (fun u a => u.setTag a true) s2).observe ⟨g, cmd.kind.seqr⟩ [s1.nextWid]
    let whole := match segs.find? (fun q => decide (q.off ≤ t.off) && decide (t.off < q.off + q.len)) with
      | some q => decide ((addr + t.len) % 128 = 0) && soundWhole q t.addr b
      | none => false
    if p.psn.any id then s3.setPoison addr true else if whole then s3.setPoison addr false else s3

/-- One destination line of an encode into an active window (R107): the decoded copy of the line in its home slice and every L1 copy are
invalidated before; then bytes 16i to 16i + 15 of the block's eight planes are written in one move. No invalidation is left to send but
for a line in overflow, whose collect goes out with the write (R142). DESIGN CHOICE (log entry 52): what poisoned data marks are the
lines of all eight planes, which hold the line's bits; sound data clears the mark of the destination line alone. -/
def State.encodeLine (s0 : State) (g : Nat) (cmd : Cmd) (ea : Word) (t : Seg) (b : EngBytes) : State :=
  let addr := t.addr
  let line := addr / 128
  let i := t.off % 1024 / 128
  let s := s0.noteUndo g line ea
  let wid := s.nextWid
  let obs := s.cmdObs g cmd
  let ver := Sparse.look 0 s.lineVer line + 1
  let plane (j : Nat) : Nat := addr - 128 * i + 128 * j
  let s1 := (s.dropAll line).updSliceOf line (fun k => { k with
    present := k.present.erase line, kept := natDel k.kept line, dirty := natDel k.dirty line })
  let s2 := (List.range 8).foldl (fun u j =>
    let dst := plane j + 16 * i
    ((u.setBytes dst ((b.data.drop (128 * j + 16 * i)).take 16)).clearTags dst 16).clearErrs dst 16) s1
  let s3 := { s2 with nextWid := wid + 1, lineVer := Sparse.put 0 s2.lineVer line ver, dec := Sparse.put none s2.dec line none }
  let k := s3.sliceOf line
  let s4 := if k.ovf.contains line && !k.bc.contains line then s3.collect line wid else s3
  let kept := s4.anyInFlight wid || (cmd.ord.rel && obs.any (fun v => s4.anyInFlight v))
  let s5 := { s4 with
    recs := if kept then
        s4.recs ++ [(⟨wid, g, s4.now, cmd.ord.rel, obs, some (cmd.kind.seqr, cmd.forker, cmd.accepted)⟩ : WriteRec)]
      else s4.recs
    writers := (List.range 128).foldl (fun m k => Sparse.put 0 m (addr + k) (if kept then wid else 0)) s4.writers
    byteVer := (List.range 128).foldl (fun m k => Sparse.put 0 m (addr + k) ver) s4.byteVer }
  let bad := ((b.psn.drop (16 * i)).take 16).any id
  let s6 := if bad then (List.range 8).foldl (fun u j => u.setPoison (plane j) true) s5 else s5.setPoison addr false
  (s6.observe ⟨g, cmd.kind.seqr⟩ [wid]).prune

/-- A command's destination bytes performed so far, in the command and, while it is its channel's newest, in the write pointer (R85). -/
def State.cmdDone (s : State) (g ch i n : Nat) : State :=
  let s1 := s.updCmd g ch i (fun c => { c with done := c.done + n })
  match ((s1.core g).queueOf ch)[i]? with
  | none => s1
  | some c =>
    if ch = 4 ∨ c.num ≠ ((s1.core g).chan ch).seq then s1
    else s1.updCore g (fun k => k.setChan ch { k.chan ch with done := BitVec.ofNat 40 c.done })

end Sys2Proof.Machine
end

