-- ==== Sys2Proof/Machine/Matrix.lean ====
section
/-! DEFINITION. Group 0x8: the matrix commands as their sequencer issues them (R359), and what they do to the planes: loads of
the stationary block, passes with their exact chunk sums (R179-R181, R360, R361), drains, saves and restores (R362). -/

namespace Sys2Proof.Machine

open Sys2Proof

/-! ## Issue (R349, R359) -/

def execMlds (h : Hdr) (o : FmtE) (s : State) : Out := acceptCmd .mlds 4 h o s
def execMswp (h : Hdr) (o : FmtE) (s : State) : Out := acceptCmd .mswp 0 h o s
def execMstream (h : Hdr) (o : FmtE) (s : State) : Out := acceptCmd .mstream 4 h o s
def execMzero (h : Hdr) (o : FmtE) (s : State) : Out := acceptCmd .mzero 0 h o s
def execMdrain (h : Hdr) (o : FmtE) (s : State) : Out := acceptCmd .mdrain 4 h o s
def execMgang (h : Hdr) (o : FmtE) (s : State) : Out := acceptCmd .mgang 0 h o s
def execMfwd (h : Hdr) (o : FmtE) (s : State) : Out := acceptCmd .mfwd 0 h o s
def execMsave (h : Hdr) (o : FmtE) (s : State) : Out := acceptCmd .msave 4 h o s
def execMsaveSt (h : Hdr) (o : FmtE) (s : State) : Out := acceptCmd .msave 4 h o s
def execMrest (h : Hdr) (o : FmtE) (s : State) : Out := acceptCmd .mrest 4 h o s

/-! ## Operands of a pass -/

/-- Formats that may meet in a pass (R361). -/
def matClass (f : Nat) : Nat :=
  if f = 9 ∨ f = 0xA then 1 else if f = 0xB ∨ f = 0xC then 2 else if f = 0 then 3 else if f = 5 then 4 else 5

/-- A stationary plane, by its valid bit and format, can meet a streamed format. -/
def fmtMeets (valid : Bool) (p f : Nat) : Bool := valid && decide (matClass p = matClass f)

/-- The active plane can meet a streamed format. -/
def Stat.accepts (p : Stat) (f : Nat) : Bool := fmtMeets p.valid p.fmt f

/-- Value `k` of packed bytes, `w` bits each, low bits first (R172). -/
def packedAt (byte : Nat → Byte) (w k : Nat) : Nat :=
  if w = 4 then (byte (k / 2)).toNat / 16 ^ (k % 2) % 16
  else if w = 8 then (byte k).toNat
  else if w = 16 then (byte (2 * k)).toNat + 256 * (byte (2 * k + 1)).toNat
  else ofBytes ((List.range (w / 8)).map (fun j => byte (w / 8 * k + j)))

/-- The value of an E8M0 scale code (R173). -/
def scaleVal (code : Nat) : FVal := if code = 255 then .nan else .fin false 1 ((code : Int) - 127)

/-- An operand element with its block scale (R173). -/
def scaledVal (f raw code : Nat) : FVal :=
  if f = 0xD then (fmulV (decodeF 0xD raw) (scaleVal code)).1 else decodeF f raw

/-- The rows of A as a pass takes them: 64 rows of 128 bytes, then the scales. -/
structure PassIn where
  fmt : Nat
  rows : List Byte
  scales : List Byte
  deriving DecidableEq, Repr

def PassIn.raw (p : PassIn) (i k : Nat) : Nat := packedAt (fun n => p.rows.getD (128 * i + n) 0) (fmtBits p.fmt) k
def PassIn.val (p : PassIn) (i k : Nat) : FVal := scaledVal p.fmt (p.raw i k) (p.scales.getD (8 * i + k / 32) 0).toNat

def Stat.raw (p : Stat) (k j : Nat) : Nat :=
  packedAt (fun n => Sparse.look 0 p.elems (8192 / passDepth p.fmt * k + n)) (fmtBits p.fmt) j
def Stat.val (p : Stat) (k j : Nat) : FVal := scaledVal p.fmt (p.raw k j) (Sparse.look 0 p.scales (64 * (k / 32) + j)).toNat

/-! ## The pass (R179, R180) -/

/-- One chunk of 16 products added to a float accumulator with one rounding. -/
def chunkF (p : PassIn) (b : Stat) (i j : Nat) (acc : Nat) (c : Nat) : Nat :=
  let ps := (List.range 16).map (fun t => (fmulV (p.val i (16 * c + t)) (b.val (16 * c + t) j)).1)
  (toF 8 0 false (fsumV 0 (decodeF 8 acc :: ps)).1).raw

/-- One chunk of 16 integer products added modulo 2^32. -/
def chunkI (p : PassIn) (b : Stat) (i j : Nat) (acc : Nat) (c : Nat) : Nat :=
  let sum := (List.range 16).foldl (fun (z : Int) t =>
    z + decodeI p.fmt (p.raw i (16 * c + t)) * decodeI b.fmt (b.raw (16 * c + t) j)) 0
  (((acc : Int) + sum) % 2 ^ 32).toNat

/-- One accumulator word after a pass. -/
def passWord (p : PassIn) (b : Stat) (i j : Nat) (old : BitVec 32) : BitVec 32 :=
  let step := if fmtIsInt p.fmt then chunkI p b i j else chunkF p b i j
  BitVec.ofNat 32 ((List.range (passDepth p.fmt / 16)).foldl step old.toNat)

/-- A pass into a plane; poisoned data marks it (R361). -/
def Plane.pass (m : Plane) (p : PassIn) (b : Stat) (psn : Bool) : Plane where
  words := (List.range 4096).foldl (fun ws n =>
    Sparse.put 0 ws n (passWord p b (n / 64) (n % 64) (Sparse.look 0 m.words n))) m.words
  psn := m.psn || psn

/-! ## Planes in memory (R362) -/

/-- A row of a plane as `mdrain` writes it. -/
def Plane.drainRow (m : Plane) (f i : Nat) : List Byte :=
  (List.range 64).flatMap (fun j =>
    let w := (Sparse.look 0 m.words (64 * i + j)).toNat
    toBytes (drainWidth f) (if f = 3 then w else (convert f 8 0 false w).raw))

/-- A plane bit for bit. -/
def Plane.dump (m : Plane) : List Byte := (List.range 4096).flatMap (fun n => toBytes 4 (Sparse.look 0 m.words n).toNat)

/-- A plane read back. -/
def Plane.restore (bs : List Byte) : Plane where
  words := (List.range 4096).foldl (fun ws n => Sparse.put 0 ws n (BitVec.ofNat 32 (ofBytes ((bs.drop (4 * n)).take 4)))) []
  psn := false

/-- Bytes as a sparse map. -/
def sparseBytes (bs : List Byte) : Sparse Byte :=
  ((List.range bs.length).zip bs).filter (fun e => e.2 ≠ 0)

def denseBytes (m : Sparse Byte) (n : Nat) : List Byte := (List.range n).map (fun i => Sparse.look 0 m i)

/-- Validity and format of a stationary plane in the record of `msave.st`. -/
def Stat.head (p : Stat) : Byte := BitVec.ofNat 8 (b2n p.valid * 128 + p.fmt % 16)

/-- The layout of `msave.st`. -/
def Matrix.dumpStat (m : Matrix) : List Byte :=
  denseBytes m.act.elems 8192 ++ denseBytes m.shd.elems 8192 ++ denseBytes m.act.scales 512 ++ denseBytes m.shd.scales 512
    ++ padTo 0 64 [m.act.head, m.shd.head]

/-- Which bytes of `msave.st` are poisoned: those of a plane loaded from poisoned data (R225, R361). -/
def Matrix.dumpStatPsn (m : Matrix) : List Bool :=
  let run (n : Nat) (b : Bool) : List Bool := (List.range n).map (fun _ => b)
  run 8192 m.act.psn ++ run 8192 m.shd.psn ++ run 512 m.act.psn ++ run 512 m.shd.psn ++ run 64 false

/-- A record that `mrest` accepts. -/
def statRecordOk (r : List Byte) : Bool :=
  let ok (b : Byte) : Bool :=
    decide (b.toNat / 16 % 8 = 0) && decide (b.toNat % 16 ∈ [0x0, 0x5, 0x9, 0xA, 0xB, 0xC, 0xD])
  ok (r.getD 0 0) && ok (r.getD 1 0) && (r.drop 2).all (fun b => b == 0)

/-- A stationary plane read back; like `mrest` of an accumulator plane, it comes unmarked (R361). -/
def statOf (elems scales : List Byte) (b : Byte) : Stat :=
  ⟨b.getLsbD 7, b.toNat % 16, sparseBytes elems, sparseBytes scales, false⟩

/-- Both stationary planes read back. -/
def Matrix.restoreStat (m : Matrix) (bs : List Byte) : Matrix :=
  let r := bs.drop 17408
  { m with
    act := statOf (bs.take 8192) ((bs.drop 16384).take 512) (r.getD 0 0)
    shd := statOf ((bs.drop 8192).take 8192) ((bs.drop 16896).take 512) (r.getD 1 0) }

/-! ## Effects on the planes (R360-R363) -/

/-- A core's member number in its formed row: 0 for the first. -/
def Matrix.memberOf (m : Matrix) (g : Nat) : Nat := m.row.findIdx (fun k => k == g)

/-- What a matrix command does to the planes in its turn (R360), with its completion code. -/
def Matrix.effect (m : Matrix) (g : Nat) (c : Cmd) : Matrix × Nat :=
  let f := c.o.fmt.toNat
  let mp := c.o.mp.toNat
  let psn := c.psns.any id
  match c.kind with
  | .mlds =>
    let p : Stat := ⟨true, f, sparseBytes (c.buf.take 8192), sparseBytes ((c.buf.drop 8192).take 512), psn⟩
    ({ m with shd := p }, 0)
  | .mswp => ({ m with act := m.shd, shd := m.act }, 0)
  | .mzero => (m.setPlane mp Plane.reset, 0)
  | .mstream => (m.setPlane mp ((m.plane mp).pass ⟨f, c.buf.take 8192, c.buf.drop 8192⟩ m.act (psn || m.act.psn)), 0)
  | .mfwd =>
    if m.row.length < 2 ∨ m.memberOf g = 0 then (m, 9)
    else
      match m.fwd with
      | [] => (m, 9)
      | p :: rest =>
        let m1 := { m with fwd := rest }
        if p.fmt ≠ f ∨ !m.act.accepts f then (m1, 8)
        else (m1.setPlane mp ((m.plane mp).pass ⟨p.fmt, p.rows, p.scales⟩ m.act (p.psn || m.act.psn)), 0)
  | .mrest =>
    if c.o.dim = 0 then (m.setPlane mp (Plane.restore c.buf), 0)
    else if statRecordOk (c.buf.drop 17408) then (m.restoreStat c.buf, 0)
    else (m, 5)
  | _ => (m, 0)

/-- An `mfwd` that waits for a forwarded pass. -/
def Matrix.fwdWaits (m : Matrix) (g : Nat) (c : Cmd) : Bool :=
  c.kind == .mfwd && decide (2 ≤ m.row.length) && decide (m.memberOf g ≠ 0) && m.fwd.isEmpty

/-- The first command of the queue that has not had its effect on the planes (R360). -/
def Matrix.due (m : Matrix) : Option (Nat × Cmd) :=
  (((List.range m.cmds.length).zip m.cmds).find? (fun e => !e.2.effected))

/-- A command that has completed with its effect still to come, and whose turn it is: it was accepted before the first of the queue. -/
def Matrix.lateDue (m : Matrix) : Option Cmd :=
  match m.late, m.due with
  | c :: _, some d => if c.accepted < d.2.accepted then some c else none
  | c :: _, none => some c
  | [], _ => none

/-- A command takes its place among others in order of acceptance. -/
def insCmd (l : List Cmd) (c : Cmd) : List Cmd :=
  l.filter (fun e => decide (e.accepted < c.accepted)) ++ c :: l.filter (fun e => !decide (e.accepted < c.accepted))

/-- A completed command joins those whose effect is still to come. -/
def Matrix.putLate (m : Matrix) (c : Cmd) : Matrix := { m with late := insCmd m.late c }

/-- The commands before command `i` of the queue whose effect is still to come, in order of acceptance. -/
def Matrix.owing (m : Matrix) (i : Nat) : List Cmd :=
  match m.cmds[i]? with
  | none => []
  | some c => ((m.cmds.take i).filter (fun e => !e.effected)).foldl insCmd (m.late.filter (fun e => decide (e.accepted < c.accepted)))

/-- What a plane is known to hold in a command's turn: its valid bit and its format. -/
abbrev Seen : Type := Option (Bool × Nat)

def Stat.seen (p : Stat) : Seen := some (p.valid, p.fmt)

/-- A record that gives the planes' formats back (R362). -/
def seenOf (b : Byte) : Seen := some (b.getLsbD 7, b.toNat % 16)

/-- What an earlier command makes of the active and the shadow plane, as far as it is known before its effect: one that still reads may
stop, and then changes nothing (R360). -/
def Cmd.foresee (p : Seen × Seen) (c : Cmd) : Seen × Seen :=
  let whole := decide (c.readPos = c.srcCount)
  if c.stopped.isSome then p
  else
    match c.kind with
    | .mlds => (p.1, if whole then some (true, c.o.fmt.toNat) else none)
    | .mswp => (p.2, p.1)
    | .mrest =>
      let r := c.buf.drop 17408
      if c.o.dim = 0 then p
      else if !whole then (none, none)
      else if statRecordOk r then (seenOf (r.getD 0 0), seenOf (r.getD 1 0))
      else p
    | _ => p

/-- The active plane in the turn of command `i` of the queue (R360, R361). -/
def Matrix.foreseen (m : Matrix) (i : Nat) : Seen := ((m.owing i).foldl Cmd.foresee (m.act.seen, m.shd.seen)).1

/-- A command may have its effect: it has stopped, or has read all that its effect needs; `mgang` has formed its row, and an `mfwd`
waits for no pass. -/
def Matrix.effectReady (m : Matrix) (g : Nat) (c : Cmd) : Bool :=
  c.stopped.isSome ||
    (match c.kind with
     | .mgang => decide (c.readPos = 1)
     | .mfwd => !m.fwdWaits g c
     | _ => decide (c.readPos = c.srcCount))

/-- What `mdrain` and `msave` take of the planes as their effect, to be written to memory in its own time. -/
def Matrix.captured (m : Matrix) (c : Cmd) : List Byte × List Bool :=
  let p := m.plane c.o.mp.toNat
  match c.kind with
  | .mdrain =>
    let d := (List.range 64).flatMap (fun i => p.drainRow c.o.fmt.toNat i)
    (d, d.map (fun _ => p.psn))
  | .msave => if c.o.dim = 0 then (p.dump, p.dump.map (fun _ => p.psn)) else (m.dumpStat, m.dumpStatPsn)
  | _ => (c.buf, c.psns)

/-- A command that has completed has its effect. -/
def Matrix.actLate (m : Matrix) (g : Nat) (c : Cmd) : Matrix :=
  { (m.effect g c).1 with late := m.late.filter (fun e => decide (e.accepted ≠ c.accepted)) }

/-- A command has its effect. -/
def Matrix.act1 (m : Matrix) (g i : Nat) (c : Cmd) : Matrix :=
  let out := m.captured c
  let r := if c.stopped.isSome then (m, 0) else m.effect g c
  let mark : Cmd → Cmd := fun e => { e with
    effected := true, buf := out.1, psns := out.2, stopped := if r.2 ≠ 0 then some (r.2, 0) else e.stopped }
  { r.1 with cmds := r.1.cmds.mapIdx (fun j e => if j = i then mark e else e) }

end Sys2Proof.Machine
end

