-- ==== Sys2Proof/Machine/CopyEngine.lean ====
section
/-! DEFINITION. Group 0x9: the copy commands as their sequencer issues them (R353-R358), `cpwp` (R86, R356), the conversions of
`cpy` with tiles, trailers, MXFP4 blocks and bit planes (R173-R178, R354), and the SM3 digest of `cps` and `cpsw` (R357). -/

namespace Sys2Proof.Machine

open Sys2Proof

/-! ## Issue -/

def execCpy (h : Hdr) (o : FmtE) (s : State) : Out := acceptCmd .cpy 8 h o s
def execCps (h : Hdr) (o : FmtE) (s : State) : Out := acceptCmd .cps 8 h o s
def execCpsw (h : Hdr) (o : FmtE) (s : State) : Out := acceptCmd .cpsw 8 h o s
def execCpm (h : Hdr) (o : FmtE) (s : State) : Out := acceptCmd .cpm 8 h o s
def execCpmFin (h : Hdr) (o : FmtE) (s : State) : Out := acceptCmd .cpmFin 8 h o s

/-- `cpwp` (R86, R356): the write pointer of a channel of a core of the cluster, with an acquire at cluster scope. -/
def execCpwp (h : Hdr) (o : FmtE) (s : State) : Out :=
  issue h s .normal [] [o.d] (fun t =>
    let a := t.cur
    let c := t.me
    let k := gidOf (gidCl a.gid) (o.fmt2.toNat * 16 + o.fmt.toNat)
    let ord : Order := { Order.cluster (gidCl a.gid) with acq := true, rel := false }
    if !(orderOk t a c.seq ord && fencesOk t a c.seq true false) then .wait t
    else
      let ch := (t.core k).chan o.ch.toNat
      let v := if (t.core k).slotDom = t.here.slotDom then wd (ch.seq.toNat * 2 ^ 40 + ch.done.toNat) else 0
      .done (t.self (fun c => { (c.writeS o.d v) with acqs := c.acqs ++ [(c.seq, ord, t.now)], seq := c.seq + 1 })))

/-! ## MXFP4 blocks (R173, R174) -/

/-- The exponent of a value's leading bit. -/
def topExp (m : Nat) (e : Int) : Int := (bitLen m : Int) - 1 + e

/-- The scale exponent of a block with at least one nonzero value, all finite. -/
def mxExp (vs : List FVal) : Int :=
  vs.foldl (fun acc v => match v with
    | .fin _ m e => if m = 0 then acc else max acc (topExp m e - 2)
    | _ => acc) (-127)

/-- Encode one block: scale code, element codes, and how many saturated. -/
def mxEncode (vs : List FVal) : Nat × List Nat × Nat :=
  let special := vs.any (fun v => match v with | .fin _ _ _ => false | _ => true)
  let zero := vs.all (fun v => match v with | .fin _ m _ => decide (m = 0) | _ => false)
  if special then (255, vs.map (fun _ => 0), vs.length)
  else
    let t := mxExp vs
    let rs := vs.map (fun v => match v with
      | .fin n m e => toF 13 0 true (.fin n m (e - t))
      | _ => ⟨0, 0⟩)
    (if zero then 0 else (t + 127).toNat, rs.map (fun r => r.raw), (rs.filter (fun r => (r.flags &&& flSAT) != 0)).length)

/-! ## Tiles -/

/-- Element `k` of a byte list, `w` bits each. -/
def elemAt (bs : List Byte) (w k : Nat) : Nat := packedAt (fun n => bs.getD n 0) w k

/-- Bytes of a list of element codes. -/
def packElems (w : Nat) (xs : List Nat) : List Byte :=
  if w = 4 then (List.range (xs.length / 2)).map (fun i => BitVec.ofNat 8 (xs.getD (2 * i) 0 % 16 + 16 * (xs.getD (2 * i + 1) 0 % 16)))
  else xs.flatMap (fun x => toBytes (w / 8) x)

/-- What the encoder makes of source elements: the tile's bytes and how many elements count in SATN (R354, R176). -/
def encodeTile (f f2 : Nat) (raws : List Nat) : List Byte × Nat :=
  if f = 0xD then
    let blocks := (List.range (raws.length / 32)).map (fun b => mxEncode (((raws.drop (32 * b)).take 32).map (decodeF f2)))
    (packElems 4 (blocks.flatMap (fun b => b.2.1)) ++ blocks.map (fun b => BitVec.ofNat 8 b.1),
      (blocks.map (fun b => b.2.2)).foldl (· + ·) 0)
  else
    let rs := raws.map (fun x => (convert f f2 0 true x, match decodeF f2 x with | .nan => true | _ => false))
    (packElems (fmtBits f) (rs.map (fun r => r.1.raw)), (rs.filter (fun r => r.2 || (r.1.flags &&& flSAT) != 0)).length)

/-- MAXABS of R176, as FP32. -/
def maxAbs (f2 : Nat) (raws : List Nat) : Nat :=
  raws.foldl (fun acc x => match decodeF f2 x with
    | .fin _ m e => if fcmpV (.fin false m e) (decodeF 8 acc) = some .gt then (toF 8 0 false (.fin false m e)).raw else acc
    | _ => acc) 0

/-- A tile's trailer (R176). -/
def trailer (f f2 : Nat) (raws : List Nat) (tile : List Byte) (satn : Nat) : List Byte :=
  toBytes 4 (maxAbs f2 raws) ++ toBytes 4 (min satn 0xFFFFFFFF) ++ toBytes 4 (crc32c tile)
    ++ [BitVec.ofNat 8 (f % 16), 1, 0, 0]

/-- The check of R178 on a tile and its trailer. -/
def trailerOk (f : Nat) (tile tr : List Byte) : Bool :=
  decide (ofBytes ((tr.drop 8).take 4) = crc32c tile) && decide ((tr.getD 12 0).toNat = f) && decide (tr.getD 13 0 = 1)
    && decide (tr.getD 14 0 = 0) && decide (tr.getD 15 0 = 0)

/-- Decode element `k` of a tile exactly into FP32 or BF16 (R354). DESIGN CHOICE (log entry 33): R354 calls every source value
representable there, but an MXFP4 element under a scale of 2^126 or 2^127 can exceed the greatest finite value; it becomes an infinity, as R170 rounds with
saturation 0. -/
def decodeElem (f f2 total : Nat) (bs : List Byte) (k : Nat) : Nat :=
  if f2 = 0xD then
    (toF f 0 false (scaledVal 0xD (elemAt bs 4 k) (bs.getD (total / 2 + k / 32) 0).toNat)).raw
  else (convert f f2 0 false (elemAt bs (fmtBits f2) k)).raw

/-- One block of 1,024 values as eight planes (R175). -/
def planesOf (vs : List Byte) : List Byte :=
  (List.range 8).flatMap (fun j => (List.range 128).map (fun b =>
    BitVec.ofNat 8 ((List.range 8).foldl (fun acc i => acc + b2n ((vs.getD (8 * b + i) 0).getLsbD (7 - j)) * 2 ^ i) 0)))

/-! ## What a `cpy` writes -/

/-- The source bytes that decide destination byte `j` of a decoded row: poison travels along (R225). -/
def anyPsn (psn : List Bool) (lo n : Nat) : Bool := ((psn.drop lo).take n).any id

/-- The bytes of destination element `i` of a `cpy`, from the source bytes held. -/
def Cmd.cpyOut (c : Cmd) (i : Nat) : EngBytes :=
  let f := c.o.fmt.toNat
  let f2 := c.o.fmt2.toNat
  let plain (data : List Byte) (psn : List Bool) : EngBytes := ⟨data, psn, []⟩
  if c.o.dec then
    let w := fmtBits f / 8
    let sw := fmtBits f2
    let ks := (List.range c.n0).map (fun k => c.n0 * i + k)
    plain (ks.flatMap (fun k => toBytes w (decodeElem f f2 c.total c.buf k)))
      (ks.flatMap (fun k =>
        let p := anyPsn c.psns (k * sw / 8) ((sw + 7) / 8) || (f2 == 0xD && anyPsn c.psns (c.total / 2 + k / 32) 1)
        (List.range w).map (fun _ => p)))
  else if c.o.enc then
    let w := fmtBits f2 / 8
    if f = 0xF then
      plain (planesOf ((c.buf.drop (1024 * i)).take 1024))
        ((List.range 8).flatMap (fun _ => (List.range 128).map (fun k => anyPsn c.psns (1024 * i + 8 * k) 8)))
    else
      let raws := (List.range c.total).map (fun k => elemAt c.buf (fmtBits f2) k)
      let t := encodeTile f f2 raws
      if i = 0 then
        let per (j : Nat) : Bool :=
          if f = 0xD then
            let blk := if j < c.total / 2 then j / 16 else j - c.total / 2
            anyPsn c.psns (32 * w * blk) (32 * w)
          else
            let k := j * 8 / fmtBits f
            anyPsn c.psns (k * w) (w * (if fmtBits f = 4 then 2 else 1))
        plain t.1 ((List.range t.1.length).map per)
      else plain (trailer f f2 raws t.1 t.2) ((List.range 16).map (fun _ => c.psns.any id))
  else if c.o.chk then
    let n := tileBytes f c.total
    if i = 0 then plain (c.buf.take n) (c.psns.take n) else plain ((c.buf.drop n).take 16) ((c.psns.drop n).take 16)
  else
    let n := c.n0 * fmtBits f2 / 8
    ⟨c.buf.take n, c.psns.take n, c.bufTags.take n⟩

/-! ## SM3 (log entry 10) -/

def rotl32 (x : BitVec 32) (n : Nat) : BitVec 32 := x.rotateLeft (n % 32)

def sm3P0 (x : BitVec 32) : BitVec 32 := x ^^^ rotl32 x 9 ^^^ rotl32 x 17
def sm3P1 (x : BitVec 32) : BitVec 32 := x ^^^ rotl32 x 15 ^^^ rotl32 x 23

/-- The 64-byte blocks of a padded message. -/
def sm3Pad (m : List Byte) : List Byte :=
  let n := m.length
  let z := (119 - n % 64) % 64
  m ++ [0x80] ++ (List.range z).map (fun _ => (0 : Byte)) ++ (toBytes 8 (8 * n)).reverse

/-- A big-endian word of 32 bits. -/
def be32 (l : List Byte) : BitVec 32 := BitVec.ofNat 32 (ofBytes l.reverse)

/-- The words of the message expansion, newest first. -/
def sm3Expand : Nat → List (BitVec 32) → List (BitVec 32)
  | 0, l => l
  | n + 1, l =>
    let g (i : Nat) : BitVec 32 := l.getD i 0
    sm3Expand n ((sm3P1 (g 15 ^^^ g 8 ^^^ rotl32 (g 2) 15) ^^^ rotl32 (g 12) 7 ^^^ g 5) :: l)

def sm3Init : List (BitVec 32) :=
  [0x7380166F, 0x4914B2B9, 0x172442D7, 0xDA8A0600, 0xA96F30BC, 0x163138AA, 0xE38DEE4D, 0xB0FB0E4E]

/-- One round of the compression function. -/
def sm3Round (w : List (BitVec 32)) (v : List (BitVec 32)) (j : Nat) : List (BitVec 32) :=
  let g (i : Nat) : BitVec 32 := v.getD i 0
  let t : BitVec 32 := if j < 16 then 0x79CC4519 else 0x7A879D8A
  let ss1 := rotl32 (rotl32 (g 0) 12 + g 4 + rotl32 t j) 7
  let ss2 := ss1 ^^^ rotl32 (g 0) 12
  let ff := if j < 16 then g 0 ^^^ g 1 ^^^ g 2 else (g 0 &&& g 1) ||| (g 0 &&& g 2) ||| (g 1 &&& g 2)
  let gg := if j < 16 then g 4 ^^^ g 5 ^^^ g 6 else (g 4 &&& g 5) ||| (~~~(g 4) &&& g 6)
  let tt1 := ff + g 3 + ss2 + (w.getD j 0 ^^^ w.getD (j + 4) 0)
  let tt2 := gg + g 7 + ss1 + w.getD j 0
  [tt1, g 0, rotl32 (g 1) 9, g 2, sm3P0 tt2, g 4, rotl32 (g 5) 19, g 6]

/-- One block. -/
def sm3Block (v : List (BitVec 32)) (b : List Byte) : List (BitVec 32) :=
  let w16 := (List.range 16).map (fun i => be32 ((b.drop (4 * i)).take 4))
  let w := (sm3Expand 52 w16.reverse).reverse
  let r := (List.range 64).foldl (sm3Round w) v
  List.zipWith (· ^^^ ·) r v

/-- The SM3 digest of a message, 32 bytes. -/
def sm3 (m : List Byte) : List Byte :=
  let p := sm3Pad m
  let v := (List.range (p.length / 64)).foldl (fun v i => sm3Block v ((p.drop (64 * i)).take 64)) sm3Init
  v.flatMap (fun x => (toBytes 4 x.toNat).reverse)

/-! ## Namespace blocks (R357, R425) -/

/-- Key of byte 0 of a namespace block. -/
def storageKey (h : Handle) (block : Nat) : Nat := (h.port * 2 ^ 32 + h.ns) * 2 ^ 76 + block % 2 ^ 64 * 4096

def State.readStorage (s : State) (key n : Nat) : List Byte := (List.range n).map (fun i => Sparse.look 0 s.storage (key + i))

def State.writeStorage (s : State) (key : Nat) : List Byte → State
  | [] => s
  | b :: l => ({ s with storage := Sparse.put 0 s.storage key b }).writeStorage (key + 1) l

end Sys2Proof.Machine
end

