-- ==== Sys2Proof/Machine/EngineMoves.lean ====
section
/-! DEFINITION. The moves of the engines: reading and writing the next element of a command (R133, R134), migration line by
line (R54-R59, R358), forming a joint row (R363), and completing a command with its status and signal (R135, R350). -/

namespace Sys2Proof.Machine

open Sys2Proof

/-! ## When a command may move -/

/-- Whether a command has started, so that the next of its queue may (R133). -/
def Cmd.started (c : Cmd) : Bool :=
  decide (0 < c.readPos) || c.rat.isSome || decide (0 < c.writePos) || c.wat.isSome || c.stopped.isSome || decide (c.srcCount = 0)

/-- A command flagged to acquire starts once every earlier command of its queue is complete and the issuer's earlier stores, reducing
stores and atomics among them, are performed (R134). -/
def State.acqReady (s : State) (g i : Nat) (c : Cmd) : Bool :=
  let k := (s.core g).ctx c.forker
  !c.ord.acq || (decide (i = 0) && k.sb.all (fun e => decide (c.seqFork ≤ e.seq))
    && k.pend.all (fun e => decide (c.seqFork ≤ e.seq) || (match e.op with | .load => true | _ => false)))

/-- The first element of a command may be taken. -/
def State.mayStart (s : State) (g ch i : Nat) (c : Cmd) : Bool :=
  (((s.core g).queueOf ch).take i).all Cmd.started && s.acqReady g i c

/-- A command stops at a destination element, or for a reason that no element gives: it writes nothing more (R75, R350). -/
def Cmd.halt (c : Cmd) (cst sub : Nat) : Cmd :=
  { c with
    stopped := some (cst, sub), upTo := c.writePos, waiting := none, waitingW := none, rat := none, wat := none
    buf := [], bufTags := [], psns := [] }

def State.stopCmd (s : State) (g ch i cst sub : Nat) : State := s.updCmd g ch i (fun c => c.halt cst sub)

/-- A command stops at a source element: what the elements before it give is still performed (R350). -/
def Cmd.haltAt (c : Cmd) (cst sub : Nat) : Cmd :=
  { c with stopped := some (cst, sub), upTo := max c.writePos (c.givenBy c.readPos), row := [c.readPos], waiting := none, rat := none }

def State.stopAt (s : State) (g ch i cst sub : Nat) : State := s.updCmd g ch i (fun c => c.haltAt cst sub)

/-- An engine command misses: the side that misses waits for its translation (R37, R39). -/
def State.engMiss (s : State) (g ch i : Nat) (c : Cmd) (write : Bool) (va : Word) (prot : Bool) : State :=
  let t := s.miss ⟨g, c.kind.seqr⟩ (some ch) c.cdom.toNat (if write then kStore else kLoad) va prot
  let fs := ((t.core g).trackerFor c.cdom.toNat va).map (fun u => u.fseq)
  t.updCmd g ch i (fun c => if write then { c with waitingW := fs } else { c with waiting := fs })

/-- The bytes of a checked element. -/
def segsLen (segs : List Seg) : Nat := segs.foldl (fun n t => n + t.len) 0

/-! ## Effects on the planes in queue order (R360, R363) -/

/-- Member 0's pass goes on to the other members of its row (R363). -/
def State.forwardPass (s : State) (g : Nat) (c : Cmd) : State :=
  let m := (s.core g).matrix
  if c.kind ≠ .mstream ∨ c.stopped.isSome ∨ m.row.length < 2 ∨ m.memberOf g ≠ 0 then s
  else
    let p : FwdPass := ⟨c.o.fmt.toNat, c.buf.take 8192, c.buf.drop 8192, c.psns.any id⟩
    (m.row.drop 1).foldl (fun st k => st.updCore k (fun e =>
      { e with matrix := { e.matrix with fwd := e.matrix.fwd ++ [p] } })) s

/-- The effects that are due take place in order of acceptance, each once it is ready; a command that has completed has read all that
its effect needs. -/
def State.settle : Nat → State → Nat → State
  | 0, s, _ => s
  | fuel + 1, s, g =>
    let m := (s.core g).matrix
    match m.lateDue, m.due with
    | some c, _ => State.settle fuel ((s.forwardPass g c).updCore g (fun k => { k with matrix := k.matrix.actLate g c })) g
    | none, none => s
    | none, some (i, c) =>
      if !m.effectReady g c then s
      else State.settle fuel ((s.forwardPass g c).updCore g (fun k => { k with matrix := k.matrix.act1 g i c })) g

/-- The state in which a move of a queue is looked at. -/
def State.settled (s : State) (g ch : Nat) : State :=
  if ch = 4 then State.settle ((s.core g).matrix.cmds.length + (s.core g).matrix.late.length) s g else s

/-! ## Reading an element -/

/-- One element's bytes join what a command holds. -/
def Cmd.take (c : Cmd) (b : EngBytes) : Cmd :=
  { c with
    buf := c.buf ++ b.data, psns := c.psns ++ b.psn, bufTags := c.bufTags ++ b.tags
    readPos := c.readPos + 1, rat := none, waiting := none }

/-- Whether the device of a handle cannot give or take the namespace blocks of an element (R357): one of them errs, or the port has not
trained to an NVMe controller (R424). -/
def State.blocksBad (s : State) (c : Cmd) (hd : Handle) (pos : Nat) : Bool :=
  !(s.ready (40 + hd.port) && Sparse.look false s.dev.tierNvm hd.port) || (List.range c.perElem).any (fun j => s.dev.badBlocks.contains (storageKey hd ((c.reg 5).toNat + c.perElem * pos + j)))

/-- The effect of reading one element: `b` holds what memory gave. For `cps` the block comes from storage, compared with
the digest under CHK (R357); a tile under CHK is checked once it is whole (R178). -/
def State.takeElem (s : State) (g ch i : Nat) (c : Cmd) (b : EngBytes) : State :=
  let part := (s.cluster (gidCl g)).part
  let s0 := if b.psn.any id then s.mergeFail g else s
  match c.kind with
  | .cps =>
    match s0.handle? part (bits (c.reg 4) 63 48) with
    | none => s0.stopAt g ch i 0xB 0
    | some hd =>
      if s0.blocksBad c hd c.readPos then s0.stopAt g ch i 0xB 0
      else
        let n := 4096 * c.perElem
        let data := s0.readStorage (storageKey hd ((c.reg 5).toNat + c.perElem * c.readPos)) n
        let bad := c.o.chk && (decide (sm3 data ≠ b.data) || b.psn.any id)
        let blk : EngBytes := if bad then ⟨(List.range n).map (fun _ => 0), (List.range n).map (fun _ => true), []⟩
          else ⟨data, data.map (fun _ => false), []⟩
        s0.updCmd g ch i (fun _ => { (c.take blk) with bad := c.bad + b2n bad })
  | .cpy =>
    let c1 := c.take b
    if c.o.chk then
      let n := tileBytes c.o.fmt2.toNat c.total
      if trailerOk c.o.fmt2.toNat (c1.buf.take n) (c1.buf.drop n) then s0.updCmd g ch i (fun _ => c1)
      else (s0.count 8 (gidCl g) 1).stopCmd g ch i 4 0
    else
      let lc := bit (c.cap 0).md permLoadCap
      s0.updCmd g ch i (fun _ => if lc then c1 else { c1 with bufTags := c1.bufTags.map (fun _ => false) })
  | _ => s0.updCmd g ch i (fun _ => c.take b)

/-- The members of the joint row of a core's task: the core alone without one. -/
def State.rowOf (s : State) (g : Nat) : List Nat := match (s.core g).task with | some t => t.members | none => [g]

/-- The other members that command `i` of a queue forwards its pass to, and the passes of earlier commands that are still to come to them
beside those they hold: after an `mgang` whose row is still to form they hold none (R363). -/
def State.passTo (s : State) (g i : Nat) : List (Nat × Nat) :=
  let m := (s.core g).matrix
  let l := (m.owing i).filter (fun e => e.stopped.isNone)
  let gang := l.any (fun e => e.kind == .mgang)
  let row := if gang then s.rowOf g else m.row
  let more := ((l.reverse.takeWhile (fun e => e.kind != .mgang)).filter (fun e => e.kind == .mstream)).length
  if row.length < 2 ∨ row.head? ≠ some g then []
  else (row.drop 1).map (fun k => (k, (if gang then 0 else (s.core k).matrix.fwd.length) + more))

/-- The pass of command `i` may start: its format is compared first with that of the plane that is active in its turn, which the
commands before it may still change (R360, R361), and every other member of a formed row has room for the pass (R363). -/
def State.passGate (s : State) (g i : Nat) (c : Cmd) : Option Bool :=
  if c.kind ≠ .mstream ∨ 0 < c.readPos ∨ c.rat.isSome then some true
  else
    match (s.core g).matrix.foreseen i with
    | none => some false
    | some p => if !fmtMeets p.1 p.2 c.o.fmt.toNat then none else some ((s.passTo g i).all (fun e => decide (e.2 < 2)))

/-- Whether a part of an element lies in a hole: its line is one access there (R112). -/
def State.holeAt (s : State) (g : Nat) (t : Seg) : Bool := reservedPA s (s.partOf g) (isSvc g) (fwdAddr s t.addr)

/-- A command reads the next part of the element under way: a line of it, or `cut` bytes (R129). -/
def State.readPart (s : State) (g ch i : Nat) (c : Cmd) (e : EngAt) (cut : Option Nat) : Option State :=
  match partAt e.segs e.n with
  | none => none
  | some t0 =>
    let t := match cut with | none => t0 | some n => if s.holeAt g t0 then t0 else t0.cut n (fun a => s.tagAt (fwdAddr s a))
    match s.askEng g ch c false (decide (t.len < t0.len)) (effPolicy t.attr 0) t with
    | .no => none
    | .wait u => some u
    | .go u =>
      let r := u.engRead g c t
      let len := segsLen e.segs
      let buf := c.buf ++ r.1.data
      let psns := c.psns ++ r.1.psn
      let tags := c.bufTags ++ r.1.tags
      if e.n + t.len < len then
        some (r.2.updCmd g ch i (fun c => { c with buf := buf, psns := psns, bufTags := tags, rat := some { e with n := e.n + t.len } }))
      else
        let k := buf.length - len
        let c1 : Cmd := { c with buf := buf.take k, psns := psns.take (psns.length - len), bufTags := tags.take (tags.length - len) }
        some (r.2.takeElem g ch i c1 ⟨buf.drop k, psns.drop (psns.length - len), tags.drop (tags.length - len)⟩)

/-- A command reads part of its next source element at the home; none when it cannot (R133). -/
def State.engineRead (s0 : State) (g ch i : Nat) (cut : Option Nat) : Option State :=
  let s := s0.settled g ch
  let k := s.core g
  match (k.queueOf ch)[i]? with
  | none => none
  | some c =>
    if k.stopped || c.stopped.isSome || c.waiting.isSome || decide (c.srcCount ≤ c.readPos) then none
    else if (decide (c.readPos = 0) && c.rat.isNone) && !s.mayStart g ch i c then none
    else
      match s.passGate g i c with
      | none => some (s.stopCmd g ch i 8 0)
      | some false => none
      | some true =>
        match c.rat, c.srcElem c.readPos with
        | some e, _ => s.readPart g ch i c e cut
        | none, none => some (s.takeElem g ch i c EngBytes.none)
        | none, some e =>
          match engCheck s g c e c.srcPerms false with
          | .stop cst sub => some (s.stopAt g ch i cst sub)
          | .miss va prot => some (s.engMiss g ch i c false va prot)
          | .ok segs used =>
            if segs.isEmpty then some (s.takeElem g ch i c EngBytes.none)
            else
              let a : EngAt := ⟨segs, viaOf used, 0⟩
              let s1 := (s.touchAll g used).updCmd g ch i (fun c => { c with rat := some a })
              some ((s1.readPart g ch i { c with rat := some a } a cut).getD s1)

/-! ## Writing an element -/

/-- The bytes of destination element `i` of a command. -/
def Cmd.out (c : Cmd) (i : Nat) : EngBytes :=
  match c.kind with
  | .cpy => c.cpyOut i
  | .mdrain => let n := 64 * drainWidth c.o.fmt.toNat; ⟨(c.buf.drop (n * i)).take n, (c.psns.drop (n * i)).take n, []⟩
  | .msave => ⟨c.buf, c.psns, []⟩
  | .cpsw =>
    let n := 4096 * c.perElem
    let d := sm3 (c.buf.take n)
    let p := (c.psns.take n).any id
    ⟨d, d.map (fun _ => p), []⟩
  | _ => let n := 4096 * c.perElem; ⟨c.buf.take n, c.psns.take n, []⟩

/-- Whether the source bytes of the next destination element are held. -/
def Cmd.outReady (c : Cmd) : Bool :=
  match c.kind with
  | .cpy =>
    if c.o.enc || c.o.dec || c.o.chk then decide (c.readPos = c.srcCount) || c.stopped.isSome else decide (c.writePos < c.readPos)
  | .cps => decide (c.writePos < c.readPos)
  | .cpsw => decide (c.writePos < c.readPos)
  | _ => c.effected

/-- A row or block that leaves a command's buffer once written. -/
def Cmd.wrote (c : Cmd) (n : Nat) : Cmd :=
  let rows : Bool := match c.kind with | .cpy => !(c.o.enc || c.o.dec || c.o.chk) | .cps => true | .cpsw => true | _ => false
  let c1 := { c with writePos := c.writePos + 1, wat := none, waitingW := none }
  if rows then { c1 with buf := c.buf.drop n, psns := c.psns.drop n, bufTags := c.bufTags.drop n } else c1

/-- Keep only the tags a plain copy may carry: the source granule aligned as the destination, store-capability held
(R355). -/
def Cmd.outTags (c : Cmd) (e : EngElem) (b : EngBytes) : EngBytes :=
  let plain := c.kind == .cpy && !(c.o.enc || c.o.dec || c.o.chk)
  let src := match c.srcElem c.writePos with | some x => x.ea.toNat | none => 1
  if plain && bit (c.cap 2).md permStoreCap && decide (src % 16 = e.ea.toNat % 16) then b else { b with tags := [] }

/-- `cpsw`: one element goes to the namespace (R357); none where the device errs. -/
def State.storageOut (s : State) (g : Nat) (c : Cmd) : Option State :=
  match s.handle? (s.cluster (gidCl g)).part (bits (c.reg 4) 63 48) with
  | none => none
  | some hd =>
    if s.blocksBad c hd c.writePos then none
    else some (s.writeStorage (storageKey hd ((c.reg 5).toNat + c.perElem * c.writePos)) (c.buf.take (4096 * c.perElem)))

/-- The destination bytes that one element adds to DONE (R85, R350). -/
def Cmd.doneBytes (c : Cmd) (len : Nat) : Nat := if c.kind = .cpsw then 4096 * c.perElem else len

/-- The values that a command encodes into the window's block under way, as a line that a migration has moved out of the window takes
them. -/
def Cmd.blockValues (c : Cmd) : EngBytes := ⟨(c.buf.drop (1024 * c.writePos)).take 1024, (c.psns.drop (1024 * c.writePos)).take 1024, []⟩

/-- A command writes the next part of the element under way: a line of it, a line of planes in an active window (R107), or `cut`
bytes. DESIGN CHOICE (log entry 52): where a migration has moved the window's line, the new home takes the line's values, as reads of it
give them. -/
def State.writePart (s : State) (g ch i : Nat) (c : Cmd) (el : EngElem) (e : EngAt) (cut : Option Nat) : Option State :=
  match partAt e.segs e.n with
  | none => none
  | some t0 =>
    let win := c.kind == .cpy && decide (c.o.fmt = 0xF) && !isScratch t0.addr && (windowOf s t0.addr).isSome
    let enc := win && decide (fwdAddr s t0.addr = t0.addr)
    let b := if win && !enc then c.blockValues else c.outTags el (c.out c.writePos)
    let tagged (a : Nat) : Bool := b.tags.getD (a - t0.addr + t0.off) false
    let t := match cut with | none => t0 | some n => if win || s.holeAt g t0 then t0 else t0.cut n tagged
    match s.askEng g ch c true (decide (t.len < t0.len)) (if enc then 4 else effPolicy t.attr 0) t with
    | .no => none
    | .wait u => some u
    | .go u =>
      if !u.undoMay g (fwdAddr u t.addr / 128) then none
      else
        let u1 := if enc then u.encodeLine g c el.ea t b else u.engWrite g c el.ea e.segs t b
        if e.n + t.len < segsLen e.segs then
          some (u1.updCmd g ch i (fun c => { c with wat := some { e with n := e.n + t.len } }))
        else
          let n := c.doneBytes el.len
          some ((u1.updCmd g ch i (fun c => c.wrote n)).cmdDone g ch i n)

/-- A command performs part of its next destination element; none when it cannot. The Rake lets an element under way come to its
end (R223). -/
def State.engineWrite (s0 : State) (g ch i : Nat) (cut : Option Nat) : Option State :=
  let s := s0.settled g ch
  let k := s.core g
  match (k.queueOf ch)[i]? with
  | none => none
  | some c =>
    if (k.stopped && c.wat.isNone) || decide (c.dstLimit ≤ c.writePos) || !c.outReady || c.waitingW.isSome then none
    else if c.srcCount = 0 && !s.mayStart g ch i c then none
    else
      match c.wat, c.dstNow c.writePos with
      | some e, some el => s.writePart g ch i c el e cut
      | _, none =>
        match s.storageOut g c with
        | none => some (s.stopCmd g ch i 0xB 0)
        | some s1 =>
          let n := c.doneBytes 0
          some ((s1.updCmd g ch i (fun c => c.wrote n)).cmdDone g ch i n)
      | none, some el =>
        match engCheck s g c el c.dstPerms true with
        | .stop cst sub => some (s.stopCmd g ch i cst sub)
        | .miss va prot => some (s.engMiss g ch i c true va prot)
        | .ok segs used =>
          if segs.isEmpty then some (s.updCmd g ch i (fun c => c.wrote 0))
          else
            let a : EngAt := ⟨segs, viaOf used, 0⟩
            match (if c.kind = .cpsw then s.storageOut g c else some s) with
            | none => some (s.stopCmd g ch i 0xB 0)
            | some s1 =>
              let s2 := (s1.touchAll g used).updCmd g ch i (fun c => { c with wat := some a })
              some ((s2.writePart g ch i { c with wat := some a } el a cut).getD s2)

/-! ## Migration (R54-R59, R358) -/

/-- What translating the page of a migration comes to. -/
inductive PageTry where
  | ok (e : TlbEntry)
  | stop (cst sub : Nat)
  | miss (va : Word) (prot : Bool)

/-- The page that a migration command names (R358). -/
def migPage (s : State) (g : Nat) (c : Cmd) : PageTry :=
  match capCheck (c.cap 0) [permLoad, permStore, permEngine] (c.reg 0) 1 with
  | some cause => .stop 6 cause
  | none =>
    if scratchLo ≤ (c.reg 0).toNat then .stop 2 0
    else
      match (s.core g).lookup (c.reg 0) c.cdom.toNat with
      | none => .miss (c.reg 0) false
      | some e => .ok e

/-- The first frame address and the bytes of a page. -/
def TlbEntry.frame (e : TlbEntry) : Nat := e.pfn * 65536
def TlbEntry.bytes (e : TlbEntry) : Nat := 2 ^ pageBits e.size

/-- Whether a migration's destination can be reached; a physical address has 52 bits (R10). -/
def migReach (s : State) (dst bytes : Nat) : Bool :=
  decide (dst + bytes ≤ 2 ^ 52) && !reservedPA s none false dst && !reservedPA s none false (dst + bytes - 1)
    && !notReadyPA s none false dst

/-- Whether a line stands in a cache, or a core's copy of it is known to its handler alone. -/
def State.cached (s : State) (line : Nat) : Bool :=
  let k := s.sliceOf line
  k.present.contains line || k.ovf.contains line || !(s.keepers line).isEmpty

/-- A request that the copy engine makes to a home slice for a whole line (R93, R397); log entry 35. -/
def State.noteReq (s : State) (pa : Nat) : State :=
  if isScratch pa || reservedPA s none true pa then s else s.updSliceOf (pa / 128) (fun k => { k with req := k.req + 1 })

/-- Copy one line from home to home, whole and indivisibly: its data, decoded in a window, its tags, its poison and the writes it holds
move along (R56, R106, R436). An uncorrectable error poisons the destination line and counts, as does a source in a hole (R58, R112). On
the way `back` to a source in a window its planes are left as they are (log entry 52). -/
def State.copyLine (s0 : State) (a b : Nat) (back : Bool) : State :=
  let hole := !back && reservedPA s0 none false a
  let s := (if hole then s0.countHole a else (s0.scrubRead a 128).noteDecode a 4).noteReq b
  if (windowOf s b).isSome then s
  else
    let s2 := ((s.setBytes b (lineBytes (homeLine s (a / 128)))).clearTags b 128).clearErrs b 128
    let s3 := (List.range 8).foldl (fun st i => if (homeTags s (a / 128)).getLsbD i then st.setTag (b + 16 * i) true else st) s2
    let s4 := s3.setPoison b (hole || linePoison s a)
    let put (from_ to_ : Sparse Nat) : Sparse Nat :=
      (List.range 128).foldl (fun m i => Sparse.put 0 m (b + i) (Sparse.look 0 from_ (a + i))) to_
    { s4 with
      writers := put s.writers s4.writers
      byteVer := put s.byteVer s4.byteVer
      lineVer := Sparse.put 0 s4.lineVer (b / 128) (Sparse.look 0 s.lineVer (a / 128))
      dec := Sparse.put none s4.dec (b / 128) none }

/-- A line of a migration takes its next step: dirty copies go back and every sharer is invalidated first, at both homes; then the line
is copied, a read and a write at the home slices (R56, R93, R100). A quiesce of either line holds it (R113). -/
def State.moveLine (s : State) (a b : Nat) (back : Bool) (done : State → State) : Option State :=
  if s.quiesced (a / 128) || s.quiesced (b / 128) then none
  else if s.cached (a / 128) then s.evictStep (a / 128)
  else if s.cached (b / 128) then s.evictStep (b / 128)
  else if (!back && notReadyPA s none false a) || !s.missRoom a then none
  else some (done (((s.noteReq a).noteMiss a).copyLine a b back))

/-- The migration that a command drives. -/
def State.migOf (s : State) (src dst : Nat) : Option Migration := s.dev.migs.find? (fun m => !m.moved && m.src == src && m.dst == dst)

def State.updMig (s : State) (src dst : Nat) (f : Migration → Migration) : State :=
  s.updDev (fun d => { d with migs := d.migs.map (fun m => if !m.moved ∧ m.src = src ∧ m.dst = dst then f m else m) })

/-- Lines that earlier migrations had moved lie at their old place again, or are free of forwarding: those whose new home is in a range. -/
def State.dropMoved (s : State) (dst bytes : Nat) : State :=
  s.updDev (fun d => { d with migs := d.migs.filter (fun m => !(m.moved && decide (dst ≤ m.dst) && decide (m.dst < dst + bytes))) })

/-- A migration's record is freed. -/
def State.dropMig (s : State) (src dst : Nat) : State :=
  let n := match s.migOf src dst with | some m => m.bytes | none => 0
  (s.dropMoved dst n).updDev (fun d => { d with migs := d.migs.filter (fun m => m.moved || !(m.src == src && m.dst == dst)) })

/-- A migration copies line `k / 128` of its page from where the line lies now (R57): one that an earlier migration had moved lies
elsewhere than in the frame, and an access by way of that place is forwarded too. -/
def State.moveOn (s : State) (src dst k : Nat) (done : State → State) : Option State :=
  let a := fwdAddr s (src + k)
  s.moveLine a (dst + k) false (fun u =>
    done (if a = src + k then u else u.updDev (fun d => { d with migs := d.migs ++ [⟨a, dst + k, 128, 1, false, true⟩] })))

/-- A copied line goes back to where it lay before (R58). -/
def State.moveBack (s : State) (src dst k : Nat) : Option State :=
  let free (u : State) : State := (u.dropMoved (dst + k) 128).updMig src dst (fun m => { m with copied := k / 128 })
  s.moveLine (dst + k) (fwdAddr (free s) (src + k)) true free

/-- A migration begins: its record stands in the controller of the page's first line, which holds eight (R56, log entry 35). A destination
in an active window takes no write of a command without its encode flag (R107). -/
def State.cpmStart (s : State) (g ch i : Nat) (c : Cmd) : Option State :=
  match migPage s g c with
  | .stop cst sub => some (s.stopCmd g ch i cst sub)
  | .miss va prot => some (s.engMiss g ch i c false va prot)
  | .ok e =>
    let dst := (c.reg 4).toNat
    let s1 := s.touchAll g [e]
    if e.pin then some (s1.stopCmd g ch i 0xC 0)
    else if dst % e.bytes ≠ 0 then some (s1.stopCmd g ch i 5 0)
    else if !migReach s dst e.bytes then some (s1.stopCmd g ch i 0xD 0)
    else if inWindow s dst e.bytes then some (s1.stopCmd g ch i 3 0)
    else if 8 ≤ (s.dev.migs.filter (fun m => !m.moved && decide (s.ctlOf m.src = s.ctlOf e.frame))).length then none
    else
      let s2 := s1.updDev (fun d => { d with migs := d.migs ++ [⟨e.frame, dst, e.bytes, 0, true, false⟩] })
      some (s2.updCmd g ch i (fun c => { c with
        readPos := 1, waiting := none, row := [e.frame, e.bytes], rat := some ⟨[], viaOf [e], 0⟩ }))

/-- `cpm` takes its next step: its record first, then its lines in ascending order. Once the destination is unreachable, or has become part
of a window, the copied lines go back, the last first, and forwarding ends (R58, R107). -/
def State.cpmStep (s : State) (g ch i : Nat) (c : Cmd) : Option State :=
  if c.readPos = 0 then (if c.waiting.isSome ∨ !s.mayStart g ch i c then none else s.cpmStart g ch i c)
  else
    let src := c.row.getD 0 0
    let bytes := c.row.getD 1 0
    let dst := (c.reg 4).toNat
    let undo (cst : Nat) : Option State := some (s.updCmd g ch i (fun c => { c with row := [src, bytes, cst] }))
    match s.migOf src dst, c.row[2]? with
    | none, _ => some (s.stopCmd g ch i 0xD 0)
    | some m, some cst =>
      if m.copied = 0 then some ((s.dropMig src dst).stopCmd g ch i cst 0) else s.moveBack src dst (128 * (m.copied - 1))
    | some m, none =>
      if bytes / 128 ≤ m.copied then none
      else if !migReach s dst bytes then undo 0xD
      else if inWindow s dst bytes then undo 3
      else
        s.moveOn src dst (128 * m.copied) (fun u =>
          (u.updMig src dst (fun m => { m with copied := m.copied + 1, copying := decide (m.copied + 1 < bytes / 128) })).cmdDone g ch i 128)

/-- `cpm.fin`: forwarding ends, or no record matches (R358). -/
def State.cpmFinStep (s : State) (g ch i : Nat) (c : Cmd) : Option State :=
  if 0 < c.readPos ∨ c.waiting.isSome ∨ !s.mayStart g ch i c then none
  else
    match migPage s g c with
    | .stop cst sub => some (s.stopCmd g ch i cst sub)
    | .miss va prot => some (s.engMiss g ch i c false va prot)
    | .ok e =>
      let dst := (c.reg 4).toNat
      let s1 := s.touchAll g [e]
      match s.dev.migs.find? (fun m => !m.moved && m.dst == dst && (m.src == e.frame || m.dst == e.frame)) with
      | none => some (s1.stopCmd g ch i 0x10 0)
      | some m => some ((s1.dropMig m.src m.dst).updCmd g ch i (fun c => { c with readPos := 1, waiting := none }))

/-- The step of a migration command; none when the command is none, or cannot move. -/
def State.migStep (s : State) (g ch i : Nat) : Option State :=
  match ((s.core g).queueOf ch)[i]? with
  | none => none
  | some c =>
    if (s.core g).stopped || c.stopped.isSome then none
    else if c.kind = .cpm then s.cpmStep g ch i c
    else if c.kind = .cpmFin then s.cpmFinStep g ch i c
    else none

/-! ## Joint rows (R363) -/

/-- The command of the matrix queue whose effect is due is an `mgang` that waits for its row. -/
def State.gangWaits (s : State) (g : Nat) : Bool :=
  match (s.core g).matrix.lateDue, (s.core g).matrix.due with
  | none, some (_, c) => c.kind == .mgang && decide (c.readPos = 0) && c.stopped.isNone && !(s.core g).stopped
  | _, _ => false

/-- One member's `mgang` has its effect: the row stands. -/
def State.joinRow (s : State) (k : Nat) (row : List Nat) : State :=
  match (s.core k).matrix.due with
  | none => s
  | some (i, _) =>
    (s.updCmd k 4 i (fun c => { c with readPos := 1 })).updCore k (fun c => { c with matrix := { c.matrix with row := row, joined := false, fwd := [] } })

/-- The row of a core forms once every member has arrived. -/
def State.formRow (s0 : State) (g : Nat) : Option State :=
  let row := s0.rowOf g
  let s := row.foldl (fun st k => st.settled k 4) s0
  if row.all s.gangWaits && row.contains g then some (row.foldl (fun st k => st.joinRow k row) s) else none

/-! ## Completion (R135, R350) -/

/-- A command that reads all that its effect needs has performed its last access then: its effect may come after its completion, behind
those of earlier commands (R135, R360). -/
def Cmd.readsOnly (c : Cmd) : Bool := match c.kind with | .mlds => true | .mstream => true | .mrest => true | _ => false

/-- Every access of a command is performed; one that makes none is over with its effect. -/
def State.cmdFinished (s : State) (c : Cmd) : Bool :=
  if c.stopped.isSome then decide (c.dstLimit ≤ c.writePos)
  else
    match c.kind with
    | .cpmFin => decide (c.readPos = 1)
    | .cpm => (match s.migOf (c.row.getD 0 0) (c.reg 4).toNat with
        | some m => decide (c.readPos = 1) && decide (c.row.getD 1 0 / 128 ≤ m.copied)
        | none => false)
    | .mgang => c.effected
    | _ => decide (c.readPos = c.srcCount) && decide (c.writePos = c.dstCount) && (!c.kind.isMatrix || c.readsOnly || c.effected)

/-- Writes of a command that are still recorded. -/
def State.cmdWrites (s : State) (g : Nat) (c : Cmd) : List Nat :=
  (s.recs.filter (fun r => r.gid == g && decide (r.eng = some (c.kind.seqr, c.forker, c.accepted)))).map (fun r => r.wid)

/-- Whether a command can complete. -/
def State.canComplete (s : State) (g i : Nat) (c : Cmd) : Bool :=
  s.cmdFinished c && (c.stopped.isSome || s.acqReady g i c)
    && (!c.ord.rel || (s.cmdWrites g c).all (fun w => !s.inFlightTo w c.ord g))

/-- The status word (R350). -/
def statusWord (cst sub bad done : Nat) : Word :=
  wd (cst * 2 ^ 56 + sub * 2 ^ 52 + min bad 0xFFF * 2 ^ 40 + done % 2 ^ 40)

/-- The completion code of a command: that of its stop, or of what it did (R350). A record that `mrest` does not accept is known once it
is read (R362). -/
def Cmd.code (c : Cmd) : Nat × Nat :=
  match c.stopped with
  | some p => p
  | none => (if c.kind = .mrest ∧ !c.effected ∧ c.o.dim ≠ 0 ∧ !statRecordOk (c.buf.drop 17408) then 5 else if c.bad ≠ 0 then 0xA else 0, 0)

/-- A command leaves its queue; one whose effect is still to come is kept for its turn (R360). -/
def Core.leaveQueue (k : Core) (ch i : Nat) (c : Cmd) : Core :=
  let k1 := k.setQueue ch ((k.queueOf ch).eraseIdx i)
  if ch = 4 ∧ c.readsOnly ∧ !c.effected ∧ c.stopped.isNone then { k1 with matrix := k1.matrix.putLate c } else k1

/-- Command `i` of a queue completes: D, then its signal; a command that the Rake halted does not signal (R223). -/
def State.engineComplete (s0 : State) (g ch i : Nat) : Option State :=
  let s := s0.settled g ch
  match ((s.core g).queueOf ch)[i]? with
  | none => none
  | some c =>
    if !s.canComplete g i c then none
    else
      let code := c.code
      let ws := if c.ord.rel ∧ c.h.si ≠ 0 then s.cmdWrites g c else []
      let s3 := s.updCore g (fun k => k.leaveQueue ch i c)
      let s4 := s3.updCtx ⟨g, c.kind.seqr⟩ (fun x => x.writeX (opNum c.o.d) (statusWord code.1 code.2 c.bad c.done))
      let s5 := s4.updCore g (fun k =>
        if ws.isEmpty then k
        else
          let old := Sparse.look [] k.relSig c.h.ss.toNat
          { k with relSig := Sparse.put [] k.relSig c.h.ss.toNat (ws.foldl natIns old) })
      some (if code.1 = 7 then s5 else s5.signal g c.h)

end Sys2Proof.Machine
end

