-- ==== Sys2Proof/Machine/Exchange.lean ====
section
/-! DEFINITION. Group 0xA: messages (R364, R365, R214, R215), exchange phases (R366, R367), and collectives with their reduction
and checksums (R368, R369). -/

namespace Sys2Proof.Machine

open Sys2Proof

/-! ## Messages -/

/-- A receive queue has 64 entries (R213). -/
def Core.queueFull (c : Core) : Bool := decide (64 ≤ c.recvq.length) && decide (c.mqosSize.toNat ≤ c.ovq.length)

/-- The 64 message bytes of a vector value: lanes 0 to 15. -/
def msgBytes (v : Line) : List Byte := (lineBytes v).take 64

/-- `send` (R364, R215). -/
def execSend (h : Hdr) (o : FmtXC) (s : State) : Out :=
  issue h s .illegal [o.a, o.b] [o.d] (fun t =>
    let a := t.cur
    let ra := t.me.readV o.a
    let rb := ra.2.readS o.b
    let w := rb.1
    let data := msgBytes ra.1
    let ubh := bit w 16
    let dirp := bit w 15
    let sl := bits w 14 11
    let cl := bits w 10 8
    let idx := bits w 7 0
    let refuse := Res.done (t.setCtx a (rb.2.writePO o.d false))
    let put (f : Flight) : State := { (t.setCtx a (rb.2.writePO o.d true)) with flights := t.flights ++ [f] }
    if bits w 63 17 ≠ 0 then refuse
    else if ubh then
      if dirp ∨ sl ≠ 0 ∨ cl ≠ 0 ∨ idx ≠ 0 then refuse
      else .done (put (.ubhal a.gid t.me.level t.me.cdom.toNat t.myCluster.part data))
    else if dirp then
      if !isSvc a.gid ∨ t.me.level = .user ∨ cl ≠ gidCl a.gid then refuse
      else .done (put (.dir cl sl data))
    else
      let g := gidOf cl idx
      if (t.core g).slotDom ≠ t.here.slotDom then refuse
      else if (t.core g).queueFull then .keep (t.upcallOrTrap a h 9 0 w 0 0 8)
      else
        .done ((put (.msg g ⟨data, false, 0, gidCl a.gid, gidIdx a.gid⟩)).updCore a.gid (fun c => { c with msgSent := c.msgSent + 1 })))

/-- Where the next overflow entry goes: behind the newest of the ring, whatever SPILL counts (R214). -/
def Core.spillSlot (c : Core) : Nat :=
  match c.ovq.getLast? with
  | none => c.mqosSpill.toNat % c.mqosSize.toNat
  | some e => ((e.addr - c.mqoa.toNat) / 64 + 1) % c.mqosSize.toNat

/-- A message enters the receive queue, or the overflow region behind it; it waits while both are full (R214). -/
def State.enqueueMsg (s : State) (g : Nat) (m : Msg) : Option State :=
  let c := s.core g
  if c.recvq.length < 64 ∧ c.ovq.isEmpty then
    some (s.updCore g (fun c => { c with recvq := c.recvq ++ [m], msgRecv := c.msgRecv + 1 }))
  else if c.mqosSize.toNat ≤ c.ovq.length then none
  else
    let at' := c.mqoa.toNat + 64 * c.spillSlot
    if !s.devMay false (s.devLines at' 64) then none
    else
      some ((s.physWrite devUnit false at' m.bytes).updCore g (fun c =>
        { c with ovq := c.ovq ++ [⟨at', m.sys, m.sknd, m.cl, m.idx⟩], mqosSpill := c.mqosSpill + 1, msgRecv := c.msgRecv + 1 }))

/-- The oldest overflow entries move into the queue while it has room (R214) and their memory can be read. -/
def State.refill (g : Nat) : Nat → State → State
  | 0, s => s
  | fuel + 1, s =>
    match (s.core g).ovq with
    | [] => s
    | e :: more =>
      if 64 ≤ (s.core g).recvq.length then s
      else
        match s.devGet true (s.devLines e.addr 64) with
        | .no => s
        | .wait u => u
        | .go u =>
          let r := u.devRead e.addr 64
          State.refill g fuel (r.2.updCore g (fun c => { c with recvq := c.recvq ++ [⟨r.1, e.sys, e.sknd, e.cl, e.idx⟩], ovq := more }))

/-- Take the oldest entry, if there is one; overflow entries move into the queue. -/
def State.popMsg (s0 : State) (g : Nat) : Option Msg × State :=
  let s := State.refill g (s0.core g).ovq.length s0
  match (s.core g).recvq with
  | [] => (none, s)
  | m :: rest => (some m, State.refill g (s.core g).ovq.length (s.updCore g (fun c => { c with recvq := rest })))

/-- What `recv` writes (R365). -/
def recvLine (m : Msg) : Line :=
  let w := b2n m.sys * 2 ^ 31 + m.sknd % 16 * 2 ^ 26 + (if m.sys then 0 else m.cl % 8 * 256 + m.idx % 256)
  lineOf (padTo 0 64 m.bytes ++ toBytes 4 w)

/-- The value of `recv.t` on an empty queue. -/
def emptyLine : Line := lineOf (padTo 0 64 [] ++ toBytes 4 (2 ^ 30))

def execRecv (h : Hdr) (o : FmtXC) (s : State) : Out :=
  issue h s .illegal [] [o.d] (fun t =>
    match t.popMsg t.cur.gid with
    | (none, t1) => .wait t1
    | (some m, t1) => .done (t1.self (fun c => c.writeVO o.d (recvLine m))))

def execRecvT (h : Hdr) (o : FmtXC) (s : State) : Out :=
  issue h s .illegal [] [o.d] (fun t =>
    match t.popMsg t.cur.gid with
    | (none, t1) => .done (t1.self (fun c => c.writeVO o.d emptyLine))
    | (some m, t1) => .done (t1.self (fun c => c.writeVO o.d (recvLine m))))

/-! ## Exchange phases -/

def execXphase (h : Hdr) (o : FmtXC) (s : State) : Out :=
  issue h s .illegal [o.b] [o.d] (fun t =>
    let q := t.me.scopeArg o.b
    if o.idx = 0 ∨ !q.ok ∨ (!q.core && decide (bits q.scope 39 32 ≠ 0)) then .illegal
    else arrive t h o.d (.xphase q.scope q.core o.idx.toNat) (scopeCores q t.cur.gid) 0 0 Cap.null)

/-- The phase cycle that runs now in an open phase: before its first cycle, in a cycle, or none when no phase is open. No phase cycle
passes in a bubble (R434). -/
inductive PhaseAt where
  | before
  | cycle (n : Nat)
  | none
  deriving DecidableEq, Repr

def State.phaseAt (s : State) (g : Nat) : PhaseAt :=
  match (s.core g).phase with
  | none => .none
  | some p =>
    let now := s.dev.cyc
    if now < p.start then .before
    else if now < p.start + p.len then .cycle (now - p.start)
    else .none

/-- Whether an instruction for phase cycle `c` is late as it issues (R367). -/
def State.lateFor (s : State) (g c : Nat) : Bool :=
  match (s.core g).phase, s.phaseAt g with
  | some p, .before => decide (p.len ≤ c)
  | some p, .cycle n => decide (p.len ≤ c) || decide (c < n)
  | _, _ => true

/-- Whether a phase cycle has come, or has passed for `past`. -/
def State.cycleCome (s : State) (g c : Nat) (past : Bool) : Bool :=
  match s.phaseAt g with
  | .before => false
  | .cycle n => if past then decide (c < n) else decide (c ≤ n)
  | .none => true

def State.countLate (s : State) (g : Nat) : State := s.updCore g (fun c => { c with lateCount := c.lateCount + 1 })

/-- A lower-numbered context of the core waits in time to drive the same phase cycle: it goes first (R244, R367). -/
def State.drivesFirst (s : State) (a : Agent) (c : Nat) : Bool :=
  (s.core a.gid).ctxs.any (fun e => decide (e.1 < a.ctx) && e.2.live && e.2.busy == some (.late c) && (match e.2.blk with
    | some b => decide ((fOp (slotWord b e.2.slot)).toNat = 0x283)
    | none => false))

/-- A phase instruction issued in time waits for its cycle. -/
def Ctx.inTime (c : Ctx) : Bool := match c.busy with | some (.late _) => true | _ => false

def execXmit (h : Hdr) (o : FmtXC) (s : State) : Out :=
  issue h s .illegal [o.a] [] (fun t =>
    let g := t.cur.gid
    let c := o.idx.toNat
    let r := t.me.readV o.a
    let t1 := t.setCtx t.cur r.2
    let twice := match t.here.phase with | some p => p.cycles.contains c | none => false
    if (!t.me.inTime && t.lateFor g c) || twice then .done (t1.countLate g)
    else if !t.cycleCome g c false || t.drivesFirst t.cur c then .wait (t.self (fun x => { x with busy := some (.late c) }))
    else
      .done (t1.updCore g (fun k =>
        { k with phase := k.phase.map (fun p => { p with driven := Sparse.put 0 p.driven c r.1, cycles := p.cycles ++ [c] }) })))

/-- The value that a mesh position drove, as it reaches a core in phase cycle `c` (R367), whatever its core has done since. -/
def State.wire (s : State) (g x y c : Nat) : Line :=
  match (s.core g).phase with
  | none => 0
  | some p =>
    let dist (a b : Nat) : Nat := (a - b) + (b - a)
    let hop := dist x (gidX g) + dist y (gidY g)
    let src := gidAt x y
    if 63 < x ∨ 31 < y ∨ !p.members.contains src ∨ c < 2 * hop then 0
    else
      let k := s.core src
      match (k.phase.toList ++ k.pastPhases).find? (fun q => q.start == p.start && q.members == p.members) with
      | none => 0
      | some q => Sparse.look 0 q.driven (c - 2 * hop)

/-- `xsel` retires once its cycle is over, so that what is driven in that very cycle counts. -/
def execXsel (h : Hdr) (o : FmtXC) (s : State) : Out :=
  issue h s .illegal [o.b] [o.d] (fun t =>
    let g := t.cur.gid
    let c := o.idx.toNat
    let r := t.me.readS o.b
    if !t.me.inTime && t.lateFor g c then .done ((t.setCtx t.cur (r.2.writeVO o.d 0)).countLate g)
    else if !t.cycleCome g c true then .wait (t.self (fun x => { x with busy := some (.late c) }))
    else .done (t.setCtx t.cur (r.2.writeVO o.d (t.wire g (bits r.1 7 0) (bits r.1 15 8) c))))

/-! ## Collectives: arrival -/

/-- The ranks of a group: device and core of each member; device 31 is this one (R418). -/
def State.groupMembers (s : State) (part grp : Nat) : List (Nat × Nat) :=
  let e := Sparse.look Group.reset s.dev.groups (256 * part + grp)
  let bs := s.devPeek e.list (4 * e.n)
  (List.range e.n).map (fun r =>
    let w := wd (ofBytes ((bs.drop (4 * r)).take 4))
    (bits w 28 24, gidAt (bits w 7 0) (bits w 15 8)))

/-- The members of a group on this device, by rank; none for a member on a peer device. -/
def State.groupList (s : State) (part grp : Nat) : List (Option Nat) :=
  (s.groupMembers part grp).map (fun m => if m.1 = 31 then some m.2 else none)

/-- Element width of a collective in bytes. -/
def collWidth (f : Nat) : Nat := fmtBits f / 8

/-- The bytes of a member's buffer: `n` contributions for `cag`. -/
def collBytes (kind f count n : Nat) : Nat := (if kind = 2 then n else 1) * count * collWidth f

/-- Word w1 of an arrival: which instruction, its FMT and OPR. -/
def collCode (kind : Nat) (o : FmtXC) : Word := wd (kind * 256 + o.opr.toNat * 16 + o.fmt.toNat)

/-- The status word of a collective. -/
def collStatus (cst bad done : Nat) : Word := statusWord cst 0 bad done

/-- Go on with the checked places of a buffer, as a load and as a store, and with the translations it used (R368). -/
def withBuffer (t : State) (cap : Cap) (n : Nat) (k : State → List (Nat × Nat) → List TlbEntry → Res) : Res :=
  withAccess t ⟨cap, [permLoad], kLoad, 1, 0, [⟨cap.addr, n, 0⟩], false⟩ (fun t1 _ _ =>
    withAccess t1 ⟨cap, [permStore], kStore, 1, 0, [⟨cap.addr, n, 0⟩], false⟩ (fun t2 parts used =>
      k t2 (parts.flatMap (fun p => p.segs.map (fun g => (g.addr, g.len)))) used))

/-- `cred`, `cbc`, `cag` (R368): 0, 1, 2. -/
def collective (kind : Nat) (h : Hdr) (o : FmtXC) (s : State) : Out :=
  issue h s .illegal (pairOps o.a ++ [o.b]) [o.d] (fun t =>
    let a := t.cur
    let part := t.myCluster.part
    let grp := o.idx.toNat
    let e := Sparse.look Group.reset t.dev.groups (256 * part + grp)
    let r := t.me.readS o.b
    let w := r.1
    let count := bits w 31 0
    let root := bits w 63 56
    let fin (u : State) (cst : Nat) : Res := .done (u.setCtx a (r.2.writeS o.d (collStatus cst 0 0)))
    if !e.valid then fin t 5
    else
      (t.devGet true (t.devLines e.list (4 * e.n))).await t (fun t0 =>
        let l := t0.groupList part grp
        let listed (u : State) : State := u.devTrace e.list (4 * e.n)
        if !l.contains (some a.gid) then fin (listed t0) 5
        else if bits w 55 32 ≠ 0 ∨ (kind ≠ 1 ∧ root ≠ 0) ∨ (kind = 1 ∧ e.n ≤ root) then fin (listed t0) 5
        else
          let cap := t0.me.readPair o.a
          withBuffer t0 cap (collBytes kind o.fmt.toNat count e.n) (fun t1 places used =>
            let c := t1.me
            if !places.all (fun p => noPendOverlap c c.seq p.1 p.2 && noSbOverlap c c.seq p.1 p.2) then .wait t1
            else
              let t2 := listed t1
              let b : Arrival := ⟨.coll part grp, a, l.filterMap id, w, collCode kind o, cap, false, false, places, viaOf used⟩
              .keep ({ t2 with arrivals := t2.arrivals ++ [b] }.self (fun x =>
                { (x.readS o.b).2 with busy := some (.barrier h o.d), seq := x.seq + 1 })))))

def execCred (h : Hdr) (o : FmtXC) (s : State) : Out := collective 0 h o s
def execCbc (h : Hdr) (o : FmtXC) (s : State) : Out := collective 1 h o s
def execCag (h : Hdr) (o : FmtXC) (s : State) : Out := collective 2 h o s

/-! ## Collectives: the exchange (R368, R369) -/

/-- A buffer's places cut at line boundaries. -/
def bufParts (places : List (Nat × Nat)) : List Seg :=
  places.flatMap (fun p => (List.range ((p.1 % 128 + p.2 + 127) / 128)).map (fun i =>
    let lo := if i = 0 then 0 else 128 * i - p.1 % 128
    let hi := min p.2 (128 * (i + 1) - p.1 % 128)
    (⟨p.1 + lo, hi - lo, 0, 0⟩ : Seg)))

/-- The homes of the members' buffers are asked for their lines, once no core holds one exclusively and each one's memory is ready (R102,
R397, R430). -/
def State.askBuffers (s : State) (rs : List Arrival) : Ask :=
  let waits := rs.any (fun r => (bufParts r.places).any (fun t => notReadyPA s (s.partOf r.agent.gid) (isSvc r.agent.gid) (fwdAddr s t.addr)))
  let ls := rs.flatMap (fun r => (bufParts r.places).filterMap (fun t =>
    let addr := fwdAddr s t.addr
    if isScratch addr || reservedPA s (s.partOf r.agent.gid) (isSvc r.agent.gid) addr then none
    else some (ReqWho.unit r.agent 3 0 0, addr / 128)))
  let owned := ls.filter (fun l => (s.ownerOf l.2).isSome)
  if waits then .no
  else if owned.isEmpty then s.askAll 3 true ls
  else
    let t := owned.foldl (fun u l => if u.recallOk l.2 then u.recall l.2 else u) s
    if t = s then .no else .wait t

/-- The bytes of a buffer at its home; poisoned bytes read zero, as a load takes them (R225), and a hole is counted (R112). -/
def State.bufRead (s : State) (g : Nat) (places : List (Nat × Nat)) : List Byte × State :=
  (bufParts places).foldl (fun acc t =>
    let addr := fwdAddr acc.2 t.addr
    let part := acc.2.partOf g
    let st := acc.2.noteRead part (isSvc g) addr t.len
    let r := readHomeBytes st part (isSvc g) addr t.len
    let counted := if reservedPA st part (isSvc g) addr then st else st.count 7 0 1
    (acc.1 ++ (if r.psn then r.bytes.map (fun _ => 0) else r.bytes), if r.psn then counted.mergeFail g else st)) ([], s)

/-- Write a buffer at its home as plain writes of an agent; `bad` says which bytes are poisoned. -/
def State.bufWrite (s : State) (a : Agent) (places : List (Nat × Nat)) (data : List Byte) (bad : Nat → Bool) : State :=
  let n0 := s.nextWid
  let r := (bufParts places).foldl (fun (acc : State × Nat) t =>
    let st := acc.1
    let addr := fwdAddr st t.addr
    let bs := (data.drop acc.2).take t.len
    let st1 := st.writeHome ⟨addr, bs, false, a.gid, false, false, [], false, st.partOf a.gid, isSvc a.gid, none⟩
    let st2 := if (List.range t.len).any (fun i => bad (acc.2 + i)) then st1.setPoison addr true else st1
    (st2, acc.2 + t.len)) (s, 0)
  r.1.observe a (r.1.newWids n0)

/-- A float code as every unit writes it: a NaN becomes the canonical one (R167). -/
def canonElem (f x : Nat) : Nat := if fmtIsInt f then x else match decodeF f x with | .nan => (toF f 0 false .nan).raw | _ => x

/-- The reduction of one element in rank order (R368): sum, min or max. -/
def reduceElem (f op : Nat) (xs : List Nat) : Nat :=
  let w := fmtBits f
  match xs with
  | [] => 0
  | x :: rest =>
    rest.foldl (fun acc y =>
      if op = 0 then
        (if fmtIsInt f then ((decodeI f acc + decodeI f y) % (2 ^ w : Nat)).toNat
         else (faddF f 0 false (decodeF f acc) (decodeF f y)).raw)
      else if fmtIsInt f then
        (if op = 1 then (if decodeI f y < decodeI f acc then y else acc) else (if decodeI f acc < decodeI f y then y else acc))
      else fminmax f (decide (op = 2)) acc y) (canonElem f x)

/-- An FP64 sum in element order, rounded to nearest even at each addition. -/
def sum64 (vs : List FVal) : Nat := vs.foldl (fun acc v => (faddF 7 0 false (decodeF 7 acc) v).raw) 0

/-- Bits of precision of a float format (R369). -/
def precOf (f : Nat) : Nat := fmtMan f + 1

/-- The check of one chunk of a float sum (R369): |R - C| <= n x 2^(1-p) x A. -/
def chunkPasses (f n : Nat) (parts : List (List Nat)) (res : List Nat) : Bool :=
  let sums := parts.map (fun xs => sum64 (xs.map (decodeF f)))
  let mags := parts.map (fun xs => sum64 (xs.map (fun x => (decodeF f x).abs)))
  let total (l : List Nat) : Nat := match l with | [] => 0 | x :: r => r.foldl (fun acc y => (faddF 7 0 false (decodeF 7 acc) (decodeF 7 y)).raw) x
  let diff := (faddF 7 0 false (decodeF 7 (sum64 (res.map (decodeF f)))) (decodeF 7 (total sums)).neg).raw
  let lim := fmulV (.fin false n (1 - (precOf f : Int))) (decodeF 7 (total mags))
  match fcmpV (decodeF 7 diff).abs lim.1 with
  | some .lt => true
  | some .eq => true
  | _ => false

/-- Elements of a buffer. -/
def elemsOf (w : Nat) (bs : List Byte) : List Nat := (List.range (bs.length / w)).map (fun i => ofBytes ((bs.drop (w * i)).take w))

/-- What every member's buffer becomes, and the chunks of it that fail their checksum (R368, R369). -/
def collResult (kind f op root count : Nat) (bufs : List (List Byte)) : List Byte × List Nat :=
  let w := collWidth f
  if kind = 1 then (bufs.getD root [], [])
  else if kind = 2 then
    ((List.range bufs.length).flatMap (fun r => ((bufs.getD r []).drop (r * count * w)).take (count * w)), [])
  else
    let es := bufs.map (elemsOf w)
    let res := (List.range count).map (fun i => reduceElem f op (es.map (fun e => e.getD i 0)))
    let per := 4096 / w
    let bad := if op ≠ 0 ∨ fmtIsInt f then [] else
      (List.range ((count + per - 1) / per)).filter (fun k =>
        !chunkPasses f bufs.length (es.map (fun e => (e.drop (k * per)).take per)) ((res.drop (k * per)).take per))
    (res.flatMap (fun x => toBytes w x), bad)

end Sys2Proof.Machine
end

