-- ==== Sys2Proof/Machine/Tasks.lean ====
section
/-! DEFINITION. Group 0xB for tasks: launch descriptors and their checks (R184-R187, R162, R198), work IDs (R183), stage queues and
the dependence unit (R188, R196), pushes, pops, declarations and priorities (R371-R373), and the time window (R201-R204,
R374). -/

namespace Sys2Proof.Machine

open Sys2Proof

/-! ## Work IDs (R183) -/

/-- The bit at which field `f` of a work ID starts. -/
def fieldLo (widths : List Nat) (f : Nat) : Nat := (widths.take f).foldl (· + ·) 0

/-- Field `f` of a work ID. -/
def widField (widths : List Nat) (w : Word) (f : Nat) : Nat := w.toNat / 2 ^ fieldLo widths f % 2 ^ widths.getD f 0

/-- A word with field `f` replaced (R373). -/
def widPut (widths : List Nat) (w : Word) (f v : Nat) : Word :=
  let lo := fieldLo widths f
  wd (w.toNat - widField widths w f * 2 ^ lo + v % 2 ^ widths.getD f 0 * 2 ^ lo)

/-- Whether a number has a bit at or above the last field. -/
def widBeyond (widths : List Nat) (n : Nat) : Bool := decide (n / 2 ^ fieldLo widths 6 ≠ 0)

/-! ## Queues and regions (R188, R196) -/

/-- The template regions of a task (R185). -/
def templateRegions (l : Launch) (st : Stage) (ord : Nat) (wid : Word) : List DepRegion :=
  let one (base : Word) (len fld str : Nat) (write : Bool) : List DepRegion :=
    if len = 0 then []
    else
      let lo := (base.toNat + widField l.widths wid fld * str * 64) % 2 ^ 64
      [⟨ord, lo, min (lo + len) (2 ^ 64), write, l.dom⟩]
  one st.rbase st.rlen st.rfld st.rstr false ++ one st.wbase st.wlen st.wfld st.wstr true

/-- The number of regions a task of a stage holds from its enqueue. -/
def templateCount (st : Stage) : Nat := (if st.rlen = 0 then 0 else 1) + (if st.wlen = 0 then 0 else 1)

/-- Records that hold an entry of a queue: those not yet bound. -/
def StageQ.fill (q : StageQ) : Nat := (q.items.filter (fun i => i.saved.isEmpty)).length

/-- A stage queue has a free entry, and the dependence unit room for the task's regions (R188, R196). -/
def Cluster.roomFor (k : Cluster) (l : Launch) (stage : Nat) : Bool :=
  match l.stages[stage]?, k.queue? l.lid stage with
  | some st, some q => decide (q.fill < st.qdep) && decide (k.deps.length + templateCount st ≤ 512)
  | _, _ => false

/-- A record enters a stage queue of a cluster and is a task in flight from now on, in the order of its cycle and of the core
index `idx` that enqueues it (R188, R196). -/
def State.enqueue (s : State) (cl : Nat) (l : Launch) (stage idx : Nat) (wid : Word) (record : List Byte) (slip : Bool) : State :=
  match l.stages[stage]? with
  | none => s
  | some st =>
    let ord := s.enqOrd idx
    let it : QItem := ⟨ord, wid, record, slip, []⟩
    let s1 := s.updCluster cl (fun k =>
      let k1 := k.updQueue l.lid stage (fun q => { q with items := insBy (fun i => i.ord) it q.items })
      { k1 with deps := k1.deps ++ templateRegions l st ord wid })
    { s1 with nextOrd := s.nextOrd + 1 }

/-- An empty record (R186). -/
def Stage.emptyRecord (st : Stage) : List Byte := (List.range st.rsz).map (fun _ => 0)

/-! ## Launch descriptors (R184, R185) -/

/-- Stage `i` of a descriptor. Queue depth and record size are kept as the numbers they mean. -/
def stageOf (bs : List Byte) (tags : List Bool) (i : Nat) : Stage :=
  let w (k : Nat) : Word := wordAt bs (8 + 8 * i + k)
  { code := ⟨w 0, w 1, tags.getD (4 + 4 * i) false⟩
    cpi := bits (w 2) 63 62
    hlp := bits (w 2) 61 58
    bnk := bits (w 2) 57 54
    prio := bits (w 2) 53 49
    mrg := bit (w 2) 48
    qdep := bits (w 2) 47 36 + 1
    rsz := bits (w 2) 35 28 + 1
    nxt := bits (w 2) 27 24
    rbase := w 3
    rlen := bits (w 4) 63 32
    rfld := bits (w 4) 31 28
    rstr := bits (w 4) 27 0
    wbase := w 5
    wlen := bits (w 6) 63 32
    wfld := bits (w 6) 31 28
    wstr := bits (w 6) 27 0 }

/-- A stage that makes `launch` refuse with CODE 0x03 (R185, R186). -/
def stageBad (bs : List Byte) (nstg i : Nat) (st : Stage) : Bool :=
  let w2 := wordAt bs (8 + 8 * i + 2)
  let w7 := wordAt bs (8 + 8 * i + 7)
  !st.code.tag || mdMalformed st.code.md || decide (mdSeal st.code.md ≠ 0) || decide (st.code.addr.toNat % 64 ≠ 0)
    || !mdHas st.code.md [permExec] || !capCovers st.code st.code.addr 64
    || decide (st.cpi = 3) || decide (10 < st.hlp) || decide (8 < st.bnk) || decide (23 < st.prio)
    || decide (st.nxt ≠ 15 ∧ nstg ≤ st.nxt) || decide (bits w2 23 0 ≠ 0)
    || decide (st.rlen ≠ 0 ∧ 5 < st.rfld) || decide (st.wlen ≠ 0 ∧ 5 < st.wfld)
    || decide (bits w7 63 16 ≠ 0) || decide (i ≠ 0 ∧ bits w7 15 0 ≠ 0)

/-- A descriptor's header and stages. -/
structure Desc where
  nstg : Nat
  gang : Bool
  det : Bool
  dom : Nat
  clmBits : Nat
  pdl : Nat
  count : Nat
  widths : List Nat
  wbase : Word
  gtick : Nat
  logcap : Cap
  gmarg : Nat
  logrec : Nat
  gset : Nat
  stages : List Stage
  resv : Bool              -- a reserved field of the header is not zero
  deriving DecidableEq, Repr

def descOf (bs : List Byte) (tags : List Bool) : Desc :=
  let w (k : Nat) : Word := wordAt bs k
  let nstg := bits (w 0) 63 60
  { nstg := nstg
    gang := bit (w 0) 59
    det := bit (w 0) 58
    dom := bits (w 0) 55 44
    clmBits := bits (w 0) 43 36
    pdl := if bits (w 0) 31 0 = 0 then 20000 else bits (w 0) 31 0
    count := bits (w 1) 63 42
    widths := (List.range 6).map (fun f => bits (w 1) (7 * f + 6) (7 * f))
    wbase := w 2
    gtick := (w 3).toNat
    logcap := ⟨w 4, w 5, tags.getD 2 false⟩
    gmarg := bits (w 6) 63 32
    logrec := bits (w 6) 31 0
    gset := bits (w 15) 15 0
    stages := (List.range nstg).map (stageOf bs tags)
    resv := decide (bits (w 0) 57 56 ≠ 0) || decide (bits (w 0) 35 32 ≠ 0) }

/-- The refusals of CODE 0x03 but for the log region's (R186, R417). -/
def descBad (s : State) (part : Nat) (bs : List Byte) (d : Desc) (pinned : Bool) : Bool :=
  let sum := fieldLo d.widths 6
  decide (d.nstg = 0) || decide (8 < d.nstg) || d.resv || decide (64 < sum) || !pinned
    || widBeyond d.widths d.wbase.toNat || (decide (d.count ≠ 0) && widBeyond d.widths (d.wbase.toNat + d.count - 1))
    || (List.range d.nstg).any (fun i => match d.stages[i]? with | some st => stageBad bs d.nstg i st | none => true)
    || (!d.gang && decide (d.gset ≠ 0))
    || (List.range 16).any (fun g => d.gset.testBit g && (!(s.peer g).valid || decide ((s.peer g).part ≠ part)))

/-- The clusters of CLM that a partition's launch may run on: a cluster that is moving away counts as outside (R186, R187). -/
def clmOf (s : State) (part clmBits : Nat) : List Nat :=
  (List.range 8).filter (fun c =>
    clmBits.testBit c && decide ((s.cluster c).part = part) && (s.cluster c).closing.isNone)

/-- Queue storage of a launch in bytes (R187). -/
def storageOf (d : Desc) (clusters : Nat) : Nat :=
  clusters * (d.stages.map (fun st => st.qdep * ((8 + st.rsz + 63) / 64 * 64))).foldl (· + ·) 0

/-- A running launch holds its number; so does one whose last STATUS is still to be written (R186). A gang that a peer has launched has
no STATUS here. -/
def Launch.holds (l : Launch) : Bool := decide (l.code = 0) || (decide (l.statusAt ≠ 0) && (!l.written || decide (l.counted < l.ended)))

/-- The next launch number that none holds (R186). -/
def nextFreeLid (ls : List Launch) : Nat → Nat → Option Nat
  | 0, _ => none
  | fuel + 1, n =>
    let k := n % 65536
    if k ≠ 0 && !ls.any (fun l => l.lid == k && l.holds) then some k else nextFreeLid ls fuel (k + 1)

/-! ## The log region (R162) -/

inductive LogPlace where
  | ok (pages : List Nat) (off slots : Nat) (used : List TlbEntry)
  | refuse
  | miss (va : Word)
  deriving DecidableEq, Repr

/-- The 64 KiB pages from a page number on, each pinned, with the entries used; the first that is not installed. -/
def logPagesFrom (c : Core) (dom : Nat) : Nat → Nat → List Nat → List TlbEntry → LogPlace
  | 0, _, acc, used => .ok acc.reverse 0 0 used
  | n + 1, p, acc, used =>
    let va := wd (p * 65536)
    match c.lookup va dom with
    | none => .miss va
    | some e => if e.pin then logPagesFrom c dom n (p + 1) (e.pa va :: acc) (e :: used) else .refuse

/-- Where a launch's merge logs lie, translated in the launch's domain. -/
def logPlace (c : Core) (dom : Nat) (k : Cap) (logrec : Nat) : LogPlace :=
  let base := (capBase k.addr k.md).toNat
  let top := (capTop k.addr k.md).toNat
  if !k.tag || mdMalformed k.md || !mdHas k.md [permLoad, permStore] || !capValid k.addr k.md
    || decide (top < base + logrec * 160) || !canonical (wd base) || !canonical (wd (top - 1)) || decide (scratchLo < top) then .refuse
  else
    match logPagesFrom c dom ((top - 1) / 65536 + 1 - base / 65536) (base / 65536) [] [] with
    | .ok ps _ _ used => .ok ps (base % 65536) ((top - base) / (logrec * 160)) used
    | r => r

/-! ## launch (R184-R187, R370) -/

/-- STATUS (R186). -/
def statusOf (done lid : Nat) (mc : Bool) (code : Nat) : Word :=
  wd (done % 2 ^ 32 * 2 ^ 32 + lid * 65536 + b2n mc * 256 + code)

/-- The refusals after 0x03, in their order (R186): 0 when the launch is accepted. -/
def launchCode (s : State) (part : Nat) (d : Desc) (clm : List Nat) : Nat :=
  let p := Sparse.look Pool.reset s.dev.pools part
  if d.dom ≠ 0 ∧ d.stages.any (fun st => st.prio == 23) then 4
  else if clm.isEmpty then 9
  else if d.gang ∧ d.gset ≠ 0 ∧ !s.ready 48 then 8
  else if p.size - p.used < storageOf d clm.length ∨ (nextFreeLid s.dev.launches 65536 s.dev.nextLid).isNone then 5
  else 0

/-- An accepted launch: its number, its storage, its queues in each cluster of CLM (R186, R187, R198). -/
def State.accept (s : State) (part : Nat) (d : Desc) (clm pages : List Nat) (logOff slots statusAt : Nat) : State × Nat :=
  let lid := (nextFreeLid s.dev.launches 65536 s.dev.nextLid).getD 0
  let peers := (List.range 16).filter (fun g => d.gset.testBit g)
  let storage := storageOf d clm.length
  let l : Launch := {
    lid := lid, dom := d.dom, det := d.det, gang := d.gang
    gangState := if d.gang then 1 else 0
    peers := peers, acks := [], cacks := [], part := part, clm := clm, pdl := d.pdl, gtick := d.gtick, gmarg := d.gmarg
    widths := d.widths, wbase := d.wbase, logcap := d.logcap, logrec := d.logrec, logPages := pages, logOff := logOff
    logFree := List.range slots, statusAt := statusAt, stages := d.stages, count := d.count, given := [], first := false
    alive := d.count, ended := 0, counted := 0, waits := [], mc := false, code := 0, written := true, storage := storage }
  let s1 := s.updDev (fun v =>
    let p := Sparse.look Pool.reset v.pools part
    { v with
      launches := v.launches.filter (fun x => x.lid ≠ lid) ++ [l]
      nextLid := (lid + 1) % 65536
      pools := Sparse.put Pool.reset v.pools part { p with used := p.used + storage } })
  let s2 := clm.foldl (fun acc c => acc.updCluster c (fun k => { k with
    lc := Sparse.put 0 k.lc lid 0
    queues := k.queues ++ d.stages.mapIdx (fun i st => (⟨lid, i, st.prio, 0, 0, 0, 0, [], []⟩ : StageQ)) })) s1
  if d.count = 0 ∧ !d.gang then
    ((s2.updLaunch lid (fun x => { x with code := 1, written := false })).returnStorage lid, lid)
  else (s2, lid)

/-- STATUS is written: a release at device scope among the context's stores, in merge mode into the merge buffer like every other;
the instruction waits for it (R160, R186, R437). -/
def pushStatus (t : State) (q : Req) (ps : List Part) (used : List TlbEntry) (w : Word) : Res :=
  match t.issueStore t.cur q ps used Order.device (toBytes 8 w.toNat) false false with
  | .done s => .wait (s.self (fun c => { c with busy := some (.written w.toNat) }))
  | r => r

/-- The descriptor has been read: check it, accept or refuse, write STATUS. -/
def launchGo (t : State) (cap : Cap) (bs : List Byte) (tags : List Bool) : Res :=
  withAccess t ⟨cap, [permLoad, permStore], kLoad, 64, 0, [⟨cap.addr, bs.length, 0⟩], true⟩ (fun t1 parts used =>
    let q : Req := ⟨cap, [permStore], kStore, 8, 0, [⟨cap.addr + 56, 8, 0⟩], true⟩
    withAccess t1 q (fun t2 ps su =>
      let g := t2.cur.gid
      let part := (t2.cluster (gidCl g)).part
      let d := descOf bs tags
      let own := t2.me.cdom.toNat
      let pinned := used.all (fun e => e.pin) && parts.all (fun p => p.segs.all (fun sg => !isScratch sg.addr))
      let refuse (c : Nat) : Res := pushStatus t2 q ps su (statusOf 0 0 false c)
      if d.dom = 0xFFF ∨ (own ≠ d.dom ∧ own ≠ 0) then refuse 2
      else if descBad t2 part bs d pinned then refuse 3
      else
        let go (t2 : State) (pages : List Nat) (off slots : Nat) : Res :=
          let clm := clmOf t2 part d.clmBits
          match launchCode t2 part d clm with
          | 0 =>
            let at' := match ps with | p :: _ => (match p.segs with | sg :: _ => sg.addr | [] => 0) | [] => 0
            let r := t2.accept part d clm pages off slots at'
            pushStatus r.1 q ps su (statusOf 0 r.2 false 0)
          | c => refuse c
        if d.logrec ≠ 0 ∧ d.stages.any (fun st => st.mrg) then
          match logPlace (t2.core g) d.dom d.logcap d.logrec with
          | .refuse => refuse 3
          | .miss va => if isSvc g then .trap 0x0A 1 va else .wait (t2.miss t2.cur none d.dom kStore va false)
          | .ok pages off slots lu => go (t2.touchAll g lu) pages off slots
        else go t2 [] 0 0))

/-- `launch`: it reads the header and then the whole descriptor, and retires when STATUS is written (R184, R370, R437). -/
def execLaunch (h : Hdr) (o : FmtT) (s : State) : Out :=
  issue h s .illegal (pairOps o.a) [o.d] (fun t =>
    let cap := t.me.readPair o.a
    match t.me.busy with
    | some (.written v) =>
      if t.me.sb.isEmpty then
        .done ((t.updLaunch (v / 65536 % 65536) (fun l => { l with first := true })).self (fun c => c.writeS o.d (wd v)))
      else .wait t
    | some (.read bs tags) =>
      let nstg := bits (wordAt bs 0) 63 60
      if 1 ≤ nstg ∧ nstg ≤ 8 ∧ bs.length ≠ 64 * (1 + nstg) then
        readStart t cap [permLoad, permStore] cap.addr (64 * (1 + nstg)) 64
      else launchGo t cap bs tags
    | _ => readStart t cap [permLoad, permStore] cap.addr 64 64)

/-! ## tpsh, tpop, tdecl, qprio, wid (R371-R373) -/

/-- The launch of the task bound to the executing core. -/
def State.myLaunch (t : State) : Option (Task × Launch) :=
  match t.here.task with
  | none => none
  | some k => (t.launch? k.lid).map (fun l => (k, l))

def execTpsh (h : Hdr) (o : FmtT) (s : State) : Out :=
  issue h s .illegal (pairOps o.a ++ [o.b]) [o.d] (fun t =>
    let cap := t.me.readPair o.a
    let rb := t.me.readS o.b
    let refuse := Res.done (t.setCtx t.cur (rb.2.writePO o.d false))
    match t.myLaunch with
    | none => refuse
    | some (_, l) =>
      match l.stages[o.sel.toNat]? with
      | none => refuse
      | some st =>
        if widBeyond l.widths rb.1.toNat then refuse
        else
          withRead t cap [permLoad] cap.addr st.rsz 1 (fun t1 bs =>
            let cl := gidCl t1.cur.gid
            if !relDone t1 t1.cur (Order.cluster cl) t1.me.seq then .wait t1
            else if !(t1.cluster cl).roomFor l o.sel.toNat then .wait t1
            else .done (((t1.enqueue cl l o.sel.toNat (gidIdx t1.cur.gid) rb.1 bs false).updLaunch l.lid (fun x => { x with alive := x.alive + 1 })).self
              (fun c => (c.readS o.b).2.writePO o.d true))))

/-- Continue a store that has issued. -/
def Res.after (r : Res) (f : State → State) : Res := match r with | .done s => .done (f s) | r => r

def execTpop (h : Hdr) (o : FmtT) (s : State) : Out :=
  issue h s .illegal (pairOps o.a) [o.d] (fun t =>
    let cap := t.me.readPair o.a
    match t.here.task with
    | none => .done (t.self (fun c => c.writePO o.d false))
    | some k =>
      if k.popped then .done (t.self (fun c => c.writePO o.d false))
      else
        let q : Req := ⟨cap, [permStore], kStore, 1, 0, [⟨cap.addr, k.record.length, 0⟩], true⟩
        withAccess t q (fun t1 parts used =>
          (t1.issueStore t1.cur q parts used Order.plain k.record false false).after (fun t2 =>
            (k.members.foldl (fun acc m => acc.updCore m (fun c =>
              { c with task := c.task.map (fun u => { u with popped := true }) })) t2).self (fun c => c.writePO o.d true))))

def execTdecl (h : Hdr) (o : FmtT) (s : State) : Out :=
  issue h s .illegal [o.a, o.b] [] (fun t =>
    let ra := t.me.readS o.a
    let rb := ra.2.readS o.b
    let t1 := t.setCtx t.cur rb.2
    let cl := gidCl t.cur.gid
    match t.here.task with
    | none => .done t1
    | some k =>
      if rb.1 = 0 then .done t1
      else if 512 ≤ (t.cluster cl).deps.length then .wait t
      else
        let r : DepRegion := ⟨k.ord, ra.1.toNat, min (ra.1.toNat + rb.1.toNat) (2 ^ 64), decide (o.sub = 1), k.dom⟩
        .done (t1.updCluster cl (fun c => { c with deps := c.deps ++ [r] })))

def execQprio (h : Hdr) (o : FmtT) (s : State) : Out :=
  issue h s .illegal [o.a] [o.d] (fun t =>
    let ra := t.me.readS o.a
    let own := t.me.cdom.toNat
    let target :=
      if o.a = .x 0 then t.myLaunch.map (fun e => e.2) else t.launch? (bits ra.1 15 0)
    let set (b : Bool) (u : State) : Res := .done (u.setCtx t.cur (ra.2.writePO o.d b))
    match target with
    | none => set false t
    | some l =>
      if l.code ≠ 0 ∨ l.stages.length ≤ o.sel.toNat ∨ (l.dom ≠ own ∧ own ≠ 0)
        ∨ (o.imm = 23 ∧ (own ≠ 0 ∨ l.dom ≠ 0)) then set false t
      else
        set true { t with flights := t.flights ++ l.clm.map (fun c => .qprio c l.lid o.sel.toNat o.imm.toNat) })

/-- The widths of the executing task's launch; all empty with no task. -/
def State.myWidths (t : State) : List Nat := match t.myLaunch with | some e => e.2.widths | none => []

def execWid (h : Hdr) (o : FmtT) (s : State) : Out :=
  issue h s .normal [] [o.d] (fun t =>
    .done (t.self (fun c => c.writeS o.d (wd (widField t.myWidths c.twid o.sel.toNat)))))

def execWidSet (h : Hdr) (o : FmtT) (s : State) : Out :=
  issue h s .normal [o.a, o.b] [o.d] (fun t =>
    .done (t.self (aluCtx (fun a b => widPut t.myWidths a o.sel.toNat b.toNat) o.d o.a o.b)))

/-! ## The time window (R201-R204, R374) -/

def Cluster.win (k : Cluster) (n : Nat) : Twin := Sparse.look Twin.reset k.twin n
def Twin.word (w : Twin) (i : Nat) : Word := Sparse.look 0 w.w i
def Twin.put (w : Twin) (i : Nat) (v : Word) : Twin := ⟨Sparse.put 0 w.w i v⟩
def State.updWin (s : State) (cl n : Nat) (f : Twin → Twin) : State :=
  s.updCluster cl (fun k => { k with twin := Sparse.put Twin.reset k.twin n (f (k.win n)) })

def Twin.active (w : Twin) : Bool := bit (w.word 0) 63
def Twin.stage (w : Twin) : Nat := bits (w.word 0) 62 60
def Twin.lid (w : Twin) : Nat := bits (w.word 0) 59 44
def Twin.nslot (w : Twin) : Nat := bits (w.word 0) 43 32
def Twin.hstr (w : Twin) : Nat := bits (w.word 0) 31 16
def Twin.grace (w : Twin) : Nat := bits (w.word 0) 15 12
def Twin.horiz (w : Twin) : Nat := bits (w.word 0) 11 0
def Twin.sink (w : Twin) : Nat := (w.word 1).toNat
def Twin.slsz (w : Twin) : Nat := bits (w.word 2) 63 32
def Twin.lsem (w : Twin) : Nat := bits (w.word 2) 31 0
def Twin.t0 (w : Twin) : Nat := (w.word 3).toNat
def Twin.per (w : Twin) : Nat := bits (w.word 4) 63 32
def Twin.ofs (w : Twin) : Nat := bits (w.word 4) 31 0
def Twin.nexts (w : Twin) : Nat := (w.word 7).toNat

/-- Device time of a slot's tick (R201). -/
def Twin.tickOf (w : Twin) (n : Nat) : Nat := w.t0 + (n + 1) * w.per + w.ofs

/-- Physical address of a slot's storage. -/
def Twin.slotAt (w : Twin) (n : Nat) : Nat := w.sink + n % w.nslot * w.slsz

/-- Every field in its range, for a write that sets V (R201). -/
def Twin.inRange (w : Twin) : Bool :=
  decide (2 ≤ w.nslot) && decide (1 ≤ w.horiz) && decide (w.horiz + w.grace + 1 ≤ w.nslot) && decide (w.sink % 128 = 0)
    && decide (w.slsz % 128 = 0) && decide (256 ≤ w.slsz) && decide (w.lsem < 65536) && decide (1000 ≤ w.per)
    && decide (w.ofs < w.per)

/-- The header of a slot (R202): number, bytes and count of its records, FREE, LATE. -/
def slotHeader (n bytes count : Nat) (late : Bool) : List Byte :=
  padTo 0 128 (toBytes 8 n ++ toBytes 8 (bytes * 2 ^ 32 + count * 65536 + b2n late))

/-- Word `i` of a slot's header; a header that is poisoned or lies in no memory reads zero (log entry 14). -/
def State.slotWord (s : State) (w : Twin) (n i : Nat) : Word := wordAt (s.devPeek (w.slotAt n + 8 * i) 8) 0

/-- The lines of a slot's header, and the traces of reading it. -/
def State.slotLines (s : State) (w : Twin) (n : Nat) : List Nat := s.devLines (w.slotAt n) 128
def State.slotTrace (s : State) (w : Twin) (n : Nat) : State := s.devTrace (w.slotAt n) 16

/-- A slot's header is written new by the distributor, as a release (R202, R204). Its writes count as writes of its cluster. -/
def State.initSlot (s : State) (cl : Nat) (w : Twin) (n : Nat) : State :=
  s.physWrite (gidOf cl 0) true (w.slotAt n) (slotHeader n 0 0 false)

/-- A window becomes active (R204, R374). -/
def State.startWindow (s : State) (cl n : Nat) (w : Twin) : State :=
  let x := s.dev.ns - (w.t0 + w.ofs)
  let nexts := x / w.per
  let w1 := ((w.put 5 0).put 6 0).put 7 (wd nexts)
  let s1 := s.updWin cl n (fun _ => w1)
  (List.range w1.nslot).foldl (fun acc i => acc.initSlot cl w1 (nexts + i)) s1

def execTwget (h : Hdr) (o : FmtT) (s : State) : Out :=
  issue h s .normal [] [o.d] (fun t =>
    .done (t.self (fun c => c.writeS o.d ((t.myCluster.win o.sel.toNat).word o.imm.toNat))))

def execTwput (h : Hdr) (o : FmtT) (s : State) : Out :=
  issue h s .illegal [o.a] [o.d] (fun t =>
    if t.me.cdom ≠ 0 then .illegal
    else
      let ra := t.me.readS o.a
      let cl := gidCl t.cur.gid
      let n := o.sel.toNat
      let w := t.myCluster.win n
      let fin (b : Bool) (u : State) : Res := .done (u.setCtx t.cur (ra.2.writePO o.d b))
      if o.imm = 0 then
        let w1 := w.put 0 ra.1
        if !bit ra.1 63 then fin true (t.updWin cl n (fun _ => w1))
        else if !w1.inRange then fin false (t.updWin cl n (fun _ => w.put 0 (w.word 0 &&& 0x7FFFFFFFFFFFFFFF)))
        else
          (t.devGet false (((List.range w1.nslot).flatMap (t.slotLines w1)).foldl natIns [])).await t (fun u => fin true (u.startWindow cl n w1))
      else if w.active then fin false t
      else fin true (t.updWin cl n (fun _ => w.put o.imm.toNat ra.1)))

def execTwadv (h : Hdr) (o : FmtT) (s : State) : Out :=
  issue h s .illegal [o.a] [o.d] (fun t =>
    let a := t.cur
    let ra := t.me.readS o.a
    let n := ra.1.toNat
    let w := t.myCluster.win o.sel.toNat
    let own := t.me.cdom.toNat
    let mine := own = 0 || (match t.launch? w.lid with | some l => l.dom == own | none => false)
    let fin (u : State) (b : Bool) : Res := .done (u.setCtx a (ra.2.writePO o.d b))
    if decide (w.nslot = 0) || !mine || decide (t.dev.ns < w.tickOf n) then fin t false
    else if !orderOk t a t.me.seq (Order.cluster (gidCl a.gid)) || !fencesOk t a t.me.seq false true then .wait t
    else
      (t.devGet true (t.slotLines w n)).await t (fun t1 =>
        let t2 := t1.slotTrace w n
        match t2.partHome (w.slotAt n) with
        | none => fin t2 false
        | some home =>
          if (t2.slotWord w n 0).toNat ≠ n then fin t2 false
          else
            let v := t2.slotWord w n 1 ||| 2
            .done ((t2.setCtx a (ra.2.writePO o.d true)).writeHome
              ⟨home + 8, toBytes 8 v.toNat, false, a.gid, true, true, t2.me.obs, false, none, true, none⟩)))

end Sys2Proof.Machine
end

