-- ==== Sys2Proof/Machine/TransService.lean ====
section
/-! DEFINITION. The translation service of group 0xB: answers to miss records and the range check (R39-R43, R376), invalidation
(R45, R46, R377), completion notices (R52, R378) and the range table (R42, R379). -/

namespace Sys2Proof.Machine

open Sys2Proof

/-! ## tlbw (R39-R41, R376) -/

/-- Whether a range entry covers a page and grants what the TLB entry grants (R41). -/
def Rnge.admits (r : Rnge) (part : Nat) (e : TlbEntry) : Bool :=
  let n := 2 ^ (pageBits e.size - 16)
  bit r.w0 63 && decide (bits r.w0 54 52 = part) && decide (bits r.w0 51 16 ≤ e.pfn) && decide (e.pfn + n ≤ bits r.w1 51 16 + 1)
    && (!e.rd || bit r.w0 62) && (!e.wr || bit r.w0 61) && (!e.ex || bit r.w0 60)

def Cluster.range (k : Cluster) (i : Nat) : Rnge := Sparse.look Rnge.reset k.rnge i

/-- The range check of an entry: the lowest entry that admits it, and the entry with its host frame (R41). -/
def Cluster.rangeCheck (k : Cluster) (e : TlbEntry) : Option TlbEntry :=
  match (List.range 48).find? (fun i => (k.range i).admits k.part e) with
  | none => none
  | some i => some { e with pfn := (e.pfn + bits (k.range i).w2 51 16) % 2 ^ 36 }

/-- The fields of a `tlbw` target (R376). -/
structure TlbwTarget where
  gen : Nat
  fseq : Nat
  uns : Bool
  core : Nat
  bad : Bool
  deriving DecidableEq, Repr

def targetOf (w : Word) : TlbwTarget :=
  ⟨bits w 63 48, bits w 47 32, bit w 19, bits w 7 0, decide (bits w 31 20 ≠ 0) || decide (bits w 18 8 ≠ 0)⟩

/-- The generation a service core last observed from a core (R46). -/
def Cluster.genOf (k : Cluster) (idx : Nat) : Nat := (Sparse.look (0 : BitVec 16) k.gens idx).toNat

/-- Words 0 to 2 of a range-miss record: those of the miss that is answered, with VA replaced by the frame address (R41). An
unsolicited install has no miss: its record carries the target's fields and the entry's domain, and the fields that describe
a miss are free values. -/
def rangeMissWords (t : State) (g : Nat) (q : TlbwTarget) (gen : Nat) (e : TlbEntry) : List Word :=
  let gpa := wd (e.pfn * 65536)
  match (if q.uns then none else (t.core g).trackers.find? (fun k => decide (k.fseq = q.fseq))) with
  | some k => missWords g k gpa
  | none =>
    let f := (Config.freeWord t.fresh).toNat
    [gpa, wd (gen * 2 ^ 48 + q.fseq * 2 ^ 32 + e.dom * 2 ^ 20 + f % 2 ^ 12 * 2 ^ 8 + q.core),
      wd (f / 2 ^ 12 % 2 ^ 7 * 2 ^ 57)]

/-- `tlbw` with one disposition: 0 install, 1 upcall, 2 trap, 3 fail. -/
def tlbw (disp : Nat) (h : Hdr) (o : FmtT) (s : State) : Out :=
  issue h s .illegal ((if disp = 0 then pairOps o.a else []) ++ [o.b]) [o.d] (fun t =>
    let a := t.cur
    if !isSvc a.gid ∨ t.me.level ≠ .supervisor then .illegal
    else
      let w0 := (t.me.getX (opNum o.a)).val
      let w1 := (t.me.getX (opNum o.a + 1)).val
      let rb := t.me.readS o.b
      let q := targetOf rb.1
      let cl := gidCl a.gid
      let g := gidOf cl q.core
      let gen := if q.uns then t.myCluster.genOf q.core else q.gen
      let out (n : Nat) (u : State) : Res := .done (u.setCtx a (rb.2.writeS o.d (wd n)))
      let send (w0 w1 : Word) : Res :=
        .done { (t.setCtx a rb.2) with
          flights := t.flights ++ [.reply g cl disp o.imm.toNat q.fseq gen q.uns w0 w1 a o.d] }
      if q.bad then out 3 t
      else if disp ≠ 0 then send 0 0
      else
        match tlbOfWords w0 w1 with
        | none => out 3 t
        | some e =>
          match t.myCluster.rangeCheck e with
          | none => out 2 { (t.post cl 2 (rangeMissWords t g q gen e)) with fresh := t.fresh + 1 }
          | some e2 => send w0 (wd (w1.toNat - bits w1 51 16 * 65536 + e2.pfn * 65536)))

def execTlbwInstall (h : Hdr) (o : FmtT) (s : State) : Out := tlbw 0 h o s
def execTlbwUpcall (h : Hdr) (o : FmtT) (s : State) : Out := tlbw 1 h o s
def execTlbwTrap (h : Hdr) (o : FmtT) (s : State) : Out := tlbw 2 h o s
def execTlbwFail (h : Hdr) (o : FmtT) (s : State) : Out := tlbw 3 h o s

/-! ## tlbi (R45, R156, R377) -/

/-- Whether it removes the translation of a page of a domain. -/
def TlbiWhat.hits (w : TlbiWhat) (vpn size dom : Nat) : Bool :=
  match w with
  | .page va d => decide (d = dom) && decide (va57 va / 2 ^ pageBits size = vpn * 65536 / 2 ^ pageBits size)
  | .domain d => decide (d = dom)
  | .all => true

/-- Whether a context holds proposals that were stored under a translation it removes (R156). -/
def Ctx.storedUnder (c : Ctx) (w : TlbiWhat) : Bool :=
  match c.region with
  | none => false
  | some r => r.tokens.any (fun k => w.hits k.1 k.2 c.cdom.toNat)

/-- Accesses of a core in flight under a translation that `w` removes (R45), whether the entry still stands or not: context or channel,
kind and identity. Kind 0 is a load or atomic, 1 a store, 2 the buffer of a collective that waits, 4 + 2n and 5 + 2n source and
destination element n of an engine command, a migration among them. -/
def State.accessesUnder (s : State) (w : TlbiWhat) (g : Nat) : List (Nat × Nat × Nat) :=
  let c := s.core g
  let hit (via : List (Nat × Nat × Nat)) : Bool := via.any (fun v => w.hits v.1 v.2.1 v.2.2)
  let under (e : Option EngAt) : Bool := match e with | some e => hit e.via | none => false
  c.ctxs.flatMap (fun e =>
    ((e.2.pend.filter (fun p => hit p.via)).map (fun p => (e.1, 0, p.id)))
      ++ ((e.2.sb.filter (fun p => hit p.via)).map (fun p => (e.1, 1, p.seq))))
    ++ ((s.arrivals.filter (fun r => decide (r.agent.gid = g) && hit r.via)).map (fun r => (r.agent.ctx, 2, (s.ctx r.agent).seq)))
    ++ c.cmds.flatMap (fun e =>
      (if under e.2.rat then [(e.1, 4 + 2 * e.2.readPos, e.2.accepted)] else [])
        ++ (if under e.2.wat then [(e.1, 5 + 2 * e.2.writePos, e.2.accepted)] else []))

/-- The merge buffers of all members in merge mode, those of saved tasks among them. -/
def State.mergeBuffers (s : State) : List Merge :=
  s.cores.filterMap (fun e => e.2.mrg)
    ++ s.clusters.flatMap (fun e => e.2.queues.flatMap (fun q => q.items.flatMap (fun i => i.saved.filterMap (fun v => v.mrg))))

/-- Stores that wait for a merge under a translation that `w` removes from one of some cores, wherever their task is now (R45, R160): the
core of the translation, kind 3, and the moment of the store. -/
def State.mergesUnder (s : State) (w : TlbiWhat) (cores : List Nat) : List (Nat × Nat × Nat × Nat) :=
  s.mergeBuffers.flatMap (fun m =>
    (m.via.filter (fun v => cores.contains v.2.1 && w.hits v.2.2.1 v.2.2.2.1 v.2.2.2.2)).map (fun v => (v.2.1, 0, 3, v.1)))

/-- Whether an access is still in flight: core, context or channel, kind and identity. -/
def State.stillFlying (s : State) (w : Nat × Nat × Nat × Nat) : Bool :=
  let c := s.ctx ⟨w.1, w.2.1⟩
  match w.2.2.1 with
  | 0 => c.pend.any (fun p => decide (p.id = w.2.2.2))
  | 1 => c.sb.any (fun p => decide (p.seq = w.2.2.2))
  | 2 => s.arrivals.any (fun r => decide (r.agent = ⟨w.1, w.2.1⟩) && decide (c.seq = w.2.2.2))
  | 3 => s.mergeBuffers.any (fun m => m.via.any (fun v => decide (v.1 = w.2.2.2) && decide (v.2.1 = w.1)))
  | k + 4 =>
    match (s.core w.1).cmdAt w.2.1 w.2.2.2 with
    | none => false
    | some e => if k % 2 = 0 then e.rat.isSome && decide (e.readPos = k / 2) else e.wat.isSome && decide (e.writePos = k / 2)

/-- Remove entries on one core: its generation advances, what it has fetched of a next block is fetched anew, and the regions that
stored under a removed translation are abandoned (R45, R46, R156). -/
def State.tlbiCore (s : State) (w : TlbiWhat) (g : Nat) : State :=
  let s1 := s.updCore g (fun c => { c.refetch with tlb := c.tlb.filter (fun e => !w.hits e.vpn e.size e.dom), gen := c.gen + 1 })
  (((s1.core g).ctxs.filter (fun e => e.2.storedUnder w)).map (fun e => (⟨g, e.1⟩ : Agent))).foldl State.abandonFor s1

/-- A region that has been drawn holds proposals stored under a translation that `w` removes: the removal waits for it (R156). -/
def State.drawnUnder (s : State) (w : TlbiWhat) (g : Nat) : Bool :=
  (s.core g).ctxs.any (fun e => e.2.storedUnder w && (match e.2.busy with | some (.publish _ _) => true | _ => false))

/-- `tlbi` in one of its three forms (R45, R375, R377): legal at supervisor level. With device field 0xFF it asks the other devices of the
current gang too, and waits for their reports. -/
def tlbi (what : Ctx → TlbiWhat) (h : Hdr) (o : FmtT) (s : State) : Out :=
  issue h s .illegal (pairOps o.a ++ [o.b]) [] (fun t =>
    let a := t.cur
    match t.me.busy with
    | some (.invalidating ws devs) => if ws.any t.stillFlying || !devs.isEmpty then .wait t else .done t
    | _ =>
      let q := t.me.scopeArg o.b
      if t.me.level ≠ .supervisor ∨ !q.ok then .illegal
      else
        let w := what t.me
        let cores := if q.core then [a.gid] else rectCores q.scope
        if cores.any (t.drawnUnder w) then .wait t
        else
          let ws := cores.flatMap (fun g => (t.accessesUnder w g).map (fun x => (g, x))) ++ t.mergesUnder w cores
          let devs := (List.range 16).filter (fun p => bit (t.peerMask a.gid q) p)
          let t1 := cores.foldl (fun acc g => acc.tlbiCore w g) t
          .wait (t1.self (fun c => { c with busy := some (.invalidating ws devs) })))

def execTlbiPage (h : Hdr) (o : FmtT) (s : State) : Out :=
  tlbi (fun c => .page (c.getX (opNum o.a)).val (bits (c.getX (opNum o.a + 1)).val 11 0)) h o s
def execTlbiDomain (h : Hdr) (o : FmtT) (s : State) : Out :=
  tlbi (fun c => .domain (bits (c.getX (opNum o.a + 1)).val 11 0)) h o s
def execTlbiAll (h : Hdr) (o : FmtT) (s : State) : Out := tlbi (fun _ => .all) h o s

/-! ## fnote, rtab (R52, R378, R379) -/

/-- A `tlbw` of an agent is still on its way to its core. -/
def State.repliesOut (s : State) (a : Agent) : Bool :=
  s.flights.any (fun f => match f with | .reply _ _ _ _ _ _ _ _ _ v _ => decide (v = a) | _ => false)

/-- The bits of a notice's word 1 that R378 does not name. -/
def noticeReserved (w : Word) : Bool :=
  decide (bits w 63 48 ≠ 0) || decide (bits w 27 24 ≠ 0) || decide (bits w 7 4 ≠ 0)

/-- `fnote`: a release at cluster scope, after the agent's earlier `tlbw`s have taken effect (R52). The notice's arrival
adds one to the semaphore it names. -/
def execFnote (h : Hdr) (o : FmtT) (s : State) : Out :=
  issue h s .illegal (pairOps o.a) [] (fun t =>
    let a := t.cur
    let w1 := (t.me.getX (opNum o.a + 1)).val
    if !isSvc a.gid ∨ t.me.level ≠ .supervisor ∨ noticeReserved w1 then .illegal
    else if t.repliesOut a || !orderOk t a t.me.seq (Order.cluster (gidCl a.gid)) || !fencesOk t a t.me.seq false true then .wait t
    else
      let st := if bits w1 3 0 = 0 then 0 else 1
      let w := wd (w1.toNat / 16 * 16 + st)
      let m : Msg := ⟨recordBytes [(t.me.getX (opNum o.a)).val, w], true, 4, 0, 0⟩
      .done { t with flights := t.flights ++ [.msg (gidOf (gidCl a.gid) (bits w1 23 16)) m] })

/-- The reserved bits of a range-table word (R42). -/
def rngeReserved (sel : Nat) (w : Word) : Bool :=
  if sel = 0 then decide (bits w 59 55 ≠ 0) || decide (bits w 15 0 ≠ 0)
  else decide (bits w 63 52 ≠ 0) || decide (bits w 15 0 ≠ 0)

def execRtab (h : Hdr) (o : FmtT) (s : State) : Out :=
  issue h s .illegal [o.a] [] (fun t =>
    let a := t.cur
    if !isSvc a.gid ∨ t.me.level ≠ .hypervisor then .illegal
    else
      let ra := t.me.readS o.a
      let t1 := t.setCtx a ra.2
      if rngeReserved o.sel.toNat ra.1 then .done t1
      else
        .done (t1.updCluster (gidCl a.gid) (fun k =>
          let r := k.range o.imm.toNat
          let r2 : Rnge := if o.sel = 0 then { r with w0 := ra.1 } else if o.sel = 1 then { r with w1 := ra.1 } else { r with w2 := ra.1 }
          { k with rnge := Sparse.put Rnge.reset k.rnge o.imm.toNat r2 })))

def execRtabRd (h : Hdr) (o : FmtT) (s : State) : Out :=
  issue h s .illegal [] [o.d] (fun t =>
    if !isSvc t.cur.gid ∨ t.me.level ≠ .hypervisor then .illegal
    else
      let r := t.myCluster.range o.imm.toNat
      .done (t.self (fun c => c.writeS o.d (if o.sel = 0 then r.w0 else if o.sel = 1 then r.w1 else r.w2))))

end Sys2Proof.Machine
end

