-- ==== Sys2Proof/Machine/Moves.lean ====
section
/-! DEFINITION. The moves of the ordering machine (R123, R130): reads, stores, atomics and engine elements performed at their
homes, invalidations delivered, copies dropped; the fills and write-backs of the slices (R95, R100-R102) and the replies of
the directory handler (R143, R144). An event that its rule does not enable ends the step in a fault (log entry 15). -/

namespace Sys2Proof.Machine

open Sys2Proof

/-- An event: its effect, or the fault that it is not enabled. -/
def event (name : String) (r : Option State) : Out := match r with | some t => .next t | none => .fault (.notEnabled name)

/-! ## Loads -/

/-- The pending access and the unit an event names, the unit not yet performed. -/
def State.unitOf (s : State) (a : Agent) (j u : Nat) : Option (Access × AUnit) :=
  match (s.ctx a).pend[j]? with
  | none => none
  | some e =>
    match e.units[u]? with
    | none => none
    | some x => if x.got.isSome then none else some (e, x)

/-- R124 and R126 allow an access of an agent to be performed now, as a load, a store or both. -/
def State.mayPerform (s : State) (a : Agent) (seq : Nat) (o : Order) (addr len : Nat) (ld st : Bool) : Bool :=
  orderOk s a seq o && noPendOverlap (s.ctx a) seq addr len && fencesOk s a seq ld st

/-- An access of a context asks for its line. What lies in a hole asks for nothing (R112); a function that is not ready is waited for
(R430). -/
def State.askAccess (s : State) (a : Agent) (who : ReqWho) (addr pol : Nat) (wr more : Bool) : Ask :=
  if reservedPA s (s.partOf a.gid) (isSvc a.gid) addr then .go s
  else if notReadyPA s (s.partOf a.gid) (isSvc a.gid) addr then .no
  else s.askCore who a.gid addr pol wr more

/-- Whether an access has a unit besides unit `u` still to be performed in a line. -/
def Access.moreIn (e : Access) (s : State) (line u : Nat) : Bool :=
  (e.units.mapIdx (fun i x => decide (i ≠ u) && x.got.isNone && decide (fwdAddr s x.addr / 128 = line))).any (fun b => b)
def SbEntry.moreIn (e : SbEntry) (s : State) (line u : Nat) : Bool :=
  (e.units.mapIdx (fun i x => decide (i ≠ u) && !x.done && decide (fwdAddr s x.addr / 128 = line))).any (fun b => b)

/-- An access that goes on without the request it has made leaves it. -/
def State.unasked (s : State) (who : ReqWho) (line : Nat) : State := if s.sent who line then s.swept line else s

/-- What `wmon` remembers of a part that took its bytes at their home (R273): the line's version. -/
def State.tookHome (s : State) (addr len : Nat) : Option Took :=
  some ⟨s.version addr + 1, List.replicate len (s.version addr + 1)⟩

/-- What Read home does once the line is there: the unit takes the home copy's bytes; under an allocating policy the core gains a copy
(R123). -/
def State.takeHome (s : State) (a : Agent) (e : Access) (u : Nat) (x : AUnit) : State :=
  let addr := fwdAddr s x.addr
  let line := addr / 128
  let part := s.partOf a.gid
  if reservedPA s part (isSvc a.gid) addr then
    performUnit (s.noteHole addr) a e u (readHomeBytes s part (isSvc a.gid) addr x.len) (s.tookHome addr x.len)
  else
    let s1 := ((s.ownCopyOut a.gid line x.pol).scrubRead addr x.len).noteDecode addr x.pol
    let r := readHomeBytes s1 part (isSvc a.gid) addr x.len
    let s2 := s1.observe a (writersOf s1.writers addr x.len)
    let s3 := if x.pol ≤ 2 ∧ !isScratch addr then (s2.l1Data line a.gid x.pol).gainCopy line a.gid else s2
    performUnit s3 a e u r (s.tookHome addr x.len)

/-- Read home of a load's unit (R123). -/
def State.readHome (s : State) (a : Agent) (j u : Nat) : Option State :=
  match s.unitOf a j u with
  | none => none
  | some (e, x) =>
    let addr := fwdAddr s x.addr
    if e.op ≠ .load || !s.mayPerform a e.seq e.ord x.addr x.len true false || !noSbOverlap (s.ctx a) e.seq x.addr x.len
      || !e.unitFirst x then none
    else
      (s.askAccess a (.unit a 0 e.id 0) addr x.pol false (e.moreIn s (addr / 128) u)).andThen (fun t => t.takeHome a e u x)

/-- Read copy of a load's unit, from its core's data cache (R92, R123). -/
def State.readCopy (s : State) (a : Agent) (j u : Nat) : Option State :=
  match s.unitOf a j u with
  | none => none
  | some (e, x) =>
    let addr := fwdAddr s x.addr
    let line := addr / 128
    match (s.core a.gid).copy line with
    | none => none
    | some k =>
      if e.op ≠ .load || decide (2 < x.pol) || isScratch addr || !(s.core a.gid).l1.dl.contains line
        || !s.mayPerform a e.seq e.ord x.addr x.len true false || !noSbOverlap (s.ctx a) e.seq x.addr x.len || !e.unitFirst x then none
      else
        let o := addr % 128
        let r : HomeRead := ⟨(List.range x.len).map (fun i => lineByte k.data (o + i)), k.tags.getLsbD (o / 16), k.psn⟩
        let s1 := (s.l1Data line a.gid x.pol).observe a (writersOf k.writers addr x.len)
        let took : Took := ⟨s.version addr + 1, (List.range x.len).map (fun i => k.verAt (addr + i) + 1)⟩
        some ((performUnit s1 a e u r (some took)).unasked (.unit a 0 e.id 0) line)

/-- A load's unit takes the bytes of the youngest earlier store of its agent, which covers it (R123, R124). Until that store is performed
no write of them is later than the one that the load took (R273). -/
def State.forward (s : State) (a : Agent) (j u : Nat) : Option State :=
  match s.unitOf a j u with
  | none => none
  | some (e, x) =>
    match youngestOverlap (s.ctx a) e.seq x.addr x.len with
    | none => none
    | some (b, y) =>
      if e.op ≠ .load || !s.mayPerform a e.seq e.ord x.addr x.len true false || !e.unitFirst x
        || !(decide (y.addr ≤ x.addr) && decide (x.addr + x.len ≤ y.addr + y.len)) then none
      else
        let bs := ((b.data.drop y.off).drop (x.addr - y.addr)).take x.len
        let s1 := performUnit s a e u ⟨bs, b.tag && decide (y.len = 16), false⟩ none
        let m : Mon := ⟨e.seq, s.version (fwdAddr s x.addr) + 1, [], [(b.seq, x.addr, x.len)]⟩
        some ((s1.updCtx a (fun c => c.noteMon m (x.addr / 128))).unasked (.unit a 0 e.id 0) (fwdAddr s x.addr / 128))

/-! ## Stores and atomics -/

/-- After a write of a context: the write joins its observed set (R122). -/
def State.ownWrite (s : State) (a : Agent) (wid : Nat) : State :=
  if s.anyInFlight wid then s.updCtx a (fun c => { c with obs := natIns c.obs wid }) else s

/-- The write of a context at its home (R98, R121, R123); under an allocating policy the line becomes exclusive and dirty in its core's
data cache (R92). -/
def State.ctxWrite (s : State) (a : Agent) (addr pol : Nat) (data : List Byte) (tag : Bool) (o : Order) : State :=
  let line := addr / 128
  let near := decide (pol ≤ 2) && !isScratch addr
  let s1 := s.ownCopyOut a.gid line pol
  let s2 := s1.writeHome
    ⟨addr, data, tag, a.gid, false, o.rel, if o.rel then (s.ctx a).obs else [], near, s.partOf a.gid, isSvc a.gid, none⟩
  (if near then s2.ownLine line a.gid pol else s2).ownWrite a s1.nextWid

/-- A buffered store's unit is marked as performed; the store leaves the buffer with its last unit, and an acquire is
noted. -/
def Ctx.unitStored (c : Ctx) (j u now : Nat) : Ctx :=
  match c.sb[j]? with
  | none => c
  | some e =>
    let mark : SUnit → SUnit := fun x => { x with done := true }
    let e1 : SbEntry := { e with units := e.units.mapIdx (fun i x => if i = u then mark x else x) }
    if e1.units.all (fun x => x.done) then
      { c with
        sb := c.sb.eraseIdx j
        acqs := if e.ord.acq then c.acqs ++ [(e.seq, e.ord, now)] else c.acqs }
    else { c with sb := c.sb.set j e1 }

/-- What Perform store does once the line is there. A store of a whole line clears the line's poison with its last unit (R436); the bytes
that loads had taken from it took the version it makes (R273). -/
def State.storeHome (s : State) (a : Agent) (e : SbEntry) (j u : Nat) (x : SUnit) : State :=
  let addr := fwdAddr s x.addr
  let line := addr / 128
  let hole := reservedPA s (s.partOf a.gid) (isSvc a.gid) addr
  let more := e.moreIn s line u
  let s1 := if hole then (if more then s.noteHole addr else s.countHole addr)
    else s.ctxWrite a addr x.pol ((e.data.drop x.off).take x.len) e.tag e.ord
  let s2 := s1.updCtx a (fun c => (c.unitStored j u s.now).fwdStored (x.addr / 128) e.seq x.addr x.len (s1.version addr))
  let last := (e.units.mapIdx (fun i y => decide (i = u) || y.done)).all id
  if e.whole && last && !hole then s2.soundLine addr a.gid else s2

/-- Perform store of one unit of a buffered store (R123). -/
def State.performStore (s : State) (a : Agent) (j u : Nat) : Option State :=
  match (s.ctx a).sb[j]? with
  | none => none
  | some e =>
    match e.units[u]? with
    | none => none
    | some x =>
      let addr := fwdAddr s x.addr
      if x.done || !s.mayPerform a e.seq e.ord x.addr x.len false true || !noSbOverlap (s.ctx a) e.seq x.addr x.len
        then none
      else
        (s.askAccess a (.unit a 1 e.seq e.firstAddr) addr x.pol true (e.moreIn s (addr / 128) u)).andThen (fun t => t.storeHome a e j u x)

/-- What an atomic writes over `n` old bytes; none for a failed comparison (R298-R301). -/
def amoNew (op n : Nat) (old opnd cmp : List Byte) : Option (List Byte) :=
  let a := ofBytes old
  let b := ofBytes opnd
  let f := if n = 4 then 8 else 7
  match op with
  | 0 => some (toBytes n (a + b))
  | 1 => some (toBytes n (a &&& b))
  | 2 => some (toBytes n (a ||| b))
  | 3 => some (toBytes n (a ^^^ b))
  | 4 => some (toBytes n (if sext (8 * n) a ≤ sext (8 * n) b then a else b))
  | 5 => some (toBytes n (if sext (8 * n) a ≤ sext (8 * n) b then b else a))
  | 6 => some (toBytes n b)
  | 7 => if a = ofBytes cmp then some (toBytes n b) else none
  | _ => some (toBytes n (faddF f 0 false (decodeVal f a) (decodeVal f b)).raw)

/-- What an Atomic move does once the line is there: read, compute, write and perform (R130). A failed comparison writes nothing, but no
copy older than what it read stays in its core (R124). -/
def State.atomicHome (s : State) (a : Agent) (e : Access) (op u : Nat) (x : AUnit) : State :=
  let addr := fwdAddr s x.addr
  let line := addr / 128
  let part := s.partOf a.gid
  if reservedPA s part (isSvc a.gid) addr then
    performUnit (s.noteHole addr) a e u (readHomeBytes s part (isSvc a.gid) addr x.len) (if e.loads then s.tookHome addr x.len else none)
  else
    let s0 := s.scrub addr x.len
    let r := readHomeBytes s0 part (isSvc a.gid) addr x.len
    let s1 := s0.observe a (writersOf s0.writers addr x.len)
    let s2 := match amoNew op x.len r.bytes e.opnd e.cmp with
      | none => if isScratch addr then s1 else if x.pol ≤ 2 then s1.dropCopy line a.gid else s1.ownCopyOut a.gid line x.pol
      | some bs => s1.ctxWrite a addr x.pol bs false e.ord
    performUnit s2 a e u r (if e.loads then s2.tookHome addr x.len else none)

/-- One Atomic move (R130): an atomic's, ordered as a load and a store, or a reducing store's, ordered as a store (R126, R131). -/
def State.atomic (s : State) (a : Agent) (j u : Nat) : Option State :=
  match s.unitOf a j u with
  | none => none
  | some (e, x) =>
    let addr := fwdAddr s x.addr
    let perform (op : Nat) (ld : Bool) : Option State :=
      if !s.mayPerform a e.seq e.ord x.addr x.len ld true || !noSbOverlap (s.ctx a) e.seq x.addr x.len || !e.unitFirst x then none
      else
        (s.askAccess a (.unit a 0 e.id 0) addr x.pol true (e.moreIn s (addr / 128) u)).andThen (fun t => t.atomicHome a e op u x)
    match e.op with
    | .load => none
    | .amo op => perform op true
    | .red op => perform op false

/-! ## The events -/

def execReadHome (s : State) : Out :=
  match s.ev with
  | .access a j u =>
    event "READ_HOME" (if 11 ≤ a.ctx then (match s.migStep a.gid j u with | some t => some t | none => s.engineRead a.gid j u none)
      else s.readHome a j u)
  | .piece a j u n => event "READ_HOME" (if 11 ≤ a.ctx then s.engineRead a.gid j u (some n) else none)
  | .fetch a u => event "READ_HOME" (s.fetchUnit a u true)
  | _ => event "READ_HOME" none

def execReadCopy (s : State) : Out :=
  match s.ev with
  | .access a j u => event "READ_COPY" (s.readCopy a j u)
  | .fetch a u => event "READ_COPY" (s.fetchUnit a u false)
  | _ => event "READ_COPY" none

def execForward (s : State) : Out :=
  match s.ev with
  | .access a j u => event "FORWARD" (s.forward a j u)
  | _ => event "FORWARD" none

def execPerformStore (s : State) : Out :=
  match s.ev with
  | .access a j u => event "PERFORM_STORE" (if 11 ≤ a.ctx then s.engineWrite a.gid j u none else s.performStore a j u)
  | .piece a j u n => event "PERFORM_STORE" (if 11 ≤ a.ctx then s.engineWrite a.gid j u (some n) else none)
  | _ => event "PERFORM_STORE" none

def execAtomic (s : State) : Out :=
  match s.ev with
  | .access a j u => event "ATOMIC" (s.atomic a j u)
  | _ => event "ATOMIC" none

/-- An invalidation in flight is delivered: the target's copy is removed (R123). -/
def State.deliverInval (s : State) (wid g : Nat) : Option State :=
  match s.invals.find? (fun v => v.wid == wid && v.target == g) with
  | none => none
  | some v =>
    if g = allCores then none
    else
      let s1 := s.dropCopy v.line g
      some ({ s1 with invals := s1.invals.filter (fun w => w ≠ v) }).prune

def execDeliver (s : State) : Out :=
  match s.ev with
  | .two wid g => event "DELIVER" (s.deliverInval wid g)
  | _ => event "DELIVER" none

def execDrop (s : State) : Out :=
  match s.ev with
  | .two g line => event "DROP" (if ((s.core g).copy line).isSome then some (s.dropCopy line g) else none)
  | _ => event "DROP" none

/-! ## Slices -/

def execSliceFill (s : State) : Out :=
  match s.ev with
  | .one line => event "SLICE_FILL" (s.sliceFill line)
  | _ => event "SLICE_FILL" none

/-- A write-back slot drains, or an L1 victim entry moves into a slot (R101). -/
def execWriteBack (s : State) : Out :=
  match s.ev with
  | .one line => event "WRITE_BACK" (s.writeBack line)
  | .two g line => event "WRITE_BACK" (s.victimOut g line)
  | _ => event "WRITE_BACK" none

/-! ## Directory replies (R143, R144) -/

/-- The cores a reply lists. -/
def replyCores (bs : List Byte) : List Nat :=
  ((List.range 24).map (fun i => ofBytes ((bs.drop (16 + 2 * i)).take 2))).filter (fun c => c ≠ 0xFFFF)

/-- A handler's reply at its slice. -/
def State.directoryReply (s : State) (cl slice : Nat) (bs : List Byte) : State :=
  let w0 := wordAt bs 0
  let w1 := wordAt bs 1
  let line := bits w0 51 7
  let cseq := bits w1 63 48
  let k := (s.cluster cl).slice slice
  let opn := k.collects.find? (fun c => c.1 == cseq && c.2.1 == line)
  let bcst := bit w0 62
  if bits w0 61 52 ≠ 0 ∨ bits w0 6 0 ≠ 0 ∨ bits w1 47 0 ≠ 0 ∨ (opn.isNone ∧ !(bcst ∧ cseq = 0)) then
    s.count 10 (16 * cl + slice) 1
  else
    let held := k.present.contains line || opn.isSome
    let s1 := if bcst && held then s.updSlice cl slice (fun k => { k with bc := natIns k.bc line, ovf := natDel k.ovf line }) else s
    match opn with
    | none => { s1 with invals := s1.invals ++ (replyCores bs).map (fun g => (⟨0, line, g⟩ : Inval)) }
    | some c =>
      let wid := c.2.2
      let s2 := { s1 with invals := s1.invals ++ (replyCores bs).map (fun g => (⟨wid, line, g⟩ : Inval)) }
      if bit w0 63 then
        let s3 := { s2 with invals := s2.invals.erase ⟨wid, line, allCores⟩ }
        (s3.updSlice cl slice (fun k => { k with collects := k.collects.erase c })).prune
      else s2

/-- Whether of two flights the later waits for the earlier: records of the slices of a cluster arrive in their order (R142), and so do
the messages of one sender to one receiver (R364). -/
def Flight.follows (later earlier : Flight) : Bool :=
  match later, earlier with
  | .msg d m, .msg e k => decide (d = e) && decide (m.sys = k.sys)
      && (if m.sys then decide (m.sknd = 3) && decide (k.sknd = 3) else decide (m.cl = k.cl) && decide (m.idx = k.idx))
  | .dir c l _, .dir d m _ => decide (c = d) && decide (l = m)
  | .ubhal f _ _ _ _, .ubhal g _ _ _ _ => decide (f = g)
  | _, _ => false

/-- A flight arrives only after the flights that it follows. -/
def State.inOrder (s : State) (j : Nat) : Bool :=
  match s.flights[j]? with
  | none => false
  | some f => (s.flights.take j).all (fun e => !f.follows e)

/-- Take a flight out of the list. -/
def State.landed (s : State) (j : Nat) : State := { s with flights := s.flights.eraseIdx j }

def execDirectoryReply (s : State) : Out :=
  match s.ev with
  | .one j =>
    match s.flights[j]? with
    | some (.dir cl slice bs) => event "DIRECTORY_REPLY" (if s.inOrder j then some ((s.landed j).directoryReply cl slice bs) else none)
    | _ => event "DIRECTORY_REPLY" none
  | _ => event "DIRECTORY_REPLY" none

end Sys2Proof.Machine
end

