-- ==== Sys2Proof/Machine/Events.lean ====
section
/-! DEFINITION. Events that complete what an instruction began: answers to misses (R39-R49), messages and signals (R52, R214, R265,
R372), drains and rotations of banks (R77-R82), barriers and collectives (R138, R270, R366, R368), engine completions
(R135), joint rows (R363), tickets (R155), budgets (R222) and sequencer faults (R351). -/

namespace Sys2Proof.Machine

open Sys2Proof

/-! ## Answers to misses (R39, R40, R46, R48) -/

/-- One waiting context takes a disposition: 1 upcall, 2 trap, 3 fail (R39, R48, R49). A multicast or reducing store reports its
destination (R303). -/
def State.answerCtx (s : State) (a : Agent) (t : Tracker) (disp cause : Nat) : State :=
  let c := s.ctx a
  let h := c.curHdr
  let va := c.missEA.getD t.va
  let sub := if disp = 3 then 7 else cause
  if disp = 1 ∧ a.ctx < 11 then s.upcallOrTrap a h 0x0A cause va t.fseq t.kind cause
  else (s.addBack a h).deliverTrap a ⟨0x0A, sub, va, t.fseq⟩

/-- The commands of an engine channel that wait on a tracker stop at the element they wait for, with a translation error (R39). -/
def State.answerCmd (s : State) (g ch fseq : Nat) : State :=
  (List.range ((s.core g).queueOf ch).length).foldl (fun acc i =>
    match ((acc.core g).queueOf ch)[i]? with
    | none => acc
    | some c =>
      let acc1 := if c.waiting = some fseq then acc.stopAt g ch i 2 0 else acc
      if c.waitingW = some fseq then acc1.stopCmd g ch i 2 0 else acc1) s

/-- The commands of an engine channel that wait on a tracker look up again. -/
def Core.wake (k : Core) (ch fseq : Nat) : Core :=
  let go : Cmd → Cmd := fun c => { c with
    waiting := if c.waiting = some fseq then none else c.waiting
    waitingW := if c.waitingW = some fseq then none else c.waitingW }
  k.setQueue ch ((k.queueOf ch).map go)

/-- A generation older than another, modulo 2^16 (R46). -/
def genOlder (gen cur : Nat) : Bool :=
  let d := (cur + 65536 - gen % 65536) % 65536
  decide (d ≠ 0) && decide (d < 32768)

/-- A tracker is freed; the commands that waited on it look up again. -/
def State.freeTracker (s : State) (g : Nat) (t : Tracker) : State :=
  let s1 := s.updCore g (fun c => { c with trackers := c.trackers.filter (fun u => u.fseq ≠ t.fseq) })
  t.waiters.foldl (fun acc w => match w.2 with
    | some ch => acc.updCore g (fun k => k.wake ch t.fseq)
    | none => acc.updCtx ⟨g, w.1⟩ (fun c => { c with missEA := none })) s1

/-- An answer takes effect at its core: the new state and the outcome for D (R376). -/
def State.answer (s : State) (g disp cause fseq gen : Nat) (uns : Bool) (w0 w1 : Word) : State × Nat :=
  let tr := if uns then none else (s.core g).trackers.find? (fun t => decide (t.fseq = fseq))
  if disp = 0 then
    let s1 := match tr with | some t => s.freeTracker g t | none => s
    if genOlder gen (s.core g).gen.toNat then (s1, 4)
    else
      match tlbOfWords w0 w1 with
      | some e => (s1.updCore g (fun c => c.install e), 0)
      | none =>
        let e : TlbEntry := ⟨bits w0 63 23, bits w0 22 21, bits w0 11 0, bits w1 51 16, bits w1 15 14, bit w1 13, bit w1 12,
          bit w1 11, bit w1 10⟩
        (s1.updCore g (fun c => c.install e), 0)
  else
    match tr with
    | none => (s, 5)
    | some t =>
      if t.waiters.isEmpty then (s.freeTracker g t, 5)
      else
        let s1 := t.waiters.foldl (fun acc w => match w.2 with
          | some ch => acc.answerCmd g ch t.fseq
          | none => acc.answerCtx ⟨g, w.1⟩ t disp cause) s
        (s1.freeTracker g t, 1)

def execMissReply (s : State) : Out :=
  match s.ev with
  | .one j =>
    match s.flights[j]? with
    | some (.reply g _ disp cause fseq gen uns w0 w1 svc d) =>
      let r := (s.landed j).answer g disp cause fseq gen uns w0 w1
      event "MISS_REPLY" (some (r.1.updCtx svc (fun c => c.writeS d (wd r.2))))
    | _ => event "MISS_REPLY" none
  | _ => event "MISS_REPLY" none

/-! ## Messages and signals -/

/-- What the arrival of a device record does beside entering the queue: a miss record shows its core's generation to the
service core (R46), a notice adds one to the semaphore it names (R52). -/
def State.arrived (s : State) (dst : Nat) (m : Msg) : State :=
  if !m.sys then s
  else if m.sknd = 1 then
    s.updCluster (gidCl dst) (fun k =>
      { k with gens := Sparse.put 0 k.gens (bits (wordAt m.bytes 1) 7 0) (BitVec.ofNat 16 (bits (wordAt m.bytes 1) 63 48)) })
  else if m.sknd = 4 then s.addSem dst (bits (wordAt m.bytes 1) 15 8) 1
  else s

/-- A message arrives (R214, R430), or a request reaches the Ubhal (R428). -/
def State.messageArrival (s : State) (j : Nat) : Option State :=
  if !s.inOrder j then none else
  match s.flights[j]? with
  | some (.msg dst m) =>
    if (m.sys && decide (m.sknd = 1) && !s.ready (16 + gidCl dst)) then none
    else ((s.landed j).enqueueMsg dst m).map (fun t => t.arrived dst m)
  | some (.ubhal g level dom part bs) =>
    let r : UbReq := ⟨bs, some g, level, dom, part⟩
    some ((s.landed j).updDev (fun d => { d with ubq := d.ubq ++ [r] }))
  | _ => none

def execMessageArrival (s : State) : Out :=
  match s.ev with
  | .one j => event "MESSAGE_ARRIVAL" (s.messageArrival j)
  | _ => event "MESSAGE_ARRIVAL" none

def execSemSigArrival (s : State) : Out :=
  match s.ev with
  | .one j =>
    match s.flights[j]? with
    | some (.sigAdd g sem n) => event "SEM_SIG_ARRIVAL" (some ((s.landed j).addSem g sem n))
    | _ => event "SEM_SIG_ARRIVAL" none
  | _ => event "SEM_SIG_ARRIVAL" none

/-- The check of an agent's `sem.sig` returns: D, the increment on its way, and the instruction retires (R265). A context
that no longer waits for it has been ended, and nothing follows. -/
def State.sigReturn (s : State) (a : Agent) : Option State :=
  let p : Flight → Bool := fun f => match f with | .sigCheck b _ _ _ => b == a | _ => false
  match s.flights.findIdx? p with
  | none => none
  | some j =>
    match s.flights[j]?, (s.ctx a).busy with
    | some (.sigCheck _ tgt sem n), some (.sigCheck h d) =>
      let ok := decide ((s.core tgt).slotDom = (s.ctx a).cdom)
      let s1 := s.landed j
      let s2 := if ok then { s1 with flights := s1.flights ++ [.sigAdd tgt sem n] } else s1
      some ((s2.updCtx a (fun c => c.writePO d ok)).retire a h)
    | _, _ => some (s.landed j)

def execSemSigCheckReturn (s : State) : Out :=
  match s.ev with
  | .agent a => event "SEM_SIG_CHECK_RETURN" (s.sigReturn a)
  | _ => event "SEM_SIG_CHECK_RETURN" none

/-- A change of a queue's base level arrives; the aging of its records restarts (R193, R372). -/
def execQprioChangeArrival (s : State) : Out :=
  match s.ev with
  | .one j =>
    match s.flights[j]? with
    | some (.qprio cl lid stage lvl) =>
      event "QPRIO_CHANGE_ARRIVAL" (some ((s.landed j).updCluster cl (fun k =>
        k.updQueue lid stage (fun q => { q with base := lvl, age := 0, aged := 0, past := q.past.map (fun e => (e.1, 0, 0, e.2.2.2)) }))))
    | _ => event "QPRIO_CHANGE_ARRIVAL" none
  | _ => event "QPRIO_CHANGE_ARRIVAL" none

/-! ## Banks -/

/-- The waiting instruction of a drain retires, or only its signal clause fires (R80). -/
def State.endDrain (s : State) (g : Nat) (d : Drain) : State :=
  let s1 := s.updCore g (fun c => { c with drains := c.drains.erase d })
  let a : Agent := ⟨g, d.ctx⟩
  match d.held, (s1.ctx a).busy with
  | true, some (.drain h o) => (s1.updCtx a (fun c => c.bankResult o 0)).retire a h
  | _, _ => if d.si = 0 then s1 else s1.addSem g d.ss.toNat d.si.toNat

/-- A give's drain ends (R77). -/
def State.giveDone (s : State) (g slot : Nat) : Option State :=
  match (s.core g).drains.find? (fun d => d.kind == 0 && d.slot == slot) with
  | none => none
  | some d =>
    if s.bankBusy (gidCl g) d.bank then none
    else
      let s1 := s.updCore g (fun c => c.setSlot slot { c.slot slot with out := false })
      let s2 := s1.updCore d.tgt (fun c => c.setSlot d.tslot ⟨true, false, false, d.bank⟩)
      some ((s2.addSem d.tgt d.tsem 1).endDrain g d)

def execBgiveDrainComplete (s : State) : Out :=
  match s.ev with
  | .two g slot => event "BGIVE_DRAIN_COMPLETE" (s.giveDone g slot)
  | _ => event "BGIVE_DRAIN_COMPLETE" none

/-- Whether what a free, a `bdrain` or a kept bank waits for is over (R79, R219). -/
def State.drainOver (s : State) (g : Nat) (d : Drain) : Bool :=
  if d.kind = 2 then
    let now := s.flightsThrough g (gidCl g) d.bank
    d.waits.all (fun w => !now.contains w)
  else !s.bankBusy (gidCl g) d.bank

/-- The drain of a free, of a `bdrain`, or of a bank that leaves its core with a task ends (R79, R70, R219). -/
def State.freeDone (s : State) (g slot : Nat) : Option State :=
  let p : Drain → Bool := fun d => d.slot == slot && !(d.kind == 0 || d.kind == 3) && s.drainOver g d
  match (s.core g).drains.find? p with
  | none => none
  | some d =>
    let s1 := if d.kind = 2 then s
      else s.updCore g (fun c => c.setSlot slot { c.slot slot with out := false })
    let s2 := if d.kind = 1 ∨ d.kind = 4 then
        s1.updCluster (gidCl g) (fun k => { k with zeroing := natIns k.zeroing d.bank })
      else s1
    some (s2.endDrain g d)

def execBfreeDrainComplete (s : State) : Out :=
  match s.ev with
  | .two g slot => event "BFREE_DRAIN_COMPLETE" (s.freeDone g slot)
  | _ => event "BFREE_DRAIN_COMPLETE" none

/-- A bank's bytes become zero, its tags clear, its rows lose their poison and their errors; the parity of its group follows, as the
XOR of its banks (R63, R76, R79, R436). -/
def State.zeroBank (s : State) (cl n : Nat) : State :=
  let lo := bankAddr cl n 0
  let hi := lo + 65536
  { s with
    mem := s.mem.filter (fun c => !(decide (lo ≤ c.1) && decide (c.1 < hi)))
    tags := s.tags.filter (fun t => !(decide (lo / 16 ≤ t) && decide (t < hi / 16)))
    poison := s.poison.filter (fun l => !(decide (lo / 128 ≤ l) && decide (l < hi / 128)))
    ecc := s.ecc.filter (fun e => !(decide (lo / 8 ≤ e.1) && decide (e.1 < hi / 8)))
    writers := s.writers.filter (fun e => !(decide (lo ≤ e.1) && decide (e.1 < hi))) }

/-- A bank ends its 512 cycles of zeroing and enters the pool; a failing bank stays out of it (R79, R432). -/
def State.zeroingDone (s : State) (cl n : Nat) : Option State :=
  if (s.cluster cl).zeroing.contains n then
    some ((s.zeroBank cl n).updCluster cl (fun k => { k with
      zeroing := natDel k.zeroing n
      taken := if k.failing.contains n then k.taken else natDel k.taken n }))
  else none

def execBankZeroingComplete (s : State) : Out :=
  match s.ev with
  | .two cl n => event "BANK_ZEROING_COMPLETE" (s.zeroingDone cl n)
  | _ => event "BANK_ZEROING_COMPLETE" none

/-! ## Ring rotation (R81, R82) -/

/-- A context released from a barrier retires, after a change of its own. -/
def State.release (s : State) (a : Agent) (f : Operand → Ctx → Ctx) : State :=
  match (s.ctx a).busy with
  | some (.barrier h d) => (s.updCtx a (f d)).retire a h
  | _ => s

def BarKind.isRing : BarKind → Bool
  | .ring _ => true
  | _ => false

/-- The first arrival of a core at a ring. DESIGN CHOICE (log entry 32): where two contexts of a core wait at rings, the one that
arrived first counts, and it is compared with any ring that lists the core. -/
def State.ringArrival (s : State) (g : Nat) : Option Arrival :=
  s.arrivals.find? (fun r => r.agent.gid == g && r.kind.isRing)

/-- All members of a core's ring have arrived: they are compared, and take their indivisible steps at once (R82). -/
def State.ringStart (s : State) (g : Nat) : Option State :=
  match s.ringArrival g with
  | none => none
  | some r0 =>
    let ms := r0.members
    let rs := ms.filterMap s.ringArrival
    if rs.length ≠ ms.length then none
    else
      let cl := gidCl g
      let gone (u : State) : State := { u with arrivals := u.arrivals.filter (fun r => !rs.contains r) }
      let same := rs.all (fun r => r.members == r0.members && r.w0 == r0.w0 && r.w1 == r0.w1
        && (s.core r.agent.gid).slotDom == (s.core g).slotDom)
      let slot := r0.w0.toNat
      if !same then some (rs.foldl (fun acc r => acc.release r.agent (fun d c => c.bankResult d 7)) (gone s))
      else if ms.length = 1 then some (rs.foldl (fun acc r => acc.release r.agent (fun d c => c.bankResult d 0)) (gone s))
      else if ms.any (fun m => let b := (s.core m).slot slot; b.valid && s.publishing cl b.bank) then none
      else
        let n := ms.length
        some ((List.range n).foldl (fun acc i =>
          let m := ms.getD i 0
          let tgt := if r0.w1 = 0 then ms.getD ((i + 1) % n) 0 else ms.getD ((i + n - 1) % n) 0
          let b := (acc.core m).slot slot
          let ctx := match s.ringArrival m with | some r => r.agent.ctx | none => 0
          match (acc.ctx ⟨m, ctx⟩).busy with
          | some (.barrier h d) =>
            let a1 := if b.valid then acc.abandonBank cl b.bank else acc
            let dr : Drain := ⟨3, slot, if b.valid then b.bank else 2048, tgt, slot, 0, ctx, true, h.ss, h.si,
              ms.map (fun k => (k, s.now, 0))⟩
            (a1.updCore m (fun c =>
              { (if b.valid then c.unmapSlot slot else c) with drains := c.drains ++ [dr] })).updCtx ⟨m, ctx⟩
                (fun c => { c with busy := some (.drain h d) })
          | _ => acc) (gone s))

def execRingrotBarrierComplete (s : State) : Out :=
  match s.ev with
  | .one g => event "RINGROT_BARRIER_COMPLETE" (s.ringStart g)
  | _ => event "RINGROT_BARRIER_COMPLETE" none

/-- The drains of the rotation that a drain belongs to, by member: rotations that start at different moments are apart. -/
def State.ringOf (s : State) (d0 : Drain) : List (Nat × Drain) :=
  d0.waits.filterMap (fun w => ((s.core w.1).drains.find? (fun d => d.kind == 3 && d.waits == d0.waits)).map (fun d => (w.1, d)))

/-- The last drain of a ring ends: every member's slot receives its rotated contents (R82). DESIGN CHOICE (log entry 32): the slot of a
member that gives nothing is not reserved meanwhile. What enters it there is overwritten when that member receives a bank; a member that
receives none keeps it. -/
def State.ringDone (s : State) (g : Nat) : Option State :=
  let done (ds : List (Nat × Drain)) : Bool := ds.all (fun e => decide (2048 ≤ e.2.bank) || !s.bankBusy (gidCl g) e.2.bank)
  match (s.core g).drains.find? (fun d => d.kind == 3 && done (s.ringOf d)) with
  | none => none
  | some d0 =>
    let ds := s.ringOf d0
    let s1 := ds.foldl (fun acc e => acc.updCore e.1 (fun c => c.setSlot e.2.slot { c.slot e.2.slot with out := false })) s
    let s2 := ds.foldl (fun acc e =>
      if e.2.bank < 2048 then acc.updCore e.2.tgt (fun c => c.setSlot e.2.tslot ⟨true, false, false, e.2.bank⟩) else acc) s1
    some (ds.foldl (fun acc e => acc.endDrain e.1 e.2) s2)

def execRingrotDrainComplete (s : State) : Out :=
  match s.ev with
  | .one g => event "RINGROT_DRAIN_COMPLETE" (s.ringDone g)
  | _ => event "RINGROT_DRAIN_COMPLETE" none

/-! ## Barriers (R138, R270, R271, R366) -/

/-- The cores of each peer device among the members of an arrival's barrier: with DEV 0xFF those of the rectangle (R120). -/
def Arrival.farRect (r : Arrival) : List Nat :=
  let rect (w : Word) (core : Bool) : List Nat := if !core && decide (bits w 39 32 = 255) then rectCores w else []
  match r.kind with
  | .bar w core => rect w core
  | .sstep _ w core => rect w core
  | _ => []

/-- Two arrivals at the same barrier: its member set decides, whether `bar` or `xphase` arrives (R270, R366); `w0` names the peer devices
among its members. -/
def sameBarrier (a b : Arrival) : Bool :=
  let wired (k : BarKind) : Bool := match k with | .bar _ _ => true | .xphase _ _ _ => true | _ => false
  match a.kind, b.kind with
  | .gang l, .gang m => l == m
  | k, m => wired k && wired m && a.members == b.members && a.farRect == b.farRect && a.w0 == b.w0

/-- Two arrivals at the same superstep barrier: the tasks of one launch and stage that name the same cores (R272). -/
def sameSstep (a b : Arrival) : Bool :=
  match a.kind, b.kind with
  | .sstep l _ _, .sstep m _ _ => l == m && a.w0 == b.w0 && a.members == b.members && a.farRect == b.farRect
  | _, _ => false

/-- The scope at which an arrival orders. -/
def Arrival.scope (r : Arrival) : Order :=
  match r.kind with
  | .bar w c => ⟨true, false, w, c⟩
  | .xphase w c _ => ⟨true, false, w, c⟩
  | _ => ⟨true, false, deviceScope ||| 0xFF00000000, false⟩

/-- The peer devices of a launch's gang. -/
def State.gangPeers (s : State) (lid : Nat) : List Nat := match s.launch? lid with | some l => l.peers | none => []

/-- The peer devices that an arrival's barrier spans (R120, R271, R272). -/
def State.farDevs (s : State) (r : Arrival) : List Nat :=
  match r.kind with
  | .gang l => s.gangPeers l
  | .sstep l _ _ => if r.farRect.isEmpty then [] else s.gangPeers l
  | _ => (List.range 16).filter (fun p => bit r.w0 p)

/-- Whether the arrival of a peer's core is one at the barrier of an arrival: their member sets agree on every device. -/
def State.meets (s : State) (q : Remote) (r : Arrival) : Bool :=
  let ds := s.farDevs r
  let rect (w : Word) (core : Bool) : Bool :=
    !core && decide (bits w 39 32 = 255) && rectCores w == r.members && r.farRect == r.members && r.members.contains q.gid
  ds.contains q.dev && ds.all (fun d => q.devs.contains d) && q.devs.all (fun d => ds.contains d) &&
  (match q.kind, r.kind with
   | .gang l, .gang m => l == m
   | .bar w core, .bar _ _ => rect w core
   | .sstep l w core, .sstep m _ _ => l == m && q.w0 == r.w0 && rect w core
   | _, _ => false)

/-- The peer devices have arrived: every core of the rectangle on each; of the gang's barrier, every running task; of a superstep's, the
cores of the rectangle that run tasks of its launch and stage. -/
def State.farArrived (s : State) (r : Arrival) : Bool :=
  (s.farDevs r).all (fun p =>
    let come (m : Nat) : Bool := s.remote.any (fun q => decide (q.dev = p) && decide (q.gid = m) && s.meets q r)
    match r.kind with
    | .gang l => (s.far.filter (fun t => decide (t.dev = p) && decide (t.lid = l))).all (fun t => t.members.any come)
    | .sstep l _ _ => (s.far.filter (fun t => decide (t.dev = p) && decide (t.lid = l) && decide (t.stage = r.w0.toNat))).all (fun t =>
        t.members.all (fun m => !r.farRect.contains m || come m))
    | _ => r.farRect.all come)

/-- Every core, or every running task of the gang, has arrived, on every device (R270, R271). -/
def State.allArrived (s : State) (r : Arrival) (rs : List Arrival) : Bool :=
  s.farArrived r &&
  match r.kind with
  | .gang l =>
    s.cores.all (fun e => match e.2.task with
      | some t => !(decide (t.lid = l)) || t.members.any (fun m => rs.any (fun q => decide (q.agent.gid = m)))
      | none => true)
  | _ => r.members.all (fun m => rs.any (fun q => decide (q.agent.gid = m)))

/-- An agent passes a barrier at this moment: its later accesses wait as after an acquire (R138). -/
def Ctx.passed (c : Ctx) (o : Order) (now : Nat) : Ctx :=
  { c with acqs := c.acqs ++ [(c.seq, o, now)], seq := c.seq + 1 }

/-- An exchange phase opens on a core; the second context that passes its barrier finds it open. -/
def Core.openPhase (c : Core) (p : Phase) : Core :=
  if c.phase = some p then c else { c.closePhase with phase := some p, lateCount := 0 }

/-- A barrier passes: all contexts that wait at it retire. An exchange phase opens in the next cycle, and D receives the late
instructions of the phase before (R366). -/
def State.barPass (s : State) (a : Agent) : Option State :=
  match s.arrivals.find? (fun r => r.agent == a && sameBarrier r r) with
  | none => none
  | some r0 =>
    let rs := s.arrivals.filter (sameBarrier r0)
    if !s.allArrived r0 rs || !rs.all (fun r => relDone s r.agent r.scope (s.ctx r.agent).seq) then none
    else
      let s1 := { s with
        arrivals := s.arrivals.filter (fun r => !sameBarrier r0 r)
        remote := s.remote.filter (fun q => !s.meets q r0) }
      some (rs.foldl (fun acc r =>
        let g := r.agent.gid
        match r.kind with
        | .xphase _ _ len =>
          let late := (s.core g).lateCount
          let ph : Phase := ⟨acc.dev.cyc + 1, len, r.members, [], [], 0⟩
          (acc.updCore g (fun c => c.openPhase ph)).release r.agent (fun d c =>
            (c.passed r.scope s.now).writeS d (wd late))
        | _ => acc.release r.agent (fun _ c => c.passed r.scope s.now)) s1)

def execBarPass (s : State) : Out :=
  match s.ev with
  | .agent a => event "BAR_PASS" (s.barPass a)
  | _ => event "BAR_PASS" none

/-! ## Collectives (R368, R369) -/

/-- What a rank of a group has brought to a collective: the arrival of a core of this device, or that of a peer's core (R418). -/
inductive Rank where
  | near (r : Arrival)
  | far (q : Remote)
  deriving DecidableEq, Repr

/-- The words that a rank arrived with. -/
def Rank.words (k : Rank) : Word × Word := match k with | .near r => (r.w0, r.w1) | .far q => (q.w0, q.w1)

/-- What each rank of a group has brought. -/
def State.ranks (s : State) (part grp : Nat) : List (Option Rank) :=
  (s.groupMembers part grp).map (fun m =>
    if m.1 = 31 then (s.arrivals.find? (fun r => r.agent.gid == m.2 && r.kind == .coll part grp)).map Rank.near
    else (s.remote.find? (fun q => q.dev == m.1 && q.gid == m.2 && q.kind == .coll part grp)).map Rank.far)

/-- All members of a group have arrived: the collective runs to completion. -/
def State.collectiveRun (s : State) (part grp : Nat) : Option State :=
  let ks := s.ranks part grp
  let ls := ks.filterMap (fun k => k)
  let rs := ls.filterMap (fun k => match k with | .near r => some r | .far _ => none)
  let qs := ls.filterMap (fun k => match k with | .far q => some q | .near _ => none)
  match rs with
  | [] => none
  | r0 :: _ =>
    if ls.length ≠ ks.length then none
    else
      let gone (u : State) : State := { u with
        arrivals := u.arrivals.filter (fun r => !rs.contains r), remote := u.remote.filter (fun q => !qs.contains q) }
      if !ls.all (fun k => k.words == (r0.w0, r0.w1)) then
        some (rs.foldl (fun acc r => acc.release r.agent (fun d c => c.writeS d (collStatus 0xE 0 0))) (gone s))
      else
        (s.askBuffers rs).andThen (fun t =>
          let kind := bits r0.w1 15 8
          let f := bits r0.w1 3 0
          let count := bits r0.w0 31 0
          let rd := ls.foldl (fun (acc : List (List Byte) × State) k =>
            match k with
            | .near r => let x := acc.2.bufRead r.agent.gid r.places; (acc.1 ++ [x.1], x.2)
            | .far q => (acc.1 ++ [padTo 0 (collBytes kind f count ls.length) q.data], acc.2)) (([] : List (List Byte)), gone t)
          let out := collResult kind f (bits r0.w1 7 4) (bits r0.w0 63 56) count rd.1
          let bad (i : Nat) : Bool := out.2.contains (i / 4096)
          let st := collStatus (if out.2.isEmpty then 0 else 0xA) out.2.length out.1.length
          rs.foldl (fun acc r =>
            (acc.bufWrite r.agent r.places out.1 bad).release r.agent (fun d c => c.writeS d st)) rd.2)

def execCollectiveAllArrived (s : State) : Out :=
  match s.ev with
  | .two part grp => event "COLLECTIVE_ALL_ARRIVED" (s.collectiveRun part grp)
  | _ => event "COLLECTIVE_ALL_ARRIVED" none

/-! ## Engines, tickets, budgets -/

def execEngineCommandCompletion (s : State) : Out :=
  match s.ev with
  | .three g ch i => event "ENGINE_COMMAND_COMPLETION" (s.engineComplete g ch i)
  | _ => event "ENGINE_COMMAND_COMPLETION" none

def execJointRowFormed (s : State) : Out :=
  match s.ev with
  | .one g => event "JOINT_ROW_FORMED" (s.formRow g)
  | _ => event "JOINT_ROW_FORMED" none

/-- A sequencer's fault ends its run and is held for the task, the copy sequencer's first (R351). -/
def State.seqFault (s : State) (a : Agent) : Option State :=
  match (s.ctx a).sfault with
  | none => none
  | some f =>
    let s1 := s.updCtx a (fun c => { c with live := false, busy := none, blk := none, sfault := none })
    some ((s1.updCore a.gid (fun c => { c with faults := if a.ctx = 12 then f :: c.faults else c.faults ++ [f] })).dissolveRow a)

def execSequencerFault (s : State) : Out :=
  match s.ev with
  | .agent a => event "SEQUENCER_FAULT" (s.seqFault a)
  | _ => event "SEQUENCER_FAULT" none

/-- HEAD passes the ticket it stands at once that ticket is resolved and none of its writes has an invalidation in flight to
a core of the cluster (R155). -/
def State.ticketResolve (s : State) (cl st : Nat) : Option State :=
  let q := (s.cluster cl).stream st
  match q.resolved.find? (fun r => r.1 == q.head) with
  | none => none
  | some r =>
    if s.invals.any (fun v => r.2.contains v.wid && (v.target == allCores || decide (gidCl v.target = cl))) then none
    else
      let opn := s.cores.any (fun e => decide (gidCl e.1 = cl) && e.2.ctxs.any (fun x => x.2.region.isSome))
      let stamp : BitVec 32 × Nat × List Nat → BitVec 32 × Nat × List Nat :=
        fun p => if p.1 = q.head ∧ p.2.1 = 0 then (p.1, s.dev.cyc + 1, p.2.2) else p
      let pubs := (q.pubs.map stamp).filter (fun p => opn || decide (p.2.1 = 0) || decide (p.2.1 = s.dev.cyc + 1))
      some (s.updStream cl st (fun q => { q with head := q.head + 1, resolved := q.resolved.erase r, pubs := pubs }))

def execTicketResolve (s : State) : Out :=
  match s.ev with
  | .two cl st => event "TICKET_RESOLVE" (s.ticketResolve cl st)
  | _ => event "TICKET_RESOLVE" none

/-- The members of a superstep barrier: the tasks of its launch and stage on the cores of its rectangle (R163, R272). -/
def State.sstepMembers (s : State) (lid stage : Nat) (ms : List Nat) : List Nat :=
  ms.filter (fun m => match (s.core m).task with | some t => t.lid == lid && t.stage == stage | none => false)

/-- Every member of the superstep barrier of an arrival has arrived, on every device. -/
def State.sstepFull (s : State) (r : Arrival) : Bool :=
  match r.kind with
  | .sstep lid _ _ =>
    (s.sstepMembers lid r.w0.toNat r.members).all (fun m => s.arrivals.any (fun q => sameSstep r q && decide (q.agent.gid = m)))
      && s.farArrived r
  | _ => false

/-- Every member of a collective has arrived: it runs to completion (R368). -/
def State.collFull (s : State) (r : Arrival) : Bool :=
  match r.kind with
  | .coll part grp => (s.ranks part grp).all (fun k => k.isSome)
  | _ => false

/-- A superstep rollback is due at a core: its member has failed (R226). -/
def Core.failed (c : Core) : Bool := match c.mrg with | some m => m.failed | none => false

/-- A forced save is due: DLC has reached zero before a save was done, and no complete superstep barrier has still to merge and no complete
collective to run (R219, R368, R438). The Rake's stop and a rollback come first (R209). -/
def State.saveDue (s : State) (g : Nat) : Bool :=
  let c := s.core g
  match c.task with
  | none => false
  | some t =>
    c.req && decide (c.dlc = 0) && decide (c.saving ≠ 2) && !c.stopped && c.binding.isNone && !t.halted
      && !t.members.any (fun m => (s.core m).failed)
      && !s.arrivals.any (fun r => t.members.contains r.agent.gid && (s.sstepFull r || s.collFull r))

/-- A context past a step of its own that must run on to its retirement (R152, R265). -/
def Ctx.runsOn (c : Ctx) : Bool :=
  match c.busy with
  | some (.publish _ _) => true
  | some (.sigCheck _ _) => true
  | some (.written _) => true
  | _ => false

/-- A budgeted helper whose cycles are used up is ended (R222), at an instruction boundary or while it waits; a Rake stop, a rollback and
a forced save come first (R209). -/
def State.budgetExpiry (s : State) (a : Agent) : Option State :=
  let k := s.core a.gid
  let c := s.ctx a
  if 1 ≤ a.ctx ∧ a.ctx ≤ 10 ∧ c.live ∧ c.budg.arm ∧ c.budg.cnt = 0 ∧ !c.runsOn ∧ !k.stopped ∧ !k.failed ∧ k.saving ≠ 2
      ∧ !s.saveDue a.gid then
    some (s.endHelper a 8)
  else none

def execBudgetExpiry (s : State) : Out :=
  match s.ev with
  | .agent a => event "BUDGET_EXPIRY" (s.budgetExpiry a)
  | _ => event "BUDGET_EXPIRY" none

end Sys2Proof.Machine
end

