-- ==== Sys2Proof/Machine/Sched.lean ====
section
/-! DEFINITION. The cluster distributor and the launches it serves: selection, placement, binding and restoring (R70, R71, R190-R192,
R220), aging, rebalancing and pre-emption requests (R191, R194, R195), stage-0 tasks, the end of tasks and STATUS (R186, R189), gangs
(R198), the fallback (R199), the ticks of the time window (R203, R204), the lock of device time (R420), and the Rake (R223, R224). -/

namespace Sys2Proof.Machine

open Sys2Proof

/-! ## Slots emptied by the device (R70, R219, R224) -/

/-- A valid slot of a core becomes the subject of a `bfree` (kind 4), or its bank is kept for a saved task (kind 5); not while a
region between its draw and its publication holds proposals for the bank (R156). -/
def State.freeSlot (s : State) (g slot kind : Nat) : Option State :=
  let b := (s.core g).slot slot
  if !b.valid then some s
  else if s.publishing (gidCl g) b.bank then none
  else
    some ((s.abandonBank (gidCl g) b.bank).updCore g (fun c =>
      { (c.unmapSlot slot) with
        drains := c.drains ++ [⟨kind, slot, b.bank, 0, 0, 0, 0, false, 0, 0, []⟩] }))

/-- Whether a region stands in the way of emptying any valid slot of a core. -/
def State.slotsHeld (s : State) (g : Nat) : Bool :=
  (List.range 8).any (fun i => let b := (s.core g).slot i; b.valid && s.publishing (gidCl g) b.bank)

/-- Every valid slot of a core is emptied that can be. -/
def State.freeSlots (s : State) (g kind : Nat) : State :=
  (List.range 8).foldl (fun acc i => (acc.freeSlot g i kind).getD acc) s

/-! ## Heads and levels (R191) -/

/-- The head of a queue: a saved task, else the oldest record whose task is ready (R191, R220). -/
def Cluster.head (k : Cluster) (q : StageQ) : Option QItem :=
  match q.items.find? (fun i => !i.saved.isEmpty) with
  | some i => some i
  | none => q.items.find? (fun i => depReady k i.ord)

/-- A queue as it stands with its present head: each record that still waits keeps the age and wait it has had as a ready head, also while
an older record stands before it (R191, R195). -/
def StageQ.facing (q : StageQ) (h : Option QItem) : StageQ :=
  let n := match h with | some i => i.ord + 1 | none => 0
  if q.headOrd = n then q
  else
    let kept := (if q.headOrd = 0 then [] else [(q.headOrd, q.age, q.aged, q.waited)]) ++ q.past
    let past := kept.filter (fun e => decide (e.1 ≠ n) && q.items.any (fun i => decide (i.ord + 1 = e.1)))
    match kept.find? (fun e => decide (e.1 = n)) with
    | some e => { q with headOrd := n, age := e.2.1, aged := e.2.2.1, waited := e.2.2.2, past := past }
    | none => { q with headOrd := n, age := 0, aged := 0, waited := 0, past := past }

/-- Effective level of a queue (R191). -/
def StageQ.level (q : StageQ) : Nat := if 22 < q.base then 23 else min 22 (q.base + q.age)

/-- The queues of a cluster that have a ready head. -/
def Cluster.heads (k : Cluster) : List (StageQ × QItem) := k.queues.filterMap (fun q => (k.head q).map (fun i => (q.facing (some i), i)))

/-- Order of queues: launch number, then stage (R192). -/
def StageQ.key (q : StageQ) : Nat := q.lid * 8 + q.stage

/-- The least key above a bound among queues. -/
def leastAbove (lo : Nat) (l : List (StageQ × QItem)) : Option (StageQ × QItem) :=
  l.foldl (fun acc e =>
    if e.1.key < lo then acc
    else
      match acc with
      | none => some e
      | some b => if e.1.key < b.1.key then some e else some b) none

/-! ## Placement (R71, R192, R220) -/

/-- A core that can take a task: no task, no running context, not stopped. -/
def State.coreIdle (s : State) (g : Nat) : Bool :=
  let c := s.core g
  !s.dev.thermal && c.task.isNone && c.binding.isNone && !c.stopped && c.ctxs.all (fun e => !e.2.live)

/-- The slots of a core have room: for BNK banks, or for the kept banks of a saved task. A domain change empties them first. -/
def State.slotsFit (s : State) (g dom bnk : Nat) (saved : Option Saved) : Bool :=
  let c := s.core g
  decide (c.slotDom.toNat ≠ dom) ||
    (match saved with
     | none => decide (bnk ≤ ((List.range 8).filter (fun i => (c.slot i).isEmpty)).length)
     | some v => v.banks.all (fun b => (c.slot b.1).isEmpty))

/-- Whether a bank kept for a saved task is still draining from its old core. -/
def State.bankDraining (s : State) (cl n : Nat) : Bool :=
  s.cores.any (fun e => decide (gidCl e.1 = cl) && e.2.drains.any (fun d => d.kind == 5 && d.bank == n))

def Cluster.freeCount (k : Cluster) : Nat := 2048 - k.taken.length

/-- Where a class is placed now: its members, ascending; none when it cannot be placed. Without time lock the master places by the
last report (R199). -/
def State.place (s : State) (cl : Nat) (l : Launch) (st : Stage) (saved : List Saved) : Option (List Nat) :=
  let k := s.cluster cl
  let n := 2 ^ st.cpi
  let fb := s.dev.fallback
  let free := if fb then min k.freeCount k.freeBanks else k.freeCount
  if saved.isEmpty && (decide (free < n * st.bnk) || (st.mrg && decide (l.logrec ≠ 0) && decide (l.logFree.length < n))) then none
  else if saved.any (fun v => v.banks.any (fun b => s.bankDraining cl b.2)) then none
  else
    (List.range (256 / n)).findSome? (fun i =>
      let ms := (List.range n).map (fun j => gidOf cl (n * i + j))
      if (List.range n).all (fun j =>
          let m := gidOf cl (n * i + j)
          s.coreIdle m && (!fb || k.freeCores.contains m) && s.slotsFit m l.dom st.bnk saved[j]?)
      then some ms else none)

/-- What the distributor selects: level, queue, record, launch, stage and members (R192, R194). -/
structure Selection where
  level : Nat
  q : StageQ
  it : QItem
  l : Launch
  st : Stage
  ms : List Nat

def State.trySelect (s : State) (cl level : Nat) (e : StageQ × QItem) : Option Selection :=
  match s.launch? e.1.lid with
  | none => none
  | some l =>
    match l.stages[e.1.stage]? with
    | none => none
    | some st => (s.place cl l st e.2.saved).map (fun ms => ⟨level, e.1, e.2, l, st, ms⟩)

/-- Select (R192). A marked core that the selection would take goes to the stage of its mark (R194). -/
def State.select (s : State) (cl : Nat) : Option Selection :=
  let k := s.cluster cl
  let heads := k.heads
  match heads with
  | [] => none
  | _ =>
    let top := heads.foldl (fun m e => max m e.1.level) 0
    let atTop := heads.filter (fun e => e.1.level == top)
    let last := Sparse.look (0, 0) k.lastSel top
    let q := match leastAbove (last.1 * 8 + last.2 + 1) atTop with
      | some e => some e
      | none => leastAbove 0 atTop
    match q with
    | none => none
    | some e =>
      match s.trySelect cl top e with
      | none => none
      | some r =>
        let g := r.ms.headD 0
        match k.marks.find? (fun m => m.1 == g) with
        | none => some r
        | some m =>
          match atTop.find? (fun e => e.1.lid == m.2.1 && e.1.stage == m.2.2) with
          | none => some r
          | some e2 =>
            match s.trySelect cl top e2 with
            | some r2 => if r2.ms.headD 0 = g then some r2 else some r
            | none => some r

/-! ## Binding (R31, R70, R71, R190, R197, R220) -/

/-- TINF 0x061. -/
def tinfWord (t : Task) : Word :=
  wd (t.lid % 65536 * 2 ^ 48 + t.stage * 2 ^ 45 + t.mem * 2 ^ 43 + t.cpi * 2 ^ 41 + t.level * 2 ^ 36 + b2n t.det * 2 ^ 35
    + b2n t.slip * 2 ^ 34)

/-- The task of a member as it is selected. -/
def Selection.task (r : Selection) (j : Nat) (logSlot : Option Nat) : Task :=
  match r.it.saved[j]? with
  | some v => { v.task with level := r.level, members := r.ms }
  | none =>
    { ord := r.it.ord, lid := r.l.lid, stage := r.q.stage, wid := r.it.wid, dom := r.l.dom, mem := j, cpi := r.st.cpi
      level := r.level, slip := r.it.slip, det := r.l.det, merged := r.st.mrg, members := r.ms, record := r.it.record
      popped := false, halted := false, logSlot := logSlot, sscope := none, reps := 0, pdl := r.l.pdl, hlp := r.st.hlp }

/-- BNK banks into the lowest empty slots of a core, each the nearest free one (R71). -/
def State.placeBanks (s : State) (g : Nat) : Nat → State
  | 0 => s
  | n + 1 =>
    match (List.range 8).find? (fun i => ((s.core g).slot i).isEmpty), (s.cluster (gidCl g)).nearest (gidIdx g) with
    | some i, some b => (s.mapBank g i b).placeBanks g n
    | _, _ => s

/-- The banks of a member of a selected task: those kept for it, or BNK free ones (R71, R220). -/
def State.memberBanks (s : State) (g : Nat) (saved : Option Saved) (bnk : Nat) : State :=
  match saved with
  | none => s.placeBanks g bnk
  | some v => s.updCore g (fun c => v.banks.foldl (fun c e => c.setSlot e.1 ⟨true, false, false, e.2⟩) c)

/-- The selection stands: the record leaves its queue, its members hold the task, its log slots are taken, and the slot domain of a
member of another domain reads 0xFFF (R70, R162, R192). A member of the same domain has its banks at once: what its slots had room for
at the selection, they still have (R71). -/
def State.commitSelection (s : State) (cl : Nat) (r : Selection) : State :=
  let logs := if r.it.saved.isEmpty && r.st.mrg && decide (r.l.logrec ≠ 0) then r.l.logFree.take r.ms.length else []
  let s1 := s.updCluster cl (fun k =>
    let leave : StageQ → StageQ := fun q0 =>
      let q := q0.facing none
      { q with items := q.items.filter (fun i => i.ord ≠ r.it.ord), past := q.past.filter (fun e => e.1 ≠ r.it.ord + 1) }
    { (k.updQueue r.q.lid r.q.stage leave) with
      lastSel := Sparse.put (0, 0) k.lastSel r.level (r.q.lid, r.q.stage)
      ran := k.ran ++ r.ms.map (fun m => (m, r.level, r.q.lid, r.q.stage))
      marks := k.marks.filter (fun m => !r.ms.contains m.1) })
  let s2 := s1.updLaunch r.l.lid (fun l => { l with logFree := l.logFree.filter (fun i => !logs.contains i) })
  (List.range r.ms.length).foldl (fun acc j =>
    let m := r.ms.getD j 0
    let same := decide ((acc.core m).slotDom.toNat = r.l.dom)
    let a1 := acc.updCore m (fun c => { c with
      task := some (r.task j logs[j]?)
      binding := some ⟨r.it.saved[j]?, r.st.bnk⟩
      slotDom := if same then c.slotDom else 0xFFF })
    if same then a1.memberBanks m r.it.saved[j]? r.st.bnk else a1) s2

/-- A task's AcqDone at its binding (R197). -/
def Ctx.bound (c : Ctx) (cl now : Nat) : Ctx := c.passed { Order.cluster cl with acq := true, rel := false } now

/-- The control context of a new task, before its first fetch (R31, R190, R252). -/
def Ctx.begin (c : Ctx) (t : Task) (code : Cap) : Ctx :=
  { ((c.bindDom (BitVec.ofNat 12 t.dom)).enter code false 0) with
    live := true
    level := if t.dom = 0 then .supervisor else .user
    twid := t.wid
    tinf := tinfWord t
    region := none
    mon := [], missEA := none
    prgn := { c.prgn with opn := false, mrg := false } }

/-- A saved context on the core where its task resumes: what the save did not hold stays the core's (R32, R218, R219). -/
def Ctx.restored (cur old : Ctx) (forced : Bool) (t : Task) : Ctx :=
  let c := if forced then old else { old with
    sup := cur.sup, hyp := cur.hyp, bstat := cur.bstat, inex := cur.inex, budg := cur.budg, dtLock := cur.dtLock
    dtFrac := cur.dtFrac }
  { c with tinf := tinfWord t }

/-- One member of a selected task is bound. -/
def State.bindMember (s : State) (code : Cap) (g : Nat) : State :=
  match (s.core g).task, (s.core g).binding with
  | some t, some b =>
    let cl := gidCl g
    let dom := BitVec.ofNat 12 t.dom
    let s0 := if (s.core g).slotDom = dom then s else s.memberBanks g b.saved b.bnk
    let s1 := s0.updCore g (fun c =>
      let c1 := if c.slotDom = dom then c else
        { c with slotDom := dom, sems := [], relSig := [], matrix := { c.matrix with planes := [], act := Stat.reset, shd := Stat.reset } }
      { (c1.setSem 255 ⟨0, false⟩) with
        req := false, dlc := BitVec.ofNat 32 t.pdl, saving := 0, binding := none, conflict := none, faults := [], mrg := none })
    match b.saved with
    | none =>
      let s2 := s1.updCtx ⟨g, 0⟩ (fun c => c.begin t code)
      (List.range (t.hlp + 1) ++ [11, 12]).foldl (fun acc i => acc.updCtx ⟨g, i⟩ (fun c => c.bound cl s.now)) s2
    | some v =>
      let s2 := s1.updCore g (fun c =>
        let c1 := v.ctxs.foldl (fun c e => c.setCtx e.1 ((c.ctx e.1).restored e.2 v.forced t)) c
        { c1 with
          sems := Sparse.put Sem.reset v.sems 255 ⟨0, false⟩
          matrix := { c1.matrix with planes := v.planes, act := v.act, shd := v.shd }
          mrg := v.mrg, faults := v.faults, conflict := v.conflict })
      (List.range (t.hlp + 1) ++ [11, 12]).foldl (fun acc i => acc.updCtx ⟨g, i⟩ (fun c => c.bound cl s.now)) s2
  | _, _ => s

/-- The binding of a selected task goes on (R70): slots of another domain are emptied, and once they are, every member is bound. -/
def State.bindMore (s : State) (g : Nat) : Option State :=
  match (s.core g).task, (s.core g).binding with
  | some t, some _ =>
    let ms := t.members
    let chg (m : Nat) : Bool := decide ((s.core m).slotDom.toNat ≠ t.dom)
    let full := ms.filter (fun m => chg m && (List.range 8).any (fun i => ((s.core m).slot i).valid))
    let code := match s.stage? g with | some st => st.code | none => Cap.null
    let need := (ms.map (fun m => match (s.core m).binding with
      | some b => if b.saved.isNone && chg m then b.bnk else 0
      | none => 0)).foldl (· + ·) 0
    if full ≠ [] then
      if full.all (fun m => s.slotsHeld m) then none else some (full.foldl (fun acc m => acc.freeSlots m 4) s)
    else if ms.any (fun m => chg m && (List.range 8).any (fun i => !((s.core m).slot i).isEmpty)) then none
    else if (s.cluster (gidCl g)).freeCount < need then none
    else some (ms.foldl (fun acc m => acc.bindMember code m) s)
  | _, _ => none

/-- A cluster's distributor makes its selection (R192, R199, R430). DESIGN CHOICE (log entry 42): without time lock the master distributor
chooses for each cluster by that cluster's own selection rule, on the cores and banks last reported. -/
def State.distribute (s : State) (cl : Nat) : Option State :=
  if !s.ready (8 + cl) then none
  else
    match s.select cl with
    | none => none
    | some r =>
      let s1 := s.commitSelection cl r
      some ((s1.bindMore (r.ms.headD 0)).getD s1)

/-- One cluster selects, or a selected task whose slots are now empty is bound. -/
def execDistributorSelect (s : State) : Out :=
  match s.ev with
  | .one cl => event "DISTRIBUTOR_SELECT" (s.distribute cl)
  | .two _ g => event "DISTRIBUTOR_SELECT" (s.bindMore g)
  | _ => event "DISTRIBUTOR_SELECT" none

/-! ## Aging, rebalancing, pre-emption (R191, R194, R195) -/

def State.age (s : State) (cl lid stage : Nat) : Option State :=
  let k := s.cluster cl
  match (k.queue? lid stage).map (fun q => q.facing (k.head q)) with
  | none => none
  | some q =>
    if (k.head q).isNone ∨ q.aged < 65536 ∨ 22 ≤ q.base + q.age then none
    else
      let older : StageQ := { q with age := q.age + 1, aged := q.aged - 65536 }
      some (s.updCluster cl (fun k => k.updQueue lid stage (fun _ => older)))

def execHeadAging (s : State) : Out :=
  match s.ev with
  | .three cl lid stage => event "HEAD_AGING" (s.age cl lid stage)
  | _ => event "HEAD_AGING" none

/-- Insert by descending weight. -/
def insDesc {α : Type} (x : Nat × α) : List (Nat × α) → List (Nat × α)
  | [] => [x]
  | y :: l => if y.1 < x.1 then x :: y :: l else y :: insDesc x l

/-- The stage a queue's task passes to is full (R194). -/
def State.nextFull (s : State) (k : Cluster) (q : StageQ) : Bool :=
  match s.launch? q.lid with
  | none => false
  | some l =>
    match l.stages[q.stage]? with
    | none => false
    | some st =>
      if st.nxt = 15 then false
      else
        match k.queue? q.lid st.nxt, l.stages[st.nxt]? with
        | some n, some sn => decide (sn.qdep ≤ n.fill)
        | _, _ => false

/-- The marks of one level at the end of a window (R194): every core that ran tasks of the level counts once, and the stages with ready
tasks at the level share those cores by their occupancies; a stage without any has no share. -/
def State.marksOf (s : State) (k : Cluster) (level : Nat) : List (Nat × Nat × Nat) :=
  let qs := (k.heads.filter (fun e => e.1.level == level)).map (fun e => e.1)
  let ran := k.ran.filter (fun r => r.2.1 == level)
  let cores (p : Nat × Nat) : List Nat := (ran.filter (fun r => r.2.2 == p)).foldl (fun acc r => natIns acc r.1) []
  let total := (ran.foldl (fun acc r => natIns acc r.1) []).length
  let occ (p : Nat × Nat) : Nat :=
    match qs.find? (fun q => q.lid == p.1 && q.stage == p.2) with
    | some q => if s.nextFull k q then 0 else q.fill
    | none => 0
  let ready := qs.map (fun q => (q.lid, q.stage))
  let stages := ready ++ (ran.foldl (fun acc r => if acc.contains r.2.2 || ready.contains r.2.2 then acc else acc ++ [r.2.2]) [])
  let sum := (ready.map occ).foldl (· + ·) 0
  let overs := (stages.map (fun p => ((cores p).length * sum - total * occ p, p))).foldl (fun acc e => if e.1 = 0 then acc else insDesc e acc) []
  let unders := (ready.map (fun p => (total * occ p - (cores p).length * sum, p))).foldl (fun acc e => if e.1 = 0 then acc else insDesc e acc) []
  (overs.zip unders).filterMap (fun e => ((cores e.1.2).head?).map (fun g => (g, e.2.2)))

/-- Tasks that run in a cluster: core, level, launch, stage. -/
def State.running (s : State) (cl : Nat) : List (Nat × Nat × Nat × Nat) :=
  (s.cores.filter (fun e => decide (e.1 < 2048) && decide (gidCl e.1 = cl))).filterMap (fun e =>
    e.2.task.map (fun t => (e.1, t.level, t.lid, t.stage)))

/-- A window of 1,024 cycles ends in a cluster (R194); without time lock its distributor marks no core (R199). -/
def State.rebalance (s : State) (cl : Nat) : Option State :=
  let k := s.cluster cl
  if s.dev.cyc / 1024 ≤ k.windows then none
  else
    let marks := if s.dev.fallback then [] else (List.range 24).flatMap (fun lv => s.marksOf k lv)
    some (s.updCluster cl (fun k => { k with marks := marks, ran := s.running cl, windows := k.windows + 1 }))

def execRebalance (s : State) : Out :=
  match s.ev with
  | .one cl => event "REBALANCE" (s.rebalance cl)
  | _ => event "REBALANCE" none

/-- A pre-emption request reaches a core (R195, R216). -/
def State.requestCore (s : State) (g : Nat) : State :=
  (s.addSem g 255 1).updCore g (fun c => { c with req := true })

/-- The distributor of a cluster raises a pre-emption request (R195); without time lock it raises none (R199). -/
def State.preempt (s : State) (cl : Nat) : Option State :=
  let k := s.cluster cl
  if k.request.isSome || s.dev.fallback then none
  else
    let waiting := (k.heads.filter (fun e => decide (1024 ≤ e.1.waited))).map (fun e => e.1.level)
    let top := waiting.foldl max 0
    let low := (s.running cl).foldl (fun acc r => match acc with
      | none => some r
      | some b => if r.2.1 < b.2.1 then some r else some b) (none : Option (Nat × Nat × Nat × Nat))
    match low with
    | none => none
    | some r =>
      if waiting = [] ∨ top < r.2.1 + 2 then none
      else some ((s.requestCore r.1).updCluster cl (fun k => { k with request := some r.1 }))

def execPreemptionRequest (s : State) : Out :=
  match s.ev with
  | .one cl => event "PREEMPTION_REQUEST" (s.preempt cl)
  | _ => event "PREEMPTION_REQUEST" none

/-! ## Stage-0 tasks, ends and STATUS (R186, R189) -/

/-- A cluster enqueues the next of its share (R186). -/
def State.stage0 (s : State) (cl lid : Nat) : Option State :=
  match s.launch? lid with
  | none => none
  | some l =>
    let p := l.clm.findIdx (fun c => c == cl)
    let i := p + Sparse.look 0 l.given cl * l.clm.length
    if l.clm.length ≤ p ∨ l.count ≤ i ∨ l.code ≠ 0 ∨ !(l.gangState == 0 || l.gangState == 3) ∨ !(s.cluster cl).roomFor l 0 then none
    else
      match l.stages with
      | [] => none
      | st :: _ =>
        some ((s.enqueue cl l 0 256 (l.wbase + wd i) st.emptyRecord false).updLaunch lid (fun l =>
          { l with given := Sparse.put 0 l.given cl (Sparse.look 0 l.given cl + 1) }))

def execStage0Enqueue (s : State) : Out :=
  match s.ev with
  | .two cl lid => event "STAGE0_ENQUEUE" (s.stage0 cl lid)
  | _ => event "STAGE0_ENQUEUE" none

/-- The conditions under which a member of a task has ended (R189, R257, R399). -/
def State.memberOver (s : State) (g : Nat) : Bool :=
  let c := s.core g
  let ctl := c.ctx 0
  c.binding.isNone
    && (match c.task with | some t => t.halted || decide (ctl.busy = some .ending) | none => false)
    && (List.range 10).all (fun i => !(c.ctx (i + 1)).live)
    && c.enginesQuiet
    && c.ctxs.all (fun e => relDone s ⟨g, e.1⟩ (Order.cluster (gidCl g)) e.2.seq && e.2.pend.isEmpty && e.2.fences.isEmpty)
    && s.arrivals.all (fun r => decide (r.agent.gid ≠ g))

/-- The signal clause of a member's `exit` acts as its task ends (R243). -/
def State.exitSignal (s : State) (g : Nat) : State :=
  let c := s.ctx ⟨g, 0⟩
  if c.busy = some .ending then s.signal g c.curHdr else s

/-- A task ends (R189). -/
def State.taskOver (s : State) (g : Nat) : Option State :=
  match (s.core g).task with
  | none => none
  | some t => if t.members.all s.memberOver && t.members.contains g then some ((t.members.foldl State.exitSignal s).endTask g) else none

def execTaskEnd (s : State) : Out :=
  match s.ev with
  | .one g => event "TASK_END" (s.taskOver g)
  | _ => event "TASK_END" none

/-- STATUS is written again, as a release at device scope (R186): it counts every task ended, once their writes have no invalidation
in flight. -/
def State.statusWrite (s : State) (lid : Nat) : Option State :=
  match s.launch? lid with
  | none => none
  | some l =>
    if !l.first || (l.written && decide (l.ended ≤ l.counted)) || l.waits.any s.anyInFlight || decide (l.statusAt = 0) then none
    else
      (s.devGet false (s.devLines l.statusAt 8)).andThen (fun u =>
        (u.devWrite devUnit true l.statusAt (toBytes 8 (statusOf l.ended lid l.mc l.code).toNat)).updLaunch lid (fun l =>
          { l with counted := l.ended, waits := [], written := true }))

def execLaunchStatusWrite (s : State) : Out :=
  match s.ev with
  | .one lid => event "LAUNCH_STATUS_WRITE" (s.statusWrite lid)
  | _ => event "LAUNCH_STATUS_WRITE" none

/-! ## The Rake (R223, R224) -/

/-- An engine command that the Rake stops: it stops before its next element, and lets one whose writing is under way come to its end
(R223). -/
def Cmd.rake (c : Cmd) : Cmd :=
  if c.wat.isNone then (if c.stopped.isSome then { c with upTo := c.writePos } else c.halt 7 0)
  else
    { c with
      stopped := some (c.stopped.getD (7, 0)), upTo := c.writePos + 1, waiting := none, waitingW := none, rat := none }

/-- The Rake stops a core: every context stops issuing, each engine command stops before its next element. -/
def State.rakeCore (s : State) (g : Nat) : State :=
  s.updCore g (fun c =>
    if c.stopped then c
    else
      let c1 := { c with
        stopped := true
        rkcy := s.dev.cycl
        rkms := wd (c.msgSent.toNat * 2 ^ 32 + c.msgRecv.toNat) }
      (List.range 5).foldl (fun k ch => if (k.queueOf ch).isEmpty then k else k.setQueue ch ((k.queueOf ch).map Cmd.rake)) c1)

/-- Cores of a partition: those of its clusters. -/
def State.partCores (s : State) (part : Nat) : List Nat :=
  (List.range 2048).filter (fun g => decide ((s.cluster (gidCl g)).part = part))

/-- Cores that run tasks of a launch. -/
def State.launchCores (s : State) (lid : Nat) : List Nat :=
  (s.cores.filter (fun e => match e.2.task with | some t => t.lid == lid | none => false)).map (fun e => e.1)

/-- Records and saved tasks of a launch that still stand in queues are dropped: their regions, kept banks and log slots are free
again. -/
def State.dropQueued (s : State) (l : Launch) : State :=
  l.clm.foldl (fun acc c =>
    let k := acc.cluster c
    let its := (k.queues.filter (fun q => q.lid == l.lid)).flatMap (fun q => q.items)
    let banks := its.flatMap (fun i => i.saved.flatMap (fun v => v.banks.map (fun b => b.2)))
    let logs := its.flatMap (fun i => i.saved.filterMap (fun v => v.task.logSlot))
    (acc.updCluster c (fun k => { k with
      deps := k.deps.filter (fun r => !its.any (fun i => i.ord == r.ord))
      zeroing := banks.foldl natIns k.zeroing })).updLaunch l.lid (fun x => { x with logFree := logs.foldl natIns x.logFree })) s

/-- What a stopped core's contexts and engines had issued is over: its accesses are performed, its commands complete (R127, R223). -/
def State.coreSpent (s : State) (g : Nat) : Bool :=
  let c := s.core g
  c.ctxs.all (fun e => e.2.pend.isEmpty && e.2.sb.isEmpty) && c.cmds.isEmpty

/-- The cores of the task on a core. -/
def State.taskCores (s : State) (g : Nat) : List Nat := match (s.core g).task with | some t => t.members | none => [g]

/-- The Ubhal releases a stopped core (R224): its task ends without output, its slots are freed, it becomes idle. -/
def State.releaseCore (s : State) (g : Nat) : State :=
  if !(s.core g).stopped then s
  else
    let ms := s.taskCores g
    let s1 := ms.foldl (fun acc m =>
      ((acc.core m).ctxs.map (fun e => (⟨m, e.1⟩ : Agent))).foldl (fun st a => ((st.abandon a).abortTicket a).letGo a) acc) s
    let s2 := s1.endTask g
    ms.foldl (fun acc m => (acc.freeSlots m 4).updCore m (fun c => { c with stopped := false })) s2

/-! ## Gangs (R198, R199) -/

/-- A gang whose members all lie on this device, without time lock: it starts once its classes can be placed, at no tick (R199). -/
def State.gangHere (s : State) (l : Launch) : Bool := s.dev.fallback && l.peers.isEmpty && decide (l.statusAt ≠ 0)

/-- Every class of a launch can be placed in a cluster. -/
def State.clusterPlace (s : State) (l : Launch) (c : Nat) : Bool := l.stages.all (fun st => (s.place c l st []).isSome)

/-- Every class of a launch can be placed in each of its clusters. -/
def State.allPlace (s : State) (l : Launch) : Bool := l.clm.all (s.clusterPlace l)

/-- A member's acknowledgement in time (R198): peer device `m`, or cluster `m - 16` of this device, which acknowledges once it can place
every class of the launch. With all received the gang is armed. -/
def State.gangAck (s : State) (lid m : Nat) : Option State :=
  match s.launch? lid with
  | none => none
  | some l =>
    let c := m - 16
    let late := decide (l.gtick ≤ s.dev.ns + l.gmarg) && !s.gangHere l
    if l.gangState ≠ 1 ∨ late then none
    else if m < 16 ∧ (!l.peers.contains m ∨ l.acks.contains m) then none
    else if 16 ≤ m ∧ (!l.clm.contains c ∨ l.cacks.contains c ∨ !s.clusterPlace l c) then none
    else
      let acks := if m < 16 then natIns l.acks m else l.acks
      let cacks := if m < 16 then l.cacks else natIns l.cacks c
      let all := l.peers.all (fun p => acks.contains p) && l.clm.all (fun k => cacks.contains k)
      some (s.updLaunch lid (fun l => { l with acks := acks, cacks := cacks, gangState := if all then 2 else 1 }))

def execGangAcknowledge (s : State) : Out :=
  match s.ev with
  | .two lid peer => event "GANG_ACKNOWLEDGE" (s.gangAck lid peer)
  | _ => event "GANG_ACKNOWLEDGE" none

/-- The gang runs: at GTICK, or for a gang on this device alone without time lock, once its classes can be placed (R199). -/
def State.gangRun (s : State) (lid : Nat) : Option State :=
  match s.launch? lid with
  | none => none
  | some l =>
    let due := if s.gangHere l then (decide (l.gangState = 1) || decide (l.gangState = 2)) && s.allPlace l
      else decide (l.gangState = 2) && decide (l.gtick ≤ s.dev.ns)
    if !due then none
    else
      let s1 := s.updLaunch lid (fun l => { l with gangState := 3 })
      if l.count = 0 then some ((s1.updLaunch lid (fun l => { l with code := 1, written := false })).returnStorage lid) else some s1

def execGangStart (s : State) : Out :=
  match s.ev with
  | .one lid => event "GANG_START" (s.gangRun lid)
  | _ => event "GANG_START" none

/-- An acknowledgement is missing at GTICK - GMARG, or a member withdraws before GTICK: no member starts. -/
def State.gangCancel (s : State) (lid : Nat) : Option State :=
  match s.launch? lid with
  | none => none
  | some l =>
    if (l.gangState = 1 ∧ l.gtick ≤ s.dev.ns + l.gmarg ∧ !s.gangHere l) ∨ (l.gangState = 2 ∧ s.dev.ns < l.gtick) then
      some ((s.updLaunch lid (fun l => { l with gangState := 4, code := 6, written := false })).returnStorage lid)
    else none

def execGangCancelBeforeTick (s : State) : Out :=
  match s.ev with
  | .one lid => event "GANG_CANCEL_BEFORE_TICK" (s.gangCancel lid)
  | _ => event "GANG_CANCEL_BEFORE_TICK" none

/-- A cancel arrives after GTICK: the Rake halts the gang's cores. -/
def State.gangStop (s : State) (lid : Nat) : Option State :=
  match s.launch? lid with
  | none => none
  | some l =>
    if l.gangState ≠ 3 ∨ l.code ≠ 0 then none
    else
      let s1 := (s.launchCores lid).foldl State.rakeCore s
      let s2 := s1.dropQueued l
      some ((s2.updLaunch lid (fun l => { l with gangState := 5, code := 7, written := false })).returnStorage lid)

def execGangCancelAfterTick (s : State) : Out :=
  match s.ev with
  | .one lid => event "GANG_CANCEL_AFTER_TICK" (s.gangStop lid)
  | _ => event "GANG_CANCEL_AFTER_TICK" none

/-- A peer's offer (R198): the descriptor runs on the clusters of CLM that the partition holds here, and collects their
acknowledgements. An offer that cannot be accepted leaves nothing. DESIGN CHOICE (log entry 42): R199 refuses a `launch` without time
lock and says nothing of an offer; a member device takes it whether or not its own device time is locked. -/
def State.gangOffered (s : State) (o : GangOffer) : Option State :=
  if !(o.peer :: o.others).all (fun p => (s.peer p).valid && decide ((s.peer p).part = o.part)) || !(o.peer :: o.others).Nodup then none
  else
    let d0 := descOf o.bytes o.tags
    let d := { d0 with gset := 0 }
    let clm := clmOf s o.part d.clmBits
    if !d.gang || d.dom == 0xFFF || descBad s o.part o.bytes d true || decide (launchCode s o.part d clm ≠ 0) then some s
    else
      let r := s.accept o.part d clm [] 0 0 0
      some (r.1.updLaunch r.2 (fun l => { l with peers := o.peer :: o.others, acks := o.peer :: o.others, logrec := 0 }))

def execGangOffer (s : State) : Out :=
  match s.ev with
  | .offer o => event "GANG_OFFER" (s.gangOffered o)
  | _ => event "GANG_OFFER" none

/-- Without time lock the cluster distributors report their free cores and banks to the master (R199). -/
def State.report (s : State) : Option State :=
  if !s.dev.fallback ∨ s.dev.cyc / 64 ≤ s.dev.reports then none
  else
    let s1 := s.updDev (fun d => { d with reports := d.cyc / 64 })
    some ((List.range 8).foldl (fun acc cl =>
      let free := ((List.range 256).map (gidOf cl)).filter s.coreIdle
      acc.updCluster cl (fun k => { k with freeCores := free, freeBanks := k.freeCount })) s1)

def execFallbackReport (s : State) : Out := event "FALLBACK_REPORT" s.report

/-! ## The time window (R203, R204) -/

/-- A tick: the header of a freed older slot is written new, and the decode-step task is enqueued or a miss counted. The tick waits while
its header cannot be reached (R113, R430). DESIGN CHOICE (log entry 38): the spec does not say what a tick does while the window's launch is a
gang that has not started; the task is enqueued like any other, and waits in its queue. -/
def State.windowTick (s0 : State) (cl i : Nat) : Option State :=
  let w := (s0.cluster cl).win i
  let n := w.nexts
  if !w.active ∨ s0.dev.ns < w.tickOf n then none
  else
    let full := match s0.launch? w.lid, (s0.cluster cl).queue? w.lid w.stage with
      | some l, some q => (match l.stages[w.stage]? with
          | some st => decide (q.fill < st.qdep) && !(s0.cluster cl).roomFor l w.stage
          | none => false)
      | _, _ => false
    if full then none
    else
      (s0.devGet true (s0.slotLines w n)).andThen (fun s1 =>
        let s := s1.slotTrace w n
        let older := decide ((s.slotWord w n 0).toNat < n) && bit (s.slotWord w n 1) 1
        let late := !older && decide ((s.slotWord w n 0).toNat = n) && bit (s.slotWord w n 1) 0
        let next := (if older then s.initSlot cl w n else s).updWin cl i (fun w => w.put 7 (wd (n + 1)))
        let missed := next.updWin cl i (fun w =>
          let v := w.word 6
          w.put 6 (wd ((bits v 63 32 + 1) % 2 ^ 32 * 2 ^ 32 + bits v 31 0)))
        match s.launch? w.lid with
        | none => missed
        | some l =>
          match l.stages[w.stage]?, (s.cluster cl).queue? w.lid w.stage with
          | some st, some q =>
            if st.qdep ≤ q.fill then missed
            else
              let wid := widPut l.widths l.wbase 0 n
              (next.enqueue cl l w.stage 256 wid st.emptyRecord late).updLaunch l.lid (fun l => { l with alive := l.alive + 1 })
          | _, _ => missed)

def execTimeWindowTick (s : State) : Out :=
  match s.ev with
  | .two cl i => event "TIME_WINDOW_TICK" (s.windowTick cl i)
  | _ => event "TIME_WINDOW_TICK" none

end Sys2Proof.Machine
end

