-- ==== Sys2Proof/Machine/Save.lean ====
section
/-! DEFINITION. The saves of a task (R139, R216-R220, R438): the forced save begins, a save waits for loads, releases and commands, and
the state is written out; what a `yield` did not name comes back as free values (R218). -/

namespace Sys2Proof.Machine

open Sys2Proof

/-! ## The forced save begins (R219) -/

/-- A context stops at its instruction boundary. A bank instruction past its step counts as retired; its drain ends without the context
(R80). Another instruction that waits is left unexecuted, its wait count given back and its arrival withdrawn (R270, R438). -/
def State.stopCtx (s : State) (a : Agent) : State :=
  let c := s.ctx a
  if !c.live || c.runsOn then s
  else
    match c.busy with
    | some (.drain _ d) => (s.letGo a).updCtx a (fun c => (c.bankResult d 0).advance)
    | _ =>
      let s1 := ((s.addBack a c.curHdr).abandon a).letGo a
      (s1.updCore a.gid (fun k => k.unwait a.ctx)).updCtx a (fun c => { c with waiting := false, busy := none })

/-- The save of a task whose deadline has passed begins (R219, R438). -/
def State.forceSave (s : State) (g : Nat) : Option State :=
  match (s.core g).task with
  | none => none
  | some t =>
    if !s.saveDue g then none
    else
      let s1 := t.members.foldl (fun acc m => acc.updCore m (fun c => { c with saving := 2 })) s
      some (t.members.foldl (fun acc m => (acc.liveAgents m).foldl State.stopCtx acc) s1)

def execForcedSave (s : State) : Out :=
  match s.ev with
  | .one g => event "FORCED_SAVE" (s.forceSave g)
  | _ => event "FORCED_SAVE" none

/-! ## What a save waits for (R139, R218, R219) -/

/-- A context's loads are performed, its fences retired and RelDone holds at device scope (R139). -/
def State.ctxQuiet (s : State) (a : Agent) : Bool :=
  let c := s.ctx a
  c.pend.isEmpty && c.sb.isEmpty && c.fences.isEmpty && c.obs.all (fun w => !s.inFlightTo w Order.device a.gid)

/-- Matrix commands of a core that wait for another member: the row, or a forwarded pass that does not come (R363). -/
def State.stuck (s0 : State) (g : Nat) : Bool :=
  let s := s0.settled g 4
  let m := (s.core g).matrix
  match m.due with
  | some (_, c) =>
    (c.kind == .mgang && decide (c.readPos = 0) && !(s.rowOf g).all s.gangWaits)
      || (m.fwdWaits g c && (match m.row with
        | m0 :: _ => !((s.core m0).matrix.late ++ (s.core m0).matrix.cmds.filter (fun e => !e.effected)).any (fun e => e.kind == .mstream)
        | [] => true))
  | none => false

/-- The first stuck command returns to its sequencer unperformed: the run resumes at it (R363). The accepted commands behind it run to
their completion (R219). -/
def State.returnStuck (s0 : State) (g : Nat) : State :=
  let s := s0.settled g 4
  match (s.core g).matrix.due with
  | some (_, c) =>
    let stay (e : Cmd) : Bool := e.effected || !(e.kind == .mfwd || e.kind == .mgang)
    let s1 := (s.updCore g (fun k => { k with matrix := { k.matrix with cmds := k.matrix.cmds.filter stay } })).settled g 4
    s1.updCtx ⟨g, 11⟩ (fun q => { (q.goBlock c.issuedAt.1 c.issuedAt.2) with live := true })
  | none => s

/-- A member of a task is ready to be written out. -/
def State.memberSaves (s : State) (forced : Bool) (g : Nat) : Bool :=
  let c := s.core g
  let ctl := c.ctx 0
  let own :=
    if forced then
      (s.liveAgents g).all (fun a => (s.ctx a).busy.isNone) && c.matrix.cmds.isEmpty && (List.range 4).all (fun i => (c.chan i).cmds.isEmpty)
    else
      (match ctl.busy with | some (.saving _) => true | some .ending => true | _ => false)
        && (List.range 10).all (fun i => !(c.ctx (i + 1)).live) && c.enginesQuiet
  own && c.ctxs.all (fun e => s.ctxQuiet ⟨g, e.1⟩) && !s.slotsHeld g && c.ctxs.all (fun e => e.2.sfault.isNone)

/-! ## The saved state -/

/-- A context as it is written out: nothing in flight, Obs empty (R139). -/
def Ctx.written (c : Ctx) : Ctx :=
  { c with
    blk := none, fpart := [], waitTaken := false, waiting := false, busy := none, region := none, pend := [], acqs := [], obs := []
    mon := [], missEA := none }

/-- A scalar register a `yield` did not name: an undefined value of the task's own domain (log entry 12): the old one, or any other
without a tag. -/
def freeReg (n r : Nat) (old : Reg) : Reg := if Config.freeBool (n + r) then old else ⟨Config.freeWord (n + r), false⟩

/-- Scalar registers of a `yield`: named ones keep value and tag, a pair saved in part has both tags clear (R218). -/
def yieldX (c : Ctx) (n : Nat) (m : Word) : Sparse Reg :=
  (List.range 63).foldl (fun acc i =>
    let r := i + 1
    let v := if bit m r then c.getX r else freeReg n r (c.getX r)
    let part := bit m r != bit m (pairMate r) && pairMate r ≠ 0
    Sparse.put Reg.zero acc r (if part then ⟨v.val, false⟩ else v)) []

/-- The control context of a `yield` as it is written out (R217, R218). -/
def Ctx.yielded (c : Ctx) (n : Nat) (mask : List Word) : Ctx :=
  let w1 := mask.getD 1 0
  { c.written with
    x := yieldX c n (mask.getD 0 0)
    v := (List.range 32).foldl (fun acc i => Sparse.put 0 acc i (if bit w1 i then c.getV i else Config.freeLine (n + i))) []
    k := (List.range 8).foldl (fun acc i => Sparse.put 0 acc i (if bit w1 (40 + i) then c.getK i else Config.freeMask (n + i))) []
    p := (List.range 7).foldl (fun acc i =>
      Sparse.put false acc (i + 1) (if bit w1 (33 + i) then c.getP (i + 1) else Config.freeBool (n + 64 + i))) []
    lq := [] }

/-- A plane that a `yield` did not name. -/
def freePlane (n i : Nat) : Plane where
  words := (List.range 4096).foldl (fun acc k => Sparse.put 0 acc k
    (BitVec.ofNat 32 (ofBytes ((List.range 4).map (fun b => Config.freeByte (n + i) (4 * k + b)))))) []
  psn := Config.freeBool (n + 72 + i)

/-- A stationary plane that a `yield` did not name. -/
def freeStat (n i : Nat) : Stat where
  valid := Config.freeBool (n + 76 + i)
  fmt := (Config.freeByte (n + 4 + i) 0).toNat % 16
  elems := sparseBytes ((List.range 8192).map (fun k => Config.freeByte (n + 6 + i) k))
  scales := sparseBytes ((List.range 512).map (fun k => Config.freeByte (n + 8 + i) k))
  psn := Config.freeBool (n + 78 + i)

/-- The contexts of a member that a forced save writes out: the control context and every bank of the task's domain. -/
def Core.savedCtxs (c : Core) (dom : Nat) : List (Nat × Ctx) :=
  (c.ctxs.filter (fun e => decide (e.1 = 0) || decide (e.2.bankDom.toNat = dom))).map (fun e => (e.1, e.2.written))

/-- What the save of one member holds. -/
def State.savedOf (s : State) (forced : Bool) (g : Nat) (t : Task) : Saved :=
  let c := s.core g
  let n := s.fresh
  let w2 := c.saveMask.getD 2 0
  let all := forced || decide (c.saving ≠ 1)
  let slots := (List.range 8).filter (fun i => (c.slot i).valid && (all || c.saveSlots.getLsbD i))
  { forced := forced
    task := t
    ctxs := if all then c.savedCtxs t.dom else [(0, (c.ctx 0).yielded n c.saveMask)]
    sems := Sparse.put Sem.reset c.semStep.sems 255 Sem.reset
    banks := slots.map (fun i => (i, (c.slot i).bank))
    planes := (List.range 4).foldl (fun acc i =>
      Sparse.put Plane.reset acc i (if all || bit w2 i then c.matrix.plane i else freePlane n i)) []
    act := if all || bit w2 4 then c.matrix.act else freeStat n 0
    shd := if all || bit w2 4 then c.matrix.shd else freeStat n 1
    mrg := c.mrg
    faults := c.faults
    conflict := c.conflict }

/-- The control context of a member that yields retires before its state is written: the resume point lies after the `yield`. -/
def State.yieldRetires (s : State) (g : Nat) : State :=
  let c := s.ctx ⟨g, 0⟩
  match c.busy with
  | some (.saving true) => s.retire ⟨g, 0⟩ c.curHdr
  | _ => s

/-- The slots of a member leave it: kept banks, and of a `yield` the others freed (R218, R219). -/
def State.saveBanks (s : State) (g : Nat) (banks : List (Nat × Nat)) : State :=
  (List.range 8).foldl (fun acc i => (acc.freeSlot g i (if banks.any (fun b => b.1 == i) then 5 else 4)).getD acc) s

/-- A save is over: the task is queued as the ready head of its stage queue, every member's core is idle (R218-R220). -/
def State.writeOut (s : State) (g : Nat) : Option State :=
  match (s.core g).task with
  | none => none
  | some t =>
    let ms := t.members
    let forced := decide ((s.core g).saving = 2)
    let cl := gidCl g
    if (s.core g).saving = 0 ∨ t.halted ∨ ms.any (fun m => (s.core m).stopped) then none
    else if forced && ms.any s.stuck then some (ms.foldl (fun acc m => if s.stuck m then acc.returnStuck m else acc) s)
    else if !ms.all (s.memberSaves forced) then none
    else
      let s1 := ms.foldl State.yieldRetires s
      let saved := ms.filterMap (fun m => ((s1.core m).task).map (fun u => (m, s1.savedOf forced m u)))
      let it : QItem := ⟨t.ord, t.wid, t.record, t.slip, saved.map (fun e => e.2)⟩
      let s2 := saved.foldl (fun acc e =>
        ((acc.saveBanks e.1 e.2.banks).updCore e.1 (fun c =>
          { c.idle with ctxs := c.idle.ctxs.map (fun x => (x.1, { x.2 with obs := [] })) }))) s1
      let back : StageQ → StageQ := fun q0 =>
        let q := q0.facing none
        let old := q.items.filter (fun i => !i.saved.isEmpty)
        let new := q.items.filter (fun i => i.saved.isEmpty)
        { q with items := old ++ it :: new }
      let s3 := s2.updCluster cl (fun k => { (k.updQueue t.lid t.stage back) with
        request := match k.request with
          | none => none
          | some c => if ms.contains c then none else some c })
      some { s3 with
        fresh := s3.fresh + 128
        arrivals := s3.arrivals.filter (fun r => !ms.contains r.agent.gid) }

def execSaveWriteOut (s : State) : Out :=
  match s.ev with
  | .one g => event "SAVE_WRITE_OUT" (s.writeOut g)
  | _ => event "SAVE_WRITE_OUT" none

end Sys2Proof.Machine
end

