-- ==== Sys2Proof/Machine/Merge.lean ====
section
/-! DEFINITION. Superstep merges (R163, R164), the snapshot an `sstep` takes and the rollback of a superstep (R226, R227). -/

namespace Sys2Proof.Machine

open Sys2Proof

/-! ## The merged lines (R163) -/

/-- A later proposal of a line over an earlier one: its bytes replace, its granule tags too (R151, R163). One that gives every byte of the
line leaves nothing of the earlier one's poison (R436). -/
def BrineLine.over (old new : BrineLine) : BrineLine :=
  let touched (i : Nat) : Bool := (List.range 16).any (fun j => new.mask.getLsbD (16 * i + j))
  { old with
    mask := old.mask ||| new.mask
    data := lineOf ((List.range 128).map (fun i => if new.mask.getLsbD i then lineByte new.data i else lineByte old.data i))
    tags := BitVec.ofNat 8 ((List.range 8).foldl (fun acc i =>
      acc + b2n (if touched i then new.tags.getLsbD i else old.tags.getLsbD i) * 2 ^ i) 0)
    psn := new.psn || (old.psn && new.mask != BitVec.allOnes 128) }

/-- Put a proposal over those of its line. -/
def overLine (b : BrineLine) : List BrineLine → List BrineLine
  | [] => [b]
  | c :: rest => if c.line = b.line then c.over b :: rest else c :: overLine b rest

/-- A task at a merge: the core of member 0 and its device (0 this one, 1 + n peer n), its rank key, its writes by line, and whether its
arrival was the final one. -/
structure Merging where
  gid : Nat
  dev : Nat
  wid : Nat
  lines : List BrineLine
  final : Bool
  deriving DecidableEq, Repr

/-- The writes of one member: log records in append order, then Brine lines (R163 step 1). -/
def State.memberWrites (s : State) (g : Nat) : List BrineLine :=
  s.mergeRecords g ++ (match (s.core g).mrg with | some m => m.lines | none => [])

/-- The position of a task's writes: its core, or the link they came over. -/
def Merging.pos (m : Merging) : Nat := if m.dev = 0 then m.gid else 4096 + m.dev

/-- Insert a task in ascending rank: work ID, then member 0's core (R163 step 2). DESIGN CHOICE (log entry 42): of equal cores on two devices
this one's ranks first, then the lower-numbered peer's. -/
def insRank (x : Merging) : List Merging → List Merging
  | [] => [x]
  | y :: l =>
    if x.wid < y.wid ∨ (x.wid = y.wid ∧ (x.gid < y.gid ∨ (x.gid = y.gid ∧ x.dev < y.dev))) then x :: y :: l else y :: insRank x l

/-- The tasks of peer devices at a superstep barrier, with their writes of lines whose home is here (R163, R272). -/
def State.farMergers (s : State) (rs : List Arrival) : List Merging :=
  s.far.filterMap (fun t =>
    let qs := t.members.filterMap (fun m => s.remote.find? (fun q => decide (q.dev = t.dev) && decide (q.gid = m) && rs.any (s.meets q)))
    if qs.isEmpty then none
    else some ⟨t.members.headD 0, 1 + t.dev, t.wid.toNat, (qs.flatMap (fun q => q.lines)).foldl (fun acc b => overLine b acc) [], false⟩)

/-- The tasks of a barrier, ranked, each with one value per byte. -/
def State.mergers (s : State) (rs : List Arrival) : List Merging :=
  let firsts := (rs.filterMap (fun r => ((s.core r.agent.gid).task).map (fun t => t.members.headD r.agent.gid))).foldl natIns []
  let near := firsts.filterMap (fun g => ((s.core g).task).map (fun t =>
    let ms := t.members.filter (fun m => rs.any (fun r => decide (r.agent.gid = m)))
    let fin := rs.any (fun r => decide (r.agent.gid = g) && r.final)
    (⟨g, 0, t.wid.toNat, (ms.flatMap s.memberWrites).foldl (fun acc b => overLine b acc) [], fin⟩ : Merging)))
  (near ++ s.farMergers rs).foldl (fun acc m => insRank m acc) []

/-- A task's proposal of a line. -/
def Merging.on (m : Merging) (line : Nat) : Option BrineLine := m.lines.find? (fun b => b.line == line)

/-- Whether a task wrote a byte of a line. -/
def Merging.wrote (m : Merging) (line i : Nat) : Bool := match m.on line with | some b => b.mask.getLsbD i | none => false

/-- The name of a byte in TVAL of a merge conflict (R164). -/
def conflictName (line i : Nat) : Nat :=
  if isScratch (line * 128) then 2 ^ 63 + (line - scratchBase / 128) % (2048 * 512) * 128 + i else line * 128 + i

/-- Ranks of the tasks that wrote a byte, ascending. -/
def writersAt (ms : List Merging) (line i : Nat) : List Nat :=
  (List.range ms.length).filter (fun k => match ms[k]? with | some m => m.wrote line i | none => false)

/-- Every conflicting byte: line, offset, ranks of its writers (R164). -/
def conflicts (ms : List Merging) : List (Nat × Nat × List Nat) :=
  let lines := (ms.flatMap (fun m => m.lines.map (fun b => b.line))).foldl natIns []
  lines.flatMap (fun l => (List.range 128).filterMap (fun i =>
    let w := writersAt ms l i
    if 2 ≤ w.length then some (l, i, w) else none))

/-- The fault of a task that is not the lowest-ranked writer of some conflicting byte: it names the lowest conflicting byte among all
the bytes that the task wrote (R164). -/
def faultOf (cs : List (Nat × Nat × List Nat)) (k : Nat) : Option Nat :=
  if !cs.any (fun c => c.2.2.contains k && c.2.2.head? ≠ some k) then none
  else (cs.filter (fun c => c.2.2.contains k)).foldl (fun acc c =>
    let n := conflictName c.1 c.2.1
    match acc with
    | none => some n
    | some m => some (min m n)) none

/-- The merged lines, each with the position of its highest-ranked writer. -/
def mergedLines (ms : List Merging) : List (Nat × BrineLine) :=
  let lines := (ms.flatMap (fun m => m.lines.map (fun b => b.line))).foldl natIns []
  lines.filterMap (fun l =>
    ms.foldl (fun acc m => match m.on l with
      | none => acc
      | some b => (match acc with | none => some (m.pos, b) | some e => some (m.pos, e.2.over b))) none)

/-! ## The merge and the passing of its barrier (R163, R164, R226) -/

/-- Conflicts are counted and the faults of their writers made pending; a task that ends takes none, and STATUS tells whether it had a
conflicting byte (R164, R186). A peer's tasks take theirs on their own device. -/
def State.noteConflicts (s : State) (ms : List Merging) : State :=
  let cs := conflicts ms
  let s1 := cs.foldl (fun acc c =>
    match ms[c.2.2.getLastD 0]? with
    | none => acc
    | some m => if m.dev = 0 then acc.updCore m.gid (fun k => { k with pcntMcnf := k.pcntMcnf + 1 }) else acc) s
  (List.range ms.length).foldl (fun acc k =>
    match ms[k]? with
    | none => acc
    | some m =>
      if m.dev ≠ 0 then acc
      else if m.final then
        (match (acc.core m.gid).task with
         | some t => if cs.any (fun c => c.2.2.contains k) then acc.updLaunch t.lid (fun l => { l with mc := true }) else acc
         | none => acc)
      else
        match faultOf cs k with
        | none => acc
        | some n =>
          acc.updCore m.gid (fun c => { c with conflict := match c.conflict with | some f => some f | none => some ⟨7, 1, wd n, 0⟩ })) s1

/-- Lines are marked as poisoned, and each is counted (R227). -/
def State.poisonLines (s : State) (lines : List Nat) : State :=
  lines.foldl (fun acc l => (acc.setPoison (fwdAddr acc (l * 128)) true).count 7 0 1) s

/-- The merge itself (R163 steps 1 to 3 and 5): the writes are performed, and join what their barrier waits for. -/
def State.performMerge (s0 : State) (rs : List Arrival) : State :=
  let s := rs.foldl (fun u r => u.recordsTrace r.agent.gid false) s0
  let ms := s.mergers rs
  let third := rs.any (fun r => match (s.core r.agent.gid).task with | some t => decide (3 ≤ t.reps) | none => false)
  let n0 := s.nextWid
  let lines := mergedLines ms
  let s1 := lines.foldl (fun acc e => acc.writeBrine e.1 false [] e.2) (s.noteConflicts ms)
  let ws := s1.newWids n0
  let eng := if third then
      (rs.flatMap (fun r => match (s.core r.agent.gid).mrg with | some m => m.wrote | none => [])).foldl natIns []
    else []
  let s2 := if third then s1.poisonLines ((lines.map (fun e => e.2.line)).foldl natIns eng) else s1
  let s3 := rs.foldl (fun acc r =>
    (acc.observe r.agent ws).updCore r.agent.gid (fun c => { c with mrg := c.mrg.map (fun m => { m with lines := [], up := 0, via := [] }) })) s2
  let merged : Arrival → Arrival := fun q => { q with w1 := 1 }
  { s3 with arrivals := s3.arrivals.map (fun q => if rs.contains q then merged q else q) }

/-- Whether a bank instruction of the context is past its indivisible step: it counts as retired (R80). -/
def Ctx.drains (c : Ctx) : Bool := match c.busy with | some (.drain _ _) => true | _ => false

/-- A context as the snapshot keeps it, at an instruction boundary: loads under way are kept, and performed again after a rollback; a
bank instruction past its indivisible step has retired, another instruction that has not retired is executed again. -/
def Ctx.snapshot (c0 : Ctx) : Ctx :=
  let c := match c0.busy with | some (.drain _ d) => (c0.bankResult d 0).advance | _ => c0
  { c with blk := none, fpart := [], waitTaken := false, waiting := false, busy := none, region := none, acqs := [], obs := [] }

/-- The semaphores as the snapshot keeps them: changes made take effect, and the wait counts of instructions that are executed again
after a rollback are given back (R226, R244). -/
def Core.snapSems (c : Core) : Sparse Sem :=
  (c.ctxs.foldl (fun (k : Core) e =>
    let h := e.2.curHdr
    if e.2.live && e.2.waitTaken && !e.2.drains && decide (h.wt ≠ 0) then k.addSem h.ws.toNat h.wt.toNat else k) c.semStep).sems

/-- The snapshot of a member as its `sstep` retires: a new undo area, no failures counted (R226, R227). -/
def Core.takeSnapshot (c : Core) : Core :=
  { c with
    ctxs := c.ctxs.map (fun e => (e.1, { e.2 with prgn := { e.2.prgn with mrg := true } }))
    task := c.task.map (fun t => { t with reps := 0 })
    mrg := some
      { failed := false, lines := [], up := 0, down := 0, undone := [], wrote := [], via := []
        snap := c.ctxs.map (fun e => (e.1, { e.2.snapshot with prgn := { e.2.prgn with mrg := true } }))
        snapPlanes := c.matrix.planes, snapAct := c.matrix.act, snapShd := c.matrix.shd, snapSems := c.snapSems
        snapFaults := c.faults } }

/-- An arrival passes: the `sstep` retires and its member's snapshot is taken; a final arrival leaves its task to end. -/
def State.passSstep (s : State) (r : Arrival) : State :=
  if r.final then s.updCore r.agent.gid (fun c => { c with mrg := none })
  else
    match r.kind with
    | .sstep _ w core =>
      (s.release r.agent (fun _ c => c.passed ⟨true, false, w, core⟩ s.now)).updCore r.agent.gid Core.takeSnapshot
    | _ => s

/-- The barrier of a core's superstep: the merge once all have arrived and the home slices have its lines, then the passing once RelDone
holds for its writes at the scope of the `sstep` (R163 step 4). -/
def State.sstepMove (s : State) (g : Nat) : Option State :=
  match s.arrivals.find? (fun r => decide (r.agent.gid = g) && (match r.kind with | .sstep _ _ _ => true | _ => false)) with
  | none => none
  | some r0 =>
    let rs := s.arrivals.filter (sameSstep r0)
    if !s.sstepFull r0 || rs.any (fun r => (s.core r.agent.gid).failed || (s.core r.agent.gid).stopped) then none
    else if r0.w1 = 0 then
      (s.recordsGet (rs.map (fun r => r.agent.gid)) false).bind (fun s =>
        let lines := mergedLines (s.mergers rs)
        if !rs.all (fun r => noLoadOverlap (s.ctx r.agent) (lines.map (fun e => e.2))) then none
        else (s.askLines (lines.map (fun e => ((⟨e.1, 0⟩ : Agent), e.2.line)))).andThen (fun t => t.performMerge rs))
    else if !rs.all (fun r => match r.kind with
        | .sstep _ w core => relDone s r.agent ⟨false, true, w, core⟩ (s.ctx r.agent).seq
        | _ => false) then none
    else
      let s1 := { s with
        arrivals := s.arrivals.filter (fun q => !rs.contains q)
        remote := s.remote.filter (fun q => !s.meets q r0) }
      some (rs.foldl State.passSstep s1)

def execSstepMerge (s : State) : Out :=
  match s.ev with
  | .one g => event "SSTEP_MERGE" (s.sstepMove g)
  | _ => event "SSTEP_MERGE" none

/-! ## Rollback (R226, R227) -/

/-- The cores of the superstep barrier of a core's task: those in merge mode that run tasks of its launch and stage in the rectangle of
its last `sstep`. -/
def State.superstepOf (s : State) (g : Nat) : List Nat :=
  match (s.core g).task with
  | none => []
  | some t =>
    match t.sscope with
    | none => [g]
    | some w => (natIns (s.sstepMembers t.lid t.stage (scopeCores (codeScope w) g)) g).filter (fun m => (s.core m).mrg.isSome)

/-- One member is restored from its snapshot: Brine lines and merge records discarded, its final arrival with them, undo records applied
newest first, registers restored (R226). -/
def State.restoreMember (s0 : State) (g : Nat) : State :=
  match (s0.core g).mrg with
  | none => s0
  | some m =>
    let s := s0.recordsTrace g true
    let s1 := (s.undoRecords g).foldl (fun acc b =>
      let a1 := acc.devWrite devUnit false (b.line * 128) (lineBytes b.data)
      let a2 := (List.range 8).foldl (fun st i => if b.tags.getLsbD i then st.setTag (b.line * 128 + 16 * i) true else st) a1
      a2.setPoison (b.line * 128) b.psn) s
    let s2 := { s1 with arrivals := s1.arrivals.filter (fun r => r.agent.gid ≠ g) }
    s2.updCore g (fun c =>
      let back (e : Nat × Ctx) : Nat × Ctx :=
        match m.snap.find? (fun p => p.1 == e.1) with
        | some p => (e.1, { p.2 with seq := e.2.seq, obs := e.2.obs, acqs := e.2.acqs, sb := e.2.sb })
        | none => (e.1, { e.2.idle with cdom := e.2.cdom })
      { c with
        ctxs := c.ctxs.map back
        sems := Sparse.put Sem.reset m.snapSems 255 (c.sem 255)
        semSets := [], semAdds := c.semAdds.filter (fun e => e.1 = 255)
        matrix := { c.matrix with planes := m.snapPlanes, act := m.snapAct, shd := m.snapShd }
        task := c.task.map (fun t => { t with reps := t.reps + 1, halted := false })
        faults := m.snapFaults
        mrg := some { m with failed := false, lines := [], up := 0, down := 0, undone := [], wrote := [], via := [] } })

/-- The arrivals of peers' cores at the superstep barrier of a core's task are withdrawn: their tasks roll back with it (R226). -/
def State.farWithdrawn (s : State) (g : Nat) : State :=
  match (s.core g).task with
  | none => s
  | some t =>
    let mine (q : Remote) : Bool := match q.kind with
      | .sstep l w core => decide (l = t.lid) && decide (q.w0.toNat = t.stage) && !core && decide (t.sscope = some w)
      | _ => false
    { s with remote := s.remote.filter (fun q => !mine q) }

/-- A superstep of a peer's tasks fails: the members of its barrier on this device roll back with it (R226, R272). -/
def State.farFails (s : State) (lid stage : Nat) (w : Word) : State :=
  ((rectCores w).filter (fun g => match (s.core g).task with
    | some t => decide (t.lid = lid) && decide (t.stage = stage) && decide (t.sscope = some w) && (s.core g).mrg.isSome
    | none => false)).foldl State.mergeFail s

/-- A failed superstep: at its third failure it goes on to its poisoned merge (R227); else its members stop, and once they are quiet
they are restored. -/
def State.rollback (s : State) (g : Nat) : Option State :=
  match (s.core g).mrg with
  | none => none
  | some m =>
    if !m.failed ∨ (s.core g).stopped then none
    else
      let ms := s.superstepOf g
      let reps : Nat := ms.foldl (fun n k => max n (match (s.core k).task with | some t => t.reps | none => 0)) 0
      if 2 ≤ reps then
        some (ms.foldl (fun acc k => acc.updCore k (fun c => { c with
          task := c.task.map (fun t => { t with reps := 3 })
          mrg := c.mrg.map (fun x => { x with failed := false }) })) s)
      else if !ms.all (fun k => (s.core k).failed) then
        let s1 := ms.foldl State.mergeFail s
        some (ms.foldl (fun acc k => (acc.liveAgents k).foldl State.stopCtx acc) s1)
      else if ms.any (fun k => (s.liveAgents k).any (fun a => (s.ctx a).runsOn)) then none
      else if (ms.any (fun k => (s.liveAgents k).any (fun a => (s.ctx a).busy.isSome))) then
        some (ms.foldl (fun acc k => (acc.liveAgents k).foldl State.stopCtx acc) s)
      else if ms.any s.stuck then some (ms.foldl (fun acc k => if s.stuck k then acc.returnStuck k else acc) s)
      else if !ms.all (s.memberSaves true) then none
      else (s.recordsGet ms true).andThen (fun u => ms.foldl State.restoreMember (u.farWithdrawn g))

def execSuperstepRollback (s : State) : Out :=
  match s.ev with
  | .one g => event "SUPERSTEP_ROLLBACK" (s.rollback g)
  | _ => event "SUPERSTEP_ROLLBACK" none

end Sys2Proof.Machine
end

