-- ==== Sys2Proof/Machine/HostSide.lean ====
section
/-! DEFINITION. The edges of the device and its upkeep: writes and reads over the links (R107, R137, R413, R414), link errors (R416),
firmware and bring-up (R44, R110, R111, R427, R429), device time (R420), Heneri frames (R202, R423), health, replacement requests,
bubbles and the thermal stop (R115, R431-R435), and reset. -/

namespace Sys2Proof.Machine

open Sys2Proof

/-! ## Links -/

/-- The position of a link's writes (R122). -/
def linkPos (l : Link) : Nat := match l with | .host => 4096 | .peer g => 4097 + g

/-- A link carries traffic: the host port has trained, or a port to a valid peer is ready. -/
def State.linkUp (s : State) (l : Link) : Bool :=
  match l with
  | .host => s.ready 49
  | .peer g => (s.peer g).valid && (List.range 16).any (fun p => (s.peer g).ports.getLsbD p && s.ready (24 + p))

/-- Replace bytes of a list, which is filled up with zeros. -/
def patchBytes (l : List Byte) (n off : Nat) (data : List Byte) : List Byte :=
  (List.range n).map (fun i => if off ≤ i ∧ i < off + data.length then data.getD (i - off) 0 else l.getD i 0)

/-- What a link's accesses reach: the host the DRAM region through its HDM decoder, and its own memory (R413, R414); a peer the first
2^46 bytes, the DRAM and the second tier (R417), of which the granules reserved for the Ubhal are none of its own. -/
def State.linkReach (s : State) (l : Link) (pa n : Nat) : Bool :=
  match l with
  | .host => decide (pa + n ≤ memTop s) || (decide (hostBase ≤ pa) && decide (pa + n ≤ hostEnd))
  | .peer _ => decide (pa + n ≤ 2 * tierBase) && !inUbhal s pa

/-- An access over a link can be made now (R113, R137, R430): the link is up, the bytes lie within one line in its reach, their stack is
ready, no quiesce holds the line, and an owner can give it up. -/
def State.linkMay (s : State) (l : Link) (pa0 n : Nat) : Bool :=
  let pa := fwdAddr s pa0
  s.linkUp l && decide (n ≠ 0) && decide (pa0 % 128 + n ≤ 128) && s.linkReach l pa0 n && !notReadyPA s none true pa
    && !s.quiesced (pa / 128) && s.recallOk (pa / 128)

/-- A write over a link (R137): within one line, and only once every earlier write of the link has delivered its invalidations. An
active window refuses it (R107). The requests that a slice counts are those of the device's own accesses (log entry 13). -/
def State.linkWrite (s : State) (l : Link) (t : LinkTarget) (data : List Byte) : Option State :=
  match t with
  | .bar0 off =>
    if l ≠ .host ∨ !s.linkUp l then none
    else if off + data.length ≤ 64 then some (s.updDev (fun d => { d with mboxReq := patchBytes d.mboxReq 64 off data }))
    else if off = 0x80 ∧ data.length = 8 then
      if s.dev.go ∨ ofBytes data ≠ 1 then some s
      else
        some (s.updDev (fun d =>
          let r : UbReq := ⟨padTo 0 64 d.mboxReq, none, .hypervisor, 0, 0⟩
          { d with go := true, ubq := d.ubq ++ [r] }))
    else some s
  | .mem pa0 =>
    let pa := fwdAddr s pa0
    if !s.linkMay l pa0 data.length ∨ s.recs.any (fun r => decide (r.gid = linkPos l) && s.anyInFlight r.wid) then none
    else if (windowOf s pa).isSome then some (s.count 9 0 1)
    else some ((s.recall (pa / 128)).writeHome ⟨pa, data, false, linkPos l, true, false, [], false, none, true, none⟩)

def execLinkWrite (s : State) : Out :=
  match s.ev with
  | .write l t data => event "LINK_WRITE" (s.linkWrite l t data)
  | _ => event "LINK_WRITE" none

/-- A read over a link: its value leaves the device. What stays is a recall from an owner, a miss, a decode's scale at its controller, and
what the check of the words read finds (R100, R106, R431). -/
def State.linkRead (s : State) (l : Link) (t : LinkTarget) (n : Nat) : Option State :=
  match t with
  | .bar0 _ => if l ≠ .host ∨ !s.linkUp l then none else some s
  | .mem pa0 =>
    let pa := fwdAddr s pa0
    if !s.linkMay l pa0 n || !s.missRoom pa then none
    else some ((((s.recall (pa / 128)).noteMiss pa).noteRead none true pa n).noteDecode pa 4)

def execLinkRead (s : State) : Out :=
  match s.ev with
  | .read l t n => event "LINK_READ" (s.linkRead l t n)
  | _ => event "LINK_READ" none

/-! ## Replacement requests (R433) -/

/-- Causes that arise together: REQ, their bits, and REASON as the lowest code of the cycle in which REQ was set. -/
def State.replace (s : State) (causes : List Nat) : State :=
  if causes.isEmpty then s
  else
    let low := causes.foldl min 7
    s.updDev (fun d =>
      let w := causes.foldl (fun w n => w ||| wd (2 ^ (7 + n))) d.repl
      if !bit d.repl 63 then { d with repl := w ||| wd (2 ^ 63 + low), replAt := d.cycl }
      else if d.replAt = d.cycl ∧ low < bits d.repl 2 0 then { d with repl := (w &&& ~~~7) ||| wd low }
      else { d with repl := w })

/-! ## Link errors (R416, R431) -/

def State.laneLost (s : State) (n : Nat) : Bool := Sparse.look false s.dev.lanes n

def execFlitRetry (s : State) : Out :=
  match s.ev with
  | .one n => event "FLIT_RETRY" (if 64 ≤ n ∨ s.laneLost n then none else some (s.count 6 n 1))
  | _ => event "FLIT_RETRY" none

/-- Lanes leave their ports: a port that has lost all four clears its readiness bit (R430); more than four lost lanes are cause 3. -/
def State.loseLanes (s : State) (ns : List Nat) : State :=
  let s1 := s.updDev (fun d => { d with lanes := ns.foldl (fun m n => Sparse.put false m n true) d.lanes })
  s1.updDev (fun d => { d with
    rdy := (List.range 16).foldl (fun w p =>
      if (List.range 4).all (fun l => s1.laneLost (4 * p + l)) then w &&& ~~~(wd (2 ^ (24 + p))) else w) d.rdy })

/-- Whether more than four lanes are lost. -/
def State.lanesShort (s : State) : Bool := decide (4 < ((List.range 64).filter s.laneLost).length)

def execLaneLoss (s : State) : Out :=
  match s.ev with
  | .one n =>
    event "LANE_LOSS" (if 64 ≤ n ∨ s.laneLost n then none
      else
        let s1 := s.loseLanes [n]
        some (s1.replace (if s1.lanesShort then [3] else [])))
  | _ => event "LANE_LOSS" none

/-! ## Reset, firmware, bring-up -/

/-- Device reset (R429): every register and table at its reset value. Drives keep their data, and DRAM its bytes and their errors (log
entry 1); a channel found failing stays so (R432). -/
def execReset (s : State) : Out :=
  event "RESET" (some { State.reset with
    dev := { Device.reset with badChans := s.dev.badChans }
    storage := s.storage
    mem := s.mem.filter (fun c => decide (c.1 < scratchBase))
    tags := s.tags.filter (fun g => decide (g * 16 < scratchBase))
    poison := s.poison.filter (fun l => decide (l * 128 < scratchBase))
    ecc := s.ecc.filter (fun e => decide (e.1 * 8 < scratchBase) && decide (e.2 ≤ 2))
    now := s.now, nextWid := s.nextWid, nextId := s.nextId, nextOrd := s.nextOrd, fresh := s.fresh, agenda := s.agenda, cur := s.cur
    rr := s.rr })

/-- The boot ROM's verdict on an image (R427). -/
def fwAccepted (i : FwImage) : Bool := Config.sm2Verify i && decide (Config.fusedMinVersion ≤ i.version) && !i.reservedSet

def execFirmwareLoad (s : State) : Out :=
  match s.ev with
  | .firmware i =>
    event "FIRMWARE_LOAD" (some (if fwAccepted i then
      s.updDev (fun d => { d with fw := some i, fwLoaded := d.fwLoaded ++ [i.payload] }) else s))
  | _ => event "FIRMWARE_LOAD" none

/-- Set a readiness bit. -/
def State.setReady (s : State) (i : Nat) : State := s.updDev (fun d => { d with rdy := d.rdy ||| wd (2 ^ i) })

/-- The Ubhal fixes m, N and the hole from the channels found working (R110, R111), failing ones not among them (R432). -/
def State.fixMap (s : State) (avail : List Nat) : State :=
  let av := (List.range 256).filter (fun c => avail.contains c && !s.dev.badChans.contains c)
  let m := av.length
  let n := m * 2 ^ 19 - 16384
  let hole := if n % m = 0 then 0 else m - n % m
  s.updDev (fun d => { d with
    avail := av
    memmap := wd (m * 2 ^ 55 + n * 4096)
    memhole := wd ((n + hole) * 4096) })

/-- The hypervisor trap copies that every context of a core starts with (R44 step 2). -/
def Core.hypSet (c : Core) (i : FwImage) : Core :=
  (List.range 13).foldl (fun k n => k.updCtx n (fun x =>
    { x with hyp := { x.hyp with vec := i.handler &&& ~~~0x3F, vem := i.handlerMeta } })) c

/-- The first range-table entries of a service core, written by the Ubhal (R42). -/
def Cluster.firstRanges (k : Cluster) (es : List (List Word)) : Cluster :=
  { k with rnge := (List.range (min es.length 48)).foldl (fun m n =>
      let e := es.getD n []
      Sparse.put Rnge.reset m n ⟨e.getD 0 0, e.getD 1 0, e.getD 2 0⟩) k.rnge }

/-- A service core is brought into service (R42, R44 steps 1 to 3). -/
def State.startService (s : State) (cl : Nat) (i : FwImage) : State :=
  let g := svcOf cl
  let s1 := (s.physWrite devUnit false i.svcBase i.payload).updCluster cl (fun k => k.firstRanges i.rnge)
  let s2 := s1.updCore g (fun c => i.svcTlb.foldl (fun k w => match tlbOfWords w.1 w.2 with
    | some e => k.install { e with pin := true, dom := 0 }
    | none => k) c)
  let s3 := (g :: (List.range 256).map (gidOf cl)).foldl (fun acc k => acc.updCore k (fun c => c.hypSet i)) s2
  s3.updCtx ⟨g, 0⟩ (fun c =>
    { ((c.bindDom 0).enter ⟨i.svcEntry, i.svcMeta, true⟩ false 0) with live := true, level := .hypervisor })

/-- A function passes its test (R429): its bit is set and it is usable. -/
def State.functionReady (s : State) (f : Func) : Option State :=
  let once (i : Nat) (t : State) : Option State := if s.ready i then none else some (t.setReady i)
  match f with
  | .dram k avail =>
    if 8 ≤ k then none
    else once k (if bits s.dev.rdy 7 0 = 0 then s.fixMap avail else s)
  | .cluster c => if 8 ≤ c then none else once (8 + c) s
  | .service c =>
    match s.dev.fw with
    | none => none
    | some i =>
      if 8 ≤ c ∨ (s.ctx ⟨svcOf c, 0⟩).live then none
      else (s.devGet false (s.devLines i.svcBase i.payload.length)).andThen (fun u => u.startService c i)
  | .draw c => if 8 ≤ c then none else once (50 + c) s
  | .link p => if 16 ≤ p ∨ (List.range 4).all (fun l => s.laneLost (4 * p + l)) then none else once (24 + p) s
  | .tier p isMem n =>
    if 8 ≤ p then none
    else once (40 + p) (s.updDev (fun d =>
      if isMem then { d with tierMem := Sparse.put 0 d.tierMem p (min n (2 ^ 42)) }
      else { d with tierNvm := Sparse.put false d.tierNvm p true }))
  | .host => once 49 s

def execFunctionReady (s : State) : Out :=
  match s.ev with
  | .func f => event "FUNCTION_READY" (s.functionReady f)
  | _ => event "FUNCTION_READY" none

/-- The end of bring-up: a stack that is not ready, or short of more than two channels, is cause 2 (R433). -/
def execBringupEnd (s : State) : Out :=
  let short := (List.range 8).any (fun k =>
    !s.ready k || decide (((List.range 32).filter (fun c => s.dev.avail.contains (32 * k + c))).length < 30))
  event "BRINGUP_END" (if s.dev.bringupDone then none
    else some ((s.updDev (fun d => { d with bringupDone := true })).replace (if short then [2] else [])))

/-! ## Device time (R199, R420) -/

/-- Time status with a lock state; TLOCK follows it, and without lock the master distributor takes over. -/
def State.setLock (s : State) (on : Bool) : State :=
  s.updDev (fun d => { d with
    dtst := if on then d.dtst ||| wd (2 ^ 63) else d.dtst &&& ~~~(wd (2 ^ 63))
    rdy := if on then d.rdy ||| wd (2 ^ 48) else d.rdy &&& ~~~(wd (2 ^ 48))
    fallback := if on then d.fallback else true })

/-- A measured offset in DTST.OFS: signed, saturating. -/
def offsetField (i : Int) : Nat := (wdI (max (-(2 ^ 31 : Int)) (min i (2 ^ 31 - 1)))).toNat % 2 ^ 32

/-- Due ticks of a window fire in slot order, each under R203; one that has to wait for room stays due. -/
def State.fireTicks (cl i : Nat) : Nat → State → State
  | 0, s => s
  | n + 1, s => match s.windowTick cl i with | some t => t.fireTicks cl i n | none => s

/-- A step of device time forward fires every pending tick at or before the new time at once (R421). -/
def State.fireDue (s : State) : State :=
  (List.range 32).foldl (fun acc k =>
    let w := (acc.cluster (k / 4)).win (k % 4)
    if w.active ∧ w.tickOf w.nexts ≤ acc.dev.ns then acc.fireTicks (k / 4) (k % 4) ((acc.dev.ns - w.tickOf w.nexts) / w.per + 1) else acc) s

/-- A Sync as the device time unit sees it (R420). -/
def State.ptpSync (s : State) (m : PtpSync) : State :=
  if m.grandmaster then
    (s.updDev (fun d => { d with dtst := wd (bits d.dtst 63 63 * 2 ^ 63 + 2 * 2 ^ 61 + bits d.dtst 60 60 * 2 ^ 60), syncGood := 0 })).setLock true
  else
    let size := m.offset.natAbs
    let good := if size ≤ 50 then s.dev.syncGood + 1 else 0
    let locked := bit s.dev.dtst 63
    let on := (locked && decide (size ≤ 500)) || decide (16 ≤ good)
    let step := on && !bit s.dev.dtst 60
    let s1 := s.updDev (fun d => { d with
      syncGood := good
      dtst := wd (b2n locked * 2 ^ 63 + 2 ^ 61 + b2n (bit d.dtst 60 || step) * 2 ^ 60 + m.port % 16 * 2 ^ 56 + offsetField m.offset)
      ns := if step then m.masterNs else d.ns
      frac := if step then 0 else d.frac })
    let s2 := if on = locked then s1 else s1.setLock on
    if step ∧ s.dev.ns < m.masterNs then s2.fireDue else s2

def execPtpSync (s : State) : Out :=
  match s.ev with
  | .sync m => event "PTP_SYNC" (if m.grandmaster || s.ready (24 + m.port % 16) then some (s.ptpSync m) else none)
  | _ => event "PTP_SYNC" none

/-- Eight Sync intervals pass without a Sync (R420). -/
def execLockLossTimeout (s : State) : Out :=
  event "LOCK_LOSS_TIMEOUT" (if bit s.dev.dtst 63 && decide (bits s.dev.dtst 62 61 = 1) then
    some ((s.updDev (fun d => { d with syncGood := 0 })).setLock false) else none)

/-! ## Heneri frames (R202, R204, R422, R423) -/

/-- Add one to the upper or lower half of a word of a window. -/
def State.winCount (s : State) (cl i word : Nat) (upper : Bool) : State :=
  s.updWin cl i (fun w =>
    let v := w.word word
    w.put word (if upper then wd ((bits v 63 32 + 1) % 2 ^ 32 * 2 ^ 32 + bits v 31 0)
      else wd (bits v 63 32 * 2 ^ 32 + (bits v 31 0 + 1) % 2 ^ 32)))

/-- The record of a frame: 16 bytes of header, and the payload padded to 16 (R423). -/
def frameRecord (f : HeneriFrame) : List Byte :=
  let n := f.payload.length
  toBytes 8 (f.hstr.toNat * 2 ^ 48 + n % 65536 * 2 ^ 32) ++ toBytes 8 f.ts.toNat ++ padTo 0 ((n + 15) / 16 * 16) f.payload

/-- A record is appended to the slot that its storage holds, and the header updated, as one release at cluster scope (R202). -/
def State.appendSlot (s : State) (cl : Nat) (w : Twin) (n : Nat) (rec_ : List Byte) (late : Bool) : State :=
  let h := s.slotWord w n 1
  let v := wd ((bits h 63 32 + rec_.length) * 2 ^ 32 + (bits h 31 16 + 1) * 65536 + b2n (bit h 1) * 2 + b2n (bit h 0 || late))
  (s.physWrite (gidOf cl 0) true (w.slotAt n + 128 + bits h 63 32) rec_).physWrite (gidOf cl 0) true (w.slotAt n + 8) (toBytes 8 v.toNat)

/-- The lines of the slot that a record meets in a window: its header, and where the record would go. -/
def State.recordLines (s : State) (cl i : Nat) (f : HeneriFrame) : List Nat :=
  let w := (s.cluster cl).win i
  let n := (f.ts.toNat - w.t0) / w.per
  if f.ts.toNat < w.t0 then []
  else
    (s.slotLines w n ++ s.devLines (w.slotAt n + 128 + bits (s.slotWord w n 1) 63 32) (frameRecord f).length ++
      s.devLines (w.slotAt n + 128) (frameRecord f).length).foldl natIns []

/-- A record meets one window (R202, R204, R423). -/
def State.windowRecord (s0 : State) (cl i : Nat) (f : HeneriFrame) : State :=
  let w := (s0.cluster cl).win i
  if f.ts.toNat < w.t0 then s0.winCount cl i 5 true
  else
    let n := (f.ts.toNat - w.t0) / w.per
    let s := s0.slotTrace w n
    let r := frameRecord f
    let a := s.dev.ns
    let held := (s.slotWord w n 0).toNat
    let free := bit (s.slotWord w n 1) 1
    let present := if held < n then 0 else bits (s.slotWord w n 1) 63 32
    let count := if held < n then 0 else bits (s.slotWord w n 1) 31 16
    if w.nexts + w.horiz ≤ n then s.winCount cl i 5 false
    else if w.tickOf n + w.grace * w.per ≤ a then s.winCount cl i 5 true
    else if (held < n ∧ !free) ∨ w.slsz < 128 + present + r.length ∨ 65535 ≤ count then s.winCount cl i 5 false
    else if n < held then s.winCount cl i 5 true
    else
      let late := decide (w.tickOf n ≤ a)
      let s1 := if held < n then s.initSlot cl w n else s
      let s2 := s1.appendSlot cl w n r late
      if late then (s2.winCount cl i 6 false).addSem (gidOf cl (bits (wd w.lsem) 15 8)) (bits (wd w.lsem) 7 0) 1 else s2

/-- A frame arrives at a port: every matching window of the port's partition, or a drop counted (R423). It waits while the storage of its
slots cannot be reached (R113, R430). -/
def State.heneriFrame (s : State) (port : Nat) (f : HeneriFrame) : Option State :=
  if 16 ≤ port ∨ !s.ready (24 + port) then none
  else
    let part := Sparse.look 0 s.dev.portPart port
    let hits := ((List.range 8).filter (fun c => decide ((s.cluster c).part = part))).flatMap (fun c =>
      ((List.range 4).filter (fun i => let w := (s.cluster c).win i; w.active && decide (w.hstr = f.hstr.toNat))).map (fun i => (c, i)))
    if f.reserved || hits.isEmpty || f.payload.isEmpty || decide (4080 < f.payload.length) then some (s.count 11 port 1)
    else
      (s.devGet true ((hits.flatMap (fun e => s.recordLines e.1 e.2 f)).foldl natIns [])).andThen (fun u =>
        hits.foldl (fun acc e => acc.windowRecord e.1 e.2 f) u)

def execHeneriFrame (s : State) : Out :=
  match s.ev with
  | .frame port f => event "HENERI_FRAME" (s.heneriFrame port f)
  | _ => event "HENERI_FRAME" none

/-! ## Health (R115, R432) -/

/-- Other slices in the order in which buckets go to them: s + 1, s - 1, s + 2 and so on (R115). -/
def bucketOrder (i : Nat) : List Nat :=
  ((List.range 8).flatMap (fun k => [(i + k + 1) % 16, (i + 15 - k) % 16])).foldl (fun acc n => if acc.contains n ∨ n = i then acc else acc ++ [n]) []

/-- A change that needs lines out of their slices (R113): each call makes one step of its quiesces, then, with everything flushed, makes
the change and releases what was held. The Ubhal makes one such change at a time. -/
def State.afterFlush (s : State) (qs : List Quiesce) (change : State → State) : Option State :=
  if !s.dev.quiesce.all (fun q => qs.contains q) then none
  else if s.flushed qs then some (change s).releaseHeld
  else s.quiesceAll qs

/-- Every bucket, and every line. -/
def allBuckets : List Nat := List.range 64
def lastLine : Nat := 2 ^ 45

/-- Every bucket of every cluster over a range of lines. -/
def quiesceRange (lo hi : Nat) : List Quiesce := (List.range 8).map (fun c => ⟨c, allBuckets, lo, hi⟩)

/-- A bucket of a cluster goes to a slice (R91). -/
def State.setBucket (s : State) (cl b i : Nat) : State :=
  s.updCluster cl (fun k =>
    let r := k.bktReg (b / 16)
    let lo := 4 * (b % 16)
    { k with bkt := Sparse.put bktReset k.bkt (b / 16) (wd (r.toNat - bits r (lo + 3) lo * 2 ^ lo + i * 2 ^ lo)) })

/-- The buckets that a slice homes. -/
def Cluster.bucketsOf (k : Cluster) (i : Nat) : List Nat :=
  (List.range 64).filter (fun b => decide (bits (k.bktReg (b / 16)) (4 * (b % 16) + 3) (4 * (b % 16)) = i))

/-- A slice is retired at the rehash (R115). DESIGN CHOICE (log entry 46): the last slice of a cluster, with none left to take its
buckets, is marked as retired and keeps them. -/
def State.retireSlice (s : State) (cl i : Nat) : State :=
  let k := s.cluster cl
  let s1 := s.updSlice cl i (fun k => { k with retired := true })
  let tgts := (bucketOrder i).filter (fun j => !(k.slice j).retired)
  if tgts.isEmpty then s1
  else
    let bs := k.bucketsOf i
    (List.range bs.length).foldl (fun acc n => acc.setBucket cl (bs.getD n 0) (tgts.getD (n % tgts.length) 0)) s1

/-- The value of an error counter (R431). -/
def State.counter (s : State) (ctr unit : Nat) : Nat := (Sparse.look 0 s.dev.ctr (4096 * ctr + unit)).toNat

/-- A unit's health at a window's end: the correctable and uncorrectable counters, if it has them. -/
def State.judge (s : State) (ce : Nat) (ue : Option Nat) (unit : Nat) : Health × Bool :=
  let h := Sparse.look Health.reset s.dev.health (4096 * ce + unit)
  let c := s.counter ce unit
  let u := match ue with | some k => s.counter k unit | none => 0
  let rises := if h.ue < u then h.rises + 1 else 0
  (⟨c, u, rises⟩, decide (3 ≤ rises) || decide (4096 < c - h.ce))

/-- Data banks in which an error has been counted, as 2,048 x cluster + number; every other bank is sound. -/
def State.bankUnits (s : State) : List Nat :=
  (s.dev.ctr.filterMap (fun e => if 4096 * 16 ≤ e.1 ∧ e.1 < 4096 * 24 then some ((e.1 - 4096 * 16) % 16384) else none)).foldl natIns []

/-- What has been noted of units for the next window. -/
def State.noteHealth (s : State) (ce : Nat) (ue : Option Nat) (units : List Nat) (m : Sparse Health) : Sparse Health :=
  units.foldl (fun m u => Sparse.put Health.reset m (4096 * ce + u) (s.judge ce ue u).1) m

/-- The end of a health window of 2^30 core cycles, bubbles among them (R432, R434): failing slices are retired, quiesced and flushed
first; failing lanes leave their ports, failing banks the pool at their next free, and failing channels the device at the next
bring-up. -/
def State.healthEnd (s : State) : Option State :=
  if s.dev.cycl.toNat / 2 ^ 30 ≤ s.dev.healthWindows then none
  else
    let slices := (List.range 128).filter (fun u => (s.judge 0 (some 1) u).2 && !((s.cluster (u / 16)).slice (u % 16)).retired)
    let qs := slices.map (fun u => (⟨u / 16, (s.cluster (u / 16)).bucketsOf (u % 16), 0, lastLine⟩ : Quiesce))
    s.afterFlush qs (fun s =>
      let lanes := (List.range 64).filter (fun u => (s.judge 6 none u).2 && !s.laneLost u)
      let banks := s.bankUnits.filter (fun u => (s.judge 16 (some 20) u).2)
      let chans := (List.range 256).filter (fun u => (s.judge 4 (some 5) u).2)
      let s1 := s.updDev (fun d => { d with
        healthWindows := d.healthWindows + 1
        badChans := chans.foldl natIns d.badChans
        health := s.noteHealth 0 (some 1) (List.range 128) (s.noteHealth 6 none (List.range 64)
          (s.noteHealth 4 (some 5) (List.range 256) (s.noteHealth 16 (some 20) s.bankUnits d.health))) })
      let s2 := slices.foldl (fun acc u => acc.retireSlice (u / 16) (u % 16)) s1
      let s3 := if lanes.isEmpty then s2 else s2.loseLanes lanes
      let s4 := banks.foldl (fun acc u => acc.updCluster (u / 2048) (fun k => { k with failing := natIns k.failing (u % 2048) })) s3
      let second := slices.any (fun u => decide (2 ≤ ((List.range 16).filter (fun i => ((s4.cluster (u / 16)).slice i).retired)).length))
      s4.replace ((if second then [1] else []) ++ (if !lanes.isEmpty && s4.lanesShort then [3] else [])))

def execHealthWindowEnd (s : State) : Out := event "HEALTH_WINDOW_END" s.healthEnd

/-! ## Bubbles and heat (R434, R435) -/

/-- Device time moves on by nanoseconds and 2^-32 parts of one (R419). -/
def Device.pass (d : Device) (dt df : Nat) : Device :=
  let f := d.frac.toNat + df
  { d with ns := d.ns + dt + f / 2 ^ 32, frac := BitVec.ofNat 32 f }

/-- A whole-device idle cycle: only CYCL and device time move, at most seven in a row. A cycle in which a move has been made is none: what
device time makes due in a bubble comes in the first cycle after the bubbles. -/
def execBubble (s : State) : Out :=
  let t : Nat × Nat := match s.ev with | .one n => (n, 0) | .two n f => (n, f) | _ => (1, 0)
  event "BUBBLE" (if 7 ≤ s.dev.bubbleRun ∨ s.dev.acted then none
    else some (s.updDev (fun d => { (d.pass t.1 t.2) with cycl := d.cycl + 1, bubbleRun := d.bubbleRun + 1 })))

/-- A die overheats: a Rake stop for every partition, recorded; work resumes only after a reset. -/
def execThermalStop (s : State) : Out :=
  event "THERMAL_STOP" (if s.dev.thermal then none
    else
      let s1 := (List.range 2048).foldl State.rakeCore s
      some (s1.updDev (fun d => { d with thermal := true, rakeLog := d.rakeLog ++ [(2, d.cycl.toNat)] })))

end Sys2Proof.Machine
end

