-- ==== Sys2Proof/Machine/ScalarFp.lean ====
section
/-! DEFINITION. Group 0x3: scalar floating point and conversion (R288-R291). -/

namespace Sys2Proof.Machine

open Sys2Proof

/-- D := an FP result of A and B; the FSTAT bits it sets stick (R171, R288). -/
def fpCtx (f : Nat → Nat → FRes) (d a b : Operand) (c : Ctx) : Ctx :=
  let ra := c.readS a
  let rb := ra.2.readS b
  let r := f ra.1.toNat rb.1.toNat
  (rb.2.writeS d (wd r.raw)).raise r.flags

def fpBin (f : Nat → Nat → Bool → FVal → FVal → FRes) (h : Hdr) (o : FmtF) (s : State) : Out :=
  let m := o.fmt.toNat
  pure1 h s [o.a, o.b] [o.d]
    (fpCtx (fun x y => f m o.rnd.toNat o.sat (decodeF m x) (decodeF m y)) o.d o.a o.b)

def fsubF (f rnd : Nat) (sat : Bool) (a b : FVal) : FRes := faddF f rnd sat a b.neg

def execFadd (h : Hdr) (o : FmtF) (s : State) : Out := fpBin faddF h o s
def execFsub (h : Hdr) (o : FmtF) (s : State) : Out := fpBin fsubF h o s
def execFmul (h : Hdr) (o : FmtF) (s : State) : Out := fpBin fmulF h o s
def execFdiv (h : Hdr) (o : FmtF) (s : State) : Out := fpBin fdivF h o s

/-- `ffma`: D := A x B + D, one rounding (R288). -/
def execFfma (h : Hdr) (o : FmtF) (s : State) : Out :=
  let m := o.fmt.toNat
  pure1 h s [o.a, o.b, o.d] [o.d] (fun c =>
    let old := (c.getX (opNum o.d)).val.toNat
    fpCtx (fun x y => ffmaF m o.rnd.toNat o.sat (decodeF m x) (decodeF m y) (decodeF m old)) o.d o.a o.b c)

def execFsqrt (h : Hdr) (o : FmtF) (s : State) : Out :=
  let m := o.fmt.toNat
  pure1 h s [o.a] [o.d] (fun c =>
    let ra := c.readS o.a
    let r := fsqrtF m o.rnd.toNat o.sat (decodeF m ra.1.toNat)
    (ra.2.writeS o.d (wd r.raw)).raise r.flags)

def execFmin (h : Hdr) (o : FmtF) (s : State) : Out :=
  pure1 h s [o.a, o.b] [o.d]
    (fpCtx (fun x y => ⟨fminmax o.fmt.toNat false x y, 0⟩) o.d o.a o.b)
def execFmax (h : Hdr) (o : FmtF) (s : State) : Out :=
  pure1 h s [o.a, o.b] [o.d]
    (fpCtx (fun x y => ⟨fminmax o.fmt.toNat true x y, 0⟩) o.d o.a o.b)

/-- `fcmp`: the test FCOND; no flag (R289). -/
def execFcmp (h : Hdr) (o : FmtF) (s : State) : Out :=
  let m := o.fmt.toNat
  pure1 h s [o.a, o.b] [o.d] (fun c =>
    let ra := c.readS o.a
    let rb := ra.2.readS o.b
    rb.2.writePO o.d (fcond o.fcond.toNat (fcmpV (decodeF m ra.1.toNat) (decodeF m rb.1.toNat))))

/-- A converted value in a register: a signed integer sign-extended, anything else zero-extended (R290). -/
def cvtWord (dst raw : Nat) : Word := if fmtIsInt dst && fmtSigned dst then wdI (sext (fmtBits dst) raw) else wd raw

def execFcvt (h : Hdr) (o : FmtF) (s : State) : Out :=
  pure1 h s [o.a] [o.d] (fun c =>
    let ra := c.readS o.a
    let r := convert o.fmt.toNat o.fmt2.toNat o.rnd.toNat o.sat ra.1.toNat
    (ra.2.writeS o.d (cvtWord o.fmt.toNat r.raw)).raise r.flags)

def execFexp2 (h : Hdr) (o : FmtF) (s : State) : Out :=
  pure1 h s [o.a] [o.d] (fun c =>
    let ra := c.readS o.a
    let r := exp2F (ra.1.setWidth 32)
    (ra.2.writeS o.d (wd r.raw)).raise r.flags)

end Sys2Proof.Machine
end

