-- ==== Sys2Proof/Machine/Ubhal.lean ====
section
/-! DEFINITION. Requests to the Ubhal (R428): taken one at a time in arrival order, each checked for its level, its reserved bits and
its values, and answered by one reply; and what each operation does (R89, R104-R108, R113-R116, R187, R223, R224, R417, R418, R425,
R427). -/

namespace Sys2Proof.Machine

open Sys2Proof

/-! ## Requests and replies -/

def UbReq.word (r : UbReq) (i : Nat) : Word := wordAt r.bytes i
def UbReq.op (r : UbReq) : Nat := bits (r.word 0) 63 56
def UbReq.partition (r : UbReq) : Nat := bits (r.word 0) 50 48

/-- A reply record. -/
def UbReq.answer (r : UbReq) (st : Nat) (res : Word) : List Byte :=
  recordBytes [wd (r.op * 2 ^ 56 + st * 2 ^ 48 + bits (r.word 0) 31 0), res]

/-- A request that came over Casfort, where only an attestation is asked for (R427). -/
def UbReq.overLink (r : UbReq) : Bool := match r.from_ with | some g => decide (linkPos .host ≤ g) | none => false

/-- The request at the head is answered and leaves: to the core that sent it, out over Casfort, or into the mailbox, whose GO then reads
0. -/
def State.ubReply (s : State) (r : UbReq) (st : Nat) (res : Word) : State :=
  let s1 := s.updDev (fun d => { d with ubq := d.ubq.drop 1 })
  match r.from_ with
  | some g =>
    if r.overLink then s1 else
    let m : Msg := ⟨r.answer st res, true, 5, 0, 0⟩
    { s1 with flights := s1.flights ++ [.msg g m] }
  | none => s1.updDev (fun d => { d with mboxReply := r.answer st res, go := false })

/-- The lowest levels of the operation table. -/
def UbReq.hyper (r : UbReq) : Bool := decide (r.level = .hypervisor)
def UbReq.super (r : UbReq) : Bool := decide (r.level ≠ .user)
def UbReq.superZero (r : UbReq) : Bool := r.hyper || (r.super && decide (r.dom = 0))
def UbReq.any (_ : UbReq) : Bool := true

/-- Words from a number on are zero. -/
def UbReq.zeroFrom (r : UbReq) (n : Nat) : Bool := (List.range 8).all (fun i => decide (i < n) || decide (r.word i = 0))

/-- The reserved fields of word 0 are zero. -/
def UbReq.headOk (r : UbReq) : Bool := decide (bits (r.word 0) 55 51 = 0) && decide (bits (r.word 0) 47 32 = 0)

/-- One operation: the head request is refused with ST 1 or ST 2, or acted on. The action gives none while it cannot go on. -/
def ubOp (name : String) (op : Nat) (level ok : UbReq → Bool) (act : State → UbReq → Option State) (s : State) : Out :=
  match s.dev.ubq with
  | [] => event name none
  | r :: _ =>
    if r.op ≠ op then event name none
    else if !level r then event name (some (s.ubReply r 1 0))
    else if !(r.headOk && ok r) then event name (some (s.ubReply r 2 0))
    else event name (act s r)

/-! ## Tables (R89, R104, R417, R418, R425) -/

def execWritePeerTableEntry (s : State) : Out :=
  ubOp "WRITE_PEER_TABLE_ENTRY" 1 UbReq.hyper
    (fun r => decide (r.word 1 = wd (bits (r.word 1) 3 0)) && decide (bits (r.word 2) 62 16 = 0) && decide (bits (r.word 3) 63 48 = 0)
      && r.zeroFrom 4)
    (fun t r =>
      let p : Peer := ⟨bit (r.word 2) 63, (r.word 2).setWidth 16, (r.word 3).setWidth 48, r.partition⟩
      some ((t.updDev (fun d => { d with peers := Sparse.put Peer.reset d.peers (bits (r.word 1) 3 0) p })).ubReply r 0 0)) s

def execWriteCollectiveGroup (s : State) : Out :=
  ubOp "WRITE_COLLECTIVE_GROUP" 2 UbReq.superZero
    (fun r => decide (bits (r.word 1) 63 8 = 0) && decide (bits (r.word 2) 62 12 = 0) && decide (bits (r.word 3) 63 52 = 0)
      && decide (bits (r.word 3) 1 0 = 0) && r.zeroFrom 4)
    (fun t r =>
      let g : Group := ⟨bit (r.word 2) 63, bits (r.word 2) 11 0 + 1, (r.word 3).toNat⟩
      some ((t.updDev (fun d => { d with
        groups := Sparse.put Group.reset d.groups (256 * r.partition + bits (r.word 1) 7 0) g })).ubReply r 0 0)) s

def execWriteStorageHandle (s : State) : Out :=
  ubOp "WRITE_STORAGE_HANDLE" 3 UbReq.hyper
    (fun r => decide (bits (r.word 1) 63 6 = 0) && decide (bits (r.word 2) 61 3 = 0) && decide (bits (r.word 3) 63 32 = 0)
      && r.zeroFrom 4)
    (fun t r =>
      let h : Handle := ⟨bit (r.word 2) 63, bit (r.word 2) 62, bits (r.word 2) 2 0, bits (r.word 3) 31 0⟩
      some ((t.updDev (fun d => { d with
        handles := Sparse.put Handle.reset d.handles (64 * r.partition + bits (r.word 1) 5 0) h })).ubReply r 0 0)) s

/-! ## Home ranges (R113, R116) -/

/-- The lines of a valid home range. -/
def rangeLines (w : Words3) : List (Nat × Nat) :=
  if bit w.w0 63 then [(bits w.w0 51 30 * 2 ^ 23, (bits w.w1 51 30 + 1) * 2 ^ 23 - 1)] else []

/-- Rewrite one home range entry: the lines of the range that it gave and of the one that it gives are quiesced and flushed first. -/
def State.rehome (s : State) (i : Nat) (w : Words3) (k : State → State) : Option State :=
  s.afterFlush ((rangeLines (s.hrng i) ++ rangeLines w).flatMap (fun r => quiesceRange r.1 r.2)) (fun t =>
    k (t.updDev (fun d => { d with hrng := Sparse.put Words3.zero d.hrng i w })))

def execWriteHomeRangeEntry (s : State) : Out :=
  ubOp "WRITE_HOME_RANGE_ENTRY" 4 UbReq.hyper
    (fun r => decide (bits (r.word 1) 63 4 = 0) && decide (bits (r.word 2) 62 55 = 0) && decide (bits (r.word 2) 29 0 = 0)
      && decide (bits (r.word 3) 63 52 = 0) && decide (bits (r.word 3) 29 0 = 0) && r.zeroFrom 4)
    (fun t r => t.rehome (bits (r.word 1) 3 0) ⟨r.word 2, r.word 3, 0⟩ (fun u => u.ubReply r 0 0)) s

/-- A write that sets V is refused (R105). -/
def windowRefused (s : State) (w : Words3) : Bool :=
  !(decide (bits w.w0 55 52 = 0) || decide (bits w.w0 55 52 = 0xB)) || decide (bits w.w0 3 0 < 2) || decide (8 < bits w.w0 3 0)
    || decide (bits w.w1 51 12 < bits w.w0 51 12) || decide (memTop s < fwinEnd w)
    || decide (bits w.w0 62 56 ≠ 0) || decide (bits w.w0 11 4 ≠ 0) || decide (bits w.w1 63 52 ≠ 0) || decide (bits w.w1 11 0 ≠ 0)
    || decide (bits w.w2 63 52 ≠ 0) || decide (bits w.w2 1 0 ≠ 0)

/-- A window's words as they read after a write. DESIGN CHOICE (log entry 46): a refused write clears V and stores the other fields too;
reserved fields read zero. -/
def windowWords (w : Words3) (v : Bool) : Words3 :=
  ⟨wd (b2n v * 2 ^ 63 + bits w.w0 55 52 * 2 ^ 52 + bits w.w0 51 12 * 4096 + bits w.w0 3 0), wd (bits w.w1 51 12 * 4096),
    wd (bits w.w2 51 2 * 4)⟩

/-- The lines of a window's range. -/
def windowLines (w : Words3) : List Quiesce := if fwinBase w < fwinEnd w then quiesceRange (fwinBase w / 128) (fwinEnd w / 128 - 1) else []

/-- A format window is written (R104, R105); when V is set or cleared, the lines of its range are quiesced and flushed first (R108). -/
def State.writeWindow (s : State) (i : Nat) (w : Words3) (k : State → State) : Option State :=
  let old := s.fwin i
  let v := bit w.w0 63 && !windowRefused s w
  let new := windowWords w v
  s.afterFlush ((if bit old.w0 63 then windowLines old else []) ++ (if v then windowLines new else [])) (fun t =>
    k (t.updDev (fun d => { d with
      fwin := Sparse.put Words3.zero d.fwin i new
      scales := d.scales.filter (fun e => e.2.1 ≠ i) })))

def execWriteFormatWindow (s : State) : Out :=
  ubOp "WRITE_FORMAT_WINDOW" 5 UbReq.hyper (fun r => decide (bits (r.word 1) 63 4 = 0) && r.zeroFrom 5)
    (fun t r =>
      let i := bits (r.word 1) 3 0
      t.writeWindow i ⟨r.word 2, r.word 3, r.word 4⟩ (fun u => u.ubReply r 0 (wd (b2n (bit (u.fwin i).w0 63))))) s

/-! ## Rake stops and releases (R223, R224) -/

/-- The cores a stop or release names: a partition's, or one gang's; none when no such gang exists. -/
def State.rakeTargets (s : State) (r : UbReq) : Option (List Nat) :=
  if bit (r.word 1) 63 then
    match s.launch? (bits (r.word 1) 15 0) with
    | some l => if l.gang then some (s.launchCores l.lid) else none
    | none => none
  else some (s.partCores r.partition)

def rakeWordOk (r : UbReq) : Bool := decide (bits (r.word 1) 62 16 = 0) && r.zeroFrom 2

def execRakeStop (s : State) : Out :=
  ubOp "RAKE_STOP" 6 UbReq.hyper rakeWordOk
    (fun t r => match t.rakeTargets r with
      | none => some (t.ubReply r 2 0)
      | some gs => some ((gs.foldl State.rakeCore t).ubReply r 0 0)) s

def execReleaseStoppedCores (s : State) : Out :=
  ubOp "RELEASE_STOPPED_CORES" 7 UbReq.hyper rakeWordOk
    (fun t r => match t.rakeTargets r with
      | none => some (t.ubReply r 2 0)
      | some gs =>
        let stopped := gs.filter (fun g => (t.core g).stopped)
        if stopped.any (fun g => t.slotsHeld g || !(t.taskCores g).all t.coreSpent) then none
        else some ((stopped.foldl State.releaseCore t).ubReply r 0 0)) s

/-! ## Partitions (R116, R187) -/

/-- No task of a launch of the old partition is bound to, saved in, queued in or still to be dealt to a cluster. -/
def State.drained (s : State) (cl : Nat) : Bool :=
  (s.running cl).isEmpty && (s.cluster cl).queues.all (fun q => q.items.isEmpty)
    && s.dev.launches.all (fun l =>
      let p := l.clm.findIdx (fun c => c == cl)
      decide (l.code ≠ 0) || decide (l.clm.length ≤ p) || decide (l.count ≤ p + Sparse.look 0 l.given cl * l.clm.length))

/-- The home ranges of a cluster go to another one. -/
def moveRanges (cl dst : Nat) (m : Sparse Words3) : Sparse Words3 :=
  (List.range 16).foldl (fun m i =>
    let e := Sparse.look Words3.zero m i
    if bit e.w0 63 && decide (bits e.w0 54 52 = cl) then
      Sparse.put Words3.zero m i { e with w0 := wd (e.w0.toNat - cl * 2 ^ 52 + dst * 2 ^ 52) }
    else m) m

def State.hasRanges (s : State) (cl : Nat) : Bool :=
  (List.range 16).any (fun i => bit (s.hrng i).w0 63 && decide (bits (s.hrng i).w0 54 52 = cl))

/-- The quiesces of a cluster's home ranges (R116): every bucket of it over each moved range. -/
def State.rangeQuiesces (s : State) (cl : Nat) : List Quiesce :=
  (List.range 16).flatMap (fun i =>
    if decide (bits (s.hrng i).w0 54 52 = cl) then (rangeLines (s.hrng i)).map (fun r => ⟨cl, allBuckets, r.1, r.2⟩) else [])

/-- The clear step of R187: slots freed, semaphores and planes zero, slot and register domains 0xFFF. -/
def State.clearCluster (s : State) (cl : Nat) : State :=
  (s.cores.filter (fun e => decide (e.1 < 2048) && decide (gidCl e.1 = cl))).foldl (fun acc e =>
    (acc.freeSlots e.1 4).updCore e.1 (fun c => { c with
      sems := [], semSets := [], semAdds := [], relSig := [], slotDom := 0xFFF
      matrix := { c.matrix with planes := [] }
      ctxs := c.ctxs.map (fun x => (x.1, { x.2 with bankDom := 0xFFF })) })) s

/-- A cluster moves to another partition: close, drain, rehome, clear, retag (R187). -/
def State.moveCluster (s : State) (r : UbReq) (cl : Nat) : Option State :=
  let k := s.cluster cl
  let q := r.partition
  let others := (List.range 8).filter (fun c => c ≠ cl && decide ((s.cluster c).part = k.part))
  if k.part = q then some (s.ubReply r 0 0)
  else if others.isEmpty && s.hasRanges cl then some (s.ubReply r 4 0)
  else if k.closing.isNone then some (s.updCluster cl (fun k => { k with closing := some q }))
  else if !s.drained cl ∨ (List.range 256).any (fun i => s.slotsHeld (gidOf cl i)) then none
  else
    s.afterFlush (s.rangeQuiesces cl) (fun t =>
      let t1 := t.updDev (fun d => { d with hrng := moveRanges cl (others.headD cl) d.hrng })
      ((t1.clearCluster cl).updCluster cl (fun k => { k with part := q, closing := none })).ubReply r 0 0)

def execMoveToPartition (s : State) : Out :=
  ubOp "MOVE_TO_PARTITION" 8 UbReq.hyper
    (fun r => decide (bits (r.word 1) 62 4 = 0) && r.zeroFrom 2 && (bit (r.word 1) 63 || decide (bits (r.word 1) 3 0 < 8)))
    (fun t r =>
      let n := bits (r.word 1) 3 0
      if bit (r.word 1) 63 then
        some ((t.updDev (fun d => { d with portPart := Sparse.put 0 d.portPart n r.partition })).ubReply r 0 0)
      else t.moveCluster r n) s

/-- A queue pool is set: in the DRAM region, in no other partition's pool, and not while a launch of the partition holds storage. -/
def execSetQueuePool (s : State) : Out :=
  ubOp "SET_QUEUE_POOL" 9 UbReq.hyper (fun r => decide ((r.word 2).toNat % 65536 = 0) && r.zeroFrom 3)
    (fun t r =>
      let lo := (r.word 1).toNat
      let hi := lo + (r.word 2).toNat
      let clash := decide (lo < hi) && t.dev.pools.any (fun e =>
        decide (e.1 ≠ r.partition) && decide (e.2.size ≠ 0) && decide (e.2.base < hi) && decide (lo < e.2.base + e.2.size))
      if memTop t < hi ∨ clash then some (t.ubReply r 2 0)
      else if t.dev.launches.any (fun l => decide (l.part = r.partition) && decide (l.storage ≠ 0)) then some (t.ubReply r 4 0)
      else
        some ((t.updDev (fun d => { d with
          pools := Sparse.put Pool.reset d.pools r.partition ⟨lo, (r.word 2).toNat, 0⟩ })).ubReply r 0 0)) s

/-! ## Status and attestation (R427, R428, R431) -/

/-- Units of each error counter (R431). -/
def counterUnits (ctr : Nat) : Nat :=
  match ctr with
  | 0 => 128 | 1 => 128 | 2 => 8 | 3 => 8 | 4 => 256 | 5 => 256 | 6 => 64 | 7 => 1 | 8 => 8 | 9 => 1 | 10 => 128 | 11 => 16
  | _ => 0

def execReadStatus (s : State) : Out :=
  ubOp "READ_STATUS" 0xA UbReq.super
    (fun r => decide ((r.word 1).toNat < 4) && decide (bits (r.word 2) 63 16 = 0) && r.zeroFrom 3
      && (if (r.word 1).toNat = 3 then decide (bits (r.word 2) 11 0 < counterUnits (bits (r.word 2) 15 12)) else decide (r.word 2 = 0)))
    (fun t r =>
      let v : Word := match (r.word 1).toNat with
        | 0 => t.dev.rdy
        | 1 => t.dev.repl
        | 2 => t.dev.dtst
        | _ => wd (t.counter (bits (r.word 2) 15 12) (bits (r.word 2) 11 0))
      some (t.ubReply r 0 v)) s

/-- The report is written into its buffer; it answers ST 3 when the buffer is too small. For a request over Casfort it leaves the device
with the reply (log entry 11). -/
def execAttestationReport (s : State) : Out :=
  ubOp "ATTESTATION_REPORT" 0xB UbReq.any (fun r => decide (bits (r.word 5) 63 52 = 0) && r.zeroFrom 7)
    (fun t r =>
      let bs := Config.attestReport ((r.bytes.drop 8).take 32) t.dev.ns t.locked (t.dev.fwLoaded.map sm3)
      if r.overLink then some (t.ubReply r 0 (wd bs.length))
      else if (r.word 6).toNat < bs.length then some (t.ubReply r 3 0)
      else
        (t.devGet false (t.devLines (r.word 5).toNat bs.length)).andThen (fun u =>
          (u.physWrite devUnit false (r.word 5).toNat bs).ubReply r 0 (wd bs.length))) s

/-- Every other OP is refused with ST 2. -/
def execUnknownOpRequest (s : State) : Out :=
  event "UNKNOWN_OP_REQUEST" (match s.dev.ubq with
    | [] => none
    | r :: _ => if r.op = 0 ∨ 0xB < r.op then some (s.ubReply r 2 0) else none)

end Sys2Proof.Machine
end

