-- ==== Sys2Proof/Machine/VectorOps.lean ====
section
/-! DEFINITION. Groups 0x4 and 0x5: vector arithmetic, conversion, quantisation, permutation, reductions and keys
(R315-R348). -/

namespace Sys2Proof.Machine

open Sys2Proof

/-! ## Lanes and values (R315, R316) -/

/-- Value `j` of lane `l`, `w` bits wide. -/
def valAt (v : Line) (w l j : Nat) : Nat := v.toNat / 2 ^ (32 * l + w * j) % 2 ^ w

/-- A lane with its value `j` replaced. -/
def setVal (x : BitVec 32) (w j n : Nat) : BitVec 32 :=
  let m := (2 ^ w - 1) * 2 ^ (w * j)
  BitVec.ofNat 32 (x.toNat - (x.toNat &&& m) + n % 2 ^ w * 2 ^ (w * j))

/-- Whether a lane is enabled (R315). -/
def laneOn (c : Ctx) (o : FmtV) (l : Nat) : Bool := !o.men || (c.getK o.msk.val).getLsbD l

/-- What a destination held: its old bits, or zeros for a pushed entry (R316). -/
def vOld (c : Ctx) (d : Operand) : Line := match d with | .v n => c.getV n.val | _ => 0

/-- A source whose value is the same in every lane when it names a scalar (R317). -/
def vsRead (c : Ctx) (b : Operand) (w sel : Nat) : (Nat → Nat) × Ctx :=
  match b with
  | .x n => (fun _ => (c.getX n.val).val.toNat % 2 ^ w, c)
  | _ => let r := c.readV b; (fun l => valAt r.1 w l sel, r.2)

/-- The flags of enabled lanes, joined (R171). -/
def laneFlags (on : Nat → Bool) (f : Nat → BitVec 6) : BitVec 6 :=
  (List.range 32).foldl (fun acc l => if on l then acc ||| f l else acc) 0

/-- An elementwise result: `f l` for each enabled lane, in value SELD of the lane, the rest kept (R315). -/
def putLanes (old : Line) (on : Nat → Bool) (w j : Nat) (f : Nat → Nat) : Line :=
  ofLanes (fun l => if on l then setVal (lane old l) w j (f l) else lane old l)

/-- An elementwise instruction in FMT on A and B (R315). -/
def elementwise (o : FmtV) (f : Nat → Nat → FRes) (c : Ctx) : Ctx :=
  let w := fmtBits o.fmt.toNat
  let ra := c.readV o.a
  let rb := vsRead ra.2 o.b w o.selb.toNat
  let res := fun l => f (valAt ra.1 w l o.sela.toNat) (rb.1 l)
  let on := laneOn c o
  (rb.2.writeVO o.d (putLanes (vOld c o.d) on w o.seld.toNat (fun l => (res l).raw))).raise
    (laneFlags on (fun l => (res l).flags))

def vBin (f : FmtV → Nat → Nat → FRes) (h : Hdr) (o : FmtV) (s : State) : Out :=
  pure1 h s [o.a, o.b] [o.d] (elementwise o (f o))

/-- A result with no flag. -/
def noFlag (n : Nat) : FRes := ⟨n, 0⟩

/-! ## Lane arithmetic (R322-R329) -/

def fop (f : Nat → Nat → Bool → FVal → FVal → FRes) (o : FmtV) (a b : Nat) : FRes :=
  f o.fmt.toNat o.rnd.toNat o.sat (decodeF o.fmt.toNat a) (decodeF o.fmt.toNat b)

def execVadd (h : Hdr) (o : FmtV) (s : State) : Out := vBin (fop faddF) h o s
def execVsub (h : Hdr) (o : FmtV) (s : State) : Out :=
  vBin (fop (fun f r t a b => faddF f r t a b.neg)) h o s
def execVmul (h : Hdr) (o : FmtV) (s : State) : Out := vBin (fop fmulF) h o s

def execVfma (h : Hdr) (o : FmtV) (s : State) : Out :=
  pure1 h s [o.a, o.b, o.d] [o.d] (fun c =>
    let m := o.fmt.toNat
    let w := fmtBits m
    let ra := c.readV o.a
    let rb := vsRead ra.2 o.b w o.selb.toNat
    let old := vOld c o.d
    let res := fun l => ffmaF m o.rnd.toNat o.sat (decodeF m (valAt ra.1 w l o.sela.toNat)) (decodeF m (rb.1 l))
      (decodeF m (valAt old w l o.seld.toNat))
    let on := laneOn c o
    (rb.2.writeVO o.d (putLanes old on w o.seld.toNat (fun l => (res l).raw))).raise (laneFlags on (fun l => (res l).flags)))

/-- Minimum or maximum of two values in a format (R323). -/
def minmaxVal (f : Nat) (isMax : Bool) (a b : Nat) : Nat :=
  if fmtIsInt f then
    (if isMax then (if decodeI f a < decodeI f b then b else a) else (if decodeI f b < decodeI f a then b else a))
  else fminmax f isMax a b

def execVmin (h : Hdr) (o : FmtV) (s : State) : Out := vBin (fun o a b => noFlag (minmaxVal o.fmt.toNat false a b)) h o s
def execVmax (h : Hdr) (o : FmtV) (s : State) : Out := vBin (fun o a b => noFlag (minmaxVal o.fmt.toNat true a b)) h o s

/-- `vabs` (R322, R323). -/
def absVal (f : Nat) (sat : Bool) (a : Nat) : FRes :=
  if fmtIsInt f then
    (if fmtSigned f then
      let i := decodeI f a
      let r := i.natAbs
      if sat && decide (r = 2 ^ (fmtBits f - 1)) then ⟨2 ^ (fmtBits f - 1) - 1, flSAT⟩ else ⟨r, 0⟩
     else ⟨a, 0⟩)
  else
    match decodeF f a with
    | .nan => ⟨fmtNaN f, 0⟩
    | _ => ⟨a % fmtSignBit f, 0⟩

def vUn (f : FmtV → Nat → FRes) (h : Hdr) (o : FmtV) (s : State) : Out :=
  pure1 h s [o.a] [o.d] (elementwise { o with b := .x 0 } (fun a _ => f o a))

def execVabs (h : Hdr) (o : FmtV) (s : State) : Out := vUn (fun o a => absVal o.fmt.toNat o.sat a) h o s

/-- The test of `vcmp` (R324). -/
def vcmpTest (f cond a b : Nat) : Bool :=
  if fmtIsInt f then
    let w := fmtBits f
    condTest cond (if cond < 6 then wdI (sext w a) else wd a) (if cond < 6 then wdI (sext w b) else wd b)
  else fcond cond (fcmpV (decodeF f a) (decodeF f b))

def execVcmp (h : Hdr) (o : FmtV) (s : State) : Out :=
  pure1 h s [o.a, o.b] [o.d] (fun c =>
    let f := o.fmt.toNat
    let w := fmtBits f
    let ra := c.readV o.a
    let rb := vsRead ra.2 o.b w o.selb.toNat
    let old := c.getK (opNum o.d)
    let bitOf := fun l => if laneOn c o l then vcmpTest f o.vimm.toNat (valAt ra.1 w l o.sela.toNat) (rb.1 l) else old.getLsbD l
    rb.2.writeK (opNum o.d) (BitVec.ofNat 32 ((List.range 32).foldl (fun acc l => acc + b2n (bitOf l) * 2 ^ l) 0)))

/-- `vsel`: every lane is written; with MEN 0 every lane takes A (R325). -/
def execVsel (h : Hdr) (o : FmtV) (s : State) : Out :=
  pure1 h s [o.a, o.b] [o.d] (fun c =>
    let w := fmtBits o.fmt.toNat
    let ra := c.readV o.a
    let rb := vsRead ra.2 o.b w o.selb.toNat
    rb.2.writeVO o.d (putLanes (vOld c o.d) (fun _ => true) w o.seld.toNat
      (fun l => if laneOn c o l then valAt ra.1 w l o.sela.toNat else rb.1 l)))

/-- Integer results wrap, or clamp under SAT and then set FSTAT.SAT alone (R326). -/
def fitLane (f : Nat) (sat : Bool) (i : Int) : FRes :=
  let r := fitInt f sat i
  ⟨r.raw, r.flags &&& flSAT⟩

def iop (f : Int → Int → Int) (o : FmtV) (a b : Nat) : FRes :=
  fitLane o.fmt.toNat o.sat (f (decodeI o.fmt.toNat a) (decodeI o.fmt.toNat b))

def execViadd (h : Hdr) (o : FmtV) (s : State) : Out := vBin (iop (fun a b => a + b)) h o s
def execVisub (h : Hdr) (o : FmtV) (s : State) : Out := vBin (iop (fun a b => a - b)) h o s
def execVimul (h : Hdr) (o : FmtV) (s : State) : Out := vBin (iop (fun a b => a * b)) h o s

def execVand (h : Hdr) (o : FmtV) (s : State) : Out := vBin (fun _ a b => noFlag (a &&& b)) h o s
def execVor (h : Hdr) (o : FmtV) (s : State) : Out := vBin (fun _ a b => noFlag (a ||| b)) h o s
def execVxor (h : Hdr) (o : FmtV) (s : State) : Out := vBin (fun _ a b => noFlag (a ^^^ b)) h o s

/-- A shifted value (R328): kind 0 left, 1 logical right, 2 arithmetic right. -/
def shiftVal (w kind a c : Nat) : Nat :=
  if w ≤ c then (if kind = 2 ∧ 2 ^ (w - 1) ≤ a then 2 ^ w - 1 else 0)
  else if kind = 0 then a * 2 ^ c % 2 ^ w
  else if kind = 1 then a / 2 ^ c
  else (sext w a / (2 ^ c : Nat) % (2 ^ w : Nat)).toNat

/-- A shift: the count is B, a whole scalar or a lane's value, plus VIMM, exact (R328). -/
def vShift (kind : Nat) (h : Hdr) (o : FmtV) (s : State) : Out :=
  pure1 h s [o.a, o.b] [o.d] (fun c =>
    let w := fmtBits o.fmt.toNat
    let ra := c.readV o.a
    let rb : (Nat → Nat) × Ctx := match o.b with
      | .x n => (fun _ => (ra.2.getX n.val).val.toNat, ra.2)
      | _ => vsRead ra.2 o.b w o.selb.toNat
    rb.2.writeVO o.d (putLanes (vOld c o.d) (laneOn c o) w o.seld.toNat
      (fun l => shiftVal w kind (valAt ra.1 w l o.sela.toNat) (rb.1 l + o.vimm.toNat))))

def execVshl (h : Hdr) (o : FmtV) (s : State) : Out := vShift 0 h o s
def execVshr (h : Hdr) (o : FmtV) (s : State) : Out := vShift 1 h o s
def execVsar (h : Hdr) (o : FmtV) (s : State) : Out := vShift 2 h o s

/-- One lane of `vdot4` (R329). -/
def dot4Lane (o : FmtV) (d a b : Nat) : FRes :=
  let v (x j : Nat) : Nat := x / 2 ^ (8 * j) % 256
  if fmtIsInt o.fmt.toNat then
    let t := (List.range 4).foldl (fun acc j => acc + decodeI o.fmt.toNat (v a j) * decodeI o.fmt2.toNat (v b j)) (sext 32 d)
    fitLane 3 o.sat t
  else
    let ps := (List.range 4).map (fun j => fmulV (decodeF o.fmt.toNat (v a j)) (decodeF o.fmt2.toNat (v b j)))
    let t := fsumV o.rnd.toNat (decodeF 8 d :: ps.map (fun p => p.1))
    (toF 8 o.rnd.toNat o.sat t.1).orFlags (invFlag (t.2 || ps.any (fun p => p.2)))

def execVdot4 (h : Hdr) (o : FmtV) (s : State) : Out :=
  pure1 h s [o.a, o.b, o.d] [o.d] (fun c =>
    let ra := c.readV o.a
    let rb := ra.2.readV o.b
    let old := vOld c o.d
    let res := fun l => dot4Lane o (valAt old 32 l 0) (valAt ra.1 32 l 0) (valAt rb.1 32 l 0)
    let on := laneOn c o
    (rb.2.writeVO o.d (putLanes old on 32 0 (fun l => (res l).raw))).raise (laneFlags on (fun l => (res l).flags)))

/-! ## Conversion and quantisation (R330-R333) -/

def execVcvt (h : Hdr) (o : FmtV) (s : State) : Out :=
  pure1 h s [o.a] [o.d] (fun c =>
    let f := o.fmt.toNat
    let w := fmtBits f
    let ra := c.readV o.a
    let on := laneOn c o
    if o.vimm = 0 then
      let res := fun l => convert o.fmt2.toNat f o.rnd.toNat o.sat (valAt ra.1 w l o.sela.toNat)
      (ra.2.writeVO o.d (putLanes (vOld c o.d) on 32 0 (fun l => (res l).raw))).raise (laneFlags on (fun l => (res l).flags))
    else
      let res := fun l => convert f o.fmt2.toNat o.rnd.toNat o.sat (valAt ra.1 32 l 0)
      (ra.2.writeVO o.d (putLanes (vOld c o.d) on w o.seld.toNat (fun l => (res l).raw))).raise
        (laneFlags on (fun l => (res l).flags)))

def execVdeq (h : Hdr) (o : FmtV) (s : State) : Out :=
  pure1 h s [o.a, o.b] [o.d] (fun c =>
    let f := o.fmt.toNat
    let w := fmtBits f
    let ra := c.readV o.a
    let rb := vsRead ra.2 o.b 32 0
    let on := laneOn c o
    let res := fun l => fmulF 8 o.rnd.toNat false (decodeVal f (valAt ra.1 w l o.sela.toNat)) (decodeF 8 (rb.1 l))
    (rb.2.writeVO o.d (putLanes (vOld c o.d) on 32 0 (fun l => (res l).raw))).raise (laneFlags on (fun l => (res l).flags)))

/-- One quantised lane: the exact product converted (R332), and whether it counts in SATN. -/
def quantLane (o : FmtV) (x sc : Nat) : FRes × Bool :=
  let y := fmulV (decodeF 8 x) (decodeF 8 sc)
  let f := o.fmt.toNat
  let r := if fmtIsInt f then toI f o.rnd.toNat o.sat y.1 else toF f o.rnd.toNat o.sat y.1
  let special := match y.1 with | .nan => true | .inf _ => true | .fin _ _ _ => false
  let ovf := (r.flags &&& flOF) != 0 || (decide (f = 13) && (r.flags &&& flSAT) != 0)
  (r.orFlags (invFlag y.2), special || ovf)

/-- The accumulator's MAXABS and SATN after one lane (R332). -/
def quantAcc (acc : Nat × Nat) (x : Nat) (counts : Bool) : Nat × Nat :=
  let m := match decodeF 8 x with
    | .fin _ _ _ => if fcmpV (decodeF 8 x).abs (decodeF 8 acc.1) = some .gt then x % 2 ^ 31 else acc.1
    | _ => acc.1
  (m, if counts then min (acc.2 + 1) 0xFFFFFFFF else acc.2)

def execVquant (h : Hdr) (o : FmtV) (s : State) : Out :=
  let accOn := o.vimm.getLsbD 7
  let tn := o.vimm.toNat % 32
  let extra : List Operand := if accOn then [.v (Fin.ofNat 32 tn)] else []
  pure1 h s ([o.a, o.b] ++ extra) (o.d :: extra) (fun c =>
    let w := fmtBits o.fmt.toNat
    let ra := c.readV o.a
    let rb := vsRead ra.2 o.b 32 0
    let on := laneOn c o
    let res := fun l => quantLane o (valAt ra.1 32 l 0) (rb.1 l)
    let c1 := (rb.2.writeVO o.d (putLanes (vOld c o.d) on w o.seld.toNat (fun l => (res l).1.raw))).raise
      (laneFlags on (fun l => (res l).1.flags))
    if accOn then
      let t := c.getV tn
      let q := (List.range 32).foldl (fun acc l => if on l then quantAcc acc (valAt ra.1 32 l 0) (res l).2 else acc)
        (valAt t 32 0 0, valAt t 32 1 0)
      c1.writeV tn (ofLanes (fun l =>
        if l = 0 then BitVec.ofNat 32 q.1 else if l = 1 then BitVec.ofNat 32 q.2
        else if l = 3 then BitVec.ofNat 32 (0x100 + o.fmt.toNat) else lane t l))
    else c1)

/-- `vquant.fold` (R333): the CRC in lane 2 goes on from the enabled lanes of A. -/
def execVquantFold (h : Hdr) (o : FmtV) (s : State) : Out :=
  pure1 h s [o.a, o.d] [o.d] (fun c =>
    let ra := c.readV o.a
    let old := vOld c o.d
    let bs := (List.range 32).flatMap (fun l => if laneOn c o l then toBytes 4 (valAt ra.1 32 l 0) else [])
    let crc := bs.foldl (fun acc b => crc32Step 8 (acc ^^^ b.toNat)) (valAt old 32 2 0 ^^^ 0xFFFFFFFF) ^^^ 0xFFFFFFFF
    ra.2.writeVO o.d (ofLanes (fun l => if l = 2 then BitVec.ofNat 32 crc else lane old l)))

/-! ## Approximations (R334) -/

/-- `vrcp` of one lane; an inexact result is one of its two neighbours (log entry 9). -/
def rcpF (raw : BitVec 32) : FRes :=
  match decodeF 8 raw.toNat with
  | .nan => ⟨fmtNaN 8, 0⟩
  | .inf neg => ⟨if neg then fmtSignBit 8 else 0, 0⟩
  | .fin neg m e =>
    if m = 0 then ⟨(if neg then fmtSignBit 8 else 0) + fmtInfBits 8, flDZ⟩
    else if !dyGt m e 1 (-128) then overflowRes 8 0 false neg
    else
      let q := 2 ^ 200 / m
      let rnd := if Config.rcpUp raw then (if neg then 2 else 3) else 1
      roundF 8 rnd false neg q (-e - 200) (decide (2 ^ 200 % m ≠ 0))

/-- `vrsq` of one lane. -/
def rsqF (raw : BitVec 32) : FRes :=
  match decodeF 8 raw.toNat with
  | .nan => ⟨fmtNaN 8, 0⟩
  | .inf neg => if neg then ⟨fmtNaN 8, flIV⟩ else ⟨0, 0⟩
  | .fin neg m e =>
    if m = 0 then ⟨(if neg then fmtSignBit 8 else 0) + fmtInfBits 8, flDZ⟩
    else if neg then ⟨fmtNaN 8, flIV⟩
    else
      let odd := e % 2 ≠ 0
      let m2 := if odd then 2 * m else m
      let e2 := if odd then e - 1 else e
      let r := isqrt 104 (2 ^ 200 / m2) 0
      roundF 8 (if Config.rsqUp raw then 3 else 1) false false r (-(e2 / 2) - 100) (decide (r * r * m2 ≠ 2 ^ 200))

def vUnF (f : BitVec 32 → FRes) (h : Hdr) (o : FmtV) (s : State) : Out :=
  vUn (fun _ a => f (BitVec.ofNat 32 a)) h o s

def execVexp2 (h : Hdr) (o : FmtV) (s : State) : Out := vUnF exp2F h o s
def execVrcp (h : Hdr) (o : FmtV) (s : State) : Out := vUnF rcpF h o s
def execVrsq (h : Hdr) (o : FmtV) (s : State) : Out := vUnF rsqF h o s

/-! ## Permutation and movement (R335-R341) -/

/-- One byte of `vperm.b` and its forms: `mode` 0 bytes, 1 nibbles, 3 nibbles sign-extended (R335). -/
def permByte (a : Line) (mode b : Nat) : Nat :=
  if mode = 0 then (if 128 ≤ b then 0 else (lineByte a b).toNat)
  else
    let n := (lineByte a (b / 2)).toNat / 16 ^ (b % 2) % 16
    if mode = 3 ∧ 8 ≤ n then n + 0xF0 else n

def vPerm (mode : Nat) (h : Hdr) (o : FmtV) (s : State) : Out :=
  pure1 h s [o.a, o.b] [o.d] (fun c =>
    let ra := c.readV o.a
    let rb := ra.2.readV o.b
    rb.2.writeVO o.d (putLanes (vOld c o.d) (laneOn c o) 32 0 (fun l =>
      (List.range 4).foldr (fun i acc => permByte ra.1 mode (lineByte rb.1 (4 * l + i)).toNat + 256 * acc) 0)))

def execVpermB (h : Hdr) (o : FmtV) (s : State) : Out := vPerm 0 h o s
def execVpermBN (h : Hdr) (o : FmtV) (s : State) : Out := vPerm 1 h o s
def execVpermBNs (h : Hdr) (o : FmtV) (s : State) : Out := vPerm 3 h o s

def execVshuf (h : Hdr) (o : FmtV) (s : State) : Out :=
  pure1 h s [o.a, o.b] [o.d] (fun c =>
    let ra := c.readV o.a
    let rb := ra.2.readV o.b
    rb.2.writeVO o.d (putLanes (vOld c o.d) (laneOn c o) 32 0 (fun l =>
      let b := valAt rb.1 32 l 0
      if b / 32 % 2 = 1 then 0 else valAt ra.1 32 (b % 32) 0)))

def execVrot (h : Hdr) (o : FmtV) (s : State) : Out :=
  pure1 h s [o.a, o.b] [o.d] (fun c =>
    let ra := c.readV o.a
    let rb := ra.2.readS o.b
    let k := (rb.1.toNat + o.vimm.toNat) % 32
    rb.2.writeVO o.d (putLanes (vOld c o.d) (laneOn c o) 32 0 (fun l => valAt ra.1 32 ((l + k) % 32) 0)))

def execVbcast (h : Hdr) (o : FmtV) (s : State) : Out :=
  pure1 h s [o.a] [o.d] (fun c =>
    let w := fmtBits o.fmt.toNat
    let ra := vsRead c o.a w o.sela.toNat
    let x := ra.1 (o.vimm.toNat % 32)
    ra.2.writeVO o.d (putLanes (vOld c o.d) (laneOn c o) w o.seld.toNat (fun _ => x)))

def execVins (h : Hdr) (o : FmtV) (s : State) : Out :=
  pure1 h s [o.a, o.d] [o.d] (fun c =>
    let ra := c.readS o.a
    let k := o.vimm.toNat % 32
    let old := vOld c o.d
    let w := fmtBits o.fmt.toNat
    ra.2.writeVO o.d (ofLanes (fun l =>
      if o.fmt = 4 then
        (if l = k then ra.1.setWidth 32 else if l = k + 1 then (ra.1 >>> 32).setWidth 32 else lane old l)
      else if l = k then setVal (lane old l) w o.seld.toNat ra.1.toNat else lane old l)))

def execVext (h : Hdr) (o : FmtV) (s : State) : Out :=
  pure1 h s [o.a] [o.d] (fun c =>
    let ra := c.readV o.a
    let k := o.vimm.toNat % 32
    let f := o.fmt.toNat
    ra.2.writeS o.d (
      if f = 4 then wd (valAt ra.1 32 (k + 1) 0 * 2 ^ 32 + valAt ra.1 32 k 0)
      else wdI (decodeI f (valAt ra.1 (fmtBits f) k o.sela.toNat))))

def execVlaneid (h : Hdr) (o : FmtV) (s : State) : Out :=
  pure1 h s [] [o.d] (fun c =>
    c.writeVO o.d (putLanes (vOld c o.d) (laneOn c o) 32 0 (fun l => l + o.vimm.toNat)))

def execVcompress (h : Hdr) (o : FmtV) (s : State) : Out :=
  pure1 h s [o.a] [o.d] (fun c =>
    let ra := c.readV o.a
    let l := (List.range 32).filter (laneOn c o)
    ra.2.writeVO o.d (ofLanes (fun i => match l[i]? with | some j => lane ra.1 j | none => 0)))

def execVcount (h : Hdr) (o : FmtV) (s : State) : Out :=
  pure1 h s [o.a] [o.d] (fun c =>
    let ra := c.readV o.a
    let w := fmtBits o.fmt.toNat
    ra.2.writeS o.d (wd ((List.range 32).filter (fun l => laneOn c o l && decide (valAt ra.1 w l o.sela.toNat ≠ 0))).length))

/-! ## Reductions, scans, histograms (R342-R346) -/

/-- The enabled lanes' values. -/
def onVals (c : Ctx) (o : FmtV) (a : Line) : List (Nat × Nat) :=
  ((List.range 32).filter (laneOn c o)).map (fun l => (l, valAt a (fmtBits o.fmt.toNat) l o.sela.toNat))

/-- The sum of values: floats exact and rounded once to FP32, integers modulo 2^32 or clamped (R342). -/
def sumVals (f rnd : Nat) (sat : Bool) (vs : List Nat) : FRes :=
  if fmtIsInt f then fitLane 3 sat (vs.foldl (fun acc v => acc + decodeI f v) 0)
  else
    let t := fsumV rnd (vs.map (decodeF f))
    (toF 8 rnd sat t.1).orFlags (invFlag t.2)

/-- Replace the first lanes of a destination. -/
def putFirst (old : Line) (xs : List Nat) : Line :=
  ofLanes (fun l => match xs[l]? with | some x => BitVec.ofNat 32 x | none => lane old l)

def execVredadd (h : Hdr) (o : FmtV) (s : State) : Out :=
  pure1 h s [o.a, o.d] [o.d] (fun c =>
    let ra := c.readV o.a
    let r := sumVals o.fmt.toNat o.rnd.toNat o.sat ((onVals c o ra.1).map (fun p => p.2))
    (ra.2.writeVO o.d (putFirst (vOld c o.d) [r.raw])).raise r.flags)

/-- Whether a value takes part in a maximum: every integer, every float but NaN (R343). -/
def counts (f v : Nat) : Bool := fmtIsInt f || decide (decodeF f v ≠ .nan)

/-- The largest or smallest value (R343). -/
def extreme (f : Nat) (isMax : Bool) (vs : List Nat) : Nat :=
  match vs.filter (counts f) with
  | [] =>
    if fmtIsInt f then
      let w := fmtBits f
      if fmtSigned f then (if isMax then 2 ^ (w - 1) else 2 ^ (w - 1) - 1) else (if isMax then 0 else 2 ^ w - 1)
    else fmtNaN f
  | v :: rest => rest.foldl (fun acc x => minmaxVal f isMax acc x) v

def vRedExt (isMax : Bool) (h : Hdr) (o : FmtV) (s : State) : Out :=
  pure1 h s [o.a, o.d] [o.d] (fun c =>
    let ra := c.readV o.a
    ra.2.writeVO o.d (putFirst (vOld c o.d) [extreme o.fmt.toNat isMax ((onVals c o ra.1).map (fun p => p.2))]))

def execVredmax (h : Hdr) (o : FmtV) (s : State) : Out := vRedExt true h o s
def execVredmin (h : Hdr) (o : FmtV) (s : State) : Out := vRedExt false h o s

def execVargmax (h : Hdr) (o : FmtV) (s : State) : Out :=
  pure1 h s [o.a, o.d] [o.d] (fun c =>
    let ra := c.readV o.a
    let f := o.fmt.toNat
    let vs := onVals c o ra.1
    let m := extreme f true (vs.map (fun p => p.2))
    let l := match (vs.filter (fun p => counts f p.2)).find? (fun p => p.2 == m) with
      | some p => p.1
      | none => 0xFFFFFFFF
    ra.2.writeVO o.d (putFirst (vOld c o.d) [m, l]))

/-- `vscan` and `vscan.x` (R345). -/
def vScan (excl : Bool) (h : Hdr) (o : FmtV) (s : State) : Out :=
  pure1 h s [o.a, o.d] [o.d] (fun c =>
    let ra := c.readV o.a
    let on := laneOn c o
    let vs := onVals c o ra.1
    let res := fun l => sumVals o.fmt.toNat o.rnd.toNat o.sat
      ((vs.filter (fun p => if excl then decide (p.1 < l) else decide (p.1 ≤ l))).map (fun p => p.2))
    (ra.2.writeVO o.d (putLanes (vOld c o.d) on 32 0 (fun l => (res l).raw))).raise (laneFlags on (fun l => (res l).flags)))

def execVscan (h : Hdr) (o : FmtV) (s : State) : Out := vScan false h o s
def execVscanX (h : Hdr) (o : FmtV) (s : State) : Out := vScan true h o s

def execVhist (h : Hdr) (o : FmtV) (s : State) : Out :=
  pure1 h s [o.a, o.d] [o.d] (fun c =>
    let ra := c.readV o.a
    let w := fmtBits o.fmt.toNat
    let pos := o.vimm.toNat % 32
    let flip := o.vimm.getLsbD 5
    let ds := (onVals c o ra.1).map (fun p => (if flip then p.2 ^^^ 2 ^ (w - 1) else p.2) / 2 ^ pos % 16)
    let old := vOld c o.d
    ra.2.writeVO o.d (ofLanes (fun l =>
      if l < 16 then lane old l + BitVec.ofNat 32 (ds.filter (fun d => d == l)).length else lane old l)))

/-! ## Keys (R347, R348) -/

def ordKey (f p : Nat) : Nat :=
  let w := fmtBits f
  match decodeF f p with
  | .nan => 2 ^ (w - 1)
  | _ => if 2 ^ (w - 1) ≤ p then p ^^^ (2 ^ (w - 1) - 1) else p

/-- The pattern of a key (R348). DESIGN CHOICE (log entry 22): a key that is a NaN's pattern other than the canonical one is no key that
`vord` makes; R348 gives the key itself there, R167 asks for the canonical NaN of every result, and the model follows R348. -/
def unKey (f k : Nat) : Nat :=
  let w := fmtBits f
  if k = 2 ^ (w - 1) then fmtNaN f else if 2 ^ (w - 1) ≤ k then k ^^^ (2 ^ (w - 1) - 1) else k

def execVordkey (h : Hdr) (o : FmtV) (s : State) : Out := vUn (fun o a => noFlag (ordKey o.fmt.toNat a)) h o s
def execVunord (h : Hdr) (o : FmtV) (s : State) : Out := vUn (fun o a => noFlag (unKey o.fmt.toNat a)) h o s

end Sys2Proof.Machine
end

