-- ==== Sys2Proof/Machine/Dispatch.lean ====
section
/-! DEFINITION. The dispatch: one arm for each constructor of `Instr`. -/

namespace Sys2Proof.Machine

open Sys2Proof

def exec (i : Instr) (s : State) : Host.Outcome State Fault Refusal :=
  match i with
  | .nop h => Sys2Proof.Machine.execNop h s
  | .br h o => Sys2Proof.Machine.execBr h o s
  | .bri h o => Sys2Proof.Machine.execBri h o s
  | .call h o => Sys2Proof.Machine.execCall h o s
  | .ret h o => Sys2Proof.Machine.execRet h o s
  | .loop h o => Sys2Proof.Machine.execLoop h o s
  | .halt h => Sys2Proof.Machine.execHalt h s
  | .exit h => Sys2Proof.Machine.execExit h s
  | .start h o => Sys2Proof.Machine.execStart h o s
  | .fork h o => Sys2Proof.Machine.execFork h o s
  | .join h => Sys2Proof.Machine.execJoin h s
  | .yield h o => Sys2Proof.Machine.execYield h o s
  | .trap h o => Sys2Proof.Machine.execTrap h o s
  | .sysc h o => Sys2Proof.Machine.execSysc h o s
  | .rfu h => Sys2Proof.Machine.execRfu h s
  | .rfe h => Sys2Proof.Machine.execRfe h s
  | .semSet h o => Sys2Proof.Machine.execSemSet h o s
  | .semAdd h o => Sys2Proof.Machine.execSemAdd h o s
  | .semSig h o => Sys2Proof.Machine.execSemSig h o s
  | .semRd h o => Sys2Proof.Machine.execSemRd h o s
  | .mfs h o => Sys2Proof.Machine.execMfs h o s
  | .mts h o => Sys2Proof.Machine.execMts h o s
  | .prgnWrite h o => Sys2Proof.Machine.execPrgnWrite h o s
  | .svcrReadyWrite h o => Sys2Proof.Machine.execSvcrReadyWrite h o s
  | .mqoWrite h o => Sys2Proof.Machine.execMqoWrite h o s
  | .bar h o => Sys2Proof.Machine.execBar h o s
  | .gang h => Sys2Proof.Machine.execGang h s
  | .wmon h o => Sys2Proof.Machine.execWmon h o s
  | .dtime h o => Sys2Proof.Machine.execDtime h o s
  | .budget h o => Sys2Proof.Machine.execBudget h o s
  | .sstep h o => Sys2Proof.Machine.execSstep h o s
  | .fenceLl h o => Sys2Proof.Machine.execFenceLl h o s
  | .fenceSs h o => Sys2Proof.Machine.execFenceSs h o s
  | .fenceFull h o => Sys2Proof.Machine.execFenceFull h o s
  | .fenceEng h o => Sys2Proof.Machine.execFenceEng h o s
  | .add h o => Sys2Proof.Machine.execAdd h o s
  | .sub h o => Sys2Proof.Machine.execSub h o s
  | .addi h o => Sys2Proof.Machine.execAddi h o s
  | .mul h o => Sys2Proof.Machine.execMul h o s
  | .mulh h o => Sys2Proof.Machine.execMulh h o s
  | .mulhu h o => Sys2Proof.Machine.execMulhu h o s
  | .div h o => Sys2Proof.Machine.execDiv h o s
  | .divu h o => Sys2Proof.Machine.execDivu h o s
  | .rem h o => Sys2Proof.Machine.execRem h o s
  | .remu h o => Sys2Proof.Machine.execRemu h o s
  | .and h o => Sys2Proof.Machine.execAnd h o s
  | .or h o => Sys2Proof.Machine.execOr h o s
  | .xor h o => Sys2Proof.Machine.execXor h o s
  | .andn h o => Sys2Proof.Machine.execAndn h o s
  | .shl h o => Sys2Proof.Machine.execShl h o s
  | .shr h o => Sys2Proof.Machine.execShr h o s
  | .sar h o => Sys2Proof.Machine.execSar h o s
  | .rol h o => Sys2Proof.Machine.execRol h o s
  | .shlI h o => Sys2Proof.Machine.execShlI h o s
  | .shrI h o => Sys2Proof.Machine.execShrI h o s
  | .sarI h o => Sys2Proof.Machine.execSarI h o s
  | .rolI h o => Sys2Proof.Machine.execRolI h o s
  | .clz h o => Sys2Proof.Machine.execClz h o s
  | .ctz h o => Sys2Proof.Machine.execCtz h o s
  | .popc h o => Sys2Proof.Machine.execPopc h o s
  | .min h o => Sys2Proof.Machine.execMin h o s
  | .max h o => Sys2Proof.Machine.execMax h o s
  | .minu h o => Sys2Proof.Machine.execMinu h o s
  | .maxu h o => Sys2Proof.Machine.execMaxu h o s
  | .cmp h o => Sys2Proof.Machine.execCmp h o s
  | .cmpi h o => Sys2Proof.Machine.execCmpi h o s
  | .sel h o => Sys2Proof.Machine.execSel h o s
  | .movi h o => Sys2Proof.Machine.execMovi h o s
  | .movhi h o => Sys2Proof.Machine.execMovhi h o s
  | .mov h o => Sys2Proof.Machine.execMov h o s
  | .bfx h o => Sys2Proof.Machine.execBfx h o s
  | .bfi h o => Sys2Proof.Machine.execBfi h o s
  | .pand h o => Sys2Proof.Machine.execPand h o s
  | .por h o => Sys2Proof.Machine.execPor h o s
  | .pnot h o => Sys2Proof.Machine.execPnot h o s
  | .cset h o => Sys2Proof.Machine.execCset h o s
  | .cinc h o => Sys2Proof.Machine.execCinc h o s
  | .cbnd h o => Sys2Proof.Machine.execCbnd h o s
  | .cbndX h o => Sys2Proof.Machine.execCbndX h o s
  | .cperm h o => Sys2Proof.Machine.execCperm h o s
  | .cseal h o => Sys2Proof.Machine.execCseal h o s
  | .cget h o => Sys2Proof.Machine.execCget h o s
  | .ctag h o => Sys2Proof.Machine.execCtag h o s
  | .cclr h o => Sys2Proof.Machine.execCclr h o s
  | .fadd h o => Sys2Proof.Machine.execFadd h o s
  | .fsub h o => Sys2Proof.Machine.execFsub h o s
  | .fmul h o => Sys2Proof.Machine.execFmul h o s
  | .ffma h o => Sys2Proof.Machine.execFfma h o s
  | .fdiv h o => Sys2Proof.Machine.execFdiv h o s
  | .fsqrt h o => Sys2Proof.Machine.execFsqrt h o s
  | .fmin h o => Sys2Proof.Machine.execFmin h o s
  | .fmax h o => Sys2Proof.Machine.execFmax h o s
  | .fcmp h o => Sys2Proof.Machine.execFcmp h o s
  | .fcvt h o => Sys2Proof.Machine.execFcvt h o s
  | .fexp2 h o => Sys2Proof.Machine.execFexp2 h o s
  | .vadd h o => Sys2Proof.Machine.execVadd h o s
  | .vsub h o => Sys2Proof.Machine.execVsub h o s
  | .vmul h o => Sys2Proof.Machine.execVmul h o s
  | .vfma h o => Sys2Proof.Machine.execVfma h o s
  | .vmin h o => Sys2Proof.Machine.execVmin h o s
  | .vmax h o => Sys2Proof.Machine.execVmax h o s
  | .vabs h o => Sys2Proof.Machine.execVabs h o s
  | .vcmp h o => Sys2Proof.Machine.execVcmp h o s
  | .vsel h o => Sys2Proof.Machine.execVsel h o s
  | .viadd h o => Sys2Proof.Machine.execViadd h o s
  | .visub h o => Sys2Proof.Machine.execVisub h o s
  | .vimul h o => Sys2Proof.Machine.execVimul h o s
  | .vand h o => Sys2Proof.Machine.execVand h o s
  | .vor h o => Sys2Proof.Machine.execVor h o s
  | .vxor h o => Sys2Proof.Machine.execVxor h o s
  | .vshl h o => Sys2Proof.Machine.execVshl h o s
  | .vshr h o => Sys2Proof.Machine.execVshr h o s
  | .vsar h o => Sys2Proof.Machine.execVsar h o s
  | .vcvt h o => Sys2Proof.Machine.execVcvt h o s
  | .vquant h o => Sys2Proof.Machine.execVquant h o s
  | .vquantFold h o => Sys2Proof.Machine.execVquantFold h o s
  | .vdeq h o => Sys2Proof.Machine.execVdeq h o s
  | .vexp2 h o => Sys2Proof.Machine.execVexp2 h o s
  | .vrcp h o => Sys2Proof.Machine.execVrcp h o s
  | .vrsq h o => Sys2Proof.Machine.execVrsq h o s
  | .vdot4 h o => Sys2Proof.Machine.execVdot4 h o s
  | .vpermB h o => Sys2Proof.Machine.execVpermB h o s
  | .vpermBN h o => Sys2Proof.Machine.execVpermBN h o s
  | .vpermBNs h o => Sys2Proof.Machine.execVpermBNs h o s
  | .vshuf h o => Sys2Proof.Machine.execVshuf h o s
  | .vbcast h o => Sys2Proof.Machine.execVbcast h o s
  | .vins h o => Sys2Proof.Machine.execVins h o s
  | .vext h o => Sys2Proof.Machine.execVext h o s
  | .vrot h o => Sys2Proof.Machine.execVrot h o s
  | .vredadd h o => Sys2Proof.Machine.execVredadd h o s
  | .vredmax h o => Sys2Proof.Machine.execVredmax h o s
  | .vredmin h o => Sys2Proof.Machine.execVredmin h o s
  | .vargmax h o => Sys2Proof.Machine.execVargmax h o s
  | .vscan h o => Sys2Proof.Machine.execVscan h o s
  | .vscanX h o => Sys2Proof.Machine.execVscanX h o s
  | .vhist h o => Sys2Proof.Machine.execVhist h o s
  | .vordkey h o => Sys2Proof.Machine.execVordkey h o s
  | .vunord h o => Sys2Proof.Machine.execVunord h o s
  | .vlaneid h o => Sys2Proof.Machine.execVlaneid h o s
  | .vcount h o => Sys2Proof.Machine.execVcount h o s
  | .vcompress h o => Sys2Proof.Machine.execVcompress h o s
  | .ld h o => Sys2Proof.Machine.execLd h o s
  | .st h o => Sys2Proof.Machine.execSt h o s
  | .ldc h o => Sys2Proof.Machine.execLdc h o s
  | .stc h o => Sys2Proof.Machine.execStc h o s
  | .ldv h o => Sys2Proof.Machine.execLdv h o s
  | .stv h o => Sys2Proof.Machine.execStv h o s
  | .ldq h o => Sys2Proof.Machine.execLdq h o s
  | .stq h o => Sys2Proof.Machine.execStq h o s
  | .ldg h o => Sys2Proof.Machine.execLdg h o s
  | .stg h o => Sys2Proof.Machine.execStg h o s
  | .amoAdd h o => Sys2Proof.Machine.execAmoAdd h o s
  | .amoAnd h o => Sys2Proof.Machine.execAmoAnd h o s
  | .amoOr h o => Sys2Proof.Machine.execAmoOr h o s
  | .amoXor h o => Sys2Proof.Machine.execAmoXor h o s
  | .amoMin h o => Sys2Proof.Machine.execAmoMin h o s
  | .amoMax h o => Sys2Proof.Machine.execAmoMax h o s
  | .amoSwap h o => Sys2Proof.Machine.execAmoSwap h o s
  | .amoCas h o => Sys2Proof.Machine.execAmoCas h o s
  | .amoFadd h o => Sys2Proof.Machine.execAmoFadd h o s
  | .stMc h o => Sys2Proof.Machine.execStMc h o s
  | .stRedAdd h o => Sys2Proof.Machine.execStRedAdd h o s
  | .stRedMin h o => Sys2Proof.Machine.execStRedMin h o s
  | .stRedMax h o => Sys2Proof.Machine.execStRedMax h o s
  | .stRedFadd h o => Sys2Proof.Machine.execStRedFadd h o s
  | .pref h o => Sys2Proof.Machine.execPref h o s
  | .cinv h o => Sys2Proof.Machine.execCinv h o s
  | .cwb h o => Sys2Proof.Machine.execCwb h o s
  | .bgive h o => Sys2Proof.Machine.execBgive h o s
  | .btake h o => Sys2Proof.Machine.execBtake h o s
  | .bfree h o => Sys2Proof.Machine.execBfree h o s
  | .bmap h o => Sys2Proof.Machine.execBmap h o s
  | .ringrot h o => Sys2Proof.Machine.execRingrot h o s
  | .bdrain h o => Sys2Proof.Machine.execBdrain h o s
  | .pbegin h o => Sys2Proof.Machine.execPbegin h o s
  | .pcommit h o => Sys2Proof.Machine.execPcommit h o s
  | .pabort h o => Sys2Proof.Machine.execPabort h o s
  | .pseed h o => Sys2Proof.Machine.execPseed h o s
  | .pseedTbl h o => Sys2Proof.Machine.execPseedTbl h o s
  | .pdraw h o => Sys2Proof.Machine.execPdraw h o s
  | .pstat h o => Sys2Proof.Machine.execPstat h o s
  | .pstatE h o => Sys2Proof.Machine.execPstatE h o s
  | .mlds h o => Sys2Proof.Machine.execMlds h o s
  | .mswp h o => Sys2Proof.Machine.execMswp h o s
  | .mstream h o => Sys2Proof.Machine.execMstream h o s
  | .mzero h o => Sys2Proof.Machine.execMzero h o s
  | .mdrain h o => Sys2Proof.Machine.execMdrain h o s
  | .mgang h o => Sys2Proof.Machine.execMgang h o s
  | .mfwd h o => Sys2Proof.Machine.execMfwd h o s
  | .msave h o => Sys2Proof.Machine.execMsave h o s
  | .msaveSt h o => Sys2Proof.Machine.execMsaveSt h o s
  | .mrest h o => Sys2Proof.Machine.execMrest h o s
  | .cpy h o => Sys2Proof.Machine.execCpy h o s
  | .cpwp h o => Sys2Proof.Machine.execCpwp h o s
  | .cps h o => Sys2Proof.Machine.execCps h o s
  | .cpsw h o => Sys2Proof.Machine.execCpsw h o s
  | .cpm h o => Sys2Proof.Machine.execCpm h o s
  | .cpmFin h o => Sys2Proof.Machine.execCpmFin h o s
  | .send h o => Sys2Proof.Machine.execSend h o s
  | .recv h o => Sys2Proof.Machine.execRecv h o s
  | .recvT h o => Sys2Proof.Machine.execRecvT h o s
  | .xphase h o => Sys2Proof.Machine.execXphase h o s
  | .xmit h o => Sys2Proof.Machine.execXmit h o s
  | .xsel h o => Sys2Proof.Machine.execXsel h o s
  | .cred h o => Sys2Proof.Machine.execCred h o s
  | .cbc h o => Sys2Proof.Machine.execCbc h o s
  | .cag h o => Sys2Proof.Machine.execCag h o s
  | .launch h o => Sys2Proof.Machine.execLaunch h o s
  | .tpsh h o => Sys2Proof.Machine.execTpsh h o s
  | .tpop h o => Sys2Proof.Machine.execTpop h o s
  | .tdecl h o => Sys2Proof.Machine.execTdecl h o s
  | .qprio h o => Sys2Proof.Machine.execQprio h o s
  | .wid h o => Sys2Proof.Machine.execWid h o s
  | .widSet h o => Sys2Proof.Machine.execWidSet h o s
  | .twget h o => Sys2Proof.Machine.execTwget h o s
  | .twadv h o => Sys2Proof.Machine.execTwadv h o s
  | .twput h o => Sys2Proof.Machine.execTwput h o s
  | .tlbwInstall h o => Sys2Proof.Machine.execTlbwInstall h o s
  | .tlbwUpcall h o => Sys2Proof.Machine.execTlbwUpcall h o s
  | .tlbwTrap h o => Sys2Proof.Machine.execTlbwTrap h o s
  | .tlbwFail h o => Sys2Proof.Machine.execTlbwFail h o s
  | .tlbiPage h o => Sys2Proof.Machine.execTlbiPage h o s
  | .tlbiDomain h o => Sys2Proof.Machine.execTlbiDomain h o s
  | .tlbiAll h o => Sys2Proof.Machine.execTlbiAll h o s
  | .fnote h o => Sys2Proof.Machine.execFnote h o s
  | .rtab h o => Sys2Proof.Machine.execRtab h o s
  | .rtabRd h o => Sys2Proof.Machine.execRtabRd h o s
  | .unassignedOpcode w => Sys2Proof.Machine.execUnassignedOpcode w s
  | .reset => Sys2Proof.Machine.execReset s
  | .firmwareLoad => Sys2Proof.Machine.execFirmwareLoad s
  | .functionReady => Sys2Proof.Machine.execFunctionReady s
  | .performStore => Sys2Proof.Machine.execPerformStore s
  | .readHome => Sys2Proof.Machine.execReadHome s
  | .readCopy => Sys2Proof.Machine.execReadCopy s
  | .forward => Sys2Proof.Machine.execForward s
  | .atomic => Sys2Proof.Machine.execAtomic s
  | .deliver => Sys2Proof.Machine.execDeliver s
  | .drop => Sys2Proof.Machine.execDrop s
  | .sliceFill => Sys2Proof.Machine.execSliceFill s
  | .writeBack => Sys2Proof.Machine.execWriteBack s
  | .directoryReply => Sys2Proof.Machine.execDirectoryReply s
  | .missReply => Sys2Proof.Machine.execMissReply s
  | .messageArrival => Sys2Proof.Machine.execMessageArrival s
  | .semSigArrival => Sys2Proof.Machine.execSemSigArrival s
  | .engineCommandCompletion => Sys2Proof.Machine.execEngineCommandCompletion s
  | .bgiveDrainComplete => Sys2Proof.Machine.execBgiveDrainComplete s
  | .bfreeDrainComplete => Sys2Proof.Machine.execBfreeDrainComplete s
  | .bankZeroingComplete => Sys2Proof.Machine.execBankZeroingComplete s
  | .ringrotBarrierComplete => Sys2Proof.Machine.execRingrotBarrierComplete s
  | .ringrotDrainComplete => Sys2Proof.Machine.execRingrotDrainComplete s
  | .distributorSelect => Sys2Proof.Machine.execDistributorSelect s
  | .headAging => Sys2Proof.Machine.execHeadAging s
  | .rebalance => Sys2Proof.Machine.execRebalance s
  | .preemptionRequest => Sys2Proof.Machine.execPreemptionRequest s
  | .forcedSave => Sys2Proof.Machine.execForcedSave s
  | .saveWriteOut => Sys2Proof.Machine.execSaveWriteOut s
  | .taskEnd => Sys2Proof.Machine.execTaskEnd s
  | .launchStatusWrite => Sys2Proof.Machine.execLaunchStatusWrite s
  | .stage0Enqueue => Sys2Proof.Machine.execStage0Enqueue s
  | .gangAcknowledge => Sys2Proof.Machine.execGangAcknowledge s
  | .gangStart => Sys2Proof.Machine.execGangStart s
  | .gangCancelBeforeTick => Sys2Proof.Machine.execGangCancelBeforeTick s
  | .gangCancelAfterTick => Sys2Proof.Machine.execGangCancelAfterTick s
  | .fallbackReport => Sys2Proof.Machine.execFallbackReport s
  | .timeWindowTick => Sys2Proof.Machine.execTimeWindowTick s
  | .heneriFrame => Sys2Proof.Machine.execHeneriFrame s
  | .ptpSync => Sys2Proof.Machine.execPtpSync s
  | .lockLossTimeout => Sys2Proof.Machine.execLockLossTimeout s
  | .ticketResolve => Sys2Proof.Machine.execTicketResolve s
  | .sstepMerge => Sys2Proof.Machine.execSstepMerge s
  | .superstepRollback => Sys2Proof.Machine.execSuperstepRollback s
  | .barPass => Sys2Proof.Machine.execBarPass s
  | .jointRowFormed => Sys2Proof.Machine.execJointRowFormed s
  | .collectiveAllArrived => Sys2Proof.Machine.execCollectiveAllArrived s
  | .budgetExpiry => Sys2Proof.Machine.execBudgetExpiry s
  | .sequencerFault => Sys2Proof.Machine.execSequencerFault s
  | .thermalStop => Sys2Proof.Machine.execThermalStop s
  | .healthWindowEnd => Sys2Proof.Machine.execHealthWindowEnd s
  | .bubble => Sys2Proof.Machine.execBubble s
  | .linkWrite => Sys2Proof.Machine.execLinkWrite s
  | .linkRead => Sys2Proof.Machine.execLinkRead s
  | .flitRetry => Sys2Proof.Machine.execFlitRetry s
  | .laneLoss => Sys2Proof.Machine.execLaneLoss s
  | .writePeerTableEntry => Sys2Proof.Machine.execWritePeerTableEntry s
  | .writeCollectiveGroup => Sys2Proof.Machine.execWriteCollectiveGroup s
  | .writeStorageHandle => Sys2Proof.Machine.execWriteStorageHandle s
  | .writeHomeRangeEntry => Sys2Proof.Machine.execWriteHomeRangeEntry s
  | .writeFormatWindow => Sys2Proof.Machine.execWriteFormatWindow s
  | .rakeStop => Sys2Proof.Machine.execRakeStop s
  | .releaseStoppedCores => Sys2Proof.Machine.execReleaseStoppedCores s
  | .moveToPartition => Sys2Proof.Machine.execMoveToPartition s
  | .setQueuePool => Sys2Proof.Machine.execSetQueuePool s
  | .readStatus => Sys2Proof.Machine.execReadStatus s
  | .attestationReport => Sys2Proof.Machine.execAttestationReport s
  | .gangOffer => Sys2Proof.Machine.execGangOffer s
  | .qprioChangeArrival => Sys2Proof.Machine.execQprioChangeArrival s
  | .semSigCheckReturn => Sys2Proof.Machine.execSemSigCheckReturn s
  | .unknownOpRequest => Sys2Proof.Machine.execUnknownOpRequest s
  | .bringupEnd => Sys2Proof.Machine.execBringupEnd s

end Sys2Proof.Machine
end

