-- ==== Sys2Proof/Machine/Run.lean ====
section
/-! DEFINITION. One move of the device: an agent's turn, with its boundary checks, its fetch and the checks of its block (R209,
R229-R235); the passing of time (R191, R216, R221); and the moves that are taken when the agenda is empty (log entry 3). -/

namespace Sys2Proof.Machine

open Sys2Proof

/-! ## An agent's turn -/

/-- Whether an agent issues nothing now: the Rake (R223), a rollback (R226), a save (R219), an exhausted budget (R222), a held sequencer
fault (R351). An instruction past a step of its own runs on to its retirement. -/
def State.paused (s : State) (a : Agent) : Bool :=
  let k := s.core a.gid
  let c := s.ctx a
  k.stopped || k.binding.isSome || c.sfault.isSome
    || (!c.runsOn && (decide (k.saving = 2) || k.failed
      || (c.busy.isNone && (s.saveDue a.gid || (decide (1 ≤ a.ctx) && c.budg.arm && decide (c.budg.cnt = 0))))))

/-- A block refused as it is entered: a signature fault of a merged stage rolls the superstep back (R226), any other is a trap. -/
def State.refuseBlock (s : State) (a : Agent) (f : Nat × Nat × Word) : State :=
  if f.1 = 6 ∧ s.rollsBack a.gid then s.mergeFail a.gid else s.deliverTrap a ⟨f.1, f.2.1, f.2.2, 0⟩

/-- The block an agent executes: the one it holds, or a fetch (R28, R234). -/
inductive Ready where
  | run (blk : BitVec 512) (s : State)
  | stay (s : State)

/-- A block has been fetched: poisoned data rolls a merged superstep back, and is a block of zeros elsewhere (R225, R226); then the checks
of its entry. -/
def State.entered (s : State) (a : Agent) (b : BitVec 512) (psn : Bool) : Ready :=
  if psn ∧ s.rollsBack a.gid then .stay (s.mergeFail a.gid)
  else
    match entryFault a.ctx (s.ctx a).slot b with
    | some f => .stay (s.refuseBlock a f)
    | none => .run b (s.updCtx a (fun c => { c with blk := some b, fpart := [] }))

/-- A fetch that fails the checks of R28 is a fault of the first slot of the block, wherever the block is entered. -/
def State.fetchFails (s : State) (a : Agent) (t : TrapInfo) : State :=
  (if t.kind = 1 then s.updCtx a (fun c => { c with slot := 0 }) else s).deliverTrap a t

def State.readyBlock (s : State) (a : Agent) : Ready :=
  let c := s.ctx a
  match c.blk with
  | some b => .run b s
  | none =>
    match fetchBlock s a c.pcc c.pcOut with
    | .trap k sub v => .stay (s.fetchFails a ⟨k, sub, v, 0⟩)
    | .miss va prot =>
      if isSvc a.gid then .stay (s.deliverTrap a ⟨0x0A, 1, va, 0⟩)
      else .stay (s.miss a none c.cdom.toNat kFetch va prot)
    | .wait t => .stay t
    | .ok b psn t => t.entered a b psn

/-- The instruction of a slot: refused by its class or its core, or by the decoder, it is the illegal instruction (R44, R232, R250). -/
def slotInstr (gid : Nat) (blk : BitVec 512) (slot : Nat) : Instr :=
  let w := slotWord blk slot
  let op := (fOp w).toNat
  if !admits (blkClass blk) op || (isSvc gid && svcRefuses op) then .unassignedOpcode w
  else
    match decodeWord w with
    | some i => i
    | none => .unassignedOpcode w

/-- A pending merge conflict is taken by the control context before its next instruction issues (R164, R209). -/
def State.conflictDue (s : State) (a : Agent) : Option TrapInfo :=
  if a.ctx = 0 ∧ (s.ctx a).busy.isNone then (s.core a.gid).conflict else none

/-- An agent takes its turn in the cycle; the turn of an agent that does not come after the latest one of its core opens the core's next
cycle, whose first step applies the changes of the semaphores (R244). -/
def Core.turnOf (c : Core) (ctx : Nat) : Core :=
  let c1 := if ctx + 1 ≤ c.lastTurn then c.semStep else c
  { c1 with lastTurn := ctx + 1 }

def State.turnOf (s : State) (a : Agent) : State := { s with cur := a }.updCore a.gid (fun c => c.turnOf a.ctx)

/-- A move is made in the present cycle (R434). -/
def State.acting (s : State) : State := s.updDev (fun d => { d with acted := true })

/-- The fences of an agent whose conditions hold retire in order, each with its signal clause (R243, R274). -/
def State.retireFences (s : State) (a : Agent) : Nat → State
  | 0 => s
  | n + 1 =>
    match (s.ctx a).fences with
    | [] => s
    | f :: rest =>
      if fenceOk s a f then ((s.signalNext a.gid f.h).updCtx a (fun c => { c with fences := rest })).retireFences a n else s

/-- An opcode of the groups that may issue behind a fence not yet retired: branches, register instructions, and the accesses that the
moves of R123 order behind it. -/
def passesFence (op : Nat) : Bool := decide (op = 0) || (decide (2 ≤ op) && decide (op ≤ 6)) || (decide (0x040 ≤ op) && decide (op ≤ 0x197))

/-- An instruction that waits until the fences before it have retired: one that signals or that acts outside the moves (log entry 6). A
further fence takes its place behind them; an engine command waits for a `fence.eng` alone (R126). -/
def Ctx.fenceHolds (c : Ctx) (w : BitVec 96) : Bool :=
  let op := (fOp w).toNat
  !c.fences.isEmpty && decide (op ≠ 0x01D) && !(passesFence op && decide ((fHdr w).si = 0))
    && !(decide (0x200 ≤ op) && decide (op < 0x280) && c.fences.all (fun f => decide (f.kind ≠ 3)))

/-- An agent's turn has come: its core's cycle, and the fences that retire; a stopped core's agents keep theirs (R223). -/
def State.atTurn (s : State) (a : Agent) : State :=
  let t := s.acting.turnOf a
  if (t.core a.gid).stopped then t else t.retireFences a (t.ctx a).fences.length

/-- An agent's turn. -/
def agentTurn (s0 : State) (a : Agent) : Out :=
  if !(s0.ctx a).live then .fault (.notEnabled "agent")
  else
    let s := s0.atTurn a
    if s.paused a then .next s
    else
      match s.conflictDue a with
      | some f => .next ((s.updCore a.gid (fun c => { c with conflict := none })).deliverTrap a f)
      | none =>
        if (s.core a.gid).misses a.ctx then .next s
        else
          match s.readyBlock a with
          | .stay t => .next t
          | .run b t =>
            if (t.ctx a).fenceHolds (slotWord b (t.ctx a).slot) then .next t else exec (slotInstr a.gid b (t.ctx a).slot) t

/-! ## Time -/

/-- Cycles pass in a core: DLC while a request is unanswered (R216), the budgets of live helpers (R221). -/
def Core.elapse (c : Core) (n : Nat) : Core :=
  { c with
    dlc := if c.req then BitVec.ofNat 32 (c.dlc.toNat - n) else c.dlc
    ctxs := c.ctxs.map (fun e =>
      if e.2.live && e.2.budg.arm then (e.1, { e.2 with budg := { e.2.budg with cnt := BitVec.ofNat 32 (e.2.budg.cnt.toNat - n) } }) else e) }

/-- Cycles pass for the heads of a cluster's queues (R191, R195). -/
def Cluster.elapse (k : Cluster) (n : Nat) : Cluster :=
  let age : StageQ → StageQ := fun q0 =>
    let h := k.head q0
    let q := q0.facing h
    if h.isSome then { q with aged := q.aged + n, waited := q.waited + n } else q
  { k with queues := k.queues.map age }

/-- A context that waits in time to drive the wires in one of the next `n` cycles, and can: it acts in that cycle (R367). -/
def State.mustDrive (s : State) (n : Nat) : Bool :=
  s.cores.any (fun e => match e.2.phase with
    | none => false
    | some p => e.2.ctxs.any (fun x =>
      match x.2.busy, x.2.blk with
      | some (.late c), some b =>
        decide ((fOp (Sys2Proof.Machine.slotWord b x.2.slot)).toNat = 0x283) && x.2.live && !s.paused ⟨e.1, x.1⟩
          && decide (s.dev.cyc ≤ p.start + c) && decide (p.start + c < s.dev.cyc + n)
      | _, _ => false))

/-- Core cycles, none of them a bubble, and device time pass. A core's next cycle opens with the changes of its semaphores (R244). With
lock returned, the cluster distributors resume at the next boundary of a 1,024-cycle window (R199). -/
def State.elapse (s : State) (n dt df : Nat) : State :=
  let s1 := s.updDev (fun d => { (d.pass dt df) with
    cycl := d.cycl + wd n, cyc := d.cyc + n, bubbleRun := if n = 0 then d.bubbleRun else 0, acted := decide (n = 0) && d.acted
    fallback := d.fallback && !(bit d.dtst 63 && decide (d.cyc / 1024 < (d.cyc + n) / 1024)) })
  if n = 0 then s1
  else
    { s1 with
      cores := s1.cores.map (fun e => (e.1, e.2.semStep.elapse n))
      clusters := s1.clusters.map (fun e => (e.1, e.2.elapse n)) }

/-! ## One turn -/

/-- An event of the agenda; a bubble is no move of its cycle. -/
def eventTurn (s : State) (i : Instr) (x : EvArg) : Out :=
  if !i.isEvent then .fault (.notEnabled "event")
  else
    match i with
    | .bubble => exec .bubble { s with ev := x }
    | i => exec i { s.acting with ev := x }

/-- Whether a gang runs on this device and on a peer (R198). -/
def State.gangWith (s : State) (dev : Nat) : Bool := s.dev.launches.any (fun l => l.gang && decide (l.gangState = 3) && l.peers.contains dev)

/-- Whether a peer's core can arrive so: at a barrier or superstep whose scope has device field 0xFF, at a gang's barrier, or at a
collective; at the latter two's members' own only (R120, R271, R272, R368). -/
def State.canArrive (s : State) (r : Remote) : Bool :=
  let task (l : Nat) (stage : Option Nat) : Bool := s.far.any (fun t =>
    decide (t.dev = r.dev) && decide (t.lid = l) && t.members.contains r.gid && (match stage with | some n => decide (t.stage = n) | none => true))
  (s.peer r.dev).valid && !s.remote.any (fun q => decide (q.dev = r.dev) && decide (q.gid = r.gid) && decide (q.kind = r.kind)) &&
  (match r.kind with
   | .bar w core => !core && decide (bits w 39 32 = 255)
   | .gang l => task l none
   | .sstep l w core => !core && decide (bits w 39 32 = 255) && task l (some r.w0.toNat)
   | .coll _ _ => true
   | _ => false)

/-- Whether an arrival of a peer's core can still be withdrawn: not once its superstep or its collective is complete (R368, R438). -/
def State.canDepart (s : State) (r : Remote) : Bool :=
  s.remote.contains r && !s.arrivals.any (fun q => (s.sstepFull q && s.meets r q) || (s.collFull q && decide (q.kind = r.kind)))

/-- What a peer device tells of a gang (log entry 45): tasks that start and end, arrivals and their withdrawal, a superstep that fails, and
the two sides of a `tlbi` at device field 0xFF (R45). The report to the peer that asked leaves the device. -/
def State.peerTells (s : State) (x : Outside) : Option State :=
  match x with
  | .arrival r => if s.canArrive r then some { s with remote := s.remote ++ [r] } else none
  | .departure r => if s.canDepart r then some { s with remote := s.remote.filter (fun q => q ≠ r) } else none
  | .farTask t true =>
    let other := s.far.any (fun u => decide (u.dev = t.dev) && u.members.any (fun m => t.members.contains m))
    match s.launch? t.lid with
    | none => none
    | some l =>
      if l.gang && decide (l.gangState = 3) && l.peers.contains t.dev && !t.members.isEmpty && !other then some { s with far := s.far ++ [t] }
      else none
  | .farTask t false =>
    if s.far.contains t && !s.remote.any (fun q => decide (q.dev = t.dev) && t.members.contains q.gid) then
      some { s with far := s.far.filter (fun u => u ≠ t) }
    else none
  | .farFails lid stage w => if (s.gangPeers lid).isEmpty then none else some (s.farFails lid stage w)
  | .tlbReport dev a =>
    match (s.ctx a).busy with
    | some (.invalidating ws devs) =>
      if devs.contains dev then some (s.updCtx a (fun c => { c with busy := some (.invalidating ws (devs.filter (fun d => d ≠ dev))) })) else none
    | _ => none
  | .tlbRequest dev w scope =>
    if !s.gangWith dev || (rectCores scope).any (s.drawnUnder w) then none
    else some ((rectCores scope).foldl (fun acc g => acc.tlbiCore w g) s)
  | _ => none

/-- What comes about outside the device, where it can (log entry 45): an error in a word of DRAM, of a bank, of a parity bank, or of a
line that a slice holds, or in a slice's tags or directory, which its slice counts (R68, R431); a device that errs (R357); a Sync interval
without a Sync, with which the count for lock begins again (R420); an attestation request over Casfort (R427); or what a peer tells. -/
def State.comesAbout (s : State) (x : Outside) : Option State :=
  match x with
  | .upset w k =>
    let addr := 8 * w
    let home := decide (addr < memTop s) || isScratch addr || decide (parityAddr 0 0 0 ≤ addr)
    let held := !isScratch addr && (s.sliceOf (addr / 128)).present.contains (addr / 128)
    if (decide (1 ≤ k) && decide (k ≤ 2) && home) || (decide (3 ≤ k) && decide (k ≤ 4) && held) then
      some { s with ecc := Sparse.put 0 s.ecc w k } else none
  | .storageError key => some (s.updDev (fun d => { d with badBlocks := natIns d.badBlocks key }))
  | .tagError slice ue => if slice < 128 then some (s.count (if ue then 1 else 0) slice 1) else none
  | .syncMissed => some (s.updDev (fun d => { d with syncGood := 0 }))
  | .request bs =>
    if !(List.range 16).any (fun p => s.ready (24 + p)) then none
    else
      let r : UbReq := ⟨padTo 0 64 bs, some (linkPos .host), .user, 0, 0⟩
      some (s.updDev (fun d => { d with ubq := d.ubq ++ [r] }))
  | x => s.peerTells x

/-- What the agenda names comes about. -/
def takeTurn (s : State) (t : Turn) : Out :=
  match t with
  | .agent a => agentTurn s a
  | .event i x => eventTurn s i x
  | .elapse n dt df => if s.mustDrive n then .fault (.notEnabled "elapse") else .next (s.elapse n dt df)
  | .outside x => event "outside" (s.acting.comesAbout x)

/-! ## The moves of an empty agenda (log entry 3) -/

/-- Events of one context. -/
def Ctx.candidates (c : Ctx) (a : Agent) : List (Instr × EvArg) :=
  (List.range c.pend.length).flatMap (fun j =>
      (List.range (match c.pend[j]? with | some e => e.units.length | none => 0)).flatMap (fun u =>
        [(Instr.forward, EvArg.access a j u), (.readCopy, .access a j u), (.readHome, .access a j u), (.atomic, .access a j u)]))
    ++ (List.range c.sb.length).flatMap (fun j =>
      (List.range (match c.sb[j]? with | some e => e.units.length | none => 0)).map (fun u => (Instr.performStore, EvArg.access a j u)))
    ++ [(.semSigCheckReturn, .agent a), (.budgetExpiry, .agent a), (.sequencerFault, .agent a)]

/-- Events of one core. -/
def Core.candidates (k : Core) (g : Nat) : List (Instr × EvArg) :=
  k.ctxs.flatMap (fun e => e.2.candidates ⟨g, e.1⟩)
    ++ (List.range 5).flatMap (fun ch => (List.range (k.queueOf ch).length).flatMap (fun i =>
      let a : Agent := ⟨g, if ch = 4 then 11 else 12⟩
      [(Instr.engineCommandCompletion, EvArg.three g ch i), (.performStore, .access a ch i), (.readHome, .access a ch i)]))
    ++ k.drains.map (fun d => if d.kind = 0 then (Instr.bgiveDrainComplete, EvArg.two g d.slot)
        else if d.kind = 3 then (.ringrotDrainComplete, .one g) else (.bfreeDrainComplete, .two g d.slot))
    ++ k.l1.vict.map (fun l => (Instr.writeBack, EvArg.two g l))
    ++ [(.superstepRollback, .one g), (.forcedSave, .one g), (.saveWriteOut, .one g), (.taskEnd, .one g), (.jointRowFormed, .one g),
        (.distributorSelect, .two 0 g)]

/-- The event in which a flight lands. -/
def Flight.landing (f : Flight) (j : Nat) : Instr × EvArg :=
  match f with
  | .msg _ _ => (.messageArrival, .one j)
  | .ubhal _ _ _ _ _ => (.messageArrival, .one j)
  | .dir _ _ _ => (.directoryReply, .one j)
  | .sigCheck a _ _ _ => (.semSigCheckReturn, .agent a)
  | .sigAdd _ _ _ => (.semSigArrival, .one j)
  | .reply _ _ _ _ _ _ _ _ _ _ _ => (.missReply, .one j)
  | .qprio _ _ _ _ => (.qprioChangeArrival, .one j)

/-- The event an arrival waits for. -/
def Arrival.due (r : Arrival) : Instr × EvArg :=
  match r.kind with
  | .ring _ => (.ringrotBarrierComplete, .one r.agent.gid)
  | .sstep _ _ _ => (.sstepMerge, .one r.agent.gid)
  | .coll part grp => (.collectiveAllArrived, .two part grp)
  | .mgang _ => (.jointRowFormed, .one r.agent.gid)
  | _ => (.barPass, .agent r.agent)

/-- Events of one cluster. -/
def Cluster.candidates (k : Cluster) (cl : Nat) : List (Instr × EvArg) :=
  k.zeroing.map (fun b => (Instr.bankZeroingComplete, EvArg.two cl b))
    ++ k.slices.flatMap (fun e => e.2.open_.map (fun m => (Instr.sliceFill, EvArg.one m.line)) ++ e.2.wb.map (fun w => (Instr.writeBack, EvArg.one w.1)))
    ++ k.streams.map (fun e => (Instr.ticketResolve, EvArg.two cl e.1))
    ++ (List.range 4).map (fun i => (Instr.timeWindowTick, EvArg.two cl i))
    ++ [(.rebalance, .one cl)]
    ++ k.queues.map (fun q => (Instr.headAging, EvArg.three cl q.lid q.stage))
    ++ [(.distributorSelect, .one cl), (.preemptionRequest, .one cl)]

/-- Events of one launch. A gang is cancelled by itself only when an acknowledgement is missing. -/
def Launch.candidates (l : Launch) : List (Instr × EvArg) :=
  [(.launchStatusWrite, .one l.lid), (.gangStart, .one l.lid)]
    ++ (if l.gangState = 1 then l.clm.map (fun c => (Instr.gangAcknowledge, EvArg.two l.lid (16 + c))) ++ [(.gangCancelBeforeTick, .one l.lid)]
      else [])
    ++ l.clm.map (fun c => (Instr.stage0Enqueue, EvArg.two c l.lid))

/-- Requests to the Ubhal: one of these is the head's. -/
def ubhalEvents : List (Instr × EvArg) :=
  [(.writePeerTableEntry, .none), (.writeCollectiveGroup, .none), (.writeStorageHandle, .none), (.writeHomeRangeEntry, .none),
    (.writeFormatWindow, .none), (.rakeStop, .none), (.releaseStoppedCores, .none), (.moveToPartition, .none), (.setQueuePool, .none),
    (.readStatus, .none), (.attestationReport, .none), (.unknownOpRequest, .none)]

/-- The device's own events, in the order in which the default schedule tries them. -/
def State.candidates (s : State) : List (Instr × EvArg) :=
  s.invals.map (fun v => (Instr.deliver, EvArg.two v.wid v.target))
    ++ s.cores.flatMap (fun e => e.2.candidates e.1)
    ++ s.arrivals.map Arrival.due
    ++ s.flights.mapIdx (fun j f => f.landing j)
    ++ (List.range 8).flatMap (fun c => (s.cluster c).candidates c)
    ++ s.dev.launches.flatMap Launch.candidates
    ++ (if s.dev.ubq.isEmpty then [] else ubhalEvents)
    ++ [(.fallbackReport, .none), (.healthWindowEnd, .none)]

/-- The first of a list of events that is enabled. -/
def firstEvent (s : State) : List (Instr × EvArg) → Option State
  | [] => none
  | e :: rest =>
    match eventTurn s e.1 e.2 with
    | .next t => some t
    | _ => firstEvent s rest

/-- A number for each agent, ascending. -/
def agentKey (a : Agent) : Nat := 16 * a.gid + a.ctx

/-- The live agent that follows a key, if any. -/
def State.nextAgent (s : State) : Option Agent :=
  (s.cores.flatMap (fun e => s.liveAgents e.1)).find? (fun a => decide (s.rr ≤ agentKey a) && (s.ctx a).live)

/-- With an empty agenda: the first event that is enabled; else the next live agent of the round; else the round is over and one cycle
passes. -/
def defaultTurn (s : State) : Out :=
  match firstEvent s s.candidates with
  | some t => .next t
  | none =>
    match s.nextAgent with
    | some a => agentTurn { s with rr := agentKey a + 1 } a
    | none => .next ({ s with rr := 0 }.elapse 1 1 0)

/-! ## A word where the next step fetches it -/

/-- The class of the block that an opcode stands in (R232). -/
def classOf (op : Nat) : Nat := if op / 64 = 8 then 1 else if op / 64 = 9 ∧ op ≠ 0x241 then 2 else 0

/-- A block of one slot: NV 1, CLASS, and the signature over the slot (R228-R230). -/
def oneSlotBlock (w : BitVec 96) : BitVec 512 :=
  let cls := classOf (fOp w).toNat
  let b : BitVec 512 := BitVec.ofNat 512 (w.toNat + (32 + cls * 256) * 2 ^ 480)
  BitVec.ofNat 512 (b.toNat + blkCrc b * 2 ^ 496)

/-- A program capability over the whole address space, with execute, load and store. -/
def wholeCap (addr : Word) : Cap := ⟨addr, fld 7 61 ||| fld 40 42, true⟩

/-- The state in which an agent of core 0 fetches a word next: a bank in its slot 0 holds a block of that word alone. -/
def State.placeWord (s : State) (w : BitVec 96) : State :=
  let cls := classOf (fOp w).toNat
  let a : Agent := ⟨0, if cls = 1 then 11 else if cls = 2 then 12 else 0⟩
  let s1 := s.updCluster 0 (fun k => { k with taken := natIns k.taken 0 })
  let s2 := s1.updCore 0 (fun c => { (c.setSlot 0 ⟨true, false, false, 0⟩) with stopped := false, saving := 0, req := false, conflict := none })
  let s3 := s2.updCtx a (fun c => { (c.enter (wholeCap (wd localLo)) false 0) with live := true, sfault := none })
  { ((s3.setBytes (bankAddr 0 0 0) (toBytes 64 (oneSlotBlock w).toNat)).setPoison (bankAddr 0 0 0) false) with
    agenda := .agent a :: s.agenda }

end Sys2Proof.Machine
end

