-- ==== Sys2Proof/Machine/Step.lean ====
section
/-! DEFINITION. One step of the machine: the next move of the agenda, or the default move, and a moment passes. -/

namespace Sys2Proof.Machine

open Sys2Proof

/-- A move takes one moment. -/
def afterMove (o : Host.Outcome State Fault Refusal) : Host.Outcome State Fault Refusal :=
  match o with
  | .next t => .next t.tick
  | .fault f => .fault f
  | .refused r => .refused r

def step (s : State) : Host.Outcome State Fault Refusal :=
  match s.agenda with
  | t :: rest => afterMove (takeTurn { s with agenda := rest } t)
  | [] => afterMove (defaultTurn s)

/-- The same instruction where `step` fetches next: the state of `placeWord`. -/
def State.withFetchWord (s : State) (nbits w : Nat) : State := s.placeWord (BitVec.ofNat 96 (w % 2 ^ min nbits 96))

end Sys2Proof.Machine
end

