-- ==== Sys2Proof/Safety.lean ====
section
/-! DEFINITION. The terms that the claims use: the clauses of an instruction word, when an instruction issues, what a safe run is,
and the canonical form of memory with its tags and poison marks. -/

namespace Sys2Proof

/-- The guard, wait and signal clauses of an instruction word (R236); an event and an unassigned opcode have none. -/
def Instr.hdr : Instr → Option Hdr
  | .nop h => some h
  | .br h _ => some h
  | .bri h _ => some h
  | .call h _ => some h
  | .ret h _ => some h
  | .loop h _ => some h
  | .halt h => some h
  | .exit h => some h
  | .start h _ => some h
  | .fork h _ => some h
  | .join h => some h
  | .yield h _ => some h
  | .trap h _ => some h
  | .sysc h _ => some h
  | .rfu h => some h
  | .rfe h => some h
  | .semSet h _ => some h
  | .semAdd h _ => some h
  | .semSig h _ => some h
  | .semRd h _ => some h
  | .mfs h _ => some h
  | .mts h _ => some h
  | .prgnWrite h _ => some h
  | .svcrReadyWrite h _ => some h
  | .mqoWrite h _ => some h
  | .bar h _ => some h
  | .gang h => some h
  | .wmon h _ => some h
  | .dtime h _ => some h
  | .budget h _ => some h
  | .sstep h _ => some h
  | .fenceLl h _ => some h
  | .fenceSs h _ => some h
  | .fenceFull h _ => some h
  | .fenceEng h _ => some h
  | .add h _ => some h
  | .sub h _ => some h
  | .addi h _ => some h
  | .mul h _ => some h
  | .mulh h _ => some h
  | .mulhu h _ => some h
  | .div h _ => some h
  | .divu h _ => some h
  | .rem h _ => some h
  | .remu h _ => some h
  | .and h _ => some h
  | .or h _ => some h
  | .xor h _ => some h
  | .andn h _ => some h
  | .shl h _ => some h
  | .shr h _ => some h
  | .sar h _ => some h
  | .rol h _ => some h
  | .shlI h _ => some h
  | .shrI h _ => some h
  | .sarI h _ => some h
  | .rolI h _ => some h
  | .clz h _ => some h
  | .ctz h _ => some h
  | .popc h _ => some h
  | .min h _ => some h
  | .max h _ => some h
  | .minu h _ => some h
  | .maxu h _ => some h
  | .cmp h _ => some h
  | .cmpi h _ => some h
  | .sel h _ => some h
  | .movi h _ => some h
  | .movhi h _ => some h
  | .mov h _ => some h
  | .bfx h _ => some h
  | .bfi h _ => some h
  | .pand h _ => some h
  | .por h _ => some h
  | .pnot h _ => some h
  | .cset h _ => some h
  | .cinc h _ => some h
  | .cbnd h _ => some h
  | .cbndX h _ => some h
  | .cperm h _ => some h
  | .cseal h _ => some h
  | .cget h _ => some h
  | .ctag h _ => some h
  | .cclr h _ => some h
  | .fadd h _ => some h
  | .fsub h _ => some h
  | .fmul h _ => some h
  | .ffma h _ => some h
  | .fdiv h _ => some h
  | .fsqrt h _ => some h
  | .fmin h _ => some h
  | .fmax h _ => some h
  | .fcmp h _ => some h
  | .fcvt h _ => some h
  | .fexp2 h _ => some h
  | .vadd h _ => some h
  | .vsub h _ => some h
  | .vmul h _ => some h
  | .vfma h _ => some h
  | .vmin h _ => some h
  | .vmax h _ => some h
  | .vabs h _ => some h
  | .vcmp h _ => some h
  | .vsel h _ => some h
  | .viadd h _ => some h
  | .visub h _ => some h
  | .vimul h _ => some h
  | .vand h _ => some h
  | .vor h _ => some h
  | .vxor h _ => some h
  | .vshl h _ => some h
  | .vshr h _ => some h
  | .vsar h _ => some h
  | .vcvt h _ => some h
  | .vquant h _ => some h
  | .vquantFold h _ => some h
  | .vdeq h _ => some h
  | .vexp2 h _ => some h
  | .vrcp h _ => some h
  | .vrsq h _ => some h
  | .vdot4 h _ => some h
  | .vpermB h _ => some h
  | .vpermBN h _ => some h
  | .vpermBNs h _ => some h
  | .vshuf h _ => some h
  | .vbcast h _ => some h
  | .vins h _ => some h
  | .vext h _ => some h
  | .vrot h _ => some h
  | .vredadd h _ => some h
  | .vredmax h _ => some h
  | .vredmin h _ => some h
  | .vargmax h _ => some h
  | .vscan h _ => some h
  | .vscanX h _ => some h
  | .vhist h _ => some h
  | .vordkey h _ => some h
  | .vunord h _ => some h
  | .vlaneid h _ => some h
  | .vcount h _ => some h
  | .vcompress h _ => some h
  | .ld h _ => some h
  | .st h _ => some h
  | .ldc h _ => some h
  | .stc h _ => some h
  | .ldv h _ => some h
  | .stv h _ => some h
  | .ldq h _ => some h
  | .stq h _ => some h
  | .ldg h _ => some h
  | .stg h _ => some h
  | .amoAdd h _ => some h
  | .amoAnd h _ => some h
  | .amoOr h _ => some h
  | .amoXor h _ => some h
  | .amoMin h _ => some h
  | .amoMax h _ => some h
  | .amoSwap h _ => some h
  | .amoCas h _ => some h
  | .amoFadd h _ => some h
  | .stMc h _ => some h
  | .stRedAdd h _ => some h
  | .stRedMin h _ => some h
  | .stRedMax h _ => some h
  | .stRedFadd h _ => some h
  | .pref h _ => some h
  | .cinv h _ => some h
  | .cwb h _ => some h
  | .bgive h _ => some h
  | .btake h _ => some h
  | .bfree h _ => some h
  | .bmap h _ => some h
  | .ringrot h _ => some h
  | .bdrain h _ => some h
  | .pbegin h _ => some h
  | .pcommit h _ => some h
  | .pabort h _ => some h
  | .pseed h _ => some h
  | .pseedTbl h _ => some h
  | .pdraw h _ => some h
  | .pstat h _ => some h
  | .pstatE h _ => some h
  | .mlds h _ => some h
  | .mswp h _ => some h
  | .mstream h _ => some h
  | .mzero h _ => some h
  | .mdrain h _ => some h
  | .mgang h _ => some h
  | .mfwd h _ => some h
  | .msave h _ => some h
  | .msaveSt h _ => some h
  | .mrest h _ => some h
  | .cpy h _ => some h
  | .cpwp h _ => some h
  | .cps h _ => some h
  | .cpsw h _ => some h
  | .cpm h _ => some h
  | .cpmFin h _ => some h
  | .send h _ => some h
  | .recv h _ => some h
  | .recvT h _ => some h
  | .xphase h _ => some h
  | .xmit h _ => some h
  | .xsel h _ => some h
  | .cred h _ => some h
  | .cbc h _ => some h
  | .cag h _ => some h
  | .launch h _ => some h
  | .tpsh h _ => some h
  | .tpop h _ => some h
  | .tdecl h _ => some h
  | .qprio h _ => some h
  | .wid h _ => some h
  | .widSet h _ => some h
  | .twget h _ => some h
  | .twadv h _ => some h
  | .twput h _ => some h
  | .tlbwInstall h _ => some h
  | .tlbwUpcall h _ => some h
  | .tlbwTrap h _ => some h
  | .tlbwFail h _ => some h
  | .tlbiPage h _ => some h
  | .tlbiDomain h _ => some h
  | .tlbiAll h _ => some h
  | .fnote h _ => some h
  | .rtab h _ => some h
  | .rtabRd h _ => some h
  | .reset => none
  | .firmwareLoad => none
  | .functionReady => none
  | .performStore => none
  | .readHome => none
  | .readCopy => none
  | .forward => none
  | .atomic => none
  | .deliver => none
  | .drop => none
  | .sliceFill => none
  | .writeBack => none
  | .directoryReply => none
  | .missReply => none
  | .messageArrival => none
  | .semSigArrival => none
  | .engineCommandCompletion => none
  | .bgiveDrainComplete => none
  | .bfreeDrainComplete => none
  | .bankZeroingComplete => none
  | .ringrotBarrierComplete => none
  | .ringrotDrainComplete => none
  | .distributorSelect => none
  | .headAging => none
  | .rebalance => none
  | .preemptionRequest => none
  | .forcedSave => none
  | .saveWriteOut => none
  | .taskEnd => none
  | .launchStatusWrite => none
  | .stage0Enqueue => none
  | .gangAcknowledge => none
  | .gangStart => none
  | .gangCancelBeforeTick => none
  | .gangCancelAfterTick => none
  | .fallbackReport => none
  | .timeWindowTick => none
  | .heneriFrame => none
  | .ptpSync => none
  | .lockLossTimeout => none
  | .ticketResolve => none
  | .sstepMerge => none
  | .superstepRollback => none
  | .barPass => none
  | .jointRowFormed => none
  | .collectiveAllArrived => none
  | .budgetExpiry => none
  | .sequencerFault => none
  | .thermalStop => none
  | .healthWindowEnd => none
  | .bubble => none
  | .linkWrite => none
  | .linkRead => none
  | .flitRetry => none
  | .laneLoss => none
  | .writePeerTableEntry => none
  | .writeCollectiveGroup => none
  | .writeStorageHandle => none
  | .writeHomeRangeEntry => none
  | .writeFormatWindow => none
  | .rakeStop => none
  | .releaseStoppedCores => none
  | .moveToPartition => none
  | .setQueuePool => none
  | .readStatus => none
  | .attestationReport => none
  | .gangOffer => none
  | .qprioChangeArrival => none
  | .semSigCheckReturn => none
  | .unassignedOpcode _ => none
  | .unknownOpRequest => none
  | .bringupEnd => none

namespace Machine

/-- The instruction with clauses `h` that the agent in turn is at issues now: no step of its own is under way, its guard is true
(R237), its region admits it (R150), the operands it reads are there and those it writes have room (R240, R294, R350, R376), and its
wait clause can be taken (R242, R244). `s1` is the state with the wait clause taken. -/
structure Issues (h : Hdr) (s : State) (rg : InRegion) (srcs dsts : List Operand) (s1 : State) : Prop where
  free : s.me.held = false
  guard : s.me.guard h = true
  region : s.me.region.isSome = true → rg ≠ .illegal ∧ (rg = .normal → h.wt = 0 ∧ h.si = 0)
  status : s.here.statusDue s.cur.ctx srcs = false
  reply : s.replyDue s.cur srcs dsts = false
  ops : opsReady s.me srcs dsts = .ready
  wait : s.takeWait s.cur h = some s1

/-- The state after an instruction retires with its own context changed by `f`: the signal clause fires and the context moves on to the
next slot or block (R235, R243). -/
def State.after (s1 : State) (h : Hdr) (f : Ctx → Ctx) : State := (s1.self f).retire s1.cur h

/-- What a semaphore of the core holds after an instruction with clauses `h`: the count that it waited for is gone (R242). What it signals
comes with the core's next cycle (R243, R244). -/
def State.semAfter (s : State) (h : Hdr) (n : Nat) : Sem :=
  let m := s.here.sem n
  if n = h.ws.toNat ∧ s.me.waitTaken = false then ⟨BitVec.ofNat 16 (m.val.toNat - h.wt.toNat), m.ovf⟩ else m

/-- What the clauses of an instruction that retires add to the semaphores in the next cycle (R243, R244). -/
def addsOf (h : Hdr) : List (Nat × Nat) := if h.si = 0 then [] else [(h.ss.toNat, h.si.toNat)]

/-- The semaphores of a core after an instruction with clauses `h` has retired there, and what its next cycle brings them. -/
structure State.SemsAfter (s : State) (h : Hdr) (d : Core) : Prop where
  sem : ∀ n, d.sem n = s.semAfter h n
  adds : d.semAdds = s.here.semAdds ++ addsOf h
  sets : d.semSets = s.here.semSets

/-- A semaphore that the core's next cycle finds at `m`, after the additions of a list: the sum, saturated, with the sticky overflow bit set
where it saturates (R243, R244). -/
def Sem.plus (m : Sem) (n : Nat) (adds : List (Nat × Nat)) : Sem :=
  let sum := m.val.toNat + ((adds.filter (fun e => e.1 = n)).map (fun e => e.2)).sum
  ⟨BitVec.ofNat 16 (min 0xFFFF sum), m.ovf || decide (0xFFFF < sum)⟩

/-- The context stands after an instruction at the next slot of its block, or at slot 0 of the next block (R235). -/
def Ctx.Advanced (c d : Ctx) : Prop :=
  if c.slot + 1 < c.nv then d.slot = c.slot + 1 ∧ d.pcc = c.pcc ∧ d.blk = c.blk
  else d.slot = 0 ∧ d.pcc = ⟨c.pcc.addr + 64, c.pcc.md, c.pcc.tag⟩ ∧ d.blk = none

/-- The context stands at slot 0 of the block that a capability names, which is fetched next. -/
def Ctx.At (d : Ctx) (p : Cap) : Prop := d.pcc = p ∧ d.slot = 0 ∧ d.blk = none ∧ d.waitTaken = false

/-- The scalar and vector registers, masks, predicates, queues and store buffer of two contexts are the same. -/
structure SameRegs (c d : Ctx) : Prop where
  x : d.x = c.x
  v : d.v = c.v
  k : d.k = c.k
  p : d.p = c.p
  lq : d.lq = c.lq
  sq : d.sq = c.sq
  sb : d.sb = c.sb

/-! ## Frames -/

/-- Two contexts agree in everything but their registers, predicates, masks, queues, store buffer, FSTAT, CAPST, program counter and
the bookkeeping of waits: in every special register, the region, the loads in flight and the order marks. -/
structure CtxFrame (c d : Ctx) : Prop where
  live : d.live = c.live
  level : d.level = c.level
  bankDom : d.bankDom = c.bankDom
  cdom : d.cdom = c.cdom
  upv : d.upv = c.upv
  upn : d.upn = c.upn
  upc : d.upc = c.upc
  upa : d.upa = c.upa
  upi : d.upi = c.upi
  upk : d.upk = c.upk
  bstat : d.bstat = c.bstat
  prgn : d.prgn = c.prgn
  pres : d.pres = c.pres
  twid : d.twid = c.twid
  tinf : d.tinf = c.tinf
  sup : d.sup = c.sup
  hyp : d.hyp = c.hyp
  budg : d.budg = c.budg
  dtLock : d.dtLock = c.dtLock
  dtFrac : d.dtFrac = c.dtFrac
  region : d.region = c.region
  pend : d.pend = c.pend
  acqs : d.acqs = c.acqs
  seq : d.seq = c.seq
  mon : d.mon = c.mon
  fences : d.fences = c.fences
  dtSeen : d.dtSeen = c.dtSeen
  missEA : d.missEA = c.missEA
  sfault : d.sfault = c.sfault
  forker : d.forker = c.forker

/-- Two contexts have the same registers, predicates, masks and queues but for the operand that an instruction writes and the queues
that it pops. A write of a scalar register also clears the tag of the other register of its pair (R21). -/
structure RegFrame (c d : Ctx) (dst : Operand) (srcs : List Operand) : Prop where
  xval : ∀ n : Fin 64, dst ≠ .x n → (d.getX n.val).val = (c.getX n.val).val
  xreg : ∀ n : Fin 64, (∀ m, dst = .x m → m.val / 2 ≠ n.val / 2) → d.getX n.val = c.getX n.val
  v : ∀ n : Fin 32, dst ≠ .v n → d.getV n.val = c.getV n.val
  k : ∀ n, dst ≠ .k n → d.getK n.val = c.getK n.val
  p : ∀ n, dst ≠ .p n → d.getP n.val = c.getP n.val
  lq : ∀ n, Operand.lq n ∉ srcs → d.getLq n.val = c.getLq n.val
  sq : ∀ n, dst ≠ .sq n → d.getSq n.val = c.getSq n.val
  sb : (∀ n, dst ≠ .sq n) → d.sb = c.sb

/-- The semaphores of a core differ only where the wait clause names one, and what its next cycle adds to them only by the signal
clause; everything else of the core but its contexts is the same. -/
structure CoreFrame (h : Hdr) (c d : Core) : Prop where
  sems : ∀ n, n ≠ h.ws.toNat → d.sem n = c.sem n
  adds : d.semAdds = c.semAdds ++ addsOf h
  sets : d.semSets = c.semSets
  relSig : ∀ n, n ≠ h.ws.toNat → Sparse.look [] d.relSig n = Sparse.look [] c.relSig n
  lastTurn : d.lastTurn = c.lastTurn
  slots : d.slots = c.slots
  slotDom : d.slotDom = c.slotDom
  chans : d.chans = c.chans
  matrix : d.matrix = c.matrix
  tlb : d.tlb = c.tlb
  trackers : d.trackers = c.trackers
  fseq : d.fseq = c.fseq
  gen : d.gen = c.gen
  copies : d.copies = c.copies
  l1 : d.l1 = c.l1
  mrg : d.mrg = c.mrg
  pdsd : d.pdsd = c.pdsd
  pdct : d.pdct = c.pdct
  pcntCap : d.pcntCap = c.pcntCap
  pcntRply : d.pcntRply = c.pcntRply
  pcntMcnf : d.pcntMcnf = c.pcntMcnf
  pcntAbnd : d.pcntAbnd = c.pcntAbnd
  recvq : d.recvq = c.recvq
  mqoa : d.mqoa = c.mqoa
  mqosSize : d.mqosSize = c.mqosSize
  mqosSpill : d.mqosSpill = c.mqosSpill
  ovq : d.ovq = c.ovq
  msgSent : d.msgSent = c.msgSent
  msgRecv : d.msgRecv = c.msgRecv
  rkcy : d.rkcy = c.rkcy
  rkms : d.rkms = c.rkms
  req : d.req = c.req
  dlc : d.dlc = c.dlc
  stopped : d.stopped = c.stopped
  task : d.task = c.task
  saving : d.saving = c.saving
  saveSlots : d.saveSlots = c.saveSlots
  saveMask : d.saveMask = c.saveMask
  drains : d.drains = c.drains
  phase : d.phase = c.phase
  pastPhases : d.pastPhases = c.pastPhases
  lateCount : d.lateCount = c.lateCount
  binding : d.binding = c.binding
  conflict : d.conflict = c.conflict
  faults : d.faults = c.faults

/-- Everything outside an agent's context and its core's semaphores is the same: every byte of memory as it reads, the tags, the
poison marks, storage, the directory and what is in flight, the device, the clusters, the other cores, the other contexts. -/
structure OutFrame (h : Hdr) (a : Agent) (s t : State) : Prop where
  bytes : ∀ x, t.byte x = s.byte x
  tags : t.tags = s.tags
  poison : t.poison = s.poison
  ecc : t.ecc = s.ecc
  storage : t.storage = s.storage
  dir : t.dir = s.dir
  dec : t.dec = s.dec
  recs : t.recs = s.recs
  invals : t.invals = s.invals
  byteVer : t.byteVer = s.byteVer
  clusters : t.clusters = s.clusters
  dev : t.dev = s.dev
  arrivals : t.arrivals = s.arrivals
  remote : t.remote = s.remote
  far : t.far = s.far
  flights : t.flights = s.flights
  cores : ∀ g, g ≠ a.gid → t.core g = s.core g
  core : CoreFrame h (s.core a.gid) (t.core a.gid)
  ctxs : ∀ b : Agent, b ≠ a → t.ctx b = s.ctx b

/-- Memory lists its bytes in rising order and lists no zero byte; the tags that are set and the poisoned lines are listed in rising
order. Equal memories are then equal data. -/
def State.MemWf (s : State) : Prop :=
  Memory.wf s.mem = true ∧ s.tags.Pairwise (· < ·) ∧ s.poison.Pairwise (· < ·)

/-- A run of `n` steps that neither faults nor refuses, from `s` to `t`. -/
def Runs : Nat → State → State → Prop
  | 0, s, t => s = t
  | n + 1, s, t => ∃ u, step s = .next u ∧ Runs n u t

/-- A state is safe when a step from it goes on, and whatever it leads to is safe for as many steps as are asked. -/
def SafeFor : Nat → State → Prop
  | 0, _ => True
  | n + 1, s => ∃ t, step s = .next t ∧ SafeFor n t

end Machine

end Sys2Proof
end

