-- ==== Sys2Proof/Certificates/Slice0/Obligations.lean ====
section
/-! DEFINITION. The statements for the provers. Where a statement names an instruction's result it names it as the state in which the
instruction completes: `Issues` says that it issues, `State.after` that it retires with its context changed. -/

open Sys2Proof Sys2Proof.Machine

/-! ## Encoding (R236-R250) -/

/-- Every well-formed instruction has a word, and the decoder reads the instruction back from it, with every operand at every value
that its encoding admits. -/
def Obligations.DecodeEncode : Prop :=
  ∀ i : Instr, i.isEvent = false → i.wf = true → ∃ w, encode i = some w ∧ decodeWord w = some i

/-- A word that decodes gives a well-formed instruction that is no event, and is exactly that instruction's encoding: no bit of a word
is lost. -/
def Obligations.EncodeDecode : Prop :=
  ∀ (w : BitVec 96) (i : Instr), decodeWord w = some i → i.wf = true ∧ i.isEvent = false ∧ encode i = some w

/-- The words that the manual writes out decode to the instructions they stand for. A reserved operand number (102, 103, 120 to 127) in any of the
three fields of an assigned opcode is refused (R239), and an opcode that the map leaves unassigned decodes to the row of its own, whatever its other
bits are (R250). -/
def Obligations.DecodedWords : Prop :=
  (decodeWord 0x108030600000000000000003 = some (.addi ⟨false, 0, 0, 0, 0, 0, false, false, false⟩ ⟨.x 6, .x 6, 3⟩) ∧
    decodeWord 0x018028000000000000000000 = some (.loop ⟨false, 0, 0, 0, 0, 0, false, false, false⟩ ⟨.x 5, 0⟩) ∧
    decodeWord 0x6004A0A00060820803000008 =
      some (.ld ⟨false, 1, 3, 1, 4, 1, false, false, false⟩ ⟨.x 20, .x 10, .x 0, 0, 0, 3, 8⟩) ∧
    decodeWord 0x020000000000000000000000 = some (.exit ⟨false, 0, 0, 0, 0, 0, false, false, false⟩) ∧
    decodeWord 0x000000000000000000000000 = some (.unassignedOpcode 0)) ∧
  (∀ w : BitVec 96,
      (opAssigned (fOp w).toNat = true → (∃ n ∈ [fD w, fA w, fB w], n = 102 ∨ n = 103 ∨ 120 ≤ n.toNat) → decodeWord w = none) ∧
      (opAssigned (fOp w).toNat = false → decodeWord w = some (.unassignedOpcode w)))

/-! ## Steps -/

/-- When the agenda names a live agent whose block is held and whose slot holds a word that its block admits and that decodes to `i`, the step is
the execution of `i`, and one moment passes. The instruction executes in the state in which the agent's turn has come (`State.atTurn`): its core's
next cycle has opened, with the changes of its semaphores, where the agent does not come after the latest one of its core in this cycle (R244), and
the fences of the agent that can retire have retired (R274); with no fence and a later turn in the cycle, that is the state itself with the agent in
turn, in a cycle that is no bubble (R434). A paused agent, a pending merge conflict, a translation miss that the context waits for, and an
instruction that waits for a fence are excepted: in these the step does something else. -/
def Obligations.StepRunsDecoded : Prop :=
  ∀ (s t : State) (a : Agent) (rest : List Turn) (blk : BitVec 512) (i : Instr),
    s.agenda = .agent a :: rest → (s.ctx a).live = true → t = State.atTurn { s with agenda := rest } a →
    (((s.core a.gid).lastTurn ≤ a.ctx → (s.ctx a).fences = [] →
        t = State.updCore { s.acting with agenda := rest, cur := a } a.gid (fun c => { c with lastTurn := a.ctx + 1 })) ∧
      (a.ctx < (s.core a.gid).lastTurn → (s.ctx a).fences = [] →
        t = State.updCore { s.acting with agenda := rest, cur := a } a.gid (fun c => { c.semStep with lastTurn := a.ctx + 1 }))) ∧
    ((t.ctx a).blk = some blk → t.paused a = false → t.conflictDue a = none → (t.core a.gid).misses a.ctx = false →
      (t.ctx a).fenceHolds (slotWord blk (t.ctx a).slot) = false →
      admits (blkClass blk) (fOp (slotWord blk (t.ctx a).slot)).toNat = true →
      (isSvc a.gid && svcRefuses (fOp (slotWord blk (t.ctx a).slot)).toNat) = false →
      decodeWord (slotWord blk (t.ctx a).slot) = some i →
      step s = afterMove (exec i t))

/-- The first step of a core's cycle (R244): every `sem.set` is applied, the value of the highest agent standing, which clears the sticky
overflow bit (R265); then every addition, with saturation and the sticky overflow bit (R243). A semaphore that no change names keeps
its value, and no change is left. -/
def Obligations.SemaphoreStep : Prop :=
  ∀ (c : Core) (n : Nat),
    c.semStep.semSets = [] ∧ c.semStep.semAdds = [] ∧
    ((∀ e ∈ c.semSets, e.2.1 ≠ n) → c.semStep.sem n = (c.sem n).plus n c.semAdds) ∧
    (∀ (g : Nat) (v : BitVec 16), (g, n, v) ∈ c.semSets → (∀ e ∈ c.semSets, e.2.1 = n → e = (g, n, v) ∨ e.1 < g) →
      c.semStep.sem n = Sem.plus ⟨v, false⟩ n c.semAdds)

/-- After reset the values that the manual states: every context is at user level and holds the domain 0xFFF, slots are empty, every bank is
free, and the special registers that the manual resets to zero are zero. Three clauses are the model's choice (log entry 2), for the manual
states no reset value there: the registers are zero with their tags clear, the predicates but `p0` are false, and the semaphores are zero. -/
def Obligations.ResetState : Prop :=
  (∀ a : Agent, (State.reset.ctx a).level = .user ∧ (State.reset.ctx a).live = false ∧ (State.reset.ctx a).cdom = 0xFFF ∧
    (∀ n, (State.reset.ctx a).getX n = ⟨0, false⟩) ∧ (∀ n, (State.reset.ctx a).getP n = decide (n = 0)) ∧
    (State.reset.ctx a).fstat = 0 ∧ (State.reset.ctx a).prgn = Prgn.reset ∧
    (State.reset.ctx a).upi = 0 ∧ (State.reset.ctx a).sup = TrapRegs.reset) ∧
  (∀ g n, (State.reset.core g).sem n = ⟨0, false⟩ ∧ (State.reset.core g).slot n = ⟨false, false, false, 0⟩) ∧
  (∀ c n, n < 2048 → (State.reset.cluster c).isFree n = true) ∧
  (∀ c i, (State.reset.cluster c).bktReg i = 0xFEDCBA9876543210) ∧
  State.reset.dev.cycl = 0 ∧ State.reset.dev.rdy = 0

/-- Memory, its tags and its poison marks are in canonical form after reset. -/
def Obligations.ResetMemWf : Prop := State.reset.MemWf

/-- Every step keeps memory, its tags and its poison marks in canonical form, from every state that has them so. -/
def Obligations.StepMemWf : Prop := ∀ s t : State, s.MemWf → step s = .next t → t.MemWf

/-- No instruction word ever stops the machine: in every state it answers a next state, in which it has had its effect, waits, or has raised a trap
that the manual describes. No step is refused: every instruction and every event has a meaning. -/
def Obligations.NoInstructionStops : Prop :=
  (∀ (i : Instr) (s : State), i.isEvent = false → ∃ t, exec i s = .next t) ∧
  (∀ (s : State) (r : Refusal), step s ≠ .refused r)


/-! ## Guards, waits, signals, moving on (R235, R237, R242, R243) -/

/-- An instruction word whose guard is false does nothing but its clauses: it waits at its wait clause, or the count is taken, the
signal fires and the context moves on. `call` and `pbegin` are excepted where their placement is illegal, which their own words and
places decide before the guard (R235, R237). -/
def Obligations.FalseGuard : Prop :=
  ∀ (i : Instr) (h : Hdr) (s : State), i.hdr = some h → s.me.held = false → s.me.guard h = false →
    (∀ o, i = .call h o → s.me.slot + 1 = s.me.nv) → (∀ o, i = .pbegin h o → s.me.slot = 0 ∧ h.si = 0) →
    exec i s = (match s.takeWait s.cur h with
      | none => .next (s.waitMore s.cur)
      | some s1 => .next (s1.retire s.cur h))

/-- `nop` retires: the count that it waits for leaves its semaphore, the increment that it signals is among those that the core's next cycle
adds (`SemaphoreStep`), and the context is at the next slot of its block or at slot 0 of the next block. Every other semaphore keeps its value.
While the semaphore holds less than the count, an instruction stays at its wait clause: nothing of the machine changes but the mark that it
waits. An instruction that reads a load-data queue which holds no entry, and to which no load is directed, raises the illegal-instruction trap
(R240). -/
def Obligations.IssueRules : Prop :=
  (∀ (h : Hdr) (s s1 : State), Issues h s .normal [] [] s1 →
      ∃ t, exec (.nop h) s = .next t ∧
        s.SemsAfter h (t.core s.cur.gid) ∧ s.me.Advanced t.me ∧ t.me.waitTaken = false ∧ SameRegs s.me t.me ∧
        CtxFrame s.me t.me ∧ OutFrame h s.cur s t) ∧
  (∀ (h : Hdr) (s : State), s.me.held = false → s.me.waitTaken = false → s.me.region = none →
      (s.here.sem h.ws.toNat).val.toNat < h.wt.toNat →
      exec (.nop h) s = .next (s.updCtx s.cur (fun c => { c with waiting := true }))) ∧
  (∀ (h : Hdr) (o : FmtRR) (s : State) (q : Fin 4), s.me.held = false → s.me.guard h = true → s.me.region = none →
      s.me.getLq q.val = [] → (o.a = .lq q ∨ o.b = .lq q) →
      s.here.statusDue s.cur.ctx [o.a, o.b] = false → s.replyDue s.cur [o.a, o.b] [o.d] = false →
      exec (.add h o) s = .next (s.fault s.cur h 5 0 s.me.slotVal))

/-- Inside an open region these instructions raise the illegal-instruction trap (R150). What a level forbids raises the illegal-instruction trap:
`rfe` at user level, reads and writes of the supervisor trap registers below supervisor level, of the hypervisor copies below hypervisor level, and
of the overflow registers at user level (R211, R267, R269). -/
def Obligations.Forbidden : Prop :=
  (∀ (h : Hdr) (s : State), s.me.held = false → s.me.guard h = true → s.me.region.isSome = true →
      (∀ i ∈ ([.exit h, .join h, .gang h, .rfu h, .rfe h] : List Instr), exec i s = .next (s.fault s.cur h 5 0 s.me.slotVal)) ∧
      (∀ o, exec (.sysc h o) s = .next (s.fault s.cur h 5 0 s.me.slotVal)) ∧
      (∀ o, exec (.fork h o) s = .next (s.fault s.cur h 5 0 s.me.slotVal)) ∧
      (∀ o, exec (.start h o) s = .next (s.fault s.cur h 5 0 s.me.slotVal)) ∧
      (∀ o, ∀ mk ∈ ([.semSet, .semAdd, .semSig, .budget] : List (Hdr → FmtS → Instr)),
        exec (mk h o) s = .next (s.fault s.cur h 5 0 s.me.slotVal)) ∧
      (∀ o, ∀ mk ∈ ([.bar, .sstep] : List (Hdr → FmtSC → Instr)), exec (mk h o) s = .next (s.fault s.cur h 5 0 s.me.slotVal)) ∧
      (∀ o, ∀ mk ∈ ([.wmon, .amoAdd, .amoAnd, .amoOr, .amoXor, .amoMin, .amoMax, .amoSwap, .amoCas, .amoFadd, .stMc, .stRedAdd,
          .stRedMin, .stRedMax, .stRedFadd, .cinv, .cwb] : List (Hdr → FmtM → Instr)),
        exec (mk h o) s = .next (s.fault s.cur h 5 0 s.me.slotVal)) ∧
      (∀ o, ∀ mk ∈ ([.bgive, .btake, .bfree, .bmap, .ringrot, .bdrain] : List (Hdr → FmtK → Instr)),
        exec (mk h o) s = .next (s.fault s.cur h 5 0 s.me.slotVal)) ∧
      (∀ o, ∀ mk ∈ ([.send, .recv, .recvT, .xphase, .xmit, .xsel, .cred, .cbc, .cag] : List (Hdr → FmtXC → Instr)),
        exec (mk h o) s = .next (s.fault s.cur h 5 0 s.me.slotVal)) ∧
      (∀ o, ∀ mk ∈ ([.launch, .tpsh, .tpop, .tdecl, .qprio, .twadv, .twput, .tlbwInstall, .tlbwUpcall, .tlbwTrap, .tlbwFail,
          .tlbiPage, .tlbiDomain, .tlbiAll, .fnote, .rtab, .rtabRd] : List (Hdr → FmtT → Instr)),
        exec (mk h o) s = .next (s.fault s.cur h 5 0 s.me.slotVal)) ∧
      (∀ o, ∀ mk ∈ ([.pseed, .pseedTbl, .pdraw] : List (Hdr → FmtP → Instr)),
        exec (mk h o) s = .next (s.fault s.cur h 5 0 s.me.slotVal)) ∧
      (∀ o, exec (.pbegin h o) s = .next (s.fault s.cur h 5 0 s.me.slotVal)) ∧
      (∀ o, ∀ mk ∈ ([.mlds, .mswp, .mstream, .mzero, .mdrain, .mgang, .mfwd, .msave, .msaveSt, .mrest, .cpy, .cps, .cpsw, .cpm,
          .cpmFin] : List (Hdr → FmtE → Instr)), exec (mk h o) s = .next (s.fault s.cur h 5 0 s.me.slotVal))) ∧
  (∀ (h : Hdr) (s s1 : State),
      (Issues h s .illegal [] [] s1 → s.me.level = .user → exec (.rfe h) s = .next (s1.fault s.cur h 5 0 s.me.slotVal)) ∧
      (∀ o : FmtSYS, Issues h s .normal [] [o.d] s1 →
        ((s.me.level = .user ∧ ((0x070 ≤ o.spr.toNat ∧ o.spr.toNat ≤ 0x076) ∨ o.spr = 0x088 ∨ o.spr = 0x089)) ∨
          (s.me.level ≠ .hypervisor ∧ ((0x078 ≤ o.spr.toNat ∧ o.spr.toNat ≤ 0x07E) ∨ o.spr = 0x098))) →
        exec (.mfs h o) s = .next (s1.fault s.cur h 5 0 s.me.slotVal)) ∧
      (∀ o : FmtSYS, Issues h s .normal [o.a] [] s1 →
        ((s.me.level = .user ∧ 0x070 ≤ o.spr.toNat ∧ o.spr.toNat ≤ 0x076) ∨
          (s.me.level ≠ .hypervisor ∧ 0x078 ≤ o.spr.toNat ∧ o.spr.toNat ≤ 0x07E)) →
        exec (.mts h o) s = .next (s1.fault s.cur h 5 0 s.me.slotVal)) ∧
      (∀ o : FmtSYS, Issues h s .normal [o.a] [] s1 → s.me.level = .user →
        exec (.mqoWrite h o) s = .next (s1.fault s.cur h 5 0 s.me.slotVal)) ∧
      (∀ o : FmtSYS, Issues h s .normal [o.a] [] s1 → s.me.level ≠ .hypervisor →
        exec (.svcrReadyWrite h o) s = .next (s1.fault s.cur h 5 0 s.me.slotVal)))

/-! ## Traps and returns (R207-R212, R261) -/

/-- An unassigned opcode raises the illegal-instruction trap. The control context at user or supervisor level takes it through the
supervisor registers: TEPC names the block and slot, TEPM the metadata of the program capability, TCAU the kind, the level before and
ACT, TVAL bits [95:32] of the slot; the level becomes supervisor and the handler's block is fetched under TVEC and TVEM. No register of
the program, no predicate and no byte of memory changes. A trap raised while TCAU.ACT is set is a nested trap: it is taken through the
hypervisor copies with KIND 0x0D and the first trap's kind as SUB, the supervisor registers keep their values, and the level becomes
hypervisor. -/
def Obligations.TrapEntry : Prop :=
  ∀ (w : BitVec 96) (s : State), s.cur.ctx = 0 → s.me.region = none → s.me.level ≠ .hypervisor →
    (s.me.sup.cau.getLsbD 7 = false →
      ∃ t, exec (.unassignedOpcode w) s = .next t ∧
        t.me.level = .supervisor ∧
        bits t.me.sup.epc 63 6 = bits s.me.pcc.addr 63 6 ∧ bits t.me.sup.epc 5 3 = s.me.slot % 8 ∧ bits t.me.sup.epc 2 0 = 0 ∧
        t.me.sup.epm = s.me.pcc.md ∧
        bits t.me.sup.cau 4 0 = 5 ∧ bits t.me.sup.cau 6 5 = s.me.level.num ∧ bits t.me.sup.cau 7 7 = 1 ∧ bits t.me.sup.cau 11 8 = 0 ∧
        t.me.sup.val = s.me.slotVal ∧
        t.me.sup.vec = s.me.sup.vec ∧ t.me.sup.vem = s.me.sup.vem ∧ t.me.sup.scr = s.me.sup.scr ∧ t.me.hyp = s.me.hyp ∧
        t.me.pcc = ⟨wd (bits s.me.sup.vec 63 6 * 64), s.me.sup.vem, true⟩ ∧ t.me.slot = 0 ∧ t.me.blk = none ∧
        t.me.x = s.me.x ∧ t.me.v = s.me.v ∧ t.me.k = s.me.k ∧ t.me.p = s.me.p ∧ t.me.lq = s.me.lq ∧ t.me.sq = s.me.sq ∧
        t.me.sb = s.me.sb ∧ t.me.cdom = s.me.cdom ∧ t.mem = s.mem ∧ t.tags = s.tags ∧ t.poison = s.poison ∧
        (t.core s.cur.gid).sems = s.here.sems) ∧
    (s.me.sup.cau.getLsbD 7 = true →
      s.me.hyp.cau.getLsbD 7 = false →
      ∃ t, exec (.unassignedOpcode w) s = .next t ∧
        t.me.level = .hypervisor ∧ t.me.sup = s.me.sup ∧
        bits t.me.hyp.cau 4 0 = 0x0D ∧ bits t.me.hyp.cau 11 8 = 5 ∧ bits t.me.hyp.cau 6 5 = s.me.level.num ∧
        bits t.me.hyp.cau 7 7 = 1 ∧ t.me.hyp.val = s.me.slotVal ∧ t.me.hyp.epm = s.me.pcc.md ∧
        bits t.me.hyp.epc 63 6 = bits s.me.pcc.addr 63 6 ∧ bits t.me.hyp.epc 5 3 = s.me.slot % 8 ∧
        t.me.pcc = ⟨wd (bits s.me.hyp.vec 63 6 * 64), s.me.hyp.vem, true⟩ ∧ t.me.slot = 0 ∧ t.me.x = s.me.x ∧ t.mem = s.mem)

/-- `trap` retires and then raises the software trap: its wait count stays consumed, its signal fires, KIND is 0x0C, SUB is IMM[3:0], TVAL is IMM
zero-extended, and TEPC names the slot after it, or slot 0 of the next block. `rfe` returns from a trap: at supervisor level from the supervisor
registers, at hypervisor level from the hypervisor copies. The program capability comes from TEPC.BLK and TEPM, the slot from TEPC.SLOT, the level
from TCAU.PLV, and ACT clears. `rfu` resumes where UPC names, with UPI.ACT clear, at any time (R50). -/
def Obligations.TrapsAndReturns : Prop :=
  (∀ (h : Hdr) (o : FmtI) (s s1 : State), Issues h s .normal [] [] s1 → s.cur.ctx = 0 → s.me.region = none →
      s.me.level ≠ .hypervisor → s.me.sup.cau.getLsbD 7 = false →
      ∃ t, exec (.trap h o) s = .next t ∧
        t.me.level = .supervisor ∧ bits t.me.sup.cau 4 0 = 0x0C ∧ bits t.me.sup.cau 11 8 = o.imm.toNat % 16 ∧
        bits t.me.sup.cau 6 5 = s.me.level.num ∧ bits t.me.sup.cau 7 7 = 1 ∧ t.me.sup.val = o.imm.setWidth 64 ∧
        t.me.sup.epm = s.me.pcc.md ∧
        (if s.me.slot + 1 < s.me.nv then bits t.me.sup.epc 63 6 = bits s.me.pcc.addr 63 6 ∧ bits t.me.sup.epc 5 3 = (s.me.slot + 1) % 8
         else bits t.me.sup.epc 63 6 = bits (s.me.pcc.addr + 64) 63 6 ∧ bits t.me.sup.epc 5 3 = 0) ∧
        t.me.pcc = ⟨wd (bits s.me.sup.vec 63 6 * 64), s.me.sup.vem, true⟩ ∧ t.me.slot = 0 ∧
        s.SemsAfter h (t.core s.cur.gid) ∧ t.me.x = s.me.x ∧ t.mem = s.mem) ∧
  (∀ (h : Hdr) (s s1 : State), Issues h s .illegal [] [] s1 →
      (s.me.level ≠ .user →
        ∀ r : TrapRegs, r = (if s.me.level = .hypervisor then s.me.hyp else s.me.sup) → bits r.cau 6 5 ≠ 3 →
        ∃ t, exec (.rfe h) s = .next t ∧
          t.me.pcc = ⟨wd (bits r.epc 63 6 * 64), r.epm, true⟩ ∧ t.me.slot = bits r.epc 5 3 ∧ t.me.level = Level.ofNum (bits r.cau 6 5) ∧
          t.me.blk = none ∧
          (if s.me.level = .hypervisor then t.me.hyp = { r with cau := r.cau &&& ~~~0x80 } ∧ t.me.sup = s.me.sup
           else t.me.sup = { r with cau := r.cau &&& ~~~0x80 } ∧ t.me.hyp = s.me.hyp) ∧
          t.me.x = s.me.x ∧ t.me.v = s.me.v ∧ t.me.p = s.me.p ∧ t.mem = s.mem) ∧
      ∃ t, exec (.rfu h) s = .next t ∧
        t.me.pcc = ⟨wd (bits s.me.upc 63 6 * 64), s.me.pcc.md, s.me.pcc.tag⟩ ∧ t.me.slot = bits s.me.upc 5 3 ∧ t.me.blk = none ∧
        t.me.upi = s.me.upi &&& ~~~0x80 ∧ t.me.upc = s.me.upc ∧ t.me.upa = s.me.upa ∧ t.me.level = s.me.level ∧ t.me.x = s.me.x ∧
        t.mem = s.mem)


/-! ## Registers and operands (R239-R241) -/

/-- Writing and reading the scalar registers: register 0 reads zero untagged and discards writes; a plain write clears the tags of both registers of
the pair and leaves every other register; a pair write of an even register sets both. Pushing a value to a store-data queue zeroes the upper bits of
the entry and adds it behind the others; reading a load-data queue takes the oldest entry and gives its low 64 bits (R240). -/
def Obligations.RegisterOperands : Prop :=
  (∀ (c : Ctx) (n m : Nat) (v : Word), n < 64 → m < 64 →
      c.getX 0 = ⟨0, false⟩ ∧ c.writeX 0 v = c ∧
      (n ≠ 0 → ((c.writeX n v).getX n).val = v ∧ ((c.writeX n v).getX n).tag = false) ∧
      (n ≠ 0 → m ≠ n → ((c.writeX n v).getX m).val = (c.getX m).val) ∧
      (n ≠ 0 → m / 2 = n / 2 → ((c.writeX n v).getX m).tag = false) ∧
      (n ≠ 0 → m / 2 ≠ n / 2 → (c.writeX n v).getX m = c.getX m) ∧
      (∀ p : Cap, n % 2 = 0 → n ≠ 0 →
        ((c.writePair n p).getPair n) = p ∧ (m / 2 ≠ n / 2 → (c.writePair n p).getX m = c.getX m)) ∧
      (∀ d : Operand, (c.writeS d v).live = c.live ∧ (c.writeS d v).region = c.region ∧ (c.writeS d v).slot = c.slot)) ∧
  (∀ (c : Ctx) (p : Fin 2) (q : Fin 4) (v : Word) (e : Line) (rest : List QEntry),
      ((c.writeS (.sq p) v).getSq p.val = c.getSq p.val ++ [.val (v.setWidth 1024)] ∧
        (∀ r : Fin 2, r ≠ p → (c.writeS (.sq p) v).getSq r.val = c.getSq r.val) ∧ (c.writeS (.sq p) v).x = c.x) ∧
      (c.getLq q.val = .val e :: rest →
        (c.readS (.lq q)).1 = e.setWidth 64 ∧ (c.readS (.lq q)).2.getLq q.val = rest ∧
        (∀ r : Fin 4, r ≠ q → (c.readS (.lq q)).2.getLq r.val = c.getLq r.val) ∧ (c.readS (.lq q)).2.x = c.x))

/-! ## Integer instructions (R277-R281) -/

/-- The integer instructions of two sources: each retires with D holding the value that R277 and R278 give it of A and B, which are read,
and popped, in that order. Division by zero gives all ones and a remainder by zero gives A. -/
def Obligations.IntegerResults : Prop :=
  ∀ (h : Hdr) (o : FmtRR) (s s1 : State), Issues h s .normal [o.a, o.b] [o.d] s1 →
    ∀ e ∈ ([(.add, fun a b => a + b), (.sub, fun a b => a - b), (.mul, fun a b => a * b),
        (.mulh, fun a b => (a.signExtend 128 * b.signExtend 128).extractLsb' 64 64),
        (.mulhu, fun a b => (a.setWidth 128 * b.setWidth 128).extractLsb' 64 64),
        (.div, fun a b => if b = 0 then BitVec.allOnes 64 else a.sdiv b),
        (.divu, fun a b => if b = 0 then BitVec.allOnes 64 else a / b),
        (.rem, fun a b => if b = 0 then a else a.srem b),
        (.remu, fun a b => if b = 0 then a else a % b),
        (.and, fun a b => a &&& b), (.or, fun a b => a ||| b), (.xor, fun a b => a ^^^ b), (.andn, fun a b => a &&& ~~~b),
        (.shl, fun a b => a <<< (b.toNat % 64)), (.shr, fun a b => a >>> (b.toNat % 64)),
        (.sar, fun a b => a.sshiftRight (b.toNat % 64)), (.rol, fun a b => a <<< (b.toNat % 64) ||| a >>> ((64 - b.toNat % 64) % 64)),
        (.min, fun a b => if a.toInt ≤ b.toInt then a else b), (.max, fun a b => if b.toInt ≤ a.toInt then a else b),
        (.minu, fun a b => if a.toNat ≤ b.toNat then a else b), (.maxu, fun a b => if b.toNat ≤ a.toNat then a else b)] :
        List ((Hdr → FmtRR → Instr) × (Word → Word → Word))),
      exec (e.1 h o) s = .next (s1.after h (fun c =>
        let ra := c.readS o.a
        let rb := ra.2.readS o.b
        rb.2.writeS o.d (e.2 ra.1 rb.1)))

/-- The integer instructions of one source: the move and the counts of leading zeros, trailing zeros and ones; and those with an immediate: IMM is
sign-extended for `addi` and `movi`, its low six bits are the distance of a shift, and `movhi` puts it above the low half of A. `bfx` takes LEN bits
of A from POS, zero-extended; `bfi` puts the low LEN bits of B at POS of A and keeps A's other bits (R280). -/
def Obligations.UnaryResults : Prop :=
  ((∀ (h : Hdr) (o : FmtRR) (s s1 : State), Issues h s .normal [o.a] [o.d] s1 →
        ∃ clz ctz popc : Word → Word,
          (∀ a i,
            (a = 0 → clz a = 64 ∧ ctz a = 64) ∧
            (i < 64 → a.getLsbD i = true → (∀ j, i < j → a.getLsbD j = false) → (clz a).toNat = 63 - i) ∧
            (a.getLsbD i = true → (∀ j, j < i → a.getLsbD j = false) → (ctz a).toNat = i) ∧
            (popc a).toNat = ((List.range 64).filter a.getLsbD).length) ∧
          ∀ e ∈ ([(.mov, fun a => a), (.clz, clz), (.ctz, ctz), (.popc, popc)] : List ((Hdr → FmtRR → Instr) × (Word → Word))),
            exec (e.1 h o) s = .next (s1.after h (fun c => let ra := c.readS o.a; ra.2.writeS o.d (e.2 ra.1)))) ∧
    (∀ (h : Hdr) (o : FmtI) (s s1 : State),
        (Issues h s .normal [o.a] [o.d] s1 →
          ∀ e ∈ ([(.addi, fun a => a + o.imm.signExtend 64), (.shlI, fun a => a <<< (o.imm.toNat % 64)),
              (.shrI, fun a => a >>> (o.imm.toNat % 64)), (.sarI, fun a => a.sshiftRight (o.imm.toNat % 64)),
              (.rolI, fun a => a <<< (o.imm.toNat % 64) ||| a >>> ((64 - o.imm.toNat % 64) % 64)),
              (.movhi, fun a => o.imm ++ a.extractLsb' 0 32)] : List ((Hdr → FmtI → Instr) × (Word → Word))),
            exec (e.1 h o) s = .next (s1.after h (fun c => let ra := c.readS o.a; ra.2.writeS o.d (e.2 ra.1)))) ∧
        (Issues h s .normal [] [o.d] s1 →
          exec (.movi h o) s = .next (s1.after h (fun c => c.writeS o.d (o.imm.signExtend 64)))))) ∧
  (∀ (h : Hdr) (o : FmtBF) (s s1 : State), (Instr.bfx h o).wf = true → Issues h s .normal [o.a] [o.d] s1 →
      ∃ fx : Word → Word, exec (.bfx h o) s = .next (s1.after h (fun c => let ra := c.readS o.a; ra.2.writeS o.d (fx ra.1))) ∧
        ∀ a i, i < 64 → (fx a).getLsbD i = (decide (i < o.len.toNat) && a.getLsbD (o.pos.toNat + i))) ∧
  (∀ (h : Hdr) (o : FmtBF) (s s1 : State), (Instr.bfi h o).wf = true → Issues h s .normal [o.a, o.b] [o.d] s1 →
      ∃ fi : Word → Word → Word,
        exec (.bfi h o) s = .next (s1.after h (fun c =>
          let ra := c.readS o.a
          let rb := ra.2.readS o.b
          rb.2.writeS o.d (fi ra.1 rb.1))) ∧
        ∀ a b i, i < 64 → (fi a b).getLsbD i =
          (if o.pos.toNat ≤ i ∧ i < o.pos.toNat + o.len.toNat then b.getLsbD (i - o.pos.toNat) else a.getLsbD i))

/-- The conditions of a compare: equal, different, the four signed orders and the four unsigned orders; the predicate that D names takes the truth
of the test, and nothing is written where D is `p0`, which always reads true. `sel` takes A where PSEL is true and B where it is not. `pand`, `por`
and `pnot` write the predicate D with the conjunction, disjunction and negation of predicates (R281). `fmin` and `fmax` give one operand's own bits,
-0 below +0, A's for two equal values of one sign, the other operand for a NaN and the canonical NaN for two; `fcmp` writes the predicate; none of the
three sets a flag. -/
def Obligations.Compares : Prop :=
  (∀ (h : Hdr) (s s1 : State),
      ∃ test : BitVec 4 → Word → Word → Bool,
        (∀ a b, test 0 a b = decide (a = b) ∧ test 1 a b = decide (a ≠ b) ∧ test 2 a b = decide (a.toInt < b.toInt) ∧
          test 3 a b = decide (b.toInt ≤ a.toInt) ∧ test 4 a b = decide (a.toInt ≤ b.toInt) ∧ test 5 a b = decide (b.toInt < a.toInt) ∧
          test 6 a b = decide (a.toNat < b.toNat) ∧ test 7 a b = decide (b.toNat ≤ a.toNat) ∧ test 8 a b = decide (a.toNat ≤ b.toNat) ∧
          test 9 a b = decide (b.toNat < a.toNat)) ∧
        (∀ o : FmtC, (Instr.cmp h o).wf = true → Issues h s .normal [o.a, o.b] [o.d] s1 →
          exec (.cmp h o) s = .next (s1.after h (fun c =>
            let ra := c.readS o.a
            let rb := ra.2.readS o.b
            rb.2.writePO o.d (test o.cond ra.1 rb.1)))) ∧
        (∀ o : FmtCI, (Instr.cmpi h o).wf = true → Issues h s .normal [o.a] [o.d] s1 →
          exec (.cmpi h o) s = .next (s1.after h (fun c =>
            let ra := c.readS o.a
            ra.2.writePO o.d (test o.cond ra.1 (o.imm.signExtend 64))))) ∧
        (∀ o : FmtRR, Issues h s .normal [o.a, o.b] [o.d] s1 →
          exec (.sel h o) s = .next (s1.after h (fun c =>
            let ra := c.readS o.a
            let rb := ra.2.readS o.b
            rb.2.writeS o.d (if c.getP o.psel.toNat then ra.1 else rb.1)))) ∧
        (∀ (c : Ctx) (n m : Nat) (b : Bool), n < 8 → m < 8 → c.getP 0 = true ∧
          (c.writeP n b).getP m = (if m = n ∧ n ≠ 0 then b else c.getP m)) ∧
        (∀ o : FmtRR, Issues h s .normal [] [] s1 →
          exec (.pand h o) s = .next (s1.after h (fun c => c.writePO o.d (c.readP o.a && c.readP o.b))) ∧
          exec (.por h o) s = .next (s1.after h (fun c => c.writePO o.d (c.readP o.a || c.readP o.b))) ∧
          exec (.pnot h o) s = .next (s1.after h (fun c => c.writePO o.d (!c.readP o.a))))) ∧
  (∀ (h : Hdr) (o : FmtF) (s s1 : State), Issues h s .normal [o.a, o.b] [o.d] s1 →
      ∃ (mn mx : Nat → Nat → Nat) (test : Nat → Nat → Bool),
        (∀ a b, a < 2 ^ fmtBits o.fmt.toNat → b < 2 ^ fmtBits o.fmt.toNat →
          let va := decodeF o.fmt.toNat a
          let vb := decodeF o.fmt.toNat b
          (va = .nan → vb = .nan → mn a b = fmtNaN o.fmt.toNat ∧ mx a b = fmtNaN o.fmt.toNat) ∧
          (va = .nan → vb ≠ .nan → mn a b = b ∧ mx a b = b) ∧ (va ≠ .nan → vb = .nan → mn a b = a ∧ mx a b = a) ∧
          (fcmpV va vb = some .lt → mn a b = a ∧ mx a b = b) ∧ (fcmpV va vb = some .gt → mn a b = b ∧ mx a b = a) ∧
          (∀ e d, va = .fin true 0 e → vb = .fin false 0 d → mn a b = a ∧ mx a b = b) ∧
          (∀ e d, va = .fin false 0 e → vb = .fin true 0 d → mn a b = b ∧ mx a b = a) ∧
          (fcmpV va vb = some .eq → va.isNeg = vb.isNeg → mn a b = a ∧ mx a b = a) ∧
          (fcmpV va vb = none ↔ va = .nan ∨ vb = .nan) ∧
          (o.fcond = 0 → (test a b = true ↔ fcmpV va vb = some .eq)) ∧ (o.fcond = 1 → (test a b = true ↔ fcmpV va vb ≠ some .eq)) ∧
          (o.fcond = 2 → (test a b = true ↔ fcmpV va vb = some .lt)) ∧ (o.fcond = 4 → (test a b = true ↔ fcmpV va vb = some .gt)) ∧
          (o.fcond = 3 → (test a b = true ↔ fcmpV va vb = some .lt ∨ fcmpV va vb = some .eq)) ∧
          (o.fcond = 5 → (test a b = true ↔ fcmpV va vb = some .gt ∨ fcmpV va vb = some .eq)) ∧
          (o.fcond = 6 → (test a b = true ↔ fcmpV va vb = none)) ∧ (o.fcond = 7 → (test a b = true ↔ fcmpV va vb ≠ none))) ∧
        (∀ e ∈ ([(.fmin, mn), (.fmax, mx)] : List ((Hdr → FmtF → Instr) × (Nat → Nat → Nat))),
          exec (e.1 h o) s = .next (s1.after h (fun c =>
            let ra := c.readS o.a
            let rb := ra.2.readS o.b
            rb.2.writeS o.d (BitVec.ofNat 64 (e.2 (ra.1.toNat % 2 ^ fmtBits o.fmt.toNat) (rb.1.toNat % 2 ^ fmtBits o.fmt.toNat)))))) ∧
        exec (.fcmp h o) s = .next (s1.after h (fun c =>
          let ra := c.readS o.a
          let rb := ra.2.readS o.b
          rb.2.writePO o.d (test (ra.1.toNat % 2 ^ fmtBits o.fmt.toNat) (rb.1.toNat % 2 ^ fmtBits o.fmt.toNat)))))

/-! ## Capabilities (R14-R20, R282-R287) -/

/-- `cset`, `cinc`: the address moves, the metadata stays, and the tags stay set only where they were set and the new address lies in the
representable region; `cperm`: the permissions are cut down by the mask; `cseal`: seal type 0, and seal type 15 at user level, raise the
illegal-instruction trap, a tagged source needs execute permission and a block address, otherwise the result is the source with its seal
type; `cclr`: the tags clear. A tagged source that is malformed or sealed faults and writes nothing, and no other source does. -/
def Obligations.CapabilityResults : Prop :=
  (∀ (h : Hdr) (o : FmtCAP) (s s1 : State), Issues h s .normal (pairOps o.a ++ [o.b]) [o.d] s1 →
      let a := s1.me.readPair o.a
      (∀ mk ∈ ([.cset, .cinc, .cbnd, .cbndX, .cperm] : List (Hdr → FmtCAP → Instr)), a.tag = true →
        (mdMalformed a.md = true → exec (mk h o) s = .next (s1.fault s.cur h 1 7 a.addr)) ∧
        (mdMalformed a.md = false → mdSeal a.md ≠ 0 → exec (mk h o) s = .next (s1.fault s.cur h 1 2 a.addr))) ∧
      ((a.tag = true → mdMalformed a.md = false ∧ mdSeal a.md = 0) →
        (∀ e ∈ ([(.cset, fun b => b), (.cinc, fun b => a.addr + b)] : List ((Hdr → FmtCAP → Instr) × (Word → Word))),
          exec (e.1 h o) s = .next (s1.after h (fun c =>
            let rb := c.readS o.b
            rb.2.writePair (opNum o.d) ⟨e.2 rb.1, a.md, a.tag && capRepresentable a.addr a.md (e.2 rb.1)⟩))) ∧
        exec (.cperm h o) s = .next (s1.after h (fun c =>
          let rb := c.readS o.b
          rb.2.writePair (opNum o.d) ⟨a.addr, (a.md.extractLsb' 52 12 &&& o.perm) ++ a.md.extractLsb' 0 52, a.tag⟩)) ∧
        (∀ e ∈ ([(.cbnd, false), (.cbndX, true)] : List ((Hdr → FmtCAP → Instr) × Bool)),
          exec (e.1 h o) s = .next (s1.after h (fun c =>
            let rb := c.readS o.b
            let r := boundCap a rb.1 e.2
            { rb.2 with inex := r.2 }.writePair (opNum o.d) r.1))))) ∧
  (∀ (h : Hdr) (o : FmtCAP) (s s1 : State), Issues h s .normal (pairOps o.a) [o.d] s1 →
      let a := s1.me.readPair o.a
      ((o.sealTy = 0 ∨ (o.sealTy = 15 ∧ s.me.level = .user)) → exec (.cseal h o) s = .next (s1.fault s.cur h 5 0 s1.me.slotVal)) ∧
      (o.sealTy ≠ 0 → (o.sealTy ≠ 15 ∨ s.me.level ≠ .user) → a.tag = true →
        (mdMalformed a.md = true → exec (.cseal h o) s = .next (s1.fault s.cur h 1 7 a.addr)) ∧
        (mdMalformed a.md = false → mdSeal a.md ≠ 0 → exec (.cseal h o) s = .next (s1.fault s.cur h 1 2 a.addr))) ∧
      (o.sealTy ≠ 0 → (o.sealTy ≠ 15 ∨ s.me.level ≠ .user) →
        (a.tag = true → mdMalformed a.md = false ∧ mdSeal a.md = 0) →
        (a.tag = true → (a.md.getLsbD 61 = false ∨ a.addr.toNat % 64 ≠ 0) → exec (.cseal h o) s = .next (s1.fault s.cur h 1 3 a.addr)) ∧
        ((a.tag = true → a.md.getLsbD 61 = true ∧ a.addr.toNat % 64 = 0) →
          exec (.cseal h o) s = .next (s1.after h (fun c => c.writePair (opNum o.d)
            ⟨a.addr, a.md.extractLsb' 52 12 ++ o.sealTy ++ a.md.extractLsb' 0 48, a.tag⟩)))) ∧
      exec (.cclr h o) s = .next (s1.after h (fun c => c.writePair (opNum o.d) ⟨a.addr, a.md, false⟩)))

/-- What `cbnd` and `cbnd.x` make of a source and a length: the address stays, the permissions and the seal stay, and a result that keeps
its tag has bounds that cover the request, exceed it only where INEX says so, and lie inside the source's bounds. `cbnd.x` keeps the tag
only for exact bounds. -/
def Obligations.BoundsCoverRequest : Prop :=
  ∀ (a : Cap) (len : Word) (exact : Bool),
    let r := boundCap a len exact
    r.1.addr = a.addr ∧ mdPerm r.1.md = mdPerm a.md ∧ mdSeal r.1.md = mdSeal a.md ∧
    (r.1.tag = true →
      a.tag = true ∧ capBase r.1.addr r.1.md ≤ (a.addr.toNat : Int) ∧ ((a.addr.toNat + len.toNat : Nat) : Int) ≤ capTop r.1.addr r.1.md ∧
      capBase a.addr a.md ≤ capBase r.1.addr r.1.md ∧ capTop r.1.addr r.1.md ≤ capTop a.addr a.md ∧
      (r.2 = false ↔ capBase r.1.addr r.1.md = (a.addr.toNat : Int) ∧ capTop r.1.addr r.1.md = ((a.addr.toNat + len.toNat : Nat) : Int)) ∧
      (exact = true → r.2 = false))

/-- `cget` reads the field that SEL names: address, base, top, length, permissions, seal type, exponent, tag, metadata. A top or a length of
2^64 reads all ones, and the base and the top of an invalid capability read modulo 2^64. `ctag` tests the tag, soundness, or an access. -/
def Obligations.CapabilityReads : Prop :=
  ∀ (h : Hdr) (o : FmtCAP) (s s1 : State),
    (Issues h s .normal (pairOps o.a) [o.d] s1 →
      ∃ f : Cap → Word,
        (∀ a, (o.sel = 0 → f a = a.addr) ∧
          (o.sel = 1 → capValid a.addr a.md = true → ((f a).toNat : Int) = capBase a.addr a.md) ∧
          (o.sel = 2 → capValid a.addr a.md = true → capTop a.addr a.md < 2 ^ 64 → ((f a).toNat : Int) = capTop a.addr a.md) ∧
          (o.sel = 2 → capValid a.addr a.md = true → capTop a.addr a.md = 2 ^ 64 → f a = BitVec.allOnes 64) ∧
          (o.sel = 1 → capValid a.addr a.md = false → f a = BitVec.ofInt 64 (capBase a.addr a.md)) ∧
          (o.sel = 2 → capValid a.addr a.md = false → f a = BitVec.ofInt 64 (capTop a.addr a.md)) ∧
          (o.sel = 3 → capTop a.addr a.md - capBase a.addr a.md < 2 ^ 64 → ((f a).toNat : Int) = capTop a.addr a.md - capBase a.addr a.md) ∧
          (o.sel = 3 → capTop a.addr a.md - capBase a.addr a.md = 2 ^ 64 → f a = BitVec.allOnes 64) ∧
          (o.sel = 4 → f a = (a.md.extractLsb' 52 12).setWidth 64) ∧ (o.sel = 5 → f a = (a.md.extractLsb' 48 4).setWidth 64) ∧
          (o.sel = 6 → f a = (a.md.extractLsb' 42 6).setWidth 64) ∧ (o.sel = 7 → f a = if a.tag then 1 else 0) ∧
          (o.sel = 8 → f a = a.md)) ∧
        exec (.cget h o) s = .next (s1.after h (fun c => c.writeS o.d (f (c.readPair o.a))))) ∧
    (Issues h s .normal (pairOps o.a ++ [o.b]) [o.d] s1 →
      ∃ f : Cap → Word → Bool,
        (∀ a len,
          let sound := a.tag = true ∧ mdMalformed a.md = false ∧ mdSeal a.md = 0 ∧ capValid a.addr a.md = true
          (o.sel = 0 → f a len = a.tag) ∧ (o.sel = 1 → (f a len = true ↔ sound)) ∧
          (o.sel = 2 → (f a len = true ↔ sound ∧ a.md.extractLsb' 52 12 &&& o.perm = o.perm ∧
            capBase a.addr a.md ≤ (a.addr.toNat : Int) ∧ ((a.addr.toNat + len.toNat : Nat) : Int) ≤ capTop a.addr a.md))) ∧
        exec (.ctag h o) s = .next (s1.after h (fun c =>
          let rb := c.readS o.b
          rb.2.writePO o.d (f (c.readPair o.a) rb.1))))

/-- No instruction of the capability group widens a capability: after it, the destination pair holds what it held, or a capability that is
tagged only if the source was, with no permission that the source lacks and with bounds inside the source's. -/
def Obligations.CapabilityMonotone : Prop :=
  ∀ (h : Hdr) (o : FmtCAP) (s s1 t : State),
    ∀ mk ∈ ([.cset, .cinc, .cbnd, .cbndX, .cperm, .cseal, .cclr] : List (Hdr → FmtCAP → Instr)),
      (mk h o).wf = true → Issues h s .normal (pairOps o.a ++ [o.b]) [o.d] s1 →
      exec (mk h o) s = .next t →
      let a := s1.me.readPair o.a
      let r := t.me.getPair (opNum o.d)
      r = s.me.getPair (opNum o.d) ∨
        (r.tag = true → a.tag = true ∧ mdPerm r.md &&& mdPerm a.md = mdPerm r.md ∧ capBase a.addr a.md ≤ capBase r.addr r.md ∧
          capTop r.addr r.md ≤ capTop a.addr a.md)

/-! ## Numbers (R165-R171) and scalar floating point (R288-R291) -/

/-- A finite value that a format holds is left as it is, with no flag, by rounding into the format, in every rounding mode. Rounding to nearest
gives the nearest value of the format: where the result is finite, no finite value of the format lies closer; and of two values that lie equally
close, where the exact value is between them, it gives the one whose pattern is even. -/
def Obligations.RoundsToNearest : Prop :=
  (∀ (f raw rnd : Nat) (sat : Bool), 7 ≤ f → f ≤ 13 → raw < 2 ^ fmtBits f → rnd < 4 →
      ∀ neg m e, decodeF f raw = .fin neg m e → toF f rnd sat (.fin neg m e) = ⟨raw, 0⟩) ∧
  (∀ (f : Nat) (neg : Bool) (m : Nat) (e : Int), 7 ≤ f → f ≤ 12 → m ≠ 0 →
      let val : Bool → Nat → Int → ℚ := fun n k x => (if n then -(k : ℚ) else k) * (2 : ℚ) ^ x
      ∀ n k x, decodeF f (toF f 0 false (.fin neg m e)).raw = .fin n k x →
        ∀ p n' k' x', decodeF f p = .fin n' k' x' → |val n k x - val neg m e| ≤ |val n' k' x' - val neg m e| ∧
          (p < 2 ^ fmtBits f → val n' k' x' ≠ val n k x → |val n k x - val neg m e| = |val n' k' x' - val neg m e| →
            (toF f 0 false (.fin neg m e)).raw % 2 = 0))

/-- A NaN operand gives the canonical NaN of the format and no flag; opposite infinities added, and an infinity times zero, give the canonical
NaN and FSTAT.IV; a finite nonzero value over zero gives an infinity and FSTAT.DZ, with the saturation flag or without. The scalar
floating-point instructions retire with D holding the exact result rounded once, in the bits of the format with zeros above them, and with the
flags that the result sets joined to FSTAT, where they stick. The model's reading: that a division by zero gives an infinity with the saturation flag
too (log entry 21), and that an infinity times zero sets IV whatever the addend of `ffma` (log entry 22). -/
def Obligations.FpResults : Prop :=
  (∀ (f rnd : Nat) (sat : Bool), 7 ≤ f → f ≤ 12 →
      (∀ b, faddF f rnd sat .nan b = ⟨fmtNaN f, 0⟩ ∧ faddF f rnd sat b .nan = ⟨fmtNaN f, 0⟩ ∧ fmulF f rnd sat .nan b = ⟨fmtNaN f, 0⟩ ∧
        fmulF f rnd sat b .nan = ⟨fmtNaN f, 0⟩ ∧ fdivF f rnd sat .nan b = ⟨fmtNaN f, 0⟩ ∧ fdivF f rnd sat b .nan = ⟨fmtNaN f, 0⟩) ∧
      (∀ s e, faddF f rnd sat (.inf s) (.inf !s) = ⟨fmtNaN f, 1⟩ ∧ fmulF f rnd sat (.inf s) (.fin false 0 e) = ⟨fmtNaN f, 1⟩ ∧
        fdivF f rnd sat (.inf s) (.inf s) = ⟨fmtNaN f, 1⟩) ∧
      (∀ m n e d, m ≠ 0 → f ≠ 11 → (fdivF f rnd sat (.fin n m e) (.fin false 0 d)) =
        ⟨(if n then 2 ^ (fmtBits f - 1) else 0) + (2 ^ fmtExp f - 1) * 2 ^ fmtMan f, 2⟩)) ∧
  (∀ (h : Hdr) (o : FmtF) (s s1 : State),
      (Issues h s .normal [o.a, o.b] [o.d] s1 →
        ∀ e ∈ ([(.fadd, faddF), (.fsub, fun f r t a b => faddF f r t a b.neg), (.fmul, fmulF), (.fdiv, fdivF)] :
            List ((Hdr → FmtF → Instr) × (Nat → Nat → Bool → FVal → FVal → FRes))),
          exec (e.1 h o) s = .next (s1.after h (fun c =>
            let ra := c.readS o.a
            let rb := ra.2.readS o.b
            let f := o.fmt.toNat
            let r := e.2 f o.rnd.toNat o.sat (decodeF f ra.1.toNat) (decodeF f rb.1.toNat)
            let w := rb.2.writeS o.d (BitVec.ofNat 64 r.raw)
            { w with fstat := w.fstat ||| r.flags }))) ∧
      (Issues h s .normal [o.a, o.b, o.d] [o.d] s1 →
        exec (.ffma h o) s = .next (s1.after h (fun c =>
          let ra := c.readS o.a
          let rb := ra.2.readS o.b
          let f := o.fmt.toNat
          let p := fmulV (decodeF f ra.1.toNat) (decodeF f rb.1.toNat)
          let t := fsumV o.rnd.toNat [p.1, decodeF f (c.getX (opNum o.d)).val.toNat]
          let r := toF f o.rnd.toNat o.sat t.1
          let w := rb.2.writeS o.d (BitVec.ofNat 64 r.raw)
          { w with fstat := w.fstat ||| (r.flags ||| (if p.2 || t.2 then 1 else 0)) }))) ∧
      (Issues h s .normal [o.a] [o.d] s1 →
        exec (.fsqrt h o) s = .next (s1.after h (fun c =>
          let ra := c.readS o.a
          let r := fsqrtF o.fmt.toNat o.rnd.toNat o.sat (decodeF o.fmt.toNat ra.1.toNat)
          let w := ra.2.writeS o.d (BitVec.ofNat 64 r.raw)
          { w with fstat := w.fstat ||| r.flags })) ∧
        exec (.fexp2 h o) s = .next (s1.after h (fun c =>
          let ra := c.readS o.a
          let r := exp2F (ra.1.extractLsb' 0 32)
          let w := ra.2.writeS o.d (BitVec.ofNat 64 r.raw)
          { w with fstat := w.fstat ||| r.flags })) ∧
        exec (.fcvt h o) s = .next (s1.after h (fun c =>
          let ra := c.readS o.a
          let r := convert o.fmt.toNat o.fmt2.toNat o.rnd.toNat o.sat ra.1.toNat
          let w := ra.2.writeS o.d (if o.fmt.toNat ≤ 6 ∧ o.fmt ≠ 1 ∧ o.fmt ≠ 6 then BitVec.ofInt 64 (decodeI o.fmt.toNat r.raw)
            else BitVec.ofNat 64 r.raw)
          { w with fstat := w.fstat ||| r.flags }))))

/-! ## Vectors (R315-R348) -/

/-- How an elementwise result lies in its register: an enabled lane takes the value in the bits of the selected value and keeps its other bits, a
disabled lane keeps all its bits, and no lane moves another. The elementwise instructions of two sources: every enabled lane takes the result of its
two values, rounded once, the rest of the register is kept, and the flags of the enabled lanes alone join FSTAT. A scalar B serves every lane. The
integer lane instructions give the exact sum, difference or product modulo 2^w, or clamped to the format's range under SAT, which then sets
FSTAT.SAT where it clamps and no other flag. -/
def Obligations.VectorResults : Prop :=
  (∀ (old : Line) (on : Nat → Bool) (w j : Nat) (f : Nat → Nat) (l i : Nat), l < 32 → i < 32 → w * j + w ≤ 32 →
      (lane (putLanes old on w j f) l).getLsbD i =
        (if on l = true ∧ w * j ≤ i ∧ i < w * j + w then (f l).testBit (i - w * j) else (lane old l).getLsbD i)) ∧
  ((∀ (h : Hdr) (o : FmtV) (s s1 : State), Issues h s .normal [o.a, o.b] [o.d] s1 →
        ∀ e ∈ ([(.vadd, fun f r t a b => faddF f r t (decodeF f a) (decodeF f b)),
            (.vsub, fun f r t a b => faddF f r t (decodeF f a) (decodeF f b).neg),
            (.vmul, fun f r t a b => fmulF f r t (decodeF f a) (decodeF f b)),
            (.vand, fun _ _ _ a b => ⟨a &&& b, 0⟩), (.vor, fun _ _ _ a b => ⟨a ||| b, 0⟩), (.vxor, fun _ _ _ a b => ⟨a ^^^ b, 0⟩),
            (.vmin, fun f _ _ a b => ⟨if f ≤ 6 then (if decodeI f b < decodeI f a then b else a) else fminmax f false a b, 0⟩),
            (.vmax, fun f _ _ a b => ⟨if f ≤ 6 then (if decodeI f a < decodeI f b then b else a) else fminmax f true a b, 0⟩)] :
            List ((Hdr → FmtV → Instr) × (Nat → Nat → Bool → Nat → Nat → FRes))),
          exec (e.1 h o) s = .next (s1.after h (fun c =>
            let w := fmtBits o.fmt.toNat
            let ra := c.readV o.a
            let rb := vsRead ra.2 o.b w o.selb.toNat
            let res := fun l => e.2 o.fmt.toNat o.rnd.toNat o.sat (valAt ra.1 w l o.sela.toNat) (rb.1 l)
            let t := rb.2.writeVO o.d (putLanes (vOld c o.d) (laneOn c o) w o.seld.toNat (fun l => (res l).raw))
            { t with fstat := t.fstat ||| (List.range 32).foldl (fun acc l => if laneOn c o l then acc ||| (res l).flags else acc) 0 }))) ∧
    (∀ (h : Hdr) (o : FmtV) (s s1 : State), o.fmt.toNat ≤ 6 → Issues h s .normal [o.a, o.b] [o.d] s1 →
        ∀ e ∈ ([(.viadd, fun a b => a + b), (.visub, fun a b => a - b), (.vimul, fun a b => a * b)] :
            List ((Hdr → FmtV → Instr) × (Int → Int → Int))),
          exec (e.1 h o) s = .next (s1.after h (fun c =>
            let f := o.fmt.toNat
            let w := fmtBits f
            let ra := c.readV o.a
            let rb := vsRead ra.2 o.b w o.selb.toNat
            let lo : Int := if f = 1 ∨ f = 6 then 0 else -(2 ^ (w - 1))
            let hi : Int := if f = 1 ∨ f = 6 then 2 ^ w - 1 else 2 ^ (w - 1) - 1
            let exact := fun l => e.2 (decodeI f (valAt ra.1 w l o.sela.toNat)) (decodeI f (rb.1 l))
            let t := rb.2.writeVO o.d (putLanes (vOld c o.d) (laneOn c o) w o.seld.toNat (fun l =>
              let v := if o.sat then max lo (min hi (exact l)) else exact l
              (v % 2 ^ w).toNat))
            let clamped := o.sat && (List.range 32).any (fun l => laneOn c o l && (decide (exact l < lo) || decide (hi < exact l)))
            { t with fstat := t.fstat ||| (if clamped then 32 else 0) }))))

/-- `vfma`, `vdot4`, `vabs`, `vdeq`, `vcvt` and the approximations: what each enabled lane takes, and the flags of the enabled lanes; `vabs` of an
unsigned value is the value. That an infinity times zero sets IV beside any addend, in `vfma` and `vdot4`, is the model's reading (log entry 22). -/
def Obligations.VectorFusedResults : Prop :=
  ∀ (h : Hdr) (o : FmtV) (s s1 : State),
    let put : Ctx → Ctx → Nat → Nat → (Nat → FRes) → Ctx := fun c d w j res =>
      let t := d.writeVO o.d (putLanes (vOld c o.d) (laneOn c o) w j (fun l => (res l).raw))
      { t with fstat := t.fstat ||| (List.range 32).foldl (fun acc l => if laneOn c o l then acc ||| (res l).flags else acc) 0 }
    let w := fmtBits o.fmt.toNat
    let f := o.fmt.toNat
    (Issues h s .normal [o.a, o.b, o.d] [o.d] s1 →
      exec (.vfma h o) s = .next (s1.after h (fun c =>
        let ra := c.readV o.a
        let rb := vsRead ra.2 o.b w o.selb.toNat
        put c rb.2 w o.seld.toNat (fun l =>
          let p := fmulV (decodeF f (valAt ra.1 w l o.sela.toNat)) (decodeF f (rb.1 l))
          let t := fsumV o.rnd.toNat [p.1, decodeF f (valAt (vOld c o.d) w l o.seld.toNat)]
          (toF f o.rnd.toNat o.sat t.1).orFlags (if p.2 || t.2 then 1 else 0)))) ∧
      (f ≤ 6 → exec (.vdot4 h o) s = .next (s1.after h (fun c =>
        let ra := c.readV o.a
        let rb := ra.2.readV o.b
        put c rb.2 32 0 (fun l =>
          let byte := fun (v : Line) (j : Nat) => v.toNat / 2 ^ (32 * l + 8 * j) % 256
          let prod := fun j => decodeI f (byte ra.1 j) * decodeI o.fmt2.toNat (byte rb.1 j)
          let sum := (lane (vOld c o.d) l).toInt + prod 0 + prod 1 + prod 2 + prod 3
          let v := if o.sat then max (-(2 ^ 31)) (min (2 ^ 31 - 1) sum) else sum
          ⟨(v % 2 ^ 32).toNat, if o.sat = true ∧ v ≠ sum then 32 else 0⟩)))) ∧
      (6 < f → exec (.vdot4 h o) s = .next (s1.after h (fun c =>
        let ra := c.readV o.a
        let rb := ra.2.readV o.b
        put c rb.2 32 0 (fun l => dot4Lane o (lane (vOld c o.d) l).toNat (lane ra.1 l).toNat (lane rb.1 l).toNat))))) ∧
    (Issues h s .normal [o.a, o.b] [o.d] s1 →
      exec (.vdeq h o) s = .next (s1.after h (fun c =>
        let ra := c.readV o.a
        let rb := vsRead ra.2 o.b 32 0
        put c rb.2 32 0 (fun l =>
          fmulF 8 o.rnd.toNat false (decodeVal f (valAt ra.1 w l o.sela.toNat)) (decodeF 8 (rb.1 l)))))) ∧
    (Issues h s .normal [o.a] [o.d] s1 →
      (6 < f → exec (.vabs h o) s = .next (s1.after h (fun c =>
        let ra := c.readV o.a
        put c ra.2 w o.seld.toNat (fun l =>
          let a := valAt ra.1 w l o.sela.toNat
          ⟨if decodeF f a = .nan then fmtNaN f else a % 2 ^ (w - 1), 0⟩)))) ∧
      (f ≤ 6 → f ≠ 1 → f ≠ 6 → exec (.vabs h o) s = .next (s1.after h (fun c =>
        let ra := c.readV o.a
        put c ra.2 w o.seld.toNat (fun l =>
          let i := decodeI f (valAt ra.1 w l o.sela.toNat)
          if o.sat = true ∧ i = -(2 ^ (w - 1)) then ⟨2 ^ (w - 1) - 1, 32⟩ else ⟨i.natAbs, 0⟩)))) ∧
      ((f = 1 ∨ f = 6) → exec (.vabs h o) s = .next (s1.after h (fun c =>
        let ra := c.readV o.a
        put c ra.2 w o.seld.toNat (fun l => ⟨valAt ra.1 w l o.sela.toNat, 0⟩)))) ∧
      (o.vimm = 0 → exec (.vcvt h o) s = .next (s1.after h (fun c =>
        let ra := c.readV o.a
        put c ra.2 32 0 (fun l => convert o.fmt2.toNat f o.rnd.toNat o.sat (valAt ra.1 w l o.sela.toNat))))) ∧
      (o.vimm ≠ 0 → exec (.vcvt h o) s = .next (s1.after h (fun c =>
        let ra := c.readV o.a
        put c ra.2 w o.seld.toNat (fun l => convert f o.fmt2.toNat o.rnd.toNat o.sat (lane ra.1 l).toNat)))) ∧
      (o.fmt = 8 → o.sela = 0 → ∀ e ∈ ([(.vexp2, exp2F), (.vrcp, rcpF), (.vrsq, rsqF)] :
          List ((Hdr → FmtV → Instr) × (BitVec 32 → FRes))),
        exec (e.1 h o) s = .next (s1.after h (fun c =>
          let ra := c.readV o.a
          put c ra.2 32 o.seld.toNat (fun l => e.2 (lane ra.1 l))))))

/-- `vcmp`, `vsel`, the shifts and the order keys. A shift's distance is B, a whole scalar, or a lane's value of a vector or of the entry of a
load-data queue, plus VIMM; a distance of the value's width or more gives zeros, or the sign. Keys order as signed numbers as their values
order, a NaN's lies below every other, and `vunord` undoes `vordkey`. -/
def Obligations.VectorCompareShift : Prop :=
  ∀ (h : Hdr) (o : FmtV) (s s1 : State),
    let w := fmtBits o.fmt.toNat
    let f := o.fmt.toNat
    (Issues h s .normal [o.a, o.b] [o.d] s1 →
      (∃ (test : Nat → Nat → Bool) (mask : Ctx → BitVec 32),
        (∀ a b, f ≤ 6 → w ≤ 32 → a < 2 ^ w → b < 2 ^ w →
          (o.vimm = 0 → (test a b = true ↔ a = b)) ∧ (o.vimm = 1 → (test a b = true ↔ a ≠ b)) ∧
          (o.vimm = 2 → (test a b = true ↔ sext w a < sext w b)) ∧ (o.vimm = 3 → (test a b = true ↔ sext w b ≤ sext w a)) ∧
          (o.vimm = 4 → (test a b = true ↔ sext w a ≤ sext w b)) ∧ (o.vimm = 5 → (test a b = true ↔ sext w b < sext w a)) ∧
          (o.vimm = 6 → (test a b = true ↔ a < b)) ∧ (o.vimm = 7 → (test a b = true ↔ b ≤ a)) ∧
          (o.vimm = 8 → (test a b = true ↔ a ≤ b)) ∧ (o.vimm = 9 → (test a b = true ↔ b < a))) ∧
        (∀ a b, 6 < f → test a b = fcond o.vimm.toNat (fcmpV (decodeF f a) (decodeF f b))) ∧
        (∀ c l, l < 32 → (mask c).getLsbD l =
          (let ra := c.readV o.a
           let rb := vsRead ra.2 o.b w o.selb.toNat
           if laneOn c o l then test (valAt ra.1 w l o.sela.toNat) (rb.1 l) else (c.getK (opNum o.d)).getLsbD l)) ∧
        exec (.vcmp h o) s = .next (s1.after h (fun c =>
          let ra := c.readV o.a
          (vsRead ra.2 o.b w o.selb.toNat).2.writeK (opNum o.d) (mask c)))) ∧
      exec (.vsel h o) s = .next (s1.after h (fun c =>
        let ra := c.readV o.a
        let rb := vsRead ra.2 o.b w o.selb.toNat
        rb.2.writeVO o.d (putLanes (vOld c o.d) (fun _ => true) w o.seld.toNat
          (fun l => if laneOn c o l then valAt ra.1 w l o.sela.toNat else rb.1 l)))) ∧
      (∀ e ∈ ([(.vshl, fun a n => if w ≤ n then 0 else a * 2 ^ n % 2 ^ w), (.vshr, fun a n => if w ≤ n then 0 else a / 2 ^ n),
          (.vsar, fun a n => if w ≤ n then (if 2 ^ (w - 1) ≤ a then 2 ^ w - 1 else 0) else (sext w a / 2 ^ n % 2 ^ w).toNat)] :
          List ((Hdr → FmtV → Instr) × (Nat → Nat → Nat))),
        (∀ n : Fin 64, o.b = .x n → exec (e.1 h o) s = .next (s1.after h (fun c =>
          let ra := c.readV o.a
          ra.2.writeVO o.d (putLanes (vOld c o.d) (laneOn c o) w o.seld.toNat
            (fun l => e.2 (valAt ra.1 w l o.sela.toNat) ((c.getX n.val).val.toNat + o.vimm.toNat)))))) ∧
        (∀ n : Fin 32, o.b = .v n → exec (e.1 h o) s = .next (s1.after h (fun c =>
          let ra := c.readV o.a
          ra.2.writeVO o.d (putLanes (vOld c o.d) (laneOn c o) w o.seld.toNat
            (fun l => e.2 (valAt ra.1 w l o.sela.toNat) (valAt (c.getV n.val) w l o.selb.toNat + o.vimm.toNat)))))) ∧
        (∀ q : Fin 4, o.b = .lq q → exec (e.1 h o) s = .next (s1.after h (fun c =>
          let ra := c.readV o.a
          let rb := ra.2.readV o.b
          rb.2.writeVO o.d (putLanes (vOld c o.d) (laneOn c o) w o.seld.toNat
            (fun l => e.2 (valAt ra.1 w l o.sela.toNat) (valAt rb.1 w l o.selb.toNat + o.vimm.toNat)))))))) ∧
    (Issues h s .normal [o.a] [o.d] s1 → f ∈ [8, 9, 10, 11, 12] →
      ∃ key unkey : Nat → Nat,
        (∀ a b, a < 2 ^ w → b < 2 ^ w → fcmpV (decodeF f a) (decodeF f b) = some .lt → sext w (key a) < sext w (key b)) ∧
        (∀ a b, a < 2 ^ w → b < 2 ^ w → decodeF f a = .nan → key a = 2 ^ (w - 1) ∧ (decodeF f b ≠ .nan → sext w (key a) < sext w (key b))) ∧
        (∀ a, a < 2 ^ w → decodeF f a ≠ .nan → unkey (key a) = a) ∧
        (∀ e ∈ ([(.vordkey, key), (.vunord, unkey)] : List ((Hdr → FmtV → Instr) × (Nat → Nat))),
          exec (e.1 h o) s = .next (s1.after h (fun c =>
            let ra := c.readV o.a
            ra.2.writeVO o.d (putLanes (vOld c o.d) (laneOn c o) w o.seld.toNat (fun l => e.2 (valAt ra.1 w l o.sela.toNat)))))))


/-- Permutations and movements. The byte permutations choose bytes, nibbles or sign-extended nibbles of A by the bytes of B; `vshuf` lanes of A
by the lanes of B, zero where bit 5 is set (R336); `vrot` rotates the lanes; `vbcast` spreads one value; `vins` and `vext` write and read one
lane's value, two lanes for a 64-bit format; `vlaneid` numbers the lanes (R340); `vcompress` packs the enabled lanes with zeros behind them;
`vcount` counts the enabled values that are not zero. -/
def Obligations.VectorMoves : Prop :=
  ∀ (h : Hdr) (o : FmtV) (s s1 : State),
    let w := fmtBits o.fmt.toNat
    let put : Ctx → Ctx → (Nat → Nat) → Ctx := fun c d res => d.writeVO o.d (putLanes (vOld c o.d) (laneOn c o) 32 0 res)
    (Issues h s .normal [o.a, o.b] [o.d] s1 →
      (∀ e ∈ ([(.vpermB, fun a b => if 128 ≤ b then 0 else (lineByte a b).toNat),
          (.vpermBN, fun a b => (lineByte a (b / 2)).toNat / 16 ^ (b % 2) % 16),
          (.vpermBNs, fun a b => (((lineByte a (b / 2)).extractLsb' (4 * (b % 2)) 4).signExtend 8).toNat)] :
          List ((Hdr → FmtV → Instr) × (Line → Nat → Nat))),
        exec (e.1 h o) s = .next (s1.after h (fun c =>
          let ra := c.readV o.a
          let rb := ra.2.readV o.b
          let byte := fun i => e.2 ra.1 (lineByte rb.1 i).toNat
          put c rb.2 (fun l => byte (4 * l) + 256 * byte (4 * l + 1) + 65536 * byte (4 * l + 2) + 16777216 * byte (4 * l + 3))))) ∧
      exec (.vshuf h o) s = .next (s1.after h (fun c =>
        let ra := c.readV o.a
        let rb := ra.2.readV o.b
        put c rb.2 (fun l => if (lane rb.1 l).getLsbD 5 then 0 else (lane ra.1 ((lane rb.1 l).extractLsb' 0 5).toNat).toNat))) ∧
      exec (.vrot h o) s = .next (s1.after h (fun c =>
        let ra := c.readV o.a
        let rb := ra.2.readS o.b
        put c rb.2 (fun l => (lane ra.1 ((l + (rb.1.toNat + o.vimm.toNat) % 32) % 32)).toNat)))) ∧
    (Issues h s .normal [o.a] [o.d] s1 →
      exec (.vbcast h o) s = .next (s1.after h (fun c =>
        let ra := vsRead c o.a w o.sela.toNat
        ra.2.writeVO o.d (putLanes (vOld c o.d) (laneOn c o) w o.seld.toNat (fun _ => ra.1 (o.vimm.toNat % 32))))) ∧
      (o.fmt = 4 → o.vimm.toNat + 1 < 32 → exec (.vext h o) s = .next (s1.after h (fun c =>
        let ra := c.readV o.a
        ra.2.writeS o.d (lane ra.1 (o.vimm.toNat + 1) ++ lane ra.1 o.vimm.toNat)))) ∧
      (o.fmt.toNat ≤ 6 → o.fmt ≠ 4 → exec (.vext h o) s = .next (s1.after h (fun c =>
        let ra := c.readV o.a
        ra.2.writeS o.d (BitVec.ofInt 64 (decodeI o.fmt.toNat (valAt ra.1 w (o.vimm.toNat % 32) o.sela.toNat)))))) ∧
      exec (.vcount h o) s = .next (s1.after h (fun c =>
        let ra := c.readV o.a
        let on := (List.range 32).filter (fun l => laneOn c o l && decide (valAt ra.1 w l o.sela.toNat ≠ 0))
        ra.2.writeS o.d (BitVec.ofNat 64 on.length))) ∧
      exec (.vcompress h o) s = .next (s1.after h (fun c =>
        let ra := c.readV o.a
        let on := (List.range 32).filter (laneOn c o)
        ra.2.writeVO o.d (ofLanes (fun i => (on[i]?.map (lane ra.1)).getD 0))))) ∧
    (Issues h s .normal [] [o.d] s1 →
      exec (.vlaneid h o) s = .next (s1.after h (fun c => put c c (fun l => l + o.vimm.toNat)))) ∧
    (Issues h s .normal [o.a, o.d] [o.d] s1 →
      (o.fmt = 4 → o.vimm.toNat < 31 → exec (.vins h o) s = .next (s1.after h (fun c =>
        let ra := c.readS o.a
        ra.2.writeVO o.d (ofLanes (fun l => if l = o.vimm.toNat then ra.1.extractLsb' 0 32
          else if l = o.vimm.toNat + 1 then ra.1.extractLsb' 32 32 else lane (vOld c o.d) l))))) ∧
      (o.fmt ≠ 4 → exec (.vins h o) s = .next (s1.after h (fun c =>
        let ra := c.readS o.a
        ra.2.writeVO o.d (putLanes (vOld c o.d) (fun l => decide (l = o.vimm.toNat % 32)) w o.seld.toNat (fun _ => ra.1.toNat))))))

/-- Reductions, scans and histograms: only enabled lanes take part, and only the lanes that the manual names are written. -/
def Obligations.VectorReductions : Prop :=
  ∀ (h : Hdr) (o : FmtV) (s s1 : State), Issues h s .normal [o.a, o.d] [o.d] s1 →
    let w := fmtBits o.fmt.toNat
    let f := o.fmt.toNat
    let vals : Ctx → Line → (Nat → Bool) → List Nat := fun c a p =>
      ((List.range 32).filter (fun l => laneOn c o l && p l)).map (fun l => valAt a w l o.sela.toNat)
    ∃ (sum : List Nat → FRes) (top bot : List Nat → Nat),
      (∀ vs, (f ≤ 6 →
          let total : Int := (vs.map (decodeI f)).sum
          let v := if o.sat then max (-(2 ^ 31)) (min (2 ^ 31 - 1) total) else total
          sum vs = ⟨(v % 2 ^ 32).toNat, if v ≠ total then 32 else 0⟩) ∧
        (6 < f → sum vs =
          let t := fsumV o.rnd.toNat (vs.map (decodeF f))
          (toF 8 o.rnd.toNat o.sat t.1).orFlags (if t.2 then 1 else 0)) ∧
        (f ≤ 6 → (∀ v ∈ vs, v < 2 ^ w) → vs ≠ [] → top vs ∈ vs ∧ bot vs ∈ vs ∧
          ∀ v ∈ vs, decodeI f v ≤ decodeI f (top vs) ∧ decodeI f (bot vs) ≤ decodeI f v) ∧
        (6 < f → (∀ v ∈ vs, v < 2 ^ w) → (∃ v ∈ vs, decodeF f v ≠ .nan) → top vs ∈ vs ∧ bot vs ∈ vs ∧
          decodeF f (top vs) ≠ .nan ∧ decodeF f (bot vs) ≠ .nan ∧
          ∀ v ∈ vs, fltZ (decodeF f (top vs)) (decodeF f v) = false ∧ fltZ (decodeF f v) (decodeF f (bot vs)) = false) ∧
        (6 < f → (∀ v ∈ vs, decodeF f v = .nan) → top vs = fmtNaN f ∧ bot vs = fmtNaN f)) ∧
      exec (.vredadd h o) s = .next (s1.after h (fun c =>
        let ra := c.readV o.a
        let r := sum (vals c ra.1 (fun _ => true))
        let t := ra.2.writeVO o.d (ofLanes (fun l => if l = 0 then BitVec.ofNat 32 r.raw else lane (vOld c o.d) l))
        { t with fstat := t.fstat ||| r.flags })) ∧
      (∀ e ∈ ([(.vredmax, top), (.vredmin, bot)] : List ((Hdr → FmtV → Instr) × (List Nat → Nat))),
        exec (e.1 h o) s = .next (s1.after h (fun c =>
          let ra := c.readV o.a
          ra.2.writeVO o.d (ofLanes (fun l =>
            if l = 0 then BitVec.ofNat 32 (e.2 (vals c ra.1 (fun _ => true))) else lane (vOld c o.d) l))))) ∧
      (exec (.vargmax h o) s = .next (s1.after h (fun c =>
        let ra := c.readV o.a
        let m := top (vals c ra.1 (fun _ => true))
        let at0 := ((List.range 32).find? (fun l => laneOn c o l && decide (valAt ra.1 w l o.sela.toNat = m) &&
          (decide (f ≤ 6) || decide (decodeF f m ≠ .nan)))).getD 0xFFFFFFFF
        ra.2.writeVO o.d (ofLanes (fun l =>
          if l = 0 then BitVec.ofNat 32 m else if l = 1 then BitVec.ofNat 32 at0 else lane (vOld c o.d) l))))) ∧
      (∀ e ∈ ([(.vscan, fun l => l + 1), (.vscanX, fun l => l)] : List ((Hdr → FmtV → Instr) × (Nat → Nat))),
        exec (e.1 h o) s = .next (s1.after h (fun c =>
          let ra := c.readV o.a
          let res := fun l => sum (vals c ra.1 (fun j => decide (j < e.2 l)))
          let t := ra.2.writeVO o.d (putLanes (vOld c o.d) (laneOn c o) 32 0 (fun l => (res l).raw))
          { t with fstat := t.fstat ||| (List.range 32).foldl (fun acc l => if laneOn c o l then acc ||| (res l).flags else acc) 0 }))) ∧
      (exec (.vhist h o) s = .next (s1.after h (fun c =>
        let ra := c.readV o.a
        let digit := fun v : Nat => (if o.vimm.getLsbD 5 then v ^^^ 2 ^ (w - 1) else v) / 2 ^ (o.vimm.toNat % 32) % 16
        ra.2.writeVO o.d (ofLanes (fun l => if l < 16
          then lane (vOld c o.d) l + BitVec.ofNat 32 ((vals c ra.1 (fun _ => true)).filter (fun v => digit v = l)).length
          else lane (vOld c o.d) l)))))

/-- `vquant` converts the exact product of each enabled lane and its scale into the destination format, with its flags; with ACC it also
writes lanes 0, 1 and 3 of T (the largest finite magnitude, the count of saturated lanes, the format) and keeps T's other lanes.
`vquant.fold` changes lane 2 of D alone: the checksum goes on over the bytes of the enabled lanes of A. -/
def Obligations.VectorQuantise : Prop :=
  ∀ (h : Hdr) (o : FmtV) (s s1 : State),
    (o.vimm.getLsbD 7 = false → Issues h s .normal [o.a, o.b] [o.d] s1 →
      exec (.vquant h o) s = .next (s1.after h (fun c =>
        let ra := c.readV o.a
        let rb := vsRead ra.2 o.b 32 0
        let res := fun l =>
          let y := fmulV (decodeF 8 (lane ra.1 l).toNat) (decodeF 8 (rb.1 l))
          let r := if o.fmt.toNat ≤ 6 then toI o.fmt.toNat o.rnd.toNat o.sat y.1 else toF o.fmt.toNat o.rnd.toNat o.sat y.1
          r.orFlags (if y.2 then 1 else 0)
        let t := rb.2.writeVO o.d (putLanes (vOld c o.d) (laneOn c o) (fmtBits o.fmt.toNat) o.seld.toNat (fun l => (res l).raw))
        { t with fstat := t.fstat ||| (List.range 32).foldl (fun acc l => if laneOn c o l then acc ||| (res l).flags else acc) 0 }))) ∧
    (o.vimm.getLsbD 7 = true →
      let tr : Fin 32 := Fin.ofNat 32 (o.vimm.toNat % 32)
      o.d ≠ .v tr → Issues h s .normal [o.a, o.b, .v tr] [o.d, .v tr] s1 →
      ∃ t, exec (.vquant h o) s = .next t ∧
        (∀ l, l < 32 → l ∉ [0, 1, 3] → lane (t.me.getV tr.val) l = lane (s.me.getV tr.val) l) ∧
        lane (t.me.getV tr.val) 3 = BitVec.ofNat 32 (0x100 + o.fmt.toNat) ∧
        ((lane (s.me.getV tr.val) 1).toNat ≤ (lane (t.me.getV tr.val) 1).toNat) ∧
        (lane (t.me.getV tr.val) 1).toNat ≤ (lane (s.me.getV tr.val) 1).toNat + 32 ∧
        (∀ n : Fin 32, n ≠ tr → o.d ≠ .v n → t.me.getV n.val = s.me.getV n.val) ∧ t.me.x = s.me.x ∧ t.mem = s.mem) ∧
    (Issues h s .normal [o.a, o.d] [o.d] s1 →
      exec (.vquantFold h o) s = .next (s1.after h (fun c =>
        let ra := c.readV o.a
        let bits := ((List.range 32).filter (laneOn c o)).flatMap (fun l => (List.range 32).map (lane ra.1 l).getLsbD)
        let crc := bits.foldl (fun (r : BitVec 32) b => r >>> 1 ^^^ (if r.getLsbD 0 ≠ b then 0x82F63B78 else 0)) (~~~(lane (vOld c o.d) 2))
        ra.2.writeVO o.d (ofLanes (fun l => if l = 2 then ~~~crc else lane (vOld c o.d) l)))))

/-! ## The frame of the register instructions -/

/-- An integer, predicate, capability-reading, floating-point, vector or device-time instruction changes its destination, the queues that it
pops, FSTAT and CAPST.INEX where the manual says so, the place of its context and the semaphores that its clauses name, and nothing else:
every other register, predicate, mask and queue of the context, every special register, every byte of memory with its tag and its poison
mark, every other context, core and cluster and the device are the same. FSTAT's bits stick. `dtime` also latches the reading and its lock bit; that
the reading is the later of device time and the context's latest is the model's choice (log entry 47). -/
def Obligations.RegisterFrames : Prop :=
  let frame : Hdr → State → State → Operand → List Operand → Prop := fun h s t d srcs =>
    CtxFrame s.me t.me ∧ RegFrame s.me t.me d srcs ∧ OutFrame h s.cur s t
  ∀ (h : Hdr) (s s1 : State),
    (∀ o : FmtRR, Issues h s .normal [o.a, o.b] [o.d] s1 →
      ∀ mk ∈ ([.add, .sub, .mul, .mulh, .mulhu, .div, .divu, .rem, .remu, .and, .or, .xor, .andn, .shl, .shr, .sar, .rol, .min, .max,
          .minu, .maxu, .sel] : List (Hdr → FmtRR → Instr)),
        ∃ t, exec (mk h o) s = .next t ∧ frame h s t o.d [o.a, o.b] ∧ t.me.fstat = s.me.fstat ∧ t.me.inex = s.me.inex) ∧
    (∀ o : FmtRR, Issues h s .normal [o.a] [o.d] s1 →
      ∀ mk ∈ ([.mov, .clz, .ctz, .popc] : List (Hdr → FmtRR → Instr)),
        ∃ t, exec (mk h o) s = .next t ∧ frame h s t o.d [o.a] ∧ t.me.fstat = s.me.fstat ∧ t.me.inex = s.me.inex) ∧
    (∀ o : FmtRR, Issues h s .normal [] [] s1 →
      ∀ mk ∈ ([.pand, .por, .pnot] : List (Hdr → FmtRR → Instr)),
        ∃ t, exec (mk h o) s = .next t ∧ frame h s t o.d [] ∧ t.me.fstat = s.me.fstat ∧ t.me.inex = s.me.inex) ∧
    (∀ o : FmtI, Issues h s .normal [o.a] [o.d] s1 →
      ∀ mk ∈ ([.addi, .shlI, .shrI, .sarI, .rolI, .movhi] : List (Hdr → FmtI → Instr)),
        ∃ t, exec (mk h o) s = .next t ∧ frame h s t o.d [o.a] ∧ t.me.fstat = s.me.fstat ∧ t.me.inex = s.me.inex) ∧
    (∀ o : FmtI, Issues h s .normal [] [o.d] s1 →
      ∃ t, exec (.movi h o) s = .next t ∧ frame h s t o.d [] ∧ t.me.fstat = s.me.fstat ∧ t.me.inex = s.me.inex) ∧
    (∀ o : FmtBF, Issues h s .normal [o.a] [o.d] s1 →
      ∃ t, exec (.bfx h o) s = .next t ∧ frame h s t o.d [o.a] ∧ t.me.fstat = s.me.fstat ∧ t.me.inex = s.me.inex) ∧
    (∀ o : FmtV, o.vimm.getLsbD 7 = false → Issues h s .normal [o.a, o.b] [o.d] s1 →
      ∃ t, exec (.vquant h o) s = .next t ∧ frame h s t o.d [o.a, o.b] ∧ t.me.fstat &&& s.me.fstat = s.me.fstat ∧ t.me.inex = s.me.inex) ∧
    (∀ o : FmtS, Issues h s .normal [] [o.d] s1 →
      ∃ t, exec (.semRd h o) s = .next t ∧ frame h s t o.d [] ∧ t.me.fstat = s.me.fstat ∧ t.me.inex = s.me.inex) ∧
    (∀ o : FmtC, Issues h s .normal [o.a, o.b] [o.d] s1 →
      ∃ t, exec (.cmp h o) s = .next t ∧ frame h s t o.d [o.a, o.b] ∧ t.me.fstat = s.me.fstat ∧ t.me.inex = s.me.inex) ∧
    (∀ o : FmtCI, Issues h s .normal [o.a] [o.d] s1 →
      ∃ t, exec (.cmpi h o) s = .next t ∧ frame h s t o.d [o.a] ∧ t.me.fstat = s.me.fstat ∧ t.me.inex = s.me.inex) ∧
    (∀ o : FmtBF, Issues h s .normal [o.a, o.b] [o.d] s1 →
      ∃ t, exec (.bfi h o) s = .next t ∧ frame h s t o.d [o.a, o.b] ∧ t.me.fstat = s.me.fstat ∧ t.me.inex = s.me.inex) ∧
    (∀ o : FmtCAP, Issues h s .normal (pairOps o.a ++ [o.b]) [o.d] s1 →
      ∀ mk ∈ ([.cget, .ctag] : List (Hdr → FmtCAP → Instr)),
        (mk h o).wf = true → ∃ t, exec (mk h o) s = .next t ∧ frame h s t o.d [o.b] ∧ t.me.fstat = s.me.fstat ∧ t.me.inex = s.me.inex) ∧
    (∀ o : FmtF, Issues h s .normal [o.a, o.b, o.d] [o.d] s1 →
      ∀ mk ∈ ([.fadd, .fsub, .fmul, .ffma, .fdiv, .fsqrt, .fmin, .fmax, .fcmp, .fcvt, .fexp2] : List (Hdr → FmtF → Instr)),
        ∃ t, exec (mk h o) s = .next t ∧ frame h s t o.d [o.a, o.b] ∧ t.me.fstat &&& s.me.fstat = s.me.fstat ∧ t.me.inex = s.me.inex) ∧
    (∀ o : FmtV, Issues h s .normal [o.a, o.b, o.d] [o.d] s1 →
      ∀ mk ∈ ([.vadd, .vsub, .vmul, .vfma, .vmin, .vmax, .vabs, .vcmp, .vsel, .viadd, .visub, .vimul, .vand, .vor, .vxor, .vshl, .vshr,
          .vsar, .vcvt, .vquantFold, .vdeq, .vexp2, .vrcp, .vrsq, .vdot4, .vpermB, .vpermBN, .vpermBNs, .vshuf, .vbcast, .vins, .vext,
          .vrot, .vredadd, .vredmax, .vredmin, .vargmax, .vscan, .vscanX, .vhist, .vordkey, .vunord, .vlaneid, .vcount, .vcompress] :
          List (Hdr → FmtV → Instr)),
        (mk h o).wf = true → ∃ t, exec (mk h o) s = .next t ∧ frame h s t o.d [o.a, o.b] ∧ t.me.fstat &&& s.me.fstat = s.me.fstat ∧ t.me.inex = s.me.inex) ∧
    (∀ o : FmtRR, Issues h s .normal [] [o.d] s1 →
      ∃ t, exec (.dtime h o) s = .next t ∧ t.me.dtLock = s.locked ∧
        t.me.dtSeen * 2 ^ 32 + t.me.dtFrac.toNat =
          max (s.dev.ns * 2 ^ 32 + s.dev.frac.toNat) (s.me.dtSeen * 2 ^ 32 + s.me.dtFrac.toNat) ∧
        CtxFrame { s.me with dtLock := t.me.dtLock, dtFrac := t.me.dtFrac, dtSeen := t.me.dtSeen } t.me ∧ RegFrame s.me t.me o.d [] ∧
        t.me.fstat = s.me.fstat ∧ t.me.inex = s.me.inex ∧ OutFrame h s.cur s t)


/-! ## Transfers and contexts (R253-R260) -/

/-- Transfers of control. `br` and `ret` go to the block that their pair names, once it passes the checks of a fetch, and fault otherwise with
no effect: in the order alignment, tag, malformed, seal, permission, bounds, canonical; `bri`, `call` and `loop` go a signed number of blocks from
their own under the unchanged program capability; `call` stands in the last slot and writes the next block's capability to D, none for `x0`, tagged
where the program capability is, stands inside its representable region (log entry 17, the model's reading) and stays in it; `loop` decrements its
register and goes on to the next slot at zero. -/
def Obligations.Transfers : Prop :=
  ∀ (h : Hdr) (s s1 : State),
    (∀ o : FmtCR, Issues h s .normal (pairOps o.a) [] s1 →
      let p := s1.me.readPair o.a
      ∀ mk ∈ ([.br, .ret] : List (Hdr → FmtCR → Instr)),
        (p.addr.toNat % 64 ≠ 0 → exec (mk h o) s = .next (s1.fault s.cur h 2 0 p.addr)) ∧
        (p.addr.toNat % 64 = 0 → p.tag = false → exec (mk h o) s = .next (s1.fault s.cur h 1 1 p.addr)) ∧
        (p.addr.toNat % 64 = 0 → p.tag = true → mdMalformed p.md = true → exec (mk h o) s = .next (s1.fault s.cur h 1 7 p.addr)) ∧
        (p.addr.toNat % 64 = 0 → p.tag = true → mdMalformed p.md = false → mdSeal p.md ≠ 0 →
          exec (mk h o) s = .next (s1.fault s.cur h 1 2 p.addr)) ∧
        (p.addr.toNat % 64 = 0 → p.tag = true → mdMalformed p.md = false → mdSeal p.md = 0 →
          (p.md.getLsbD 61 = false → exec (mk h o) s = .next (s1.fault s.cur h 1 3 p.addr)) ∧
          (p.md.getLsbD 61 = true → capCovers p p.addr 64 = false → exec (mk h o) s = .next (s1.fault s.cur h 1 4 p.addr)) ∧
          (p.md.getLsbD 61 = true → capCovers p p.addr 64 = true → (canonical p.addr = false ∨ canonical (p.addr + 63) = false) →
            exec (mk h o) s = .next (s1.fault s.cur h 1 5 p.addr))) ∧
        (p.addr.toNat % 64 = 0 → p.tag = true → mdMalformed p.md = false → mdSeal p.md = 0 → p.md.getLsbD 61 = true →
          capCovers p p.addr 64 = true → canonical p.addr = true → canonical (p.addr + 63) = true →
          ∃ t, exec (mk h o) s = .next t ∧ t.me.At p ∧ t.me.pcOut = false ∧ s.SemsAfter h (t.core s.cur.gid) ∧
            SameRegs s.me t.me ∧ CtxFrame s.me t.me ∧ OutFrame h s.cur s t)) ∧
    (∀ o : FmtJ, Issues h s .normal [] [] s1 →
      ∃ t, exec (.bri h o) s = .next t ∧ t.me.At ⟨s.me.pcc.addr + o.off.signExtend 64 * 64, s.me.pcc.md, s.me.pcc.tag⟩ ∧
        s.SemsAfter h (t.core s.cur.gid) ∧ SameRegs s.me t.me ∧ CtxFrame s.me t.me ∧ OutFrame h s.cur s t) ∧
    (∀ o : FmtJ, s.me.slot + 1 ≠ s.me.nv → exec (.call h o) s = .next (s.fault s.cur h 5 0 s.me.slotVal)) ∧
    (∀ (o : FmtJ) (n : Fin 64), o.d = .x n → n.val % 2 = 0 → s.me.slot + 1 = s.me.nv →
      Issues h s .normal [] (if n = 0 then [] else pairOps o.d) s1 →
      ∃ t, exec (.call h o) s = .next t ∧ t.me.At ⟨s.me.pcc.addr + o.off.signExtend 64 * 64, s.me.pcc.md, s.me.pcc.tag⟩ ∧
        (n = 0 → t.me.x = s.me.x) ∧
        (n ≠ 0 → (t.me.getPair n.val).addr = s.me.pcc.addr + 64 ∧ (t.me.getPair n.val).md = s.me.pcc.md ∧
          (t.me.getPair n.val).tag = (s.me.pcc.tag && !s.me.pcOut && capRepresentable s.me.pcc.addr s.me.pcc.md (s.me.pcc.addr + 64))) ∧
        (∀ m : Fin 64, m.val / 2 ≠ n.val / 2 → t.me.getX m.val = s.me.getX m.val) ∧
        s.SemsAfter h (t.core s.cur.gid) ∧ t.me.v = s.me.v ∧ CtxFrame s.me t.me ∧ OutFrame h s.cur s t) ∧
    (∀ (o : FmtJ) (n : Fin 64), o.d = .x n → Issues h s .normal [o.d] [o.d] s1 →
      ∃ t, exec (.loop h o) s = .next t ∧
        (n ≠ 0 → (t.me.getX n.val).val = (s.me.getX n.val).val - 1) ∧
        ((s.me.getX n.val).val ≠ 1 → t.me.At ⟨s.me.pcc.addr + o.off.signExtend 64 * 64, s.me.pcc.md, s.me.pcc.tag⟩) ∧
        ((s.me.getX n.val).val = 1 → s.me.Advanced t.me) ∧ RegFrame s.me t.me o.d [] ∧
        s.SemsAfter h (t.core s.cur.gid) ∧ CtxFrame s.me t.me ∧ OutFrame h s.cur s t)

/-- Contexts and sequencers. `start` starts the lowest idle helper at its target with the starter's level, domain and task, or writes false;
`fork` starts the sequencers whose targets it names, each at a block of its own class, with copies of the forker's scalar registers and
predicates; `join` ends a sequencer, and elsewhere waits until the engines are quiet and then goes on, raising a fault that a sequencer has
left; `exit` ends a helper and, in the control context, begins the end of the task; `halt` ends every context of the core; `yield` with a
record begins to save the task. -/
def Obligations.ContextInstructions : Prop :=
  ∀ (h : Hdr) (s s1 : State),
    (∀ (o : FmtJ) (i : Nat), Issues h s .illegal [] [] s1 → i < s1.helpers s.cur.gid → i < 10 → s.cur.ctx ≠ i + 1 →
      (s1.here.ctx (i + 1)).live = false → (∀ j, j < i → (s1.here.ctx (j + 1)).live = true) →
      ∃ t, exec (.start h o) s = .next t ∧
        (let c := t.ctx ⟨s.cur.gid, i + 1⟩
         c.live = true ∧ c.At ⟨s.me.pcc.addr + o.off.signExtend 64 * 64, s.me.pcc.md, s.me.pcc.tag⟩ ∧ c.level = s.me.level ∧
         c.cdom = s.me.cdom ∧ c.twid = s.me.twid ∧ c.tinf = s.me.tinf ∧ c.region = none) ∧
        (∀ n : Fin 8, o.d = .p n → n ≠ 0 → t.me.getP n.val = true) ∧ s.me.Advanced t.me ∧ t.me.x = s.me.x ∧ t.mem = s.mem) ∧
    (∀ o : FmtJ, Issues h s .illegal [] [] s1 → (∀ i, i < s1.helpers s.cur.gid → (s1.here.ctx (i + 1)).live = true) →
      exec (.start h o) s = .next (s1.after h (fun c => c.writePO o.d false))) ∧
    (∀ (o : FmtFK) (b : BitVec 512) (psn : Bool) (s2 : State), Issues h s .illegal forkSrcs [] s1 → isSvc s.cur.gid = false → s.cur.ctx ≠ 12 →
      o.moff = 0x8000 → o.coff ≠ 0x8000 → (s1.here.ctx 12).live = false →
      fetchBlock s1 s.cur ⟨s.me.pcc.addr + o.coff.signExtend 64 * 64, s.me.pcc.md, s.me.pcc.tag⟩
        (s.me.pcOut || !capRepresentable s.me.pcc.addr s.me.pcc.md (s.me.pcc.addr + o.coff.signExtend 64 * 64)) = .ok b psn s2 →
      (psn = true → s2.rollsBack s.cur.gid = true → exec (.fork h o) s = .next (s2.mergeFail s.cur.gid)) ∧
      ((psn = false ∨ s2.rollsBack s.cur.gid = false) → blkClass b ≠ 2 → exec (.fork h o) s = .next (s1.fault s.cur h 5 0 s.me.slotVal)) ∧
      ((psn = false ∨ s2.rollsBack s.cur.gid = false) → blkClass b = 2 → ∃ t, exec (.fork h o) s = .next t ∧
        (let q := t.ctx ⟨s.cur.gid, 12⟩
         q.live = true ∧ q.At ⟨s.me.pcc.addr + o.coff.signExtend 64 * 64, s.me.pcc.md, s.me.pcc.tag⟩ ∧ q.x = s.me.x ∧ q.p = s.me.p ∧
         q.level = s.me.level ∧ q.cdom = s.me.cdom ∧ q.forker = s.cur.ctx) ∧
        t.me.x = s.me.x ∧ (s.ecc = [] → t.mem = s.mem))) ∧
    (Issues h s .illegal [] [] s1 →
      (11 ≤ s.cur.ctx → ∃ t, exec (.join h) s = .next t ∧ t.me.live = false ∧ t.mem = s.mem ∧
        s.SemsAfter h (t.core s.cur.gid)) ∧
      (s.cur.ctx < 11 → s1.here.enginesQuiet = false → exec (.join h) s = .next s1) ∧
      (s.cur.ctx < 11 → s1.here.enginesQuiet = true → s1.here.faults = [] → exec (.join h) s = .next (s1.retire s.cur h)) ∧
      (s.cur.ctx < 11 → s1.here.enginesQuiet = true → ∀ f rest, s1.here.faults = f :: rest →
        exec (.join h) s = .next (((s1.updCore s.cur.gid (fun c => { c with faults := rest })).addBack s.cur h).deliverTrap s.cur f)) ∧
      (s.cur.ctx ≠ 0 → ∃ t, exec (.exit h) s = .next t ∧ t.me.live = false ∧ t.me.blk = none ∧ t.mem = s.mem ∧
        s.SemsAfter h (t.core s.cur.gid)) ∧
      (s.cur.ctx = 0 → s1.here.faults = [] → s1.here.task.isSome = true →
        ∃ t, exec (.exit h) s = .next t ∧ t.me.busy = some .ending ∧ t.me.x = s.me.x ∧ t.mem = s.mem)) ∧
    (∀ ms, ms = (match s1.here.task with | some k => k.members | none => [s.cur.gid]) → s.cur.gid ∈ ms →
      Issues h s .normal [] [] s1 → (∀ m ∈ ms, ∀ b ∈ s1.liveAgents m, b ≠ s.cur → (s1.ctx b).past = false) →
      ∃ t, exec (.halt h) s = .next t ∧ (∀ m ∈ ms, ∀ n, (t.ctx ⟨m, n⟩).live = false) ∧
        (∀ m ∈ ms, ∀ k, (t.core m).task = some k → k.halted = true) ∧ t.mem = s.mem ∧ t.tags = s.tags) ∧
    (∀ (o : FmtCR) (bs : List Byte) (gt : List Bool), Issues h s .normal (pairOps o.a) [] s1 → s.cur.ctx = 0 →
      s1.me.busy = some (.read bs gt) → s1.me.region = none → s1.here.task.isSome = true →
      (livenessOk bs = false → exec (.yield h o) s = .next (s1.fault s.cur h 5 0 s.me.slotVal)) ∧
      (livenessOk bs = true → ∃ t, exec (.yield h o) s = .next t ∧ t.me.busy = some (.saving true) ∧ (t.core s.cur.gid).saving = 1 ∧
        (t.core s.cur.gid).saveMask = [wordAt bs 0, wordAt bs 1, wordAt bs 2, wordAt bs 3] ∧ t.me.x = s.me.x ∧ t.mem = s.mem))


/-! ## Gates, semaphores, special registers (R262-R269) -/

/-- `sysc` faults on a gate that is misaligned, untagged, malformed, unsealed or without execute permission; through a sealed gate whose block
is a gate block it gives the next block's capability, sealed with the gate's type, to D and goes to the gate; through a gate of seal type 15
it enters the gate at supervisor level, whatever the level before, with the supervisor registers filled, or, when the supervisor ACT is set, with the
hypervisor copies filled as a nested trap fills them, or, from hypervisor level, with the hypervisor copies filled as that trap. A block of another
class is illegal, and a poisoned one fails a superstep (R226). Two things are the model's reading (log entry 24): the return capability is tagged
where the program capability is and its address stays in the representable region (R19), and a gate of seal type 15 leaves hypervisor level. Memory
keeps its form where no word of it is in error (R68). -/
def Obligations.Gates : Prop :=
  ∀ (h : Hdr) (o : FmtCR) (s s1 : State) (n : Fin 64), o.d = .x n → n.val % 2 = 0 →
    Issues h s .illegal (pairOps o.a) (if n = 0 then [] else pairOps o.d) s1 →
    let g := s1.me.readPair o.a
    (g.addr.toNat % 64 ≠ 0 → exec (.sysc h o) s = .next (s1.fault s.cur h 2 0 g.addr)) ∧
    (g.addr.toNat % 64 = 0 → g.tag = false → exec (.sysc h o) s = .next (s1.fault s.cur h 1 1 g.addr)) ∧
    (g.addr.toNat % 64 = 0 → g.tag = true → mdMalformed g.md = true → exec (.sysc h o) s = .next (s1.fault s.cur h 1 7 g.addr)) ∧
    (g.addr.toNat % 64 = 0 → g.tag = true → mdMalformed g.md = false → (mdSeal g.md = 0 ∨ g.md.getLsbD 61 = false) →
      exec (.sysc h o) s = .next (s1.fault s.cur h 1 3 g.addr)) ∧
    (∀ (b : BitVec 512) (psn : Bool) (s2 : State), g.addr.toNat % 64 = 0 → g.tag = true → mdMalformed g.md = false → mdSeal g.md ≠ 0 →
      g.md.getLsbD 61 = true → capCovers g g.addr 64 = true → fetchBlock s1 s.cur g.unsealed false = .ok b psn s2 →
      (psn = true → s2.rollsBack s.cur.gid = true → exec (.sysc h o) s = .next (s2.mergeFail s.cur.gid)) ∧
      ((psn = false ∨ s2.rollsBack s.cur.gid = false) →
      (blkClass b ≠ 3 → exec (.sysc h o) s = .next (s1.fault s.cur h 5 0 s.me.slotVal)) ∧
      (blkClass b = 3 → mdSeal g.md ≠ 15 → ∃ t, exec (.sysc h o) s = .next t ∧ t.me.At ⟨g.addr, mdSetSeal g.md 0, true⟩ ∧
        t.me.level = s.me.level ∧
        (n ≠ 0 → t.me.getPair n.val = ⟨s.me.pcc.addr + 64, mdSetSeal s.me.pcc.md (mdSeal g.md),
          s.me.pcc.tag && !s.me.pcOut && capRepresentable s.me.pcc.addr s.me.pcc.md (s.me.pcc.addr + 64)⟩) ∧
        (∀ m : Fin 64, m.val / 2 ≠ n.val / 2 → t.me.getX m.val = s.me.getX m.val) ∧ t.me.v = s.me.v ∧ (s.ecc = [] → t.mem = s.mem)) ∧
      (blkClass b = 3 → mdSeal g.md = 15 → s.me.level ≠ .hypervisor → s.me.sup.cau.getLsbD 7 = false →
        ∃ t, exec (.sysc h o) s = .next t ∧ t.me.At ⟨g.addr, mdSetSeal g.md 0, true⟩ ∧ t.me.level = .supervisor ∧
          bits t.me.sup.cau 4 0 = 0x0C ∧ bits t.me.sup.cau 11 8 = 0 ∧ bits t.me.sup.cau 6 5 = s.me.level.num ∧ bits t.me.sup.cau 7 7 = 1 ∧
          bits t.me.sup.epc 63 6 = bits (s.me.pcc.addr + 64) 63 6 ∧ bits t.me.sup.epc 5 3 = 0 ∧ t.me.sup.epm = s.me.pcc.md ∧
          t.me.sup.val = g.addr ∧ t.me.x = s.me.x ∧ (s.ecc = [] → t.mem = s.mem)) ∧
      (blkClass b = 3 → mdSeal g.md = 15 → s.me.level ≠ .hypervisor → s.me.sup.cau.getLsbD 7 = true → s.me.hyp.cau.getLsbD 7 = false →
        ∃ t, exec (.sysc h o) s = .next t ∧ t.me.At ⟨g.addr, mdSetSeal g.md 0, true⟩ ∧ t.me.level = .supervisor ∧ t.me.sup = s.me.sup ∧
          bits t.me.hyp.cau 4 0 = 0x0D ∧ bits t.me.hyp.cau 11 8 = 0x0C ∧ bits t.me.hyp.cau 7 7 = 1 ∧ t.me.hyp.val = g.addr ∧
          t.me.hyp.epm = s.me.pcc.md ∧ t.me.x = s.me.x ∧ (s.ecc = [] → t.mem = s.mem)) ∧
      (blkClass b = 3 → mdSeal g.md = 15 → s.me.level = .hypervisor → s.me.hyp.cau.getLsbD 7 = false →
        ∃ t, exec (.sysc h o) s = .next t ∧ t.me.At ⟨g.addr, mdSetSeal g.md 0, true⟩ ∧ t.me.level = .supervisor ∧ t.me.sup = s.me.sup ∧
          bits t.me.hyp.cau 4 0 = 0x0C ∧ bits t.me.hyp.cau 11 8 = 0 ∧ bits t.me.hyp.cau 6 5 = 2 ∧ bits t.me.hyp.cau 7 7 = 1 ∧
          t.me.hyp.val = g.addr ∧ bits t.me.hyp.epc 63 6 = bits (s.me.pcc.addr + 64) 63 6 ∧ bits t.me.hyp.epc 5 3 = 0 ∧
          t.me.hyp.epm = s.me.pcc.md ∧ t.me.x = s.me.x ∧ (s.ecc = [] → t.mem = s.mem))))

/-- The semaphore instructions: `sem.set` sets its semaphore to A plus IMM, saturated, and `sem.add` adds A plus IMM, both in the first step of the
core's next cycle (`SemaphoreStep`); `sem.sig` adds to a semaphore of its own core in the same way and writes true, and sends a check to another
core of the cluster and waits for it;
`sem.rd` reads the value with the overflow bit at bit 16. No other semaphore changes. `bar`, `gang` and `sstep` note the arrival and wait for their
barrier; they are illegal with a bad scope, outside a gang, outside a merged stage. The arrival changes no register and no byte of memory. -/
def Obligations.SemaphoresAndBarriers : Prop :=
  (∀ (h : Hdr) (o : FmtS) (s s1 : State) (n : Fin 64), o.a = .x n →
      (Issues h s .illegal [o.a] [] s1 →
        (let v := (s.me.getX n.val).val.toNat + o.imm.toNat
         exec (.semSet h o) s = .next (((s1.self (fun c => (c.readS o.a).2)).updCore s.cur.gid (fun c =>
           { c with semSets := c.semSets ++ [(s.cur.ctx, o.sem.toNat, BitVec.ofNat 16 (min 0xFFFF v))] })).retire s.cur h) ∧
         exec (.semAdd h o) s = .next (((s1.self (fun c => (c.readS o.a).2)).updCore s.cur.gid (fun c =>
           { c with semAdds := c.semAdds ++ [(o.sem.toNat, v)] })).retire s.cur h)) ∧
        (let tgt := gidOf (gidCl s.cur.gid) ((s.me.getX n.val).val.toNat % 256)
         (tgt = s.cur.gid → exec (.semSig h o) s = .next ((((s1.self (fun c => (c.readS o.a).2)).updCore s.cur.gid (fun c =>
           { c with semAdds := c.semAdds ++ [(o.sem.toNat, o.imm.toNat)] })).self (fun c => c.writePO o.d true)).retire s.cur h)) ∧
         (tgt ≠ s.cur.gid → ∃ t, exec (.semSig h o) s = .next t ∧ t.me.busy = some (.sigCheck h o.d) ∧
           t.flights = s.flights ++ [.sigCheck s.cur tgt o.sem.toNat o.imm.toNat] ∧
           t.me.slot = s.me.slot ∧ t.me.x = s.me.x ∧ t.mem = s.mem))) ∧
      (Issues h s .normal [] [o.d] s1 →
        exec (.semRd h o) s = .next (s1.after h (fun c => c.writeS o.d
          (BitVec.ofNat 64 ((s1.here.sem o.sem.toNat).val.toNat + (if (s1.here.sem o.sem.toNat).ovf then 65536 else 0))))))) ∧
  (∀ (h : Hdr) (s s1 : State),
      (∀ o : FmtSC, Issues h s .illegal [o.b] [] s1 →
        let q := s1.me.scopeArg o.b
        (q.ok = false → exec (.bar h o) s = .next (s1.fault s.cur h 5 0 s.me.slotVal)) ∧
        (q.ok = true → ∀ w, w = s1.liveScope s.cur.gid q → ∃ t, exec (.bar h o) s = .next t ∧ t.me.busy = some (.barrier h (.x 0)) ∧
          t.arrivals = s.arrivals ++
            [⟨.bar w.scope w.core, s.cur, scopeCores w s.cur.gid, s1.peerMask s.cur.gid w, 0, Cap.null, false, false, [], []⟩] ∧
          ((s1.gangLaunch s.cur.gid = none ∨ q.core = true ∨ bits q.scope 39 32 ≠ 255) → s1.peerMask s.cur.gid q = 0) ∧
          (∀ l, s1.gangLaunch s.cur.gid = some l → q.core = false → bits q.scope 39 32 = 255 →
            ∀ p, p < 16 → ((s1.peerMask s.cur.gid q).getLsbD p = true ↔ p ∈ l.peers)) ∧
          (s1.peerMask s.cur.gid q ≠ 0 → w = q) ∧
          (s1.peerMask s.cur.gid q = 0 →
            w.core = q.core ∧ bits w.scope 31 0 = bits q.scope 31 0 ∧ bits w.scope 63 32 = 0 ∧ s1.peerMask s.cur.gid w = 0) ∧
          SameRegs s.me t.me ∧ t.me.slot = s.me.slot ∧ t.mem = s.mem) ∧
        (s1.here.task = none → exec (.sstep h o) s = .next (s1.fault s.cur h 5 0 s.me.slotVal)) ∧
        (∀ k st, s1.here.task = some k → s1.stage? s.cur.gid = some st →
          ((st.mrg = false ∨ q.ok = false) → exec (.sstep h o) s = .next (s1.fault s.cur h 5 0 s.me.slotVal)) ∧
          (st.mrg = true → q.ok = true → ∀ w, w = s1.liveScope s.cur.gid q →
            ∃ t, exec (.sstep h o) s = .next t ∧ t.me.busy = some (.barrier h (.x 0)) ∧
            t.arrivals = s.arrivals ++ [⟨.sstep k.lid (scopeCode w) w.core, s.cur, scopeCores w s.cur.gid, wd k.stage, 0, Cap.null, false,
              false, [], []⟩] ∧
            (t.core s.cur.gid).task = some { k with sscope := some (scopeCode w) } ∧ SameRegs s.me t.me ∧ t.mem = s.mem))) ∧
      (Issues h s .illegal [] [] s1 →
        (s1.here.task = none → exec (.gang h) s = .next (s1.fault s.cur h 5 0 s.me.slotVal)) ∧
        (∀ k l, s1.here.task = some k → s1.launch? k.lid = some l →
          (l.gang = false → exec (.gang h) s = .next (s1.fault s.cur h 5 0 s.me.slotVal)) ∧
          (l.gang = true → ∃ t, exec (.gang h) s = .next t ∧ t.me.busy = some (.barrier h (.x 0)) ∧
            t.arrivals = s.arrivals ++ [⟨.gang l.lid, s.cur, [], 0, 0, Cap.null, false, false, [], []⟩] ∧ SameRegs s.me t.me ∧ t.mem = s.mem))))

/-- Special registers. `mfs` writes the register's value to D; `mts` writes the writable bits of its register and leaves the others; PRGN is
written only outside a region; SVCR.READY only by a service core at hypervisor level, and a one there sets the cluster's readiness bit; the
overflow registers only while no message lies in the overflow region. -/
def Obligations.SpecialRegisters : Prop :=
  ∀ (h : Hdr) (o : FmtSYS) (s s1 : State),
    (Issues h s .normal [] [o.d] s1 → o.spr ≠ 0x012 →
      ∀ e ∈ ([(0x000, s1.dev.cycl), (0x002, BitVec.ofNat 64 s1.me.level.num), (0x010, s1.me.cdom.setWidth 64), (0x013, s1.me.pcc.md),
          (0x018, s1.me.upv), (0x019, s1.me.upn), (0x01A, s1.me.upc), (0x01B, s1.me.upa), (0x01C, s1.me.upi), (0x01D, s1.me.upk),
          (0x02D, s1.me.bstat.setWidth 64), (0x030, s1.myCluster.bktReg 0), (0x031, s1.myCluster.bktReg 1), (0x032, s1.myCluster.bktReg 2),
          (0x033, s1.myCluster.bktReg 3), (0x034, s1.dev.memmap), (0x035, s1.dev.memhole), (0x051, s1.me.pres),
          (0x053, s1.here.pdsd), (0x054, s1.here.pdct), (0x058, s1.me.fstat.setWidth 64), (0x05C, if s1.me.inex then 1 else 0),
          (0x060, s1.me.twid), (0x061, s1.me.tinf), (0x08C, s1.here.rkcy), (0x08D, s1.here.rkms),
          (0x080, BitVec.ofNat 64 ((if s1.here.req then 2 ^ 32 else 0) + s1.here.dlc.toNat)),
          (0x090, BitVec.ofNat 64 ((if s1.me.dtLock then 2 ^ 63 else 0) + s1.me.dtFrac.toNat))] : List (Nat × Word)),
        o.spr.toNat = e.1 → exec (.mfs h o) s = .next (s1.after h (fun c => c.writeS o.d e.2))) ∧
    (Issues h s .normal [] [o.d] s1 → o.spr ≠ 0x012 → ∀ w, sprRead s1 o.spr.toNat = some w →
      exec (.mfs h o) s = .next (s1.after h (fun c => c.writeS o.d w))) ∧
    (Issues h s .normal [] (pairOps o.d) s1 → o.spr = 0x012 → ∀ n : Fin 64, o.d = .x n → n.val % 2 = 0 →
      exec (.mfs h o) s = .next (s1.after h (fun c => c.writePair n.val ⟨c.pcc.addr, c.pcc.md, true⟩))) ∧
    (∀ n : Fin 64, o.a = .x n → Issues h s .normal [o.a] [] s1 →
      let w := (s.me.getX n.val).val
      (∀ e ∈ ([(0x018, fun c => { c with upv := w &&& ~~~0x3E }), (0x019, fun c => { c with upn := w &&& 0xFF }),
          (0x01A, fun c => { c with upc := w &&& ~~~0x7 }), (0x01C, fun c => { c with upi := (c.upi &&& ~~~0x80) ||| (w &&& 0x80) }),
          (0x01D, fun c => { c with upk := w }), (0x058, fun c => { c with fstat := c.fstat &&& ~~~(w.setWidth 6) })] :
          List (Nat × (Ctx → Ctx))),
        o.spr.toNat = e.1 → exec (.mts h o) s = .next (s1.after h e.2)) ∧
      (s.me.level ≠ .user → ∀ e ∈ ([(0x070, fun r => { r with vec := w &&& ~~~0x3F }), (0x071, fun r => { r with vem := w }),
          (0x072, fun r => { r with epc := w &&& ~~~0x7 }), (0x073, fun r => { r with epm := w }),
          (0x074, fun r => { r with cau := (r.cau &&& ~~~0xE0) ||| (w &&& 0xE0) }), (0x076, fun r => { r with scr := w })] :
          List (Nat × (TrapRegs → TrapRegs))),
        o.spr.toNat = e.1 → exec (.mts h o) s = .next (s1.after h (fun c => { c with sup := e.2 c.sup }))) ∧
      (o.spr = 0x053 → exec (.mts h o) s = .next (((s1.self (fun c => (c.readS o.a).2)).updCore s.cur.gid (fun k => { k with pdsd := w })).retire s.cur h)) ∧
      (o.spr = 0x054 → exec (.mts h o) s = .next (((s1.self (fun c => (c.readS o.a).2)).updCore s.cur.gid (fun k => { k with pdct := w })).retire s.cur h)) ∧
      (s.me.prgn.opn = true → exec (.prgnWrite h o) s = .next (s1.fault s.cur h 5 0 s.me.slotVal)) ∧
      (s.me.prgn.opn = false → exec (.prgnWrite h o) s = .next (s1.after h (fun c => { c with prgn := { c.prgn with
        tv := w.getLsbD 62, strm := w.extractLsb' 56 4, ticket := w.extractLsb' 0 32 } }))) ∧
      (s.me.level = .hypervisor → isSvc s.cur.gid = true → ∃ t, exec (.svcrReadyWrite h o) s = .next t ∧
        (t.cluster (gidCl s.cur.gid)).svcr = w.getLsbD 0 ∧
        (w.getLsbD 0 = true → t.dev.rdy = s.dev.rdy ||| BitVec.ofNat 64 (2 ^ (16 + gidCl s.cur.gid))) ∧
        (w.getLsbD 0 = false → t.dev.rdy = s.dev.rdy) ∧ t.mem = s.mem) ∧
      (s.me.level ≠ .user →
        (s.here.ovq ≠ [] → exec (.mqoWrite h o) s = .next ((s1.self (fun c => (c.readS o.a).2)).retire s.cur h)) ∧
        (s.here.ovq = [] → o.spr = 0x088 → exec (.mqoWrite h o) s = .next (((s1.self (fun c => (c.readS o.a).2)).updCore s.cur.gid (fun k =>
          { k with mqoa := BitVec.ofNat 64 (bits w 51 6 * 64) })).retire s.cur h)) ∧
        (s.here.ovq = [] → o.spr = 0x089 → exec (.mqoWrite h o) s = .next (((s1.self (fun c => (c.readS o.a).2)).updCore s.cur.gid (fun k =>
          { k with mqosSize := w.extractLsb' 0 16 })).retire s.cur h))))

/-! ## Barriers, waiting, time, fences (R126, R270-R276) -/

/-- `dtime` writes device time in nanoseconds and latches the lock bit and the fraction, and gives its context's latest reading again while
device time is below it (R419); `budget` arms or disarms a helper of the core and writes true, and false where the helper does not exist; a fence
retires at once where its condition holds and no fence before it waits, and else takes its place behind them while the context goes on; a bad
scope is illegal; `wmon` goes on with true when some byte of its line has a write later than the one that the context's latest load of the line took,
and with false when the core is asked to give up its task. The model's choices: the latest reading of `dtime` (log entry 47); that a context goes on
behind a fence that waits (log entry 6); that a `wmon` with no load of its line waits for a write after its issue, and what a load of several parts
took (log entry 48). -/
def Obligations.TimeAndFences : Prop :=
  ∀ (h : Hdr) (s s1 : State),
    (∀ o : FmtRR, Issues h s .normal [] [o.d] s1 →
      let seen := s1.me.dtSeen * 2 ^ 32 + s1.me.dtFrac.toNat
      let now := s1.dev.ns * 2 ^ 32 + s1.dev.frac.toNat
      (seen ≤ now → exec (.dtime h o) s = .next (s1.after h (fun c => { (c.writeS o.d (BitVec.ofNat 64 s1.dev.ns)) with
        dtLock := s1.dev.dtst.getLsbD 63, dtFrac := s1.dev.frac, dtSeen := s1.dev.ns }))) ∧
      (now < seen → exec (.dtime h o) s = .next (s1.after h (fun c => { (c.writeS o.d (BitVec.ofNat 64 c.dtSeen)) with
        dtLock := s1.dev.dtst.getLsbD 63, dtFrac := c.dtFrac, dtSeen := c.dtSeen })))) ∧
    (∀ (o : FmtS) (m : Fin 64), o.a = .x m → Issues h s .illegal [o.a] [] s1 →
      let n := o.imm.toNat % 16
      let cnt := (s.me.getX m.val).val.extractLsb' 0 32
      ((n = 0 ∨ 11 ≤ n) → exec (.budget h o) s = .next (s1.fault s.cur h 5 0 s.me.slotVal)) ∧
      (0 < n → n < 11 → s1.helpers s.cur.gid < n → exec (.budget h o) s = .next ((s1.self (fun c => (c.readS o.a).2)).after h (fun c => c.writePO o.d false))) ∧
      (0 < n → n < 11 → n ≤ s1.helpers s.cur.gid → exec (.budget h o) s = .next ((((s1.self (fun c => (c.readS o.a).2)).updCtx ⟨s.cur.gid, n⟩ (fun c =>
        { c with budg := if cnt = 0 then { c.budg with arm := false } else ⟨true, false, c.budg.kind, o.sem, cnt⟩ })).self
          (fun c => c.writePO o.d true)).retire s.cur h))) ∧
    (∀ o : FmtSC, Issues h s .normal [o.b] [] s1 →
      let q := s1.me.scopeArg o.b
      ∀ e ∈ ([(.fenceLl, 0), (.fenceSs, 1), (.fenceFull, 2), (.fenceEng, 3)] : List ((Hdr → FmtSC → Instr) × Nat)),
        (q.ok = false → exec (e.1 h o) s = .next (s1.fault s.cur h 5 0 s.me.slotVal)) ∧
        (q.ok = true →
          let f : Fence := ⟨e.2, q, s1.me.seq, s1.now, if s1.me.pend.any Access.loads then none else some s1.now, h⟩
          (s1.me.fences = [] → fenceOk s1 s.cur f = true → exec (e.1 h o) s = .next (s1.retire s.cur h)) ∧
          (s1.me.fences = [] → s1.me.pend = [] → s1.me.sb = [] → s1.invals = [] → s1.here.cmds = [] →
            exec (e.1 h o) s = .next (s1.retire s.cur h)) ∧
          ((s1.me.fences ≠ [] ∨ fenceOk s1 s.cur f = false) → exec (e.1 h o) s = .next (s1.self (fun c =>
            { c with fences := c.fences ++ [f], seq := c.seq + 1 }.advance))) ∧
          (s1.me.pend.any Access.loads = true → e.2 ≠ 1 → fenceOk s1 s.cur f = false))) ∧
    (∀ (o : FmtM) (el : Elem) (seg : Seg) (segs : List Seg) (used : List TlbEntry), Issues h s .illegal (pairOps o.a ++ [o.b]) [o.d] s1 →
      s1.me.busy = none →
      checkElems s1 s.cur.gid s1.me.cdom ⟨s1.me.readPair o.a, [permLoad], kLoad, 1, 0, [⟨memEA s1.me o 1, 1, 0⟩], false⟩
        [⟨memEA s1.me o 1, 1, 0⟩] [] [] = .ok [⟨el, seg :: segs⟩] used →
      let s2 := s1.touchAll s.cur.gid used
      let line := seg.addr / 128
      let now := Sparse.look 0 s2.lineVer (fwdAddr s2 seg.addr / 128)
      let home := fwdAddr s2 seg.addr / 128
      let m : Mon := match Sparse.look none s2.me.mon line with | some k => k | none => ⟨s2.me.seq, now + 1, [], []⟩
      let goes : Word → Prop := fun v => exec (.wmon h o) s = .next ((s2.self (fun c => { (c.writeS o.d v) with
        mon := Sparse.put none c.mon line none })).retire s.cur h)
      (s2.laterWrite m line home = true ↔ ∃ i, i < 128 ∧
        (∀ e ∈ m.held, ¬ (e.2.1 ≤ line * 128 + i ∧ line * 128 + i < e.2.1 + e.2.2)) ∧
        (if Sparse.look 0 m.took (line * 128 + i) = 0 then m.base else Sparse.look 0 m.took (line * 128 + i)) ≤
          Sparse.look 0 s2.byteVer (home * 128 + i)) ∧
      (s2.laterWrite m line home = true → goes 1) ∧
      (s2.laterWrite m line home = false → s2.here.req = true → goes 0) ∧
      (s2.laterWrite m line home = false → s2.here.req = false → exec (.wmon h o) s = .next (s2.self (fun c =>
        { c with busy := some (.monitor line m) }))))

/-! ## Memory (R11, R12, R26, R27, R123, R292-R305) -/

/-- No access is made without authority. An access that passes the checks of R27 has a tagged, well-formed, unsealed capability with every
permission that it needs and bounds that cover it, canonical addresses and its alignment, and every page outside the scratch region has an
entry of the domain in the core's TLB that permits its kind. An access that fails reports the first check that fails, in the order tag,
malformed, seal, permission, bounds, canonical, alignment, and then the scratch region. -/
def Obligations.AccessAuthority : Prop :=
  ∀ (s : State) (g : Nat) (dom : BitVec 12) (c : Cap) (ps : List Nat) (kind : Nat) (ea : Word) (n al : Nat),
    (∀ segs used, checkAccess s g dom c ps kind ea n al = .ok segs used →
      c.tag = true ∧ mdMalformed c.md = false ∧ mdSeal c.md = 0 ∧ (∀ p ∈ ps, c.md.getLsbD p = true) ∧ capValid c.addr c.md = true ∧
      capBase c.addr c.md ≤ (ea.toNat : Int) ∧ ((ea.toNat + n : Nat) : Int) ≤ capTop c.addr c.md ∧ canonical ea = true ∧
      ea.toNat % al = 0 ∧ (∀ e ∈ used, e ∈ (s.core g).tlb ∧ e.dom = dom.toNat ∧ e.permits kind = true) ∧
      (ea.toNat < scratchLo → used ≠ []) ∧ (scratchLo ≤ ea.toNat → used = [] ∧ segs.length = 1)) ∧
    (c.tag = false → checkAccess s g dom c ps kind ea n al = .trap 1 1 ea) ∧
    (c.tag = true → mdMalformed c.md = true → checkAccess s g dom c ps kind ea n al = .trap 1 7 ea) ∧
    (c.tag = true → mdMalformed c.md = false → mdSeal c.md ≠ 0 → checkAccess s g dom c ps kind ea n al = .trap 1 2 ea) ∧
    (c.tag = true → mdMalformed c.md = false → mdSeal c.md = 0 →
      (mdHas c.md ps = false → checkAccess s g dom c ps kind ea n al = .trap 1 3 ea) ∧
      (mdHas c.md ps = true → capCovers c ea n = false → checkAccess s g dom c ps kind ea n al = .trap 1 4 ea) ∧
      (mdHas c.md ps = true → capCovers c ea n = true → (canonical ea = false ∨ canonical (ea + wd (n - 1)) = false) →
        checkAccess s g dom c ps kind ea n al = .trap 1 5 ea) ∧
      (mdHas c.md ps = true → capCovers c ea n = true → canonical ea = true → canonical (ea + wd (n - 1)) = true →
        (ea.toNat % al ≠ 0 → checkAccess s g dom c ps kind ea n al = .trap 1 6 ea) ∧
        (ea.toNat % al = 0 → (touchesScratch ea n).2 = true → checkAccess s g dom c ps kind ea n al = .trap 3 0 ea)))

/-- Loads. Outside a region and merge mode, a load whose checks pass becomes the youngest pending access of its context, with its units at
their home places and its destination; a queue destination keeps its place in the queue; no other register, no semaphore that its clauses do
not name and no byte of memory changes, and the context moves on. A failed check faults with no effect, a miss waits, and a full queue waits.
`pref` never faults and changes no register and no byte. -/
def Obligations.LoadInstructions : Prop :=
  ∀ (h : Hdr) (o : FmtM) (s s1 : State),
    let q := memOrder s1.me o
    let n := sizeBytes o.size
    let loads : (Hdr → FmtM → Instr) → Nat → Nat → List Elem → Nat → Dest → Prop := fun mk kind al elems size dest =>
      let r : Req := ⟨s1.me.readPair o.a, [permLoad], kind, al, o.policy.toNat, elems, false⟩
      (q.ok = false → exec (mk h o) s = .next (s1.fault s.cur h 5 0 s.me.slotVal)) ∧
      (q.ok = true → lqRoom s1.me o.d = false → exec (mk h o) s = .next s1) ∧
      (q.ok = true → lqRoom s1.me o.d = true → ∀ k sub v, checkElems s1 s.cur.gid s1.me.cdom r elems [] [] = .trap k sub v →
        exec (mk h o) s = .next (s1.fault s.cur h k sub v)) ∧
      (q.ok = true → lqRoom s1.me o.d = true → isSvc s.cur.gid = false → ∀ va prot ea,
        checkElems s1 s.cur.gid s1.me.cdom r elems [] [] = .miss va prot ea →
        exec (mk h o) s = .next ((s1.miss s.cur none s1.me.cdom.toNat kind va prot).self (fun c => { c with missEA := none }))) ∧
      (q.ok = true → lqRoom s1.me o.d = true → s1.me.region = none → s1.here.mrg = none → ∀ parts used,
        checkElems s1 s.cur.gid s1.me.cdom r elems [] [] = .ok parts used →
        ∃ t e, exec (mk h o) s = .next t ∧ t.me.pend = s.me.pend ++ [e] ∧ e.id = s.nextId ∧ e.seq = s.me.seq ∧ e.op = .load ∧
          e.ord = q ∧ e.size = size ∧ e.dest = dest ∧ e.ovl = [] ∧
          e.units = parts.flatMap (fun p => loadUnits p.segs p.el.ea.toNat p.el.len kind o.policy.toNat p.el.off false) ∧
          e.via = used.map (fun u => (u.vpn, u.size, u.dom)) ∧
          t.nextId = s.nextId + 1 ∧ t.me.seq = s.me.seq + 1 ∧
          (∀ m, t.me.getLq m = s.me.getLq m ++ (if dest = .lq m then [.pending s.nextId] else [])) ∧
          (∀ m, t.me.getSq m = s.me.getSq m ++ (if dest = .sq m then [.pending s.nextId] else [])) ∧
          t.me.x = s.me.x ∧ t.me.v = s.me.v ∧ t.me.k = s.me.k ∧ t.me.p = s.me.p ∧ t.me.sb = s.me.sb ∧ s.me.Advanced t.me ∧
          s.SemsAfter h (t.core s.cur.gid) ∧ t.mem = s.mem ∧ t.tags = s.tags ∧ t.poison = s.poison)
    (Issues h s .normal (pairOps o.a ++ [o.b]) [o.d] s1 →
      (∀ mk ∈ ([.ld, .ldv, .ldq] : List (Hdr → FmtM → Instr)), loads mk kLoad 1 [⟨memEA s1.me o n, n, 0⟩] n (loadDest o.d)) ∧
      loads .ldg kLoad 1 (byAddr (gatherElems s1.me o)) 128 (loadDest o.d)) ∧
    (∀ m : Fin 64, o.d = .x m → Issues h s .normal (pairOps o.a ++ [o.b]) (pairOps o.d) s1 →
      loads .ldc kLdc 16 [⟨memEA s1.me o 16, 16, 0⟩] 16 (.pair m.val ((s1.me.readPair o.a).md.getLsbD 60))) ∧
    (Issues h s .normal (pairOps o.a ++ [o.b]) [] s1 →
      ∃ t, exec (.pref h o) s = .next t ∧ SameRegs s.me t.me ∧ s.me.Advanced t.me ∧ t.me.pend = s.me.pend ∧
        s.SemsAfter h (t.core s.cur.gid) ∧ t.mem = s.mem ∧ t.tags = s.tags ∧ t.poison = s.poison)

/-- Stores. A store takes its data from a scalar or vector register, from a load-data queue, which it pops, or from the entry at the head of a
store-data queue, which it pops; with no entry there it waits (R118, R295; that it waits at its issue is log entry 20's reading). Outside a region
and merge mode, a store whose checks pass enters the store buffer with its units at their home places, its data and its tag, and retires; no
register, no byte of memory and no tag changes until the store is performed. Inside a region it changes only the region's proposals, and in merge
mode only the merge buffer and its log, once the lines of the log that it spills to can be reached. A failed check faults with no effect. `st.mc`
enters one store for each destination of its fan. -/
def Obligations.StoreInstructions : Prop :=
  ∀ (h : Hdr) (o : FmtM) (s s1 : State),
    let q := memOrder s1.me o
    let n := sizeBytes o.size
    let buffered : State → Req → Order → List Part → List TlbEntry → List Byte → Bool → Bool → State :=
      fun s2 r ord ps used data tag multi => (s2.self (fun c => { c with
        sb := c.sb ++ sbEntries c.seq r ord data tag multi (used.map (fun u => (u.vpn, u.size, u.dom))) ps
        seq := c.seq + ps.length + 1 })).retire s.cur h
    let fails : Instr → Req → List Elem → Prop := fun i r elems =>
      (∀ k sub v, checkElems s1 s.cur.gid s1.me.cdom r elems [] [] = .trap k sub v → exec i s = .next (s1.fault s.cur h k sub v)) ∧
      (isSvc s.cur.gid = false → ∀ va prot ea, checkElems s1 s.cur.gid s1.me.cdom r elems [] [] = .miss va prot ea →
        exec i s = .next ((s1.miss s.cur none s1.me.cdom.toNat r.kind va prot).self (fun c =>
          { c with missEA := if r.kind = kMulti then some ea else none })))
    let stored : Instr → Req → List Part → List TlbEntry → State → List Byte → Bool → Prop := fun i r ps used s2 data tag =>
      let units := ps.flatMap (fun p => p.storeUnits r)
      (s1.me.region = none → s1.here.mrg = none → exec i s = .next (buffered s2 r q ps used data tag false)) ∧
      (∀ rg, s1.me.region = some rg →
        (∀ ls, proposeUnits (256 - s1.here.brineUsed) data tag units rg.lines = some ls →
          ∃ t rg2, exec i s = .next t ∧ t.me.region = some rg2 ∧ rg2.lines = ls ∧ rg2.reads = rg.reads ∧ rg2.blk = rg.blk ∧
            rg2.fail = rg.fail ∧ t.me.sb = s.me.sb ∧ t.me.x = s.me.x ∧ s.me.Advanced t.me ∧ t.mem = s.mem ∧ t.tags = s.tags ∧
            t.poison = s.poison) ∧
        (proposeUnits (256 - s1.here.brineUsed) data tag units rg.lines = none →
          exec i s = .next (s2.capacityAbort s.cur))) ∧
      (s1.me.region = none → s1.here.mrg.isSome = true →
        ∀ ask, ask = s2.devGet false (s2.spillLines s.cur.gid (units.length + s1.here.brineUsed - 256)) →
        (ask = .no → exec i s = .next (s2.setCtx s.cur s1.me)) ∧
        (∀ u, ask = .wait u → exec i s = .next (u.setCtx s.cur s1.me)) ∧
        (∀ u, ask = .go u →
          (∀ t, u.mergeUnits s.cur.gid data tag units = some t → exec i s = .next ((t.mergeVia s.cur.gid used).retire s.cur h)) ∧
          (u.mergeUnits s.cur.gid data tag units = none → ∀ e rest, ps = e :: rest → exec i s = .next (s1.fault s.cur h 7 2 e.el.ea))))
    let stores : (Hdr → FmtM → Instr) → List Elem → Nat → Prop := fun mk elems len =>
      let r : Req := ⟨s1.me.readPair o.a, storePerms s1.me false, kStore, 1, o.policy.toNat, elems, false⟩
      (q.ok = false → exec (mk h o) s = .next (s1.fault s.cur h 5 0 s.me.slotVal)) ∧
      (q.ok = true → fails (mk h o) r elems ∧
        (∀ parts used, checkElems s1 s.cur.gid s1.me.cdom r elems [] [] = .ok parts used →
          let s2 := s1.touchAll s.cur.gid used
          let ps := sortBy (fun p => p.el.off) parts
          let same := s2.self (fun c => c)
          (∀ m : Fin 64, o.d = .x m → stored (mk h o) r ps used same (toBytes len (s.me.getX m.val).val.toNat) false) ∧
          (∀ m : Fin 32, o.d = .v m → stored (mk h o) r ps used same ((lineBytes (s.me.getV m.val)).take len) false) ∧
          (∀ (m : Fin 4) (e : Line) (rest : List QEntry), o.d = .lq m → s1.me.getLq m.val = .val e :: rest →
            stored (mk h o) r ps used (s2.self (fun c => c.putLq m.val rest)) ((lineBytes e).take len) false) ∧
          (∀ m : Fin 2, o.d = .sq m →
            (∀ e rest, s1.me.getSq m.val = .val e :: rest →
              stored (mk h o) r ps used (s2.self (fun c => c.putSq m.val rest)) ((lineBytes e).take len) false) ∧
            ((∀ e rest, s1.me.getSq m.val ≠ .val e :: rest) → exec (mk h o) s = .next s2))))
    (Issues h s .normal (pairOps o.a ++ [o.b] ++ storeSrcs o.d) [] s1 →
      ∀ mk ∈ ([.st, .stv, .stq] : List (Hdr → FmtM → Instr)), stores mk [⟨memEA s1.me o n, n, 0⟩] n) ∧
    (∀ m : Fin 32, o.d = .v m → Issues h s .normal (pairOps o.a ++ [o.b, o.d]) [] s1 → stores .stg (byAddr (gatherElems s1.me o)) 128) ∧
    (Issues h s .normal (pairOps o.a ++ [o.b] ++ pairOps o.d) [] s1 →
      let k := s1.me.readPair o.d
      let elems : List Elem := [⟨memEA s1.me o 16, 16, 0⟩]
      let r : Req := ⟨s1.me.readPair o.a, storePerms s1.me k.tag, kStc, 16, o.policy.toNat, elems, false⟩
      (q.ok = false → exec (.stc h o) s = .next (s1.fault s.cur h 5 0 s.me.slotVal)) ∧
      (q.ok = true → fails (.stc h o) r elems ∧
        (∀ parts used, checkElems s1 s.cur.gid s1.me.cdom r elems [] [] = .ok parts used →
          stored (.stc h o) r parts used ((s1.touchAll s.cur.gid used).self (fun c => c)) (toBytes 8 k.addr.toNat ++ toBytes 8 k.md.toNat) k.tag))) ∧
    (Issues h s .illegal (pairOps o.a ++ pairOps o.b ++ [o.d]) [] s1 →
      let fan := (s1.me.getX (opNum o.b)).val
      let ord : Order := if o.order = 0 then Order.plain
        else ⟨o.order.getLsbD 0, o.order.getLsbD 1, (s1.me.getX (opNum o.b + 1)).val, fan.getLsbD 48⟩
      let elems := byAddr ((List.range (bits fan 63 56 + 1)).map (fun j =>
        (⟨(s1.me.readPair o.a).addr + o.offset.signExtend 64 + BitVec.ofNat 64 j * (fan.extractLsb' 0 48).signExtend 64, n, 0⟩ : Elem)))
      let r : Req := ⟨s1.me.readPair o.a, [permStore], kMulti, 1, o.policy.toNat, elems, false⟩
      let good := s1.here.mrg = none ∧ bits fan 55 49 = 0 ∧ (o.order = 0 → fan.getLsbD 48 = false) ∧ ord.ok = true
      (¬ good → exec (.stMc h o) s = .next (s1.fault s.cur h 5 0 s.me.slotVal)) ∧
      (good → fails (.stMc h o) r elems ∧
        (∀ parts used, checkElems s1 s.cur.gid s1.me.cdom r elems [] [] = .ok parts used →
          let s2 := s1.touchAll s.cur.gid used
          let same := s2.self (fun c => c)
          (∀ m : Fin 64, o.d = .x m →
            exec (.stMc h o) s = .next (buffered same r ord parts used (toBytes n (s.me.getX m.val).val.toNat) false true)) ∧
          (∀ m : Fin 32, o.d = .v m →
            exec (.stMc h o) s = .next (buffered same r ord parts used ((lineBytes (s.me.getV m.val)).take n) false true)) ∧
          (∀ (m : Fin 4) (e : Line) (rest : List QEntry), o.d = .lq m → s1.me.getLq m.val = .val e :: rest →
            exec (.stMc h o) s = .next (buffered (s2.self (fun c => c.putLq m.val rest)) r ord parts used ((lineBytes e).take n) false true)))))

/-- Atomics and reducing stores become pending accesses with their operand and comparand, a reducing store of a vector one for each element, checked
in ascending order of their addresses; they are illegal in merge mode; nothing of memory and no register changes until they are performed. Cache
maintenance reads nothing into a register and leaves every byte as it is: `cwb` sends a dirty line through a write-back slot, keeps every copy
clean, and retires once the line is clean and its slot has drained; `cinv` evicts the line step by step, and retires once no cache holds it and its
slot has drained (R305). -/
def Obligations.AtomicInstructions : Prop :=
  ∀ (h : Hdr) (o : FmtM) (s s1 : State),
    let q := memOrder s1.me o
    let n := sizeBytes o.size
    let perms := [permLoad, permStore, permAtomic]
    let issued : (Hdr → FmtM → Instr) → AccOp → Nat → List Elem → (Elem → List Byte) → List Byte → Dest → Prop :=
      fun mk op kind elems opnd cmp dest =>
        let r : Req := ⟨s1.me.readPair o.a, perms, kind, n, o.policy.toNat, elems, false⟩
        ((s1.here.mrg.isSome = true ∨ q.ok = false) → exec (mk h o) s = .next (s1.fault s.cur h 5 0 s.me.slotVal)) ∧
        (s1.here.mrg = none → q.ok = true → ∀ k sub v, checkElems s1 s.cur.gid s1.me.cdom r elems [] [] = .trap k sub v →
          exec (mk h o) s = .next (s1.fault s.cur h k sub v)) ∧
        (s1.here.mrg = none → q.ok = true → ∀ parts used, checkElems s1 s.cur.gid s1.me.cdom r elems [] [] = .ok parts used →
          ∃ t es, exec (mk h o) s = .next t ∧ t.me.pend = s.me.pend ++ es ∧ es.length = elems.length ∧
            (∀ (i : Nat) (e : Access) (el : Elem), es[i]? = some e → elems[i]? = some el → e.op = op ∧ e.opnd = opnd el ∧ e.cmp = cmp ∧ e.dest = dest ∧ e.ord = q ∧
              e.seq = s.me.seq ∧ e.size = n) ∧
            t.me.seq = s.me.seq + 1 ∧ t.me.x = s.me.x ∧ t.me.v = s.me.v ∧ t.me.sb = s.me.sb ∧ s.me.Advanced t.me ∧
            s.SemsAfter h (t.core s.cur.gid) ∧ t.mem = s.mem ∧ t.tags = s.tags ∧ t.poison = s.poison)
    (∀ m : Fin 64, o.d = .x m → Issues h s .illegal (pairOps o.a ++ [o.b] ++ [o.d]) [o.d] s1 →
      ∀ e ∈ ([(.amoAdd, 0), (.amoAnd, 1), (.amoOr, 2), (.amoXor, 3), (.amoMin, 4), (.amoMax, 5), (.amoSwap, 6), (.amoFadd, 8)] :
          List ((Hdr → FmtM → Instr) × Nat)),
        issued e.1 (.amo e.2) kAtomic [⟨memEA s1.me o n, n, 0⟩] (fun _ => toBytes n (s.me.getX m.val).val.toNat) [] (.x m.val)) ∧
    (∀ m : Fin 64, o.d = .x m → Issues h s .illegal (pairOps o.a ++ [o.b] ++ pairOps o.d) [o.d] s1 →
      issued .amoCas (.amo 7) kAtomic [⟨memEA s1.me o n, n, 0⟩] (fun _ => toBytes n (s.me.getX (m.val + 1)).val.toNat)
        (toBytes n (s.me.getX m.val).val.toNat) (.x m.val)) ∧
    (Issues h s .illegal (pairOps o.a ++ [o.b, o.d]) [] s1 →
      ∀ e ∈ ([(.stRedAdd, 0), (.stRedMin, 4), (.stRedMax, 5), (.stRedFadd, 8)] : List ((Hdr → FmtM → Instr) × Nat)),
        (∀ m : Fin 64, o.d = .x m → issued e.1 (.red e.2) kMulti [⟨memEA s1.me o n, n, 0⟩]
          (fun _ => toBytes n (s.me.getX m.val).val.toNat) [] .none) ∧
        (∀ (m : Fin 4) (v : Line) (rest : List QEntry), o.d = .lq m → s1.me.getLq m.val = .val v :: rest →
          issued e.1 (.red e.2) kMulti [⟨memEA s1.me o n, n, 0⟩] (fun _ => (lineBytes v).take n) [] .none) ∧
        (∀ m : Fin 32, o.d = .v m →
          issued e.1 (.red e.2) kMulti
            (byAddr ((List.range (128 / n)).map (fun i => ⟨memEA s1.me o n + BitVec.ofNat 64 (i * n), n, i * n⟩)))
            (fun el => ((lineBytes (s.me.getV m.val)).drop el.off).take n) [] .none)) ∧
    (Issues h s .illegal (pairOps o.a ++ [o.b]) [] s1 →
      ∀ (p : Part) (used : List TlbEntry) (seg : Seg) (rest : List Seg), p.segs = seg :: rest →
        checkElems s1 s.cur.gid s1.me.cdom ⟨s1.me.readPair o.a, [permLoad], kLoad, 1, 0, [⟨memEA s1.me o 1, 1, 0⟩], false⟩
          [⟨memEA s1.me o 1, 1, 0⟩] [] [] = .ok [p] used →
        let s2 := s1.touchAll s.cur.gid used
        let line := fwdAddr s2 seg.addr / 128
        let k := s2.sliceOf line
        let dirty := s2.l1Dirty line || k.dirty.contains line
        let gone := !k.present.contains line && !k.collects.any (fun c => c.2.1 == line) && !k.ovf.contains line && (s2.keepers line).isEmpty
        (isScratch seg.addr = true → ∀ mk ∈ ([.cwb, .cinv] : List (Hdr → FmtM → Instr)), exec (mk h o) s = .next (s2.retire s.cur h)) ∧
        (isScratch seg.addr = false →
          (dirty = false → s2.draining line = false → exec (.cwb h o) s = .next (s2.retire s.cur h)) ∧
          (dirty = true → s2.slotFor line = true → s2.ecc = [] →
            ∃ t, exec (.cwb h o) s = .next t ∧ t.l1Dirty line = false ∧ (t.sliceOf line).dirty.contains line = false ∧
              (t.sliceOf line).wb = k.wb ++ [(line, false)] ∧ (t.sliceOf line).present = k.present ∧
              (∀ g, (t.core g).copies = (s.core g).copies) ∧ SameRegs s.me t.me ∧ t.me.slot = s.me.slot ∧ t.mem = s.mem ∧ t.tags = s.tags) ∧
          (dirty = true → s2.slotFor line = false → exec (.cwb h o) s = .next s2) ∧
          (dirty = false → s2.draining line = true → exec (.cwb h o) s = .next s2) ∧
          (gone = true → s2.draining line = false → exec (.cinv h o) s = .next (s2.retire s.cur h)) ∧
          (gone = true → s2.draining line = true → exec (.cinv h o) s = .next s2) ∧
          (gone = false → s2.evictStep line = none → exec (.cinv h o) s = .next s2) ∧
          (∀ t, gone = false → s2.evictStep line = some t → exec (.cinv h o) s = .next t ∧ (s2.ecc = [] → t.mem = s.mem ∧ t.tags = s.tags))))

/-- What the moves of the ordering machine do to a single-unit access of a program's context, outside format windows, holes, poison and memory
errors, once its line is there (`State.askAccess` goes on; else the move makes the request and leaves the access, or is not enabled). A store
that is performed puts its bytes at its home address and leaves every other byte, and its granules lose their tags; a read takes the home's
bytes, or those of the core's own copy, or those of the youngest earlier store that covers it, and writes them to its register; poisoned data
gives zero; an atomic writes its result over the old value, which goes to its register; a reducing store does so too, ordered as a store, and returns
nothing. None of them changes a byte elsewhere. Copies and
slices. An invalidation that is delivered removes the target's copy and is in flight no more; a core may drop a copy at any time; a fill enters
its line, where its set has room, and its requests can be performed; a write-back slot drains; a victim entry moves into a slot; a directory
reply leaves its flight. No byte of memory changes. -/
def Obligations.OrderingMoves : Prop :=
  (∀ (s : State) (a : Agent) (j : Nat), s.ev = .access a j 0 → a.ctx < 11 → s.ecc = [] →
      (∀ (e : SbEntry) (x : SUnit), (s.ctx a).sb[j]? = some e → e.units = [x] → x.done = false → x.off = 0 →
        e.data.length = x.len → e.whole = false → e.tag = false →
        s.mayPerform a e.seq e.ord x.addr x.len false true = true → noSbOverlap (s.ctx a) e.seq x.addr x.len = true →
        ∀ addr, addr = fwdAddr s x.addr →
        let asks := s.askAccess a (.unit a 1 e.seq e.firstAddr) addr x.pol true false
        (∀ u, asks = .go u →
          ∃ t, exec .performStore s = .next t ∧ (t.ctx a).sb = (s.ctx a).sb.eraseIdx j ∧ (t.ctx a).x = (s.ctx a).x ∧
            t.poison = s.poison ∧ (∀ y, (y < addr ∨ addr + x.len ≤ y) → t.byte y = s.byte y) ∧
            (reservedPA s (s.partOf a.gid) (isSvc a.gid) addr = true → ∀ y, t.byte y = s.byte y) ∧
            (reservedPA s (s.partOf a.gid) (isSvc a.gid) addr = false →
              (∀ i, i < x.len → t.byte (addr + i) = e.data.getD i 0) ∧
              (∀ g, g ∈ t.tags ↔ g ∈ s.tags ∧ ¬ (x.len ≠ 0 ∧ addr / 16 ≤ g ∧ g ≤ (addr + x.len - 1) / 16)))) ∧
        (∀ u, asks = .wait u → exec .performStore s = .next u ∧ (u.ctx a).sb = (s.ctx a).sb ∧ u.mem = s.mem ∧ u.tags = s.tags) ∧
        (asks = .no → exec .performStore s = .fault (.notEnabled "PERFORM_STORE"))) ∧
      (∀ (e : Access) (x : AUnit) (n : Nat), (s.ctx a).pend[j]? = some e → e.units = [x] → x.got = none → x.off = 0 → x.len = e.size →
        0 < e.size → e.ovl = [] → e.dest = .x n → n ≠ 0 →
        let after : State → List Byte → Prop := fun t bs =>
          (t.ctx a).getX n = ⟨BitVec.ofNat 64 (ofBytes bs), false⟩ ∧ (t.ctx a).pend = (s.ctx a).pend.filter (fun f => f.id ≠ e.id) ∧
          (∀ m, m ≠ n → ((t.ctx a).getX m).val = ((s.ctx a).getX m).val) ∧ (t.ctx a).v = (s.ctx a).v ∧ t.poison = s.poison
        let hole := reservedPA s (s.partOf a.gid) (isSvc a.gid) (fwdAddr s x.addr)
        ∀ addr, addr = fwdAddr s x.addr →
        (∀ u, e.op = .load → s.mayPerform a e.seq e.ord x.addr x.len true false = true → noSbOverlap (s.ctx a) e.seq x.addr x.len = true →
          s.askAccess a (.unit a 0 e.id 0) addr x.pol false false = .go u →
          (hole = false → (isScratch addr = true ∨ windowOf s addr = none) → s.poisoned addr = false →
            ∃ t, exec .readHome s = .next t ∧ after t (s.bytes addr x.len) ∧ t.mem = s.mem ∧ t.tags = s.tags) ∧
          ((hole = true ∨ ((isScratch addr = true ∨ windowOf s addr = none) ∧ s.poisoned addr = true)) →
            ∃ t, exec .readHome s = .next t ∧ after t [] ∧ t.mem = s.mem ∧ t.tags = s.tags)) ∧
        (∀ u, e.op = .load → s.mayPerform a e.seq e.ord x.addr x.len true false = true → noSbOverlap (s.ctx a) e.seq x.addr x.len = true →
          s.askAccess a (.unit a 0 e.id 0) addr x.pol false false = .wait u →
          exec .readHome s = .next u ∧ (u.ctx a).pend = (s.ctx a).pend ∧ u.mem = s.mem ∧ u.tags = s.tags) ∧
        (∀ k, e.op = .load → s.mayPerform a e.seq e.ord x.addr x.len true false = true → noSbOverlap (s.ctx a) e.seq x.addr x.len = true →
          (s.core a.gid).copy (addr / 128) = some k → (s.core a.gid).l1.dl.contains (addr / 128) = true → x.pol ≤ 2 →
          isScratch addr = false → k.psn = false →
          ∃ t, exec .readCopy s = .next t ∧ after t ((List.range x.len).map (fun i => lineByte k.data (addr % 128 + i))) ∧ t.mem = s.mem ∧
            t.tags = s.tags) ∧
        (∀ b y, e.op = .load → s.mayPerform a e.seq e.ord x.addr x.len true false = true →
          youngestOverlap (s.ctx a) e.seq x.addr x.len = some (b, y) → y.addr ≤ x.addr → x.addr + x.len ≤ y.addr + y.len →
          ∃ t, exec .forward s = .next t ∧ after t ((b.data.drop (y.off + (x.addr - y.addr))).take x.len) ∧ t.mem = s.mem ∧ t.tags = s.tags) ∧
        (∀ op u, e.op = .amo op → s.mayPerform a e.seq e.ord x.addr x.len true true = true →
          noSbOverlap (s.ctx a) e.seq x.addr x.len = true → s.askAccess a (.unit a 0 e.id 0) addr x.pol true false = .go u →
          hole = false → (isScratch addr = true ∨ windowOf s addr = none) → s.poisoned addr = false →
          ∃ t, exec .atomic s = .next t ∧ after t (s.bytes addr x.len) ∧
            (∀ y, (y < addr ∨ addr + x.len ≤ y) → t.byte y = s.byte y) ∧
            (let old := ofBytes (s.bytes addr x.len)
             let b := ofBytes e.opnd
             let w := 8 * x.len
             let new := ofBytes (t.bytes addr x.len)
             (op = 0 → new = (old + b) % 2 ^ w) ∧ (op = 1 → new = (old &&& b) % 2 ^ w) ∧ (op = 2 → new = (old ||| b) % 2 ^ w) ∧
             (op = 3 → new = (old ^^^ b) % 2 ^ w) ∧
             (op = 4 → new = (if sext w old ≤ sext w b then old else b) % 2 ^ w) ∧
             (op = 5 → new = (if sext w old ≤ sext w b then b else old) % 2 ^ w) ∧ (op = 6 → new = b % 2 ^ w) ∧
             (op = 7 → new = if old = ofBytes e.cmp then b % 2 ^ w else old) ∧
             (op = 8 → x.len = 4 → new = (faddF 8 0 false (decodeF 8 old) (decodeF 8 b)).raw % 2 ^ w) ∧
             (op = 8 → x.len = 8 → new = (faddF 7 0 false (decodeF 7 old) (decodeF 7 b)).raw % 2 ^ w)))) ∧
      (∀ (e : Access) (x : AUnit) (op : Nat), (s.ctx a).pend[j]? = some e → e.units = [x] → x.got = none → e.op = .red op → e.dest = .none →
        s.mayPerform a e.seq e.ord x.addr x.len false true = true → noSbOverlap (s.ctx a) e.seq x.addr x.len = true →
        ∀ addr u, addr = fwdAddr s x.addr → s.askAccess a (.unit a 0 e.id 0) addr x.pol true false = .go u →
        reservedPA s (s.partOf a.gid) (isSvc a.gid) addr = false → (isScratch addr = true ∨ windowOf s addr = none) →
        s.poisoned addr = false →
        ∃ t, exec .atomic s = .next t ∧ (t.ctx a).pend = (s.ctx a).pend.filter (fun f => f.id ≠ e.id) ∧ (t.ctx a).x = (s.ctx a).x ∧
          (t.ctx a).v = (s.ctx a).v ∧ (∀ y, (y < addr ∨ addr + x.len ≤ y) → t.byte y = s.byte y) ∧
          (let old := ofBytes (s.bytes addr x.len)
           let b := ofBytes e.opnd
           let w := 8 * x.len
           let new := ofBytes (t.bytes addr x.len)
           (op = 0 → new = (old + b) % 2 ^ w) ∧ (op = 4 → new = (if sext w old ≤ sext w b then old else b) % 2 ^ w) ∧
           (op = 5 → new = (if sext w old ≤ sext w b then b else old) % 2 ^ w) ∧
           (op = 8 → x.len = 4 → new = (faddF 8 0 false (decodeF 8 old) (decodeF 8 b)).raw % 2 ^ w) ∧
           (op = 8 → x.len = 8 → new = (faddF 7 0 false (decodeF 7 old) (decodeF 7 b)).raw % 2 ^ w)))) ∧
  (∀ s : State,
      (∀ wid g v, s.ev = .two wid g → g ≠ allCores → s.invals.find? (fun v => v.wid == wid && v.target == g) = some v →
        ∃ t, exec .deliver s = .next t ∧ (t.core g).copy v.line = none ∧ v ∉ t.invals ∧ (∀ w, w ≠ v → w ∈ s.invals → w ∈ t.invals) ∧
          g ∉ t.sharers v.line ∧ t.mem = s.mem ∧ t.tags = s.tags ∧ t.poison = s.poison) ∧
      (∀ g line, s.ev = .two g line → ((s.core g).copy line).isSome = true →
        ∃ t, exec .drop s = .next t ∧ (t.core g).copy line = none ∧ g ∉ t.sharers line ∧ t.mem = s.mem ∧ t.tags = s.tags) ∧
      (∀ line, s.ev = .one line →
        (∀ e, (s.updSliceOf line s.sweep).sliceOf line = s.sliceOf line → (s.sliceOf line).entry? line = some e → e.filled = false →
          notReadyPA s none true (line * 128) = false →
          (e.alloc = false ∨ ((s.sliceOf line).present.filter (fun l => decide (l % 1024 = line % 1024))).length < 16) → s.ecc = [] →
          ∃ t, exec .sliceFill s = .next t ∧ (e.alloc = true → (t.sliceOf line).present.contains line = true) ∧
            (∀ r ∈ e.reqs, r.pref = false → (t.sliceOf line).grants r.who r.line = true) ∧ t.mem = s.mem ∧ t.tags = s.tags) ∧
        (∀ e, (s.sliceOf line).wb.find? (fun e => decide (e.1 = line)) = some e →
          ∃ t, exec .writeBack s = .next t ∧ (t.sliceOf line).wb = (s.sliceOf line).wb.erase e ∧ t.mem = s.mem)) ∧
      (∀ g line, s.ev = .two g line → (s.core g).l1.vict.contains line = true → (s.sliceOf line).wb.length < 16 →
        ∃ t, exec .writeBack s = .next t ∧ (t.sliceOf line).wb = (s.sliceOf line).wb ++ [(line, true)] ∧
          (t.core g).l1.vict = (s.core g).l1.vict.erase line ∧ t.mem = s.mem) ∧
      (∀ j cl slice bs, s.ev = .one j → s.flights[j]? = some (.dir cl slice bs) → s.inOrder j = true →
        ∃ t, exec .directoryReply s = .next t ∧ t.flights = s.flights.eraseIdx j ∧ t.mem = s.mem ∧ t.tags = s.tags))

/-! ## Scratch banks (R63, R72-R82) -/

/-- Bank instructions. Without authority over the slot's window the instruction faults; otherwise its result names the reason (0 done, 1 not
empty, 2 domains differ, 3 no bank, 4 no free bank, 5 bank not free, 6 number too large) in BSTAT and its predicate is true exactly at 0.
`btake` maps a free bank than which no free bank is nearer, `bmap` the bank that B names, a load-data queue's entry among them (R240); `bgive`,
`bfree` and `bdrain` take their indivisible step and drain; `ringrot` without a ring is done at once, else it arrives at its barrier. No byte
of memory changes. -/
def Obligations.BankInstructions : Prop :=
  ∀ (h : Hdr) (o : FmtK) (s s1 : State), Issues h s .illegal (pairOps o.a ++ [o.b]) [o.d] s1 →
    let slot := o.slot.toNat
    let g := s.cur.gid
    let cl := gidCl g
    let ends : (Hdr → FmtK → Instr) → Nat → Prop := fun mk reason =>
      exec (mk h o) s = .next (s1.after h (fun c => { (c.writePO o.d (decide (reason = 0))) with bstat := BitVec.ofNat 4 reason }))
    let rb := s1.me.readS o.b
    let endsB : (Hdr → FmtK → Instr) → Nat → Prop := fun mk reason =>
      exec (mk h o) s = .next ((s1.setCtx s.cur rb.2).after h (fun c =>
        { (c.writePO o.d (decide (reason = 0))) with bstat := BitVec.ofNat 4 reason }))
    let auth := fun perm => capCheck (s1.me.readPair o.a) [perm] (BitVec.ofNat 64 (0xFFFFFFFFFFF80000 + slot * 65536)) 65536
    let mapped : (Hdr → FmtK → Instr) → Nat → Prop := fun mk n =>
      ∃ t, exec (mk h o) s = .next t ∧ (t.core g).slot slot = ⟨true, false, false, n⟩ ∧ (t.cluster cl).isFree n = false ∧
        (∀ m, m ≠ n → (t.cluster cl).isFree m = (s.cluster cl).isFree m) ∧ (∀ m, m ≠ slot → (t.core g).slot m = (s.core g).slot m) ∧
        t.me.bstat = 0 ∧ (∀ p : Fin 8, o.d = .p p → p ≠ 0 → t.me.getP p.val = true) ∧ t.me.x = s.me.x ∧ s.me.Advanced t.me ∧
        t.mem = s.mem ∧ t.tags = s.tags
    let drains : (Hdr → FmtK → Instr) → Drain → Prop := fun mk d =>
      ∃ t, exec (mk h o) s = .next t ∧ (t.core g).drains = (s.core g).drains ++ [d] ∧ t.me.busy = some (.drain h o.d) ∧
        t.me.x = s.me.x ∧ t.me.slot = s.me.slot ∧ t.mem = s.mem ∧ t.tags = s.tags ∧
        (d.kind ≠ 2 → (t.core g).slot slot = ⟨false, true, false, 0⟩) ∧ (d.kind = 0 → ((t.core d.tgt).slot d.tslot).inn = true)
    (∀ e ∈ ([(.btake, permStore), (.bmap, permStore), (.bdrain, permLoad)] : List ((Hdr → FmtK → Instr) × Nat)),
      slot ≤ 7 → ∀ cause, auth e.2 = some cause →
        exec (e.1 h o) s = .next (s1.fault s.cur h 1 cause (BitVec.ofNat 64 (0xFFFFFFFFFFF80000 + slot * 65536)))) ∧
    (s1.here.mrg = none → slot ≤ 7 → ∀ cause, auth permGive = some cause → ∀ mk ∈ ([.bgive, .bfree] : List (Hdr → FmtK → Instr)),
        exec (mk h o) s = .next (s1.fault s.cur h 1 cause (BitVec.ofNat 64 (0xFFFFFFFFFFF80000 + slot * 65536)))) ∧
    (7 < slot → ends .btake 6 ∧ endsB .bmap 6 ∧ ends .bdrain 6 ∧ (s1.here.mrg = none → endsB .bgive 6 ∧ ends .bfree 6)) ∧
    (slot ≤ 7 → auth permStore = none →
      ((s1.here.slot slot).isEmpty = false → ends .btake 1) ∧
      ((s1.here.slot slot).isEmpty = true → (∀ n, (s.cluster cl).isFree n = false) → ends .btake 4) ∧
      ((s1.here.slot slot).isEmpty = true → (∃ m, (s.cluster cl).isFree m = true) →
        ∃ n, (s.cluster cl).isFree n = true ∧ mapped .btake n ∧
          ∀ m, (s.cluster cl).isFree m = true → latency (gidIdx g) (n / 8) ≤ latency (gidIdx g) (m / 8)) ∧
      (∀ n, n = rb.1.toNat →
        (2047 < n → endsB .bmap 6) ∧
        (n ≤ 2047 → (s1.here.slot slot).isEmpty = false → endsB .bmap 1) ∧
        (n ≤ 2047 → (s1.here.slot slot).isEmpty = true → (s.cluster cl).isFree n = false → endsB .bmap 5) ∧
        ((s1.here.slot slot).isEmpty = true → (s.cluster cl).isFree n = true → mapped .bmap n))) ∧
    (slot ≤ 7 → auth permGive = none → s1.here.mrg = none →
      ((s1.here.slot slot).valid = false → ends .bfree 3) ∧
      ((s1.here.slot slot).valid = true → s1.proposers cl (s1.here.slot slot).bank = [] →
        drains .bfree ⟨1, slot, (s1.here.slot slot).bank, 0, 0, 0, s.cur.ctx, true, h.ss, h.si, []⟩) ∧
      (∀ tc tg, tc = (if o.b = .x 0 then o.tcore.toNat else rb.1.toNat) → tg = gidOf cl tc →
        ((7 < o.tslot.toNat ∨ 255 < tc) → endsB .bgive 6) ∧
        (o.tslot.toNat ≤ 7 → tc ≤ 255 →
          ((s1.here.slot slot).valid = false → endsB .bgive 3) ∧
          ((s1.here.slot slot).valid = true → (s1.core tg).slotDom ≠ s1.here.slotDom → endsB .bgive 2) ∧
          ((s1.here.slot slot).valid = true → (s1.core tg).slotDom = s1.here.slotDom →
            ((s1.core tg).slot o.tslot.toNat).isEmpty = false → endsB .bgive 1) ∧
          ((s1.here.slot slot).valid = true → (s1.core tg).slotDom = s1.here.slotDom →
            ((s1.core tg).slot o.tslot.toNat).isEmpty = true → s1.proposers cl (s1.here.slot slot).bank = [] →
            drains .bgive ⟨0, slot, (s1.here.slot slot).bank, tg, o.tslot.toNat, o.tsem.toNat, s.cur.ctx, true, h.ss, h.si, []⟩))) ∧
      (opNum o.b = 0 → ends .ringrot 0) ∧
      (opNum o.b ≠ 0 → ringOk (s1.me.getX (opNum o.b)).val g = true →
        ∃ t, exec (.ringrot h o) s = .next t ∧ t.me.busy = some (.barrier h o.d) ∧
          t.arrivals = s.arrivals ++ [⟨.ring (s1.me.getX (opNum o.b)).val, s.cur, ringOrder (s1.me.getX (opNum o.b)).val, wd slot,
            if o.dir then 1 else 0, Cap.null, false, false, [], []⟩] ∧ t.me.x = s.me.x ∧ t.mem = s.mem)) ∧
    (slot ≤ 7 → auth permLoad = none →
      ((s1.here.slot slot).valid = false → ends .bdrain 3) ∧
      ((s1.here.slot slot).valid = true → s1.flightsThrough g cl (s1.here.slot slot).bank = [] → ends .bdrain 0) ∧
      ((s1.here.slot slot).valid = true → s1.flightsThrough g cl (s1.here.slot slot).bank ≠ [] →
        drains .bdrain ⟨2, slot, (s1.here.slot slot).bank, 0, 0, 0, s.cur.ctx, true, h.ss, h.si,
          s1.flightsThrough g cl (s1.here.slot slot).bank⟩))

/-- The events that end what bank instructions began, where no access is in flight through the bank: a give's bank arrives in the target's slot
and the semaphore there is signalled; the arrivals of a ring are compared, and where they agree every member's bank leaves its slot on its way to the
next member in ring order; a freed bank is zeroed, and then zero, untagged and in the pool unless it is failing; no byte outside the
zeroed bank changes. A bank word read with one wrong bit is corrected and counted; one with more is rebuilt from the other banks of its group and
their parity bank, so that every byte and tag reads as before, or, where one of those is wrong beyond correction too, is poisoned and counted. -/
def Obligations.BankEvents : Prop :=
  ∀ s : State,
    (∀ g slot d, s.ev = .two g slot →
      ((s.core g).drains.find? (fun d => d.kind == 0 && d.slot == slot) = some d → s.bankBusy (gidCl g) d.bank = false → d.tgt ≠ g →
        ∃ t, exec .bgiveDrainComplete s = .next t ∧ (t.core d.tgt).slot d.tslot = ⟨true, false, false, d.bank⟩ ∧
          ((t.core g).slot slot).out = false ∧ ((t.core d.tgt).sem d.tsem).val.toNat = min 0xFFFF (((s.core d.tgt).sem d.tsem).val.toNat + 1) ∧
          t.mem = s.mem ∧ t.tags = s.tags) ∧
      ((s.core g).drains.find? (fun d => d.slot == slot && !(d.kind == 0 || d.kind == 3) && s.drainOver g d) = some d → d.kind = 1 →
        ∃ t, exec .bfreeDrainComplete s = .next t ∧ d.bank ∈ (t.cluster (gidCl g)).zeroing ∧ ((t.core g).slot slot).out = false ∧
          t.mem = s.mem ∧ t.tags = s.tags)) ∧
    (∀ cl n, s.ev = .two cl n → n ∈ (s.cluster cl).zeroing →
      ∃ t, exec .bankZeroingComplete s = .next t ∧
        (∀ x, bankAddr cl n 0 ≤ x → x < bankAddr cl n 0 + 65536 → t.byte x = 0 ∧ t.tagAt x = false ∧ t.poisoned x = false) ∧
        (∀ x, (x < bankAddr cl n 0 ∨ bankAddr cl n 0 + 65536 ≤ x) → t.byte x = s.byte x) ∧
        n ∉ (t.cluster cl).zeroing ∧
        (n < 2048 → n ∉ (s.cluster cl).failing → (t.cluster cl).isFree n = true) ∧
        (n ∈ (s.cluster cl).failing → (t.cluster cl).isFree n = (s.cluster cl).isFree n)) ∧
    (∀ g r0, s.ev = .one g → s.ringArrival g = some r0 → (∀ m ∈ r0.members, ∃ r, s.ringArrival m = some r) →
      ((∃ m r, m ∈ r0.members ∧ s.ringArrival m = some r ∧ (r.members ≠ r0.members ∨ r.w0 ≠ r0.w0 ∨ r.w1 ≠ r0.w1)) →
        ∃ t, exec .ringrotBarrierComplete s = .next t ∧ t.mem = s.mem ∧ (∀ m ∈ r0.members, ∀ r, s.ringArrival m = some r → r ∉ t.arrivals)) ∧
      (r0.members = [g] →
        ∃ t, exec .ringrotBarrierComplete s = .next t ∧ t.mem = s.mem ∧ r0 ∉ t.arrivals ∧ (t.core g).slots = (s.core g).slots) ∧
      (r0.members.Nodup → 1 < r0.members.length →
        (∀ m ∈ r0.members, ∀ r, s.ringArrival m = some r → r.members = r0.members ∧ r.w0 = r0.w0 ∧ r.w1 = r0.w1 ∧
          (s.core m).slotDom = (s.core g).slotDom ∧ (∃ h d, (s.ctx r.agent).busy = some (.barrier h d)) ∧
          s.proposers (gidCl g) ((s.core m).slot r0.w0.toNat).bank = []) →
        ∃ t, exec .ringrotBarrierComplete s = .next t ∧ t.mem = s.mem ∧ t.tags = s.tags ∧
          (∀ m ∈ r0.members, ∀ r, s.ringArrival m = some r → r ∉ t.arrivals) ∧
          (∀ i m, r0.members[i]? = some m →
            let b := (s.core m).slot r0.w0.toNat
            (t.core m).slot r0.w0.toNat = (if b.valid then ⟨false, true, false, 0⟩ else b) ∧
            ∃ d, (t.core m).drains = (s.core m).drains ++ [d] ∧ d.kind = 3 ∧ d.slot = r0.w0.toNat ∧ d.tslot = r0.w0.toNat ∧
              (b.valid = true → d.bank = b.bank) ∧ (b.valid = false → d.bank = 2048) ∧
              r0.members[if r0.w1 = 0 then (i + 1) % r0.members.length else (i + r0.members.length - 1) % r0.members.length]? = some d.tgt))) ∧
    (∀ g k d e, s.ev = .one g → (s.core g).drains.find? (fun d => d.kind == 3) = some d →
      (s.core k).drains.find? (fun d => d.kind == 3) = some e → g ≠ k → d.waits = e.waits → d.waits.map (fun w => w.1) = [g, k] →
      d.tgt = k → e.tgt = g → d.bank < 2048 → e.bank < 2048 → s.bankBusy (gidCl g) d.bank = false → s.bankBusy (gidCl g) e.bank = false →
      ∃ t, exec .ringrotDrainComplete s = .next t ∧ (t.core k).slot d.tslot = ⟨true, false, false, d.bank⟩ ∧
        (t.core g).slot e.tslot = ⟨true, false, false, e.bank⟩ ∧ t.mem = s.mem ∧ t.tags = s.tags ∧ t.poison = s.poison) ∧
    (∀ cl b off, cl < 8 → b < 2048 → off < 65536 → off % 8 = 0 → ∀ x, x = bankAddr cl b off →
      (∀ t, t = s.fixBank x 1 → t.errAt x = 0 ∧ t.mem = s.mem ∧ t.tags = s.tags ∧ t.poison = s.poison ∧
        t.counter 2 cl = min (2 ^ 32 - 1) (s.counter 2 cl + 1)) ∧
      (∀ t, t = s.fixBank x 2 → t.errAt x = 0 ∧ (∀ y, t.byte y = s.byte y) ∧ (∀ y, t.tagAt y = s.tagAt y) ∧
        ((s.errAt (parityAddr cl (b / 4) off) = 2 ∨ ∃ k ∈ bankMates b, s.errAt (bankAddr cl k off) = 2) →
          t.poisoned x = true ∧ t.counter 3 cl = min (2 ^ 32 - 1) (s.counter 3 cl + 1)) ∧
        (s.errAt (parityAddr cl (b / 4) off) ≠ 2 → (∀ k ∈ bankMates b, s.errAt (bankAddr cl k off) ≠ 2) →
          t.poison = s.poison ∧ t.counter 3 cl = s.counter 3 cl)))

/-! ## Proposals (R145-R156, R309-R314) -/

/-- Commit regions. `pbegin` stands in slot 0 without a signal; it takes the stream's next ticket, or keeps the one that it replays, and opens an
empty region; tickets taken in one cycle go by ascending core, and one out of turn waits for a later cycle. `pabort` and a `pcommit` that is
refused, spent or conflicted drop the region, write PRES and resolve the ticket as aborted, and no byte of memory changes; a `pcommit` that is drawn
waits while its loads and stores are out of order and while its lines are asked for at their home slices, then publishes its lines and writes true.
`pseed` seeds a stream at rest; `pseed.tbl` checks and reads its table before the stream is touched; `pdraw` draws from the core's key and counter,
`pstat` reads. -/
def Obligations.ProposalInstructions : Prop :=
  ∀ (h : Hdr) (s s1 : State),
    (∀ o : FmtPB, (s.me.slot ≠ 0 ∨ h.si ≠ 0) → exec (.pbegin h o) s = .next (s.fault s.cur h 5 0 s.me.slotVal)) ∧
    (∀ o : FmtPB, s.me.slot = 0 → h.si = 0 → Issues h s .illegal [] [] s1 → s.me.prgn.mrg = false →
      (s.me.prgn.tv = true → s.me.prgn.strm ≠ o.strm → exec (.pbegin h o) s = .next (s1.fault s.cur h 5 0 s.me.slotVal)) ∧
      (s.me.prgn.tv = false → (s.psq o.strm.toNat).turn s.dev.cyc s.cur = false → exec (.pbegin h o) s = .next s1) ∧
      ((s.psq o.strm.toNat).turn s.dev.cyc s.cur = true ↔ ((s.psq o.strm.toNat).tookAt.1 = s.dev.cyc + 1 →
        (s.psq o.strm.toNat).tookAt.2 ≤ 16 * s.cur.gid + s.cur.ctx)) ∧
      (s.me.prgn.tv = false → (s.psq o.strm.toNat).turn s.dev.cyc s.cur = true →
        ∃ t, exec (.pbegin h o) s = .next t ∧ t.me.prgn.opn = true ∧ t.me.prgn.tv = true ∧ t.me.prgn.strm = o.strm ∧
          t.me.prgn.ticket = (s.psq o.strm.toNat).next ∧ (t.psq o.strm.toNat).next = (s.psq o.strm.toNat).next + 1 ∧
          (t.psq o.strm.toNat).tookAt = (s.dev.cyc + 1, 16 * s.cur.gid + s.cur.ctx) ∧
          t.me.region = some ⟨s.me.pcc.addr, s.me.pcc.addr + o.foff.signExtend 64 * 64, [], [], [], s.dev.cyc + 1, none⟩ ∧
          t.me.x = s.me.x ∧ t.mem = s.mem) ∧
      (s.me.prgn.tv = true → s.me.prgn.strm = o.strm →
        ∃ t, exec (.pbegin h o) s = .next t ∧ t.me.prgn = { s.me.prgn with opn := true } ∧ t.me.region.isSome = true ∧
          (t.psq o.strm.toNat).next = (s.psq o.strm.toNat).next ∧ t.me.x = s.me.x ∧ t.mem = s.mem)) ∧
    (∀ o : FmtP, Issues h s .closes [] [] s1 →
      (s.me.region = none → exec (.pabort h o) s = .next (s1.fault s.cur h 5 0 s.me.slotVal)) ∧
      (s.me.region.isSome = true → ∃ t, exec (.pabort h o) s = .next t ∧ t.me.region = none ∧ t.me.prgn.opn = false ∧ t.me.prgn.tv = false ∧
        t.me.pres = BitVec.ofNat 64 (s.me.prgn.ticket.toNat * 2 ^ 32 + 3) ∧
        (t.psq s.me.prgn.strm.toNat).resolved = (s.psq s.me.prgn.strm.toNat).resolved ++ [(s.me.prgn.ticket, [])] ∧
        t.me.x = s.me.x ∧ t.mem = s.mem)) ∧
    (∀ (o : FmtP) (m : Fin 64), o.a = .x m → Issues h s .closes [o.a, o.b] [o.d] s1 →
      let q := s.psq s.me.prgn.strm.toNat
      (s.me.region = none → exec (.pcommit h o) s = .next (s1.fault s.cur h 5 0 s.me.slotVal)) ∧
      (∀ r, s.me.region = some r → r.drawn = none → (s1.me.scopeArg o.b).ok = true →
        ((s1.drawReady = false ∨ q.head ≠ s.me.prgn.ticket) → exec (.pcommit h o) s = .next s1) ∧
        (s1.drawReady = true → q.head = s.me.prgn.ticket → mustReplay q r = true →
          ∃ t, exec (.pcommit h o) s = .next t ∧ t.me.At ⟨r.blk, s.me.pcc.md, s.me.pcc.tag⟩ ∧ t.me.region = none ∧ t.me.prgn.tv = s.me.prgn.tv ∧
            t.me.prgn.ticket = s.me.prgn.ticket ∧ t.me.prgn.opn = false ∧ t.me.x = s.me.x ∧ t.mem = s.mem) ∧
        (s1.drawReady = true → q.head = s.me.prgn.ticket → mustReplay q r = false → q.tbl = true → q.tidx = q.tcnt →
          ∃ t, exec (.pcommit h o) s = .next t ∧ t.me.region = none ∧ t.me.prgn.tv = false ∧
            t.me.pres = BitVec.ofNat 64 (s.me.prgn.ticket.toNat * 2 ^ 32 + 5) ∧
            (∀ p : Fin 8, o.d = .p p → p ≠ 0 → t.me.getP p.val = false) ∧ t.mem = s.mem) ∧
        (s1.drawReady = true → q.head = s.me.prgn.ticket → mustReplay q r = false → (q.tbl = false ∨ q.tidx ≠ q.tcnt) → ∀ k q2 stat,
          q.draw s.me.prgn.strm.toNat s.me.prgn.ticket = (k, q2) → verdict (((s.me.getX m.val).val).setWidth 32) k = stat → stat ≠ 0 →
          stat < 16 → k < 2 ^ 24 →
          ∃ t, exec (.pcommit h o) s = .next t ∧ t.me.region = none ∧ t.me.prgn.tv = false ∧
            t.me.pres = BitVec.ofNat 64 (s.me.prgn.ticket.toNat * 2 ^ 32 + k * 256 + stat) ∧
            (∀ p : Fin 8, o.d = .p p → p ≠ 0 → t.me.getP p.val = false) ∧ t.mem = s.mem)) ∧
      (∀ r k, s.me.region = some r → r.drawn = some k → k < 2 ^ 24 → (s1.me.scopeArg o.b).ok = true →
        ((relDone s1 s.cur (s1.me.scopeArg o.b) s1.me.seq = false ∨ noLoadOverlap s1.me r.lines = false) → exec (.pcommit h o) s = .next s1) ∧
        (relDone s1 s.cur (s1.me.scopeArg o.b) s1.me.seq = true → noLoadOverlap s1.me r.lines = true → ∀ q, q = s1.askLines (r.lines.map (fun b => (s.cur, b.line))) →
        (q = .no → exec (.pcommit h o) s = .next s1) ∧ (∀ u, q = .wait u → exec (.pcommit h o) s = .next u) ∧
        (∀ u, q = .go u → ∃ t, exec (.pcommit h o) s = .next t ∧ t.me.region = none ∧ t.me.prgn.tv = false ∧
          t.me.pres = BitVec.ofNat 64 (s.me.prgn.ticket.toNat * 2 ^ 32 + k * 256) ∧
          (∀ p : Fin 8, o.d = .p p → p ≠ 0 → t.me.getP p.val = true) ∧ t.me.x = s.me.x ∧
          (∀ y, (∀ b ∈ r.lines, ∀ e ∈ b.runs, y < fwdAddr s (b.line * 128) + e.1 ∨ fwdAddr s (b.line * 128) + e.1 + e.2.length ≤ y) →
            t.byte y = s.byte y) ∧
          (∀ b, r.lines = [b] → s.dev.migs = [] →
            (∀ i, i < 128 → reservedPA s (s.partOf s.cur.gid) (isSvc s.cur.gid) (b.line * 128 + i) = false) →
            ∀ i, i < 128 → t.byte (b.line * 128 + i) = if b.mask.getLsbD i then lineByte b.data i else s.byte (b.line * 128 + i)))))) ∧
    (∀ (o : FmtP) (m n : Fin 64), o.a = .x m → o.b = .x n → s1.drawReady = true → Issues h s .illegal [o.a, o.b] [o.d] s1 →
      let q := s.psq o.strm.toNat
      (q.head ≠ q.next → exec (.pseed h o) s = .next ((s1.self (fun c => ((c.readS o.a).2.readS o.b).2)).after h (fun c => c.writePO o.d false))) ∧
      (q.head = q.next → o.tcnt.toNat ≤ 64 → ∃ t, exec (.pseed h o) s = .next t ∧
        t.psq o.strm.toNat = { q with seed := (s.me.getX m.val).val, next := (s.me.getX n.val).val.setWidth 32,
                                      head := (s.me.getX n.val).val.setWidth 32, tbl := false, tcnt := o.tcnt, tidx := 0, pubs := [] } ∧
        (∀ p : Fin 8, o.d = .p p → p ≠ 0 → t.me.getP p.val = true) ∧ t.me.x = s.me.x ∧ t.mem = s.mem)) ∧
    (∀ (o : FmtP) (n : Fin 64) (bs : List Byte) (gt : List Bool), o.b = .x n → s1.drawReady = true →
      Issues h s .illegal (pairOps o.a ++ [o.b]) [o.d] s1 →
      let q := s.psq o.strm.toNat
      let cap := s1.me.readPair o.a
      let r : Req := ⟨cap, [permLoad], kLoad, 1, 0, [⟨cap.addr, 4 * o.tcnt.toNat, 0⟩], true⟩
      let passed := checkElems s1 s.cur.gid s1.me.cdom r r.elems [] []
      (∀ k sub v, (s1.me.busy = none ∨ o.tcnt = 0) → passed = .trap k sub v → exec (.pseedTbl h o) s = .next (s1.fault s.cur h k sub v)) ∧
      (((o.tcnt ≠ 0 ∧ s1.me.busy = some (.read bs gt)) ∨ (o.tcnt = 0 ∧ ∃ parts used, passed = .ok parts used)) →
      q.head = q.next → o.tcnt.toNat ≤ 64 → (∀ i, i < o.tcnt.toNat → ofBytes ((bs.drop (4 * i)).take 4) < 2 ^ 24) →
      ∃ t, exec (.pseedTbl h o) s = .next t ∧ (t.psq o.strm.toNat).tbl = true ∧ (t.psq o.strm.toNat).tcnt = o.tcnt ∧
        (t.psq o.strm.toNat).tidx = 0 ∧ (t.psq o.strm.toNat).next = (s.me.getX n.val).val.setWidth 32 ∧
        (∀ i, i < o.tcnt.toNat →
          Sparse.look 0 (t.psq o.strm.toNat).table i = BitVec.ofNat 24 (ofBytes ((bs.drop (4 * i)).take 4))) ∧
        (∀ p : Fin 8, o.d = .p p → p ≠ 0 → t.me.getP p.val = true) ∧ t.me.x = s.me.x ∧ t.mem = s.mem)) ∧
    (∀ o : FmtP,
      (Issues h s .illegal [] [o.d] s1 → s1.drawReady = true →
        let k := drawFn s1.here.pdsd 16 s1.here.pdct
        ∃ t, exec (.pdraw h o) s = .next t ∧ (t.core s.cur.gid).pdct = (s.core s.cur.gid).pdct + 1 ∧
          (t.core s.cur.gid).pdsd = (s.core s.cur.gid).pdsd ∧
          (∀ n : Fin 64, o.d = .x n → n ≠ 0 → (o.wsel = 1 → (t.me.getX n.val).val = BitVec.ofNat 64 k) ∧
            (o.wsel = 0 → (t.me.getX n.val).val = BitVec.ofNat 64 (toF 8 0 false (.fin false k (-24))).raw) ∧
            (o.wsel = 2 → (t.me.getX n.val).val = BitVec.ofNat 64 (toF 7 0 false (.fin false k (-24))).raw)) ∧ t.mem = s.mem) ∧
      (Issues h s .normal [] [o.d] s1 →
        let q := s1.psq o.strm.toNat
        (o.wsel = 0 → exec (.pstat h o) s = .next (s1.after h (fun c => c.writeS o.d q.seed))) ∧
        (o.wsel = 1 → exec (.pstat h o) s = .next (s1.after h (fun c => c.writeS o.d (q.next ++ q.head)))) ∧
        exec (.pstatE h o) s = .next (s1.after h (fun c => c.writeS o.d ((Sparse.look 0 q.table o.tcnt.toNat).setWidth 64)))))

/-! ## Engine commands (R349, R350, R356, R85, R86) -/

/-- Engine commands as their sequencer issues them. With a malformed scope, and for `cpm` and `cpm.fin` at user level, the illegal-instruction
trap; while the queue holds eight commands, the command waits. Otherwise the queue accepts it with its register group and domain as they stand,
stopped already with CST 5 where a register value is out of range; a copy channel advances SEQ and starts DONE at zero; the sequencer moves on
and no semaphore is signalled. `cpwp` reads the write pointer of a channel of a core with the same domain, zero of another. -/
def Obligations.EngineCommands : Prop :=
  ∀ (h : Hdr) (o : FmtE) (s s1 : State),
    let g := s.cur.gid
    (∀ e ∈ ([(.mlds, .mlds, 4), (.mswp, .mswp, 0), (.mstream, .mstream, 4), (.mzero, .mzero, 0), (.mdrain, .mdrain, 4), (.mgang, .mgang, 0),
        (.mfwd, .mfwd, 0), (.msave, .msave, 4), (.msaveSt, .msave, 4), (.mrest, .mrest, 4), (.cpy, .cpy, 8), (.cps, .cps, 8), (.cpsw, .cpsw, 8),
        (.cpm, .cpm, 8), (.cpmFin, .cpmFin, 8)] : List ((Hdr → FmtE → Instr) × CmdKind × Nat)),
      Issues h s .illegal (groupOps o.a e.2.2 ++ [o.b]) [] s1 →
      let ch := if e.2.1.isMatrix then 4 else o.ch.toNat
      let asks := (e.2.1 = .cpm ∨ e.2.1 = .cpmFin) ∧ s.me.level = .user
      (((s.me.cmdOrder o).ok = false ∨ asks) → exec (e.1 h o) s = .next (s1.fault s.cur h 5 0 s.me.slotVal)) ∧
      ((s.me.cmdOrder o).ok = true → ¬ asks → 8 ≤ (s.here.queueOf ch).length → exec (e.1 h o) s = .next s1) ∧
      ((s.me.cmdOrder o).ok = true → ¬ asks → (s.here.queueOf ch).length < 8 →
        ∃ t c, exec (e.1 h o) s = .next t ∧ (t.core g).queueOf ch = (s.core g).queueOf ch ++ [c] ∧
          c.kind = e.2.1 ∧ c.o = o ∧ c.h = h ∧ c.ord = s.me.cmdOrder o ∧
          c.regs = (List.range e.2.2).map (fun i => s.me.getX (opNum o.a + i)) ∧ c.cdom = s.me.cdom ∧ c.done = 0 ∧ c.readPos = 0 ∧
          c.writePos = 0 ∧ c.stopped = (if s1.badShape g c then some (5, 0) else none) ∧
          (e.2.1.isMatrix = false → ((t.core g).chan o.ch.toNat).seq = ((s.core g).chan o.ch.toNat).seq + 1 ∧
            ((t.core g).chan o.ch.toNat).done = 0) ∧
          (∀ n, (t.core g).sem n = (s1.core g).sem n) ∧ (t.core g).semAdds = (s1.core g).semAdds ∧ s.me.Advanced t.me ∧
          t.me.x = s.me.x ∧ t.mem = s.mem)) ∧
    (Issues h s .normal [] [o.d] s1 →
      let ord : Order := { Order.cluster (gidCl g) with acq := true, rel := false }
      let k := gidOf (gidCl g) (o.fmt2.toNat * 16 + o.fmt.toNat)
      let ch := (s.core k).chan o.ch.toNat
      let free := orderOk s1 s.cur s1.me.seq ord && fencesOk s1 s.cur s1.me.seq true false
      (free = false → exec (.cpwp h o) s = .next s1) ∧
      (free = true →
        exec (.cpwp h o) s = .next (s1.after h (fun c => { (c.writeS o.d
            (if (s.core k).slotDom = s.here.slotDom then ch.seq ++ ch.done else 0)) with
          acqs := c.acqs ++ [(c.seq, ord, s1.now)], seq := c.seq + 1 }))))

/-! ## Messages, exchange phases, collectives (R364-R368, R214, R215) -/

/-- Messages and exchange phases. A `send` whose word has a reserved bit, names the Ubhal with other fields, names the directory from elsewhere than
a privileged service core of its own cluster, or names a core of another domain writes false and sends nothing; to a full queue it makes the upcall
with cause 8, or the trap of kind 9; otherwise it writes true and the message is on its way. `recv` and `recv.t` take the oldest message and the
oldest overflow entry moves into the queue, before it where the queue is empty; on an empty queue `recv` waits and `recv.t` writes the empty word.
An instruction for a phase cycle that has gone is counted late, and `xsel` then reads zero; else it waits for its cycle. Collectives outside a valid
group or with reserved register bits complete with CST 5; else, once no earlier access of the context overlaps its buffer, the member arrives with
its places. The model's choices: that an overflow entry moves into the queue only when its memory can be reached, and what it reads of poisoned
memory (log entries 31 and 14); that the group's list is read as each member arrives, and that an overlapping buffer waits for the context's
accesses (log entry 36). -/
def Obligations.ExchangeInstructions : Prop :=
  ∀ (h : Hdr) (o : FmtXC) (s s1 : State),
    let g := s.cur.gid
    (Issues h s .illegal [o.a, o.b] [o.d] s1 →
      let w := ((s1.me.readV o.a).2.readS o.b).1
      let dst := gidOf (w.extractLsb' 8 3).toNat (w.extractLsb' 0 8).toNat
      let ends : Bool → Prop := fun b =>
        exec (.send h o) s = .next (s1.after h (fun c => ((c.readV o.a).2.readS o.b).2.writePO o.d b))
      let sends : Flight → Prop := fun f => ∃ t, exec (.send h o) s = .next t ∧ t.flights = s.flights ++ [f] ∧
        (∀ p : Fin 8, o.d = .p p → p ≠ 0 → t.me.getP p.val = true) ∧ t.me.x = s.me.x ∧ s.me.Advanced t.me ∧ t.mem = s.mem
      (w.extractLsb' 17 47 ≠ 0 → ends false) ∧
      (w.extractLsb' 17 47 = 0 → w.getLsbD 16 = true → w.extractLsb' 0 16 ≠ 0 → ends false) ∧
      (w = 0x10000 → sends (.ubhal g s1.me.level s1.me.cdom.toNat (s1.cluster (gidCl g)).part (msgBytes (s1.me.readV o.a).1))) ∧
      (w.extractLsb' 16 48 = 0 → w.getLsbD 15 = true →
        ((isSvc g = false ∨ s1.me.level = .user ∨ (w.extractLsb' 8 3).toNat ≠ gidCl g) → ends false) ∧
        (isSvc g = true → s1.me.level ≠ .user → (w.extractLsb' 8 3).toNat = gidCl g →
          sends (.dir (gidCl g) (w.extractLsb' 11 4).toNat (msgBytes (s1.me.readV o.a).1)))) ∧
      (w.extractLsb' 15 49 = 0 →
        ((s1.core dst).slotDom ≠ (s1.core g).slotDom → ends false) ∧
        ((s1.core dst).slotDom = (s1.core g).slotDom → 64 ≤ (s1.core dst).recvq.length →
          (s1.core dst).mqosSize.toNat ≤ (s1.core dst).ovq.length →
          exec (.send h o) s = .next (s1.upcallOrTrap s.cur h 9 0 w 0 0 8)) ∧
        ((s1.core dst).slotDom = (s1.core g).slotDom →
          ((s1.core dst).recvq.length < 64 ∨ (s1.core dst).ovq.length < (s1.core dst).mqosSize.toNat) →
          sends (.msg dst ⟨msgBytes (s1.me.readV o.a).1, false, 0, gidCl g, gidIdx g⟩)))) ∧
    (Issues h s .illegal [] [o.d] s1 →
      ((s1.core g).recvq = [] → (s1.core g).ovq = [] →
        exec (.recv h o) s = .next s1 ∧ exec (.recvT h o) s = .next (s1.after h (fun c => c.writeVO o.d emptyLine))) ∧
      (∀ e more, (s1.core g).recvq = [] → (s1.core g).ovq = e :: more → ∀ ask, ask = s1.devGet true (s1.devLines e.addr 64) →
        (ask = .no → exec (.recv h o) s = .next s1 ∧ exec (.recvT h o) s = .next (s1.after h (fun c => c.writeVO o.d emptyLine))) ∧
        (∀ u, ask = .wait u → exec (.recv h o) s = .next u ∧ exec (.recvT h o) s = .next (u.after h (fun c => c.writeVO o.d emptyLine))) ∧
        (∀ u, ask = .go u → more = [] → ∀ mk ∈ ([.recv, .recvT] : List (Hdr → FmtXC → Instr)),
          exec (mk h o) s = .next (((u.devRead e.addr 64).2.updCore g (fun c => { c with recvq := [], ovq := [] })).after h
            (fun c => c.writeVO o.d (recvLine ⟨(u.devRead e.addr 64).1, e.sys, e.sknd, e.cl, e.idx⟩))))) ∧
      (∀ m rest, (s1.core g).recvq = m :: rest → ∀ mk ∈ ([.recv, .recvT] : List (Hdr → FmtXC → Instr)),
        ((s1.core g).ovq = [] →
          exec (mk h o) s = .next ((s1.updCore g (fun c => { c with recvq := rest })).after h (fun c => c.writeVO o.d (recvLine m)))) ∧
        (∀ e more, (s1.core g).ovq = e :: more → rest.length = 63 →
          ∀ s2, s2 = s1.updCore g (fun c => { c with recvq := rest }) → ∀ ask, ask = s2.devGet true (s2.devLines e.addr 64) →
          (ask = .no → exec (mk h o) s = .next (s2.after h (fun c => c.writeVO o.d (recvLine m)))) ∧
          (∀ u, ask = .wait u → exec (mk h o) s = .next (u.after h (fun c => c.writeVO o.d (recvLine m)))) ∧
          (∀ u, ask = .go u →
            exec (mk h o) s = .next (((u.devRead e.addr 64).2.updCore g (fun c => { c with
              recvq := c.recvq ++ [⟨(u.devRead e.addr 64).1, e.sys, e.sknd, e.cl, e.idx⟩], ovq := more })).after h
                (fun c => c.writeVO o.d (recvLine m))) ∧
            (∀ home, home = fwdAddr u e.addr → e.addr % 64 = 0 → e.addr < scratchBase → reservedPA u none true home = false →
              windowOf u home = none → u.poisoned home = false → u.ecc = [] → (u.devRead e.addr 64).1 = u.bytes home 64))))) ∧
    (Issues h s .illegal [o.b] [o.d] s1 →
      let q := s1.me.scopeArg o.b
      ((o.idx = 0 ∨ q.ok = false ∨ (q.core = false ∧ q.scope.extractLsb' 32 8 ≠ 0)) →
        exec (.xphase h o) s = .next (s1.fault s.cur h 5 0 s.me.slotVal)) ∧
      (o.idx ≠ 0 → q.ok = true → (q.core = true ∨ q.scope.extractLsb' 32 8 = 0) →
        ∃ t, exec (.xphase h o) s = .next t ∧ t.me.busy = some (.barrier h o.d) ∧
          t.arrivals = s.arrivals ++ [⟨.xphase q.scope q.core o.idx.toNat, s.cur, scopeCores q g, 0, 0, Cap.null, false, false, [], []⟩] ∧
          SameRegs s.me t.me ∧ t.mem = s.mem) ∧
      (s1.me.inTime = false → s1.lateFor g o.idx.toNat = true →
        ∃ t, exec (.xsel h o) s = .next t ∧ (t.core g).lateCount = (s.core g).lateCount + 1 ∧
          (∀ n : Fin 32, o.d = .v n → t.me.getV n.val = 0) ∧ t.me.x = s.me.x ∧ s.me.Advanced t.me ∧ t.mem = s.mem) ∧
      ((s1.me.inTime = true ∨ s1.lateFor g o.idx.toNat = false) →
        (s1.cycleCome g o.idx.toNat true = false →
          exec (.xsel h o) s = .next (s1.self (fun c => { c with busy := some (.late o.idx.toNat) }))) ∧
        (s1.cycleCome g o.idx.toNat true = true →
          exec (.xsel h o) s = .next (s1.after h (fun c => (c.readS o.b).2.writeVO o.d
            (s1.wire g ((s1.me.readS o.b).1.extractLsb' 0 8).toNat ((s1.me.readS o.b).1.extractLsb' 8 8).toNat o.idx.toNat)))))) ∧
    (Issues h s .illegal [o.a] [] s1 →
      let n := o.idx.toNat
      (((s1.me.inTime = false ∧ s1.lateFor g n = true) ∨ (∃ p, (s1.core g).phase = some p ∧ n ∈ p.cycles)) →
        ∃ t, exec (.xmit h o) s = .next t ∧ (t.core g).lateCount = (s.core g).lateCount + 1 ∧ (t.core g).phase = (s.core g).phase ∧
          t.me.x = s.me.x ∧ s.me.Advanced t.me ∧ t.mem = s.mem) ∧
      (∀ p, (s1.core g).phase = some p → n ∉ p.cycles → (s1.me.inTime = true ∨ s1.lateFor g n = false) →
        ((s1.cycleCome g n false = false ∨ s1.drivesFirst s.cur n = true) →
          exec (.xmit h o) s = .next (s1.self (fun c => { c with busy := some (.late n) }))) ∧
        (s1.cycleCome g n false = true → s1.drivesFirst s.cur n = false → ∃ t q, exec (.xmit h o) s = .next t ∧ (t.core g).phase = some q ∧
          Sparse.look 0 q.driven n = (s1.me.readV o.a).1 ∧ (∀ m, m ≠ n → Sparse.look 0 q.driven m = Sparse.look 0 p.driven m) ∧
          q.cycles = p.cycles ++ [n] ∧ q.start = p.start ∧ q.len = p.len ∧ q.members = p.members ∧
          (t.core g).lateCount = (s.core g).lateCount ∧ t.me.x = s.me.x ∧ s.me.Advanced t.me ∧ t.mem = s.mem))) ∧
    (∀ e ∈ ([(.cred, 0), (.cbc, 1), (.cag, 2)] : List ((Hdr → FmtXC → Instr) × Nat)), Issues h s .illegal (pairOps o.a ++ [o.b]) [o.d] s1 →
      let part := (s1.cluster (gidCl g)).part
      let grp := Sparse.look Group.reset s1.dev.groups (256 * part + o.idx.toNat)
      let ranks := s1.groupList part o.idx.toNat
      let w := (s1.me.readS o.b).1
      let root := (w.extractLsb' 56 8).toNat
      let wrong := some g ∉ ranks ∨ w.extractLsb' 32 24 ≠ 0 ∨ (e.2 ≠ 1 ∧ root ≠ 0) ∨ (e.2 = 1 ∧ grp.n ≤ root)
      let listed := s1.devMay true (s1.devLines grp.list (4 * grp.n))
      (grp.valid = false → exec (e.1 h o) s = .next (s1.after h (fun c => (c.readS o.b).2.writeS o.d (collStatus 5 0 0)))) ∧
      (grp.valid = true → listed = false → ∃ t, exec (e.1 h o) s = .next t ∧ t.me.slot = s.me.slot ∧ t.me.x = s.me.x ∧ t.mem = s.mem) ∧
      (grp.valid = true → listed = true → wrong →
        exec (e.1 h o) s = .next ((s1.devTrace grp.list (4 * grp.n)).after h (fun c => (c.readS o.b).2.writeS o.d (collStatus 5 0 0)))) ∧
      (grp.valid = true → listed = true → ¬ wrong →
        let cap := s1.me.readPair o.a
        let el : List Elem := [⟨cap.addr, collBytes e.2 o.fmt.toNat (w.extractLsb' 0 32).toNat grp.n, 0⟩]
        let rd : Req := ⟨cap, [permLoad], kLoad, 1, 0, el, false⟩
        let wr : Req := ⟨cap, [permStore], kStore, 1, 0, el, false⟩
        (∀ k sub v, checkElems s1 g s1.me.cdom rd el [] [] = .trap k sub v → exec (e.1 h o) s = .next (s1.fault s.cur h k sub v)) ∧
        (∀ parts used parts2 used2, checkElems s1 g s1.me.cdom rd el [] [] = .ok parts used →
          checkElems (s1.touchAll g used) g s1.me.cdom wr el [] [] = .ok parts2 used2 →
          let places := parts2.flatMap (fun p => p.segs.map (fun x => (x.addr, x.len)))
          let clear := places.all (fun x => noPendOverlap s1.me s1.me.seq x.1 x.2 && noSbOverlap s1.me s1.me.seq x.1 x.2)
          (clear = false → exec (e.1 h o) s = .next ((s1.touchAll g used).touchAll g used2)) ∧
          (clear = true → ∃ t, exec (e.1 h o) s = .next t ∧ t.me.busy = some (.barrier h o.d) ∧
            t.arrivals = s.arrivals ++ [⟨.coll part o.idx.toNat, s.cur, ranks.filterMap id, w, collCode e.2 o, cap, false, false, places,
              viaOf used2⟩] ∧
            t.me.x = s.me.x ∧ (s.ecc = [] → t.mem = s.mem)))))

/-! ## Launches, queues, work IDs, time windows (R183-R188, R196, R201-R204, R370-R374) -/

/-- `launch` reads its descriptor, refuses with the first code of 2, 3, 4, 9, 8, 5 that applies or registers the launch under a number that no
launch holds, with one empty queue for each stage in each cluster, and writes STATUS, outside merge mode through the store buffer; it retires
with that word in D once the store has been performed. -/
def Obligations.LaunchInstruction : Prop :=
  ∀ (h : Hdr) (o : FmtT) (s s1 : State), Issues h s .illegal (pairOps o.a) [o.d] s1 →
    let g := s.cur.gid
    let cap := s1.me.readPair o.a
    let rq : Nat → Req := fun n => ⟨cap, [permLoad, permStore], kLoad, 64, 0, [⟨cap.addr, n, 0⟩], true⟩
    let wq : Req := ⟨cap, [permStore], kStore, 8, 0, [⟨cap.addr + 56, 8, 0⟩], true⟩
    (s1.me.busy = none →
      (∀ k sub v, checkElems s1 g s1.me.cdom (rq 64) (rq 64).elems [] [] = .trap k sub v → exec (.launch h o) s = .next (s1.fault s.cur h k sub v)) ∧
      (s1.here.mrg = none → ∀ parts used, checkElems s1 g s1.me.cdom (rq 64) (rq 64).elems [] [] = .ok parts used →
        ∃ t e, exec (.launch h o) s = .next t ∧ t.me.busy = some .reading ∧ t.me.pend = s.me.pend ++ [e] ∧ e.size = 64 ∧ e.dest = .buffer ∧
          t.me.slot = s.me.slot ∧ t.me.x = s.me.x ∧ t.mem = s.mem)) ∧
    (∀ (bs : List Byte) (tags : List Bool) (parts : List Part) (used : List TlbEntry) (ps : List Part) (used2 : List TlbEntry),
      s1.me.busy = some (.read bs tags) → s1.here.mrg = none → bs.length = 64 * (1 + bits (wordAt bs 0) 63 60) →
      checkElems s1 g s1.me.cdom (rq bs.length) (rq bs.length).elems [] [] = .ok parts used →
      checkElems (s1.touchAll g used) g s1.me.cdom wq wq.elems [] [] = .ok ps used2 →
      let d := descOf bs tags
      let own := s1.me.cdom.toNat
      let part := (s1.cluster (gidCl g)).part
      let clm := clmOf s1 part d.clmBits
      let pinned := used.all (fun e => e.pin) && parts.all (fun p => p.segs.all (fun x => !isScratch x.addr))
      let writes : State → Word → Prop := fun t w => t.me.busy = some (.written w.toNat) ∧
        t.me.sb = s.me.sb ++ sbEntries s.me.seq wq Order.device (toBytes 8 w.toNat) false false (viaOf used2) ps ∧
        t.me.slot = s.me.slot ∧ t.me.x = s.me.x ∧ t.mem = s.mem
      let refuses : Nat → Prop := fun code => ∃ t, exec (.launch h o) s = .next t ∧ writes t (BitVec.ofNat 64 code) ∧
        t.dev.launches = s.dev.launches
      ((d.dom = 0xFFF ∨ (own ≠ d.dom ∧ own ≠ 0)) → refuses 2) ∧
      (d.dom ≠ 0xFFF → (own = d.dom ∨ own = 0) →
        (descBad s1 part bs d pinned = true → refuses 3) ∧
        (descBad s1 part bs d pinned = false → (d.logrec = 0 ∨ d.stages.any (fun st => st.mrg) = false) →
          (d.dom ≠ 0 → d.stages.any (fun st => st.prio == 23) = true → refuses 4) ∧
          ((d.dom = 0 ∨ d.stages.any (fun st => st.prio == 23) = false) →
            (clm = [] → refuses 9) ∧
            (clm ≠ [] → d.gang = true → d.gset ≠ 0 → s1.ready 48 = false → refuses 8) ∧
            (clm ≠ [] → (d.gang = false ∨ d.gset = 0 ∨ s1.ready 48 = true) →
              (Sparse.look Pool.reset s1.dev.pools part).size - (Sparse.look Pool.reset s1.dev.pools part).used < storageOf d clm.length →
              refuses 5) ∧
            (launchCode s1 part d clm = 0 → d.count ≠ 0 →
              ∃ t l, exec (.launch h o) s = .next t ∧ l ∈ t.dev.launches ∧ l.lid ≠ 0 ∧ (∀ x ∈ s.dev.launches, x.holds = true → x.lid ≠ l.lid) ∧
                (∀ x ∈ s.dev.launches, x.lid ≠ l.lid → x ∈ t.dev.launches) ∧
                l.dom = d.dom ∧ l.part = part ∧ l.clm = clm ∧ l.stages = d.stages ∧ l.count = d.count ∧ l.widths = d.widths ∧
                l.wbase = d.wbase ∧ l.pdl = d.pdl ∧ l.gang = d.gang ∧ l.code = 0 ∧ l.ended = 0 ∧
                (∀ c ∈ clm, (t.cluster c).queues = (s.cluster c).queues ++ d.stages.mapIdx (fun i st => ⟨l.lid, i, st.prio, 0, 0, 0, 0, [], []⟩)) ∧
                (Sparse.look Pool.reset t.dev.pools part).used = (Sparse.look Pool.reset s.dev.pools part).used + storageOf d clm.length ∧
                writes t (BitVec.ofNat 64 (l.lid * 65536))))))) ∧
    (∀ v, s1.me.busy = some (.written v) →
      (s1.me.sb ≠ [] → exec (.launch h o) s = .next s1) ∧
      (s1.me.sb = [] → ∃ t, exec (.launch h o) s = .next t ∧ (∀ n : Fin 64, o.d = .x n → n ≠ 0 → (t.me.getX n.val).val = BitVec.ofNat 64 v) ∧
        s.me.Advanced t.me ∧ t.mem = s.mem))

/-- Tasks. `tpsh` outside a task, to a stage that the launch does not have, or with a work ID beyond its fields writes false; else, with its
record read and its earlier accesses performed, the record enters the cluster's queue when there is room, by its cycle and core (R196). `tpop`
stores the task's record once. `tdecl` adds a region for the task; `qprio` sends the change to each cluster, and writes false for a launch that
is not running, is another domain's, or has no such stage. `wid` reads a field of the work ID; `wid.set` replaces one field and no other. -/
def Obligations.TaskInstructions : Prop :=
  ∀ (h : Hdr) (o : FmtT) (s s1 : State),
    let g := s.cur.gid
    let cl := gidCl g
    (Issues h s .illegal (pairOps o.a ++ [o.b]) [o.d] s1 →
      let w := (s1.me.readS o.b).1
      let cap := s1.me.readPair o.a
      let no := exec (.tpsh h o) s = .next (s1.after h (fun c => (c.readS o.b).2.writePO o.d false))
      (s1.here.task = none → no) ∧
      (∀ k l, s1.here.task = some k → s1.launch? k.lid = some l →
        (l.stages.length ≤ o.sel.toNat → no) ∧
        (w.toNat / 2 ^ fieldLo l.widths 6 ≠ 0 → no) ∧
        (∀ st, l.stages[o.sel.toNat]? = some st → w.toNat / 2 ^ fieldLo l.widths 6 = 0 → st.rsz ≠ 0 →
          let r : Req := ⟨cap, [permLoad], kLoad, 1, 0, [⟨cap.addr, st.rsz, 0⟩], true⟩
          (s1.me.busy = none →
            (∀ n sub v, checkElems s1 g s1.me.cdom r r.elems [] [] = .trap n sub v → exec (.tpsh h o) s = .next (s1.fault s.cur h n sub v)) ∧
            (s1.here.mrg = none → ∀ parts used, checkElems s1 g s1.me.cdom r r.elems [] [] = .ok parts used →
              ∃ t e, exec (.tpsh h o) s = .next t ∧ t.me.busy = some .reading ∧ t.me.pend = s.me.pend ++ [e] ∧ e.size = st.rsz ∧
                e.dest = .buffer ∧ t.me.slot = s.me.slot ∧ t.me.x = s.me.x ∧ t.mem = s.mem)) ∧
          (∀ bs gt, s1.me.busy = some (.read bs gt) →
            ((relDone s1 s.cur (Order.cluster cl) s1.me.seq = false ∨ (s1.cluster cl).roomFor l o.sel.toNat = false) →
              exec (.tpsh h o) s = .next s1) ∧
            (∀ q, relDone s1 s.cur (Order.cluster cl) s1.me.seq = true → (s1.cluster cl).roomFor l o.sel.toNat = true →
              (s1.cluster cl).queue? l.lid o.sel.toNat = some q →
              ∃ t, exec (.tpsh h o) s = .next t ∧
                (t.cluster cl).queue? l.lid o.sel.toNat = some { q with items := insBy (fun x => x.ord) ⟨s.enqOrd (gidIdx g), w, bs, false, []⟩ q.items } ∧
                (t.cluster cl).deps = (s.cluster cl).deps ++ templateRegions l st (s.enqOrd (gidIdx g)) w ∧ t.nextOrd = s.nextOrd + 1 ∧
                (∀ p : Fin 8, o.d = .p p → p ≠ 0 → t.me.getP p.val = true) ∧ t.me.x = s.me.x ∧ s.me.Advanced t.me ∧ t.mem = s.mem))))) ∧
    (Issues h s .illegal (pairOps o.a) [o.d] s1 →
      let no := exec (.tpop h o) s = .next (s1.after h (fun c => c.writePO o.d false))
      (s1.here.task = none → no) ∧
      (∀ k, s1.here.task = some k →
        let r : Req := ⟨s1.me.readPair o.a, [permStore], kStore, 1, 0, [⟨(s1.me.readPair o.a).addr, k.record.length, 0⟩], true⟩
        (k.popped = true → no) ∧
        (k.popped = false → ∀ n sub v, checkElems s1 g s1.me.cdom r r.elems [] [] = .trap n sub v →
          exec (.tpop h o) s = .next (s1.fault s.cur h n sub v)) ∧
        (k.popped = false → g ∈ k.members → s1.here.mrg = none → ∀ parts used, checkElems s1 g s1.me.cdom r r.elems [] [] = .ok parts used →
          ∃ t e, exec (.tpop h o) s = .next t ∧ t.me.sb = s.me.sb ++ [e] ∧ e.data = k.record ∧ (t.core g).task = some { k with popped := true } ∧
            (∀ p : Fin 8, o.d = .p p → p ≠ 0 → t.me.getP p.val = true) ∧ t.me.x = s.me.x ∧ s.me.Advanced t.me ∧ t.mem = s.mem))) ∧
    (Issues h s .illegal [o.a, o.b] [] s1 →
      let lo := (s1.me.readS o.a).1
      let n := ((s1.me.readS o.a).2.readS o.b).1
      let pops : Ctx → Ctx := fun c => ((c.readS o.a).2.readS o.b).2
      ((s1.here.task = none ∨ n = 0) → exec (.tdecl h o) s = .next (s1.after h pops)) ∧
      (∀ k, s1.here.task = some k → n ≠ 0 →
        (512 ≤ (s1.cluster cl).deps.length → exec (.tdecl h o) s = .next s1) ∧
        ((s1.cluster cl).deps.length < 512 → ∃ t, exec (.tdecl h o) s = .next t ∧
          (t.cluster cl).deps = (s.cluster cl).deps ++ [⟨k.ord, lo.toNat, min (lo.toNat + n.toNat) (2 ^ 64), decide (o.sub = 1), k.dom⟩] ∧
          t.me.x = s.me.x ∧ s.me.Advanced t.me ∧ t.mem = s.mem))) ∧
    (Issues h s .illegal [o.a] [o.d] s1 →
      let w := (s1.me.readS o.a).1
      let own := s1.me.cdom.toNat
      let no := exec (.qprio h o) s = .next (s1.after h (fun c => (c.readS o.a).2.writePO o.d false))
      let target := if o.a = .x 0 then s1.myLaunch.map (fun e => e.2) else s1.launch? (w.extractLsb' 0 16).toNat
      (target = none → no) ∧
      (∀ l, target = some l →
        let wrong := l.code ≠ 0 ∨ l.stages.length ≤ o.sel.toNat ∨ (l.dom ≠ own ∧ own ≠ 0) ∨ (o.imm = 23 ∧ (own ≠ 0 ∨ l.dom ≠ 0))
        (wrong → no) ∧
        (¬ wrong → ∃ t, exec (.qprio h o) s = .next t ∧
          t.flights = s.flights ++ l.clm.map (fun c => .qprio c l.lid o.sel.toNat o.imm.toNat) ∧
          (∀ p : Fin 8, o.d = .p p → p ≠ 0 → t.me.getP p.val = true) ∧ t.me.x = s.me.x ∧ s.me.Advanced t.me ∧ t.mem = s.mem))) ∧
    (Issues h s .normal [] [o.d] s1 →
      exec (.wid h o) s = .next (s1.after h (fun c => c.writeS o.d (BitVec.ofNat 64 (widField s1.myWidths c.twid o.sel.toNat))))) ∧
    (∀ (m n : Fin 64), o.a = .x m → o.b = .x n → Issues h s .normal [o.a, o.b] [o.d] s1 →
      ∃ w, exec (.widSet h o) s = .next (s1.after h (fun c => c.writeS o.d w)) ∧
        (o.sel.toNat < s1.myWidths.length → fieldLo s1.myWidths (o.sel.toNat + 1) ≤ 64 →
          widField s1.myWidths w o.sel.toNat = (s.me.getX n.val).val.toNat % 2 ^ s1.myWidths.getD o.sel.toNat 0) ∧
        (∀ f, f ≠ o.sel.toNat → f < s1.myWidths.length → fieldLo s1.myWidths (f + 1) ≤ 64 → fieldLo s1.myWidths (o.sel.toNat + 1) ≤ 64 →
          widField s1.myWidths w f = widField s1.myWidths (s.me.getX m.val).val f))

/-- Time windows. `twget` reads a word of a window of the cluster. `twput` outside domain 0 is illegal; it writes a word of an inactive window
and word 0 of any, and refuses the other words of an active one; a word 0 that sets V with a field out of its range clears V and writes false;
one that sets V in range starts the window, with its dropped counts zero and the next slot of device time. `twadv` sets FREE of a slot whose
tick has passed and whose number stands there, for the owning domain or domain 0, and otherwise writes false. The model's choices (log entry 38): that
V clears where a field is out of its range, that `twadv` is ordered as a release at cluster scope, and the order of its tests; and that a header in no
memory or in poisoned memory reads zero (log entry 14). Both wait while the lines of the headers cannot be reached. -/
def Obligations.TimeWindowInstructions : Prop :=
  ∀ (h : Hdr) (o : FmtT) (s s1 : State),
    let cl := gidCl s.cur.gid
    let n := o.sel.toNat
    (Issues h s .normal [] [o.d] s1 →
      exec (.twget h o) s = .next (s1.after h (fun c => c.writeS o.d (((s1.cluster cl).win n).word o.imm.toNat)))) ∧
    (Issues h s .illegal [o.a] [o.d] s1 →
      let w := (s1.me.readS o.a).1
      let win := (s1.cluster cl).win n
      let ends : (Hdr → FmtT → Instr) → Bool → Prop := fun mk b => ∃ t, exec (mk h o) s = .next t ∧
        (∀ p : Fin 8, o.d = .p p → p ≠ 0 → t.me.getP p.val = b) ∧ t.me.x = s.me.x ∧ s.me.Advanced t.me
      let heads := s1.devMay false (((List.range (win.put 0 w).nslot).flatMap (s1.slotLines (win.put 0 w))).foldl natIns [])
      (s1.me.cdom ≠ 0 → exec (.twput h o) s = .next (s1.fault s.cur h 5 0 s.me.slotVal)) ∧
      (s1.me.cdom = 0 →
        (o.imm ≠ 0 → win.active = true →
          exec (.twput h o) s = .next (s1.after h (fun c => (c.readS o.a).2.writePO o.d false))) ∧
        (((o.imm ≠ 0 ∧ win.active = false) ∨ (o.imm = 0 ∧ w.getLsbD 63 = false)) →
          ∃ t, exec (.twput h o) s = .next t ∧ ((t.cluster cl).win n).word o.imm.toNat = w ∧
            (∀ i, i ≠ o.imm.toNat → ((t.cluster cl).win n).word i = win.word i) ∧
            (∀ m, m ≠ n → (t.cluster cl).win m = (s.cluster cl).win m) ∧
            (∀ p : Fin 8, o.d = .p p → p ≠ 0 → t.me.getP p.val = true) ∧ t.me.x = s.me.x ∧ s.me.Advanced t.me ∧ t.mem = s.mem) ∧
        (o.imm = 0 → w.getLsbD 63 = true → (win.put 0 w).inRange = false →
          ∃ t, exec (.twput h o) s = .next t ∧ ((t.cluster cl).win n).active = false ∧
            (∀ i, i ≠ 0 → ((t.cluster cl).win n).word i = win.word i) ∧
            (∀ p : Fin 8, o.d = .p p → p ≠ 0 → t.me.getP p.val = false) ∧ t.me.x = s.me.x ∧ s.me.Advanced t.me ∧ t.mem = s.mem) ∧
        (o.imm = 0 → w.getLsbD 63 = true → (win.put 0 w).inRange = true → heads = false →
          ∃ t, exec (.twput h o) s = .next t ∧ t.me.slot = s.me.slot ∧ t.me.x = s.me.x ∧ t.mem = s.mem) ∧
        (o.imm = 0 → w.getLsbD 63 = true → (win.put 0 w).inRange = true → heads = true →
          ends .twput true ∧ ∃ t, exec (.twput h o) s = .next t ∧ ((t.cluster cl).win n).word 0 = w ∧ ((t.cluster cl).win n).word 5 = 0 ∧
            ((t.cluster cl).win n).word 6 = 0 ∧
            ((t.cluster cl).win n).word 7 = BitVec.ofNat 64 ((s.dev.ns - (win.t0 + win.ofs)) / win.per))) ∧
      (let mine := s1.me.cdom = 0 ∨ ∃ l, s1.launch? win.lid = some l ∧ l.dom = s1.me.cdom.toNat
       let free := orderOk s1 s.cur s1.me.seq (Order.cluster cl) && fencesOk s1 s.cur s1.me.seq false true
       let may := s1.devMay true (s1.slotLines win w.toNat)
       ((win.nslot = 0 ∨ ¬ mine ∨ s.dev.ns < win.tickOf w.toNat) →
         exec (.twadv h o) s = .next (s1.after h (fun c => (c.readS o.a).2.writePO o.d false))) ∧
       (win.nslot ≠ 0 → mine → win.tickOf w.toNat ≤ s.dev.ns →
         (free = false → exec (.twadv h o) s = .next s1) ∧
         (free = true → may = false → ∃ t, exec (.twadv h o) s = .next t ∧ t.me.slot = s.me.slot ∧ t.me.x = s.me.x ∧ t.mem = s.mem) ∧
         (free = true → may = true → ∀ u, u = s1.slotTrace win w.toNat →
           ((scratchBase ≤ win.slotAt w.toNat ∨ u.slotWord win w.toNat 0 ≠ w) →
             exec (.twadv h o) s = .next (u.after h (fun c => (c.readS o.a).2.writePO o.d false))) ∧
           (win.slotAt w.toNat < scratchBase → u.slotWord win w.toNat 0 = w → ends .twadv true ∧
             ∀ home, home = fwdAddr s1 (win.slotAt w.toNat) → reservedPA s1 none true (home + 8) = false → ∃ t, exec (.twadv h o) s = .next t ∧
               t.word (home + 8) = u.slotWord win w.toNat 1 ||| 2 ∧
               (s.ecc = [] → ∀ y, (y < home + 8 ∨ home + 16 ≤ y) → t.byte y = s.byte y))))))

/-! ## The translation service (R39-R46, R52, R376-R379) -/

/-- `tlbw` runs on a service core at supervisor level only. A target with reserved bits, or words that are no entry, write 3; an entry that no
range of the cluster admits writes 2 and posts a record; otherwise the answer goes to its core, an install with the frame moved by the base of
the lowest range that admits it. `tlbi`, at supervisor level alone, removes exactly the entries that it names from the cores of its scope,
whose generations advance, and retires when no access that used them is in flight, a store that waits for its merge among them, and when the gang's
devices that a DEV of 0xFF names have reported. `fnote` sends its notice once the agent's answers have taken
effect; `rtab` writes and `rtab.rd` reads the range table at hypervisor level of a service core. No byte of memory changes. -/
def Obligations.TranslationInstructions : Prop :=
  ∀ (h : Hdr) (o : FmtT) (s s1 : State),
    let g := s.cur.gid
    let cl := gidCl g
    (∀ e ∈ ([(.tlbwInstall, 0), (.tlbwUpcall, 1), (.tlbwTrap, 2), (.tlbwFail, 3)] : List ((Hdr → FmtT → Instr) × Nat)),
      Issues h s .illegal ((if e.2 = 0 then pairOps o.a else []) ++ [o.b]) [o.d] s1 →
      let w := (s1.me.readS o.b).1
      let q := targetOf w
      let bad := w.extractLsb' 20 12 ≠ 0 ∨ w.extractLsb' 8 11 ≠ 0
      let gen := if w.getLsbD 19 then (s1.cluster cl).genOf (w.extractLsb' 0 8).toNat else (w.extractLsb' 48 16).toNat
      let ends : Nat → Prop := fun n => exec (e.1 h o) s = .next (s1.after h (fun c => (c.readS o.b).2.writeS o.d (BitVec.ofNat 64 n)))
      let sends : Word → Word → Prop := fun w0 w1 => ∃ t, exec (e.1 h o) s = .next t ∧
        t.flights = s.flights ++ [.reply (gidOf cl (w.extractLsb' 0 8).toNat) cl e.2 o.imm.toNat (w.extractLsb' 32 16).toNat gen (w.getLsbD 19)
          w0 w1 s.cur o.d] ∧
        t.me.x = s.me.x ∧ s.me.Advanced t.me ∧ t.mem = s.mem
      let w0 := (s1.me.getX (opNum o.a)).val
      let w1 := (s1.me.getX (opNum o.a + 1)).val
      ((isSvc g = false ∨ s1.me.level ≠ .supervisor) → exec (e.1 h o) s = .next (s1.fault s.cur h 5 0 s.me.slotVal)) ∧
      (isSvc g = true → s1.me.level = .supervisor →
        (bad → ends 3) ∧
        (¬ bad → e.2 ≠ 0 → sends 0 0) ∧
        (¬ bad → e.2 = 0 → tlbOfWords w0 w1 = none → ends 3) ∧
        (¬ bad → e.2 = 0 → ∀ x, tlbOfWords w0 w1 = some x →
          ((∀ i, i < 48 → ((s1.cluster cl).range i).admits (s1.cluster cl).part x = false) →
            ∃ t, exec (e.1 h o) s = .next t ∧ (∀ n : Fin 64, o.d = .x n → n ≠ 0 → (t.me.getX n.val).val = 2) ∧
              t.flights = s.flights ++ [.msg (svcOf cl) ⟨recordBytes (rangeMissWords s1 (gidOf cl (w.extractLsb' 0 8).toNat) q gen x), true, 2, 0, 0⟩] ∧
              s.me.Advanced t.me ∧ t.mem = s.mem) ∧
          (∀ i, i < 48 → ((s1.cluster cl).range i).admits (s1.cluster cl).part x = true →
            (∀ j, j < i → ((s1.cluster cl).range j).admits (s1.cluster cl).part x = false) →
            sends w0 (BitVec.ofNat 64 (w1.toNat - bits w1 51 16 * 65536 +
              (x.pfn + bits ((s1.cluster cl).range i).w2 51 16) % 2 ^ 36 * 65536)))))) ∧
    (∀ e ∈ ([(.tlbiPage, 0), (.tlbiDomain, 1), (.tlbiAll, 2)] : List ((Hdr → FmtT → Instr) × Nat)),
      Issues h s .illegal (pairOps o.a ++ [o.b]) [] s1 →
      let q := s1.me.scopeArg o.b
      let va := (s1.me.getX (opNum o.a)).val
      let dom := ((s1.me.getX (opNum o.a + 1)).val.extractLsb' 0 12).toNat
      let goes : TlbEntry → Prop := fun x => (e.2 ≠ 2 → x.dom = dom) ∧
        (e.2 = 0 → va57 va / 2 ^ pageBits x.size = x.vpn * 65536 / 2 ^ pageBits x.size)
      let what : TlbiWhat := if e.2 = 0 then .page va dom else if e.2 = 1 then .domain dom else .all
      let cores := if q.core then [g] else rectCores q.scope
      (∀ k, k ∈ cores ↔ if q.core then k = g else inRect q.scope k = true) ∧
      ((∀ ws ds, s1.me.busy ≠ some (.invalidating ws ds)) → (s1.me.level ≠ .supervisor ∨ q.ok = false) →
        exec (e.1 h o) s = .next (s1.fault s.cur h 5 0 s.me.slotVal)) ∧
      ((∀ ws ds, s1.me.busy ≠ some (.invalidating ws ds)) → s1.me.level = .supervisor → q.ok = true →
        (∀ k ∈ cores, ∀ c ∈ (s1.core k).ctxs, ∀ x y, c.2.busy ≠ some (.publish x y)) →
        ∃ t ws ds, exec (e.1 h o) s = .next t ∧ t.me.busy = some (.invalidating ws ds) ∧ t.me.x = s.me.x ∧ t.mem = s.mem ∧
          (∀ k ∈ cores, ∀ x ∈ s1.accessesUnder what k, (k, x) ∈ ws) ∧ (∀ x ∈ s1.mergesUnder what cores, x ∈ ws) ∧
          (∀ p, p ∈ ds ↔ p < 16 ∧ (s1.peerMask g q).getLsbD p = true) ∧
          (∀ k ∈ cores, (∀ x, x ∈ (t.core k).tlb ↔ x ∈ (s.core k).tlb ∧ ¬ goes x) ∧ (t.core k).gen = (s.core k).gen + 1) ∧
          (∀ k, k ∉ cores → (t.core k).tlb = (s.core k).tlb ∧ (t.core k).gen = (s.core k).gen)) ∧
      (∀ ws ds, s1.me.busy = some (.invalidating ws ds) →
        ((ws.any s1.stillFlying = true ∨ ds ≠ []) → exec (e.1 h o) s = .next s1) ∧
        (ws.any s1.stillFlying = false → ds = [] → exec (e.1 h o) s = .next (s1.retire s.cur h)))) ∧
    (Issues h s .illegal (pairOps o.a) [] s1 →
      let w1 := (s1.me.getX (opNum o.a + 1)).val
      let bad := isSvc g = false ∨ s1.me.level ≠ .supervisor ∨ w1.extractLsb' 48 16 ≠ 0 ∨ w1.extractLsb' 24 4 ≠ 0 ∨ w1.extractLsb' 4 4 ≠ 0
      let due := s1.repliesOut s.cur = true ∨ orderOk s1 s.cur s1.me.seq (Order.cluster cl) = false ∨ fencesOk s1 s.cur s1.me.seq false true = false
      (bad → exec (.fnote h o) s = .next (s1.fault s.cur h 5 0 s.me.slotVal)) ∧
      (¬ bad → due → exec (.fnote h o) s = .next s1) ∧
      (¬ bad → ¬ due → ∃ t, exec (.fnote h o) s = .next t ∧
        t.flights = s.flights ++ [.msg (gidOf cl (w1.extractLsb' 16 8).toNat) ⟨recordBytes [(s1.me.getX (opNum o.a)).val,
          BitVec.ofNat 64 (w1.toNat / 16 * 16 + (if w1.extractLsb' 0 4 = 0 then 0 else 1))], true, 4, 0, 0⟩] ∧
        SameRegs s.me t.me ∧ s.me.Advanced t.me ∧ t.mem = s.mem)) ∧
    (let priv := isSvc g = true ∧ s1.me.level = .hypervisor
     (Issues h s .illegal [o.a] [] s1 →
      let w := (s1.me.readS o.a).1
      let reserved := if o.sel = 0 then w.extractLsb' 55 5 ≠ 0 ∨ w.extractLsb' 0 16 ≠ 0 else w.extractLsb' 52 12 ≠ 0 ∨ w.extractLsb' 0 16 ≠ 0
      (¬ priv → exec (.rtab h o) s = .next (s1.fault s.cur h 5 0 s.me.slotVal)) ∧
      (priv → reserved → exec (.rtab h o) s = .next (s1.after h (fun c => (c.readS o.a).2))) ∧
      (priv → ¬ reserved → ∃ t, exec (.rtab h o) s = .next t ∧
        (t.cluster cl).range o.imm.toNat = (if o.sel = 0 then { (s.cluster cl).range o.imm.toNat with w0 := w }
          else if o.sel = 1 then { (s.cluster cl).range o.imm.toNat with w1 := w } else { (s.cluster cl).range o.imm.toNat with w2 := w }) ∧
        (∀ i, i ≠ o.imm.toNat → (t.cluster cl).range i = (s.cluster cl).range i) ∧ t.me.x = s.me.x ∧ s.me.Advanced t.me ∧ t.mem = s.mem)) ∧
     (Issues h s .illegal [] [o.d] s1 →
      let r := (s1.cluster cl).range o.imm.toNat
      (¬ priv → exec (.rtabRd h o) s = .next (s1.fault s.cur h 5 0 s.me.slotVal)) ∧
      (priv → exec (.rtabRd h o) s = .next (s1.after h (fun c =>
        c.writeS o.d (if o.sel = 0 then r.w0 else if o.sel = 1 then r.w1 else r.w2))))))

/-! ## Events that complete what an instruction began (R39-R49, R52, R135, R138, R155, R214, R222, R265, R350, R351, R360-R372) -/

/-- Arrivals. An install that is not older than its core's generation enters the TLB and D reads 0, an older one installs nothing and D reads
4; an answer that finds no tracker waiting writes 5, another writes 1 and frees the tracker. A message enters the receive queue, or the
overflow region behind a full one; a notice also adds one to its semaphore; a request joins the Ubhal's queue. Messages of one sender to one
receiver arrive in their order. An increment on its way is added with saturation; the return of a check writes D, sends the increment on when
the domains agree, and retires its instruction, whose signal counts from the next cycle; a change of a queue's level restarts the aging of all
its records. No register but D and, except for a message put behind a full queue, no byte of memory changes. The model's choices: an overflow entry
goes behind the newest one of the ring whatever SPILL counts, and a message waits while the memory of its place cannot be reached (log entry 31);
the check of a `sem.sig` compares the domains as it returns, and a notice adds to its semaphore as it arrives (log entry 48). -/
def Obligations.ArrivalEvents : Prop :=
  ∀ (s : State) (j : Nat) (f : Flight), s.ev = .one j → s.flights[j]? = some f →
    (∀ g cl disp cause fseq gen uns w0 w1 v d, f = .reply g cl disp cause fseq gen uns w0 w1 v d →
      let tr := if uns then none else (s.core g).trackers.find? (fun t => decide (t.fseq = fseq))
      let ends : State → Nat → Prop := fun t n => exec .missReply s = .next t ∧ t.flights = s.flights.eraseIdx j ∧ t.mem = s.mem ∧
        (∀ r : Fin 64, d = .x r → r ≠ 0 → ((t.ctx v).getX r.val).val = BitVec.ofNat 64 n) ∧ (∀ e, tr = some e → e ∉ (t.core g).trackers)
      (disp = 0 → genOlder gen (s.core g).gen.toNat = true → ∃ t, ends t 4 ∧ (t.core g).tlb = (s.core g).tlb) ∧
      (∀ e, disp = 0 → genOlder gen (s.core g).gen.toNat = false → tlbOfWords w0 w1 = some e →
        ∃ t, ends t 0 ∧ e ∈ (t.core g).tlb ∧ (t.core g).tlb.length ≤ 128 ∧ ∀ x ∈ (t.core g).tlb, x = e ∨ x ∈ (s.core g).tlb) ∧
      (disp ≠ 0 → (tr = none ∨ ∃ e, tr = some e ∧ e.waiters = []) → ∃ t, ends t 5 ∧ (t.core g).tlb = (s.core g).tlb) ∧
      (∀ e c, disp ≠ 0 → tr = some e → e.waiters = [(c, none)] → c < 11 →
        ∃ t, exec .missReply s = .next t ∧ t.flights = s.flights.eraseIdx j ∧ t.mem = s.mem ∧
          (∀ r : Fin 64, d = .x r → r ≠ 0 → ((t.ctx v).getX r.val).val = 1) ∧ (∀ u ∈ (t.core g).trackers, u.fseq ≠ fseq))) ∧
    (∀ dst m, f = .msg dst m → s.inOrder j = true → (m.sys = false ∨ m.sknd ≠ 1 ∨ s.ready (16 + gidCl dst) = true) →
      ((s.core dst).recvq.length < 64 → (s.core dst).ovq = [] →
        ∃ t, exec .messageArrival s = .next t ∧ (t.core dst).recvq = (s.core dst).recvq ++ [m] ∧ (t.core dst).ovq = [] ∧
          t.flights = s.flights.eraseIdx j ∧ t.mem = s.mem ∧
          (m.sys = true → m.sknd = 4 → ((t.core dst).sem (bits (wordAt m.bytes 1) 15 8)).val.toNat =
            min 0xFFFF (((s.core dst).sem (bits (wordAt m.bytes 1) 15 8)).val.toNat + 1)) ∧
          ((m.sys = false ∨ m.sknd ≠ 4) → ∀ n, (t.core dst).sem n = (s.core dst).sem n) ∧
          (m.sys = true → m.sknd = 1 → ((t.cluster (gidCl dst)).genOf (bits (wordAt m.bytes 1) 7 0)) = bits (wordAt m.bytes 1) 63 48)) ∧
      (∀ place, place = (s.core dst).mqoa.toNat + 64 * (s.core dst).spillSlot →
        (64 ≤ (s.core dst).recvq.length ∨ (s.core dst).ovq ≠ []) → (s.core dst).ovq.length < (s.core dst).mqosSize.toNat →
        ((s.landed j).devMay false ((s.landed j).devLines place 64) = false →
          exec .messageArrival s = .fault (.notEnabled "MESSAGE_ARRIVAL")) ∧
        ((s.landed j).devMay false ((s.landed j).devLines place 64) = true →
        ∃ t e, exec .messageArrival s = .next t ∧ (t.core dst).recvq = (s.core dst).recvq ∧ (t.core dst).ovq = (s.core dst).ovq ++ [e] ∧
          e.addr = place ∧
          e.sys = m.sys ∧ e.sknd = m.sknd ∧ e.cl = m.cl ∧ e.idx = m.idx ∧ (t.core dst).mqosSpill = (s.core dst).mqosSpill + 1)) ∧
      ((64 ≤ (s.core dst).recvq.length ∨ (s.core dst).ovq ≠ []) → (s.core dst).mqosSize.toNat ≤ (s.core dst).ovq.length →
        exec .messageArrival s = .fault (.notEnabled "MESSAGE_ARRIVAL")) ∧
      ((s.core dst).ovq = [] → (s.core dst).spillSlot = (s.core dst).mqosSpill.toNat % (s.core dst).mqosSize.toNat)) ∧
    (∀ g level dom part bs, f = .ubhal g level dom part bs → s.inOrder j = true →
      ∃ t, exec .messageArrival s = .next t ∧ t.dev.ubq = s.dev.ubq ++ [⟨bs, some g, level, dom, part⟩] ∧ t.flights = s.flights.eraseIdx j ∧
        t.mem = s.mem) ∧
    (∀ g sem n, f = .sigAdd g sem n →
      ∃ t, exec .semSigArrival s = .next t ∧ ((t.core g).sem sem).val.toNat = min 0xFFFF (((s.core g).sem sem).val.toNat + n) ∧
        ((t.core g).sem sem).ovf = (((s.core g).sem sem).ovf || decide (0xFFFF < ((s.core g).sem sem).val.toNat + n)) ∧
        (∀ m, m ≠ sem → (t.core g).sem m = (s.core g).sem m) ∧ t.flights = s.flights.eraseIdx j ∧ t.mem = s.mem) ∧
    (∀ cl lid stage lvl q, f = .qprio cl lid stage lvl → (s.cluster cl).queue? lid stage = some q →
      ∃ t, exec .qprioChangeArrival s = .next t ∧ (t.cluster cl).queue? lid stage =
          some { q with base := lvl, age := 0, aged := 0, past := q.past.map (fun e => (e.1, 0, 0, e.2.2.2)) } ∧
        t.flights = s.flights.eraseIdx j ∧ t.mem = s.mem) ∧
    (∀ a tgt sem n h d, f = .sigCheck a tgt sem n → (∀ i g, i < j → s.flights[i]? = some g → ∀ x y z, g ≠ .sigCheck a x y z) →
      (s.ctx a).busy = some (.sigCheck h d) →
      let ok := decide ((s.core tgt).slotDom = (s.ctx a).cdom)
      ∃ t, exec .semSigCheckReturn { s with ev := .agent a } = .next t ∧
        t.flights = s.flights.eraseIdx j ++ (if ok then [.sigAdd tgt sem n] else []) ∧
        (∀ p : Fin 8, d = .p p → p ≠ 0 → (t.ctx a).getP p.val = ok) ∧ (t.ctx a).x = (s.ctx a).x ∧ (s.ctx a).Advanced (t.ctx a) ∧
        (t.core a.gid).semAdds = (s.core a.gid).semAdds ++ addsOf h ∧ (t.core a.gid).sems = (s.core a.gid).sems ∧ t.mem = s.mem)

/-- Barriers, collectives and joint rows. A barrier passes when all have arrived, every core of the rectangle on each peer that its scope names
among them, and what each must order is performed: the contexts move on, and an exchange phase opens in the next cycle, each context that enters it
with the late instructions of the phase before in D; until then it does not pass. The members of a collective that disagree receive CST 14; else,
once the lines of the buffers of this device's members are there, each of them receives the status of the result; a broadcast is the root's buffer,
a gather all members' parts in rank order, an integer sum the sum modulo the width, and one member's NaN becomes the canonical one. A row forms once
the command whose effect is due on every member waits for it. The model's choices: a collective reads and writes its buffers in one event, takes a
peer's part as its arrival brings it, and makes one member's NaN canonical (log entry 36); how peers' arrivals come (log entry 45); a row forms once
every earlier effect on its members' planes has taken place (log entry 42). -/
def Obligations.BarrierEvents : Prop :=
  (∀ (s : State) (a : Agent) (r0 : Arrival), s.ev = .agent a → s.arrivals.find? (fun r => r.agent == a && sameBarrier r r) = some r0 →
    let rs := s.arrivals.filter (sameBarrier r0)
    (s.allArrived r0 rs = false → exec .barPass s = .fault (.notEnabled "BAR_PASS")) ∧
    (s.allArrived r0 rs = true → (∀ r ∈ rs, relDone s r.agent r.scope (s.ctx r.agent).seq = true) →
    ∃ t, exec .barPass s = .next t ∧ t.arrivals = s.arrivals.filter (fun r => !sameBarrier r0 r) ∧ t.mem = s.mem ∧ t.tags = s.tags ∧
      (∀ h d, (s.ctx a).busy = some (.barrier h d) → (s.ctx a).Advanced (t.ctx a) ∧ (t.ctx a).busy = none) ∧
      (∀ w c len, r0.kind = .xphase w c len → ∀ ph, ph = (⟨s.dev.cyc + 1, len, r0.members, [], [], 0⟩ : Phase) →
        (∀ r ∈ rs, r.agent.gid = a.gid → ∀ w2 c2 n, r.kind = .xphase w2 c2 n → n = len) → (rs.map (fun r => r.agent)).Nodup →
        (t.core a.gid).phase = some ph ∧
        ((s.core a.gid).phase ≠ some ph →
          (t.core a.gid).lateCount = 0 ∧ (t.core a.gid).pastPhases = (s.core a.gid).pastPhases ++ (s.core a.gid).phase.toList) ∧
        (∀ r ∈ rs, r.agent.gid = a.gid → ∀ w2 c2 n h (d : Fin 64), r.kind = .xphase w2 c2 n → (s.ctx r.agent).busy = some (.barrier h (.x d)) →
          d ≠ 0 → ((t.ctx r.agent).getX d.val).val = BitVec.ofNat 64 (s.core a.gid).lateCount)))) ∧
  (∀ (s : State) (r : Arrival) (w : Word) (core : Bool), r.kind = .bar w core →
    (∀ p, p ∈ s.farDevs r ↔ p < 16 ∧ r.w0.getLsbD p = true) ∧
    r.farRect = (if core = false ∧ w.extractLsb' 32 8 = 0xFF then rectCores w else []) ∧
    (s.farArrived r = true ↔ ∀ p ∈ s.farDevs r, ∀ m ∈ r.farRect, ∃ q ∈ s.remote, q.dev = p ∧ q.gid = m ∧ s.meets q r = true)) ∧
  (∀ (s : State) (part grp : Nat) (ls : List Rank) (rs : List Arrival) (r0 : Arrival), s.ev = .two part grp →
    ls = (s.ranks part grp).filterMap id → ls.length = (s.ranks part grp).length →
    rs = ls.filterMap (fun k => match k with | .near r => some r | .far _ => none) → rs.head? = some r0 →
    ((∃ k ∈ ls, k.words ≠ (r0.w0, r0.w1)) →
      ∃ t, exec .collectiveAllArrived s = .next t ∧ (∀ r ∈ rs, r ∉ t.arrivals) ∧ t.mem = s.mem ∧
        (∀ r ∈ rs, ∀ h (n : Fin 64), (s.ctx r.agent).busy = some (.barrier h (.x n)) → n ≠ 0 →
          ((t.ctx r.agent).getX n.val).val = collStatus 0xE 0 0)) ∧
    ((∀ k ∈ ls, k.words = (r0.w0, r0.w1)) → ∀ q, q = s.askBuffers rs →
      (q = .no → exec .collectiveAllArrived s = .fault (.notEnabled "COLLECTIVE_ALL_ARRIVED")) ∧
      (∀ u, q = .wait u → exec .collectiveAllArrived s = .next u) ∧
      (∀ u, q = .go u → u.ecc = [] →
        let kind := bits r0.w1 15 8
        let f := bits r0.w1 3 0
        let count := bits r0.w0 31 0
        let out := collResult kind f (bits r0.w1 7 4) (bits r0.w0 63 56) count (ls.map (fun k => match k with
          | .near r => (u.bufRead r.agent.gid r.places).1
          | .far q => padTo 0 (collBytes kind f count ls.length) q.data))
        ∃ t, exec .collectiveAllArrived s = .next t ∧ (∀ r ∈ rs, r ∉ t.arrivals) ∧
          (∀ r ∈ rs, ∀ h (n : Fin 64), (u.ctx r.agent).busy = some (.barrier h (.x n)) → n ≠ 0 →
            ((t.ctx r.agent).getX n.val).val = collStatus (if out.2 = [] then 0 else 0xA) out.2.length out.1.length)))) ∧
  (∀ (f root count : Nat) (bufs : List (List Byte)),
    let w := collWidth f
    (∀ op, collResult 1 f op root count bufs = (bufs.getD root [], [])) ∧
    (∀ op, (∀ b ∈ bufs, b.length = bufs.length * (count * w)) → ∀ r, r < bufs.length →
      ((collResult 2 f op root count bufs).1.drop (r * (count * w))).take (count * w) =
        ((bufs.getD r []).drop (r * (count * w))).take (count * w)) ∧
    (fmtIsInt f = true → 8 * w = fmtBits f → (∀ b ∈ bufs, b.length = count * w) → ∀ i, i < count →
      ofBytes (((collResult 0 f 0 root count bufs).1.drop (i * w)).take w) =
        (bufs.map (fun b => ofBytes ((b.drop (i * w)).take w))).foldl (· + ·) 0 % 2 ^ (8 * w)) ∧
    (∀ op x, fmtIsInt f = false → decodeF f x = .nan → reduceElem f op [x] = (toF f 0 false .nan).raw)) ∧
  (∀ (s u : State) (g : Nat), s.ev = .one g → g ∈ s.rowOf g → (s.rowOf g).Nodup → u = (s.rowOf g).foldl (fun st k => st.settled k 4) s →
    (∀ k ∈ s.rowOf g, u.gangWaits k = true) →
    ∃ t, exec .jointRowFormed s = .next t ∧ t.mem = u.mem ∧ ∀ k ∈ s.rowOf g, (t.core k).matrix.row = s.rowOf g ∧ (t.core k).matrix.fwd = [] ∧
      ∀ i c, (u.core k).matrix.due = some (i, c) → (t.core k).matrix.cmds[i]? = some { c with readPos := 1 })

/-- Commands, sequencers, tickets, budgets. A matrix command whose turn it is has its effect on the planes once it has read what it needs, and one
that has completed with its effect to come has it when its turn comes: a load fills the shadow plane, a swap exchanges the planes, a zero clears its
accumulator plane, a pass adds its chunks to every word. A command that can complete leaves its queue, wherever it stands in it, its register reads
the status word, and its signal is added unless the Rake halted it; one that cannot stays. That a load, a pass or a restore completes at its last
read, its effect coming later in its turn, is the model's reading of the two rules together (log entry 42). A sequencer's fault ends its run and is
held for the task. HEAD passes a resolved ticket that has no invalidation in flight to its cluster. A budgeted helper whose cycles are used up is
ended at an instruction boundary, when neither a stop of the Rake nor a rollback nor a forced save comes first: its semaphore gains one and its
record names kind 8. -/
def Obligations.CompletionEvents : Prop :=
  ∀ s : State,
    let has : Matrix → Matrix → Cmd → Prop := fun m n c =>
      (c.kind = .mswp → n.act = m.shd ∧ n.shd = m.act) ∧
      (c.kind = .mzero → n.plane c.o.mp.toNat = Plane.reset ∧ ∀ k, k ≠ c.o.mp.toNat → n.plane k = m.plane k) ∧
      (c.kind = .mlds → n.act = m.act ∧ n.shd.valid = true ∧ n.shd.fmt = c.o.fmt.toNat ∧
        (∀ k, k < 8192 → Sparse.look 0 n.shd.elems k = c.buf.getD k 0) ∧
        (∀ k, k < 512 → Sparse.look 0 n.shd.scales k = c.buf.getD (8192 + k) 0)) ∧
      (c.kind = .mstream → n.act = m.act ∧ ∀ r k, r < 64 → k < 64 →
        Sparse.look 0 (n.plane c.o.mp.toNat).words (64 * r + k) =
          passWord ⟨c.o.fmt.toNat, c.buf.take 8192, c.buf.drop 8192⟩ m.act r k (Sparse.look 0 (m.plane c.o.mp.toNat).words (64 * r + k)))
    (∀ g i c, (s.core g).matrix.lateDue = none → (s.core g).matrix.due = some (i, c) → (s.core g).matrix.effectReady g c = true →
      c.stopped = none → ∀ t, t = State.settle 1 s g →
        t.mem = s.mem ∧ (∃ e, (t.core g).matrix.cmds[i]? = some e ∧ e.effected = true ∧ e.kind = c.kind ∧ e.o = c.o) ∧
        has (s.core g).matrix (t.core g).matrix c) ∧
    (∀ g c, (s.core g).matrix.lateDue = some c → ∀ t, t = State.settle 1 s g →
        t.mem = s.mem ∧ (∀ e, e ∈ (t.core g).matrix.late ↔ e ∈ (s.core g).matrix.late ∧ e.accepted ≠ c.accepted) ∧
        (t.core g).matrix.cmds = (s.core g).matrix.cmds ∧ has (s.core g).matrix (t.core g).matrix c) ∧
    (∀ g ch i c u, s.ev = .three g ch i → u = s.settled g ch → ((u.core g).queueOf ch)[i]? = some c → ch ≤ 4 →
      (u.canComplete g i c = false → exec .engineCommandCompletion s = .fault (.notEnabled "ENGINE_COMMAND_COMPLETION")) ∧
      (u.canComplete g i c = true →
      ∃ t, exec .engineCommandCompletion s = .next t ∧ (t.core g).queueOf ch = ((u.core g).queueOf ch).eraseIdx i ∧ t.mem = u.mem ∧
        (∀ r : Fin 64, c.o.d = .x r → r ≠ 0 →
          ((t.ctx ⟨g, c.kind.seqr⟩).getX r.val).val = statusWord c.code.1 c.code.2 c.bad c.done) ∧
        (∀ p, c.stopped = some p → c.code = p) ∧
        (c.stopped = none → (c.kind ≠ .mrest ∨ c.effected = true) → c.code = (if c.bad ≠ 0 then 0xA else 0, 0)) ∧
        (ch = 4 → c.readsOnly = true → c.effected = false → c.stopped = none → c ∈ (t.core g).matrix.late) ∧
        ((∀ sub, c.stopped ≠ some (7, sub)) → ((t.core g).sem c.h.ss.toNat).val.toNat =
          min 0xFFFF (((u.core g).sem c.h.ss.toNat).val.toNat + c.h.si.toNat)) ∧
        (∀ sub, c.stopped = some (7, sub) → ∀ n, (t.core g).sem n = (u.core g).sem n))) ∧
    (∀ a f, s.ev = .agent a → (s.ctx a).sfault = some f →
      ∃ t, exec .sequencerFault s = .next t ∧ (t.ctx a).live = false ∧ (t.ctx a).sfault = none ∧ f ∈ (t.core a.gid).faults ∧
        (t.core a.gid).faults.length = (s.core a.gid).faults.length + 1 ∧ t.mem = s.mem) ∧
    (∀ cl st r, s.ev = .two cl st → ((s.cluster cl).stream st).resolved.find? (fun r => r.1 == ((s.cluster cl).stream st).head) = some r →
      (∀ v ∈ s.invals, v.wid ∈ r.2 → v.target ≠ allCores ∧ gidCl v.target ≠ cl) →
      ∃ t, exec .ticketResolve s = .next t ∧ ((t.cluster cl).stream st).head = ((s.cluster cl).stream st).head + 1 ∧
        ((t.cluster cl).stream st).resolved = ((s.cluster cl).stream st).resolved.erase r ∧
        ((t.cluster cl).stream st).next = ((s.cluster cl).stream st).next ∧ t.mem = s.mem) ∧
    (∀ a, s.ev = .agent a → 1 ≤ a.ctx → a.ctx ≤ 10 → (s.ctx a).live = true → (s.ctx a).budg.arm = true → (s.ctx a).budg.cnt = 0 →
      (s.ctx a).runsOn = false →
      (((s.core a.gid).stopped = true ∨ (s.core a.gid).failed = true ∨ (s.core a.gid).saving = 2 ∨ s.saveDue a.gid = true) →
        exec .budgetExpiry s = .fault (.notEnabled "BUDGET_EXPIRY")) ∧
      ((s.core a.gid).stopped = false → (s.core a.gid).failed = false → (s.core a.gid).saving ≠ 2 → s.saveDue a.gid = false →
      ∃ t, exec .budgetExpiry s = .next t ∧ (t.ctx a).live = false ∧ (t.ctx a).budg.ended = true ∧ (t.ctx a).budg.kind = 8 ∧
        (t.ctx a).budg.arm = false ∧ (t.ctx a).region = none ∧
        ((s.ctx a).waitTaken = false → ((t.core a.gid).sem (s.ctx a).budg.sem.toNat).val.toNat =
          min 0xFFFF (((s.core a.gid).sem (s.ctx a).budg.sem.toNat).val.toNat + 1)) ∧ t.mem = s.mem))

/-! ## Events of the distributors, saves, merges and gangs (R163, R186-R204, R216-R220, R226) -/

/-- The distributor. What it selects is a ready head of the greatest level, which the members then hold as their task; on a core of the task's own
domain with room the control context stands at the stage's first block, at supervisor level for domain 0 and user level else, with its banks in
its slots. A head that has been one for 65,536 cycles ages one level; each window of 1,024 cycles ends in marks; when a head two levels above the
least running task has waited 1,024 cycles, a core of that least level is asked to yield; without time lock no core is marked and none is asked. A
cluster enqueues its share of stage-0 tasks in rotation. A task
ends when each of its members has; its launch counts it, and STATUS is written again as a release. The model's choices: that without time lock no
core is marked and none is asked to yield, and that each record keeps its own age (log entry 41); what a binding clears, and that it is a later move
where slots have to be emptied first (log entry 39); the place of a distributor's enqueue among those of one cycle (log entry 42). -/
def Obligations.SchedulerEvents : Prop :=
  ∀ s : State,
    (∀ cl r, s.ev = .one cl → s.ready (8 + cl) = true → s.select cl = some r →
      (∀ e ∈ (s.cluster cl).heads, e.1.level ≤ r.level) ∧
      (r.it.saved = [] → ∃ t, exec .distributorSelect s = .next t ∧ ∀ m ∈ r.ms, ∃ k, (t.core m).task = some k ∧ k.lid = r.l.lid ∧
        k.stage = r.q.stage ∧ k.ord = r.it.ord ∧ k.wid = r.it.wid ∧ k.members = r.ms ∧ k.level = r.level ∧ k.record = r.it.record ∧
        k.popped = false) ∧
      (∀ m, r.it.saved = [] → r.ms = [m] → gidCl m = cl → (s.core m).slotDom.toNat = r.l.dom → r.st.bnk ≤ (s.cluster cl).freeCount →
        ∃ t, exec .distributorSelect s = .next t ∧ (t.core m).binding = none ∧ (t.core m).req = false ∧
          (t.core m).dlc = BitVec.ofNat 32 r.l.pdl ∧ ((t.core m).sem 255).val = 0 ∧
          (t.ctx ⟨m, 0⟩).live = true ∧ (t.ctx ⟨m, 0⟩).At r.st.code ∧ (t.ctx ⟨m, 0⟩).cdom = BitVec.ofNat 12 r.l.dom ∧
          (t.ctx ⟨m, 0⟩).level = (if r.l.dom = 0 then .supervisor else .user) ∧ (t.ctx ⟨m, 0⟩).twid = r.it.wid ∧
          ((s.ctx ⟨m, 0⟩).bankDom ≠ BitVec.ofNat 12 r.l.dom → ∀ n, (t.ctx ⟨m, 0⟩).getX n = Reg.zero))) ∧
    (∀ cl lid stage q0 q, s.ev = .three cl lid stage → (s.cluster cl).queue? lid stage = some q0 → ((s.cluster cl).head q0).isSome = true →
      q = q0.facing ((s.cluster cl).head q0) → 65536 ≤ q.aged → q.base + q.age < 22 →
      ∃ t, exec .headAging s = .next t ∧
        (t.cluster cl).queue? lid stage = some { q with age := q.age + 1, aged := q.aged - 65536 } ∧ t.mem = s.mem) ∧
    (∀ cl, s.ev = .one cl → (s.cluster cl).windows < s.dev.cyc / 1024 →
      ∃ t, exec .rebalance s = .next t ∧ (t.cluster cl).windows = (s.cluster cl).windows + 1 ∧ (t.cluster cl).ran = s.running cl ∧
        (t.cluster cl).queues = (s.cluster cl).queues ∧ (s.dev.fallback = true → (t.cluster cl).marks = []) ∧ t.mem = s.mem) ∧
    (∀ cl, s.ev = .one cl → s.dev.fallback = true → exec .preemptionRequest s = .fault (.notEnabled "PREEMPTION_REQUEST")) ∧
    (∀ cl r, s.ev = .one cl → (s.cluster cl).request = none → s.dev.fallback = false → r ∈ s.running cl → (∀ q ∈ s.running cl, r.2.1 ≤ q.2.1) →
      (∃ e ∈ (s.cluster cl).heads, 1024 ≤ e.1.waited ∧ r.2.1 + 2 ≤ e.1.level) →
      ∃ t p, exec .preemptionRequest s = .next t ∧ p ∈ s.running cl ∧ p.2.1 = r.2.1 ∧ (t.cluster cl).request = some p.1 ∧
        (t.core p.1).req = true ∧ ((t.core p.1).sem 255).val.toNat = min 0xFFFF (((s.core p.1).sem 255).val.toNat + 1) ∧ t.mem = s.mem) ∧
    (∀ cl lid l st rest q, s.ev = .two cl lid → s.launch? lid = some l → l.code = 0 → (l.gangState = 0 ∨ l.gangState = 3) →
      l.stages = st :: rest → (s.cluster cl).roomFor l 0 = true → (s.cluster cl).queue? lid 0 = some q → ∀ p, p = l.clm.findIdx (fun c => c == cl) →
      p < l.clm.length → p + Sparse.look 0 l.given cl * l.clm.length < l.count →
      ∃ t, exec .stage0Enqueue s = .next t ∧
        (t.cluster cl).queue? lid 0 = some { q with items := insBy (fun i => i.ord) ⟨s.enqOrd 256,
          l.wbase + BitVec.ofNat 64 (p + Sparse.look 0 l.given cl * l.clm.length), List.replicate st.rsz 0, false, []⟩ q.items } ∧
        (t.cluster cl).deps = (s.cluster cl).deps ++ templateRegions l st (s.enqOrd 256)
          (l.wbase + BitVec.ofNat 64 (p + Sparse.look 0 l.given cl * l.clm.length)) ∧
        (∃ l2, t.launch? lid = some l2 ∧ Sparse.look 0 l2.given cl = Sparse.look 0 l.given cl + 1) ∧ t.mem = s.mem) ∧
    (∀ g k l, s.ev = .one g → (s.core g).task = some k → g ∈ k.members → (∀ m ∈ k.members, s.memberOver m = true) → s.launch? k.lid = some l →
      ∃ t l2, exec .taskEnd s = .next t ∧ (∀ m ∈ k.members, (t.core m).task = none ∧ (∀ c ∈ (t.core m).ctxs, c.2.live = false)) ∧
        t.launch? k.lid = some l2 ∧ l2.ended = l.ended + 1 ∧ l2.alive = l.alive - 1 ∧
        l2.code = (if l.alive ≤ 1 ∧ l.code = 0 then 1 else l.code) ∧ t.mem = s.mem) ∧
    (∀ lid l, s.ev = .one lid → s.launch? lid = some l → l.first = true → (l.written = false ∨ l.counted < l.ended) →
      (∀ w ∈ l.waits, s.anyInFlight w = false) → l.statusAt ≠ 0 → ∀ q, q = s.devGet false (s.devLines l.statusAt 8) →
      (q = .no → exec .launchStatusWrite s = .fault (.notEnabled "LAUNCH_STATUS_WRITE")) ∧ (∀ u, q = .wait u → exec .launchStatusWrite s = .next u) ∧
      (∀ u, q = .go u → ∃ t l2, exec .launchStatusWrite s = .next t ∧ t.launch? lid = some l2 ∧ l2.counted = l.ended ∧ l2.written = true ∧ l2.waits = [] ∧
        (l.statusAt % 8 = 0 → reservedPA s none true (fwdAddr s l.statusAt) = false →
          t.word (fwdAddr s l.statusAt) = statusOf l.ended lid l.mc l.code ∧
          ∀ y, (y < fwdAddr s l.statusAt ∨ fwdAddr s l.statusAt + 8 ≤ y) → t.byte y = s.byte y)))

/-- Saves, merges, rollbacks. With its countdown at zero a task that has not answered begins its forced save on every member; a save whose loads,
releases and commands are done puts the task back as a saved head of its stage queue and leaves its core idle, and a forced one keeps every register
of its contexts, its semaphores with the signals that have been given, and waits for the stores of them. A superstep barrier that is complete merges
once its lines are there: a byte is that of the highest-ranked proposal of it, and then passes once the merged writes are ordered. A failed
superstep is restored from its snapshot, its performed stores with it, and at its third failure goes on. The model's choices: how a save stops an
instruction that waits, and that a store waits for its data at its issue (log entries 20 and 40); whose write a merged line is, and that a rollback
performs pending loads again (log entry 43). -/
def Obligations.SaveMergeEvents : Prop :=
  (∀ (o n : BrineLine) (i : Nat), i < 128 →
    lineByte (o.over n).data i = (if n.mask.getLsbD i then lineByte n.data i else lineByte o.data i) ∧
    (o.over n).mask.getLsbD i = (o.mask.getLsbD i || n.mask.getLsbD i) ∧ (o.over n).line = o.line ∧
    ((o.over n).psn = true ↔ n.psn = true ∨ (o.psn = true ∧ ∃ k, k < 128 ∧ n.mask.getLsbD k = false))) ∧
  ∀ s : State,
    (∀ g k, s.ev = .one g → (s.core g).task = some k → (s.core g).req = true → (s.core g).dlc = 0 → (s.core g).saving ≠ 2 →
      (s.core g).stopped = false → (s.core g).binding = none → k.halted = false → (∀ m ∈ k.members, (s.core m).failed = false) →
      ((∀ r ∈ s.arrivals, r.agent.gid ∈ k.members → s.sstepFull r = false ∧ s.collFull r = false) →
        ∃ t, exec .forcedSave s = .next t ∧ (∀ m ∈ k.members, (t.core m).saving = 2) ∧ t.mem = s.mem ∧ t.tags = s.tags) ∧
      ((∃ r ∈ s.arrivals, r.agent.gid ∈ k.members ∧ (s.sstepFull r = true ∨ s.collFull r = true)) →
        exec .forcedSave s = .fault (.notEnabled "FORCED_SAVE"))) ∧
    (∀ g k q, s.ev = .one g → (s.core g).task = some k → k.members = [g] → (s.core g).saving ≠ 0 → k.halted = false →
      (s.core g).stopped = false → s.stuck g = false → s.memberSaves (decide ((s.core g).saving = 2)) g = true →
      (s.cluster (gidCl g)).queue? k.lid k.stage = some q → (∀ i ∈ q.items, i.saved = []) →
      ∃ t v q2, exec .saveWriteOut s = .next t ∧ (t.core g).task = none ∧ (t.core g).saving = 0 ∧ (∀ c ∈ (t.core g).ctxs, c.2.live = false) ∧
        (t.cluster (gidCl g)).queue? k.lid k.stage = some q2 ∧ q2.items = ⟨k.ord, k.wid, k.record, k.slip, [v]⟩ :: q.items ∧
        v.task.lid = k.lid ∧ v.forced = decide ((s.core g).saving = 2) ∧ v.mrg = (s.core g).mrg ∧ t.mem = s.mem ∧ t.tags = s.tags ∧
        ((s.core g).saving = 2 → (s.ctx ⟨g, 0⟩).busy = none →
          ∀ n, n < 255 → Sparse.look Sem.reset v.sems n = (s.core g).semStep.sem n) ∧
        ((s.core g).saving = 2 → (s.ctx ⟨g, 0⟩).busy = none → ∀ e ∈ (s.core g).ctxs, e.1 = 0 →
          ∃ c, (0, c) ∈ v.ctxs ∧ SameRegs e.2 c ∧ c.pcc = e.2.pcc ∧ c.slot = e.2.slot ∧ c.sup = e.2.sup ∧ c.hyp = e.2.hyp)) ∧
    (∀ g r0, s.ev = .one g →
      s.arrivals.find? (fun r => decide (r.agent.gid = g) && (match r.kind with | .sstep _ _ _ => true | _ => false)) = some r0 →
      s.sstepFull r0 = true → ∀ rs, rs = s.arrivals.filter (sameSstep r0) → (∀ r ∈ rs, (s.core r.agent.gid).stopped = false) →
      (∀ r ∈ rs, ∀ m, (s.core r.agent.gid).mrg = some m → m.failed = false) →
      ∀ recs, recs = s.recordsGet (rs.map (fun r => r.agent.gid)) false →
      (r0.w1 = 0 → recs = .no → exec .sstepMerge s = .fault (.notEnabled "SSTEP_MERGE")) ∧
      (r0.w1 = 0 → ∀ u, recs = .wait u → exec .sstepMerge s = .next u) ∧
      (r0.w1 = 0 → recs = .go s → (∀ r ∈ rs, noLoadOverlap (s.ctx r.agent) ((mergedLines (s.mergers rs)).map (fun e => e.2)) = true) →
        ∀ q, q = s.askLines ((mergedLines (s.mergers rs)).map (fun e => ((⟨e.1, 0⟩ : Agent), e.2.line))) →
        (q = .no → exec .sstepMerge s = .fault (.notEnabled "SSTEP_MERGE")) ∧ (∀ u, q = .wait u → exec .sstepMerge s = .next u) ∧
        (∀ u, q = .go u →
        ∃ t, exec .sstepMerge s = .next t ∧ t.arrivals = u.arrivals.map (fun q => if rs.contains q then { q with w1 := 1 } else q) ∧
          (∀ r ∈ rs, ∀ m, (t.core r.agent.gid).mrg = some m → m.lines = [] ∧ m.up = 0) ∧
          (∀ e, mergedLines (u.mergers rs) = [e] → u.dev.migs = [] → u.ecc = [] → (∀ r ∈ rs, ∀ k, (u.core r.agent.gid).task = some k → k.reps < 3) →
            (∀ i, i < 128 → reservedPA u (u.partOf e.1) (isSvc e.1) (e.2.line * 128 + i) = false) →
            (∀ i, i < 128 → t.byte (e.2.line * 128 + i) =
              if e.2.mask.getLsbD i then lineByte e.2.data i else u.byte (e.2.line * 128 + i)) ∧
            (∀ y, (y < e.2.line * 128 ∨ e.2.line * 128 + 128 ≤ y) → t.byte y = u.byte y)))) ∧
      (r0.w1 ≠ 0 → (∀ r ∈ rs, ∀ l w c, r.kind = .sstep l w c → relDone s r.agent ⟨false, true, w, c⟩ (s.ctx r.agent).seq = true) →
        ∃ t, exec .sstepMerge s = .next t ∧ t.arrivals = s.arrivals.filter (fun q => !rs.contains q) ∧ t.mem = s.mem ∧ t.tags = s.tags)) ∧
    (∀ g m k, s.ev = .one g → (s.core g).mrg = some m → m.failed = true → (s.core g).stopped = false → (s.core g).task = some k →
      s.superstepOf g = [g] →
      (2 ≤ k.reps → ∃ t, exec .superstepRollback s = .next t ∧ (t.core g).mrg = some { m with failed := false } ∧
        (t.core g).task = some { k with reps := 3 } ∧ t.mem = s.mem) ∧
      (k.reps < 2 → (∀ a ∈ s.liveAgents g, (s.ctx a).busy = none) → s.stuck g = false → s.memberSaves true g = true →
        (s.recordsGet [g] true = .no → exec .superstepRollback s = .fault (.notEnabled "SUPERSTEP_ROLLBACK")) ∧
        (∀ u, s.recordsGet [g] true = .wait u → exec .superstepRollback s = .next u) ∧
        (s.recordsGet [g] true = .go s → ∃ t, exec .superstepRollback s = .next t ∧ (t.core g).task = some { k with reps := k.reps + 1, halted := false } ∧
          (t.core g).mrg = some { m with failed := false, lines := [], up := 0, down := 0, undone := [], wrote := [], via := [] } ∧
          (t.core g).faults = m.snapFaults ∧ (∀ r ∈ t.arrivals, r.agent.gid ≠ g) ∧
          (t.core g).matrix.planes = m.snapPlanes ∧ (s.undoRecords g = [] → s.ecc = [] → t.mem = s.mem) ∧
          (∀ c, m.snap.find? (fun p => p.1 == 0) = some (0, c) → (s.ctx ⟨g, 0⟩).live = true →
            SameRegs { c with sb := (s.ctx ⟨g, 0⟩).sb } (t.ctx ⟨g, 0⟩) ∧ (t.ctx ⟨g, 0⟩).pcc = c.pcc ∧ (t.ctx ⟨g, 0⟩).slot = c.slot))))

/-- Gangs and time windows. A peer's acknowledgement in time joins the gang, and a cluster's once it can place every class of the launch; with
all of them the gang is armed; an armed gang runs at its tick, one of this device alone without time lock as soon as it can be placed; one
whose acknowledgement is missing, or that a member leaves before the tick, is cancelled with CODE 6; after the tick a cancel stops every core
of the gang with CODE 7. A peer's offer is taken with the devices that it names as the gang's, and awaits this device's clusters. Without time lock
the distributors report every 64 cycles. A tick of an active window enqueues its decode-step task, numbered by the slot, or counts a miss when the
queue is full or the launch gone. The model's choices: that a gang of this device alone starts at no tick without time lock, that an offer needs no
time lock and one which cannot be accepted leaves nothing (log entry 42); that every cluster's acknowledgement arms it (log entry 37); that a tick
does not wait for its gang, and that its header must be in reach (log entry 38). -/
def Obligations.GangEvents : Prop :=
  ∀ s : State,
    (∀ lid peer l, s.ev = .two lid peer → s.launch? lid = some l → l.gangState = 1 → peer < 16 → peer ∈ l.peers → peer ∉ l.acks →
      s.dev.ns + l.gmarg < l.gtick →
      ∃ t l2, exec .gangAcknowledge s = .next t ∧ t.launch? lid = some l2 ∧ (∀ p, p ∈ l2.acks ↔ p = peer ∨ p ∈ l.acks) ∧ l2.cacks = l.cacks ∧
        (((∀ p ∈ l.peers, p = peer ∨ p ∈ l.acks) ∧ (∀ c ∈ l.clm, c ∈ l.cacks)) → l2.gangState = 2) ∧
        (¬ ((∀ p ∈ l.peers, p = peer ∨ p ∈ l.acks) ∧ (∀ c ∈ l.clm, c ∈ l.cacks)) → l2.gangState = 1) ∧ t.mem = s.mem) ∧
    (∀ lid c l, s.ev = .two lid (16 + c) → s.launch? lid = some l → l.gangState = 1 → c ∈ l.clm → c ∉ l.cacks → s.dev.ns + l.gmarg < l.gtick →
      (s.clusterPlace l c = false → exec .gangAcknowledge s = .fault (.notEnabled "GANG_ACKNOWLEDGE")) ∧
      (s.clusterPlace l c = true →
        ∃ t l2, exec .gangAcknowledge s = .next t ∧ t.launch? lid = some l2 ∧ (∀ p, p ∈ l2.cacks ↔ p = c ∨ p ∈ l.cacks) ∧ l2.acks = l.acks ∧
          (((∀ p ∈ l.peers, p ∈ l.acks) ∧ (∀ k ∈ l.clm, k = c ∨ k ∈ l.cacks)) → l2.gangState = 2) ∧
          (¬ ((∀ p ∈ l.peers, p ∈ l.acks) ∧ (∀ k ∈ l.clm, k = c ∨ k ∈ l.cacks)) → l2.gangState = 1) ∧ t.mem = s.mem)) ∧
    (∀ lid l, s.ev = .one lid → s.launch? lid = some l →
      (((s.gangHere l = false ∧ l.gangState = 2 ∧ l.gtick ≤ s.dev.ns) ∨
        (s.gangHere l = true ∧ (l.gangState = 1 ∨ l.gangState = 2) ∧ s.allPlace l = true)) →
        ∃ t l2, exec .gangStart s = .next t ∧ t.launch? lid = some l2 ∧ l2.gangState = 3 ∧
          l2.code = (if l.count = 0 then 1 else l.code) ∧ t.mem = s.mem) ∧
      (((l.gangState = 1 ∧ l.gtick ≤ s.dev.ns + l.gmarg ∧ s.gangHere l = false) ∨ (l.gangState = 2 ∧ s.dev.ns < l.gtick)) →
        ∃ t l2, exec .gangCancelBeforeTick s = .next t ∧ t.launch? lid = some l2 ∧ l2.gangState = 4 ∧ l2.code = 6 ∧ l2.written = false ∧
          l2.storage = 0 ∧ t.mem = s.mem) ∧
      (l.gangState = 3 → l.code = 0 →
        ∃ t l2, exec .gangCancelAfterTick s = .next t ∧ t.launch? lid = some l2 ∧ l2.gangState = 5 ∧ l2.code = 7 ∧
          (∀ g ∈ s.launchCores lid, (t.core g).stopped = true) ∧ t.mem = s.mem)) ∧
    (∀ o, s.ev = .offer o → ((∃ p ∈ o.peer :: o.others, (s.peer p).valid = false ∨ (s.peer p).part ≠ o.part) ∨ ¬ (o.peer :: o.others).Nodup) →
      exec .gangOffer s = .fault (.notEnabled "GANG_OFFER")) ∧
    (∀ o, s.ev = .offer o → (∀ p ∈ o.peer :: o.others, (s.peer p).valid = true ∧ (s.peer p).part = o.part) → (o.peer :: o.others).Nodup →
      let d := { descOf o.bytes o.tags with gset := 0 }
      let clm := clmOf s o.part d.clmBits
      let bad := d.gang = false ∨ d.dom = 0xFFF ∨ descBad s o.part o.bytes d true = true ∨ launchCode s o.part d clm ≠ 0
      (bad → exec .gangOffer s = .next s) ∧
      (¬ bad → ∃ t l, exec .gangOffer s = .next t ∧ l ∈ t.dev.launches ∧ l.gang = true ∧ l.gangState = 1 ∧ l.peers = o.peer :: o.others ∧
        l.acks = o.peer :: o.others ∧ l.cacks = [] ∧
        l.gtick = d.gtick ∧ l.clm = clm ∧
        l.stages = d.stages ∧ l.count = d.count ∧ (∀ x ∈ s.dev.launches, x.holds = true → x.lid ≠ l.lid) ∧ t.mem = s.mem)) ∧
    (s.dev.fallback = true → s.dev.reports < s.dev.cyc / 64 →
      ∃ t, exec .fallbackReport s = .next t ∧ t.dev.reports = s.dev.cyc / 64 ∧ t.mem = s.mem ∧
        ∀ cl, cl < 8 → (t.cluster cl).freeBanks = (s.cluster cl).freeCount ∧
          ∀ g, g ∈ (t.cluster cl).freeCores ↔ ∃ i, i < 256 ∧ g = gidOf cl i ∧ s.coreIdle g = true) ∧
    (∀ cl i, s.ev = .two cl i → ∀ w, w = (s.cluster cl).win i → w.active = true → w.tickOf w.nexts ≤ s.dev.ns →
      ∀ ask u, ask = s.devGet true (s.slotLines w w.nexts) → u = s.slotTrace w w.nexts →
      (∀ l st q, s.launch? w.lid = some l → l.stages[w.stage]? = some st → (s.cluster cl).queue? w.lid w.stage = some q →
        q.fill < st.qdep → (s.cluster cl).roomFor l w.stage = false → exec .timeWindowTick s = .fault (.notEnabled "TIME_WINDOW_TICK")) ∧
      (s.launch? w.lid = none → (ask = .no → exec .timeWindowTick s = .fault (.notEnabled "TIME_WINDOW_TICK")) ∧
        (∀ x, ask = .wait x → exec .timeWindowTick s = .next x)) ∧
      (ask = .go s → s.ecc = [] → (u.slotWord w w.nexts 1).getLsbD 1 = false →
      (s.launch? w.lid = none →
        ∃ t, exec .timeWindowTick s = .next t ∧ ((t.cluster cl).win i).word 7 = w.word 7 + 1 ∧
          (((t.cluster cl).win i).word 6).extractLsb' 32 32 = (w.word 6).extractLsb' 32 32 + 1 ∧
          (((t.cluster cl).win i).word 6).extractLsb' 0 32 = (w.word 6).extractLsb' 0 32 ∧ t.mem = s.mem) ∧
      (∀ l st q, s.launch? w.lid = some l → l.stages[w.stage]? = some st → (s.cluster cl).queue? w.lid w.stage = some q →
        (st.qdep ≤ q.fill → ∃ t, exec .timeWindowTick s = .next t ∧ ((t.cluster cl).win i).word 7 = w.word 7 + 1 ∧
          (((t.cluster cl).win i).word 6).extractLsb' 32 32 = (w.word 6).extractLsb' 32 32 + 1 ∧
          (t.cluster cl).queue? w.lid w.stage = some q ∧ t.mem = s.mem) ∧
        (q.fill < st.qdep → (s.cluster cl).roomFor l w.stage = true →
          ∃ t late, exec .timeWindowTick s = .next t ∧ ((t.cluster cl).win i).word 7 = w.word 7 + 1 ∧
            ((t.cluster cl).win i).word 6 = w.word 6 ∧
            (t.cluster cl).queue? w.lid w.stage = some { q with items := insBy (fun i => i.ord) ⟨s.enqOrd 256,
              widPut l.widths l.wbase 0 w.nexts, List.replicate st.rsz 0, late, []⟩ q.items } ∧
            (late = true ↔ u.slotWord w w.nexts 0 = w.word 7 ∧ (u.slotWord w w.nexts 1).getLsbD 0 = true) ∧ t.mem = s.mem))))

/-! ## The edges of the device (R107, R110, R137, R202, R413-R416, R420-R423, R427-R435) -/

/-- Links, frames and time. A link's write within one line in its reach is performed at its home once the link's earlier writes have delivered their
invalidations; a format window refuses it and counts; a read changes no byte. The host reaches the DRAM region and its own memory alone, and no link a
scratch bank. The mailbox takes request bytes, and GO hands the request over. A retry counts; a lost lane stays lost, and a port without lanes is not
ready. A frame that no window of its port's partition takes counts a drop, and a record in time is appended to its slot. A grandmaster is locked;
sixteen good Syncs one after the other lock, one beyond 500 ns or a timeout unlocks, and without lock the base-die distributor binds; the first lock
takes the master's time, and no later Sync moves the time. The model's choices: that the first Sync locks a grandmaster, and that the loss of lock
and a missed Sync come from outside (log entry 47); that an access over a link comes one line at a time, once its memory can be reached (log entry
49). -/
def Obligations.LinkTimeEvents : Prop :=
  ∀ s : State,
    (∀ l pa0 data, s.ev = .write l (.mem pa0) data →
      ((s.linkMay l pa0 data.length = false ∨ ∃ r ∈ s.recs, r.gid = linkPos l ∧ s.anyInFlight r.wid = true) →
        exec .linkWrite s = .fault (.notEnabled "LINK_WRITE")) ∧
      (s.linkMay l pa0 data.length = true → (∀ r ∈ s.recs, r.gid = linkPos l → s.anyInFlight r.wid = false) → ∀ pa, pa = fwdAddr s pa0 →
        ((windowOf s pa).isSome = true → ∃ t, exec .linkWrite s = .next t ∧ t.mem = s.mem ∧ t.tags = s.tags ∧
          t.counter 9 0 = min (2 ^ 32 - 1) (s.counter 9 0 + 1)) ∧
        (windowOf s pa = none → reservedPA s none true pa = true → ∃ t, exec .linkWrite s = .next t ∧ t.mem = s.mem ∧ t.tags = s.tags) ∧
        (windowOf s pa = none → reservedPA s none true pa = false → ∃ t, exec .linkWrite s = .next t ∧
          (∀ i, i < data.length → t.byte (pa + i) = data.getD i 0) ∧ (∀ y, (y < pa ∨ pa + data.length ≤ y) → t.byte y = s.byte y)))) ∧
    (∀ off data, s.ev = .write .host (.bar0 off) data → s.linkUp .host = true →
      (off + data.length ≤ 64 → ∃ t, exec .linkWrite s = .next t ∧ t.mem = s.mem ∧ t.dev.go = s.dev.go ∧ t.dev.ubq = s.dev.ubq ∧
        ∀ i, i < 64 → t.dev.mboxReq.getD i 0 = if off ≤ i ∧ i < off + data.length then data.getD (i - off) 0 else s.dev.mboxReq.getD i 0) ∧
      (off = 0x80 → data.length = 8 → ofBytes data = 1 → s.dev.go = false → ∃ t, exec .linkWrite s = .next t ∧ t.dev.go = true ∧
        t.dev.ubq = s.dev.ubq ++ [⟨padTo 0 64 s.dev.mboxReq, none, .hypervisor, 0, 0⟩] ∧ t.mem = s.mem)) ∧
    (∀ l pa0 n, s.ev = .read l (.mem pa0) n →
      ((s.linkMay l pa0 n = false ∨ s.missRoom (fwdAddr s pa0) = false) → exec .linkRead s = .fault (.notEnabled "LINK_READ")) ∧
      (s.linkMay l pa0 n = true → s.missRoom (fwdAddr s pa0) = true → s.ecc = [] →
        ∃ t, exec .linkRead s = .next t ∧ t.mem = s.mem ∧ t.tags = s.tags ∧ t.poison = s.poison)) ∧
    (∀ l pa n, (s.linkMay .host pa n = true → memTop s < pa + n → hostBase ≤ pa ∧ pa + n ≤ hostEnd) ∧
      (s.linkMay l pa n = true → pa + n ≤ scratchBase)) ∧
    (∀ n, s.ev = .one n → n < 64 → s.laneLost n = false →
      (∃ t, exec .flitRetry s = .next t ∧ t.counter 6 n = min (2 ^ 32 - 1) (s.counter 6 n + 1) ∧ t.mem = s.mem) ∧
      (∃ t, exec .laneLoss s = .next t ∧ t.laneLost n = true ∧ (∀ m, m ≠ n → t.laneLost m = s.laneLost m) ∧ t.mem = s.mem ∧
        ((∀ m, m / 4 = n / 4 → m ≠ n → s.laneLost m = true) → t.ready (24 + n / 4) = false) ∧
        (t.lanesShort = true → (t.dev.repl).getLsbD 63 = true ∧ (t.dev.repl).getLsbD 10 = true))) ∧
    (∀ port f, s.ev = .frame port f → port < 16 → s.ready (24 + port) = true →
      let part := Sparse.look 0 s.dev.portPart port
      let fits : Nat → Nat → Prop := fun cl i => cl < 8 ∧ i < 4 ∧ (s.cluster cl).part = part ∧ ((s.cluster cl).win i).active = true ∧
        ((s.cluster cl).win i).hstr = f.hstr.toNat
      ((f.reserved = true ∨ f.payload = [] ∨ 4080 < f.payload.length ∨ ∀ cl i, ¬ fits cl i) →
        ∃ t, exec .heneriFrame s = .next t ∧ t.counter 11 port = min (2 ^ 32 - 1) (s.counter 11 port + 1) ∧ t.mem = s.mem ∧
          t.clusters = s.clusters) ∧
      (∀ cl i, f.reserved = false → f.payload ≠ [] → f.payload.length ≤ 4080 → fits cl i → (∀ c k, fits c k → c = cl ∧ k = i) →
        ∀ w, w = (s.cluster cl).win i → w.t0 ≤ f.ts.toNat → ∀ n, n = (f.ts.toNat - w.t0) / w.per → ∀ held, held = bits (s.slotWord w n 1) 63 32 →
        s.dev.migs = [] → n < w.nexts + w.horiz → s.dev.ns < w.tickOf n → (s.slotWord w n 0).toNat = n → bits (s.slotWord w n 1) 31 16 < 65535 →
        128 + held + (frameRecord f).length ≤ w.slsz → held + (frameRecord f).length < 2 ^ 32 →
        s.ecc = [] → ∀ ask, ask = s.devGet true ((s.recordLines cl i f).foldl natIns []) →
        (ask = .no → exec .heneriFrame s = .fault (.notEnabled "HENERI_FRAME")) ∧ (∀ u, ask = .wait u → exec .heneriFrame s = .next u) ∧
        (ask = .go s → (∀ k, k < w.slsz → reservedPA s none true (w.slotAt n + k) = false ∧ windowOf s (w.slotAt n + k) = none) →
          w.slotAt n % 128 = 0 → w.slotAt n + w.slsz ≤ scratchBase →
        ∃ t, exec .heneriFrame s = .next t ∧ (t.cluster cl).win i = w ∧
          (∀ k, k < (frameRecord f).length → t.byte (w.slotAt n + 128 + held + k) = (frameRecord f).getD k 0) ∧
          bits (t.word (w.slotAt n + 8)) 63 32 = held + (frameRecord f).length ∧
          bits (t.word (w.slotAt n + 8)) 31 16 = bits (s.slotWord w n 1) 31 16 + 1 ∧
          t.word (w.slotAt n) = s.word (w.slotAt n)))) ∧
    (∀ m, s.ev = .sync m → (m.grandmaster = true ∨ s.ready (24 + m.port % 16) = true) →
      let good := if m.offset.natAbs ≤ 50 then s.dev.syncGood + 1 else 0
      let locked := s.dev.dtst.getLsbD 63
      let step := ((locked = true ∧ m.offset.natAbs ≤ 500) ∨ 16 ≤ good) ∧ s.dev.dtst.getLsbD 60 = false
      ∃ t, exec .ptpSync s = .next t ∧ t.dev.cycl = s.dev.cycl ∧
        ((m.grandmaster = true ∨ ¬ step ∨ m.masterNs ≤ s.dev.ns) → t.mem = s.mem ∧ t.clusters = s.clusters) ∧
        (m.grandmaster = false → step → t.dev.ns = m.masterNs ∧ t.dev.dtst.getLsbD 60 = true) ∧
        (m.grandmaster = false → ¬ step → t.dev.ns = s.dev.ns ∧ t.dev.dtst.getLsbD 60 = s.dev.dtst.getLsbD 60) ∧
        (m.grandmaster = true → t.dev.dtst.getLsbD 63 = true ∧ bits t.dev.dtst 62 61 = 2 ∧ t.ready 48 = true ∧ t.dev.ns = s.dev.ns) ∧
        (m.grandmaster = false → bits t.dev.dtst 62 61 = 1 ∧ t.dev.syncGood = good ∧ bits t.dev.dtst 59 56 = m.port % 16 ∧
          (500 < m.offset.natAbs → t.dev.dtst.getLsbD 63 = false ∧ (locked = true → t.dev.fallback = true ∧ t.ready 48 = false)) ∧
          (16 ≤ good → t.dev.dtst.getLsbD 63 = true ∧ (locked = false → t.ready 48 = true)) ∧
          (50 < m.offset.natAbs → m.offset.natAbs ≤ 500 → t.dev.dtst.getLsbD 63 = locked))) ∧
    (s.dev.dtst.getLsbD 63 = true → bits s.dev.dtst 62 61 = 1 →
      ∃ t, exec .lockLossTimeout s = .next t ∧ t.dev.dtst.getLsbD 63 = false ∧ t.ready 48 = false ∧ t.dev.fallback = true ∧ t.dev.ns = s.dev.ns ∧
        t.mem = s.mem) ∧
    (∃ t, takeTurn s (.outside .syncMissed) = .next t ∧ t.dev.syncGood = 0 ∧ t.dev.dtst = s.dev.dtst ∧ t.dev.ns = s.dev.ns ∧ t.mem = s.mem)

/-- Health and bring-up. A bubble advances the cycle count and device time and nothing else; at most seven stand in a row, and a cycle in which
anything has moved is none. A thermal stop stops every compute core. The end of a health window in which no unit failed takes the failing banks out
of the pool at their next free, and the failing channels out of the device at the next bring-up. RESET puts the registers and tables at their reset
values; what it keeps are the channels found failing, which the next bring-up leaves out (R432). An image that the boot ROM refuses changes nothing.
A function that passes its test sets its readiness bit; the first stack fixes the memory map; a service core starts at hypervisor level in domain 0
at the image's entry, with the image's first range table entries in its cluster. The model's choices: a channel found failing stays so over resets,
and what a health window judges (log entry 45); when a function's bit is set, and what a bubble moves (log entry 47); what an image holds for a
service core (log entry 11). -/
def Obligations.DeviceEvents : Prop :=
  ∀ s : State,
    (∀ dt, s.ev = .one dt → s.dev.bubbleRun < 7 → s.dev.acted = false → ∃ t, exec .bubble s = .next t ∧ t.dev.cycl = s.dev.cycl + 1 ∧ t.dev.ns = s.dev.ns + dt ∧
      t.cores = s.cores ∧ t.clusters = s.clusters ∧ t.mem = s.mem ∧ t.flights = s.flights) ∧
    (∀ dt df, s.ev = .two dt df → s.dev.bubbleRun < 7 → s.dev.acted = false → ∃ t, exec .bubble s = .next t ∧
      t.dev.ns * 2 ^ 32 + t.dev.frac.toNat = (s.dev.ns + dt) * 2 ^ 32 + s.dev.frac.toNat + df) ∧
    ((7 ≤ s.dev.bubbleRun ∨ s.dev.acted = true) → exec .bubble s = .fault (.notEnabled "BUBBLE")) ∧
    (s.dev.thermal = false → ∃ t, exec .thermalStop s = .next t ∧ t.dev.thermal = true ∧ (∀ g, g < 2048 → (t.core g).stopped = true) ∧
      (∀ g, 2048 ≤ g → t.core g = s.core g) ∧ t.mem = s.mem) ∧
    (s.dev.healthWindows < s.dev.cycl.toNat / 2 ^ 30 →
      s.dev.quiesce = [] → (∀ u, u < 128 → (s.judge 0 (some 1) u).2 = false) → (∀ u, u < 64 → (s.judge 6 none u).2 = false) →
      ∃ t, exec .healthWindowEnd s = .next t ∧ t.dev.healthWindows = s.dev.healthWindows + 1 ∧ t.mem = s.mem ∧ t.dev.repl = s.dev.repl ∧
        (∀ cl b, cl < 8 → b < 2048 → (b ∈ (t.cluster cl).failing ↔
          b ∈ (s.cluster cl).failing ∨ (s.judge 16 (some 20) (2048 * cl + b)).2 = true)) ∧
        (∀ c, c < 256 → (c ∈ t.dev.badChans ↔ c ∈ s.dev.badChans ∨ (s.judge 4 (some 5) c).2 = true))) ∧
    (∃ t, exec .reset s = .next t ∧ t.cores = State.reset.cores ∧ t.clusters = State.reset.clusters ∧
      t.dev = { State.reset.dev with badChans := s.dev.badChans } ∧
      t.dir = State.reset.dir ∧ t.invals = [] ∧ t.flights = [] ∧ t.arrivals = [] ∧ (∀ y, scratchBase ≤ y → t.byte y = 0)) ∧
    (∀ i, s.ev = .firmware i →
      let ok := Config.sm2Verify i = true ∧ Config.fusedMinVersion ≤ i.version ∧ i.reservedSet = false
      (ok → ∃ t, exec .firmwareLoad s = .next t ∧ t.dev.fw = some i ∧ t.dev.fwLoaded = s.dev.fwLoaded ++ [i.payload] ∧ t.cores = s.cores ∧
        t.mem = s.mem) ∧
      (¬ ok → exec .firmwareLoad s = .next s)) ∧
    (∀ f i, s.ev = .func f →
      ((∃ c, c < 8 ∧ ((f = .cluster c ∧ i = 8 + c) ∨ (f = .draw c ∧ i = 50 + c) ∨ ∃ b n, f = .tier c b n ∧ i = 40 + c)) ∨ (f = .host ∧ i = 49) ∨
        (∃ p l, p < 16 ∧ l < 4 ∧ f = .link p ∧ i = 24 + p ∧ s.laneLost (4 * p + l) = false)) → s.ready i = false →
      ∃ t, exec .functionReady s = .next t ∧ t.ready i = true ∧ (∀ k, k < 64 → k ≠ i → t.ready k = s.ready k) ∧ t.cores = s.cores ∧ t.mem = s.mem) ∧
    (∀ k avail m, s.ev = .func (.dram k avail) → k < 8 → s.ready k = false → 
      m = ((List.range 256).filter (fun c => avail.contains c && !s.dev.badChans.contains c)).length →
      0 < m → ∃ t, exec .functionReady s = .next t ∧ t.ready k = true ∧ t.mem = s.mem ∧
        (bits s.dev.rdy 7 0 = 0 → t.dev.memmap = BitVec.ofNat 64 (m * 2 ^ 55 + (m * 2 ^ 19 - 16384) * 4096)) ∧
        (bits s.dev.rdy 7 0 ≠ 0 → t.dev.memmap = s.dev.memmap)) ∧
    (∀ c i, s.ev = .func (.service c) → c < 8 → s.dev.fw = some i → (s.ctx ⟨svcOf c, 0⟩).live = false →
      ∀ ask, ask = s.devGet false (s.devLines i.svcBase i.payload.length) →
      (ask = .no → exec .functionReady s = .fault (.notEnabled "FUNCTION_READY")) ∧ (∀ u, ask = .wait u → exec .functionReady s = .next u) ∧
      (∀ u, ask = .go u → ∃ t, exec .functionReady s = .next t ∧ (t.ctx ⟨svcOf c, 0⟩).live = true ∧ (t.ctx ⟨svcOf c, 0⟩).level = .hypervisor ∧
        (t.ctx ⟨svcOf c, 0⟩).cdom = 0 ∧ (t.ctx ⟨svcOf c, 0⟩).At ⟨i.svcEntry, i.svcMeta, true⟩ ∧
        (∀ n e, n < 48 → i.rnge[n]? = some e → (t.cluster c).range n = ⟨e.getD 0 0, e.getD 1 0, e.getD 2 0⟩) ∧
        (∀ n, n < 256 → ∀ x, x < 13 → (t.ctx ⟨gidOf c n, x⟩).hyp.vec = i.handler &&& ~~~0x3F ∧ (t.ctx ⟨gidOf c n, x⟩).hyp.vem = i.handlerMeta))) ∧
    (s.dev.bringupDone = false → ∃ t, exec .bringupEnd s = .next t ∧ t.dev.bringupDone = true ∧ t.mem = s.mem ∧ t.cores = s.cores ∧
      ((∃ k, k < 8 ∧ s.ready k = false) → (t.dev.repl).getLsbD 63 = true ∧ (t.dev.repl).getLsbD 9 = true) ∧
      ((∀ k, k < 8 → s.ready k = true ∧ ∀ c, c < 32 → s.dev.avail.contains (32 * k + c) = true) → t.dev.repl = s.dev.repl))

/-! ## Requests to the Ubhal (R89, R104-R108, R113-R116, R187, R223, R224, R417, R418, R425, R427, R428) -/

/-- Every request at the head is answered once: with ST 1 below the level of its operation, with ST 2 with a reserved bit of its head or an
operation that does not exist, and otherwise with what it did. Table writes put the entry that the words name; a home range or window moves
once its lines are quiesced and flushed, step by step, and then lets go what was held; a window with a field out of range is written with V
clear; a Rake stop stops the cores that it names, a release lets them go; a queue pool that overlaps another's is refused; a status read
returns its word; a report too large for its buffer answers ST 3. The model's choices, of log entry 46: the order of the checks, the fields that a
refused window write stores, that a request waits at the head until it can be done, and a cluster's close as a step of its own. -/
def Obligations.UbhalRequests : Prop :=
  ∀ (s : State) (r : UbReq) (rest : List UbReq), s.dev.ubq = r :: rest →
    let replied : State → Nat → Word → Prop := fun t st res => t.dev.ubq = rest ∧
      (∀ g, r.from_ = some g → r.overLink = false → .msg g ⟨r.answer st res, true, 5, 0, 0⟩ ∈ t.flights) ∧
      (r.from_ = none → t.dev.mboxReply = r.answer st res ∧ t.dev.go = false)
    let w : Nat → Word := fun i => r.word i
    let put : Instr → Word → (State → Prop) → Prop := fun i res p => ∃ t, exec i s = .next t ∧ replied t 0 res ∧ t.mem = s.mem ∧ p t
    let moves : Instr → String → List Quiesce → Word → (State → Prop) → Prop := fun i name qs res p =>
      (s.dev.quiesce.all (fun q => qs.contains q) = false → exec i s = .fault (.notEnabled name)) ∧
      (s.dev.quiesce.all (fun q => qs.contains q) = true → s.flushed qs = false →
        (s.quiesceAll qs = none → exec i s = .fault (.notEnabled name)) ∧ (∀ u, s.quiesceAll qs = some u → exec i s = .next u)) ∧
      (s.dev.quiesce.all (fun q => qs.contains q) = true → s.flushed qs = true →
        put i res (fun t => t.dev.quiesce = [] ∧ (s.dev.held = [] → t.dev.held = []) ∧ p t))
    (∀ e ∈ ([(.writePeerTableEntry, 1, UbReq.hyper), (.writeCollectiveGroup, 2, UbReq.superZero), (.writeStorageHandle, 3, UbReq.hyper),
        (.writeHomeRangeEntry, 4, UbReq.hyper), (.writeFormatWindow, 5, UbReq.hyper), (.rakeStop, 6, UbReq.hyper),
        (.releaseStoppedCores, 7, UbReq.hyper), (.moveToPartition, 8, UbReq.hyper), (.setQueuePool, 9, UbReq.hyper),
        (.readStatus, 10, UbReq.super), (.attestationReport, 11, UbReq.any)] : List (Instr × Nat × (UbReq → Bool))),
      (r.op ≠ e.2.1 → ∃ n, exec e.1 s = .fault (.notEnabled n)) ∧
      (r.op = e.2.1 → e.2.2 r = false → exec e.1 s = .next (s.ubReply r 1 0) ∧ replied (s.ubReply r 1 0) 1 0) ∧
      (r.op = e.2.1 → e.2.2 r = true → r.headOk = false → exec e.1 s = .next (s.ubReply r 2 0) ∧ replied (s.ubReply r 2 0) 2 0)) ∧
    ((r.op = 0 ∨ 11 < r.op) → exec .unknownOpRequest s = .next (s.ubReply r 2 0)) ∧
    (r.headOk = true → r.level = .hypervisor →
      (r.op = 1 → (w 1).toNat < 16 → bits (w 2) 62 16 = 0 → bits (w 3) 63 48 = 0 → r.zeroFrom 4 = true →
        put .writePeerTableEntry 0 (fun t => t.peer (w 1).toNat = ⟨(w 2).getLsbD 63, (w 2).setWidth 16, (w 3).setWidth 48, r.partition⟩ ∧
          ∀ g, g ≠ (w 1).toNat → t.peer g = s.peer g)) ∧
      (r.op = 2 → (w 1).toNat < 256 → bits (w 2) 62 12 = 0 → bits (w 3) 63 52 = 0 → bits (w 3) 1 0 = 0 → r.zeroFrom 4 = true →
        put .writeCollectiveGroup 0 (fun t => Sparse.look Group.reset t.dev.groups (256 * r.partition + (w 1).toNat) =
          ⟨(w 2).getLsbD 63, bits (w 2) 11 0 + 1, (w 3).toNat⟩)) ∧
      (r.op = 3 → (w 1).toNat < 64 → bits (w 2) 61 3 = 0 → bits (w 3) 63 32 = 0 → r.zeroFrom 4 = true →
        put .writeStorageHandle 0 (fun t => Sparse.look Handle.reset t.dev.handles (64 * r.partition + (w 1).toNat) =
          ⟨(w 2).getLsbD 63, (w 2).getLsbD 62, bits (w 2) 2 0, (w 3).toNat⟩)) ∧
      (r.op = 4 → (w 1).toNat < 16 → bits (w 2) 62 55 = 0 → bits (w 2) 29 0 = 0 → bits (w 3) 63 52 = 0 → bits (w 3) 29 0 = 0 →
        r.zeroFrom 4 = true → ∀ qs, qs = (rangeLines (s.hrng (w 1).toNat) ++ rangeLines ⟨w 2, w 3, 0⟩).flatMap (fun x => quiesceRange x.1 x.2) →
        moves .writeHomeRangeEntry "WRITE_HOME_RANGE_ENTRY" qs 0 (fun t => t.hrng (w 1).toNat = ⟨w 2, w 3, 0⟩ ∧
          ∀ i, i ≠ (w 1).toNat → t.hrng i = s.hrng i)) ∧
      (r.op = 5 → (w 1).toNat < 16 → r.zeroFrom 5 = true →
        let v := (w 2).getLsbD 63 && !windowRefused s ⟨w 2, w 3, w 4⟩
        ∀ qs, qs = (if (s.fwin (w 1).toNat).w0.getLsbD 63 = true then windowLines (s.fwin (w 1).toNat) else []) ++
          (if v = true then windowLines (windowWords ⟨w 2, w 3, w 4⟩ v) else []) →
        moves .writeFormatWindow "WRITE_FORMAT_WINDOW" qs (if v then 1 else 0) (fun t => (t.fwin (w 1).toNat).w0.getLsbD 63 = v ∧
          bits (t.fwin (w 1).toNat).w0 55 52 = bits (w 2) 55 52 ∧ bits (t.fwin (w 1).toNat).w0 51 12 = bits (w 2) 51 12 ∧
          bits (t.fwin (w 1).toNat).w0 3 0 = bits (w 2) 3 0 ∧ bits (t.fwin (w 1).toNat).w1 51 12 = bits (w 3) 51 12 ∧
          bits (t.fwin (w 1).toNat).w2 51 2 = bits (w 4) 51 2)) ∧
      (r.op = 6 → w 1 = 0 → r.zeroFrom 2 = true →
        put .rakeStop 0 (fun t => ∀ g, g < 2048 → ((s.cluster (gidCl g)).part = r.partition → (t.core g).stopped = true) ∧
          ((s.cluster (gidCl g)).part ≠ r.partition → (t.core g).stopped = (s.core g).stopped))) ∧
      (r.op = 7 → w 1 = 0 → r.zeroFrom 2 = true → (∃ g, g < 2048 ∧ (s.cluster (gidCl g)).part = r.partition ∧ (s.core g).stopped = true ∧
          ∃ m ∈ s.taskCores g, s.coreSpent m = false) → exec .releaseStoppedCores s = .fault (.notEnabled "RELEASE_STOPPED_CORES")) ∧
      (r.op = 7 → w 1 = 0 → r.zeroFrom 2 = true → (∀ g, s.slotsHeld g = false ∧ s.coreSpent g = true) → (∀ g k, (s.core g).task = some k → g ∈ k.members) →
        put .releaseStoppedCores 0 (fun t => ∀ g, g < 2048 → (s.cluster (gidCl g)).part = r.partition → (t.core g).stopped = false)) ∧
      (r.op = 8 → (w 1).getLsbD 63 = true → bits (w 1) 62 4 = 0 → r.zeroFrom 2 = true →
        put .moveToPartition 0 (fun t => Sparse.look 0 t.dev.portPart (bits (w 1) 3 0) = r.partition)) ∧
      (r.op = 8 → (w 1).toNat < 8 → r.zeroFrom 2 = true → ∀ k, k = s.cluster (w 1).toNat → k.part ≠ r.partition → k.closing = none →
        s.hasRanges (w 1).toNat = false →
        ∃ t, exec .moveToPartition s = .next t ∧ (t.cluster (w 1).toNat).closing = some r.partition ∧ t.dev.ubq = r :: rest ∧ t.mem = s.mem) ∧
      (r.op = 8 → (w 1).toNat < 8 → r.zeroFrom 2 = true → ∀ k, k = s.cluster (w 1).toNat → k.part ≠ r.partition → k.closing = some r.partition →
        s.hasRanges (w 1).toNat = false → s.drained (w 1).toNat = true → (∀ g, s.slotsHeld g = false) → s.dev.quiesce = [] →
        put .moveToPartition 0 (fun t => (t.cluster (w 1).toNat).part = r.partition ∧ (t.cluster (w 1).toNat).closing = none ∧
          ∀ g, g < 2048 → gidCl g = (w 1).toNat → ∀ n, ((t.core g).sem n).val = 0)) ∧
      (r.op = 8 → (w 1).toNat < 8 → r.zeroFrom 2 = true → ∀ k, k = s.cluster (w 1).toNat → k.part ≠ r.partition → s.hasRanges (w 1).toNat = true →
        (∀ c, c < 8 → c ≠ (w 1).toNat → (s.cluster c).part ≠ k.part) → exec .moveToPartition s = .next (s.ubReply r 4 0)) ∧
      (r.op = 9 → (w 2).toNat % 65536 = 0 → r.zeroFrom 3 = true →
        let clash := 0 < (w 2).toNat ∧ ∃ e ∈ s.dev.pools, e.1 ≠ r.partition ∧ e.2.size ≠ 0 ∧ e.2.base < (w 1).toNat + (w 2).toNat ∧ (w 1).toNat < e.2.base + e.2.size
        let busy := ∃ l ∈ s.dev.launches, l.part = r.partition ∧ l.storage ≠ 0
        ((memTop s < (w 1).toNat + (w 2).toNat ∨ clash) → exec .setQueuePool s = .next (s.ubReply r 2 0)) ∧
        ((w 1).toNat + (w 2).toNat ≤ memTop s → ¬ clash → busy → exec .setQueuePool s = .next (s.ubReply r 4 0)) ∧
        ((w 1).toNat + (w 2).toNat ≤ memTop s → ¬ clash → ¬ busy →
          put .setQueuePool 0 (fun t => Sparse.look Pool.reset t.dev.pools r.partition = ⟨(w 1).toNat, (w 2).toNat, 0⟩))) ∧
      (r.op = 10 → r.zeroFrom 3 = true → bits (w 2) 63 16 = 0 →
        (w 2 = 0 → (w 1 = 0 → exec .readStatus s = .next (s.ubReply r 0 s.dev.rdy)) ∧
          (w 1 = 1 → exec .readStatus s = .next (s.ubReply r 0 s.dev.repl)) ∧ (w 1 = 2 → exec .readStatus s = .next (s.ubReply r 0 s.dev.dtst))) ∧
        (w 1 = 3 → bits (w 2) 11 0 < counterUnits (bits (w 2) 15 12) →
          exec .readStatus s = .next (s.ubReply r 0 (BitVec.ofNat 64 (s.counter (bits (w 2) 15 12) (bits (w 2) 11 0))))))) ∧
    (r.op = 11 → r.headOk = true → bits (w 5) 63 52 = 0 → r.zeroFrom 7 = true →
      let bs := Config.attestReport ((r.bytes.drop 8).take 32) s.dev.ns s.locked (s.dev.fwLoaded.map sm3)
      (r.overLink = true → exec .attestationReport s = .next (s.ubReply r 0 (BitVec.ofNat 64 bs.length))) ∧
      (r.overLink = false → (w 6).toNat < bs.length → exec .attestationReport s = .next (s.ubReply r 3 0)) ∧
      (r.overLink = false → bs.length ≤ (w 6).toNat → ∀ ask, ask = s.devGet false (s.devLines (w 5).toNat bs.length) →
        (ask = .no → ∃ n, exec .attestationReport s = .fault (.notEnabled n)) ∧ (∀ u, ask = .wait u → exec .attestationReport s = .next u) ∧
        (∀ u, ask = .go u → ∃ t, exec .attestationReport s = .next t ∧ replied t 0 (BitVec.ofNat 64 bs.length) ∧
        (s.dev.migs = [] → (w 5).toNat + bs.length ≤ scratchBase → (∀ k, k < bs.length → reservedPA s none true ((w 5).toNat + k) = false) →
          (∀ k, k < bs.length → t.byte ((w 5).toNat + k) = bs.getD k 0) ∧
          ∀ y, (y < (w 5).toNat ∨ (w 5).toNat + bs.length ≤ y) → t.byte y = s.byte y))))
end

