-- ==== Sys2Proof/Laws/Encode.lean ====
section
/-! SUPPORT. Reading back the fields of an assembled word (R236), and the operand numbers (R239): the lemmas a proof
about the encoder and the decoder cites. -/

namespace Sys2Proof

/-- A field of a concatenation that lies in its low part. -/
theorem extract_append_lo {n m s l : Nat} (x : BitVec n) (y : BitVec m) (h : s + l ≤ m) :
    (x ++ y).extractLsb' s l = y.extractLsb' s l := by
  ext i hi
  simp only [BitVec.getElem_extractLsb', BitVec.getLsbD_append]
  rw [if_pos (by omega)]

/-- A field of a concatenation that lies in its high part. -/
theorem extract_append_hi {n m s l : Nat} (x : BitVec n) (y : BitVec m) (h : m ≤ s) :
    (x ++ y).extractLsb' s l = x.extractLsb' (s - m) l := by
  ext i hi
  simp only [BitVec.getElem_extractLsb', BitVec.getLsbD_append]
  rw [if_neg (by omega)]
  congr 1
  omega

theorem getLsbD_append_lo {n m s : Nat} (x : BitVec n) (y : BitVec m) (h : s < m) :
    (x ++ y).getLsbD s = y.getLsbD s := by
  simp [BitVec.getLsbD_append, h]

theorem getLsbD_append_hi {n m s : Nat} (x : BitVec n) (y : BitVec m) (h : m ≤ s) :
    (x ++ y).getLsbD s = x.getLsbD (s - m) := by
  rw [BitVec.getLsbD_append, if_neg (by omega)]

theorem extract_self {n : Nat} (x : BitVec n) : x.extractLsb' 0 n = x := by
  simp

theorem fX_asm (op h d a b x) : fX (asm op h d a b x) = x := by
  simp only [fX, asm]
  rw [extract_append_lo _ _ (by omega), extract_self]

theorem fB_asm (op h d a b x) : fB (asm op h d a b x) = b := by
  simp only [fB, asm]
  repeat rw [extract_append_hi _ _ (by omega)]
  rw [extract_append_lo _ _ (by omega), extract_self]

theorem fA_asm (op h d a b x) : fA (asm op h d a b x) = a := by
  simp only [fA, asm]
  repeat rw [extract_append_hi _ _ (by omega)]
  rw [extract_append_lo _ _ (by omega), extract_self]

theorem fD_asm (op h d a b x) : fD (asm op h d a b x) = d := by
  simp only [fD, asm]
  repeat rw [extract_append_hi _ _ (by omega)]
  rw [extract_append_lo _ _ (by omega), extract_self]

theorem fOp_asm (op h d a b x) : fOp (asm op h d a b x) = op := by
  simp only [fOp, asm]
  repeat rw [extract_append_hi _ _ (by omega)]
  rw [extract_self]

theorem fHdr_asm (op h d a b x) : fHdr (asm op h d a b x) = h := by
  cases h
  simp only [fHdr, asm, Hdr.mk.injEq]
  refine ⟨?_, ?_, ?_, ?_, ?_, ?_, ?_, ?_, ?_⟩
  all_goals
    repeat first
      | rw [extract_append_hi _ _ (by omega)]
      | rw [extract_append_lo _ _ (by omega)]
      | rw [getLsbD_append_hi _ _ (by omega)]
      | rw [getLsbD_append_lo _ _ (by omega)]
    simp

theorem decOperand_encOperand (o : Operand) : decOperand (encOperand o) = some o := by
  cases o <;> rename_i n <;> revert n <;> decide

end Sys2Proof
end

