-- ==== Sys2Proof/Laws/State.lean ====
section
/-! SUPPORT. What each update of the state leaves alone, one lemma for each field, and what reading a part gives after a write
of it. -/

namespace Sys2Proof.Machine

open Sys2Proof

/-! ## Updates of the machine, field by field -/

@[simp] theorem State.setCore_clusters (s : State) (g : Nat) (c : Core) : (s.setCore g c).clusters = s.clusters := rfl
@[simp] theorem State.setCore_mem (s : State) (g : Nat) (c : Core) : (s.setCore g c).mem = s.mem := rfl
@[simp] theorem State.setCore_tags (s : State) (g : Nat) (c : Core) : (s.setCore g c).tags = s.tags := rfl
@[simp] theorem State.setCore_poison (s : State) (g : Nat) (c : Core) : (s.setCore g c).poison = s.poison := rfl
@[simp] theorem State.setCore_storage (s : State) (g : Nat) (c : Core) : (s.setCore g c).storage = s.storage := rfl
@[simp] theorem State.setCore_dir (s : State) (g : Nat) (c : Core) : (s.setCore g c).dir = s.dir := rfl
@[simp] theorem State.setCore_dec (s : State) (g : Nat) (c : Core) : (s.setCore g c).dec = s.dec := rfl
@[simp] theorem State.setCore_writers (s : State) (g : Nat) (c : Core) : (s.setCore g c).writers = s.writers := rfl
@[simp] theorem State.setCore_recs (s : State) (g : Nat) (c : Core) : (s.setCore g c).recs = s.recs := rfl
@[simp] theorem State.setCore_invals (s : State) (g : Nat) (c : Core) : (s.setCore g c).invals = s.invals := rfl
@[simp] theorem State.setCore_lineVer (s : State) (g : Nat) (c : Core) : (s.setCore g c).lineVer = s.lineVer := rfl
@[simp] theorem State.setCore_byteVer (s : State) (g : Nat) (c : Core) : (s.setCore g c).byteVer = s.byteVer := rfl
@[simp] theorem State.setCore_now (s : State) (g : Nat) (c : Core) : (s.setCore g c).now = s.now := rfl
@[simp] theorem State.setCore_nextWid (s : State) (g : Nat) (c : Core) : (s.setCore g c).nextWid = s.nextWid := rfl
@[simp] theorem State.setCore_nextId (s : State) (g : Nat) (c : Core) : (s.setCore g c).nextId = s.nextId := rfl
@[simp] theorem State.setCore_nextOrd (s : State) (g : Nat) (c : Core) : (s.setCore g c).nextOrd = s.nextOrd := rfl
@[simp] theorem State.setCore_fresh (s : State) (g : Nat) (c : Core) : (s.setCore g c).fresh = s.fresh := rfl
@[simp] theorem State.setCore_dev (s : State) (g : Nat) (c : Core) : (s.setCore g c).dev = s.dev := rfl
@[simp] theorem State.setCore_arrivals (s : State) (g : Nat) (c : Core) : (s.setCore g c).arrivals = s.arrivals := rfl
@[simp] theorem State.setCore_flights (s : State) (g : Nat) (c : Core) : (s.setCore g c).flights = s.flights := rfl
@[simp] theorem State.setCore_agenda (s : State) (g : Nat) (c : Core) : (s.setCore g c).agenda = s.agenda := rfl
@[simp] theorem State.setCore_cur (s : State) (g : Nat) (c : Core) : (s.setCore g c).cur = s.cur := rfl
@[simp] theorem State.setCore_ev (s : State) (g : Nat) (c : Core) : (s.setCore g c).ev = s.ev := rfl
@[simp] theorem State.setCore_rr (s : State) (g : Nat) (c : Core) : (s.setCore g c).rr = s.rr := rfl
@[simp] theorem State.setCore_ecc (s : State) (g : Nat) (c : Core) : (s.setCore g c).ecc = s.ecc := rfl
@[simp] theorem State.setCore_remote (s : State) (g : Nat) (c : Core) : (s.setCore g c).remote = s.remote := rfl
@[simp] theorem State.setCore_far (s : State) (g : Nat) (c : Core) : (s.setCore g c).far = s.far := rfl
@[simp] theorem State.setCluster_cores (s : State) (c : Nat) (x : Cluster) : (s.setCluster c x).cores = s.cores := rfl
@[simp] theorem State.setCluster_mem (s : State) (c : Nat) (x : Cluster) : (s.setCluster c x).mem = s.mem := rfl
@[simp] theorem State.setCluster_tags (s : State) (c : Nat) (x : Cluster) : (s.setCluster c x).tags = s.tags := rfl
@[simp] theorem State.setCluster_poison (s : State) (c : Nat) (x : Cluster) : (s.setCluster c x).poison = s.poison := rfl
@[simp] theorem State.setCluster_storage (s : State) (c : Nat) (x : Cluster) : (s.setCluster c x).storage = s.storage := rfl
@[simp] theorem State.setCluster_dir (s : State) (c : Nat) (x : Cluster) : (s.setCluster c x).dir = s.dir := rfl
@[simp] theorem State.setCluster_dec (s : State) (c : Nat) (x : Cluster) : (s.setCluster c x).dec = s.dec := rfl
@[simp] theorem State.setCluster_writers (s : State) (c : Nat) (x : Cluster) : (s.setCluster c x).writers = s.writers := rfl
@[simp] theorem State.setCluster_recs (s : State) (c : Nat) (x : Cluster) : (s.setCluster c x).recs = s.recs := rfl
@[simp] theorem State.setCluster_invals (s : State) (c : Nat) (x : Cluster) : (s.setCluster c x).invals = s.invals := rfl
@[simp] theorem State.setCluster_lineVer (s : State) (c : Nat) (x : Cluster) : (s.setCluster c x).lineVer = s.lineVer := rfl
@[simp] theorem State.setCluster_byteVer (s : State) (c : Nat) (x : Cluster) : (s.setCluster c x).byteVer = s.byteVer := rfl
@[simp] theorem State.setCluster_now (s : State) (c : Nat) (x : Cluster) : (s.setCluster c x).now = s.now := rfl
@[simp] theorem State.setCluster_nextWid (s : State) (c : Nat) (x : Cluster) : (s.setCluster c x).nextWid = s.nextWid := rfl
@[simp] theorem State.setCluster_nextId (s : State) (c : Nat) (x : Cluster) : (s.setCluster c x).nextId = s.nextId := rfl
@[simp] theorem State.setCluster_nextOrd (s : State) (c : Nat) (x : Cluster) : (s.setCluster c x).nextOrd = s.nextOrd := rfl
@[simp] theorem State.setCluster_fresh (s : State) (c : Nat) (x : Cluster) : (s.setCluster c x).fresh = s.fresh := rfl
@[simp] theorem State.setCluster_dev (s : State) (c : Nat) (x : Cluster) : (s.setCluster c x).dev = s.dev := rfl
@[simp] theorem State.setCluster_arrivals (s : State) (c : Nat) (x : Cluster) : (s.setCluster c x).arrivals = s.arrivals := rfl
@[simp] theorem State.setCluster_flights (s : State) (c : Nat) (x : Cluster) : (s.setCluster c x).flights = s.flights := rfl
@[simp] theorem State.setCluster_agenda (s : State) (c : Nat) (x : Cluster) : (s.setCluster c x).agenda = s.agenda := rfl
@[simp] theorem State.setCluster_cur (s : State) (c : Nat) (x : Cluster) : (s.setCluster c x).cur = s.cur := rfl
@[simp] theorem State.setCluster_ev (s : State) (c : Nat) (x : Cluster) : (s.setCluster c x).ev = s.ev := rfl
@[simp] theorem State.setCluster_rr (s : State) (c : Nat) (x : Cluster) : (s.setCluster c x).rr = s.rr := rfl
@[simp] theorem State.setCluster_ecc (s : State) (c : Nat) (x : Cluster) : (s.setCluster c x).ecc = s.ecc := rfl
@[simp] theorem State.setCluster_remote (s : State) (c : Nat) (x : Cluster) : (s.setCluster c x).remote = s.remote := rfl
@[simp] theorem State.setCluster_far (s : State) (c : Nat) (x : Cluster) : (s.setCluster c x).far = s.far := rfl
@[simp] theorem State.updDev_cores (s : State) (f : Device → Device) : (s.updDev f).cores = s.cores := rfl
@[simp] theorem State.updDev_clusters (s : State) (f : Device → Device) : (s.updDev f).clusters = s.clusters := rfl
@[simp] theorem State.updDev_mem (s : State) (f : Device → Device) : (s.updDev f).mem = s.mem := rfl
@[simp] theorem State.updDev_tags (s : State) (f : Device → Device) : (s.updDev f).tags = s.tags := rfl
@[simp] theorem State.updDev_poison (s : State) (f : Device → Device) : (s.updDev f).poison = s.poison := rfl
@[simp] theorem State.updDev_storage (s : State) (f : Device → Device) : (s.updDev f).storage = s.storage := rfl
@[simp] theorem State.updDev_dir (s : State) (f : Device → Device) : (s.updDev f).dir = s.dir := rfl
@[simp] theorem State.updDev_dec (s : State) (f : Device → Device) : (s.updDev f).dec = s.dec := rfl
@[simp] theorem State.updDev_writers (s : State) (f : Device → Device) : (s.updDev f).writers = s.writers := rfl
@[simp] theorem State.updDev_recs (s : State) (f : Device → Device) : (s.updDev f).recs = s.recs := rfl
@[simp] theorem State.updDev_invals (s : State) (f : Device → Device) : (s.updDev f).invals = s.invals := rfl
@[simp] theorem State.updDev_lineVer (s : State) (f : Device → Device) : (s.updDev f).lineVer = s.lineVer := rfl
@[simp] theorem State.updDev_byteVer (s : State) (f : Device → Device) : (s.updDev f).byteVer = s.byteVer := rfl
@[simp] theorem State.updDev_now (s : State) (f : Device → Device) : (s.updDev f).now = s.now := rfl
@[simp] theorem State.updDev_nextWid (s : State) (f : Device → Device) : (s.updDev f).nextWid = s.nextWid := rfl
@[simp] theorem State.updDev_nextId (s : State) (f : Device → Device) : (s.updDev f).nextId = s.nextId := rfl
@[simp] theorem State.updDev_nextOrd (s : State) (f : Device → Device) : (s.updDev f).nextOrd = s.nextOrd := rfl
@[simp] theorem State.updDev_fresh (s : State) (f : Device → Device) : (s.updDev f).fresh = s.fresh := rfl
@[simp] theorem State.updDev_arrivals (s : State) (f : Device → Device) : (s.updDev f).arrivals = s.arrivals := rfl
@[simp] theorem State.updDev_flights (s : State) (f : Device → Device) : (s.updDev f).flights = s.flights := rfl
@[simp] theorem State.updDev_agenda (s : State) (f : Device → Device) : (s.updDev f).agenda = s.agenda := rfl
@[simp] theorem State.updDev_cur (s : State) (f : Device → Device) : (s.updDev f).cur = s.cur := rfl
@[simp] theorem State.updDev_ev (s : State) (f : Device → Device) : (s.updDev f).ev = s.ev := rfl
@[simp] theorem State.updDev_rr (s : State) (f : Device → Device) : (s.updDev f).rr = s.rr := rfl
@[simp] theorem State.updDev_ecc (s : State) (f : Device → Device) : (s.updDev f).ecc = s.ecc := rfl
@[simp] theorem State.updDev_remote (s : State) (f : Device → Device) : (s.updDev f).remote = s.remote := rfl
@[simp] theorem State.updDev_far (s : State) (f : Device → Device) : (s.updDev f).far = s.far := rfl
@[simp] theorem State.setByte_cores (s : State) (a : Nat) (b : Byte) : (s.setByte a b).cores = s.cores := rfl
@[simp] theorem State.setByte_clusters (s : State) (a : Nat) (b : Byte) : (s.setByte a b).clusters = s.clusters := rfl
@[simp] theorem State.setByte_tags (s : State) (a : Nat) (b : Byte) : (s.setByte a b).tags = s.tags := rfl
@[simp] theorem State.setByte_poison (s : State) (a : Nat) (b : Byte) : (s.setByte a b).poison = s.poison := rfl
@[simp] theorem State.setByte_storage (s : State) (a : Nat) (b : Byte) : (s.setByte a b).storage = s.storage := rfl
@[simp] theorem State.setByte_dir (s : State) (a : Nat) (b : Byte) : (s.setByte a b).dir = s.dir := rfl
@[simp] theorem State.setByte_dec (s : State) (a : Nat) (b : Byte) : (s.setByte a b).dec = s.dec := rfl
@[simp] theorem State.setByte_writers (s : State) (a : Nat) (b : Byte) : (s.setByte a b).writers = s.writers := rfl
@[simp] theorem State.setByte_recs (s : State) (a : Nat) (b : Byte) : (s.setByte a b).recs = s.recs := rfl
@[simp] theorem State.setByte_invals (s : State) (a : Nat) (b : Byte) : (s.setByte a b).invals = s.invals := rfl
@[simp] theorem State.setByte_lineVer (s : State) (a : Nat) (b : Byte) : (s.setByte a b).lineVer = s.lineVer := rfl
@[simp] theorem State.setByte_byteVer (s : State) (a : Nat) (b : Byte) : (s.setByte a b).byteVer = s.byteVer := rfl
@[simp] theorem State.setByte_now (s : State) (a : Nat) (b : Byte) : (s.setByte a b).now = s.now := rfl
@[simp] theorem State.setByte_nextWid (s : State) (a : Nat) (b : Byte) : (s.setByte a b).nextWid = s.nextWid := rfl
@[simp] theorem State.setByte_nextId (s : State) (a : Nat) (b : Byte) : (s.setByte a b).nextId = s.nextId := rfl
@[simp] theorem State.setByte_nextOrd (s : State) (a : Nat) (b : Byte) : (s.setByte a b).nextOrd = s.nextOrd := rfl
@[simp] theorem State.setByte_fresh (s : State) (a : Nat) (b : Byte) : (s.setByte a b).fresh = s.fresh := rfl
@[simp] theorem State.setByte_dev (s : State) (a : Nat) (b : Byte) : (s.setByte a b).dev = s.dev := rfl
@[simp] theorem State.setByte_arrivals (s : State) (a : Nat) (b : Byte) : (s.setByte a b).arrivals = s.arrivals := rfl
@[simp] theorem State.setByte_flights (s : State) (a : Nat) (b : Byte) : (s.setByte a b).flights = s.flights := rfl
@[simp] theorem State.setByte_agenda (s : State) (a : Nat) (b : Byte) : (s.setByte a b).agenda = s.agenda := rfl
@[simp] theorem State.setByte_cur (s : State) (a : Nat) (b : Byte) : (s.setByte a b).cur = s.cur := rfl
@[simp] theorem State.setByte_ev (s : State) (a : Nat) (b : Byte) : (s.setByte a b).ev = s.ev := rfl
@[simp] theorem State.setByte_rr (s : State) (a : Nat) (b : Byte) : (s.setByte a b).rr = s.rr := rfl
@[simp] theorem State.setByte_ecc (s : State) (a : Nat) (b : Byte) : (s.setByte a b).ecc = s.ecc := rfl
@[simp] theorem State.setByte_remote (s : State) (a : Nat) (b : Byte) : (s.setByte a b).remote = s.remote := rfl
@[simp] theorem State.setByte_far (s : State) (a : Nat) (b : Byte) : (s.setByte a b).far = s.far := rfl
@[simp] theorem State.setTag_cores (s : State) (a : Nat) (b : Bool) : (s.setTag a b).cores = s.cores := rfl
@[simp] theorem State.setTag_clusters (s : State) (a : Nat) (b : Bool) : (s.setTag a b).clusters = s.clusters := rfl
@[simp] theorem State.setTag_mem (s : State) (a : Nat) (b : Bool) : (s.setTag a b).mem = s.mem := rfl
@[simp] theorem State.setTag_poison (s : State) (a : Nat) (b : Bool) : (s.setTag a b).poison = s.poison := rfl
@[simp] theorem State.setTag_storage (s : State) (a : Nat) (b : Bool) : (s.setTag a b).storage = s.storage := rfl
@[simp] theorem State.setTag_dir (s : State) (a : Nat) (b : Bool) : (s.setTag a b).dir = s.dir := rfl
@[simp] theorem State.setTag_dec (s : State) (a : Nat) (b : Bool) : (s.setTag a b).dec = s.dec := rfl
@[simp] theorem State.setTag_writers (s : State) (a : Nat) (b : Bool) : (s.setTag a b).writers = s.writers := rfl
@[simp] theorem State.setTag_recs (s : State) (a : Nat) (b : Bool) : (s.setTag a b).recs = s.recs := rfl
@[simp] theorem State.setTag_invals (s : State) (a : Nat) (b : Bool) : (s.setTag a b).invals = s.invals := rfl
@[simp] theorem State.setTag_lineVer (s : State) (a : Nat) (b : Bool) : (s.setTag a b).lineVer = s.lineVer := rfl
@[simp] theorem State.setTag_byteVer (s : State) (a : Nat) (b : Bool) : (s.setTag a b).byteVer = s.byteVer := rfl
@[simp] theorem State.setTag_now (s : State) (a : Nat) (b : Bool) : (s.setTag a b).now = s.now := rfl
@[simp] theorem State.setTag_nextWid (s : State) (a : Nat) (b : Bool) : (s.setTag a b).nextWid = s.nextWid := rfl
@[simp] theorem State.setTag_nextId (s : State) (a : Nat) (b : Bool) : (s.setTag a b).nextId = s.nextId := rfl
@[simp] theorem State.setTag_nextOrd (s : State) (a : Nat) (b : Bool) : (s.setTag a b).nextOrd = s.nextOrd := rfl
@[simp] theorem State.setTag_fresh (s : State) (a : Nat) (b : Bool) : (s.setTag a b).fresh = s.fresh := rfl
@[simp] theorem State.setTag_dev (s : State) (a : Nat) (b : Bool) : (s.setTag a b).dev = s.dev := rfl
@[simp] theorem State.setTag_arrivals (s : State) (a : Nat) (b : Bool) : (s.setTag a b).arrivals = s.arrivals := rfl
@[simp] theorem State.setTag_flights (s : State) (a : Nat) (b : Bool) : (s.setTag a b).flights = s.flights := rfl
@[simp] theorem State.setTag_agenda (s : State) (a : Nat) (b : Bool) : (s.setTag a b).agenda = s.agenda := rfl
@[simp] theorem State.setTag_cur (s : State) (a : Nat) (b : Bool) : (s.setTag a b).cur = s.cur := rfl
@[simp] theorem State.setTag_ev (s : State) (a : Nat) (b : Bool) : (s.setTag a b).ev = s.ev := rfl
@[simp] theorem State.setTag_rr (s : State) (a : Nat) (b : Bool) : (s.setTag a b).rr = s.rr := rfl
@[simp] theorem State.setTag_ecc (s : State) (a : Nat) (b : Bool) : (s.setTag a b).ecc = s.ecc := rfl
@[simp] theorem State.setTag_remote (s : State) (a : Nat) (b : Bool) : (s.setTag a b).remote = s.remote := rfl
@[simp] theorem State.setTag_far (s : State) (a : Nat) (b : Bool) : (s.setTag a b).far = s.far := rfl
@[simp] theorem State.setPoison_cores (s : State) (a : Nat) (b : Bool) : (s.setPoison a b).cores = s.cores := rfl
@[simp] theorem State.setPoison_clusters (s : State) (a : Nat) (b : Bool) : (s.setPoison a b).clusters = s.clusters := rfl
@[simp] theorem State.setPoison_mem (s : State) (a : Nat) (b : Bool) : (s.setPoison a b).mem = s.mem := rfl
@[simp] theorem State.setPoison_tags (s : State) (a : Nat) (b : Bool) : (s.setPoison a b).tags = s.tags := rfl
@[simp] theorem State.setPoison_storage (s : State) (a : Nat) (b : Bool) : (s.setPoison a b).storage = s.storage := rfl
@[simp] theorem State.setPoison_dir (s : State) (a : Nat) (b : Bool) : (s.setPoison a b).dir = s.dir := rfl
@[simp] theorem State.setPoison_dec (s : State) (a : Nat) (b : Bool) : (s.setPoison a b).dec = s.dec := rfl
@[simp] theorem State.setPoison_writers (s : State) (a : Nat) (b : Bool) : (s.setPoison a b).writers = s.writers := rfl
@[simp] theorem State.setPoison_recs (s : State) (a : Nat) (b : Bool) : (s.setPoison a b).recs = s.recs := rfl
@[simp] theorem State.setPoison_invals (s : State) (a : Nat) (b : Bool) : (s.setPoison a b).invals = s.invals := rfl
@[simp] theorem State.setPoison_lineVer (s : State) (a : Nat) (b : Bool) : (s.setPoison a b).lineVer = s.lineVer := rfl
@[simp] theorem State.setPoison_byteVer (s : State) (a : Nat) (b : Bool) : (s.setPoison a b).byteVer = s.byteVer := rfl
@[simp] theorem State.setPoison_now (s : State) (a : Nat) (b : Bool) : (s.setPoison a b).now = s.now := rfl
@[simp] theorem State.setPoison_nextWid (s : State) (a : Nat) (b : Bool) : (s.setPoison a b).nextWid = s.nextWid := rfl
@[simp] theorem State.setPoison_nextId (s : State) (a : Nat) (b : Bool) : (s.setPoison a b).nextId = s.nextId := rfl
@[simp] theorem State.setPoison_nextOrd (s : State) (a : Nat) (b : Bool) : (s.setPoison a b).nextOrd = s.nextOrd := rfl
@[simp] theorem State.setPoison_fresh (s : State) (a : Nat) (b : Bool) : (s.setPoison a b).fresh = s.fresh := rfl
@[simp] theorem State.setPoison_dev (s : State) (a : Nat) (b : Bool) : (s.setPoison a b).dev = s.dev := rfl
@[simp] theorem State.setPoison_arrivals (s : State) (a : Nat) (b : Bool) : (s.setPoison a b).arrivals = s.arrivals := rfl
@[simp] theorem State.setPoison_flights (s : State) (a : Nat) (b : Bool) : (s.setPoison a b).flights = s.flights := rfl
@[simp] theorem State.setPoison_agenda (s : State) (a : Nat) (b : Bool) : (s.setPoison a b).agenda = s.agenda := rfl
@[simp] theorem State.setPoison_cur (s : State) (a : Nat) (b : Bool) : (s.setPoison a b).cur = s.cur := rfl
@[simp] theorem State.setPoison_ev (s : State) (a : Nat) (b : Bool) : (s.setPoison a b).ev = s.ev := rfl
@[simp] theorem State.setPoison_rr (s : State) (a : Nat) (b : Bool) : (s.setPoison a b).rr = s.rr := rfl
@[simp] theorem State.setPoison_ecc (s : State) (a : Nat) (b : Bool) : (s.setPoison a b).ecc = s.ecc := rfl
@[simp] theorem State.setPoison_remote (s : State) (a : Nat) (b : Bool) : (s.setPoison a b).remote = s.remote := rfl
@[simp] theorem State.setPoison_far (s : State) (a : Nat) (b : Bool) : (s.setPoison a b).far = s.far := rfl
@[simp] theorem State.setSharers_cores (s : State) (l : Nat) (p : List Nat) : (s.setSharers l p).cores = s.cores := rfl
@[simp] theorem State.setSharers_clusters (s : State) (l : Nat) (p : List Nat) : (s.setSharers l p).clusters = s.clusters := rfl
@[simp] theorem State.setSharers_mem (s : State) (l : Nat) (p : List Nat) : (s.setSharers l p).mem = s.mem := rfl
@[simp] theorem State.setSharers_tags (s : State) (l : Nat) (p : List Nat) : (s.setSharers l p).tags = s.tags := rfl
@[simp] theorem State.setSharers_poison (s : State) (l : Nat) (p : List Nat) : (s.setSharers l p).poison = s.poison := rfl
@[simp] theorem State.setSharers_storage (s : State) (l : Nat) (p : List Nat) : (s.setSharers l p).storage = s.storage := rfl
@[simp] theorem State.setSharers_dec (s : State) (l : Nat) (p : List Nat) : (s.setSharers l p).dec = s.dec := rfl
@[simp] theorem State.setSharers_writers (s : State) (l : Nat) (p : List Nat) : (s.setSharers l p).writers = s.writers := rfl
@[simp] theorem State.setSharers_recs (s : State) (l : Nat) (p : List Nat) : (s.setSharers l p).recs = s.recs := rfl
@[simp] theorem State.setSharers_invals (s : State) (l : Nat) (p : List Nat) : (s.setSharers l p).invals = s.invals := rfl
@[simp] theorem State.setSharers_lineVer (s : State) (l : Nat) (p : List Nat) : (s.setSharers l p).lineVer = s.lineVer := rfl
@[simp] theorem State.setSharers_byteVer (s : State) (l : Nat) (p : List Nat) : (s.setSharers l p).byteVer = s.byteVer := rfl
@[simp] theorem State.setSharers_now (s : State) (l : Nat) (p : List Nat) : (s.setSharers l p).now = s.now := rfl
@[simp] theorem State.setSharers_nextWid (s : State) (l : Nat) (p : List Nat) : (s.setSharers l p).nextWid = s.nextWid := rfl
@[simp] theorem State.setSharers_nextId (s : State) (l : Nat) (p : List Nat) : (s.setSharers l p).nextId = s.nextId := rfl
@[simp] theorem State.setSharers_nextOrd (s : State) (l : Nat) (p : List Nat) : (s.setSharers l p).nextOrd = s.nextOrd := rfl
@[simp] theorem State.setSharers_fresh (s : State) (l : Nat) (p : List Nat) : (s.setSharers l p).fresh = s.fresh := rfl
@[simp] theorem State.setSharers_dev (s : State) (l : Nat) (p : List Nat) : (s.setSharers l p).dev = s.dev := rfl
@[simp] theorem State.setSharers_arrivals (s : State) (l : Nat) (p : List Nat) : (s.setSharers l p).arrivals = s.arrivals := rfl
@[simp] theorem State.setSharers_flights (s : State) (l : Nat) (p : List Nat) : (s.setSharers l p).flights = s.flights := rfl
@[simp] theorem State.setSharers_agenda (s : State) (l : Nat) (p : List Nat) : (s.setSharers l p).agenda = s.agenda := rfl
@[simp] theorem State.setSharers_cur (s : State) (l : Nat) (p : List Nat) : (s.setSharers l p).cur = s.cur := rfl
@[simp] theorem State.setSharers_ev (s : State) (l : Nat) (p : List Nat) : (s.setSharers l p).ev = s.ev := rfl
@[simp] theorem State.setSharers_rr (s : State) (l : Nat) (p : List Nat) : (s.setSharers l p).rr = s.rr := rfl
@[simp] theorem State.setSharers_ecc (s : State) (l : Nat) (p : List Nat) : (s.setSharers l p).ecc = s.ecc := rfl
@[simp] theorem State.setSharers_remote (s : State) (l : Nat) (p : List Nat) : (s.setSharers l p).remote = s.remote := rfl
@[simp] theorem State.setSharers_far (s : State) (l : Nat) (p : List Nat) : (s.setSharers l p).far = s.far := rfl
@[simp] theorem State.tick_cores (s : State) : s.tick.cores = s.cores := rfl
@[simp] theorem State.tick_clusters (s : State) : s.tick.clusters = s.clusters := rfl
@[simp] theorem State.tick_mem (s : State) : s.tick.mem = s.mem := rfl
@[simp] theorem State.tick_tags (s : State) : s.tick.tags = s.tags := rfl
@[simp] theorem State.tick_poison (s : State) : s.tick.poison = s.poison := rfl
@[simp] theorem State.tick_storage (s : State) : s.tick.storage = s.storage := rfl
@[simp] theorem State.tick_dir (s : State) : s.tick.dir = s.dir := rfl
@[simp] theorem State.tick_dec (s : State) : s.tick.dec = s.dec := rfl
@[simp] theorem State.tick_writers (s : State) : s.tick.writers = s.writers := rfl
@[simp] theorem State.tick_recs (s : State) : s.tick.recs = s.recs := rfl
@[simp] theorem State.tick_invals (s : State) : s.tick.invals = s.invals := rfl
@[simp] theorem State.tick_lineVer (s : State) : s.tick.lineVer = s.lineVer := rfl
@[simp] theorem State.tick_byteVer (s : State) : s.tick.byteVer = s.byteVer := rfl
@[simp] theorem State.tick_nextWid (s : State) : s.tick.nextWid = s.nextWid := rfl
@[simp] theorem State.tick_nextId (s : State) : s.tick.nextId = s.nextId := rfl
@[simp] theorem State.tick_nextOrd (s : State) : s.tick.nextOrd = s.nextOrd := rfl
@[simp] theorem State.tick_fresh (s : State) : s.tick.fresh = s.fresh := rfl
@[simp] theorem State.tick_dev (s : State) : s.tick.dev = s.dev := rfl
@[simp] theorem State.tick_arrivals (s : State) : s.tick.arrivals = s.arrivals := rfl
@[simp] theorem State.tick_flights (s : State) : s.tick.flights = s.flights := rfl
@[simp] theorem State.tick_agenda (s : State) : s.tick.agenda = s.agenda := rfl
@[simp] theorem State.tick_cur (s : State) : s.tick.cur = s.cur := rfl
@[simp] theorem State.tick_ev (s : State) : s.tick.ev = s.ev := rfl
@[simp] theorem State.tick_rr (s : State) : s.tick.rr = s.rr := rfl
@[simp] theorem State.tick_ecc (s : State) : s.tick.ecc = s.ecc := rfl
@[simp] theorem State.tick_remote (s : State) : s.tick.remote = s.remote := rfl
@[simp] theorem State.tick_far (s : State) : s.tick.far = s.far := rfl
@[simp] theorem State.updCore_clusters (s : State) (g : Nat) (f : Core → Core) : (s.updCore g f).clusters = s.clusters := rfl
@[simp] theorem State.updCore_mem (s : State) (g : Nat) (f : Core → Core) : (s.updCore g f).mem = s.mem := rfl
@[simp] theorem State.updCore_tags (s : State) (g : Nat) (f : Core → Core) : (s.updCore g f).tags = s.tags := rfl
@[simp] theorem State.updCore_poison (s : State) (g : Nat) (f : Core → Core) : (s.updCore g f).poison = s.poison := rfl
@[simp] theorem State.updCore_storage (s : State) (g : Nat) (f : Core → Core) : (s.updCore g f).storage = s.storage := rfl
@[simp] theorem State.updCore_dir (s : State) (g : Nat) (f : Core → Core) : (s.updCore g f).dir = s.dir := rfl
@[simp] theorem State.updCore_dec (s : State) (g : Nat) (f : Core → Core) : (s.updCore g f).dec = s.dec := rfl
@[simp] theorem State.updCore_writers (s : State) (g : Nat) (f : Core → Core) : (s.updCore g f).writers = s.writers := rfl
@[simp] theorem State.updCore_recs (s : State) (g : Nat) (f : Core → Core) : (s.updCore g f).recs = s.recs := rfl
@[simp] theorem State.updCore_invals (s : State) (g : Nat) (f : Core → Core) : (s.updCore g f).invals = s.invals := rfl
@[simp] theorem State.updCore_lineVer (s : State) (g : Nat) (f : Core → Core) : (s.updCore g f).lineVer = s.lineVer := rfl
@[simp] theorem State.updCore_byteVer (s : State) (g : Nat) (f : Core → Core) : (s.updCore g f).byteVer = s.byteVer := rfl
@[simp] theorem State.updCore_now (s : State) (g : Nat) (f : Core → Core) : (s.updCore g f).now = s.now := rfl
@[simp] theorem State.updCore_nextWid (s : State) (g : Nat) (f : Core → Core) : (s.updCore g f).nextWid = s.nextWid := rfl
@[simp] theorem State.updCore_nextId (s : State) (g : Nat) (f : Core → Core) : (s.updCore g f).nextId = s.nextId := rfl
@[simp] theorem State.updCore_nextOrd (s : State) (g : Nat) (f : Core → Core) : (s.updCore g f).nextOrd = s.nextOrd := rfl
@[simp] theorem State.updCore_fresh (s : State) (g : Nat) (f : Core → Core) : (s.updCore g f).fresh = s.fresh := rfl
@[simp] theorem State.updCore_dev (s : State) (g : Nat) (f : Core → Core) : (s.updCore g f).dev = s.dev := rfl
@[simp] theorem State.updCore_arrivals (s : State) (g : Nat) (f : Core → Core) : (s.updCore g f).arrivals = s.arrivals := rfl
@[simp] theorem State.updCore_flights (s : State) (g : Nat) (f : Core → Core) : (s.updCore g f).flights = s.flights := rfl
@[simp] theorem State.updCore_agenda (s : State) (g : Nat) (f : Core → Core) : (s.updCore g f).agenda = s.agenda := rfl
@[simp] theorem State.updCore_cur (s : State) (g : Nat) (f : Core → Core) : (s.updCore g f).cur = s.cur := rfl
@[simp] theorem State.updCore_ev (s : State) (g : Nat) (f : Core → Core) : (s.updCore g f).ev = s.ev := rfl
@[simp] theorem State.updCore_rr (s : State) (g : Nat) (f : Core → Core) : (s.updCore g f).rr = s.rr := rfl
@[simp] theorem State.updCore_ecc (s : State) (g : Nat) (f : Core → Core) : (s.updCore g f).ecc = s.ecc := rfl
@[simp] theorem State.updCore_remote (s : State) (g : Nat) (f : Core → Core) : (s.updCore g f).remote = s.remote := rfl
@[simp] theorem State.updCore_far (s : State) (g : Nat) (f : Core → Core) : (s.updCore g f).far = s.far := rfl
@[simp] theorem State.setCtx_clusters (s : State) (a : Agent) (x : Ctx) : (s.setCtx a x).clusters = s.clusters := rfl
@[simp] theorem State.setCtx_mem (s : State) (a : Agent) (x : Ctx) : (s.setCtx a x).mem = s.mem := rfl
@[simp] theorem State.setCtx_tags (s : State) (a : Agent) (x : Ctx) : (s.setCtx a x).tags = s.tags := rfl
@[simp] theorem State.setCtx_poison (s : State) (a : Agent) (x : Ctx) : (s.setCtx a x).poison = s.poison := rfl
@[simp] theorem State.setCtx_storage (s : State) (a : Agent) (x : Ctx) : (s.setCtx a x).storage = s.storage := rfl
@[simp] theorem State.setCtx_dir (s : State) (a : Agent) (x : Ctx) : (s.setCtx a x).dir = s.dir := rfl
@[simp] theorem State.setCtx_dec (s : State) (a : Agent) (x : Ctx) : (s.setCtx a x).dec = s.dec := rfl
@[simp] theorem State.setCtx_writers (s : State) (a : Agent) (x : Ctx) : (s.setCtx a x).writers = s.writers := rfl
@[simp] theorem State.setCtx_recs (s : State) (a : Agent) (x : Ctx) : (s.setCtx a x).recs = s.recs := rfl
@[simp] theorem State.setCtx_invals (s : State) (a : Agent) (x : Ctx) : (s.setCtx a x).invals = s.invals := rfl
@[simp] theorem State.setCtx_lineVer (s : State) (a : Agent) (x : Ctx) : (s.setCtx a x).lineVer = s.lineVer := rfl
@[simp] theorem State.setCtx_byteVer (s : State) (a : Agent) (x : Ctx) : (s.setCtx a x).byteVer = s.byteVer := rfl
@[simp] theorem State.setCtx_now (s : State) (a : Agent) (x : Ctx) : (s.setCtx a x).now = s.now := rfl
@[simp] theorem State.setCtx_nextWid (s : State) (a : Agent) (x : Ctx) : (s.setCtx a x).nextWid = s.nextWid := rfl
@[simp] theorem State.setCtx_nextId (s : State) (a : Agent) (x : Ctx) : (s.setCtx a x).nextId = s.nextId := rfl
@[simp] theorem State.setCtx_nextOrd (s : State) (a : Agent) (x : Ctx) : (s.setCtx a x).nextOrd = s.nextOrd := rfl
@[simp] theorem State.setCtx_fresh (s : State) (a : Agent) (x : Ctx) : (s.setCtx a x).fresh = s.fresh := rfl
@[simp] theorem State.setCtx_dev (s : State) (a : Agent) (x : Ctx) : (s.setCtx a x).dev = s.dev := rfl
@[simp] theorem State.setCtx_arrivals (s : State) (a : Agent) (x : Ctx) : (s.setCtx a x).arrivals = s.arrivals := rfl
@[simp] theorem State.setCtx_flights (s : State) (a : Agent) (x : Ctx) : (s.setCtx a x).flights = s.flights := rfl
@[simp] theorem State.setCtx_agenda (s : State) (a : Agent) (x : Ctx) : (s.setCtx a x).agenda = s.agenda := rfl
@[simp] theorem State.setCtx_cur (s : State) (a : Agent) (x : Ctx) : (s.setCtx a x).cur = s.cur := rfl
@[simp] theorem State.setCtx_ev (s : State) (a : Agent) (x : Ctx) : (s.setCtx a x).ev = s.ev := rfl
@[simp] theorem State.setCtx_rr (s : State) (a : Agent) (x : Ctx) : (s.setCtx a x).rr = s.rr := rfl
@[simp] theorem State.setCtx_ecc (s : State) (a : Agent) (x : Ctx) : (s.setCtx a x).ecc = s.ecc := rfl
@[simp] theorem State.setCtx_remote (s : State) (a : Agent) (x : Ctx) : (s.setCtx a x).remote = s.remote := rfl
@[simp] theorem State.setCtx_far (s : State) (a : Agent) (x : Ctx) : (s.setCtx a x).far = s.far := rfl
@[simp] theorem State.updCtx_clusters (s : State) (a : Agent) (f : Ctx → Ctx) : (s.updCtx a f).clusters = s.clusters := rfl
@[simp] theorem State.updCtx_mem (s : State) (a : Agent) (f : Ctx → Ctx) : (s.updCtx a f).mem = s.mem := rfl
@[simp] theorem State.updCtx_tags (s : State) (a : Agent) (f : Ctx → Ctx) : (s.updCtx a f).tags = s.tags := rfl
@[simp] theorem State.updCtx_poison (s : State) (a : Agent) (f : Ctx → Ctx) : (s.updCtx a f).poison = s.poison := rfl
@[simp] theorem State.updCtx_storage (s : State) (a : Agent) (f : Ctx → Ctx) : (s.updCtx a f).storage = s.storage := rfl
@[simp] theorem State.updCtx_dir (s : State) (a : Agent) (f : Ctx → Ctx) : (s.updCtx a f).dir = s.dir := rfl
@[simp] theorem State.updCtx_dec (s : State) (a : Agent) (f : Ctx → Ctx) : (s.updCtx a f).dec = s.dec := rfl
@[simp] theorem State.updCtx_writers (s : State) (a : Agent) (f : Ctx → Ctx) : (s.updCtx a f).writers = s.writers := rfl
@[simp] theorem State.updCtx_recs (s : State) (a : Agent) (f : Ctx → Ctx) : (s.updCtx a f).recs = s.recs := rfl
@[simp] theorem State.updCtx_invals (s : State) (a : Agent) (f : Ctx → Ctx) : (s.updCtx a f).invals = s.invals := rfl
@[simp] theorem State.updCtx_lineVer (s : State) (a : Agent) (f : Ctx → Ctx) : (s.updCtx a f).lineVer = s.lineVer := rfl
@[simp] theorem State.updCtx_byteVer (s : State) (a : Agent) (f : Ctx → Ctx) : (s.updCtx a f).byteVer = s.byteVer := rfl
@[simp] theorem State.updCtx_now (s : State) (a : Agent) (f : Ctx → Ctx) : (s.updCtx a f).now = s.now := rfl
@[simp] theorem State.updCtx_nextWid (s : State) (a : Agent) (f : Ctx → Ctx) : (s.updCtx a f).nextWid = s.nextWid := rfl
@[simp] theorem State.updCtx_nextId (s : State) (a : Agent) (f : Ctx → Ctx) : (s.updCtx a f).nextId = s.nextId := rfl
@[simp] theorem State.updCtx_nextOrd (s : State) (a : Agent) (f : Ctx → Ctx) : (s.updCtx a f).nextOrd = s.nextOrd := rfl
@[simp] theorem State.updCtx_fresh (s : State) (a : Agent) (f : Ctx → Ctx) : (s.updCtx a f).fresh = s.fresh := rfl
@[simp] theorem State.updCtx_dev (s : State) (a : Agent) (f : Ctx → Ctx) : (s.updCtx a f).dev = s.dev := rfl
@[simp] theorem State.updCtx_arrivals (s : State) (a : Agent) (f : Ctx → Ctx) : (s.updCtx a f).arrivals = s.arrivals := rfl
@[simp] theorem State.updCtx_flights (s : State) (a : Agent) (f : Ctx → Ctx) : (s.updCtx a f).flights = s.flights := rfl
@[simp] theorem State.updCtx_agenda (s : State) (a : Agent) (f : Ctx → Ctx) : (s.updCtx a f).agenda = s.agenda := rfl
@[simp] theorem State.updCtx_cur (s : State) (a : Agent) (f : Ctx → Ctx) : (s.updCtx a f).cur = s.cur := rfl
@[simp] theorem State.updCtx_ev (s : State) (a : Agent) (f : Ctx → Ctx) : (s.updCtx a f).ev = s.ev := rfl
@[simp] theorem State.updCtx_rr (s : State) (a : Agent) (f : Ctx → Ctx) : (s.updCtx a f).rr = s.rr := rfl
@[simp] theorem State.updCtx_ecc (s : State) (a : Agent) (f : Ctx → Ctx) : (s.updCtx a f).ecc = s.ecc := rfl
@[simp] theorem State.updCtx_remote (s : State) (a : Agent) (f : Ctx → Ctx) : (s.updCtx a f).remote = s.remote := rfl
@[simp] theorem State.updCtx_far (s : State) (a : Agent) (f : Ctx → Ctx) : (s.updCtx a f).far = s.far := rfl
@[simp] theorem State.self_clusters (s : State) (f : Ctx → Ctx) : (s.self f).clusters = s.clusters := rfl
@[simp] theorem State.self_mem (s : State) (f : Ctx → Ctx) : (s.self f).mem = s.mem := rfl
@[simp] theorem State.self_tags (s : State) (f : Ctx → Ctx) : (s.self f).tags = s.tags := rfl
@[simp] theorem State.self_poison (s : State) (f : Ctx → Ctx) : (s.self f).poison = s.poison := rfl
@[simp] theorem State.self_storage (s : State) (f : Ctx → Ctx) : (s.self f).storage = s.storage := rfl
@[simp] theorem State.self_dir (s : State) (f : Ctx → Ctx) : (s.self f).dir = s.dir := rfl
@[simp] theorem State.self_dec (s : State) (f : Ctx → Ctx) : (s.self f).dec = s.dec := rfl
@[simp] theorem State.self_writers (s : State) (f : Ctx → Ctx) : (s.self f).writers = s.writers := rfl
@[simp] theorem State.self_recs (s : State) (f : Ctx → Ctx) : (s.self f).recs = s.recs := rfl
@[simp] theorem State.self_invals (s : State) (f : Ctx → Ctx) : (s.self f).invals = s.invals := rfl
@[simp] theorem State.self_lineVer (s : State) (f : Ctx → Ctx) : (s.self f).lineVer = s.lineVer := rfl
@[simp] theorem State.self_byteVer (s : State) (f : Ctx → Ctx) : (s.self f).byteVer = s.byteVer := rfl
@[simp] theorem State.self_now (s : State) (f : Ctx → Ctx) : (s.self f).now = s.now := rfl
@[simp] theorem State.self_nextWid (s : State) (f : Ctx → Ctx) : (s.self f).nextWid = s.nextWid := rfl
@[simp] theorem State.self_nextId (s : State) (f : Ctx → Ctx) : (s.self f).nextId = s.nextId := rfl
@[simp] theorem State.self_nextOrd (s : State) (f : Ctx → Ctx) : (s.self f).nextOrd = s.nextOrd := rfl
@[simp] theorem State.self_fresh (s : State) (f : Ctx → Ctx) : (s.self f).fresh = s.fresh := rfl
@[simp] theorem State.self_dev (s : State) (f : Ctx → Ctx) : (s.self f).dev = s.dev := rfl
@[simp] theorem State.self_arrivals (s : State) (f : Ctx → Ctx) : (s.self f).arrivals = s.arrivals := rfl
@[simp] theorem State.self_flights (s : State) (f : Ctx → Ctx) : (s.self f).flights = s.flights := rfl
@[simp] theorem State.self_agenda (s : State) (f : Ctx → Ctx) : (s.self f).agenda = s.agenda := rfl
@[simp] theorem State.self_cur (s : State) (f : Ctx → Ctx) : (s.self f).cur = s.cur := rfl
@[simp] theorem State.self_ev (s : State) (f : Ctx → Ctx) : (s.self f).ev = s.ev := rfl
@[simp] theorem State.self_rr (s : State) (f : Ctx → Ctx) : (s.self f).rr = s.rr := rfl
@[simp] theorem State.self_ecc (s : State) (f : Ctx → Ctx) : (s.self f).ecc = s.ecc := rfl
@[simp] theorem State.self_remote (s : State) (f : Ctx → Ctx) : (s.self f).remote = s.remote := rfl
@[simp] theorem State.self_far (s : State) (f : Ctx → Ctx) : (s.self f).far = s.far := rfl
@[simp] theorem State.addSem_clusters (s : State) (g n k : Nat) : (s.addSem g n k).clusters = s.clusters := rfl
@[simp] theorem State.addSem_mem (s : State) (g n k : Nat) : (s.addSem g n k).mem = s.mem := rfl
@[simp] theorem State.addSem_tags (s : State) (g n k : Nat) : (s.addSem g n k).tags = s.tags := rfl
@[simp] theorem State.addSem_poison (s : State) (g n k : Nat) : (s.addSem g n k).poison = s.poison := rfl
@[simp] theorem State.addSem_storage (s : State) (g n k : Nat) : (s.addSem g n k).storage = s.storage := rfl
@[simp] theorem State.addSem_dir (s : State) (g n k : Nat) : (s.addSem g n k).dir = s.dir := rfl
@[simp] theorem State.addSem_dec (s : State) (g n k : Nat) : (s.addSem g n k).dec = s.dec := rfl
@[simp] theorem State.addSem_writers (s : State) (g n k : Nat) : (s.addSem g n k).writers = s.writers := rfl
@[simp] theorem State.addSem_recs (s : State) (g n k : Nat) : (s.addSem g n k).recs = s.recs := rfl
@[simp] theorem State.addSem_invals (s : State) (g n k : Nat) : (s.addSem g n k).invals = s.invals := rfl
@[simp] theorem State.addSem_lineVer (s : State) (g n k : Nat) : (s.addSem g n k).lineVer = s.lineVer := rfl
@[simp] theorem State.addSem_byteVer (s : State) (g n k : Nat) : (s.addSem g n k).byteVer = s.byteVer := rfl
@[simp] theorem State.addSem_now (s : State) (g n k : Nat) : (s.addSem g n k).now = s.now := rfl
@[simp] theorem State.addSem_nextWid (s : State) (g n k : Nat) : (s.addSem g n k).nextWid = s.nextWid := rfl
@[simp] theorem State.addSem_nextId (s : State) (g n k : Nat) : (s.addSem g n k).nextId = s.nextId := rfl
@[simp] theorem State.addSem_nextOrd (s : State) (g n k : Nat) : (s.addSem g n k).nextOrd = s.nextOrd := rfl
@[simp] theorem State.addSem_fresh (s : State) (g n k : Nat) : (s.addSem g n k).fresh = s.fresh := rfl
@[simp] theorem State.addSem_dev (s : State) (g n k : Nat) : (s.addSem g n k).dev = s.dev := rfl
@[simp] theorem State.addSem_arrivals (s : State) (g n k : Nat) : (s.addSem g n k).arrivals = s.arrivals := rfl
@[simp] theorem State.addSem_flights (s : State) (g n k : Nat) : (s.addSem g n k).flights = s.flights := rfl
@[simp] theorem State.addSem_agenda (s : State) (g n k : Nat) : (s.addSem g n k).agenda = s.agenda := rfl
@[simp] theorem State.addSem_cur (s : State) (g n k : Nat) : (s.addSem g n k).cur = s.cur := rfl
@[simp] theorem State.addSem_ev (s : State) (g n k : Nat) : (s.addSem g n k).ev = s.ev := rfl
@[simp] theorem State.addSem_rr (s : State) (g n k : Nat) : (s.addSem g n k).rr = s.rr := rfl
@[simp] theorem State.addSem_ecc (s : State) (g n k : Nat) : (s.addSem g n k).ecc = s.ecc := rfl
@[simp] theorem State.addSem_remote (s : State) (g n k : Nat) : (s.addSem g n k).remote = s.remote := rfl
@[simp] theorem State.addSem_far (s : State) (g n k : Nat) : (s.addSem g n k).far = s.far := rfl
@[simp] theorem State.updCluster_cores (s : State) (c : Nat) (f : Cluster → Cluster) : (s.updCluster c f).cores = s.cores := rfl
@[simp] theorem State.updCluster_mem (s : State) (c : Nat) (f : Cluster → Cluster) : (s.updCluster c f).mem = s.mem := rfl
@[simp] theorem State.updCluster_tags (s : State) (c : Nat) (f : Cluster → Cluster) : (s.updCluster c f).tags = s.tags := rfl
@[simp] theorem State.updCluster_poison (s : State) (c : Nat) (f : Cluster → Cluster) : (s.updCluster c f).poison = s.poison := rfl
@[simp] theorem State.updCluster_storage (s : State) (c : Nat) (f : Cluster → Cluster) : (s.updCluster c f).storage = s.storage := rfl
@[simp] theorem State.updCluster_dir (s : State) (c : Nat) (f : Cluster → Cluster) : (s.updCluster c f).dir = s.dir := rfl
@[simp] theorem State.updCluster_dec (s : State) (c : Nat) (f : Cluster → Cluster) : (s.updCluster c f).dec = s.dec := rfl
@[simp] theorem State.updCluster_writers (s : State) (c : Nat) (f : Cluster → Cluster) : (s.updCluster c f).writers = s.writers := rfl
@[simp] theorem State.updCluster_recs (s : State) (c : Nat) (f : Cluster → Cluster) : (s.updCluster c f).recs = s.recs := rfl
@[simp] theorem State.updCluster_invals (s : State) (c : Nat) (f : Cluster → Cluster) : (s.updCluster c f).invals = s.invals := rfl
@[simp] theorem State.updCluster_lineVer (s : State) (c : Nat) (f : Cluster → Cluster) : (s.updCluster c f).lineVer = s.lineVer := rfl
@[simp] theorem State.updCluster_byteVer (s : State) (c : Nat) (f : Cluster → Cluster) : (s.updCluster c f).byteVer = s.byteVer := rfl
@[simp] theorem State.updCluster_now (s : State) (c : Nat) (f : Cluster → Cluster) : (s.updCluster c f).now = s.now := rfl
@[simp] theorem State.updCluster_nextWid (s : State) (c : Nat) (f : Cluster → Cluster) : (s.updCluster c f).nextWid = s.nextWid := rfl
@[simp] theorem State.updCluster_nextId (s : State) (c : Nat) (f : Cluster → Cluster) : (s.updCluster c f).nextId = s.nextId := rfl
@[simp] theorem State.updCluster_nextOrd (s : State) (c : Nat) (f : Cluster → Cluster) : (s.updCluster c f).nextOrd = s.nextOrd := rfl
@[simp] theorem State.updCluster_fresh (s : State) (c : Nat) (f : Cluster → Cluster) : (s.updCluster c f).fresh = s.fresh := rfl
@[simp] theorem State.updCluster_dev (s : State) (c : Nat) (f : Cluster → Cluster) : (s.updCluster c f).dev = s.dev := rfl
@[simp] theorem State.updCluster_arrivals (s : State) (c : Nat) (f : Cluster → Cluster) : (s.updCluster c f).arrivals = s.arrivals := rfl
@[simp] theorem State.updCluster_flights (s : State) (c : Nat) (f : Cluster → Cluster) : (s.updCluster c f).flights = s.flights := rfl
@[simp] theorem State.updCluster_agenda (s : State) (c : Nat) (f : Cluster → Cluster) : (s.updCluster c f).agenda = s.agenda := rfl
@[simp] theorem State.updCluster_cur (s : State) (c : Nat) (f : Cluster → Cluster) : (s.updCluster c f).cur = s.cur := rfl
@[simp] theorem State.updCluster_ev (s : State) (c : Nat) (f : Cluster → Cluster) : (s.updCluster c f).ev = s.ev := rfl
@[simp] theorem State.updCluster_rr (s : State) (c : Nat) (f : Cluster → Cluster) : (s.updCluster c f).rr = s.rr := rfl
@[simp] theorem State.updCluster_ecc (s : State) (c : Nat) (f : Cluster → Cluster) : (s.updCluster c f).ecc = s.ecc := rfl
@[simp] theorem State.updCluster_remote (s : State) (c : Nat) (f : Cluster → Cluster) : (s.updCluster c f).remote = s.remote := rfl
@[simp] theorem State.updCluster_far (s : State) (c : Nat) (f : Cluster → Cluster) : (s.updCluster c f).far = s.far := rfl
@[simp] theorem State.updSlice_cores (s : State) (c i : Nat) (f : Slice → Slice) : (s.updSlice c i f).cores = s.cores := rfl
@[simp] theorem State.updSlice_mem (s : State) (c i : Nat) (f : Slice → Slice) : (s.updSlice c i f).mem = s.mem := rfl
@[simp] theorem State.updSlice_tags (s : State) (c i : Nat) (f : Slice → Slice) : (s.updSlice c i f).tags = s.tags := rfl
@[simp] theorem State.updSlice_poison (s : State) (c i : Nat) (f : Slice → Slice) : (s.updSlice c i f).poison = s.poison := rfl
@[simp] theorem State.updSlice_storage (s : State) (c i : Nat) (f : Slice → Slice) : (s.updSlice c i f).storage = s.storage := rfl
@[simp] theorem State.updSlice_dir (s : State) (c i : Nat) (f : Slice → Slice) : (s.updSlice c i f).dir = s.dir := rfl
@[simp] theorem State.updSlice_dec (s : State) (c i : Nat) (f : Slice → Slice) : (s.updSlice c i f).dec = s.dec := rfl
@[simp] theorem State.updSlice_writers (s : State) (c i : Nat) (f : Slice → Slice) : (s.updSlice c i f).writers = s.writers := rfl
@[simp] theorem State.updSlice_recs (s : State) (c i : Nat) (f : Slice → Slice) : (s.updSlice c i f).recs = s.recs := rfl
@[simp] theorem State.updSlice_invals (s : State) (c i : Nat) (f : Slice → Slice) : (s.updSlice c i f).invals = s.invals := rfl
@[simp] theorem State.updSlice_lineVer (s : State) (c i : Nat) (f : Slice → Slice) : (s.updSlice c i f).lineVer = s.lineVer := rfl
@[simp] theorem State.updSlice_byteVer (s : State) (c i : Nat) (f : Slice → Slice) : (s.updSlice c i f).byteVer = s.byteVer := rfl
@[simp] theorem State.updSlice_now (s : State) (c i : Nat) (f : Slice → Slice) : (s.updSlice c i f).now = s.now := rfl
@[simp] theorem State.updSlice_nextWid (s : State) (c i : Nat) (f : Slice → Slice) : (s.updSlice c i f).nextWid = s.nextWid := rfl
@[simp] theorem State.updSlice_nextId (s : State) (c i : Nat) (f : Slice → Slice) : (s.updSlice c i f).nextId = s.nextId := rfl
@[simp] theorem State.updSlice_nextOrd (s : State) (c i : Nat) (f : Slice → Slice) : (s.updSlice c i f).nextOrd = s.nextOrd := rfl
@[simp] theorem State.updSlice_fresh (s : State) (c i : Nat) (f : Slice → Slice) : (s.updSlice c i f).fresh = s.fresh := rfl
@[simp] theorem State.updSlice_dev (s : State) (c i : Nat) (f : Slice → Slice) : (s.updSlice c i f).dev = s.dev := rfl
@[simp] theorem State.updSlice_arrivals (s : State) (c i : Nat) (f : Slice → Slice) : (s.updSlice c i f).arrivals = s.arrivals := rfl
@[simp] theorem State.updSlice_flights (s : State) (c i : Nat) (f : Slice → Slice) : (s.updSlice c i f).flights = s.flights := rfl
@[simp] theorem State.updSlice_agenda (s : State) (c i : Nat) (f : Slice → Slice) : (s.updSlice c i f).agenda = s.agenda := rfl
@[simp] theorem State.updSlice_cur (s : State) (c i : Nat) (f : Slice → Slice) : (s.updSlice c i f).cur = s.cur := rfl
@[simp] theorem State.updSlice_ev (s : State) (c i : Nat) (f : Slice → Slice) : (s.updSlice c i f).ev = s.ev := rfl
@[simp] theorem State.updSlice_rr (s : State) (c i : Nat) (f : Slice → Slice) : (s.updSlice c i f).rr = s.rr := rfl
@[simp] theorem State.updSlice_ecc (s : State) (c i : Nat) (f : Slice → Slice) : (s.updSlice c i f).ecc = s.ecc := rfl
@[simp] theorem State.updSlice_remote (s : State) (c i : Nat) (f : Slice → Slice) : (s.updSlice c i f).remote = s.remote := rfl
@[simp] theorem State.updSlice_far (s : State) (c i : Nat) (f : Slice → Slice) : (s.updSlice c i f).far = s.far := rfl
@[simp] theorem State.updStream_cores (s : State) (c i : Nat) (f : Stream → Stream) : (s.updStream c i f).cores = s.cores := rfl
@[simp] theorem State.updStream_mem (s : State) (c i : Nat) (f : Stream → Stream) : (s.updStream c i f).mem = s.mem := rfl
@[simp] theorem State.updStream_tags (s : State) (c i : Nat) (f : Stream → Stream) : (s.updStream c i f).tags = s.tags := rfl
@[simp] theorem State.updStream_poison (s : State) (c i : Nat) (f : Stream → Stream) : (s.updStream c i f).poison = s.poison := rfl
@[simp] theorem State.updStream_storage (s : State) (c i : Nat) (f : Stream → Stream) : (s.updStream c i f).storage = s.storage := rfl
@[simp] theorem State.updStream_dir (s : State) (c i : Nat) (f : Stream → Stream) : (s.updStream c i f).dir = s.dir := rfl
@[simp] theorem State.updStream_dec (s : State) (c i : Nat) (f : Stream → Stream) : (s.updStream c i f).dec = s.dec := rfl
@[simp] theorem State.updStream_writers (s : State) (c i : Nat) (f : Stream → Stream) : (s.updStream c i f).writers = s.writers := rfl
@[simp] theorem State.updStream_recs (s : State) (c i : Nat) (f : Stream → Stream) : (s.updStream c i f).recs = s.recs := rfl
@[simp] theorem State.updStream_invals (s : State) (c i : Nat) (f : Stream → Stream) : (s.updStream c i f).invals = s.invals := rfl
@[simp] theorem State.updStream_lineVer (s : State) (c i : Nat) (f : Stream → Stream) : (s.updStream c i f).lineVer = s.lineVer := rfl
@[simp] theorem State.updStream_byteVer (s : State) (c i : Nat) (f : Stream → Stream) : (s.updStream c i f).byteVer = s.byteVer := rfl
@[simp] theorem State.updStream_now (s : State) (c i : Nat) (f : Stream → Stream) : (s.updStream c i f).now = s.now := rfl
@[simp] theorem State.updStream_nextWid (s : State) (c i : Nat) (f : Stream → Stream) : (s.updStream c i f).nextWid = s.nextWid := rfl
@[simp] theorem State.updStream_nextId (s : State) (c i : Nat) (f : Stream → Stream) : (s.updStream c i f).nextId = s.nextId := rfl
@[simp] theorem State.updStream_nextOrd (s : State) (c i : Nat) (f : Stream → Stream) : (s.updStream c i f).nextOrd = s.nextOrd := rfl
@[simp] theorem State.updStream_fresh (s : State) (c i : Nat) (f : Stream → Stream) : (s.updStream c i f).fresh = s.fresh := rfl
@[simp] theorem State.updStream_dev (s : State) (c i : Nat) (f : Stream → Stream) : (s.updStream c i f).dev = s.dev := rfl
@[simp] theorem State.updStream_arrivals (s : State) (c i : Nat) (f : Stream → Stream) : (s.updStream c i f).arrivals = s.arrivals := rfl
@[simp] theorem State.updStream_flights (s : State) (c i : Nat) (f : Stream → Stream) : (s.updStream c i f).flights = s.flights := rfl
@[simp] theorem State.updStream_agenda (s : State) (c i : Nat) (f : Stream → Stream) : (s.updStream c i f).agenda = s.agenda := rfl
@[simp] theorem State.updStream_cur (s : State) (c i : Nat) (f : Stream → Stream) : (s.updStream c i f).cur = s.cur := rfl
@[simp] theorem State.updStream_ev (s : State) (c i : Nat) (f : Stream → Stream) : (s.updStream c i f).ev = s.ev := rfl
@[simp] theorem State.updStream_rr (s : State) (c i : Nat) (f : Stream → Stream) : (s.updStream c i f).rr = s.rr := rfl
@[simp] theorem State.updStream_ecc (s : State) (c i : Nat) (f : Stream → Stream) : (s.updStream c i f).ecc = s.ecc := rfl
@[simp] theorem State.updStream_remote (s : State) (c i : Nat) (f : Stream → Stream) : (s.updStream c i f).remote = s.remote := rfl
@[simp] theorem State.updStream_far (s : State) (c i : Nat) (f : Stream → Stream) : (s.updStream c i f).far = s.far := rfl

/-! ## Updates of a core, field by field -/

@[simp] theorem Core.setCtx_sems (c : Core) (i : Nat) (x : Ctx) : (c.setCtx i x).sems = c.sems := rfl
@[simp] theorem Core.setCtx_relSig (c : Core) (i : Nat) (x : Ctx) : (c.setCtx i x).relSig = c.relSig := rfl
@[simp] theorem Core.setCtx_slots (c : Core) (i : Nat) (x : Ctx) : (c.setCtx i x).slots = c.slots := rfl
@[simp] theorem Core.setCtx_slotDom (c : Core) (i : Nat) (x : Ctx) : (c.setCtx i x).slotDom = c.slotDom := rfl
@[simp] theorem Core.setCtx_chans (c : Core) (i : Nat) (x : Ctx) : (c.setCtx i x).chans = c.chans := rfl
@[simp] theorem Core.setCtx_matrix (c : Core) (i : Nat) (x : Ctx) : (c.setCtx i x).matrix = c.matrix := rfl
@[simp] theorem Core.setCtx_tlb (c : Core) (i : Nat) (x : Ctx) : (c.setCtx i x).tlb = c.tlb := rfl
@[simp] theorem Core.setCtx_trackers (c : Core) (i : Nat) (x : Ctx) : (c.setCtx i x).trackers = c.trackers := rfl
@[simp] theorem Core.setCtx_fseq (c : Core) (i : Nat) (x : Ctx) : (c.setCtx i x).fseq = c.fseq := rfl
@[simp] theorem Core.setCtx_gen (c : Core) (i : Nat) (x : Ctx) : (c.setCtx i x).gen = c.gen := rfl
@[simp] theorem Core.setCtx_copies (c : Core) (i : Nat) (x : Ctx) : (c.setCtx i x).copies = c.copies := rfl
@[simp] theorem Core.setCtx_mrg (c : Core) (i : Nat) (x : Ctx) : (c.setCtx i x).mrg = c.mrg := rfl
@[simp] theorem Core.setCtx_pdsd (c : Core) (i : Nat) (x : Ctx) : (c.setCtx i x).pdsd = c.pdsd := rfl
@[simp] theorem Core.setCtx_pdct (c : Core) (i : Nat) (x : Ctx) : (c.setCtx i x).pdct = c.pdct := rfl
@[simp] theorem Core.setCtx_pcntCap (c : Core) (i : Nat) (x : Ctx) : (c.setCtx i x).pcntCap = c.pcntCap := rfl
@[simp] theorem Core.setCtx_pcntRply (c : Core) (i : Nat) (x : Ctx) : (c.setCtx i x).pcntRply = c.pcntRply := rfl
@[simp] theorem Core.setCtx_pcntMcnf (c : Core) (i : Nat) (x : Ctx) : (c.setCtx i x).pcntMcnf = c.pcntMcnf := rfl
@[simp] theorem Core.setCtx_pcntAbnd (c : Core) (i : Nat) (x : Ctx) : (c.setCtx i x).pcntAbnd = c.pcntAbnd := rfl
@[simp] theorem Core.setCtx_recvq (c : Core) (i : Nat) (x : Ctx) : (c.setCtx i x).recvq = c.recvq := rfl
@[simp] theorem Core.setCtx_mqoa (c : Core) (i : Nat) (x : Ctx) : (c.setCtx i x).mqoa = c.mqoa := rfl
@[simp] theorem Core.setCtx_mqosSize (c : Core) (i : Nat) (x : Ctx) : (c.setCtx i x).mqosSize = c.mqosSize := rfl
@[simp] theorem Core.setCtx_mqosSpill (c : Core) (i : Nat) (x : Ctx) : (c.setCtx i x).mqosSpill = c.mqosSpill := rfl
@[simp] theorem Core.setCtx_ovq (c : Core) (i : Nat) (x : Ctx) : (c.setCtx i x).ovq = c.ovq := rfl
@[simp] theorem Core.setCtx_msgSent (c : Core) (i : Nat) (x : Ctx) : (c.setCtx i x).msgSent = c.msgSent := rfl
@[simp] theorem Core.setCtx_msgRecv (c : Core) (i : Nat) (x : Ctx) : (c.setCtx i x).msgRecv = c.msgRecv := rfl
@[simp] theorem Core.setCtx_rkcy (c : Core) (i : Nat) (x : Ctx) : (c.setCtx i x).rkcy = c.rkcy := rfl
@[simp] theorem Core.setCtx_rkms (c : Core) (i : Nat) (x : Ctx) : (c.setCtx i x).rkms = c.rkms := rfl
@[simp] theorem Core.setCtx_req (c : Core) (i : Nat) (x : Ctx) : (c.setCtx i x).req = c.req := rfl
@[simp] theorem Core.setCtx_dlc (c : Core) (i : Nat) (x : Ctx) : (c.setCtx i x).dlc = c.dlc := rfl
@[simp] theorem Core.setCtx_stopped (c : Core) (i : Nat) (x : Ctx) : (c.setCtx i x).stopped = c.stopped := rfl
@[simp] theorem Core.setCtx_task (c : Core) (i : Nat) (x : Ctx) : (c.setCtx i x).task = c.task := rfl
@[simp] theorem Core.setCtx_saving (c : Core) (i : Nat) (x : Ctx) : (c.setCtx i x).saving = c.saving := rfl
@[simp] theorem Core.setCtx_saveSlots (c : Core) (i : Nat) (x : Ctx) : (c.setCtx i x).saveSlots = c.saveSlots := rfl
@[simp] theorem Core.setCtx_saveMask (c : Core) (i : Nat) (x : Ctx) : (c.setCtx i x).saveMask = c.saveMask := rfl
@[simp] theorem Core.setCtx_drains (c : Core) (i : Nat) (x : Ctx) : (c.setCtx i x).drains = c.drains := rfl
@[simp] theorem Core.setCtx_phase (c : Core) (i : Nat) (x : Ctx) : (c.setCtx i x).phase = c.phase := rfl
@[simp] theorem Core.setCtx_pastPhases (c : Core) (i : Nat) (x : Ctx) : (c.setCtx i x).pastPhases = c.pastPhases := rfl
@[simp] theorem Core.setCtx_lateCount (c : Core) (i : Nat) (x : Ctx) : (c.setCtx i x).lateCount = c.lateCount := rfl
@[simp] theorem Core.setCtx_binding (c : Core) (i : Nat) (x : Ctx) : (c.setCtx i x).binding = c.binding := rfl
@[simp] theorem Core.setCtx_conflict (c : Core) (i : Nat) (x : Ctx) : (c.setCtx i x).conflict = c.conflict := rfl
@[simp] theorem Core.setCtx_faults (c : Core) (i : Nat) (x : Ctx) : (c.setCtx i x).faults = c.faults := rfl
@[simp] theorem Core.setCtx_semSets (c : Core) (i : Nat) (x : Ctx) : (c.setCtx i x).semSets = c.semSets := rfl
@[simp] theorem Core.setCtx_semAdds (c : Core) (i : Nat) (x : Ctx) : (c.setCtx i x).semAdds = c.semAdds := rfl
@[simp] theorem Core.setCtx_lastTurn (c : Core) (i : Nat) (x : Ctx) : (c.setCtx i x).lastTurn = c.lastTurn := rfl
@[simp] theorem Core.setCtx_l1 (c : Core) (i : Nat) (x : Ctx) : (c.setCtx i x).l1 = c.l1 := rfl
@[simp] theorem Core.updCtx_sems (c : Core) (i : Nat) (f : Ctx → Ctx) : (c.updCtx i f).sems = c.sems := rfl
@[simp] theorem Core.updCtx_relSig (c : Core) (i : Nat) (f : Ctx → Ctx) : (c.updCtx i f).relSig = c.relSig := rfl
@[simp] theorem Core.updCtx_slots (c : Core) (i : Nat) (f : Ctx → Ctx) : (c.updCtx i f).slots = c.slots := rfl
@[simp] theorem Core.updCtx_slotDom (c : Core) (i : Nat) (f : Ctx → Ctx) : (c.updCtx i f).slotDom = c.slotDom := rfl
@[simp] theorem Core.updCtx_chans (c : Core) (i : Nat) (f : Ctx → Ctx) : (c.updCtx i f).chans = c.chans := rfl
@[simp] theorem Core.updCtx_matrix (c : Core) (i : Nat) (f : Ctx → Ctx) : (c.updCtx i f).matrix = c.matrix := rfl
@[simp] theorem Core.updCtx_tlb (c : Core) (i : Nat) (f : Ctx → Ctx) : (c.updCtx i f).tlb = c.tlb := rfl
@[simp] theorem Core.updCtx_trackers (c : Core) (i : Nat) (f : Ctx → Ctx) : (c.updCtx i f).trackers = c.trackers := rfl
@[simp] theorem Core.updCtx_fseq (c : Core) (i : Nat) (f : Ctx → Ctx) : (c.updCtx i f).fseq = c.fseq := rfl
@[simp] theorem Core.updCtx_gen (c : Core) (i : Nat) (f : Ctx → Ctx) : (c.updCtx i f).gen = c.gen := rfl
@[simp] theorem Core.updCtx_copies (c : Core) (i : Nat) (f : Ctx → Ctx) : (c.updCtx i f).copies = c.copies := rfl
@[simp] theorem Core.updCtx_mrg (c : Core) (i : Nat) (f : Ctx → Ctx) : (c.updCtx i f).mrg = c.mrg := rfl
@[simp] theorem Core.updCtx_pdsd (c : Core) (i : Nat) (f : Ctx → Ctx) : (c.updCtx i f).pdsd = c.pdsd := rfl
@[simp] theorem Core.updCtx_pdct (c : Core) (i : Nat) (f : Ctx → Ctx) : (c.updCtx i f).pdct = c.pdct := rfl
@[simp] theorem Core.updCtx_pcntCap (c : Core) (i : Nat) (f : Ctx → Ctx) : (c.updCtx i f).pcntCap = c.pcntCap := rfl
@[simp] theorem Core.updCtx_pcntRply (c : Core) (i : Nat) (f : Ctx → Ctx) : (c.updCtx i f).pcntRply = c.pcntRply := rfl
@[simp] theorem Core.updCtx_pcntMcnf (c : Core) (i : Nat) (f : Ctx → Ctx) : (c.updCtx i f).pcntMcnf = c.pcntMcnf := rfl
@[simp] theorem Core.updCtx_pcntAbnd (c : Core) (i : Nat) (f : Ctx → Ctx) : (c.updCtx i f).pcntAbnd = c.pcntAbnd := rfl
@[simp] theorem Core.updCtx_recvq (c : Core) (i : Nat) (f : Ctx → Ctx) : (c.updCtx i f).recvq = c.recvq := rfl
@[simp] theorem Core.updCtx_mqoa (c : Core) (i : Nat) (f : Ctx → Ctx) : (c.updCtx i f).mqoa = c.mqoa := rfl
@[simp] theorem Core.updCtx_mqosSize (c : Core) (i : Nat) (f : Ctx → Ctx) : (c.updCtx i f).mqosSize = c.mqosSize := rfl
@[simp] theorem Core.updCtx_mqosSpill (c : Core) (i : Nat) (f : Ctx → Ctx) : (c.updCtx i f).mqosSpill = c.mqosSpill := rfl
@[simp] theorem Core.updCtx_ovq (c : Core) (i : Nat) (f : Ctx → Ctx) : (c.updCtx i f).ovq = c.ovq := rfl
@[simp] theorem Core.updCtx_msgSent (c : Core) (i : Nat) (f : Ctx → Ctx) : (c.updCtx i f).msgSent = c.msgSent := rfl
@[simp] theorem Core.updCtx_msgRecv (c : Core) (i : Nat) (f : Ctx → Ctx) : (c.updCtx i f).msgRecv = c.msgRecv := rfl
@[simp] theorem Core.updCtx_rkcy (c : Core) (i : Nat) (f : Ctx → Ctx) : (c.updCtx i f).rkcy = c.rkcy := rfl
@[simp] theorem Core.updCtx_rkms (c : Core) (i : Nat) (f : Ctx → Ctx) : (c.updCtx i f).rkms = c.rkms := rfl
@[simp] theorem Core.updCtx_req (c : Core) (i : Nat) (f : Ctx → Ctx) : (c.updCtx i f).req = c.req := rfl
@[simp] theorem Core.updCtx_dlc (c : Core) (i : Nat) (f : Ctx → Ctx) : (c.updCtx i f).dlc = c.dlc := rfl
@[simp] theorem Core.updCtx_stopped (c : Core) (i : Nat) (f : Ctx → Ctx) : (c.updCtx i f).stopped = c.stopped := rfl
@[simp] theorem Core.updCtx_task (c : Core) (i : Nat) (f : Ctx → Ctx) : (c.updCtx i f).task = c.task := rfl
@[simp] theorem Core.updCtx_saving (c : Core) (i : Nat) (f : Ctx → Ctx) : (c.updCtx i f).saving = c.saving := rfl
@[simp] theorem Core.updCtx_saveSlots (c : Core) (i : Nat) (f : Ctx → Ctx) : (c.updCtx i f).saveSlots = c.saveSlots := rfl
@[simp] theorem Core.updCtx_saveMask (c : Core) (i : Nat) (f : Ctx → Ctx) : (c.updCtx i f).saveMask = c.saveMask := rfl
@[simp] theorem Core.updCtx_drains (c : Core) (i : Nat) (f : Ctx → Ctx) : (c.updCtx i f).drains = c.drains := rfl
@[simp] theorem Core.updCtx_phase (c : Core) (i : Nat) (f : Ctx → Ctx) : (c.updCtx i f).phase = c.phase := rfl
@[simp] theorem Core.updCtx_pastPhases (c : Core) (i : Nat) (f : Ctx → Ctx) : (c.updCtx i f).pastPhases = c.pastPhases := rfl
@[simp] theorem Core.updCtx_lateCount (c : Core) (i : Nat) (f : Ctx → Ctx) : (c.updCtx i f).lateCount = c.lateCount := rfl
@[simp] theorem Core.updCtx_binding (c : Core) (i : Nat) (f : Ctx → Ctx) : (c.updCtx i f).binding = c.binding := rfl
@[simp] theorem Core.updCtx_conflict (c : Core) (i : Nat) (f : Ctx → Ctx) : (c.updCtx i f).conflict = c.conflict := rfl
@[simp] theorem Core.updCtx_faults (c : Core) (i : Nat) (f : Ctx → Ctx) : (c.updCtx i f).faults = c.faults := rfl
@[simp] theorem Core.updCtx_semSets (c : Core) (i : Nat) (f : Ctx → Ctx) : (c.updCtx i f).semSets = c.semSets := rfl
@[simp] theorem Core.updCtx_semAdds (c : Core) (i : Nat) (f : Ctx → Ctx) : (c.updCtx i f).semAdds = c.semAdds := rfl
@[simp] theorem Core.updCtx_lastTurn (c : Core) (i : Nat) (f : Ctx → Ctx) : (c.updCtx i f).lastTurn = c.lastTurn := rfl
@[simp] theorem Core.updCtx_l1 (c : Core) (i : Nat) (f : Ctx → Ctx) : (c.updCtx i f).l1 = c.l1 := rfl
@[simp] theorem Core.setSem_ctxs (c : Core) (n : Nat) (v : Sem) : (c.setSem n v).ctxs = c.ctxs := rfl
@[simp] theorem Core.setSem_relSig (c : Core) (n : Nat) (v : Sem) : (c.setSem n v).relSig = c.relSig := rfl
@[simp] theorem Core.setSem_slots (c : Core) (n : Nat) (v : Sem) : (c.setSem n v).slots = c.slots := rfl
@[simp] theorem Core.setSem_slotDom (c : Core) (n : Nat) (v : Sem) : (c.setSem n v).slotDom = c.slotDom := rfl
@[simp] theorem Core.setSem_chans (c : Core) (n : Nat) (v : Sem) : (c.setSem n v).chans = c.chans := rfl
@[simp] theorem Core.setSem_matrix (c : Core) (n : Nat) (v : Sem) : (c.setSem n v).matrix = c.matrix := rfl
@[simp] theorem Core.setSem_tlb (c : Core) (n : Nat) (v : Sem) : (c.setSem n v).tlb = c.tlb := rfl
@[simp] theorem Core.setSem_trackers (c : Core) (n : Nat) (v : Sem) : (c.setSem n v).trackers = c.trackers := rfl
@[simp] theorem Core.setSem_fseq (c : Core) (n : Nat) (v : Sem) : (c.setSem n v).fseq = c.fseq := rfl
@[simp] theorem Core.setSem_gen (c : Core) (n : Nat) (v : Sem) : (c.setSem n v).gen = c.gen := rfl
@[simp] theorem Core.setSem_copies (c : Core) (n : Nat) (v : Sem) : (c.setSem n v).copies = c.copies := rfl
@[simp] theorem Core.setSem_mrg (c : Core) (n : Nat) (v : Sem) : (c.setSem n v).mrg = c.mrg := rfl
@[simp] theorem Core.setSem_pdsd (c : Core) (n : Nat) (v : Sem) : (c.setSem n v).pdsd = c.pdsd := rfl
@[simp] theorem Core.setSem_pdct (c : Core) (n : Nat) (v : Sem) : (c.setSem n v).pdct = c.pdct := rfl
@[simp] theorem Core.setSem_pcntCap (c : Core) (n : Nat) (v : Sem) : (c.setSem n v).pcntCap = c.pcntCap := rfl
@[simp] theorem Core.setSem_pcntRply (c : Core) (n : Nat) (v : Sem) : (c.setSem n v).pcntRply = c.pcntRply := rfl
@[simp] theorem Core.setSem_pcntMcnf (c : Core) (n : Nat) (v : Sem) : (c.setSem n v).pcntMcnf = c.pcntMcnf := rfl
@[simp] theorem Core.setSem_pcntAbnd (c : Core) (n : Nat) (v : Sem) : (c.setSem n v).pcntAbnd = c.pcntAbnd := rfl
@[simp] theorem Core.setSem_recvq (c : Core) (n : Nat) (v : Sem) : (c.setSem n v).recvq = c.recvq := rfl
@[simp] theorem Core.setSem_mqoa (c : Core) (n : Nat) (v : Sem) : (c.setSem n v).mqoa = c.mqoa := rfl
@[simp] theorem Core.setSem_mqosSize (c : Core) (n : Nat) (v : Sem) : (c.setSem n v).mqosSize = c.mqosSize := rfl
@[simp] theorem Core.setSem_mqosSpill (c : Core) (n : Nat) (v : Sem) : (c.setSem n v).mqosSpill = c.mqosSpill := rfl
@[simp] theorem Core.setSem_ovq (c : Core) (n : Nat) (v : Sem) : (c.setSem n v).ovq = c.ovq := rfl
@[simp] theorem Core.setSem_msgSent (c : Core) (n : Nat) (v : Sem) : (c.setSem n v).msgSent = c.msgSent := rfl
@[simp] theorem Core.setSem_msgRecv (c : Core) (n : Nat) (v : Sem) : (c.setSem n v).msgRecv = c.msgRecv := rfl
@[simp] theorem Core.setSem_rkcy (c : Core) (n : Nat) (v : Sem) : (c.setSem n v).rkcy = c.rkcy := rfl
@[simp] theorem Core.setSem_rkms (c : Core) (n : Nat) (v : Sem) : (c.setSem n v).rkms = c.rkms := rfl
@[simp] theorem Core.setSem_req (c : Core) (n : Nat) (v : Sem) : (c.setSem n v).req = c.req := rfl
@[simp] theorem Core.setSem_dlc (c : Core) (n : Nat) (v : Sem) : (c.setSem n v).dlc = c.dlc := rfl
@[simp] theorem Core.setSem_stopped (c : Core) (n : Nat) (v : Sem) : (c.setSem n v).stopped = c.stopped := rfl
@[simp] theorem Core.setSem_task (c : Core) (n : Nat) (v : Sem) : (c.setSem n v).task = c.task := rfl
@[simp] theorem Core.setSem_saving (c : Core) (n : Nat) (v : Sem) : (c.setSem n v).saving = c.saving := rfl
@[simp] theorem Core.setSem_saveSlots (c : Core) (n : Nat) (v : Sem) : (c.setSem n v).saveSlots = c.saveSlots := rfl
@[simp] theorem Core.setSem_saveMask (c : Core) (n : Nat) (v : Sem) : (c.setSem n v).saveMask = c.saveMask := rfl
@[simp] theorem Core.setSem_drains (c : Core) (n : Nat) (v : Sem) : (c.setSem n v).drains = c.drains := rfl
@[simp] theorem Core.setSem_phase (c : Core) (n : Nat) (v : Sem) : (c.setSem n v).phase = c.phase := rfl
@[simp] theorem Core.setSem_pastPhases (c : Core) (n : Nat) (v : Sem) : (c.setSem n v).pastPhases = c.pastPhases := rfl
@[simp] theorem Core.setSem_lateCount (c : Core) (n : Nat) (v : Sem) : (c.setSem n v).lateCount = c.lateCount := rfl
@[simp] theorem Core.setSem_binding (c : Core) (n : Nat) (v : Sem) : (c.setSem n v).binding = c.binding := rfl
@[simp] theorem Core.setSem_conflict (c : Core) (n : Nat) (v : Sem) : (c.setSem n v).conflict = c.conflict := rfl
@[simp] theorem Core.setSem_faults (c : Core) (n : Nat) (v : Sem) : (c.setSem n v).faults = c.faults := rfl
@[simp] theorem Core.setSem_semSets (c : Core) (n : Nat) (v : Sem) : (c.setSem n v).semSets = c.semSets := rfl
@[simp] theorem Core.setSem_semAdds (c : Core) (n : Nat) (v : Sem) : (c.setSem n v).semAdds = c.semAdds := rfl
@[simp] theorem Core.setSem_lastTurn (c : Core) (n : Nat) (v : Sem) : (c.setSem n v).lastTurn = c.lastTurn := rfl
@[simp] theorem Core.setSem_l1 (c : Core) (n : Nat) (v : Sem) : (c.setSem n v).l1 = c.l1 := rfl
@[simp] theorem Core.addSem_ctxs (c : Core) (n k : Nat) : (c.addSem n k).ctxs = c.ctxs := rfl
@[simp] theorem Core.addSem_relSig (c : Core) (n k : Nat) : (c.addSem n k).relSig = c.relSig := rfl
@[simp] theorem Core.addSem_slots (c : Core) (n k : Nat) : (c.addSem n k).slots = c.slots := rfl
@[simp] theorem Core.addSem_slotDom (c : Core) (n k : Nat) : (c.addSem n k).slotDom = c.slotDom := rfl
@[simp] theorem Core.addSem_chans (c : Core) (n k : Nat) : (c.addSem n k).chans = c.chans := rfl
@[simp] theorem Core.addSem_matrix (c : Core) (n k : Nat) : (c.addSem n k).matrix = c.matrix := rfl
@[simp] theorem Core.addSem_tlb (c : Core) (n k : Nat) : (c.addSem n k).tlb = c.tlb := rfl
@[simp] theorem Core.addSem_trackers (c : Core) (n k : Nat) : (c.addSem n k).trackers = c.trackers := rfl
@[simp] theorem Core.addSem_fseq (c : Core) (n k : Nat) : (c.addSem n k).fseq = c.fseq := rfl
@[simp] theorem Core.addSem_gen (c : Core) (n k : Nat) : (c.addSem n k).gen = c.gen := rfl
@[simp] theorem Core.addSem_copies (c : Core) (n k : Nat) : (c.addSem n k).copies = c.copies := rfl
@[simp] theorem Core.addSem_mrg (c : Core) (n k : Nat) : (c.addSem n k).mrg = c.mrg := rfl
@[simp] theorem Core.addSem_pdsd (c : Core) (n k : Nat) : (c.addSem n k).pdsd = c.pdsd := rfl
@[simp] theorem Core.addSem_pdct (c : Core) (n k : Nat) : (c.addSem n k).pdct = c.pdct := rfl
@[simp] theorem Core.addSem_pcntCap (c : Core) (n k : Nat) : (c.addSem n k).pcntCap = c.pcntCap := rfl
@[simp] theorem Core.addSem_pcntRply (c : Core) (n k : Nat) : (c.addSem n k).pcntRply = c.pcntRply := rfl
@[simp] theorem Core.addSem_pcntMcnf (c : Core) (n k : Nat) : (c.addSem n k).pcntMcnf = c.pcntMcnf := rfl
@[simp] theorem Core.addSem_pcntAbnd (c : Core) (n k : Nat) : (c.addSem n k).pcntAbnd = c.pcntAbnd := rfl
@[simp] theorem Core.addSem_recvq (c : Core) (n k : Nat) : (c.addSem n k).recvq = c.recvq := rfl
@[simp] theorem Core.addSem_mqoa (c : Core) (n k : Nat) : (c.addSem n k).mqoa = c.mqoa := rfl
@[simp] theorem Core.addSem_mqosSize (c : Core) (n k : Nat) : (c.addSem n k).mqosSize = c.mqosSize := rfl
@[simp] theorem Core.addSem_mqosSpill (c : Core) (n k : Nat) : (c.addSem n k).mqosSpill = c.mqosSpill := rfl
@[simp] theorem Core.addSem_ovq (c : Core) (n k : Nat) : (c.addSem n k).ovq = c.ovq := rfl
@[simp] theorem Core.addSem_msgSent (c : Core) (n k : Nat) : (c.addSem n k).msgSent = c.msgSent := rfl
@[simp] theorem Core.addSem_msgRecv (c : Core) (n k : Nat) : (c.addSem n k).msgRecv = c.msgRecv := rfl
@[simp] theorem Core.addSem_rkcy (c : Core) (n k : Nat) : (c.addSem n k).rkcy = c.rkcy := rfl
@[simp] theorem Core.addSem_rkms (c : Core) (n k : Nat) : (c.addSem n k).rkms = c.rkms := rfl
@[simp] theorem Core.addSem_req (c : Core) (n k : Nat) : (c.addSem n k).req = c.req := rfl
@[simp] theorem Core.addSem_dlc (c : Core) (n k : Nat) : (c.addSem n k).dlc = c.dlc := rfl
@[simp] theorem Core.addSem_stopped (c : Core) (n k : Nat) : (c.addSem n k).stopped = c.stopped := rfl
@[simp] theorem Core.addSem_task (c : Core) (n k : Nat) : (c.addSem n k).task = c.task := rfl
@[simp] theorem Core.addSem_saving (c : Core) (n k : Nat) : (c.addSem n k).saving = c.saving := rfl
@[simp] theorem Core.addSem_saveSlots (c : Core) (n k : Nat) : (c.addSem n k).saveSlots = c.saveSlots := rfl
@[simp] theorem Core.addSem_saveMask (c : Core) (n k : Nat) : (c.addSem n k).saveMask = c.saveMask := rfl
@[simp] theorem Core.addSem_drains (c : Core) (n k : Nat) : (c.addSem n k).drains = c.drains := rfl
@[simp] theorem Core.addSem_phase (c : Core) (n k : Nat) : (c.addSem n k).phase = c.phase := rfl
@[simp] theorem Core.addSem_pastPhases (c : Core) (n k : Nat) : (c.addSem n k).pastPhases = c.pastPhases := rfl
@[simp] theorem Core.addSem_lateCount (c : Core) (n k : Nat) : (c.addSem n k).lateCount = c.lateCount := rfl
@[simp] theorem Core.addSem_binding (c : Core) (n k : Nat) : (c.addSem n k).binding = c.binding := rfl
@[simp] theorem Core.addSem_conflict (c : Core) (n k : Nat) : (c.addSem n k).conflict = c.conflict := rfl
@[simp] theorem Core.addSem_faults (c : Core) (n k : Nat) : (c.addSem n k).faults = c.faults := rfl
@[simp] theorem Core.addSem_semSets (c : Core) (n k : Nat) : (c.addSem n k).semSets = c.semSets := rfl
@[simp] theorem Core.addSem_semAdds (c : Core) (n k : Nat) : (c.addSem n k).semAdds = c.semAdds := rfl
@[simp] theorem Core.addSem_lastTurn (c : Core) (n k : Nat) : (c.addSem n k).lastTurn = c.lastTurn := rfl
@[simp] theorem Core.addSem_l1 (c : Core) (n k : Nat) : (c.addSem n k).l1 = c.l1 := rfl
@[simp] theorem Core.setSlot_ctxs (c : Core) (n : Nat) (v : Slot) : (c.setSlot n v).ctxs = c.ctxs := rfl
@[simp] theorem Core.setSlot_sems (c : Core) (n : Nat) (v : Slot) : (c.setSlot n v).sems = c.sems := rfl
@[simp] theorem Core.setSlot_relSig (c : Core) (n : Nat) (v : Slot) : (c.setSlot n v).relSig = c.relSig := rfl
@[simp] theorem Core.setSlot_slotDom (c : Core) (n : Nat) (v : Slot) : (c.setSlot n v).slotDom = c.slotDom := rfl
@[simp] theorem Core.setSlot_chans (c : Core) (n : Nat) (v : Slot) : (c.setSlot n v).chans = c.chans := rfl
@[simp] theorem Core.setSlot_matrix (c : Core) (n : Nat) (v : Slot) : (c.setSlot n v).matrix = c.matrix := rfl
@[simp] theorem Core.setSlot_tlb (c : Core) (n : Nat) (v : Slot) : (c.setSlot n v).tlb = c.tlb := rfl
@[simp] theorem Core.setSlot_trackers (c : Core) (n : Nat) (v : Slot) : (c.setSlot n v).trackers = c.trackers := rfl
@[simp] theorem Core.setSlot_fseq (c : Core) (n : Nat) (v : Slot) : (c.setSlot n v).fseq = c.fseq := rfl
@[simp] theorem Core.setSlot_gen (c : Core) (n : Nat) (v : Slot) : (c.setSlot n v).gen = c.gen := rfl
@[simp] theorem Core.setSlot_copies (c : Core) (n : Nat) (v : Slot) : (c.setSlot n v).copies = c.copies := rfl
@[simp] theorem Core.setSlot_mrg (c : Core) (n : Nat) (v : Slot) : (c.setSlot n v).mrg = c.mrg := rfl
@[simp] theorem Core.setSlot_pdsd (c : Core) (n : Nat) (v : Slot) : (c.setSlot n v).pdsd = c.pdsd := rfl
@[simp] theorem Core.setSlot_pdct (c : Core) (n : Nat) (v : Slot) : (c.setSlot n v).pdct = c.pdct := rfl
@[simp] theorem Core.setSlot_pcntCap (c : Core) (n : Nat) (v : Slot) : (c.setSlot n v).pcntCap = c.pcntCap := rfl
@[simp] theorem Core.setSlot_pcntRply (c : Core) (n : Nat) (v : Slot) : (c.setSlot n v).pcntRply = c.pcntRply := rfl
@[simp] theorem Core.setSlot_pcntMcnf (c : Core) (n : Nat) (v : Slot) : (c.setSlot n v).pcntMcnf = c.pcntMcnf := rfl
@[simp] theorem Core.setSlot_pcntAbnd (c : Core) (n : Nat) (v : Slot) : (c.setSlot n v).pcntAbnd = c.pcntAbnd := rfl
@[simp] theorem Core.setSlot_recvq (c : Core) (n : Nat) (v : Slot) : (c.setSlot n v).recvq = c.recvq := rfl
@[simp] theorem Core.setSlot_mqoa (c : Core) (n : Nat) (v : Slot) : (c.setSlot n v).mqoa = c.mqoa := rfl
@[simp] theorem Core.setSlot_mqosSize (c : Core) (n : Nat) (v : Slot) : (c.setSlot n v).mqosSize = c.mqosSize := rfl
@[simp] theorem Core.setSlot_mqosSpill (c : Core) (n : Nat) (v : Slot) : (c.setSlot n v).mqosSpill = c.mqosSpill := rfl
@[simp] theorem Core.setSlot_ovq (c : Core) (n : Nat) (v : Slot) : (c.setSlot n v).ovq = c.ovq := rfl
@[simp] theorem Core.setSlot_msgSent (c : Core) (n : Nat) (v : Slot) : (c.setSlot n v).msgSent = c.msgSent := rfl
@[simp] theorem Core.setSlot_msgRecv (c : Core) (n : Nat) (v : Slot) : (c.setSlot n v).msgRecv = c.msgRecv := rfl
@[simp] theorem Core.setSlot_rkcy (c : Core) (n : Nat) (v : Slot) : (c.setSlot n v).rkcy = c.rkcy := rfl
@[simp] theorem Core.setSlot_rkms (c : Core) (n : Nat) (v : Slot) : (c.setSlot n v).rkms = c.rkms := rfl
@[simp] theorem Core.setSlot_req (c : Core) (n : Nat) (v : Slot) : (c.setSlot n v).req = c.req := rfl
@[simp] theorem Core.setSlot_dlc (c : Core) (n : Nat) (v : Slot) : (c.setSlot n v).dlc = c.dlc := rfl
@[simp] theorem Core.setSlot_stopped (c : Core) (n : Nat) (v : Slot) : (c.setSlot n v).stopped = c.stopped := rfl
@[simp] theorem Core.setSlot_task (c : Core) (n : Nat) (v : Slot) : (c.setSlot n v).task = c.task := rfl
@[simp] theorem Core.setSlot_saving (c : Core) (n : Nat) (v : Slot) : (c.setSlot n v).saving = c.saving := rfl
@[simp] theorem Core.setSlot_saveSlots (c : Core) (n : Nat) (v : Slot) : (c.setSlot n v).saveSlots = c.saveSlots := rfl
@[simp] theorem Core.setSlot_saveMask (c : Core) (n : Nat) (v : Slot) : (c.setSlot n v).saveMask = c.saveMask := rfl
@[simp] theorem Core.setSlot_drains (c : Core) (n : Nat) (v : Slot) : (c.setSlot n v).drains = c.drains := rfl
@[simp] theorem Core.setSlot_phase (c : Core) (n : Nat) (v : Slot) : (c.setSlot n v).phase = c.phase := rfl
@[simp] theorem Core.setSlot_pastPhases (c : Core) (n : Nat) (v : Slot) : (c.setSlot n v).pastPhases = c.pastPhases := rfl
@[simp] theorem Core.setSlot_lateCount (c : Core) (n : Nat) (v : Slot) : (c.setSlot n v).lateCount = c.lateCount := rfl
@[simp] theorem Core.setSlot_binding (c : Core) (n : Nat) (v : Slot) : (c.setSlot n v).binding = c.binding := rfl
@[simp] theorem Core.setSlot_conflict (c : Core) (n : Nat) (v : Slot) : (c.setSlot n v).conflict = c.conflict := rfl
@[simp] theorem Core.setSlot_faults (c : Core) (n : Nat) (v : Slot) : (c.setSlot n v).faults = c.faults := rfl
@[simp] theorem Core.setSlot_semSets (c : Core) (n : Nat) (v : Slot) : (c.setSlot n v).semSets = c.semSets := rfl
@[simp] theorem Core.setSlot_semAdds (c : Core) (n : Nat) (v : Slot) : (c.setSlot n v).semAdds = c.semAdds := rfl
@[simp] theorem Core.setSlot_lastTurn (c : Core) (n : Nat) (v : Slot) : (c.setSlot n v).lastTurn = c.lastTurn := rfl
@[simp] theorem Core.setSlot_l1 (c : Core) (n : Nat) (v : Slot) : (c.setSlot n v).l1 = c.l1 := rfl
@[simp] theorem Core.setChan_ctxs (c : Core) (n : Nat) (v : Channel) : (c.setChan n v).ctxs = c.ctxs := rfl
@[simp] theorem Core.setChan_sems (c : Core) (n : Nat) (v : Channel) : (c.setChan n v).sems = c.sems := rfl
@[simp] theorem Core.setChan_relSig (c : Core) (n : Nat) (v : Channel) : (c.setChan n v).relSig = c.relSig := rfl
@[simp] theorem Core.setChan_slots (c : Core) (n : Nat) (v : Channel) : (c.setChan n v).slots = c.slots := rfl
@[simp] theorem Core.setChan_slotDom (c : Core) (n : Nat) (v : Channel) : (c.setChan n v).slotDom = c.slotDom := rfl
@[simp] theorem Core.setChan_matrix (c : Core) (n : Nat) (v : Channel) : (c.setChan n v).matrix = c.matrix := rfl
@[simp] theorem Core.setChan_tlb (c : Core) (n : Nat) (v : Channel) : (c.setChan n v).tlb = c.tlb := rfl
@[simp] theorem Core.setChan_trackers (c : Core) (n : Nat) (v : Channel) : (c.setChan n v).trackers = c.trackers := rfl
@[simp] theorem Core.setChan_fseq (c : Core) (n : Nat) (v : Channel) : (c.setChan n v).fseq = c.fseq := rfl
@[simp] theorem Core.setChan_gen (c : Core) (n : Nat) (v : Channel) : (c.setChan n v).gen = c.gen := rfl
@[simp] theorem Core.setChan_copies (c : Core) (n : Nat) (v : Channel) : (c.setChan n v).copies = c.copies := rfl
@[simp] theorem Core.setChan_mrg (c : Core) (n : Nat) (v : Channel) : (c.setChan n v).mrg = c.mrg := rfl
@[simp] theorem Core.setChan_pdsd (c : Core) (n : Nat) (v : Channel) : (c.setChan n v).pdsd = c.pdsd := rfl
@[simp] theorem Core.setChan_pdct (c : Core) (n : Nat) (v : Channel) : (c.setChan n v).pdct = c.pdct := rfl
@[simp] theorem Core.setChan_pcntCap (c : Core) (n : Nat) (v : Channel) : (c.setChan n v).pcntCap = c.pcntCap := rfl
@[simp] theorem Core.setChan_pcntRply (c : Core) (n : Nat) (v : Channel) : (c.setChan n v).pcntRply = c.pcntRply := rfl
@[simp] theorem Core.setChan_pcntMcnf (c : Core) (n : Nat) (v : Channel) : (c.setChan n v).pcntMcnf = c.pcntMcnf := rfl
@[simp] theorem Core.setChan_pcntAbnd (c : Core) (n : Nat) (v : Channel) : (c.setChan n v).pcntAbnd = c.pcntAbnd := rfl
@[simp] theorem Core.setChan_recvq (c : Core) (n : Nat) (v : Channel) : (c.setChan n v).recvq = c.recvq := rfl
@[simp] theorem Core.setChan_mqoa (c : Core) (n : Nat) (v : Channel) : (c.setChan n v).mqoa = c.mqoa := rfl
@[simp] theorem Core.setChan_mqosSize (c : Core) (n : Nat) (v : Channel) : (c.setChan n v).mqosSize = c.mqosSize := rfl
@[simp] theorem Core.setChan_mqosSpill (c : Core) (n : Nat) (v : Channel) : (c.setChan n v).mqosSpill = c.mqosSpill := rfl
@[simp] theorem Core.setChan_ovq (c : Core) (n : Nat) (v : Channel) : (c.setChan n v).ovq = c.ovq := rfl
@[simp] theorem Core.setChan_msgSent (c : Core) (n : Nat) (v : Channel) : (c.setChan n v).msgSent = c.msgSent := rfl
@[simp] theorem Core.setChan_msgRecv (c : Core) (n : Nat) (v : Channel) : (c.setChan n v).msgRecv = c.msgRecv := rfl
@[simp] theorem Core.setChan_rkcy (c : Core) (n : Nat) (v : Channel) : (c.setChan n v).rkcy = c.rkcy := rfl
@[simp] theorem Core.setChan_rkms (c : Core) (n : Nat) (v : Channel) : (c.setChan n v).rkms = c.rkms := rfl
@[simp] theorem Core.setChan_req (c : Core) (n : Nat) (v : Channel) : (c.setChan n v).req = c.req := rfl
@[simp] theorem Core.setChan_dlc (c : Core) (n : Nat) (v : Channel) : (c.setChan n v).dlc = c.dlc := rfl
@[simp] theorem Core.setChan_stopped (c : Core) (n : Nat) (v : Channel) : (c.setChan n v).stopped = c.stopped := rfl
@[simp] theorem Core.setChan_task (c : Core) (n : Nat) (v : Channel) : (c.setChan n v).task = c.task := rfl
@[simp] theorem Core.setChan_saving (c : Core) (n : Nat) (v : Channel) : (c.setChan n v).saving = c.saving := rfl
@[simp] theorem Core.setChan_saveSlots (c : Core) (n : Nat) (v : Channel) : (c.setChan n v).saveSlots = c.saveSlots := rfl
@[simp] theorem Core.setChan_saveMask (c : Core) (n : Nat) (v : Channel) : (c.setChan n v).saveMask = c.saveMask := rfl
@[simp] theorem Core.setChan_drains (c : Core) (n : Nat) (v : Channel) : (c.setChan n v).drains = c.drains := rfl
@[simp] theorem Core.setChan_phase (c : Core) (n : Nat) (v : Channel) : (c.setChan n v).phase = c.phase := rfl
@[simp] theorem Core.setChan_pastPhases (c : Core) (n : Nat) (v : Channel) : (c.setChan n v).pastPhases = c.pastPhases := rfl
@[simp] theorem Core.setChan_lateCount (c : Core) (n : Nat) (v : Channel) : (c.setChan n v).lateCount = c.lateCount := rfl
@[simp] theorem Core.setChan_binding (c : Core) (n : Nat) (v : Channel) : (c.setChan n v).binding = c.binding := rfl
@[simp] theorem Core.setChan_conflict (c : Core) (n : Nat) (v : Channel) : (c.setChan n v).conflict = c.conflict := rfl
@[simp] theorem Core.setChan_faults (c : Core) (n : Nat) (v : Channel) : (c.setChan n v).faults = c.faults := rfl
@[simp] theorem Core.setChan_semSets (c : Core) (n : Nat) (v : Channel) : (c.setChan n v).semSets = c.semSets := rfl
@[simp] theorem Core.setChan_semAdds (c : Core) (n : Nat) (v : Channel) : (c.setChan n v).semAdds = c.semAdds := rfl
@[simp] theorem Core.setChan_lastTurn (c : Core) (n : Nat) (v : Channel) : (c.setChan n v).lastTurn = c.lastTurn := rfl
@[simp] theorem Core.setChan_l1 (c : Core) (n : Nat) (v : Channel) : (c.setChan n v).l1 = c.l1 := rfl

/-! ## Updates of a context, field by field -/

@[simp] theorem Ctx.writeV_live (c : Ctx) (n : Nat) (v : Line) : (c.writeV n v).live = c.live := rfl
@[simp] theorem Ctx.writeV_level (c : Ctx) (n : Nat) (v : Line) : (c.writeV n v).level = c.level := rfl
@[simp] theorem Ctx.writeV_pcc (c : Ctx) (n : Nat) (v : Line) : (c.writeV n v).pcc = c.pcc := rfl
@[simp] theorem Ctx.writeV_pcOut (c : Ctx) (n : Nat) (v : Line) : (c.writeV n v).pcOut = c.pcOut := rfl
@[simp] theorem Ctx.writeV_slot (c : Ctx) (n : Nat) (v : Line) : (c.writeV n v).slot = c.slot := rfl
@[simp] theorem Ctx.writeV_blk (c : Ctx) (n : Nat) (v : Line) : (c.writeV n v).blk = c.blk := rfl
@[simp] theorem Ctx.writeV_waitTaken (c : Ctx) (n : Nat) (v : Line) : (c.writeV n v).waitTaken = c.waitTaken := rfl
@[simp] theorem Ctx.writeV_waiting (c : Ctx) (n : Nat) (v : Line) : (c.writeV n v).waiting = c.waiting := rfl
@[simp] theorem Ctx.writeV_x (c : Ctx) (n : Nat) (v : Line) : (c.writeV n v).x = c.x := rfl
@[simp] theorem Ctx.writeV_k (c : Ctx) (n : Nat) (v : Line) : (c.writeV n v).k = c.k := rfl
@[simp] theorem Ctx.writeV_p (c : Ctx) (n : Nat) (v : Line) : (c.writeV n v).p = c.p := rfl
@[simp] theorem Ctx.writeV_lq (c : Ctx) (n : Nat) (v : Line) : (c.writeV n v).lq = c.lq := rfl
@[simp] theorem Ctx.writeV_sq (c : Ctx) (n : Nat) (v : Line) : (c.writeV n v).sq = c.sq := rfl
@[simp] theorem Ctx.writeV_bankDom (c : Ctx) (n : Nat) (v : Line) : (c.writeV n v).bankDom = c.bankDom := rfl
@[simp] theorem Ctx.writeV_cdom (c : Ctx) (n : Nat) (v : Line) : (c.writeV n v).cdom = c.cdom := rfl
@[simp] theorem Ctx.writeV_upv (c : Ctx) (n : Nat) (v : Line) : (c.writeV n v).upv = c.upv := rfl
@[simp] theorem Ctx.writeV_upn (c : Ctx) (n : Nat) (v : Line) : (c.writeV n v).upn = c.upn := rfl
@[simp] theorem Ctx.writeV_upc (c : Ctx) (n : Nat) (v : Line) : (c.writeV n v).upc = c.upc := rfl
@[simp] theorem Ctx.writeV_upa (c : Ctx) (n : Nat) (v : Line) : (c.writeV n v).upa = c.upa := rfl
@[simp] theorem Ctx.writeV_upi (c : Ctx) (n : Nat) (v : Line) : (c.writeV n v).upi = c.upi := rfl
@[simp] theorem Ctx.writeV_upk (c : Ctx) (n : Nat) (v : Line) : (c.writeV n v).upk = c.upk := rfl
@[simp] theorem Ctx.writeV_bstat (c : Ctx) (n : Nat) (v : Line) : (c.writeV n v).bstat = c.bstat := rfl
@[simp] theorem Ctx.writeV_prgn (c : Ctx) (n : Nat) (v : Line) : (c.writeV n v).prgn = c.prgn := rfl
@[simp] theorem Ctx.writeV_pres (c : Ctx) (n : Nat) (v : Line) : (c.writeV n v).pres = c.pres := rfl
@[simp] theorem Ctx.writeV_fstat (c : Ctx) (n : Nat) (v : Line) : (c.writeV n v).fstat = c.fstat := rfl
@[simp] theorem Ctx.writeV_inex (c : Ctx) (n : Nat) (v : Line) : (c.writeV n v).inex = c.inex := rfl
@[simp] theorem Ctx.writeV_twid (c : Ctx) (n : Nat) (v : Line) : (c.writeV n v).twid = c.twid := rfl
@[simp] theorem Ctx.writeV_tinf (c : Ctx) (n : Nat) (v : Line) : (c.writeV n v).tinf = c.tinf := rfl
@[simp] theorem Ctx.writeV_sup (c : Ctx) (n : Nat) (v : Line) : (c.writeV n v).sup = c.sup := rfl
@[simp] theorem Ctx.writeV_hyp (c : Ctx) (n : Nat) (v : Line) : (c.writeV n v).hyp = c.hyp := rfl
@[simp] theorem Ctx.writeV_budg (c : Ctx) (n : Nat) (v : Line) : (c.writeV n v).budg = c.budg := rfl
@[simp] theorem Ctx.writeV_dtLock (c : Ctx) (n : Nat) (v : Line) : (c.writeV n v).dtLock = c.dtLock := rfl
@[simp] theorem Ctx.writeV_dtFrac (c : Ctx) (n : Nat) (v : Line) : (c.writeV n v).dtFrac = c.dtFrac := rfl
@[simp] theorem Ctx.writeV_region (c : Ctx) (n : Nat) (v : Line) : (c.writeV n v).region = c.region := rfl
@[simp] theorem Ctx.writeV_pend (c : Ctx) (n : Nat) (v : Line) : (c.writeV n v).pend = c.pend := rfl
@[simp] theorem Ctx.writeV_sb (c : Ctx) (n : Nat) (v : Line) : (c.writeV n v).sb = c.sb := rfl
@[simp] theorem Ctx.writeV_acqs (c : Ctx) (n : Nat) (v : Line) : (c.writeV n v).acqs = c.acqs := rfl
@[simp] theorem Ctx.writeV_obs (c : Ctx) (n : Nat) (v : Line) : (c.writeV n v).obs = c.obs := rfl
@[simp] theorem Ctx.writeV_seq (c : Ctx) (n : Nat) (v : Line) : (c.writeV n v).seq = c.seq := rfl
@[simp] theorem Ctx.writeV_mon (c : Ctx) (n : Nat) (v : Line) : (c.writeV n v).mon = c.mon := rfl
@[simp] theorem Ctx.writeV_busy (c : Ctx) (n : Nat) (v : Line) : (c.writeV n v).busy = c.busy := rfl
@[simp] theorem Ctx.writeV_sfault (c : Ctx) (n : Nat) (v : Line) : (c.writeV n v).sfault = c.sfault := rfl
@[simp] theorem Ctx.writeV_forker (c : Ctx) (n : Nat) (v : Line) : (c.writeV n v).forker = c.forker := rfl
@[simp] theorem Ctx.writeV_fences (c : Ctx) (n : Nat) (v : Line) : (c.writeV n v).fences = c.fences := rfl
@[simp] theorem Ctx.writeV_fpart (c : Ctx) (n : Nat) (v : Line) : (c.writeV n v).fpart = c.fpart := rfl
@[simp] theorem Ctx.writeV_dtSeen (c : Ctx) (n : Nat) (v : Line) : (c.writeV n v).dtSeen = c.dtSeen := rfl
@[simp] theorem Ctx.writeV_missEA (c : Ctx) (n : Nat) (v : Line) : (c.writeV n v).missEA = c.missEA := rfl
@[simp] theorem Ctx.writeK_live (c : Ctx) (n : Nat) (v : BitVec 32) : (c.writeK n v).live = c.live := rfl
@[simp] theorem Ctx.writeK_level (c : Ctx) (n : Nat) (v : BitVec 32) : (c.writeK n v).level = c.level := rfl
@[simp] theorem Ctx.writeK_pcc (c : Ctx) (n : Nat) (v : BitVec 32) : (c.writeK n v).pcc = c.pcc := rfl
@[simp] theorem Ctx.writeK_pcOut (c : Ctx) (n : Nat) (v : BitVec 32) : (c.writeK n v).pcOut = c.pcOut := rfl
@[simp] theorem Ctx.writeK_slot (c : Ctx) (n : Nat) (v : BitVec 32) : (c.writeK n v).slot = c.slot := rfl
@[simp] theorem Ctx.writeK_blk (c : Ctx) (n : Nat) (v : BitVec 32) : (c.writeK n v).blk = c.blk := rfl
@[simp] theorem Ctx.writeK_waitTaken (c : Ctx) (n : Nat) (v : BitVec 32) : (c.writeK n v).waitTaken = c.waitTaken := rfl
@[simp] theorem Ctx.writeK_waiting (c : Ctx) (n : Nat) (v : BitVec 32) : (c.writeK n v).waiting = c.waiting := rfl
@[simp] theorem Ctx.writeK_x (c : Ctx) (n : Nat) (v : BitVec 32) : (c.writeK n v).x = c.x := rfl
@[simp] theorem Ctx.writeK_v (c : Ctx) (n : Nat) (v : BitVec 32) : (c.writeK n v).v = c.v := rfl
@[simp] theorem Ctx.writeK_p (c : Ctx) (n : Nat) (v : BitVec 32) : (c.writeK n v).p = c.p := rfl
@[simp] theorem Ctx.writeK_lq (c : Ctx) (n : Nat) (v : BitVec 32) : (c.writeK n v).lq = c.lq := rfl
@[simp] theorem Ctx.writeK_sq (c : Ctx) (n : Nat) (v : BitVec 32) : (c.writeK n v).sq = c.sq := rfl
@[simp] theorem Ctx.writeK_bankDom (c : Ctx) (n : Nat) (v : BitVec 32) : (c.writeK n v).bankDom = c.bankDom := rfl
@[simp] theorem Ctx.writeK_cdom (c : Ctx) (n : Nat) (v : BitVec 32) : (c.writeK n v).cdom = c.cdom := rfl
@[simp] theorem Ctx.writeK_upv (c : Ctx) (n : Nat) (v : BitVec 32) : (c.writeK n v).upv = c.upv := rfl
@[simp] theorem Ctx.writeK_upn (c : Ctx) (n : Nat) (v : BitVec 32) : (c.writeK n v).upn = c.upn := rfl
@[simp] theorem Ctx.writeK_upc (c : Ctx) (n : Nat) (v : BitVec 32) : (c.writeK n v).upc = c.upc := rfl
@[simp] theorem Ctx.writeK_upa (c : Ctx) (n : Nat) (v : BitVec 32) : (c.writeK n v).upa = c.upa := rfl
@[simp] theorem Ctx.writeK_upi (c : Ctx) (n : Nat) (v : BitVec 32) : (c.writeK n v).upi = c.upi := rfl
@[simp] theorem Ctx.writeK_upk (c : Ctx) (n : Nat) (v : BitVec 32) : (c.writeK n v).upk = c.upk := rfl
@[simp] theorem Ctx.writeK_bstat (c : Ctx) (n : Nat) (v : BitVec 32) : (c.writeK n v).bstat = c.bstat := rfl
@[simp] theorem Ctx.writeK_prgn (c : Ctx) (n : Nat) (v : BitVec 32) : (c.writeK n v).prgn = c.prgn := rfl
@[simp] theorem Ctx.writeK_pres (c : Ctx) (n : Nat) (v : BitVec 32) : (c.writeK n v).pres = c.pres := rfl
@[simp] theorem Ctx.writeK_fstat (c : Ctx) (n : Nat) (v : BitVec 32) : (c.writeK n v).fstat = c.fstat := rfl
@[simp] theorem Ctx.writeK_inex (c : Ctx) (n : Nat) (v : BitVec 32) : (c.writeK n v).inex = c.inex := rfl
@[simp] theorem Ctx.writeK_twid (c : Ctx) (n : Nat) (v : BitVec 32) : (c.writeK n v).twid = c.twid := rfl
@[simp] theorem Ctx.writeK_tinf (c : Ctx) (n : Nat) (v : BitVec 32) : (c.writeK n v).tinf = c.tinf := rfl
@[simp] theorem Ctx.writeK_sup (c : Ctx) (n : Nat) (v : BitVec 32) : (c.writeK n v).sup = c.sup := rfl
@[simp] theorem Ctx.writeK_hyp (c : Ctx) (n : Nat) (v : BitVec 32) : (c.writeK n v).hyp = c.hyp := rfl
@[simp] theorem Ctx.writeK_budg (c : Ctx) (n : Nat) (v : BitVec 32) : (c.writeK n v).budg = c.budg := rfl
@[simp] theorem Ctx.writeK_dtLock (c : Ctx) (n : Nat) (v : BitVec 32) : (c.writeK n v).dtLock = c.dtLock := rfl
@[simp] theorem Ctx.writeK_dtFrac (c : Ctx) (n : Nat) (v : BitVec 32) : (c.writeK n v).dtFrac = c.dtFrac := rfl
@[simp] theorem Ctx.writeK_region (c : Ctx) (n : Nat) (v : BitVec 32) : (c.writeK n v).region = c.region := rfl
@[simp] theorem Ctx.writeK_pend (c : Ctx) (n : Nat) (v : BitVec 32) : (c.writeK n v).pend = c.pend := rfl
@[simp] theorem Ctx.writeK_sb (c : Ctx) (n : Nat) (v : BitVec 32) : (c.writeK n v).sb = c.sb := rfl
@[simp] theorem Ctx.writeK_acqs (c : Ctx) (n : Nat) (v : BitVec 32) : (c.writeK n v).acqs = c.acqs := rfl
@[simp] theorem Ctx.writeK_obs (c : Ctx) (n : Nat) (v : BitVec 32) : (c.writeK n v).obs = c.obs := rfl
@[simp] theorem Ctx.writeK_seq (c : Ctx) (n : Nat) (v : BitVec 32) : (c.writeK n v).seq = c.seq := rfl
@[simp] theorem Ctx.writeK_mon (c : Ctx) (n : Nat) (v : BitVec 32) : (c.writeK n v).mon = c.mon := rfl
@[simp] theorem Ctx.writeK_busy (c : Ctx) (n : Nat) (v : BitVec 32) : (c.writeK n v).busy = c.busy := rfl
@[simp] theorem Ctx.writeK_sfault (c : Ctx) (n : Nat) (v : BitVec 32) : (c.writeK n v).sfault = c.sfault := rfl
@[simp] theorem Ctx.writeK_forker (c : Ctx) (n : Nat) (v : BitVec 32) : (c.writeK n v).forker = c.forker := rfl
@[simp] theorem Ctx.writeK_fences (c : Ctx) (n : Nat) (v : BitVec 32) : (c.writeK n v).fences = c.fences := rfl
@[simp] theorem Ctx.writeK_fpart (c : Ctx) (n : Nat) (v : BitVec 32) : (c.writeK n v).fpart = c.fpart := rfl
@[simp] theorem Ctx.writeK_dtSeen (c : Ctx) (n : Nat) (v : BitVec 32) : (c.writeK n v).dtSeen = c.dtSeen := rfl
@[simp] theorem Ctx.writeK_missEA (c : Ctx) (n : Nat) (v : BitVec 32) : (c.writeK n v).missEA = c.missEA := rfl
@[simp] theorem Ctx.putLq_live (c : Ctx) (q : Nat) (l : List QEntry) : (c.putLq q l).live = c.live := rfl
@[simp] theorem Ctx.putLq_level (c : Ctx) (q : Nat) (l : List QEntry) : (c.putLq q l).level = c.level := rfl
@[simp] theorem Ctx.putLq_pcc (c : Ctx) (q : Nat) (l : List QEntry) : (c.putLq q l).pcc = c.pcc := rfl
@[simp] theorem Ctx.putLq_pcOut (c : Ctx) (q : Nat) (l : List QEntry) : (c.putLq q l).pcOut = c.pcOut := rfl
@[simp] theorem Ctx.putLq_slot (c : Ctx) (q : Nat) (l : List QEntry) : (c.putLq q l).slot = c.slot := rfl
@[simp] theorem Ctx.putLq_blk (c : Ctx) (q : Nat) (l : List QEntry) : (c.putLq q l).blk = c.blk := rfl
@[simp] theorem Ctx.putLq_waitTaken (c : Ctx) (q : Nat) (l : List QEntry) : (c.putLq q l).waitTaken = c.waitTaken := rfl
@[simp] theorem Ctx.putLq_waiting (c : Ctx) (q : Nat) (l : List QEntry) : (c.putLq q l).waiting = c.waiting := rfl
@[simp] theorem Ctx.putLq_x (c : Ctx) (q : Nat) (l : List QEntry) : (c.putLq q l).x = c.x := rfl
@[simp] theorem Ctx.putLq_v (c : Ctx) (q : Nat) (l : List QEntry) : (c.putLq q l).v = c.v := rfl
@[simp] theorem Ctx.putLq_k (c : Ctx) (q : Nat) (l : List QEntry) : (c.putLq q l).k = c.k := rfl
@[simp] theorem Ctx.putLq_p (c : Ctx) (q : Nat) (l : List QEntry) : (c.putLq q l).p = c.p := rfl
@[simp] theorem Ctx.putLq_sq (c : Ctx) (q : Nat) (l : List QEntry) : (c.putLq q l).sq = c.sq := rfl
@[simp] theorem Ctx.putLq_bankDom (c : Ctx) (q : Nat) (l : List QEntry) : (c.putLq q l).bankDom = c.bankDom := rfl
@[simp] theorem Ctx.putLq_cdom (c : Ctx) (q : Nat) (l : List QEntry) : (c.putLq q l).cdom = c.cdom := rfl
@[simp] theorem Ctx.putLq_upv (c : Ctx) (q : Nat) (l : List QEntry) : (c.putLq q l).upv = c.upv := rfl
@[simp] theorem Ctx.putLq_upn (c : Ctx) (q : Nat) (l : List QEntry) : (c.putLq q l).upn = c.upn := rfl
@[simp] theorem Ctx.putLq_upc (c : Ctx) (q : Nat) (l : List QEntry) : (c.putLq q l).upc = c.upc := rfl
@[simp] theorem Ctx.putLq_upa (c : Ctx) (q : Nat) (l : List QEntry) : (c.putLq q l).upa = c.upa := rfl
@[simp] theorem Ctx.putLq_upi (c : Ctx) (q : Nat) (l : List QEntry) : (c.putLq q l).upi = c.upi := rfl
@[simp] theorem Ctx.putLq_upk (c : Ctx) (q : Nat) (l : List QEntry) : (c.putLq q l).upk = c.upk := rfl
@[simp] theorem Ctx.putLq_bstat (c : Ctx) (q : Nat) (l : List QEntry) : (c.putLq q l).bstat = c.bstat := rfl
@[simp] theorem Ctx.putLq_prgn (c : Ctx) (q : Nat) (l : List QEntry) : (c.putLq q l).prgn = c.prgn := rfl
@[simp] theorem Ctx.putLq_pres (c : Ctx) (q : Nat) (l : List QEntry) : (c.putLq q l).pres = c.pres := rfl
@[simp] theorem Ctx.putLq_fstat (c : Ctx) (q : Nat) (l : List QEntry) : (c.putLq q l).fstat = c.fstat := rfl
@[simp] theorem Ctx.putLq_inex (c : Ctx) (q : Nat) (l : List QEntry) : (c.putLq q l).inex = c.inex := rfl
@[simp] theorem Ctx.putLq_twid (c : Ctx) (q : Nat) (l : List QEntry) : (c.putLq q l).twid = c.twid := rfl
@[simp] theorem Ctx.putLq_tinf (c : Ctx) (q : Nat) (l : List QEntry) : (c.putLq q l).tinf = c.tinf := rfl
@[simp] theorem Ctx.putLq_sup (c : Ctx) (q : Nat) (l : List QEntry) : (c.putLq q l).sup = c.sup := rfl
@[simp] theorem Ctx.putLq_hyp (c : Ctx) (q : Nat) (l : List QEntry) : (c.putLq q l).hyp = c.hyp := rfl
@[simp] theorem Ctx.putLq_budg (c : Ctx) (q : Nat) (l : List QEntry) : (c.putLq q l).budg = c.budg := rfl
@[simp] theorem Ctx.putLq_dtLock (c : Ctx) (q : Nat) (l : List QEntry) : (c.putLq q l).dtLock = c.dtLock := rfl
@[simp] theorem Ctx.putLq_dtFrac (c : Ctx) (q : Nat) (l : List QEntry) : (c.putLq q l).dtFrac = c.dtFrac := rfl
@[simp] theorem Ctx.putLq_region (c : Ctx) (q : Nat) (l : List QEntry) : (c.putLq q l).region = c.region := rfl
@[simp] theorem Ctx.putLq_pend (c : Ctx) (q : Nat) (l : List QEntry) : (c.putLq q l).pend = c.pend := rfl
@[simp] theorem Ctx.putLq_sb (c : Ctx) (q : Nat) (l : List QEntry) : (c.putLq q l).sb = c.sb := rfl
@[simp] theorem Ctx.putLq_acqs (c : Ctx) (q : Nat) (l : List QEntry) : (c.putLq q l).acqs = c.acqs := rfl
@[simp] theorem Ctx.putLq_obs (c : Ctx) (q : Nat) (l : List QEntry) : (c.putLq q l).obs = c.obs := rfl
@[simp] theorem Ctx.putLq_seq (c : Ctx) (q : Nat) (l : List QEntry) : (c.putLq q l).seq = c.seq := rfl
@[simp] theorem Ctx.putLq_mon (c : Ctx) (q : Nat) (l : List QEntry) : (c.putLq q l).mon = c.mon := rfl
@[simp] theorem Ctx.putLq_busy (c : Ctx) (q : Nat) (l : List QEntry) : (c.putLq q l).busy = c.busy := rfl
@[simp] theorem Ctx.putLq_sfault (c : Ctx) (q : Nat) (l : List QEntry) : (c.putLq q l).sfault = c.sfault := rfl
@[simp] theorem Ctx.putLq_forker (c : Ctx) (q : Nat) (l : List QEntry) : (c.putLq q l).forker = c.forker := rfl
@[simp] theorem Ctx.putLq_fences (c : Ctx) (q : Nat) (l : List QEntry) : (c.putLq q l).fences = c.fences := rfl
@[simp] theorem Ctx.putLq_fpart (c : Ctx) (q : Nat) (l : List QEntry) : (c.putLq q l).fpart = c.fpart := rfl
@[simp] theorem Ctx.putLq_dtSeen (c : Ctx) (q : Nat) (l : List QEntry) : (c.putLq q l).dtSeen = c.dtSeen := rfl
@[simp] theorem Ctx.putLq_missEA (c : Ctx) (q : Nat) (l : List QEntry) : (c.putLq q l).missEA = c.missEA := rfl
@[simp] theorem Ctx.putSq_live (c : Ctx) (q : Nat) (l : List QEntry) : (c.putSq q l).live = c.live := rfl
@[simp] theorem Ctx.putSq_level (c : Ctx) (q : Nat) (l : List QEntry) : (c.putSq q l).level = c.level := rfl
@[simp] theorem Ctx.putSq_pcc (c : Ctx) (q : Nat) (l : List QEntry) : (c.putSq q l).pcc = c.pcc := rfl
@[simp] theorem Ctx.putSq_pcOut (c : Ctx) (q : Nat) (l : List QEntry) : (c.putSq q l).pcOut = c.pcOut := rfl
@[simp] theorem Ctx.putSq_slot (c : Ctx) (q : Nat) (l : List QEntry) : (c.putSq q l).slot = c.slot := rfl
@[simp] theorem Ctx.putSq_blk (c : Ctx) (q : Nat) (l : List QEntry) : (c.putSq q l).blk = c.blk := rfl
@[simp] theorem Ctx.putSq_waitTaken (c : Ctx) (q : Nat) (l : List QEntry) : (c.putSq q l).waitTaken = c.waitTaken := rfl
@[simp] theorem Ctx.putSq_waiting (c : Ctx) (q : Nat) (l : List QEntry) : (c.putSq q l).waiting = c.waiting := rfl
@[simp] theorem Ctx.putSq_x (c : Ctx) (q : Nat) (l : List QEntry) : (c.putSq q l).x = c.x := rfl
@[simp] theorem Ctx.putSq_v (c : Ctx) (q : Nat) (l : List QEntry) : (c.putSq q l).v = c.v := rfl
@[simp] theorem Ctx.putSq_k (c : Ctx) (q : Nat) (l : List QEntry) : (c.putSq q l).k = c.k := rfl
@[simp] theorem Ctx.putSq_p (c : Ctx) (q : Nat) (l : List QEntry) : (c.putSq q l).p = c.p := rfl
@[simp] theorem Ctx.putSq_lq (c : Ctx) (q : Nat) (l : List QEntry) : (c.putSq q l).lq = c.lq := rfl
@[simp] theorem Ctx.putSq_bankDom (c : Ctx) (q : Nat) (l : List QEntry) : (c.putSq q l).bankDom = c.bankDom := rfl
@[simp] theorem Ctx.putSq_cdom (c : Ctx) (q : Nat) (l : List QEntry) : (c.putSq q l).cdom = c.cdom := rfl
@[simp] theorem Ctx.putSq_upv (c : Ctx) (q : Nat) (l : List QEntry) : (c.putSq q l).upv = c.upv := rfl
@[simp] theorem Ctx.putSq_upn (c : Ctx) (q : Nat) (l : List QEntry) : (c.putSq q l).upn = c.upn := rfl
@[simp] theorem Ctx.putSq_upc (c : Ctx) (q : Nat) (l : List QEntry) : (c.putSq q l).upc = c.upc := rfl
@[simp] theorem Ctx.putSq_upa (c : Ctx) (q : Nat) (l : List QEntry) : (c.putSq q l).upa = c.upa := rfl
@[simp] theorem Ctx.putSq_upi (c : Ctx) (q : Nat) (l : List QEntry) : (c.putSq q l).upi = c.upi := rfl
@[simp] theorem Ctx.putSq_upk (c : Ctx) (q : Nat) (l : List QEntry) : (c.putSq q l).upk = c.upk := rfl
@[simp] theorem Ctx.putSq_bstat (c : Ctx) (q : Nat) (l : List QEntry) : (c.putSq q l).bstat = c.bstat := rfl
@[simp] theorem Ctx.putSq_prgn (c : Ctx) (q : Nat) (l : List QEntry) : (c.putSq q l).prgn = c.prgn := rfl
@[simp] theorem Ctx.putSq_pres (c : Ctx) (q : Nat) (l : List QEntry) : (c.putSq q l).pres = c.pres := rfl
@[simp] theorem Ctx.putSq_fstat (c : Ctx) (q : Nat) (l : List QEntry) : (c.putSq q l).fstat = c.fstat := rfl
@[simp] theorem Ctx.putSq_inex (c : Ctx) (q : Nat) (l : List QEntry) : (c.putSq q l).inex = c.inex := rfl
@[simp] theorem Ctx.putSq_twid (c : Ctx) (q : Nat) (l : List QEntry) : (c.putSq q l).twid = c.twid := rfl
@[simp] theorem Ctx.putSq_tinf (c : Ctx) (q : Nat) (l : List QEntry) : (c.putSq q l).tinf = c.tinf := rfl
@[simp] theorem Ctx.putSq_sup (c : Ctx) (q : Nat) (l : List QEntry) : (c.putSq q l).sup = c.sup := rfl
@[simp] theorem Ctx.putSq_hyp (c : Ctx) (q : Nat) (l : List QEntry) : (c.putSq q l).hyp = c.hyp := rfl
@[simp] theorem Ctx.putSq_budg (c : Ctx) (q : Nat) (l : List QEntry) : (c.putSq q l).budg = c.budg := rfl
@[simp] theorem Ctx.putSq_dtLock (c : Ctx) (q : Nat) (l : List QEntry) : (c.putSq q l).dtLock = c.dtLock := rfl
@[simp] theorem Ctx.putSq_dtFrac (c : Ctx) (q : Nat) (l : List QEntry) : (c.putSq q l).dtFrac = c.dtFrac := rfl
@[simp] theorem Ctx.putSq_region (c : Ctx) (q : Nat) (l : List QEntry) : (c.putSq q l).region = c.region := rfl
@[simp] theorem Ctx.putSq_pend (c : Ctx) (q : Nat) (l : List QEntry) : (c.putSq q l).pend = c.pend := rfl
@[simp] theorem Ctx.putSq_sb (c : Ctx) (q : Nat) (l : List QEntry) : (c.putSq q l).sb = c.sb := rfl
@[simp] theorem Ctx.putSq_acqs (c : Ctx) (q : Nat) (l : List QEntry) : (c.putSq q l).acqs = c.acqs := rfl
@[simp] theorem Ctx.putSq_obs (c : Ctx) (q : Nat) (l : List QEntry) : (c.putSq q l).obs = c.obs := rfl
@[simp] theorem Ctx.putSq_seq (c : Ctx) (q : Nat) (l : List QEntry) : (c.putSq q l).seq = c.seq := rfl
@[simp] theorem Ctx.putSq_mon (c : Ctx) (q : Nat) (l : List QEntry) : (c.putSq q l).mon = c.mon := rfl
@[simp] theorem Ctx.putSq_busy (c : Ctx) (q : Nat) (l : List QEntry) : (c.putSq q l).busy = c.busy := rfl
@[simp] theorem Ctx.putSq_sfault (c : Ctx) (q : Nat) (l : List QEntry) : (c.putSq q l).sfault = c.sfault := rfl
@[simp] theorem Ctx.putSq_forker (c : Ctx) (q : Nat) (l : List QEntry) : (c.putSq q l).forker = c.forker := rfl
@[simp] theorem Ctx.putSq_fences (c : Ctx) (q : Nat) (l : List QEntry) : (c.putSq q l).fences = c.fences := rfl
@[simp] theorem Ctx.putSq_fpart (c : Ctx) (q : Nat) (l : List QEntry) : (c.putSq q l).fpart = c.fpart := rfl
@[simp] theorem Ctx.putSq_dtSeen (c : Ctx) (q : Nat) (l : List QEntry) : (c.putSq q l).dtSeen = c.dtSeen := rfl
@[simp] theorem Ctx.putSq_missEA (c : Ctx) (q : Nat) (l : List QEntry) : (c.putSq q l).missEA = c.missEA := rfl
@[simp] theorem Ctx.raise_live (c : Ctx) (f : BitVec 6) : (c.raise f).live = c.live := rfl
@[simp] theorem Ctx.raise_level (c : Ctx) (f : BitVec 6) : (c.raise f).level = c.level := rfl
@[simp] theorem Ctx.raise_pcc (c : Ctx) (f : BitVec 6) : (c.raise f).pcc = c.pcc := rfl
@[simp] theorem Ctx.raise_pcOut (c : Ctx) (f : BitVec 6) : (c.raise f).pcOut = c.pcOut := rfl
@[simp] theorem Ctx.raise_slot (c : Ctx) (f : BitVec 6) : (c.raise f).slot = c.slot := rfl
@[simp] theorem Ctx.raise_blk (c : Ctx) (f : BitVec 6) : (c.raise f).blk = c.blk := rfl
@[simp] theorem Ctx.raise_waitTaken (c : Ctx) (f : BitVec 6) : (c.raise f).waitTaken = c.waitTaken := rfl
@[simp] theorem Ctx.raise_waiting (c : Ctx) (f : BitVec 6) : (c.raise f).waiting = c.waiting := rfl
@[simp] theorem Ctx.raise_x (c : Ctx) (f : BitVec 6) : (c.raise f).x = c.x := rfl
@[simp] theorem Ctx.raise_v (c : Ctx) (f : BitVec 6) : (c.raise f).v = c.v := rfl
@[simp] theorem Ctx.raise_k (c : Ctx) (f : BitVec 6) : (c.raise f).k = c.k := rfl
@[simp] theorem Ctx.raise_p (c : Ctx) (f : BitVec 6) : (c.raise f).p = c.p := rfl
@[simp] theorem Ctx.raise_lq (c : Ctx) (f : BitVec 6) : (c.raise f).lq = c.lq := rfl
@[simp] theorem Ctx.raise_sq (c : Ctx) (f : BitVec 6) : (c.raise f).sq = c.sq := rfl
@[simp] theorem Ctx.raise_bankDom (c : Ctx) (f : BitVec 6) : (c.raise f).bankDom = c.bankDom := rfl
@[simp] theorem Ctx.raise_cdom (c : Ctx) (f : BitVec 6) : (c.raise f).cdom = c.cdom := rfl
@[simp] theorem Ctx.raise_upv (c : Ctx) (f : BitVec 6) : (c.raise f).upv = c.upv := rfl
@[simp] theorem Ctx.raise_upn (c : Ctx) (f : BitVec 6) : (c.raise f).upn = c.upn := rfl
@[simp] theorem Ctx.raise_upc (c : Ctx) (f : BitVec 6) : (c.raise f).upc = c.upc := rfl
@[simp] theorem Ctx.raise_upa (c : Ctx) (f : BitVec 6) : (c.raise f).upa = c.upa := rfl
@[simp] theorem Ctx.raise_upi (c : Ctx) (f : BitVec 6) : (c.raise f).upi = c.upi := rfl
@[simp] theorem Ctx.raise_upk (c : Ctx) (f : BitVec 6) : (c.raise f).upk = c.upk := rfl
@[simp] theorem Ctx.raise_bstat (c : Ctx) (f : BitVec 6) : (c.raise f).bstat = c.bstat := rfl
@[simp] theorem Ctx.raise_prgn (c : Ctx) (f : BitVec 6) : (c.raise f).prgn = c.prgn := rfl
@[simp] theorem Ctx.raise_pres (c : Ctx) (f : BitVec 6) : (c.raise f).pres = c.pres := rfl
@[simp] theorem Ctx.raise_inex (c : Ctx) (f : BitVec 6) : (c.raise f).inex = c.inex := rfl
@[simp] theorem Ctx.raise_twid (c : Ctx) (f : BitVec 6) : (c.raise f).twid = c.twid := rfl
@[simp] theorem Ctx.raise_tinf (c : Ctx) (f : BitVec 6) : (c.raise f).tinf = c.tinf := rfl
@[simp] theorem Ctx.raise_sup (c : Ctx) (f : BitVec 6) : (c.raise f).sup = c.sup := rfl
@[simp] theorem Ctx.raise_hyp (c : Ctx) (f : BitVec 6) : (c.raise f).hyp = c.hyp := rfl
@[simp] theorem Ctx.raise_budg (c : Ctx) (f : BitVec 6) : (c.raise f).budg = c.budg := rfl
@[simp] theorem Ctx.raise_dtLock (c : Ctx) (f : BitVec 6) : (c.raise f).dtLock = c.dtLock := rfl
@[simp] theorem Ctx.raise_dtFrac (c : Ctx) (f : BitVec 6) : (c.raise f).dtFrac = c.dtFrac := rfl
@[simp] theorem Ctx.raise_region (c : Ctx) (f : BitVec 6) : (c.raise f).region = c.region := rfl
@[simp] theorem Ctx.raise_pend (c : Ctx) (f : BitVec 6) : (c.raise f).pend = c.pend := rfl
@[simp] theorem Ctx.raise_sb (c : Ctx) (f : BitVec 6) : (c.raise f).sb = c.sb := rfl
@[simp] theorem Ctx.raise_acqs (c : Ctx) (f : BitVec 6) : (c.raise f).acqs = c.acqs := rfl
@[simp] theorem Ctx.raise_obs (c : Ctx) (f : BitVec 6) : (c.raise f).obs = c.obs := rfl
@[simp] theorem Ctx.raise_seq (c : Ctx) (f : BitVec 6) : (c.raise f).seq = c.seq := rfl
@[simp] theorem Ctx.raise_mon (c : Ctx) (f : BitVec 6) : (c.raise f).mon = c.mon := rfl
@[simp] theorem Ctx.raise_busy (c : Ctx) (f : BitVec 6) : (c.raise f).busy = c.busy := rfl
@[simp] theorem Ctx.raise_sfault (c : Ctx) (f : BitVec 6) : (c.raise f).sfault = c.sfault := rfl
@[simp] theorem Ctx.raise_forker (c : Ctx) (f : BitVec 6) : (c.raise f).forker = c.forker := rfl
@[simp] theorem Ctx.raise_fences (c : Ctx) (f : BitVec 6) : (c.raise f).fences = c.fences := rfl
@[simp] theorem Ctx.raise_fpart (c : Ctx) (f : BitVec 6) : (c.raise f).fpart = c.fpart := rfl
@[simp] theorem Ctx.raise_dtSeen (c : Ctx) (f : BitVec 6) : (c.raise f).dtSeen = c.dtSeen := rfl
@[simp] theorem Ctx.raise_missEA (c : Ctx) (f : BitVec 6) : (c.raise f).missEA = c.missEA := rfl
@[simp] theorem Ctx.setInex_live (c : Ctx) (b : Bool) : (c.setInex b).live = c.live := rfl
@[simp] theorem Ctx.setInex_level (c : Ctx) (b : Bool) : (c.setInex b).level = c.level := rfl
@[simp] theorem Ctx.setInex_pcc (c : Ctx) (b : Bool) : (c.setInex b).pcc = c.pcc := rfl
@[simp] theorem Ctx.setInex_pcOut (c : Ctx) (b : Bool) : (c.setInex b).pcOut = c.pcOut := rfl
@[simp] theorem Ctx.setInex_slot (c : Ctx) (b : Bool) : (c.setInex b).slot = c.slot := rfl
@[simp] theorem Ctx.setInex_blk (c : Ctx) (b : Bool) : (c.setInex b).blk = c.blk := rfl
@[simp] theorem Ctx.setInex_waitTaken (c : Ctx) (b : Bool) : (c.setInex b).waitTaken = c.waitTaken := rfl
@[simp] theorem Ctx.setInex_waiting (c : Ctx) (b : Bool) : (c.setInex b).waiting = c.waiting := rfl
@[simp] theorem Ctx.setInex_x (c : Ctx) (b : Bool) : (c.setInex b).x = c.x := rfl
@[simp] theorem Ctx.setInex_v (c : Ctx) (b : Bool) : (c.setInex b).v = c.v := rfl
@[simp] theorem Ctx.setInex_k (c : Ctx) (b : Bool) : (c.setInex b).k = c.k := rfl
@[simp] theorem Ctx.setInex_p (c : Ctx) (b : Bool) : (c.setInex b).p = c.p := rfl
@[simp] theorem Ctx.setInex_lq (c : Ctx) (b : Bool) : (c.setInex b).lq = c.lq := rfl
@[simp] theorem Ctx.setInex_sq (c : Ctx) (b : Bool) : (c.setInex b).sq = c.sq := rfl
@[simp] theorem Ctx.setInex_bankDom (c : Ctx) (b : Bool) : (c.setInex b).bankDom = c.bankDom := rfl
@[simp] theorem Ctx.setInex_cdom (c : Ctx) (b : Bool) : (c.setInex b).cdom = c.cdom := rfl
@[simp] theorem Ctx.setInex_upv (c : Ctx) (b : Bool) : (c.setInex b).upv = c.upv := rfl
@[simp] theorem Ctx.setInex_upn (c : Ctx) (b : Bool) : (c.setInex b).upn = c.upn := rfl
@[simp] theorem Ctx.setInex_upc (c : Ctx) (b : Bool) : (c.setInex b).upc = c.upc := rfl
@[simp] theorem Ctx.setInex_upa (c : Ctx) (b : Bool) : (c.setInex b).upa = c.upa := rfl
@[simp] theorem Ctx.setInex_upi (c : Ctx) (b : Bool) : (c.setInex b).upi = c.upi := rfl
@[simp] theorem Ctx.setInex_upk (c : Ctx) (b : Bool) : (c.setInex b).upk = c.upk := rfl
@[simp] theorem Ctx.setInex_bstat (c : Ctx) (b : Bool) : (c.setInex b).bstat = c.bstat := rfl
@[simp] theorem Ctx.setInex_prgn (c : Ctx) (b : Bool) : (c.setInex b).prgn = c.prgn := rfl
@[simp] theorem Ctx.setInex_pres (c : Ctx) (b : Bool) : (c.setInex b).pres = c.pres := rfl
@[simp] theorem Ctx.setInex_fstat (c : Ctx) (b : Bool) : (c.setInex b).fstat = c.fstat := rfl
@[simp] theorem Ctx.setInex_twid (c : Ctx) (b : Bool) : (c.setInex b).twid = c.twid := rfl
@[simp] theorem Ctx.setInex_tinf (c : Ctx) (b : Bool) : (c.setInex b).tinf = c.tinf := rfl
@[simp] theorem Ctx.setInex_sup (c : Ctx) (b : Bool) : (c.setInex b).sup = c.sup := rfl
@[simp] theorem Ctx.setInex_hyp (c : Ctx) (b : Bool) : (c.setInex b).hyp = c.hyp := rfl
@[simp] theorem Ctx.setInex_budg (c : Ctx) (b : Bool) : (c.setInex b).budg = c.budg := rfl
@[simp] theorem Ctx.setInex_dtLock (c : Ctx) (b : Bool) : (c.setInex b).dtLock = c.dtLock := rfl
@[simp] theorem Ctx.setInex_dtFrac (c : Ctx) (b : Bool) : (c.setInex b).dtFrac = c.dtFrac := rfl
@[simp] theorem Ctx.setInex_region (c : Ctx) (b : Bool) : (c.setInex b).region = c.region := rfl
@[simp] theorem Ctx.setInex_pend (c : Ctx) (b : Bool) : (c.setInex b).pend = c.pend := rfl
@[simp] theorem Ctx.setInex_sb (c : Ctx) (b : Bool) : (c.setInex b).sb = c.sb := rfl
@[simp] theorem Ctx.setInex_acqs (c : Ctx) (b : Bool) : (c.setInex b).acqs = c.acqs := rfl
@[simp] theorem Ctx.setInex_obs (c : Ctx) (b : Bool) : (c.setInex b).obs = c.obs := rfl
@[simp] theorem Ctx.setInex_seq (c : Ctx) (b : Bool) : (c.setInex b).seq = c.seq := rfl
@[simp] theorem Ctx.setInex_mon (c : Ctx) (b : Bool) : (c.setInex b).mon = c.mon := rfl
@[simp] theorem Ctx.setInex_busy (c : Ctx) (b : Bool) : (c.setInex b).busy = c.busy := rfl
@[simp] theorem Ctx.setInex_sfault (c : Ctx) (b : Bool) : (c.setInex b).sfault = c.sfault := rfl
@[simp] theorem Ctx.setInex_forker (c : Ctx) (b : Bool) : (c.setInex b).forker = c.forker := rfl
@[simp] theorem Ctx.setInex_fences (c : Ctx) (b : Bool) : (c.setInex b).fences = c.fences := rfl
@[simp] theorem Ctx.setInex_fpart (c : Ctx) (b : Bool) : (c.setInex b).fpart = c.fpart := rfl
@[simp] theorem Ctx.setInex_dtSeen (c : Ctx) (b : Bool) : (c.setInex b).dtSeen = c.dtSeen := rfl
@[simp] theorem Ctx.setInex_missEA (c : Ctx) (b : Bool) : (c.setInex b).missEA = c.missEA := rfl
@[simp] theorem Ctx.putX_live (c : Ctx) (n : Nat) (r : Reg) : (c.putX n r).live = c.live := by unfold Ctx.putX; split <;> rfl
@[simp] theorem Ctx.putX_level (c : Ctx) (n : Nat) (r : Reg) : (c.putX n r).level = c.level := by unfold Ctx.putX; split <;> rfl
@[simp] theorem Ctx.putX_pcc (c : Ctx) (n : Nat) (r : Reg) : (c.putX n r).pcc = c.pcc := by unfold Ctx.putX; split <;> rfl
@[simp] theorem Ctx.putX_pcOut (c : Ctx) (n : Nat) (r : Reg) : (c.putX n r).pcOut = c.pcOut := by unfold Ctx.putX; split <;> rfl
@[simp] theorem Ctx.putX_slot (c : Ctx) (n : Nat) (r : Reg) : (c.putX n r).slot = c.slot := by unfold Ctx.putX; split <;> rfl
@[simp] theorem Ctx.putX_blk (c : Ctx) (n : Nat) (r : Reg) : (c.putX n r).blk = c.blk := by unfold Ctx.putX; split <;> rfl
@[simp] theorem Ctx.putX_waitTaken (c : Ctx) (n : Nat) (r : Reg) : (c.putX n r).waitTaken = c.waitTaken := by unfold Ctx.putX; split <;> rfl
@[simp] theorem Ctx.putX_waiting (c : Ctx) (n : Nat) (r : Reg) : (c.putX n r).waiting = c.waiting := by unfold Ctx.putX; split <;> rfl
@[simp] theorem Ctx.putX_v (c : Ctx) (n : Nat) (r : Reg) : (c.putX n r).v = c.v := by unfold Ctx.putX; split <;> rfl
@[simp] theorem Ctx.putX_k (c : Ctx) (n : Nat) (r : Reg) : (c.putX n r).k = c.k := by unfold Ctx.putX; split <;> rfl
@[simp] theorem Ctx.putX_p (c : Ctx) (n : Nat) (r : Reg) : (c.putX n r).p = c.p := by unfold Ctx.putX; split <;> rfl
@[simp] theorem Ctx.putX_lq (c : Ctx) (n : Nat) (r : Reg) : (c.putX n r).lq = c.lq := by unfold Ctx.putX; split <;> rfl
@[simp] theorem Ctx.putX_sq (c : Ctx) (n : Nat) (r : Reg) : (c.putX n r).sq = c.sq := by unfold Ctx.putX; split <;> rfl
@[simp] theorem Ctx.putX_bankDom (c : Ctx) (n : Nat) (r : Reg) : (c.putX n r).bankDom = c.bankDom := by unfold Ctx.putX; split <;> rfl
@[simp] theorem Ctx.putX_cdom (c : Ctx) (n : Nat) (r : Reg) : (c.putX n r).cdom = c.cdom := by unfold Ctx.putX; split <;> rfl
@[simp] theorem Ctx.putX_upv (c : Ctx) (n : Nat) (r : Reg) : (c.putX n r).upv = c.upv := by unfold Ctx.putX; split <;> rfl
@[simp] theorem Ctx.putX_upn (c : Ctx) (n : Nat) (r : Reg) : (c.putX n r).upn = c.upn := by unfold Ctx.putX; split <;> rfl
@[simp] theorem Ctx.putX_upc (c : Ctx) (n : Nat) (r : Reg) : (c.putX n r).upc = c.upc := by unfold Ctx.putX; split <;> rfl
@[simp] theorem Ctx.putX_upa (c : Ctx) (n : Nat) (r : Reg) : (c.putX n r).upa = c.upa := by unfold Ctx.putX; split <;> rfl
@[simp] theorem Ctx.putX_upi (c : Ctx) (n : Nat) (r : Reg) : (c.putX n r).upi = c.upi := by unfold Ctx.putX; split <;> rfl
@[simp] theorem Ctx.putX_upk (c : Ctx) (n : Nat) (r : Reg) : (c.putX n r).upk = c.upk := by unfold Ctx.putX; split <;> rfl
@[simp] theorem Ctx.putX_bstat (c : Ctx) (n : Nat) (r : Reg) : (c.putX n r).bstat = c.bstat := by unfold Ctx.putX; split <;> rfl
@[simp] theorem Ctx.putX_prgn (c : Ctx) (n : Nat) (r : Reg) : (c.putX n r).prgn = c.prgn := by unfold Ctx.putX; split <;> rfl
@[simp] theorem Ctx.putX_pres (c : Ctx) (n : Nat) (r : Reg) : (c.putX n r).pres = c.pres := by unfold Ctx.putX; split <;> rfl
@[simp] theorem Ctx.putX_fstat (c : Ctx) (n : Nat) (r : Reg) : (c.putX n r).fstat = c.fstat := by unfold Ctx.putX; split <;> rfl
@[simp] theorem Ctx.putX_inex (c : Ctx) (n : Nat) (r : Reg) : (c.putX n r).inex = c.inex := by unfold Ctx.putX; split <;> rfl
@[simp] theorem Ctx.putX_twid (c : Ctx) (n : Nat) (r : Reg) : (c.putX n r).twid = c.twid := by unfold Ctx.putX; split <;> rfl
@[simp] theorem Ctx.putX_tinf (c : Ctx) (n : Nat) (r : Reg) : (c.putX n r).tinf = c.tinf := by unfold Ctx.putX; split <;> rfl
@[simp] theorem Ctx.putX_sup (c : Ctx) (n : Nat) (r : Reg) : (c.putX n r).sup = c.sup := by unfold Ctx.putX; split <;> rfl
@[simp] theorem Ctx.putX_hyp (c : Ctx) (n : Nat) (r : Reg) : (c.putX n r).hyp = c.hyp := by unfold Ctx.putX; split <;> rfl
@[simp] theorem Ctx.putX_budg (c : Ctx) (n : Nat) (r : Reg) : (c.putX n r).budg = c.budg := by unfold Ctx.putX; split <;> rfl
@[simp] theorem Ctx.putX_dtLock (c : Ctx) (n : Nat) (r : Reg) : (c.putX n r).dtLock = c.dtLock := by unfold Ctx.putX; split <;> rfl
@[simp] theorem Ctx.putX_dtFrac (c : Ctx) (n : Nat) (r : Reg) : (c.putX n r).dtFrac = c.dtFrac := by unfold Ctx.putX; split <;> rfl
@[simp] theorem Ctx.putX_region (c : Ctx) (n : Nat) (r : Reg) : (c.putX n r).region = c.region := by unfold Ctx.putX; split <;> rfl
@[simp] theorem Ctx.putX_pend (c : Ctx) (n : Nat) (r : Reg) : (c.putX n r).pend = c.pend := by unfold Ctx.putX; split <;> rfl
@[simp] theorem Ctx.putX_sb (c : Ctx) (n : Nat) (r : Reg) : (c.putX n r).sb = c.sb := by unfold Ctx.putX; split <;> rfl
@[simp] theorem Ctx.putX_acqs (c : Ctx) (n : Nat) (r : Reg) : (c.putX n r).acqs = c.acqs := by unfold Ctx.putX; split <;> rfl
@[simp] theorem Ctx.putX_obs (c : Ctx) (n : Nat) (r : Reg) : (c.putX n r).obs = c.obs := by unfold Ctx.putX; split <;> rfl
@[simp] theorem Ctx.putX_seq (c : Ctx) (n : Nat) (r : Reg) : (c.putX n r).seq = c.seq := by unfold Ctx.putX; split <;> rfl
@[simp] theorem Ctx.putX_mon (c : Ctx) (n : Nat) (r : Reg) : (c.putX n r).mon = c.mon := by unfold Ctx.putX; split <;> rfl
@[simp] theorem Ctx.putX_busy (c : Ctx) (n : Nat) (r : Reg) : (c.putX n r).busy = c.busy := by unfold Ctx.putX; split <;> rfl
@[simp] theorem Ctx.putX_sfault (c : Ctx) (n : Nat) (r : Reg) : (c.putX n r).sfault = c.sfault := by unfold Ctx.putX; split <;> rfl
@[simp] theorem Ctx.putX_forker (c : Ctx) (n : Nat) (r : Reg) : (c.putX n r).forker = c.forker := by unfold Ctx.putX; split <;> rfl
@[simp] theorem Ctx.putX_fences (c : Ctx) (n : Nat) (r : Reg) : (c.putX n r).fences = c.fences := by unfold Ctx.putX; split <;> rfl
@[simp] theorem Ctx.putX_fpart (c : Ctx) (n : Nat) (r : Reg) : (c.putX n r).fpart = c.fpart := by unfold Ctx.putX; split <;> rfl
@[simp] theorem Ctx.putX_dtSeen (c : Ctx) (n : Nat) (r : Reg) : (c.putX n r).dtSeen = c.dtSeen := by unfold Ctx.putX; split <;> rfl
@[simp] theorem Ctx.putX_missEA (c : Ctx) (n : Nat) (r : Reg) : (c.putX n r).missEA = c.missEA := by unfold Ctx.putX; split <;> rfl
@[simp] theorem Ctx.writeP_live (c : Ctx) (n : Nat) (b : Bool) : (c.writeP n b).live = c.live := by unfold Ctx.writeP; split <;> rfl
@[simp] theorem Ctx.writeP_level (c : Ctx) (n : Nat) (b : Bool) : (c.writeP n b).level = c.level := by unfold Ctx.writeP; split <;> rfl
@[simp] theorem Ctx.writeP_pcc (c : Ctx) (n : Nat) (b : Bool) : (c.writeP n b).pcc = c.pcc := by unfold Ctx.writeP; split <;> rfl
@[simp] theorem Ctx.writeP_pcOut (c : Ctx) (n : Nat) (b : Bool) : (c.writeP n b).pcOut = c.pcOut := by unfold Ctx.writeP; split <;> rfl
@[simp] theorem Ctx.writeP_slot (c : Ctx) (n : Nat) (b : Bool) : (c.writeP n b).slot = c.slot := by unfold Ctx.writeP; split <;> rfl
@[simp] theorem Ctx.writeP_blk (c : Ctx) (n : Nat) (b : Bool) : (c.writeP n b).blk = c.blk := by unfold Ctx.writeP; split <;> rfl
@[simp] theorem Ctx.writeP_waitTaken (c : Ctx) (n : Nat) (b : Bool) : (c.writeP n b).waitTaken = c.waitTaken := by unfold Ctx.writeP; split <;> rfl
@[simp] theorem Ctx.writeP_waiting (c : Ctx) (n : Nat) (b : Bool) : (c.writeP n b).waiting = c.waiting := by unfold Ctx.writeP; split <;> rfl
@[simp] theorem Ctx.writeP_x (c : Ctx) (n : Nat) (b : Bool) : (c.writeP n b).x = c.x := by unfold Ctx.writeP; split <;> rfl
@[simp] theorem Ctx.writeP_v (c : Ctx) (n : Nat) (b : Bool) : (c.writeP n b).v = c.v := by unfold Ctx.writeP; split <;> rfl
@[simp] theorem Ctx.writeP_k (c : Ctx) (n : Nat) (b : Bool) : (c.writeP n b).k = c.k := by unfold Ctx.writeP; split <;> rfl
@[simp] theorem Ctx.writeP_lq (c : Ctx) (n : Nat) (b : Bool) : (c.writeP n b).lq = c.lq := by unfold Ctx.writeP; split <;> rfl
@[simp] theorem Ctx.writeP_sq (c : Ctx) (n : Nat) (b : Bool) : (c.writeP n b).sq = c.sq := by unfold Ctx.writeP; split <;> rfl
@[simp] theorem Ctx.writeP_bankDom (c : Ctx) (n : Nat) (b : Bool) : (c.writeP n b).bankDom = c.bankDom := by unfold Ctx.writeP; split <;> rfl
@[simp] theorem Ctx.writeP_cdom (c : Ctx) (n : Nat) (b : Bool) : (c.writeP n b).cdom = c.cdom := by unfold Ctx.writeP; split <;> rfl
@[simp] theorem Ctx.writeP_upv (c : Ctx) (n : Nat) (b : Bool) : (c.writeP n b).upv = c.upv := by unfold Ctx.writeP; split <;> rfl
@[simp] theorem Ctx.writeP_upn (c : Ctx) (n : Nat) (b : Bool) : (c.writeP n b).upn = c.upn := by unfold Ctx.writeP; split <;> rfl
@[simp] theorem Ctx.writeP_upc (c : Ctx) (n : Nat) (b : Bool) : (c.writeP n b).upc = c.upc := by unfold Ctx.writeP; split <;> rfl
@[simp] theorem Ctx.writeP_upa (c : Ctx) (n : Nat) (b : Bool) : (c.writeP n b).upa = c.upa := by unfold Ctx.writeP; split <;> rfl
@[simp] theorem Ctx.writeP_upi (c : Ctx) (n : Nat) (b : Bool) : (c.writeP n b).upi = c.upi := by unfold Ctx.writeP; split <;> rfl
@[simp] theorem Ctx.writeP_upk (c : Ctx) (n : Nat) (b : Bool) : (c.writeP n b).upk = c.upk := by unfold Ctx.writeP; split <;> rfl
@[simp] theorem Ctx.writeP_bstat (c : Ctx) (n : Nat) (b : Bool) : (c.writeP n b).bstat = c.bstat := by unfold Ctx.writeP; split <;> rfl
@[simp] theorem Ctx.writeP_prgn (c : Ctx) (n : Nat) (b : Bool) : (c.writeP n b).prgn = c.prgn := by unfold Ctx.writeP; split <;> rfl
@[simp] theorem Ctx.writeP_pres (c : Ctx) (n : Nat) (b : Bool) : (c.writeP n b).pres = c.pres := by unfold Ctx.writeP; split <;> rfl
@[simp] theorem Ctx.writeP_fstat (c : Ctx) (n : Nat) (b : Bool) : (c.writeP n b).fstat = c.fstat := by unfold Ctx.writeP; split <;> rfl
@[simp] theorem Ctx.writeP_inex (c : Ctx) (n : Nat) (b : Bool) : (c.writeP n b).inex = c.inex := by unfold Ctx.writeP; split <;> rfl
@[simp] theorem Ctx.writeP_twid (c : Ctx) (n : Nat) (b : Bool) : (c.writeP n b).twid = c.twid := by unfold Ctx.writeP; split <;> rfl
@[simp] theorem Ctx.writeP_tinf (c : Ctx) (n : Nat) (b : Bool) : (c.writeP n b).tinf = c.tinf := by unfold Ctx.writeP; split <;> rfl
@[simp] theorem Ctx.writeP_sup (c : Ctx) (n : Nat) (b : Bool) : (c.writeP n b).sup = c.sup := by unfold Ctx.writeP; split <;> rfl
@[simp] theorem Ctx.writeP_hyp (c : Ctx) (n : Nat) (b : Bool) : (c.writeP n b).hyp = c.hyp := by unfold Ctx.writeP; split <;> rfl
@[simp] theorem Ctx.writeP_budg (c : Ctx) (n : Nat) (b : Bool) : (c.writeP n b).budg = c.budg := by unfold Ctx.writeP; split <;> rfl
@[simp] theorem Ctx.writeP_dtLock (c : Ctx) (n : Nat) (b : Bool) : (c.writeP n b).dtLock = c.dtLock := by unfold Ctx.writeP; split <;> rfl
@[simp] theorem Ctx.writeP_dtFrac (c : Ctx) (n : Nat) (b : Bool) : (c.writeP n b).dtFrac = c.dtFrac := by unfold Ctx.writeP; split <;> rfl
@[simp] theorem Ctx.writeP_region (c : Ctx) (n : Nat) (b : Bool) : (c.writeP n b).region = c.region := by unfold Ctx.writeP; split <;> rfl
@[simp] theorem Ctx.writeP_pend (c : Ctx) (n : Nat) (b : Bool) : (c.writeP n b).pend = c.pend := by unfold Ctx.writeP; split <;> rfl
@[simp] theorem Ctx.writeP_sb (c : Ctx) (n : Nat) (b : Bool) : (c.writeP n b).sb = c.sb := by unfold Ctx.writeP; split <;> rfl
@[simp] theorem Ctx.writeP_acqs (c : Ctx) (n : Nat) (b : Bool) : (c.writeP n b).acqs = c.acqs := by unfold Ctx.writeP; split <;> rfl
@[simp] theorem Ctx.writeP_obs (c : Ctx) (n : Nat) (b : Bool) : (c.writeP n b).obs = c.obs := by unfold Ctx.writeP; split <;> rfl
@[simp] theorem Ctx.writeP_seq (c : Ctx) (n : Nat) (b : Bool) : (c.writeP n b).seq = c.seq := by unfold Ctx.writeP; split <;> rfl
@[simp] theorem Ctx.writeP_mon (c : Ctx) (n : Nat) (b : Bool) : (c.writeP n b).mon = c.mon := by unfold Ctx.writeP; split <;> rfl
@[simp] theorem Ctx.writeP_busy (c : Ctx) (n : Nat) (b : Bool) : (c.writeP n b).busy = c.busy := by unfold Ctx.writeP; split <;> rfl
@[simp] theorem Ctx.writeP_sfault (c : Ctx) (n : Nat) (b : Bool) : (c.writeP n b).sfault = c.sfault := by unfold Ctx.writeP; split <;> rfl
@[simp] theorem Ctx.writeP_forker (c : Ctx) (n : Nat) (b : Bool) : (c.writeP n b).forker = c.forker := by unfold Ctx.writeP; split <;> rfl
@[simp] theorem Ctx.writeP_fences (c : Ctx) (n : Nat) (b : Bool) : (c.writeP n b).fences = c.fences := by unfold Ctx.writeP; split <;> rfl
@[simp] theorem Ctx.writeP_fpart (c : Ctx) (n : Nat) (b : Bool) : (c.writeP n b).fpart = c.fpart := by unfold Ctx.writeP; split <;> rfl
@[simp] theorem Ctx.writeP_dtSeen (c : Ctx) (n : Nat) (b : Bool) : (c.writeP n b).dtSeen = c.dtSeen := by unfold Ctx.writeP; split <;> rfl
@[simp] theorem Ctx.writeP_missEA (c : Ctx) (n : Nat) (b : Bool) : (c.writeP n b).missEA = c.missEA := by unfold Ctx.writeP; split <;> rfl
@[simp] theorem Ctx.writeX_live (c : Ctx) (n : Nat) (v : Word) : (c.writeX n v).live = c.live := by unfold Ctx.writeX; split <;> simp
@[simp] theorem Ctx.writeX_level (c : Ctx) (n : Nat) (v : Word) : (c.writeX n v).level = c.level := by unfold Ctx.writeX; split <;> simp
@[simp] theorem Ctx.writeX_pcc (c : Ctx) (n : Nat) (v : Word) : (c.writeX n v).pcc = c.pcc := by unfold Ctx.writeX; split <;> simp
@[simp] theorem Ctx.writeX_pcOut (c : Ctx) (n : Nat) (v : Word) : (c.writeX n v).pcOut = c.pcOut := by unfold Ctx.writeX; split <;> simp
@[simp] theorem Ctx.writeX_slot (c : Ctx) (n : Nat) (v : Word) : (c.writeX n v).slot = c.slot := by unfold Ctx.writeX; split <;> simp
@[simp] theorem Ctx.writeX_blk (c : Ctx) (n : Nat) (v : Word) : (c.writeX n v).blk = c.blk := by unfold Ctx.writeX; split <;> simp
@[simp] theorem Ctx.writeX_waitTaken (c : Ctx) (n : Nat) (v : Word) : (c.writeX n v).waitTaken = c.waitTaken := by unfold Ctx.writeX; split <;> simp
@[simp] theorem Ctx.writeX_waiting (c : Ctx) (n : Nat) (v : Word) : (c.writeX n v).waiting = c.waiting := by unfold Ctx.writeX; split <;> simp
@[simp] theorem Ctx.writeX_v (c : Ctx) (n : Nat) (v : Word) : (c.writeX n v).v = c.v := by unfold Ctx.writeX; split <;> simp
@[simp] theorem Ctx.writeX_k (c : Ctx) (n : Nat) (v : Word) : (c.writeX n v).k = c.k := by unfold Ctx.writeX; split <;> simp
@[simp] theorem Ctx.writeX_p (c : Ctx) (n : Nat) (v : Word) : (c.writeX n v).p = c.p := by unfold Ctx.writeX; split <;> simp
@[simp] theorem Ctx.writeX_lq (c : Ctx) (n : Nat) (v : Word) : (c.writeX n v).lq = c.lq := by unfold Ctx.writeX; split <;> simp
@[simp] theorem Ctx.writeX_sq (c : Ctx) (n : Nat) (v : Word) : (c.writeX n v).sq = c.sq := by unfold Ctx.writeX; split <;> simp
@[simp] theorem Ctx.writeX_bankDom (c : Ctx) (n : Nat) (v : Word) : (c.writeX n v).bankDom = c.bankDom := by unfold Ctx.writeX; split <;> simp
@[simp] theorem Ctx.writeX_cdom (c : Ctx) (n : Nat) (v : Word) : (c.writeX n v).cdom = c.cdom := by unfold Ctx.writeX; split <;> simp
@[simp] theorem Ctx.writeX_upv (c : Ctx) (n : Nat) (v : Word) : (c.writeX n v).upv = c.upv := by unfold Ctx.writeX; split <;> simp
@[simp] theorem Ctx.writeX_upn (c : Ctx) (n : Nat) (v : Word) : (c.writeX n v).upn = c.upn := by unfold Ctx.writeX; split <;> simp
@[simp] theorem Ctx.writeX_upc (c : Ctx) (n : Nat) (v : Word) : (c.writeX n v).upc = c.upc := by unfold Ctx.writeX; split <;> simp
@[simp] theorem Ctx.writeX_upa (c : Ctx) (n : Nat) (v : Word) : (c.writeX n v).upa = c.upa := by unfold Ctx.writeX; split <;> simp
@[simp] theorem Ctx.writeX_upi (c : Ctx) (n : Nat) (v : Word) : (c.writeX n v).upi = c.upi := by unfold Ctx.writeX; split <;> simp
@[simp] theorem Ctx.writeX_upk (c : Ctx) (n : Nat) (v : Word) : (c.writeX n v).upk = c.upk := by unfold Ctx.writeX; split <;> simp
@[simp] theorem Ctx.writeX_bstat (c : Ctx) (n : Nat) (v : Word) : (c.writeX n v).bstat = c.bstat := by unfold Ctx.writeX; split <;> simp
@[simp] theorem Ctx.writeX_prgn (c : Ctx) (n : Nat) (v : Word) : (c.writeX n v).prgn = c.prgn := by unfold Ctx.writeX; split <;> simp
@[simp] theorem Ctx.writeX_pres (c : Ctx) (n : Nat) (v : Word) : (c.writeX n v).pres = c.pres := by unfold Ctx.writeX; split <;> simp
@[simp] theorem Ctx.writeX_fstat (c : Ctx) (n : Nat) (v : Word) : (c.writeX n v).fstat = c.fstat := by unfold Ctx.writeX; split <;> simp
@[simp] theorem Ctx.writeX_inex (c : Ctx) (n : Nat) (v : Word) : (c.writeX n v).inex = c.inex := by unfold Ctx.writeX; split <;> simp
@[simp] theorem Ctx.writeX_twid (c : Ctx) (n : Nat) (v : Word) : (c.writeX n v).twid = c.twid := by unfold Ctx.writeX; split <;> simp
@[simp] theorem Ctx.writeX_tinf (c : Ctx) (n : Nat) (v : Word) : (c.writeX n v).tinf = c.tinf := by unfold Ctx.writeX; split <;> simp
@[simp] theorem Ctx.writeX_sup (c : Ctx) (n : Nat) (v : Word) : (c.writeX n v).sup = c.sup := by unfold Ctx.writeX; split <;> simp
@[simp] theorem Ctx.writeX_hyp (c : Ctx) (n : Nat) (v : Word) : (c.writeX n v).hyp = c.hyp := by unfold Ctx.writeX; split <;> simp
@[simp] theorem Ctx.writeX_budg (c : Ctx) (n : Nat) (v : Word) : (c.writeX n v).budg = c.budg := by unfold Ctx.writeX; split <;> simp
@[simp] theorem Ctx.writeX_dtLock (c : Ctx) (n : Nat) (v : Word) : (c.writeX n v).dtLock = c.dtLock := by unfold Ctx.writeX; split <;> simp
@[simp] theorem Ctx.writeX_dtFrac (c : Ctx) (n : Nat) (v : Word) : (c.writeX n v).dtFrac = c.dtFrac := by unfold Ctx.writeX; split <;> simp
@[simp] theorem Ctx.writeX_region (c : Ctx) (n : Nat) (v : Word) : (c.writeX n v).region = c.region := by unfold Ctx.writeX; split <;> simp
@[simp] theorem Ctx.writeX_pend (c : Ctx) (n : Nat) (v : Word) : (c.writeX n v).pend = c.pend := by unfold Ctx.writeX; split <;> simp
@[simp] theorem Ctx.writeX_sb (c : Ctx) (n : Nat) (v : Word) : (c.writeX n v).sb = c.sb := by unfold Ctx.writeX; split <;> simp
@[simp] theorem Ctx.writeX_acqs (c : Ctx) (n : Nat) (v : Word) : (c.writeX n v).acqs = c.acqs := by unfold Ctx.writeX; split <;> simp
@[simp] theorem Ctx.writeX_obs (c : Ctx) (n : Nat) (v : Word) : (c.writeX n v).obs = c.obs := by unfold Ctx.writeX; split <;> simp
@[simp] theorem Ctx.writeX_seq (c : Ctx) (n : Nat) (v : Word) : (c.writeX n v).seq = c.seq := by unfold Ctx.writeX; split <;> simp
@[simp] theorem Ctx.writeX_mon (c : Ctx) (n : Nat) (v : Word) : (c.writeX n v).mon = c.mon := by unfold Ctx.writeX; split <;> simp
@[simp] theorem Ctx.writeX_busy (c : Ctx) (n : Nat) (v : Word) : (c.writeX n v).busy = c.busy := by unfold Ctx.writeX; split <;> simp
@[simp] theorem Ctx.writeX_sfault (c : Ctx) (n : Nat) (v : Word) : (c.writeX n v).sfault = c.sfault := by unfold Ctx.writeX; split <;> simp
@[simp] theorem Ctx.writeX_forker (c : Ctx) (n : Nat) (v : Word) : (c.writeX n v).forker = c.forker := by unfold Ctx.writeX; split <;> simp
@[simp] theorem Ctx.writeX_fences (c : Ctx) (n : Nat) (v : Word) : (c.writeX n v).fences = c.fences := by unfold Ctx.writeX; split <;> simp
@[simp] theorem Ctx.writeX_fpart (c : Ctx) (n : Nat) (v : Word) : (c.writeX n v).fpart = c.fpart := by unfold Ctx.writeX; split <;> simp
@[simp] theorem Ctx.writeX_dtSeen (c : Ctx) (n : Nat) (v : Word) : (c.writeX n v).dtSeen = c.dtSeen := by unfold Ctx.writeX; split <;> simp
@[simp] theorem Ctx.writeX_missEA (c : Ctx) (n : Nat) (v : Word) : (c.writeX n v).missEA = c.missEA := by unfold Ctx.writeX; split <;> simp
@[simp] theorem Ctx.writePair_live (c : Ctx) (n : Nat) (k : Cap) : (c.writePair n k).live = c.live := by simp [Ctx.writePair]
@[simp] theorem Ctx.writePair_level (c : Ctx) (n : Nat) (k : Cap) : (c.writePair n k).level = c.level := by simp [Ctx.writePair]
@[simp] theorem Ctx.writePair_pcc (c : Ctx) (n : Nat) (k : Cap) : (c.writePair n k).pcc = c.pcc := by simp [Ctx.writePair]
@[simp] theorem Ctx.writePair_pcOut (c : Ctx) (n : Nat) (k : Cap) : (c.writePair n k).pcOut = c.pcOut := by simp [Ctx.writePair]
@[simp] theorem Ctx.writePair_slot (c : Ctx) (n : Nat) (k : Cap) : (c.writePair n k).slot = c.slot := by simp [Ctx.writePair]
@[simp] theorem Ctx.writePair_blk (c : Ctx) (n : Nat) (k : Cap) : (c.writePair n k).blk = c.blk := by simp [Ctx.writePair]
@[simp] theorem Ctx.writePair_waitTaken (c : Ctx) (n : Nat) (k : Cap) : (c.writePair n k).waitTaken = c.waitTaken := by simp [Ctx.writePair]
@[simp] theorem Ctx.writePair_waiting (c : Ctx) (n : Nat) (k : Cap) : (c.writePair n k).waiting = c.waiting := by simp [Ctx.writePair]
@[simp] theorem Ctx.writePair_v (c : Ctx) (n : Nat) (k : Cap) : (c.writePair n k).v = c.v := by simp [Ctx.writePair]
@[simp] theorem Ctx.writePair_k (c : Ctx) (n : Nat) (k : Cap) : (c.writePair n k).k = c.k := by simp [Ctx.writePair]
@[simp] theorem Ctx.writePair_p (c : Ctx) (n : Nat) (k : Cap) : (c.writePair n k).p = c.p := by simp [Ctx.writePair]
@[simp] theorem Ctx.writePair_lq (c : Ctx) (n : Nat) (k : Cap) : (c.writePair n k).lq = c.lq := by simp [Ctx.writePair]
@[simp] theorem Ctx.writePair_sq (c : Ctx) (n : Nat) (k : Cap) : (c.writePair n k).sq = c.sq := by simp [Ctx.writePair]
@[simp] theorem Ctx.writePair_bankDom (c : Ctx) (n : Nat) (k : Cap) : (c.writePair n k).bankDom = c.bankDom := by simp [Ctx.writePair]
@[simp] theorem Ctx.writePair_cdom (c : Ctx) (n : Nat) (k : Cap) : (c.writePair n k).cdom = c.cdom := by simp [Ctx.writePair]
@[simp] theorem Ctx.writePair_upv (c : Ctx) (n : Nat) (k : Cap) : (c.writePair n k).upv = c.upv := by simp [Ctx.writePair]
@[simp] theorem Ctx.writePair_upn (c : Ctx) (n : Nat) (k : Cap) : (c.writePair n k).upn = c.upn := by simp [Ctx.writePair]
@[simp] theorem Ctx.writePair_upc (c : Ctx) (n : Nat) (k : Cap) : (c.writePair n k).upc = c.upc := by simp [Ctx.writePair]
@[simp] theorem Ctx.writePair_upa (c : Ctx) (n : Nat) (k : Cap) : (c.writePair n k).upa = c.upa := by simp [Ctx.writePair]
@[simp] theorem Ctx.writePair_upi (c : Ctx) (n : Nat) (k : Cap) : (c.writePair n k).upi = c.upi := by simp [Ctx.writePair]
@[simp] theorem Ctx.writePair_upk (c : Ctx) (n : Nat) (k : Cap) : (c.writePair n k).upk = c.upk := by simp [Ctx.writePair]
@[simp] theorem Ctx.writePair_bstat (c : Ctx) (n : Nat) (k : Cap) : (c.writePair n k).bstat = c.bstat := by simp [Ctx.writePair]
@[simp] theorem Ctx.writePair_prgn (c : Ctx) (n : Nat) (k : Cap) : (c.writePair n k).prgn = c.prgn := by simp [Ctx.writePair]
@[simp] theorem Ctx.writePair_pres (c : Ctx) (n : Nat) (k : Cap) : (c.writePair n k).pres = c.pres := by simp [Ctx.writePair]
@[simp] theorem Ctx.writePair_fstat (c : Ctx) (n : Nat) (k : Cap) : (c.writePair n k).fstat = c.fstat := by simp [Ctx.writePair]
@[simp] theorem Ctx.writePair_inex (c : Ctx) (n : Nat) (k : Cap) : (c.writePair n k).inex = c.inex := by simp [Ctx.writePair]
@[simp] theorem Ctx.writePair_twid (c : Ctx) (n : Nat) (k : Cap) : (c.writePair n k).twid = c.twid := by simp [Ctx.writePair]
@[simp] theorem Ctx.writePair_tinf (c : Ctx) (n : Nat) (k : Cap) : (c.writePair n k).tinf = c.tinf := by simp [Ctx.writePair]
@[simp] theorem Ctx.writePair_sup (c : Ctx) (n : Nat) (k : Cap) : (c.writePair n k).sup = c.sup := by simp [Ctx.writePair]
@[simp] theorem Ctx.writePair_hyp (c : Ctx) (n : Nat) (k : Cap) : (c.writePair n k).hyp = c.hyp := by simp [Ctx.writePair]
@[simp] theorem Ctx.writePair_budg (c : Ctx) (n : Nat) (k : Cap) : (c.writePair n k).budg = c.budg := by simp [Ctx.writePair]
@[simp] theorem Ctx.writePair_dtLock (c : Ctx) (n : Nat) (k : Cap) : (c.writePair n k).dtLock = c.dtLock := by simp [Ctx.writePair]
@[simp] theorem Ctx.writePair_dtFrac (c : Ctx) (n : Nat) (k : Cap) : (c.writePair n k).dtFrac = c.dtFrac := by simp [Ctx.writePair]
@[simp] theorem Ctx.writePair_region (c : Ctx) (n : Nat) (k : Cap) : (c.writePair n k).region = c.region := by simp [Ctx.writePair]
@[simp] theorem Ctx.writePair_pend (c : Ctx) (n : Nat) (k : Cap) : (c.writePair n k).pend = c.pend := by simp [Ctx.writePair]
@[simp] theorem Ctx.writePair_sb (c : Ctx) (n : Nat) (k : Cap) : (c.writePair n k).sb = c.sb := by simp [Ctx.writePair]
@[simp] theorem Ctx.writePair_acqs (c : Ctx) (n : Nat) (k : Cap) : (c.writePair n k).acqs = c.acqs := by simp [Ctx.writePair]
@[simp] theorem Ctx.writePair_obs (c : Ctx) (n : Nat) (k : Cap) : (c.writePair n k).obs = c.obs := by simp [Ctx.writePair]
@[simp] theorem Ctx.writePair_seq (c : Ctx) (n : Nat) (k : Cap) : (c.writePair n k).seq = c.seq := by simp [Ctx.writePair]
@[simp] theorem Ctx.writePair_mon (c : Ctx) (n : Nat) (k : Cap) : (c.writePair n k).mon = c.mon := by simp [Ctx.writePair]
@[simp] theorem Ctx.writePair_busy (c : Ctx) (n : Nat) (k : Cap) : (c.writePair n k).busy = c.busy := by simp [Ctx.writePair]
@[simp] theorem Ctx.writePair_sfault (c : Ctx) (n : Nat) (k : Cap) : (c.writePair n k).sfault = c.sfault := by simp [Ctx.writePair]
@[simp] theorem Ctx.writePair_forker (c : Ctx) (n : Nat) (k : Cap) : (c.writePair n k).forker = c.forker := by simp [Ctx.writePair]
@[simp] theorem Ctx.writePair_fences (c : Ctx) (n : Nat) (k : Cap) : (c.writePair n k).fences = c.fences := by simp [Ctx.writePair]
@[simp] theorem Ctx.writePair_fpart (c : Ctx) (n : Nat) (k : Cap) : (c.writePair n k).fpart = c.fpart := by simp [Ctx.writePair]
@[simp] theorem Ctx.writePair_dtSeen (c : Ctx) (n : Nat) (k : Cap) : (c.writePair n k).dtSeen = c.dtSeen := by simp [Ctx.writePair]
@[simp] theorem Ctx.writePair_missEA (c : Ctx) (n : Nat) (k : Cap) : (c.writePair n k).missEA = c.missEA := by simp [Ctx.writePair]

/-! ## Reading a sparse map after a write -/

theorem Sparse.look_ins {α : Type} (d : α) (m : Sparse α) (n : Nat) (v : α) (k : Nat) :
    Sparse.look d (Sparse.ins m n v) k = if n = k then v else Sparse.look d m k := by
  induction m with
  | nil => simp [Sparse.ins, Sparse.look]
  | cons e m ih =>
    simp only [Sparse.ins]
    split_ifs with before same other <;> simp only [Sparse.look, ih] <;> split_ifs <;> first | rfl | omega

theorem Sparse.look_filter_ne {α : Type} (d : α) (m : Sparse α) (n k : Nat) :
    Sparse.look d (m.filter (fun e => e.1 ≠ n)) k = if n = k then d else Sparse.look d m k := by
  induction m with
  | nil => simp [Sparse.look]
  | cons e m ih =>
    obtain ⟨j, w⟩ := e
    rcases eq_or_ne j n with rfl | other
    · simp only [ne_eq, not_true_eq_false, decide_false, Bool.false_eq_true, not_false_eq_true, List.filter_cons_of_neg, ih, Sparse.look]
      split_ifs <;> rfl
    · simp only [ne_eq, other, not_false_eq_true, decide_true, List.filter_cons_of_pos, Sparse.look, ih]
      split_ifs <;> simp_all

/-- Reading a map after a write: the written value at its number, the old value elsewhere. -/
theorem Sparse.look_put {α : Type} [DecidableEq α] (d : α) (m : Sparse α) (n : Nat) (v : α) (k : Nat) :
    Sparse.look d (Sparse.put d m n v) k = if n = k then v else Sparse.look d m k := by
  unfold Sparse.put
  split
  · next h => rw [Sparse.look_filter_ne, h]
  · exact Sparse.look_ins d m n v k

@[simp] theorem Sparse.look_put_same {α : Type} [DecidableEq α] (d : α) (m : Sparse α) (n : Nat) (v : α) :
    Sparse.look d (Sparse.put d m n v) n = v := by simp [Sparse.look_put]

/-! ## Reading a part of the machine after a write of it -/

theorem State.core_setCore (s : State) (g : Nat) (c : Core) (k : Nat) :
    (s.setCore g c).core k = if g = k then c else s.core k := Sparse.look_put ..

@[simp] theorem State.core_setCore_same (s : State) (g : Nat) (c : Core) : (s.setCore g c).core g = c := by
  simp [State.core_setCore]

@[simp] theorem State.core_updCore_same (s : State) (g : Nat) (f : Core → Core) :
    (s.updCore g f).core g = f (s.core g) := by simp [State.updCore]

theorem State.core_updCore_ne (s : State) (f : Core → Core) {g k : Nat} (h : g ≠ k) :
    (s.updCore g f).core k = s.core k := by simp [State.updCore, State.core_setCore, h]

theorem Core.ctx_setCtx (c : Core) (i : Nat) (x : Ctx) (k : Nat) :
    (c.setCtx i x).ctx k = if i = k then x else c.ctx k := Sparse.look_put ..

@[simp] theorem Core.ctx_setCtx_same (c : Core) (i : Nat) (x : Ctx) : (c.setCtx i x).ctx i = x := by
  simp [Core.ctx_setCtx]

@[simp] theorem State.ctx_setCtx_same (s : State) (a : Agent) (x : Ctx) : (s.setCtx a x).ctx a = x := by
  simp [State.ctx, State.setCtx]

@[simp] theorem State.ctx_updCtx_same (s : State) (a : Agent) (f : Ctx → Ctx) : (s.updCtx a f).ctx a = f (s.ctx a) := by
  simp [State.updCtx]

theorem State.ctx_setCtx_ne (s : State) (x : Ctx) {a b : Agent} (h : a ≠ b) : (s.setCtx a x).ctx b = s.ctx b := by
  unfold State.ctx State.setCtx
  by_cases hg : a.gid = b.gid
  · rw [hg, State.core_updCore_same, Core.ctx_setCtx, if_neg]
    intro hc
    exact h (by cases a; cases b; simp_all)
  · rw [State.core_updCore_ne s _ hg]

theorem State.ctx_updCtx_ne (s : State) (f : Ctx → Ctx) {a b : Agent} (h : a ≠ b) : (s.updCtx a f).ctx b = s.ctx b :=
  State.ctx_setCtx_ne s _ h

theorem State.cluster_setCluster (s : State) (c : Nat) (x : Cluster) (k : Nat) :
    (s.setCluster c x).cluster k = if c = k then x else s.cluster k := Sparse.look_put ..

@[simp] theorem State.cluster_setCluster_same (s : State) (c : Nat) (x : Cluster) : (s.setCluster c x).cluster c = x := by
  simp [State.cluster_setCluster]

@[simp] theorem State.cluster_updCluster_same (s : State) (c : Nat) (f : Cluster → Cluster) :
    (s.updCluster c f).cluster c = f (s.cluster c) := by simp [State.updCluster]

@[simp] theorem State.me_self (s : State) (f : Ctx → Ctx) : (s.self f).me = f s.me := by simp [State.me, State.self, State.ctx, State.updCtx, State.setCtx]

theorem State.core_cores (s t : State) (h : s.cores = t.cores) (g : Nat) : s.core g = t.core g := by simp [State.core, h]

/-! ## Registers -/

theorem Ctx.getX_putX (c : Ctx) (n : Nat) (r : Reg) (k : Nat) :
    (c.putX n r).getX k = if k = 0 then Reg.zero else if n = k then r else c.getX k := by
  unfold Ctx.getX Ctx.putX
  by_cases hk : k = 0
  · simp [hk]
  · by_cases hn : n = 0
    · have : n ≠ k := by omega
      simp [hk, hn]
      intro h0
      omega
    · simp [hk, hn, Sparse.look_put]

@[simp] theorem Ctx.getX_zero (c : Ctx) : c.getX 0 = Reg.zero := by simp [Ctx.getX]

/-- An ordinary scalar write: the value with its tag clear, the pair's other tag clear, `x0` untouched. -/
theorem Ctx.getX_writeX (c : Ctx) (n : Nat) (v : Word) (k : Nat) :
    (c.writeX n v).getX k =
      if k = 0 ∨ n = 0 then c.getX k
      else if pairMate n = k then ⟨(c.getX k).val, false⟩
      else if n = k then ⟨v, false⟩ else c.getX k := by
  unfold Ctx.writeX
  by_cases hn : n = 0
  · simp [hn]
  · by_cases hk : k = 0
    · simp [hk, hn]
    · simp only [hn, hk, if_false, or_self, Ctx.getX_putX]
      by_cases hm : pairMate n = k
      · simp [hm]
      · simp [hm]

theorem Ctx.getX_writePair (c : Ctx) (n : Nat) (k : Cap) (j : Nat) :
    (c.writePair n k).getX j =
      if j = 0 then Reg.zero else if n + 1 = j then ⟨k.md, k.tag && decide (n ≠ 0)⟩
      else if n = j then ⟨k.addr, k.tag⟩ else c.getX j := by
  simp only [Ctx.writePair, Ctx.getX_putX]
  by_cases hj : j = 0 <;> simp [hj]

theorem Ctx.getV_writeV (c : Ctx) (n : Nat) (v : Line) (k : Nat) :
    (c.writeV n v).getV k = if n = k then v else c.getV k := Sparse.look_put ..

theorem Ctx.getK_writeK (c : Ctx) (n : Nat) (v : BitVec 32) (k : Nat) :
    (c.writeK n v).getK k = if n = k then v else c.getK k := Sparse.look_put ..

theorem Ctx.getP_writeP (c : Ctx) (n : Nat) (b : Bool) (k : Nat) :
    (c.writeP n b).getP k = if k = 0 then true else if n = k then b else c.getP k := by
  unfold Ctx.getP Ctx.writeP
  by_cases hk : k = 0
  · simp [hk]
  · by_cases hn : n = 0
    · have : n ≠ k := by omega
      simp [hk, hn]
      intro h0
      omega
    · simp [hk, hn, Sparse.look_put]

@[simp] theorem Ctx.getP_zero (c : Ctx) : c.getP 0 = true := by simp [Ctx.getP]

theorem Ctx.getLq_putLq (c : Ctx) (q : Nat) (l : List QEntry) (k : Nat) :
    (c.putLq q l).getLq k = if q = k then l else c.getLq k := Sparse.look_put ..

theorem Ctx.getSq_putSq (c : Ctx) (q : Nat) (l : List QEntry) (k : Nat) :
    (c.putSq q l).getSq k = if q = k then l else c.getSq k := Sparse.look_put ..

/-! ## Semaphores and slots -/

theorem Core.sem_setSem (c : Core) (n : Nat) (v : Sem) (k : Nat) :
    (c.setSem n v).sem k = if n = k then v else c.sem k := Sparse.look_put ..

theorem Core.slot_setSlot (c : Core) (n : Nat) (v : Slot) (k : Nat) :
    (c.setSlot n v).slot k = if n = k then v else c.slot k := Sparse.look_put ..

/-! ## Bytes of memory -/

theorem State.byte_setByte (s : State) (a : Nat) (b : Byte) (k : Nat) :
    (s.setByte a b).byte k = if a = k then b else s.byte k := Sparse.look_put ..

/-- Reading a byte after a run of bytes is written: the run's byte inside it, the old byte elsewhere. -/
theorem State.byte_setBytes (s : State) (a : Nat) (l : List Byte) (k : Nat) :
    (s.setBytes a l).byte k = if a ≤ k ∧ k < a + l.length then l.getD (k - a) 0 else s.byte k := by
  induction l generalizing s a with
  | nil => simp [State.setBytes, show ¬ (a ≤ k ∧ k < a) by omega]
  | cons b l ih =>
    simp only [State.setBytes, ih, State.byte_setByte, List.length_cons]
    rcases lt_trichotomy a k with below | rfl | above
    · obtain ⟨j, rfl⟩ := Nat.exists_eq_add_of_lt below
      simp [show a + j + 1 - (a + 1) = j by omega, show a + j + 1 - a = j + 1 by omega, show a + 1 ≤ a + j + 1 by omega,
        show a ≤ a + j + 1 by omega, show (a + j + 1 < a + 1 + l.length) = (a + j + 1 < a + (l.length + 1)) from propext (by omega),
        show a ≠ a + j + 1 by omega]
    · simp
    · simp [show ¬ (a + 1 ≤ k) by omega, show ¬ (a ≤ k) by omega, show a ≠ k by omega]

end Sys2Proof.Machine
end

