-- ==== Sys2Proof/Laws/Operands.lean ====
section
/-! SUPPORT. What the shared operations of instructions leave alone: moving on, signals and retirement, reading and writing operands,
and taking a wait clause. -/

namespace Sys2Proof.Machine

open Sys2Proof

set_option Elab.async false

/-! ## Moving on -/

@[simp] theorem Ctx.enter_live (c : Ctx) (p : Cap) (out : Bool) (i : Nat) : (c.enter p out i).live = c.live := rfl
@[simp] theorem Ctx.enter_level (c : Ctx) (p : Cap) (out : Bool) (i : Nat) : (c.enter p out i).level = c.level := rfl
@[simp] theorem Ctx.enter_x (c : Ctx) (p : Cap) (out : Bool) (i : Nat) : (c.enter p out i).x = c.x := rfl
@[simp] theorem Ctx.enter_v (c : Ctx) (p : Cap) (out : Bool) (i : Nat) : (c.enter p out i).v = c.v := rfl
@[simp] theorem Ctx.enter_k (c : Ctx) (p : Cap) (out : Bool) (i : Nat) : (c.enter p out i).k = c.k := rfl
@[simp] theorem Ctx.enter_p (c : Ctx) (p : Cap) (out : Bool) (i : Nat) : (c.enter p out i).p = c.p := rfl
@[simp] theorem Ctx.enter_lq (c : Ctx) (p : Cap) (out : Bool) (i : Nat) : (c.enter p out i).lq = c.lq := rfl
@[simp] theorem Ctx.enter_sq (c : Ctx) (p : Cap) (out : Bool) (i : Nat) : (c.enter p out i).sq = c.sq := rfl
@[simp] theorem Ctx.enter_bankDom (c : Ctx) (p : Cap) (out : Bool) (i : Nat) : (c.enter p out i).bankDom = c.bankDom := rfl
@[simp] theorem Ctx.enter_cdom (c : Ctx) (p : Cap) (out : Bool) (i : Nat) : (c.enter p out i).cdom = c.cdom := rfl
@[simp] theorem Ctx.enter_upv (c : Ctx) (p : Cap) (out : Bool) (i : Nat) : (c.enter p out i).upv = c.upv := rfl
@[simp] theorem Ctx.enter_upn (c : Ctx) (p : Cap) (out : Bool) (i : Nat) : (c.enter p out i).upn = c.upn := rfl
@[simp] theorem Ctx.enter_upc (c : Ctx) (p : Cap) (out : Bool) (i : Nat) : (c.enter p out i).upc = c.upc := rfl
@[simp] theorem Ctx.enter_upa (c : Ctx) (p : Cap) (out : Bool) (i : Nat) : (c.enter p out i).upa = c.upa := rfl
@[simp] theorem Ctx.enter_upi (c : Ctx) (p : Cap) (out : Bool) (i : Nat) : (c.enter p out i).upi = c.upi := rfl
@[simp] theorem Ctx.enter_upk (c : Ctx) (p : Cap) (out : Bool) (i : Nat) : (c.enter p out i).upk = c.upk := rfl
@[simp] theorem Ctx.enter_bstat (c : Ctx) (p : Cap) (out : Bool) (i : Nat) : (c.enter p out i).bstat = c.bstat := rfl
@[simp] theorem Ctx.enter_prgn (c : Ctx) (p : Cap) (out : Bool) (i : Nat) : (c.enter p out i).prgn = c.prgn := rfl
@[simp] theorem Ctx.enter_pres (c : Ctx) (p : Cap) (out : Bool) (i : Nat) : (c.enter p out i).pres = c.pres := rfl
@[simp] theorem Ctx.enter_fstat (c : Ctx) (p : Cap) (out : Bool) (i : Nat) : (c.enter p out i).fstat = c.fstat := rfl
@[simp] theorem Ctx.enter_inex (c : Ctx) (p : Cap) (out : Bool) (i : Nat) : (c.enter p out i).inex = c.inex := rfl
@[simp] theorem Ctx.enter_twid (c : Ctx) (p : Cap) (out : Bool) (i : Nat) : (c.enter p out i).twid = c.twid := rfl
@[simp] theorem Ctx.enter_tinf (c : Ctx) (p : Cap) (out : Bool) (i : Nat) : (c.enter p out i).tinf = c.tinf := rfl
@[simp] theorem Ctx.enter_sup (c : Ctx) (p : Cap) (out : Bool) (i : Nat) : (c.enter p out i).sup = c.sup := rfl
@[simp] theorem Ctx.enter_hyp (c : Ctx) (p : Cap) (out : Bool) (i : Nat) : (c.enter p out i).hyp = c.hyp := rfl
@[simp] theorem Ctx.enter_budg (c : Ctx) (p : Cap) (out : Bool) (i : Nat) : (c.enter p out i).budg = c.budg := rfl
@[simp] theorem Ctx.enter_dtLock (c : Ctx) (p : Cap) (out : Bool) (i : Nat) : (c.enter p out i).dtLock = c.dtLock := rfl
@[simp] theorem Ctx.enter_dtFrac (c : Ctx) (p : Cap) (out : Bool) (i : Nat) : (c.enter p out i).dtFrac = c.dtFrac := rfl
@[simp] theorem Ctx.enter_region (c : Ctx) (p : Cap) (out : Bool) (i : Nat) : (c.enter p out i).region = c.region := rfl
@[simp] theorem Ctx.enter_pend (c : Ctx) (p : Cap) (out : Bool) (i : Nat) : (c.enter p out i).pend = c.pend := rfl
@[simp] theorem Ctx.enter_sb (c : Ctx) (p : Cap) (out : Bool) (i : Nat) : (c.enter p out i).sb = c.sb := rfl
@[simp] theorem Ctx.enter_acqs (c : Ctx) (p : Cap) (out : Bool) (i : Nat) : (c.enter p out i).acqs = c.acqs := rfl
@[simp] theorem Ctx.enter_obs (c : Ctx) (p : Cap) (out : Bool) (i : Nat) : (c.enter p out i).obs = c.obs := rfl
@[simp] theorem Ctx.enter_seq (c : Ctx) (p : Cap) (out : Bool) (i : Nat) : (c.enter p out i).seq = c.seq := rfl
@[simp] theorem Ctx.enter_mon (c : Ctx) (p : Cap) (out : Bool) (i : Nat) : (c.enter p out i).mon = c.mon := rfl
@[simp] theorem Ctx.enter_sfault (c : Ctx) (p : Cap) (out : Bool) (i : Nat) : (c.enter p out i).sfault = c.sfault := rfl
@[simp] theorem Ctx.enter_forker (c : Ctx) (p : Cap) (out : Bool) (i : Nat) : (c.enter p out i).forker = c.forker := rfl
@[simp] theorem Ctx.enter_fences (c : Ctx) (p : Cap) (out : Bool) (i : Nat) : (c.enter p out i).fences = c.fences := rfl
@[simp] theorem Ctx.enter_fpart (c : Ctx) (p : Cap) (out : Bool) (i : Nat) : (c.enter p out i).fpart = [] := rfl
@[simp] theorem Ctx.enter_dtSeen (c : Ctx) (p : Cap) (out : Bool) (i : Nat) : (c.enter p out i).dtSeen = c.dtSeen := rfl
@[simp] theorem Ctx.enter_missEA (c : Ctx) (p : Cap) (out : Bool) (i : Nat) : (c.enter p out i).missEA = c.missEA := rfl
@[simp] theorem Ctx.goBlock_live (c : Ctx) (b : Word) (i : Nat) : (c.goBlock b i).live = c.live := rfl
@[simp] theorem Ctx.goBlock_level (c : Ctx) (b : Word) (i : Nat) : (c.goBlock b i).level = c.level := rfl
@[simp] theorem Ctx.goBlock_x (c : Ctx) (b : Word) (i : Nat) : (c.goBlock b i).x = c.x := rfl
@[simp] theorem Ctx.goBlock_v (c : Ctx) (b : Word) (i : Nat) : (c.goBlock b i).v = c.v := rfl
@[simp] theorem Ctx.goBlock_k (c : Ctx) (b : Word) (i : Nat) : (c.goBlock b i).k = c.k := rfl
@[simp] theorem Ctx.goBlock_p (c : Ctx) (b : Word) (i : Nat) : (c.goBlock b i).p = c.p := rfl
@[simp] theorem Ctx.goBlock_lq (c : Ctx) (b : Word) (i : Nat) : (c.goBlock b i).lq = c.lq := rfl
@[simp] theorem Ctx.goBlock_sq (c : Ctx) (b : Word) (i : Nat) : (c.goBlock b i).sq = c.sq := rfl
@[simp] theorem Ctx.goBlock_bankDom (c : Ctx) (b : Word) (i : Nat) : (c.goBlock b i).bankDom = c.bankDom := rfl
@[simp] theorem Ctx.goBlock_cdom (c : Ctx) (b : Word) (i : Nat) : (c.goBlock b i).cdom = c.cdom := rfl
@[simp] theorem Ctx.goBlock_upv (c : Ctx) (b : Word) (i : Nat) : (c.goBlock b i).upv = c.upv := rfl
@[simp] theorem Ctx.goBlock_upn (c : Ctx) (b : Word) (i : Nat) : (c.goBlock b i).upn = c.upn := rfl
@[simp] theorem Ctx.goBlock_upc (c : Ctx) (b : Word) (i : Nat) : (c.goBlock b i).upc = c.upc := rfl
@[simp] theorem Ctx.goBlock_upa (c : Ctx) (b : Word) (i : Nat) : (c.goBlock b i).upa = c.upa := rfl
@[simp] theorem Ctx.goBlock_upi (c : Ctx) (b : Word) (i : Nat) : (c.goBlock b i).upi = c.upi := rfl
@[simp] theorem Ctx.goBlock_upk (c : Ctx) (b : Word) (i : Nat) : (c.goBlock b i).upk = c.upk := rfl
@[simp] theorem Ctx.goBlock_bstat (c : Ctx) (b : Word) (i : Nat) : (c.goBlock b i).bstat = c.bstat := rfl
@[simp] theorem Ctx.goBlock_prgn (c : Ctx) (b : Word) (i : Nat) : (c.goBlock b i).prgn = c.prgn := rfl
@[simp] theorem Ctx.goBlock_pres (c : Ctx) (b : Word) (i : Nat) : (c.goBlock b i).pres = c.pres := rfl
@[simp] theorem Ctx.goBlock_fstat (c : Ctx) (b : Word) (i : Nat) : (c.goBlock b i).fstat = c.fstat := rfl
@[simp] theorem Ctx.goBlock_inex (c : Ctx) (b : Word) (i : Nat) : (c.goBlock b i).inex = c.inex := rfl
@[simp] theorem Ctx.goBlock_twid (c : Ctx) (b : Word) (i : Nat) : (c.goBlock b i).twid = c.twid := rfl
@[simp] theorem Ctx.goBlock_tinf (c : Ctx) (b : Word) (i : Nat) : (c.goBlock b i).tinf = c.tinf := rfl
@[simp] theorem Ctx.goBlock_sup (c : Ctx) (b : Word) (i : Nat) : (c.goBlock b i).sup = c.sup := rfl
@[simp] theorem Ctx.goBlock_hyp (c : Ctx) (b : Word) (i : Nat) : (c.goBlock b i).hyp = c.hyp := rfl
@[simp] theorem Ctx.goBlock_budg (c : Ctx) (b : Word) (i : Nat) : (c.goBlock b i).budg = c.budg := rfl
@[simp] theorem Ctx.goBlock_dtLock (c : Ctx) (b : Word) (i : Nat) : (c.goBlock b i).dtLock = c.dtLock := rfl
@[simp] theorem Ctx.goBlock_dtFrac (c : Ctx) (b : Word) (i : Nat) : (c.goBlock b i).dtFrac = c.dtFrac := rfl
@[simp] theorem Ctx.goBlock_region (c : Ctx) (b : Word) (i : Nat) : (c.goBlock b i).region = c.region := rfl
@[simp] theorem Ctx.goBlock_pend (c : Ctx) (b : Word) (i : Nat) : (c.goBlock b i).pend = c.pend := rfl
@[simp] theorem Ctx.goBlock_sb (c : Ctx) (b : Word) (i : Nat) : (c.goBlock b i).sb = c.sb := rfl
@[simp] theorem Ctx.goBlock_acqs (c : Ctx) (b : Word) (i : Nat) : (c.goBlock b i).acqs = c.acqs := rfl
@[simp] theorem Ctx.goBlock_obs (c : Ctx) (b : Word) (i : Nat) : (c.goBlock b i).obs = c.obs := rfl
@[simp] theorem Ctx.goBlock_seq (c : Ctx) (b : Word) (i : Nat) : (c.goBlock b i).seq = c.seq := rfl
@[simp] theorem Ctx.goBlock_mon (c : Ctx) (b : Word) (i : Nat) : (c.goBlock b i).mon = c.mon := rfl
@[simp] theorem Ctx.goBlock_sfault (c : Ctx) (b : Word) (i : Nat) : (c.goBlock b i).sfault = c.sfault := rfl
@[simp] theorem Ctx.goBlock_forker (c : Ctx) (b : Word) (i : Nat) : (c.goBlock b i).forker = c.forker := rfl
@[simp] theorem Ctx.goBlock_fences (c : Ctx) (b : Word) (i : Nat) : (c.goBlock b i).fences = c.fences := rfl
@[simp] theorem Ctx.goBlock_fpart (c : Ctx) (b : Word) (i : Nat) : (c.goBlock b i).fpart = [] := rfl
@[simp] theorem Ctx.goBlock_dtSeen (c : Ctx) (b : Word) (i : Nat) : (c.goBlock b i).dtSeen = c.dtSeen := rfl
@[simp] theorem Ctx.goBlock_missEA (c : Ctx) (b : Word) (i : Nat) : (c.goBlock b i).missEA = c.missEA := rfl
@[simp] theorem Ctx.jump_live (c : Ctx) (n : Int) : (c.jump n).live = c.live := rfl
@[simp] theorem Ctx.jump_level (c : Ctx) (n : Int) : (c.jump n).level = c.level := rfl
@[simp] theorem Ctx.jump_x (c : Ctx) (n : Int) : (c.jump n).x = c.x := rfl
@[simp] theorem Ctx.jump_v (c : Ctx) (n : Int) : (c.jump n).v = c.v := rfl
@[simp] theorem Ctx.jump_k (c : Ctx) (n : Int) : (c.jump n).k = c.k := rfl
@[simp] theorem Ctx.jump_p (c : Ctx) (n : Int) : (c.jump n).p = c.p := rfl
@[simp] theorem Ctx.jump_lq (c : Ctx) (n : Int) : (c.jump n).lq = c.lq := rfl
@[simp] theorem Ctx.jump_sq (c : Ctx) (n : Int) : (c.jump n).sq = c.sq := rfl
@[simp] theorem Ctx.jump_bankDom (c : Ctx) (n : Int) : (c.jump n).bankDom = c.bankDom := rfl
@[simp] theorem Ctx.jump_cdom (c : Ctx) (n : Int) : (c.jump n).cdom = c.cdom := rfl
@[simp] theorem Ctx.jump_upv (c : Ctx) (n : Int) : (c.jump n).upv = c.upv := rfl
@[simp] theorem Ctx.jump_upn (c : Ctx) (n : Int) : (c.jump n).upn = c.upn := rfl
@[simp] theorem Ctx.jump_upc (c : Ctx) (n : Int) : (c.jump n).upc = c.upc := rfl
@[simp] theorem Ctx.jump_upa (c : Ctx) (n : Int) : (c.jump n).upa = c.upa := rfl
@[simp] theorem Ctx.jump_upi (c : Ctx) (n : Int) : (c.jump n).upi = c.upi := rfl
@[simp] theorem Ctx.jump_upk (c : Ctx) (n : Int) : (c.jump n).upk = c.upk := rfl
@[simp] theorem Ctx.jump_bstat (c : Ctx) (n : Int) : (c.jump n).bstat = c.bstat := rfl
@[simp] theorem Ctx.jump_prgn (c : Ctx) (n : Int) : (c.jump n).prgn = c.prgn := rfl
@[simp] theorem Ctx.jump_pres (c : Ctx) (n : Int) : (c.jump n).pres = c.pres := rfl
@[simp] theorem Ctx.jump_fstat (c : Ctx) (n : Int) : (c.jump n).fstat = c.fstat := rfl
@[simp] theorem Ctx.jump_inex (c : Ctx) (n : Int) : (c.jump n).inex = c.inex := rfl
@[simp] theorem Ctx.jump_twid (c : Ctx) (n : Int) : (c.jump n).twid = c.twid := rfl
@[simp] theorem Ctx.jump_tinf (c : Ctx) (n : Int) : (c.jump n).tinf = c.tinf := rfl
@[simp] theorem Ctx.jump_sup (c : Ctx) (n : Int) : (c.jump n).sup = c.sup := rfl
@[simp] theorem Ctx.jump_hyp (c : Ctx) (n : Int) : (c.jump n).hyp = c.hyp := rfl
@[simp] theorem Ctx.jump_budg (c : Ctx) (n : Int) : (c.jump n).budg = c.budg := rfl
@[simp] theorem Ctx.jump_dtLock (c : Ctx) (n : Int) : (c.jump n).dtLock = c.dtLock := rfl
@[simp] theorem Ctx.jump_dtFrac (c : Ctx) (n : Int) : (c.jump n).dtFrac = c.dtFrac := rfl
@[simp] theorem Ctx.jump_region (c : Ctx) (n : Int) : (c.jump n).region = c.region := rfl
@[simp] theorem Ctx.jump_pend (c : Ctx) (n : Int) : (c.jump n).pend = c.pend := rfl
@[simp] theorem Ctx.jump_sb (c : Ctx) (n : Int) : (c.jump n).sb = c.sb := rfl
@[simp] theorem Ctx.jump_acqs (c : Ctx) (n : Int) : (c.jump n).acqs = c.acqs := rfl
@[simp] theorem Ctx.jump_obs (c : Ctx) (n : Int) : (c.jump n).obs = c.obs := rfl
@[simp] theorem Ctx.jump_seq (c : Ctx) (n : Int) : (c.jump n).seq = c.seq := rfl
@[simp] theorem Ctx.jump_mon (c : Ctx) (n : Int) : (c.jump n).mon = c.mon := rfl
@[simp] theorem Ctx.jump_sfault (c : Ctx) (n : Int) : (c.jump n).sfault = c.sfault := rfl
@[simp] theorem Ctx.jump_forker (c : Ctx) (n : Int) : (c.jump n).forker = c.forker := rfl
@[simp] theorem Ctx.jump_fences (c : Ctx) (n : Int) : (c.jump n).fences = c.fences := rfl
@[simp] theorem Ctx.jump_fpart (c : Ctx) (n : Int) : (c.jump n).fpart = [] := rfl
@[simp] theorem Ctx.jump_dtSeen (c : Ctx) (n : Int) : (c.jump n).dtSeen = c.dtSeen := rfl
@[simp] theorem Ctx.jump_missEA (c : Ctx) (n : Int) : (c.jump n).missEA = c.missEA := rfl
@[simp] theorem Ctx.advance_live (c : Ctx) : c.advance.live = c.live := by unfold Ctx.advance; split <;> rfl
@[simp] theorem Ctx.advance_level (c : Ctx) : c.advance.level = c.level := by unfold Ctx.advance; split <;> rfl
@[simp] theorem Ctx.advance_x (c : Ctx) : c.advance.x = c.x := by unfold Ctx.advance; split <;> rfl
@[simp] theorem Ctx.advance_v (c : Ctx) : c.advance.v = c.v := by unfold Ctx.advance; split <;> rfl
@[simp] theorem Ctx.advance_k (c : Ctx) : c.advance.k = c.k := by unfold Ctx.advance; split <;> rfl
@[simp] theorem Ctx.advance_p (c : Ctx) : c.advance.p = c.p := by unfold Ctx.advance; split <;> rfl
@[simp] theorem Ctx.advance_lq (c : Ctx) : c.advance.lq = c.lq := by unfold Ctx.advance; split <;> rfl
@[simp] theorem Ctx.advance_sq (c : Ctx) : c.advance.sq = c.sq := by unfold Ctx.advance; split <;> rfl
@[simp] theorem Ctx.advance_bankDom (c : Ctx) : c.advance.bankDom = c.bankDom := by unfold Ctx.advance; split <;> rfl
@[simp] theorem Ctx.advance_cdom (c : Ctx) : c.advance.cdom = c.cdom := by unfold Ctx.advance; split <;> rfl
@[simp] theorem Ctx.advance_upv (c : Ctx) : c.advance.upv = c.upv := by unfold Ctx.advance; split <;> rfl
@[simp] theorem Ctx.advance_upn (c : Ctx) : c.advance.upn = c.upn := by unfold Ctx.advance; split <;> rfl
@[simp] theorem Ctx.advance_upc (c : Ctx) : c.advance.upc = c.upc := by unfold Ctx.advance; split <;> rfl
@[simp] theorem Ctx.advance_upa (c : Ctx) : c.advance.upa = c.upa := by unfold Ctx.advance; split <;> rfl
@[simp] theorem Ctx.advance_upi (c : Ctx) : c.advance.upi = c.upi := by unfold Ctx.advance; split <;> rfl
@[simp] theorem Ctx.advance_upk (c : Ctx) : c.advance.upk = c.upk := by unfold Ctx.advance; split <;> rfl
@[simp] theorem Ctx.advance_bstat (c : Ctx) : c.advance.bstat = c.bstat := by unfold Ctx.advance; split <;> rfl
@[simp] theorem Ctx.advance_prgn (c : Ctx) : c.advance.prgn = c.prgn := by unfold Ctx.advance; split <;> rfl
@[simp] theorem Ctx.advance_pres (c : Ctx) : c.advance.pres = c.pres := by unfold Ctx.advance; split <;> rfl
@[simp] theorem Ctx.advance_fstat (c : Ctx) : c.advance.fstat = c.fstat := by unfold Ctx.advance; split <;> rfl
@[simp] theorem Ctx.advance_inex (c : Ctx) : c.advance.inex = c.inex := by unfold Ctx.advance; split <;> rfl
@[simp] theorem Ctx.advance_twid (c : Ctx) : c.advance.twid = c.twid := by unfold Ctx.advance; split <;> rfl
@[simp] theorem Ctx.advance_tinf (c : Ctx) : c.advance.tinf = c.tinf := by unfold Ctx.advance; split <;> rfl
@[simp] theorem Ctx.advance_sup (c : Ctx) : c.advance.sup = c.sup := by unfold Ctx.advance; split <;> rfl
@[simp] theorem Ctx.advance_hyp (c : Ctx) : c.advance.hyp = c.hyp := by unfold Ctx.advance; split <;> rfl
@[simp] theorem Ctx.advance_budg (c : Ctx) : c.advance.budg = c.budg := by unfold Ctx.advance; split <;> rfl
@[simp] theorem Ctx.advance_dtLock (c : Ctx) : c.advance.dtLock = c.dtLock := by unfold Ctx.advance; split <;> rfl
@[simp] theorem Ctx.advance_dtFrac (c : Ctx) : c.advance.dtFrac = c.dtFrac := by unfold Ctx.advance; split <;> rfl
@[simp] theorem Ctx.advance_region (c : Ctx) : c.advance.region = c.region := by unfold Ctx.advance; split <;> rfl
@[simp] theorem Ctx.advance_pend (c : Ctx) : c.advance.pend = c.pend := by unfold Ctx.advance; split <;> rfl
@[simp] theorem Ctx.advance_sb (c : Ctx) : c.advance.sb = c.sb := by unfold Ctx.advance; split <;> rfl
@[simp] theorem Ctx.advance_acqs (c : Ctx) : c.advance.acqs = c.acqs := by unfold Ctx.advance; split <;> rfl
@[simp] theorem Ctx.advance_obs (c : Ctx) : c.advance.obs = c.obs := by unfold Ctx.advance; split <;> rfl
@[simp] theorem Ctx.advance_seq (c : Ctx) : c.advance.seq = c.seq := by unfold Ctx.advance; split <;> rfl
@[simp] theorem Ctx.advance_mon (c : Ctx) : c.advance.mon = c.mon := by unfold Ctx.advance; split <;> rfl
@[simp] theorem Ctx.advance_sfault (c : Ctx) : c.advance.sfault = c.sfault := by unfold Ctx.advance; split <;> rfl
@[simp] theorem Ctx.advance_forker (c : Ctx) : c.advance.forker = c.forker := by unfold Ctx.advance; split <;> rfl
@[simp] theorem Ctx.advance_fences (c : Ctx) : c.advance.fences = c.fences := by unfold Ctx.advance; split <;> rfl
@[simp] theorem Ctx.advance_dtSeen (c : Ctx) : c.advance.dtSeen = c.dtSeen := by unfold Ctx.advance; split <;> rfl
@[simp] theorem Ctx.advance_missEA (c : Ctx) : c.advance.missEA = c.missEA := by unfold Ctx.advance; split <;> rfl

/-! ## Signals and retirement -/

@[simp] theorem State.signal_clusters (s : State) (g : Nat) (h : Hdr) : (s.signal g h).clusters = s.clusters := by unfold State.signal; split <;> rfl
@[simp] theorem State.signal_mem (s : State) (g : Nat) (h : Hdr) : (s.signal g h).mem = s.mem := by unfold State.signal; split <;> rfl
@[simp] theorem State.signal_tags (s : State) (g : Nat) (h : Hdr) : (s.signal g h).tags = s.tags := by unfold State.signal; split <;> rfl
@[simp] theorem State.signal_poison (s : State) (g : Nat) (h : Hdr) : (s.signal g h).poison = s.poison := by unfold State.signal; split <;> rfl
@[simp] theorem State.signal_storage (s : State) (g : Nat) (h : Hdr) : (s.signal g h).storage = s.storage := by unfold State.signal; split <;> rfl
@[simp] theorem State.signal_dir (s : State) (g : Nat) (h : Hdr) : (s.signal g h).dir = s.dir := by unfold State.signal; split <;> rfl
@[simp] theorem State.signal_dec (s : State) (g : Nat) (h : Hdr) : (s.signal g h).dec = s.dec := by unfold State.signal; split <;> rfl
@[simp] theorem State.signal_writers (s : State) (g : Nat) (h : Hdr) : (s.signal g h).writers = s.writers := by unfold State.signal; split <;> rfl
@[simp] theorem State.signal_recs (s : State) (g : Nat) (h : Hdr) : (s.signal g h).recs = s.recs := by unfold State.signal; split <;> rfl
@[simp] theorem State.signal_invals (s : State) (g : Nat) (h : Hdr) : (s.signal g h).invals = s.invals := by unfold State.signal; split <;> rfl
@[simp] theorem State.signal_lineVer (s : State) (g : Nat) (h : Hdr) : (s.signal g h).lineVer = s.lineVer := by unfold State.signal; split <;> rfl
@[simp] theorem State.signal_byteVer (s : State) (g : Nat) (h : Hdr) : (s.signal g h).byteVer = s.byteVer := by unfold State.signal; split <;> rfl
@[simp] theorem State.signal_now (s : State) (g : Nat) (h : Hdr) : (s.signal g h).now = s.now := by unfold State.signal; split <;> rfl
@[simp] theorem State.signal_nextWid (s : State) (g : Nat) (h : Hdr) : (s.signal g h).nextWid = s.nextWid := by unfold State.signal; split <;> rfl
@[simp] theorem State.signal_nextId (s : State) (g : Nat) (h : Hdr) : (s.signal g h).nextId = s.nextId := by unfold State.signal; split <;> rfl
@[simp] theorem State.signal_nextOrd (s : State) (g : Nat) (h : Hdr) : (s.signal g h).nextOrd = s.nextOrd := by unfold State.signal; split <;> rfl
@[simp] theorem State.signal_fresh (s : State) (g : Nat) (h : Hdr) : (s.signal g h).fresh = s.fresh := by unfold State.signal; split <;> rfl
@[simp] theorem State.signal_dev (s : State) (g : Nat) (h : Hdr) : (s.signal g h).dev = s.dev := by unfold State.signal; split <;> rfl
@[simp] theorem State.signal_arrivals (s : State) (g : Nat) (h : Hdr) : (s.signal g h).arrivals = s.arrivals := by unfold State.signal; split <;> rfl
@[simp] theorem State.signal_flights (s : State) (g : Nat) (h : Hdr) : (s.signal g h).flights = s.flights := by unfold State.signal; split <;> rfl
@[simp] theorem State.signal_agenda (s : State) (g : Nat) (h : Hdr) : (s.signal g h).agenda = s.agenda := by unfold State.signal; split <;> rfl
@[simp] theorem State.signal_cur (s : State) (g : Nat) (h : Hdr) : (s.signal g h).cur = s.cur := by unfold State.signal; split <;> rfl
@[simp] theorem State.signal_ev (s : State) (g : Nat) (h : Hdr) : (s.signal g h).ev = s.ev := by unfold State.signal; split <;> rfl
@[simp] theorem State.signal_rr (s : State) (g : Nat) (h : Hdr) : (s.signal g h).rr = s.rr := by unfold State.signal; split <;> rfl
@[simp] theorem State.signal_ecc (s : State) (g : Nat) (h : Hdr) : (s.signal g h).ecc = s.ecc := by unfold State.signal; split <;> rfl
@[simp] theorem State.signal_remote (s : State) (g : Nat) (h : Hdr) : (s.signal g h).remote = s.remote := by unfold State.signal; split <;> rfl
@[simp] theorem State.signal_far (s : State) (g : Nat) (h : Hdr) : (s.signal g h).far = s.far := by unfold State.signal; split <;> rfl
@[simp] theorem State.signalNext_clusters (s : State) (g : Nat) (h : Hdr) : (s.signalNext g h).clusters = s.clusters := by unfold State.signalNext; split <;> rfl
@[simp] theorem State.signalNext_mem (s : State) (g : Nat) (h : Hdr) : (s.signalNext g h).mem = s.mem := by unfold State.signalNext; split <;> rfl
@[simp] theorem State.signalNext_tags (s : State) (g : Nat) (h : Hdr) : (s.signalNext g h).tags = s.tags := by unfold State.signalNext; split <;> rfl
@[simp] theorem State.signalNext_poison (s : State) (g : Nat) (h : Hdr) : (s.signalNext g h).poison = s.poison := by unfold State.signalNext; split <;> rfl
@[simp] theorem State.signalNext_storage (s : State) (g : Nat) (h : Hdr) : (s.signalNext g h).storage = s.storage := by unfold State.signalNext; split <;> rfl
@[simp] theorem State.signalNext_dir (s : State) (g : Nat) (h : Hdr) : (s.signalNext g h).dir = s.dir := by unfold State.signalNext; split <;> rfl
@[simp] theorem State.signalNext_dec (s : State) (g : Nat) (h : Hdr) : (s.signalNext g h).dec = s.dec := by unfold State.signalNext; split <;> rfl
@[simp] theorem State.signalNext_writers (s : State) (g : Nat) (h : Hdr) : (s.signalNext g h).writers = s.writers := by unfold State.signalNext; split <;> rfl
@[simp] theorem State.signalNext_recs (s : State) (g : Nat) (h : Hdr) : (s.signalNext g h).recs = s.recs := by unfold State.signalNext; split <;> rfl
@[simp] theorem State.signalNext_invals (s : State) (g : Nat) (h : Hdr) : (s.signalNext g h).invals = s.invals := by unfold State.signalNext; split <;> rfl
@[simp] theorem State.signalNext_lineVer (s : State) (g : Nat) (h : Hdr) : (s.signalNext g h).lineVer = s.lineVer := by unfold State.signalNext; split <;> rfl
@[simp] theorem State.signalNext_byteVer (s : State) (g : Nat) (h : Hdr) : (s.signalNext g h).byteVer = s.byteVer := by unfold State.signalNext; split <;> rfl
@[simp] theorem State.signalNext_now (s : State) (g : Nat) (h : Hdr) : (s.signalNext g h).now = s.now := by unfold State.signalNext; split <;> rfl
@[simp] theorem State.signalNext_nextWid (s : State) (g : Nat) (h : Hdr) : (s.signalNext g h).nextWid = s.nextWid := by unfold State.signalNext; split <;> rfl
@[simp] theorem State.signalNext_nextId (s : State) (g : Nat) (h : Hdr) : (s.signalNext g h).nextId = s.nextId := by unfold State.signalNext; split <;> rfl
@[simp] theorem State.signalNext_nextOrd (s : State) (g : Nat) (h : Hdr) : (s.signalNext g h).nextOrd = s.nextOrd := by unfold State.signalNext; split <;> rfl
@[simp] theorem State.signalNext_fresh (s : State) (g : Nat) (h : Hdr) : (s.signalNext g h).fresh = s.fresh := by unfold State.signalNext; split <;> rfl
@[simp] theorem State.signalNext_dev (s : State) (g : Nat) (h : Hdr) : (s.signalNext g h).dev = s.dev := by unfold State.signalNext; split <;> rfl
@[simp] theorem State.signalNext_arrivals (s : State) (g : Nat) (h : Hdr) : (s.signalNext g h).arrivals = s.arrivals := by unfold State.signalNext; split <;> rfl
@[simp] theorem State.signalNext_flights (s : State) (g : Nat) (h : Hdr) : (s.signalNext g h).flights = s.flights := by unfold State.signalNext; split <;> rfl
@[simp] theorem State.signalNext_agenda (s : State) (g : Nat) (h : Hdr) : (s.signalNext g h).agenda = s.agenda := by unfold State.signalNext; split <;> rfl
@[simp] theorem State.signalNext_cur (s : State) (g : Nat) (h : Hdr) : (s.signalNext g h).cur = s.cur := by unfold State.signalNext; split <;> rfl
@[simp] theorem State.signalNext_ev (s : State) (g : Nat) (h : Hdr) : (s.signalNext g h).ev = s.ev := by unfold State.signalNext; split <;> rfl
@[simp] theorem State.signalNext_rr (s : State) (g : Nat) (h : Hdr) : (s.signalNext g h).rr = s.rr := by unfold State.signalNext; split <;> rfl
@[simp] theorem State.signalNext_ecc (s : State) (g : Nat) (h : Hdr) : (s.signalNext g h).ecc = s.ecc := by unfold State.signalNext; split <;> rfl
@[simp] theorem State.signalNext_remote (s : State) (g : Nat) (h : Hdr) : (s.signalNext g h).remote = s.remote := by unfold State.signalNext; split <;> rfl
@[simp] theorem State.signalNext_far (s : State) (g : Nat) (h : Hdr) : (s.signalNext g h).far = s.far := by unfold State.signalNext; split <;> rfl
@[simp] theorem State.retire_clusters (s : State) (a : Agent) (h : Hdr) : (s.retire a h).clusters = s.clusters := by simp [State.retire]
@[simp] theorem State.retire_mem (s : State) (a : Agent) (h : Hdr) : (s.retire a h).mem = s.mem := by simp [State.retire]
@[simp] theorem State.retire_tags (s : State) (a : Agent) (h : Hdr) : (s.retire a h).tags = s.tags := by simp [State.retire]
@[simp] theorem State.retire_poison (s : State) (a : Agent) (h : Hdr) : (s.retire a h).poison = s.poison := by simp [State.retire]
@[simp] theorem State.retire_storage (s : State) (a : Agent) (h : Hdr) : (s.retire a h).storage = s.storage := by simp [State.retire]
@[simp] theorem State.retire_dir (s : State) (a : Agent) (h : Hdr) : (s.retire a h).dir = s.dir := by simp [State.retire]
@[simp] theorem State.retire_dec (s : State) (a : Agent) (h : Hdr) : (s.retire a h).dec = s.dec := by simp [State.retire]
@[simp] theorem State.retire_writers (s : State) (a : Agent) (h : Hdr) : (s.retire a h).writers = s.writers := by simp [State.retire]
@[simp] theorem State.retire_recs (s : State) (a : Agent) (h : Hdr) : (s.retire a h).recs = s.recs := by simp [State.retire]
@[simp] theorem State.retire_invals (s : State) (a : Agent) (h : Hdr) : (s.retire a h).invals = s.invals := by simp [State.retire]
@[simp] theorem State.retire_lineVer (s : State) (a : Agent) (h : Hdr) : (s.retire a h).lineVer = s.lineVer := by simp [State.retire]
@[simp] theorem State.retire_byteVer (s : State) (a : Agent) (h : Hdr) : (s.retire a h).byteVer = s.byteVer := by simp [State.retire]
@[simp] theorem State.retire_now (s : State) (a : Agent) (h : Hdr) : (s.retire a h).now = s.now := by simp [State.retire]
@[simp] theorem State.retire_nextWid (s : State) (a : Agent) (h : Hdr) : (s.retire a h).nextWid = s.nextWid := by simp [State.retire]
@[simp] theorem State.retire_nextId (s : State) (a : Agent) (h : Hdr) : (s.retire a h).nextId = s.nextId := by simp [State.retire]
@[simp] theorem State.retire_nextOrd (s : State) (a : Agent) (h : Hdr) : (s.retire a h).nextOrd = s.nextOrd := by simp [State.retire]
@[simp] theorem State.retire_fresh (s : State) (a : Agent) (h : Hdr) : (s.retire a h).fresh = s.fresh := by simp [State.retire]
@[simp] theorem State.retire_dev (s : State) (a : Agent) (h : Hdr) : (s.retire a h).dev = s.dev := by simp [State.retire]
@[simp] theorem State.retire_arrivals (s : State) (a : Agent) (h : Hdr) : (s.retire a h).arrivals = s.arrivals := by simp [State.retire]
@[simp] theorem State.retire_flights (s : State) (a : Agent) (h : Hdr) : (s.retire a h).flights = s.flights := by simp [State.retire]
@[simp] theorem State.retire_agenda (s : State) (a : Agent) (h : Hdr) : (s.retire a h).agenda = s.agenda := by simp [State.retire]
@[simp] theorem State.retire_cur (s : State) (a : Agent) (h : Hdr) : (s.retire a h).cur = s.cur := by simp [State.retire]
@[simp] theorem State.retire_ev (s : State) (a : Agent) (h : Hdr) : (s.retire a h).ev = s.ev := by simp [State.retire]
@[simp] theorem State.retire_rr (s : State) (a : Agent) (h : Hdr) : (s.retire a h).rr = s.rr := by simp [State.retire]
@[simp] theorem State.retire_ecc (s : State) (a : Agent) (h : Hdr) : (s.retire a h).ecc = s.ecc := by simp [State.retire]
@[simp] theorem State.retire_remote (s : State) (a : Agent) (h : Hdr) : (s.retire a h).remote = s.remote := by simp [State.retire]
@[simp] theorem State.retire_far (s : State) (a : Agent) (h : Hdr) : (s.retire a h).far = s.far := by simp [State.retire]

/-! ## Operands -/

@[simp] theorem Ctx.popLq_live (c : Ctx) (q : Nat) : (c.popLq q).2.live = c.live := by unfold Ctx.popLq; split <;> rfl
@[simp] theorem Ctx.popLq_level (c : Ctx) (q : Nat) : (c.popLq q).2.level = c.level := by unfold Ctx.popLq; split <;> rfl
@[simp] theorem Ctx.popLq_pcc (c : Ctx) (q : Nat) : (c.popLq q).2.pcc = c.pcc := by unfold Ctx.popLq; split <;> rfl
@[simp] theorem Ctx.popLq_pcOut (c : Ctx) (q : Nat) : (c.popLq q).2.pcOut = c.pcOut := by unfold Ctx.popLq; split <;> rfl
@[simp] theorem Ctx.popLq_slot (c : Ctx) (q : Nat) : (c.popLq q).2.slot = c.slot := by unfold Ctx.popLq; split <;> rfl
@[simp] theorem Ctx.popLq_blk (c : Ctx) (q : Nat) : (c.popLq q).2.blk = c.blk := by unfold Ctx.popLq; split <;> rfl
@[simp] theorem Ctx.popLq_waitTaken (c : Ctx) (q : Nat) : (c.popLq q).2.waitTaken = c.waitTaken := by unfold Ctx.popLq; split <;> rfl
@[simp] theorem Ctx.popLq_waiting (c : Ctx) (q : Nat) : (c.popLq q).2.waiting = c.waiting := by unfold Ctx.popLq; split <;> rfl
@[simp] theorem Ctx.popLq_x (c : Ctx) (q : Nat) : (c.popLq q).2.x = c.x := by unfold Ctx.popLq; split <;> rfl
@[simp] theorem Ctx.popLq_v (c : Ctx) (q : Nat) : (c.popLq q).2.v = c.v := by unfold Ctx.popLq; split <;> rfl
@[simp] theorem Ctx.popLq_k (c : Ctx) (q : Nat) : (c.popLq q).2.k = c.k := by unfold Ctx.popLq; split <;> rfl
@[simp] theorem Ctx.popLq_p (c : Ctx) (q : Nat) : (c.popLq q).2.p = c.p := by unfold Ctx.popLq; split <;> rfl
@[simp] theorem Ctx.popLq_sq (c : Ctx) (q : Nat) : (c.popLq q).2.sq = c.sq := by unfold Ctx.popLq; split <;> rfl
@[simp] theorem Ctx.popLq_bankDom (c : Ctx) (q : Nat) : (c.popLq q).2.bankDom = c.bankDom := by unfold Ctx.popLq; split <;> rfl
@[simp] theorem Ctx.popLq_cdom (c : Ctx) (q : Nat) : (c.popLq q).2.cdom = c.cdom := by unfold Ctx.popLq; split <;> rfl
@[simp] theorem Ctx.popLq_upv (c : Ctx) (q : Nat) : (c.popLq q).2.upv = c.upv := by unfold Ctx.popLq; split <;> rfl
@[simp] theorem Ctx.popLq_upn (c : Ctx) (q : Nat) : (c.popLq q).2.upn = c.upn := by unfold Ctx.popLq; split <;> rfl
@[simp] theorem Ctx.popLq_upc (c : Ctx) (q : Nat) : (c.popLq q).2.upc = c.upc := by unfold Ctx.popLq; split <;> rfl
@[simp] theorem Ctx.popLq_upa (c : Ctx) (q : Nat) : (c.popLq q).2.upa = c.upa := by unfold Ctx.popLq; split <;> rfl
@[simp] theorem Ctx.popLq_upi (c : Ctx) (q : Nat) : (c.popLq q).2.upi = c.upi := by unfold Ctx.popLq; split <;> rfl
@[simp] theorem Ctx.popLq_upk (c : Ctx) (q : Nat) : (c.popLq q).2.upk = c.upk := by unfold Ctx.popLq; split <;> rfl
@[simp] theorem Ctx.popLq_bstat (c : Ctx) (q : Nat) : (c.popLq q).2.bstat = c.bstat := by unfold Ctx.popLq; split <;> rfl
@[simp] theorem Ctx.popLq_prgn (c : Ctx) (q : Nat) : (c.popLq q).2.prgn = c.prgn := by unfold Ctx.popLq; split <;> rfl
@[simp] theorem Ctx.popLq_pres (c : Ctx) (q : Nat) : (c.popLq q).2.pres = c.pres := by unfold Ctx.popLq; split <;> rfl
@[simp] theorem Ctx.popLq_fstat (c : Ctx) (q : Nat) : (c.popLq q).2.fstat = c.fstat := by unfold Ctx.popLq; split <;> rfl
@[simp] theorem Ctx.popLq_inex (c : Ctx) (q : Nat) : (c.popLq q).2.inex = c.inex := by unfold Ctx.popLq; split <;> rfl
@[simp] theorem Ctx.popLq_twid (c : Ctx) (q : Nat) : (c.popLq q).2.twid = c.twid := by unfold Ctx.popLq; split <;> rfl
@[simp] theorem Ctx.popLq_tinf (c : Ctx) (q : Nat) : (c.popLq q).2.tinf = c.tinf := by unfold Ctx.popLq; split <;> rfl
@[simp] theorem Ctx.popLq_sup (c : Ctx) (q : Nat) : (c.popLq q).2.sup = c.sup := by unfold Ctx.popLq; split <;> rfl
@[simp] theorem Ctx.popLq_hyp (c : Ctx) (q : Nat) : (c.popLq q).2.hyp = c.hyp := by unfold Ctx.popLq; split <;> rfl
@[simp] theorem Ctx.popLq_budg (c : Ctx) (q : Nat) : (c.popLq q).2.budg = c.budg := by unfold Ctx.popLq; split <;> rfl
@[simp] theorem Ctx.popLq_dtLock (c : Ctx) (q : Nat) : (c.popLq q).2.dtLock = c.dtLock := by unfold Ctx.popLq; split <;> rfl
@[simp] theorem Ctx.popLq_dtFrac (c : Ctx) (q : Nat) : (c.popLq q).2.dtFrac = c.dtFrac := by unfold Ctx.popLq; split <;> rfl
@[simp] theorem Ctx.popLq_region (c : Ctx) (q : Nat) : (c.popLq q).2.region = c.region := by unfold Ctx.popLq; split <;> rfl
@[simp] theorem Ctx.popLq_pend (c : Ctx) (q : Nat) : (c.popLq q).2.pend = c.pend := by unfold Ctx.popLq; split <;> rfl
@[simp] theorem Ctx.popLq_sb (c : Ctx) (q : Nat) : (c.popLq q).2.sb = c.sb := by unfold Ctx.popLq; split <;> rfl
@[simp] theorem Ctx.popLq_acqs (c : Ctx) (q : Nat) : (c.popLq q).2.acqs = c.acqs := by unfold Ctx.popLq; split <;> rfl
@[simp] theorem Ctx.popLq_obs (c : Ctx) (q : Nat) : (c.popLq q).2.obs = c.obs := by unfold Ctx.popLq; split <;> rfl
@[simp] theorem Ctx.popLq_seq (c : Ctx) (q : Nat) : (c.popLq q).2.seq = c.seq := by unfold Ctx.popLq; split <;> rfl
@[simp] theorem Ctx.popLq_mon (c : Ctx) (q : Nat) : (c.popLq q).2.mon = c.mon := by unfold Ctx.popLq; split <;> rfl
@[simp] theorem Ctx.popLq_busy (c : Ctx) (q : Nat) : (c.popLq q).2.busy = c.busy := by unfold Ctx.popLq; split <;> rfl
@[simp] theorem Ctx.popLq_sfault (c : Ctx) (q : Nat) : (c.popLq q).2.sfault = c.sfault := by unfold Ctx.popLq; split <;> rfl
@[simp] theorem Ctx.popLq_forker (c : Ctx) (q : Nat) : (c.popLq q).2.forker = c.forker := by unfold Ctx.popLq; split <;> rfl
@[simp] theorem Ctx.popLq_fences (c : Ctx) (q : Nat) : (c.popLq q).2.fences = c.fences := by unfold Ctx.popLq; split <;> rfl
@[simp] theorem Ctx.popLq_fpart (c : Ctx) (q : Nat) : (c.popLq q).2.fpart = c.fpart := by unfold Ctx.popLq; split <;> rfl
@[simp] theorem Ctx.popLq_dtSeen (c : Ctx) (q : Nat) : (c.popLq q).2.dtSeen = c.dtSeen := by unfold Ctx.popLq; split <;> rfl
@[simp] theorem Ctx.popLq_missEA (c : Ctx) (q : Nat) : (c.popLq q).2.missEA = c.missEA := by unfold Ctx.popLq; split <;> rfl
@[simp] theorem Ctx.readS_live (c : Ctx) (o : Operand) : (c.readS o).2.live = c.live := by unfold Ctx.readS; split <;> simp
@[simp] theorem Ctx.readS_level (c : Ctx) (o : Operand) : (c.readS o).2.level = c.level := by unfold Ctx.readS; split <;> simp
@[simp] theorem Ctx.readS_pcc (c : Ctx) (o : Operand) : (c.readS o).2.pcc = c.pcc := by unfold Ctx.readS; split <;> simp
@[simp] theorem Ctx.readS_pcOut (c : Ctx) (o : Operand) : (c.readS o).2.pcOut = c.pcOut := by unfold Ctx.readS; split <;> simp
@[simp] theorem Ctx.readS_slot (c : Ctx) (o : Operand) : (c.readS o).2.slot = c.slot := by unfold Ctx.readS; split <;> simp
@[simp] theorem Ctx.readS_blk (c : Ctx) (o : Operand) : (c.readS o).2.blk = c.blk := by unfold Ctx.readS; split <;> simp
@[simp] theorem Ctx.readS_waitTaken (c : Ctx) (o : Operand) : (c.readS o).2.waitTaken = c.waitTaken := by unfold Ctx.readS; split <;> simp
@[simp] theorem Ctx.readS_waiting (c : Ctx) (o : Operand) : (c.readS o).2.waiting = c.waiting := by unfold Ctx.readS; split <;> simp
@[simp] theorem Ctx.readS_x (c : Ctx) (o : Operand) : (c.readS o).2.x = c.x := by unfold Ctx.readS; split <;> simp
@[simp] theorem Ctx.readS_v (c : Ctx) (o : Operand) : (c.readS o).2.v = c.v := by unfold Ctx.readS; split <;> simp
@[simp] theorem Ctx.readS_k (c : Ctx) (o : Operand) : (c.readS o).2.k = c.k := by unfold Ctx.readS; split <;> simp
@[simp] theorem Ctx.readS_p (c : Ctx) (o : Operand) : (c.readS o).2.p = c.p := by unfold Ctx.readS; split <;> simp
@[simp] theorem Ctx.readS_sq (c : Ctx) (o : Operand) : (c.readS o).2.sq = c.sq := by unfold Ctx.readS; split <;> simp
@[simp] theorem Ctx.readS_bankDom (c : Ctx) (o : Operand) : (c.readS o).2.bankDom = c.bankDom := by unfold Ctx.readS; split <;> simp
@[simp] theorem Ctx.readS_cdom (c : Ctx) (o : Operand) : (c.readS o).2.cdom = c.cdom := by unfold Ctx.readS; split <;> simp
@[simp] theorem Ctx.readS_upv (c : Ctx) (o : Operand) : (c.readS o).2.upv = c.upv := by unfold Ctx.readS; split <;> simp
@[simp] theorem Ctx.readS_upn (c : Ctx) (o : Operand) : (c.readS o).2.upn = c.upn := by unfold Ctx.readS; split <;> simp
@[simp] theorem Ctx.readS_upc (c : Ctx) (o : Operand) : (c.readS o).2.upc = c.upc := by unfold Ctx.readS; split <;> simp
@[simp] theorem Ctx.readS_upa (c : Ctx) (o : Operand) : (c.readS o).2.upa = c.upa := by unfold Ctx.readS; split <;> simp
@[simp] theorem Ctx.readS_upi (c : Ctx) (o : Operand) : (c.readS o).2.upi = c.upi := by unfold Ctx.readS; split <;> simp
@[simp] theorem Ctx.readS_upk (c : Ctx) (o : Operand) : (c.readS o).2.upk = c.upk := by unfold Ctx.readS; split <;> simp
@[simp] theorem Ctx.readS_bstat (c : Ctx) (o : Operand) : (c.readS o).2.bstat = c.bstat := by unfold Ctx.readS; split <;> simp
@[simp] theorem Ctx.readS_prgn (c : Ctx) (o : Operand) : (c.readS o).2.prgn = c.prgn := by unfold Ctx.readS; split <;> simp
@[simp] theorem Ctx.readS_pres (c : Ctx) (o : Operand) : (c.readS o).2.pres = c.pres := by unfold Ctx.readS; split <;> simp
@[simp] theorem Ctx.readS_fstat (c : Ctx) (o : Operand) : (c.readS o).2.fstat = c.fstat := by unfold Ctx.readS; split <;> simp
@[simp] theorem Ctx.readS_inex (c : Ctx) (o : Operand) : (c.readS o).2.inex = c.inex := by unfold Ctx.readS; split <;> simp
@[simp] theorem Ctx.readS_twid (c : Ctx) (o : Operand) : (c.readS o).2.twid = c.twid := by unfold Ctx.readS; split <;> simp
@[simp] theorem Ctx.readS_tinf (c : Ctx) (o : Operand) : (c.readS o).2.tinf = c.tinf := by unfold Ctx.readS; split <;> simp
@[simp] theorem Ctx.readS_sup (c : Ctx) (o : Operand) : (c.readS o).2.sup = c.sup := by unfold Ctx.readS; split <;> simp
@[simp] theorem Ctx.readS_hyp (c : Ctx) (o : Operand) : (c.readS o).2.hyp = c.hyp := by unfold Ctx.readS; split <;> simp
@[simp] theorem Ctx.readS_budg (c : Ctx) (o : Operand) : (c.readS o).2.budg = c.budg := by unfold Ctx.readS; split <;> simp
@[simp] theorem Ctx.readS_dtLock (c : Ctx) (o : Operand) : (c.readS o).2.dtLock = c.dtLock := by unfold Ctx.readS; split <;> simp
@[simp] theorem Ctx.readS_dtFrac (c : Ctx) (o : Operand) : (c.readS o).2.dtFrac = c.dtFrac := by unfold Ctx.readS; split <;> simp
@[simp] theorem Ctx.readS_region (c : Ctx) (o : Operand) : (c.readS o).2.region = c.region := by unfold Ctx.readS; split <;> simp
@[simp] theorem Ctx.readS_pend (c : Ctx) (o : Operand) : (c.readS o).2.pend = c.pend := by unfold Ctx.readS; split <;> simp
@[simp] theorem Ctx.readS_sb (c : Ctx) (o : Operand) : (c.readS o).2.sb = c.sb := by unfold Ctx.readS; split <;> simp
@[simp] theorem Ctx.readS_acqs (c : Ctx) (o : Operand) : (c.readS o).2.acqs = c.acqs := by unfold Ctx.readS; split <;> simp
@[simp] theorem Ctx.readS_obs (c : Ctx) (o : Operand) : (c.readS o).2.obs = c.obs := by unfold Ctx.readS; split <;> simp
@[simp] theorem Ctx.readS_seq (c : Ctx) (o : Operand) : (c.readS o).2.seq = c.seq := by unfold Ctx.readS; split <;> simp
@[simp] theorem Ctx.readS_mon (c : Ctx) (o : Operand) : (c.readS o).2.mon = c.mon := by unfold Ctx.readS; split <;> simp
@[simp] theorem Ctx.readS_busy (c : Ctx) (o : Operand) : (c.readS o).2.busy = c.busy := by unfold Ctx.readS; split <;> simp
@[simp] theorem Ctx.readS_sfault (c : Ctx) (o : Operand) : (c.readS o).2.sfault = c.sfault := by unfold Ctx.readS; split <;> simp
@[simp] theorem Ctx.readS_forker (c : Ctx) (o : Operand) : (c.readS o).2.forker = c.forker := by unfold Ctx.readS; split <;> simp
@[simp] theorem Ctx.readS_fences (c : Ctx) (o : Operand) : (c.readS o).2.fences = c.fences := by unfold Ctx.readS; split <;> simp
@[simp] theorem Ctx.readS_fpart (c : Ctx) (o : Operand) : (c.readS o).2.fpart = c.fpart := by unfold Ctx.readS; split <;> simp
@[simp] theorem Ctx.readS_dtSeen (c : Ctx) (o : Operand) : (c.readS o).2.dtSeen = c.dtSeen := by unfold Ctx.readS; split <;> simp
@[simp] theorem Ctx.readS_missEA (c : Ctx) (o : Operand) : (c.readS o).2.missEA = c.missEA := by unfold Ctx.readS; split <;> simp
@[simp] theorem Ctx.readV_live (c : Ctx) (o : Operand) : (c.readV o).2.live = c.live := by unfold Ctx.readV; split <;> simp
@[simp] theorem Ctx.readV_level (c : Ctx) (o : Operand) : (c.readV o).2.level = c.level := by unfold Ctx.readV; split <;> simp
@[simp] theorem Ctx.readV_pcc (c : Ctx) (o : Operand) : (c.readV o).2.pcc = c.pcc := by unfold Ctx.readV; split <;> simp
@[simp] theorem Ctx.readV_pcOut (c : Ctx) (o : Operand) : (c.readV o).2.pcOut = c.pcOut := by unfold Ctx.readV; split <;> simp
@[simp] theorem Ctx.readV_slot (c : Ctx) (o : Operand) : (c.readV o).2.slot = c.slot := by unfold Ctx.readV; split <;> simp
@[simp] theorem Ctx.readV_blk (c : Ctx) (o : Operand) : (c.readV o).2.blk = c.blk := by unfold Ctx.readV; split <;> simp
@[simp] theorem Ctx.readV_waitTaken (c : Ctx) (o : Operand) : (c.readV o).2.waitTaken = c.waitTaken := by unfold Ctx.readV; split <;> simp
@[simp] theorem Ctx.readV_waiting (c : Ctx) (o : Operand) : (c.readV o).2.waiting = c.waiting := by unfold Ctx.readV; split <;> simp
@[simp] theorem Ctx.readV_x (c : Ctx) (o : Operand) : (c.readV o).2.x = c.x := by unfold Ctx.readV; split <;> simp
@[simp] theorem Ctx.readV_v (c : Ctx) (o : Operand) : (c.readV o).2.v = c.v := by unfold Ctx.readV; split <;> simp
@[simp] theorem Ctx.readV_k (c : Ctx) (o : Operand) : (c.readV o).2.k = c.k := by unfold Ctx.readV; split <;> simp
@[simp] theorem Ctx.readV_p (c : Ctx) (o : Operand) : (c.readV o).2.p = c.p := by unfold Ctx.readV; split <;> simp
@[simp] theorem Ctx.readV_sq (c : Ctx) (o : Operand) : (c.readV o).2.sq = c.sq := by unfold Ctx.readV; split <;> simp
@[simp] theorem Ctx.readV_bankDom (c : Ctx) (o : Operand) : (c.readV o).2.bankDom = c.bankDom := by unfold Ctx.readV; split <;> simp
@[simp] theorem Ctx.readV_cdom (c : Ctx) (o : Operand) : (c.readV o).2.cdom = c.cdom := by unfold Ctx.readV; split <;> simp
@[simp] theorem Ctx.readV_upv (c : Ctx) (o : Operand) : (c.readV o).2.upv = c.upv := by unfold Ctx.readV; split <;> simp
@[simp] theorem Ctx.readV_upn (c : Ctx) (o : Operand) : (c.readV o).2.upn = c.upn := by unfold Ctx.readV; split <;> simp
@[simp] theorem Ctx.readV_upc (c : Ctx) (o : Operand) : (c.readV o).2.upc = c.upc := by unfold Ctx.readV; split <;> simp
@[simp] theorem Ctx.readV_upa (c : Ctx) (o : Operand) : (c.readV o).2.upa = c.upa := by unfold Ctx.readV; split <;> simp
@[simp] theorem Ctx.readV_upi (c : Ctx) (o : Operand) : (c.readV o).2.upi = c.upi := by unfold Ctx.readV; split <;> simp
@[simp] theorem Ctx.readV_upk (c : Ctx) (o : Operand) : (c.readV o).2.upk = c.upk := by unfold Ctx.readV; split <;> simp
@[simp] theorem Ctx.readV_bstat (c : Ctx) (o : Operand) : (c.readV o).2.bstat = c.bstat := by unfold Ctx.readV; split <;> simp
@[simp] theorem Ctx.readV_prgn (c : Ctx) (o : Operand) : (c.readV o).2.prgn = c.prgn := by unfold Ctx.readV; split <;> simp
@[simp] theorem Ctx.readV_pres (c : Ctx) (o : Operand) : (c.readV o).2.pres = c.pres := by unfold Ctx.readV; split <;> simp
@[simp] theorem Ctx.readV_fstat (c : Ctx) (o : Operand) : (c.readV o).2.fstat = c.fstat := by unfold Ctx.readV; split <;> simp
@[simp] theorem Ctx.readV_inex (c : Ctx) (o : Operand) : (c.readV o).2.inex = c.inex := by unfold Ctx.readV; split <;> simp
@[simp] theorem Ctx.readV_twid (c : Ctx) (o : Operand) : (c.readV o).2.twid = c.twid := by unfold Ctx.readV; split <;> simp
@[simp] theorem Ctx.readV_tinf (c : Ctx) (o : Operand) : (c.readV o).2.tinf = c.tinf := by unfold Ctx.readV; split <;> simp
@[simp] theorem Ctx.readV_sup (c : Ctx) (o : Operand) : (c.readV o).2.sup = c.sup := by unfold Ctx.readV; split <;> simp
@[simp] theorem Ctx.readV_hyp (c : Ctx) (o : Operand) : (c.readV o).2.hyp = c.hyp := by unfold Ctx.readV; split <;> simp
@[simp] theorem Ctx.readV_budg (c : Ctx) (o : Operand) : (c.readV o).2.budg = c.budg := by unfold Ctx.readV; split <;> simp
@[simp] theorem Ctx.readV_dtLock (c : Ctx) (o : Operand) : (c.readV o).2.dtLock = c.dtLock := by unfold Ctx.readV; split <;> simp
@[simp] theorem Ctx.readV_dtFrac (c : Ctx) (o : Operand) : (c.readV o).2.dtFrac = c.dtFrac := by unfold Ctx.readV; split <;> simp
@[simp] theorem Ctx.readV_region (c : Ctx) (o : Operand) : (c.readV o).2.region = c.region := by unfold Ctx.readV; split <;> simp
@[simp] theorem Ctx.readV_pend (c : Ctx) (o : Operand) : (c.readV o).2.pend = c.pend := by unfold Ctx.readV; split <;> simp
@[simp] theorem Ctx.readV_sb (c : Ctx) (o : Operand) : (c.readV o).2.sb = c.sb := by unfold Ctx.readV; split <;> simp
@[simp] theorem Ctx.readV_acqs (c : Ctx) (o : Operand) : (c.readV o).2.acqs = c.acqs := by unfold Ctx.readV; split <;> simp
@[simp] theorem Ctx.readV_obs (c : Ctx) (o : Operand) : (c.readV o).2.obs = c.obs := by unfold Ctx.readV; split <;> simp
@[simp] theorem Ctx.readV_seq (c : Ctx) (o : Operand) : (c.readV o).2.seq = c.seq := by unfold Ctx.readV; split <;> simp
@[simp] theorem Ctx.readV_mon (c : Ctx) (o : Operand) : (c.readV o).2.mon = c.mon := by unfold Ctx.readV; split <;> simp
@[simp] theorem Ctx.readV_busy (c : Ctx) (o : Operand) : (c.readV o).2.busy = c.busy := by unfold Ctx.readV; split <;> simp
@[simp] theorem Ctx.readV_sfault (c : Ctx) (o : Operand) : (c.readV o).2.sfault = c.sfault := by unfold Ctx.readV; split <;> simp
@[simp] theorem Ctx.readV_forker (c : Ctx) (o : Operand) : (c.readV o).2.forker = c.forker := by unfold Ctx.readV; split <;> simp
@[simp] theorem Ctx.readV_fences (c : Ctx) (o : Operand) : (c.readV o).2.fences = c.fences := by unfold Ctx.readV; split <;> simp
@[simp] theorem Ctx.readV_fpart (c : Ctx) (o : Operand) : (c.readV o).2.fpart = c.fpart := by unfold Ctx.readV; split <;> simp
@[simp] theorem Ctx.readV_dtSeen (c : Ctx) (o : Operand) : (c.readV o).2.dtSeen = c.dtSeen := by unfold Ctx.readV; split <;> simp
@[simp] theorem Ctx.readV_missEA (c : Ctx) (o : Operand) : (c.readV o).2.missEA = c.missEA := by unfold Ctx.readV; split <;> simp
@[simp] theorem Ctx.pushSq_live (c : Ctx) (q : Nat) (v : Line) : (c.pushSq q v).live = c.live := by simp [Ctx.pushSq]
@[simp] theorem Ctx.pushSq_level (c : Ctx) (q : Nat) (v : Line) : (c.pushSq q v).level = c.level := by simp [Ctx.pushSq]
@[simp] theorem Ctx.pushSq_pcc (c : Ctx) (q : Nat) (v : Line) : (c.pushSq q v).pcc = c.pcc := by simp [Ctx.pushSq]
@[simp] theorem Ctx.pushSq_pcOut (c : Ctx) (q : Nat) (v : Line) : (c.pushSq q v).pcOut = c.pcOut := by simp [Ctx.pushSq]
@[simp] theorem Ctx.pushSq_slot (c : Ctx) (q : Nat) (v : Line) : (c.pushSq q v).slot = c.slot := by simp [Ctx.pushSq]
@[simp] theorem Ctx.pushSq_blk (c : Ctx) (q : Nat) (v : Line) : (c.pushSq q v).blk = c.blk := by simp [Ctx.pushSq]
@[simp] theorem Ctx.pushSq_waitTaken (c : Ctx) (q : Nat) (v : Line) : (c.pushSq q v).waitTaken = c.waitTaken := by simp [Ctx.pushSq]
@[simp] theorem Ctx.pushSq_waiting (c : Ctx) (q : Nat) (v : Line) : (c.pushSq q v).waiting = c.waiting := by simp [Ctx.pushSq]
@[simp] theorem Ctx.pushSq_x (c : Ctx) (q : Nat) (v : Line) : (c.pushSq q v).x = c.x := by simp [Ctx.pushSq]
@[simp] theorem Ctx.pushSq_v (c : Ctx) (q : Nat) (v : Line) : (c.pushSq q v).v = c.v := by simp [Ctx.pushSq]
@[simp] theorem Ctx.pushSq_k (c : Ctx) (q : Nat) (v : Line) : (c.pushSq q v).k = c.k := by simp [Ctx.pushSq]
@[simp] theorem Ctx.pushSq_p (c : Ctx) (q : Nat) (v : Line) : (c.pushSq q v).p = c.p := by simp [Ctx.pushSq]
@[simp] theorem Ctx.pushSq_lq (c : Ctx) (q : Nat) (v : Line) : (c.pushSq q v).lq = c.lq := by simp [Ctx.pushSq]
@[simp] theorem Ctx.pushSq_bankDom (c : Ctx) (q : Nat) (v : Line) : (c.pushSq q v).bankDom = c.bankDom := by simp [Ctx.pushSq]
@[simp] theorem Ctx.pushSq_cdom (c : Ctx) (q : Nat) (v : Line) : (c.pushSq q v).cdom = c.cdom := by simp [Ctx.pushSq]
@[simp] theorem Ctx.pushSq_upv (c : Ctx) (q : Nat) (v : Line) : (c.pushSq q v).upv = c.upv := by simp [Ctx.pushSq]
@[simp] theorem Ctx.pushSq_upn (c : Ctx) (q : Nat) (v : Line) : (c.pushSq q v).upn = c.upn := by simp [Ctx.pushSq]
@[simp] theorem Ctx.pushSq_upc (c : Ctx) (q : Nat) (v : Line) : (c.pushSq q v).upc = c.upc := by simp [Ctx.pushSq]
@[simp] theorem Ctx.pushSq_upa (c : Ctx) (q : Nat) (v : Line) : (c.pushSq q v).upa = c.upa := by simp [Ctx.pushSq]
@[simp] theorem Ctx.pushSq_upi (c : Ctx) (q : Nat) (v : Line) : (c.pushSq q v).upi = c.upi := by simp [Ctx.pushSq]
@[simp] theorem Ctx.pushSq_upk (c : Ctx) (q : Nat) (v : Line) : (c.pushSq q v).upk = c.upk := by simp [Ctx.pushSq]
@[simp] theorem Ctx.pushSq_bstat (c : Ctx) (q : Nat) (v : Line) : (c.pushSq q v).bstat = c.bstat := by simp [Ctx.pushSq]
@[simp] theorem Ctx.pushSq_prgn (c : Ctx) (q : Nat) (v : Line) : (c.pushSq q v).prgn = c.prgn := by simp [Ctx.pushSq]
@[simp] theorem Ctx.pushSq_pres (c : Ctx) (q : Nat) (v : Line) : (c.pushSq q v).pres = c.pres := by simp [Ctx.pushSq]
@[simp] theorem Ctx.pushSq_fstat (c : Ctx) (q : Nat) (v : Line) : (c.pushSq q v).fstat = c.fstat := by simp [Ctx.pushSq]
@[simp] theorem Ctx.pushSq_inex (c : Ctx) (q : Nat) (v : Line) : (c.pushSq q v).inex = c.inex := by simp [Ctx.pushSq]
@[simp] theorem Ctx.pushSq_twid (c : Ctx) (q : Nat) (v : Line) : (c.pushSq q v).twid = c.twid := by simp [Ctx.pushSq]
@[simp] theorem Ctx.pushSq_tinf (c : Ctx) (q : Nat) (v : Line) : (c.pushSq q v).tinf = c.tinf := by simp [Ctx.pushSq]
@[simp] theorem Ctx.pushSq_sup (c : Ctx) (q : Nat) (v : Line) : (c.pushSq q v).sup = c.sup := by simp [Ctx.pushSq]
@[simp] theorem Ctx.pushSq_hyp (c : Ctx) (q : Nat) (v : Line) : (c.pushSq q v).hyp = c.hyp := by simp [Ctx.pushSq]
@[simp] theorem Ctx.pushSq_budg (c : Ctx) (q : Nat) (v : Line) : (c.pushSq q v).budg = c.budg := by simp [Ctx.pushSq]
@[simp] theorem Ctx.pushSq_dtLock (c : Ctx) (q : Nat) (v : Line) : (c.pushSq q v).dtLock = c.dtLock := by simp [Ctx.pushSq]
@[simp] theorem Ctx.pushSq_dtFrac (c : Ctx) (q : Nat) (v : Line) : (c.pushSq q v).dtFrac = c.dtFrac := by simp [Ctx.pushSq]
@[simp] theorem Ctx.pushSq_region (c : Ctx) (q : Nat) (v : Line) : (c.pushSq q v).region = c.region := by simp [Ctx.pushSq]
@[simp] theorem Ctx.pushSq_pend (c : Ctx) (q : Nat) (v : Line) : (c.pushSq q v).pend = c.pend := by simp [Ctx.pushSq]
@[simp] theorem Ctx.pushSq_acqs (c : Ctx) (q : Nat) (v : Line) : (c.pushSq q v).acqs = c.acqs := by simp [Ctx.pushSq]
@[simp] theorem Ctx.pushSq_obs (c : Ctx) (q : Nat) (v : Line) : (c.pushSq q v).obs = c.obs := by simp [Ctx.pushSq]
@[simp] theorem Ctx.pushSq_seq (c : Ctx) (q : Nat) (v : Line) : (c.pushSq q v).seq = c.seq := by simp [Ctx.pushSq]
@[simp] theorem Ctx.pushSq_mon (c : Ctx) (q : Nat) (v : Line) : (c.pushSq q v).mon = c.mon := by simp [Ctx.pushSq]
@[simp] theorem Ctx.pushSq_busy (c : Ctx) (q : Nat) (v : Line) : (c.pushSq q v).busy = c.busy := by simp [Ctx.pushSq]
@[simp] theorem Ctx.pushSq_sfault (c : Ctx) (q : Nat) (v : Line) : (c.pushSq q v).sfault = c.sfault := by simp [Ctx.pushSq]





@[simp] theorem Ctx.pushSq_forker (c : Ctx) (q : Nat) (v : Line) : (c.pushSq q v).forker = c.forker := by simp [Ctx.pushSq]
@[simp] theorem Ctx.pushSq_fences (c : Ctx) (q : Nat) (v : Line) : (c.pushSq q v).fences = c.fences := by simp [Ctx.pushSq]
@[simp] theorem Ctx.pushSq_fpart (c : Ctx) (q : Nat) (v : Line) : (c.pushSq q v).fpart = c.fpart := by simp [Ctx.pushSq]
@[simp] theorem Ctx.pushSq_dtSeen (c : Ctx) (q : Nat) (v : Line) : (c.pushSq q v).dtSeen = c.dtSeen := by simp [Ctx.pushSq]
@[simp] theorem Ctx.pushSq_missEA (c : Ctx) (q : Nat) (v : Line) : (c.pushSq q v).missEA = c.missEA := by simp [Ctx.pushSq]
@[simp] theorem Ctx.writeS_live (c : Ctx) (o : Operand) (v : Word) : (c.writeS o v).live = c.live := by unfold Ctx.writeS; split <;> simp
@[simp] theorem Ctx.writeS_level (c : Ctx) (o : Operand) (v : Word) : (c.writeS o v).level = c.level := by unfold Ctx.writeS; split <;> simp
@[simp] theorem Ctx.writeS_pcc (c : Ctx) (o : Operand) (v : Word) : (c.writeS o v).pcc = c.pcc := by unfold Ctx.writeS; split <;> simp
@[simp] theorem Ctx.writeS_pcOut (c : Ctx) (o : Operand) (v : Word) : (c.writeS o v).pcOut = c.pcOut := by unfold Ctx.writeS; split <;> simp
@[simp] theorem Ctx.writeS_slot (c : Ctx) (o : Operand) (v : Word) : (c.writeS o v).slot = c.slot := by unfold Ctx.writeS; split <;> simp
@[simp] theorem Ctx.writeS_blk (c : Ctx) (o : Operand) (v : Word) : (c.writeS o v).blk = c.blk := by unfold Ctx.writeS; split <;> simp
@[simp] theorem Ctx.writeS_waitTaken (c : Ctx) (o : Operand) (v : Word) : (c.writeS o v).waitTaken = c.waitTaken := by unfold Ctx.writeS; split <;> simp
@[simp] theorem Ctx.writeS_waiting (c : Ctx) (o : Operand) (v : Word) : (c.writeS o v).waiting = c.waiting := by unfold Ctx.writeS; split <;> simp
@[simp] theorem Ctx.writeS_v (c : Ctx) (o : Operand) (v : Word) : (c.writeS o v).v = c.v := by unfold Ctx.writeS; split <;> simp
@[simp] theorem Ctx.writeS_p (c : Ctx) (o : Operand) (v : Word) : (c.writeS o v).p = c.p := by unfold Ctx.writeS; split <;> simp
@[simp] theorem Ctx.writeS_lq (c : Ctx) (o : Operand) (v : Word) : (c.writeS o v).lq = c.lq := by unfold Ctx.writeS; split <;> simp
@[simp] theorem Ctx.writeS_bankDom (c : Ctx) (o : Operand) (v : Word) : (c.writeS o v).bankDom = c.bankDom := by unfold Ctx.writeS; split <;> simp
@[simp] theorem Ctx.writeS_cdom (c : Ctx) (o : Operand) (v : Word) : (c.writeS o v).cdom = c.cdom := by unfold Ctx.writeS; split <;> simp
@[simp] theorem Ctx.writeS_upv (c : Ctx) (o : Operand) (v : Word) : (c.writeS o v).upv = c.upv := by unfold Ctx.writeS; split <;> simp
@[simp] theorem Ctx.writeS_upn (c : Ctx) (o : Operand) (v : Word) : (c.writeS o v).upn = c.upn := by unfold Ctx.writeS; split <;> simp
@[simp] theorem Ctx.writeS_upc (c : Ctx) (o : Operand) (v : Word) : (c.writeS o v).upc = c.upc := by unfold Ctx.writeS; split <;> simp
@[simp] theorem Ctx.writeS_upa (c : Ctx) (o : Operand) (v : Word) : (c.writeS o v).upa = c.upa := by unfold Ctx.writeS; split <;> simp
@[simp] theorem Ctx.writeS_upi (c : Ctx) (o : Operand) (v : Word) : (c.writeS o v).upi = c.upi := by unfold Ctx.writeS; split <;> simp
@[simp] theorem Ctx.writeS_upk (c : Ctx) (o : Operand) (v : Word) : (c.writeS o v).upk = c.upk := by unfold Ctx.writeS; split <;> simp
@[simp] theorem Ctx.writeS_bstat (c : Ctx) (o : Operand) (v : Word) : (c.writeS o v).bstat = c.bstat := by unfold Ctx.writeS; split <;> simp
@[simp] theorem Ctx.writeS_prgn (c : Ctx) (o : Operand) (v : Word) : (c.writeS o v).prgn = c.prgn := by unfold Ctx.writeS; split <;> simp
@[simp] theorem Ctx.writeS_pres (c : Ctx) (o : Operand) (v : Word) : (c.writeS o v).pres = c.pres := by unfold Ctx.writeS; split <;> simp
@[simp] theorem Ctx.writeS_fstat (c : Ctx) (o : Operand) (v : Word) : (c.writeS o v).fstat = c.fstat := by unfold Ctx.writeS; split <;> simp
@[simp] theorem Ctx.writeS_inex (c : Ctx) (o : Operand) (v : Word) : (c.writeS o v).inex = c.inex := by unfold Ctx.writeS; split <;> simp
@[simp] theorem Ctx.writeS_twid (c : Ctx) (o : Operand) (v : Word) : (c.writeS o v).twid = c.twid := by unfold Ctx.writeS; split <;> simp
@[simp] theorem Ctx.writeS_tinf (c : Ctx) (o : Operand) (v : Word) : (c.writeS o v).tinf = c.tinf := by unfold Ctx.writeS; split <;> simp
@[simp] theorem Ctx.writeS_sup (c : Ctx) (o : Operand) (v : Word) : (c.writeS o v).sup = c.sup := by unfold Ctx.writeS; split <;> simp
@[simp] theorem Ctx.writeS_hyp (c : Ctx) (o : Operand) (v : Word) : (c.writeS o v).hyp = c.hyp := by unfold Ctx.writeS; split <;> simp
@[simp] theorem Ctx.writeS_budg (c : Ctx) (o : Operand) (v : Word) : (c.writeS o v).budg = c.budg := by unfold Ctx.writeS; split <;> simp
@[simp] theorem Ctx.writeS_dtLock (c : Ctx) (o : Operand) (v : Word) : (c.writeS o v).dtLock = c.dtLock := by unfold Ctx.writeS; split <;> simp
@[simp] theorem Ctx.writeS_dtFrac (c : Ctx) (o : Operand) (v : Word) : (c.writeS o v).dtFrac = c.dtFrac := by unfold Ctx.writeS; split <;> simp
@[simp] theorem Ctx.writeS_region (c : Ctx) (o : Operand) (v : Word) : (c.writeS o v).region = c.region := by unfold Ctx.writeS; split <;> simp
@[simp] theorem Ctx.writeS_pend (c : Ctx) (o : Operand) (v : Word) : (c.writeS o v).pend = c.pend := by unfold Ctx.writeS; split <;> simp
@[simp] theorem Ctx.writeS_acqs (c : Ctx) (o : Operand) (v : Word) : (c.writeS o v).acqs = c.acqs := by unfold Ctx.writeS; split <;> simp
@[simp] theorem Ctx.writeS_obs (c : Ctx) (o : Operand) (v : Word) : (c.writeS o v).obs = c.obs := by unfold Ctx.writeS; split <;> simp
@[simp] theorem Ctx.writeS_seq (c : Ctx) (o : Operand) (v : Word) : (c.writeS o v).seq = c.seq := by unfold Ctx.writeS; split <;> simp
@[simp] theorem Ctx.writeS_mon (c : Ctx) (o : Operand) (v : Word) : (c.writeS o v).mon = c.mon := by unfold Ctx.writeS; split <;> simp
@[simp] theorem Ctx.writeS_busy (c : Ctx) (o : Operand) (v : Word) : (c.writeS o v).busy = c.busy := by unfold Ctx.writeS; split <;> simp
@[simp] theorem Ctx.writeS_sfault (c : Ctx) (o : Operand) (v : Word) : (c.writeS o v).sfault = c.sfault := by unfold Ctx.writeS; split <;> simp
@[simp] theorem Ctx.writeS_forker (c : Ctx) (o : Operand) (v : Word) : (c.writeS o v).forker = c.forker := by unfold Ctx.writeS; split <;> simp
@[simp] theorem Ctx.writeS_fences (c : Ctx) (o : Operand) (v : Word) : (c.writeS o v).fences = c.fences := by unfold Ctx.writeS; split <;> simp
@[simp] theorem Ctx.writeS_fpart (c : Ctx) (o : Operand) (v : Word) : (c.writeS o v).fpart = c.fpart := by unfold Ctx.writeS; split <;> simp
@[simp] theorem Ctx.writeS_dtSeen (c : Ctx) (o : Operand) (v : Word) : (c.writeS o v).dtSeen = c.dtSeen := by unfold Ctx.writeS; split <;> simp
@[simp] theorem Ctx.writeS_missEA (c : Ctx) (o : Operand) (v : Word) : (c.writeS o v).missEA = c.missEA := by unfold Ctx.writeS; split <;> simp
@[simp] theorem Ctx.writeVO_live (c : Ctx) (o : Operand) (v : Line) : (c.writeVO o v).live = c.live := by unfold Ctx.writeVO; split <;> simp
@[simp] theorem Ctx.writeVO_level (c : Ctx) (o : Operand) (v : Line) : (c.writeVO o v).level = c.level := by unfold Ctx.writeVO; split <;> simp
@[simp] theorem Ctx.writeVO_pcc (c : Ctx) (o : Operand) (v : Line) : (c.writeVO o v).pcc = c.pcc := by unfold Ctx.writeVO; split <;> simp
@[simp] theorem Ctx.writeVO_pcOut (c : Ctx) (o : Operand) (v : Line) : (c.writeVO o v).pcOut = c.pcOut := by unfold Ctx.writeVO; split <;> simp
@[simp] theorem Ctx.writeVO_slot (c : Ctx) (o : Operand) (v : Line) : (c.writeVO o v).slot = c.slot := by unfold Ctx.writeVO; split <;> simp
@[simp] theorem Ctx.writeVO_blk (c : Ctx) (o : Operand) (v : Line) : (c.writeVO o v).blk = c.blk := by unfold Ctx.writeVO; split <;> simp
@[simp] theorem Ctx.writeVO_waitTaken (c : Ctx) (o : Operand) (v : Line) : (c.writeVO o v).waitTaken = c.waitTaken := by unfold Ctx.writeVO; split <;> simp
@[simp] theorem Ctx.writeVO_waiting (c : Ctx) (o : Operand) (v : Line) : (c.writeVO o v).waiting = c.waiting := by unfold Ctx.writeVO; split <;> simp
@[simp] theorem Ctx.writeVO_x (c : Ctx) (o : Operand) (v : Line) : (c.writeVO o v).x = c.x := by unfold Ctx.writeVO; split <;> simp
@[simp] theorem Ctx.writeVO_k (c : Ctx) (o : Operand) (v : Line) : (c.writeVO o v).k = c.k := by unfold Ctx.writeVO; split <;> simp
@[simp] theorem Ctx.writeVO_p (c : Ctx) (o : Operand) (v : Line) : (c.writeVO o v).p = c.p := by unfold Ctx.writeVO; split <;> simp
@[simp] theorem Ctx.writeVO_lq (c : Ctx) (o : Operand) (v : Line) : (c.writeVO o v).lq = c.lq := by unfold Ctx.writeVO; split <;> simp
@[simp] theorem Ctx.writeVO_bankDom (c : Ctx) (o : Operand) (v : Line) : (c.writeVO o v).bankDom = c.bankDom := by unfold Ctx.writeVO; split <;> simp
@[simp] theorem Ctx.writeVO_cdom (c : Ctx) (o : Operand) (v : Line) : (c.writeVO o v).cdom = c.cdom := by unfold Ctx.writeVO; split <;> simp
@[simp] theorem Ctx.writeVO_upv (c : Ctx) (o : Operand) (v : Line) : (c.writeVO o v).upv = c.upv := by unfold Ctx.writeVO; split <;> simp
@[simp] theorem Ctx.writeVO_upn (c : Ctx) (o : Operand) (v : Line) : (c.writeVO o v).upn = c.upn := by unfold Ctx.writeVO; split <;> simp
@[simp] theorem Ctx.writeVO_upc (c : Ctx) (o : Operand) (v : Line) : (c.writeVO o v).upc = c.upc := by unfold Ctx.writeVO; split <;> simp
@[simp] theorem Ctx.writeVO_upa (c : Ctx) (o : Operand) (v : Line) : (c.writeVO o v).upa = c.upa := by unfold Ctx.writeVO; split <;> simp
@[simp] theorem Ctx.writeVO_upi (c : Ctx) (o : Operand) (v : Line) : (c.writeVO o v).upi = c.upi := by unfold Ctx.writeVO; split <;> simp
@[simp] theorem Ctx.writeVO_upk (c : Ctx) (o : Operand) (v : Line) : (c.writeVO o v).upk = c.upk := by unfold Ctx.writeVO; split <;> simp
@[simp] theorem Ctx.writeVO_bstat (c : Ctx) (o : Operand) (v : Line) : (c.writeVO o v).bstat = c.bstat := by unfold Ctx.writeVO; split <;> simp
@[simp] theorem Ctx.writeVO_prgn (c : Ctx) (o : Operand) (v : Line) : (c.writeVO o v).prgn = c.prgn := by unfold Ctx.writeVO; split <;> simp
@[simp] theorem Ctx.writeVO_pres (c : Ctx) (o : Operand) (v : Line) : (c.writeVO o v).pres = c.pres := by unfold Ctx.writeVO; split <;> simp
@[simp] theorem Ctx.writeVO_fstat (c : Ctx) (o : Operand) (v : Line) : (c.writeVO o v).fstat = c.fstat := by unfold Ctx.writeVO; split <;> simp
@[simp] theorem Ctx.writeVO_inex (c : Ctx) (o : Operand) (v : Line) : (c.writeVO o v).inex = c.inex := by unfold Ctx.writeVO; split <;> simp
@[simp] theorem Ctx.writeVO_twid (c : Ctx) (o : Operand) (v : Line) : (c.writeVO o v).twid = c.twid := by unfold Ctx.writeVO; split <;> simp
@[simp] theorem Ctx.writeVO_tinf (c : Ctx) (o : Operand) (v : Line) : (c.writeVO o v).tinf = c.tinf := by unfold Ctx.writeVO; split <;> simp
@[simp] theorem Ctx.writeVO_sup (c : Ctx) (o : Operand) (v : Line) : (c.writeVO o v).sup = c.sup := by unfold Ctx.writeVO; split <;> simp
@[simp] theorem Ctx.writeVO_hyp (c : Ctx) (o : Operand) (v : Line) : (c.writeVO o v).hyp = c.hyp := by unfold Ctx.writeVO; split <;> simp
@[simp] theorem Ctx.writeVO_budg (c : Ctx) (o : Operand) (v : Line) : (c.writeVO o v).budg = c.budg := by unfold Ctx.writeVO; split <;> simp
@[simp] theorem Ctx.writeVO_dtLock (c : Ctx) (o : Operand) (v : Line) : (c.writeVO o v).dtLock = c.dtLock := by unfold Ctx.writeVO; split <;> simp
@[simp] theorem Ctx.writeVO_dtFrac (c : Ctx) (o : Operand) (v : Line) : (c.writeVO o v).dtFrac = c.dtFrac := by unfold Ctx.writeVO; split <;> simp
@[simp] theorem Ctx.writeVO_region (c : Ctx) (o : Operand) (v : Line) : (c.writeVO o v).region = c.region := by unfold Ctx.writeVO; split <;> simp
@[simp] theorem Ctx.writeVO_pend (c : Ctx) (o : Operand) (v : Line) : (c.writeVO o v).pend = c.pend := by unfold Ctx.writeVO; split <;> simp
@[simp] theorem Ctx.writeVO_acqs (c : Ctx) (o : Operand) (v : Line) : (c.writeVO o v).acqs = c.acqs := by unfold Ctx.writeVO; split <;> simp
@[simp] theorem Ctx.writeVO_obs (c : Ctx) (o : Operand) (v : Line) : (c.writeVO o v).obs = c.obs := by unfold Ctx.writeVO; split <;> simp
@[simp] theorem Ctx.writeVO_seq (c : Ctx) (o : Operand) (v : Line) : (c.writeVO o v).seq = c.seq := by unfold Ctx.writeVO; split <;> simp
@[simp] theorem Ctx.writeVO_mon (c : Ctx) (o : Operand) (v : Line) : (c.writeVO o v).mon = c.mon := by unfold Ctx.writeVO; split <;> simp
@[simp] theorem Ctx.writeVO_busy (c : Ctx) (o : Operand) (v : Line) : (c.writeVO o v).busy = c.busy := by unfold Ctx.writeVO; split <;> simp
@[simp] theorem Ctx.writeVO_sfault (c : Ctx) (o : Operand) (v : Line) : (c.writeVO o v).sfault = c.sfault := by unfold Ctx.writeVO; split <;> simp
@[simp] theorem Ctx.writeVO_forker (c : Ctx) (o : Operand) (v : Line) : (c.writeVO o v).forker = c.forker := by unfold Ctx.writeVO; split <;> simp
@[simp] theorem Ctx.writeVO_fences (c : Ctx) (o : Operand) (v : Line) : (c.writeVO o v).fences = c.fences := by unfold Ctx.writeVO; split <;> simp
@[simp] theorem Ctx.writeVO_fpart (c : Ctx) (o : Operand) (v : Line) : (c.writeVO o v).fpart = c.fpart := by unfold Ctx.writeVO; split <;> simp
@[simp] theorem Ctx.writeVO_dtSeen (c : Ctx) (o : Operand) (v : Line) : (c.writeVO o v).dtSeen = c.dtSeen := by unfold Ctx.writeVO; split <;> simp
@[simp] theorem Ctx.writeVO_missEA (c : Ctx) (o : Operand) (v : Line) : (c.writeVO o v).missEA = c.missEA := by unfold Ctx.writeVO; split <;> simp
@[simp] theorem Ctx.writePO_live (c : Ctx) (o : Operand) (b : Bool) : (c.writePO o b).live = c.live := by unfold Ctx.writePO; split <;> simp
@[simp] theorem Ctx.writePO_level (c : Ctx) (o : Operand) (b : Bool) : (c.writePO o b).level = c.level := by unfold Ctx.writePO; split <;> simp
@[simp] theorem Ctx.writePO_pcc (c : Ctx) (o : Operand) (b : Bool) : (c.writePO o b).pcc = c.pcc := by unfold Ctx.writePO; split <;> simp
@[simp] theorem Ctx.writePO_pcOut (c : Ctx) (o : Operand) (b : Bool) : (c.writePO o b).pcOut = c.pcOut := by unfold Ctx.writePO; split <;> simp
@[simp] theorem Ctx.writePO_slot (c : Ctx) (o : Operand) (b : Bool) : (c.writePO o b).slot = c.slot := by unfold Ctx.writePO; split <;> simp
@[simp] theorem Ctx.writePO_blk (c : Ctx) (o : Operand) (b : Bool) : (c.writePO o b).blk = c.blk := by unfold Ctx.writePO; split <;> simp
@[simp] theorem Ctx.writePO_waitTaken (c : Ctx) (o : Operand) (b : Bool) : (c.writePO o b).waitTaken = c.waitTaken := by unfold Ctx.writePO; split <;> simp
@[simp] theorem Ctx.writePO_waiting (c : Ctx) (o : Operand) (b : Bool) : (c.writePO o b).waiting = c.waiting := by unfold Ctx.writePO; split <;> simp
@[simp] theorem Ctx.writePO_x (c : Ctx) (o : Operand) (b : Bool) : (c.writePO o b).x = c.x := by unfold Ctx.writePO; split <;> simp
@[simp] theorem Ctx.writePO_v (c : Ctx) (o : Operand) (b : Bool) : (c.writePO o b).v = c.v := by unfold Ctx.writePO; split <;> simp
@[simp] theorem Ctx.writePO_k (c : Ctx) (o : Operand) (b : Bool) : (c.writePO o b).k = c.k := by unfold Ctx.writePO; split <;> simp
@[simp] theorem Ctx.writePO_lq (c : Ctx) (o : Operand) (b : Bool) : (c.writePO o b).lq = c.lq := by unfold Ctx.writePO; split <;> simp
@[simp] theorem Ctx.writePO_sq (c : Ctx) (o : Operand) (b : Bool) : (c.writePO o b).sq = c.sq := by unfold Ctx.writePO; split <;> simp
@[simp] theorem Ctx.writePO_bankDom (c : Ctx) (o : Operand) (b : Bool) : (c.writePO o b).bankDom = c.bankDom := by unfold Ctx.writePO; split <;> simp
@[simp] theorem Ctx.writePO_cdom (c : Ctx) (o : Operand) (b : Bool) : (c.writePO o b).cdom = c.cdom := by unfold Ctx.writePO; split <;> simp
@[simp] theorem Ctx.writePO_upv (c : Ctx) (o : Operand) (b : Bool) : (c.writePO o b).upv = c.upv := by unfold Ctx.writePO; split <;> simp
@[simp] theorem Ctx.writePO_upn (c : Ctx) (o : Operand) (b : Bool) : (c.writePO o b).upn = c.upn := by unfold Ctx.writePO; split <;> simp
@[simp] theorem Ctx.writePO_upc (c : Ctx) (o : Operand) (b : Bool) : (c.writePO o b).upc = c.upc := by unfold Ctx.writePO; split <;> simp
@[simp] theorem Ctx.writePO_upa (c : Ctx) (o : Operand) (b : Bool) : (c.writePO o b).upa = c.upa := by unfold Ctx.writePO; split <;> simp
@[simp] theorem Ctx.writePO_upi (c : Ctx) (o : Operand) (b : Bool) : (c.writePO o b).upi = c.upi := by unfold Ctx.writePO; split <;> simp
@[simp] theorem Ctx.writePO_upk (c : Ctx) (o : Operand) (b : Bool) : (c.writePO o b).upk = c.upk := by unfold Ctx.writePO; split <;> simp
@[simp] theorem Ctx.writePO_bstat (c : Ctx) (o : Operand) (b : Bool) : (c.writePO o b).bstat = c.bstat := by unfold Ctx.writePO; split <;> simp
@[simp] theorem Ctx.writePO_prgn (c : Ctx) (o : Operand) (b : Bool) : (c.writePO o b).prgn = c.prgn := by unfold Ctx.writePO; split <;> simp
@[simp] theorem Ctx.writePO_pres (c : Ctx) (o : Operand) (b : Bool) : (c.writePO o b).pres = c.pres := by unfold Ctx.writePO; split <;> simp
@[simp] theorem Ctx.writePO_fstat (c : Ctx) (o : Operand) (b : Bool) : (c.writePO o b).fstat = c.fstat := by unfold Ctx.writePO; split <;> simp
@[simp] theorem Ctx.writePO_inex (c : Ctx) (o : Operand) (b : Bool) : (c.writePO o b).inex = c.inex := by unfold Ctx.writePO; split <;> simp
@[simp] theorem Ctx.writePO_twid (c : Ctx) (o : Operand) (b : Bool) : (c.writePO o b).twid = c.twid := by unfold Ctx.writePO; split <;> simp
@[simp] theorem Ctx.writePO_tinf (c : Ctx) (o : Operand) (b : Bool) : (c.writePO o b).tinf = c.tinf := by unfold Ctx.writePO; split <;> simp
@[simp] theorem Ctx.writePO_sup (c : Ctx) (o : Operand) (b : Bool) : (c.writePO o b).sup = c.sup := by unfold Ctx.writePO; split <;> simp
@[simp] theorem Ctx.writePO_hyp (c : Ctx) (o : Operand) (b : Bool) : (c.writePO o b).hyp = c.hyp := by unfold Ctx.writePO; split <;> simp
@[simp] theorem Ctx.writePO_budg (c : Ctx) (o : Operand) (b : Bool) : (c.writePO o b).budg = c.budg := by unfold Ctx.writePO; split <;> simp
@[simp] theorem Ctx.writePO_dtLock (c : Ctx) (o : Operand) (b : Bool) : (c.writePO o b).dtLock = c.dtLock := by unfold Ctx.writePO; split <;> simp
@[simp] theorem Ctx.writePO_dtFrac (c : Ctx) (o : Operand) (b : Bool) : (c.writePO o b).dtFrac = c.dtFrac := by unfold Ctx.writePO; split <;> simp
@[simp] theorem Ctx.writePO_region (c : Ctx) (o : Operand) (b : Bool) : (c.writePO o b).region = c.region := by unfold Ctx.writePO; split <;> simp
@[simp] theorem Ctx.writePO_pend (c : Ctx) (o : Operand) (b : Bool) : (c.writePO o b).pend = c.pend := by unfold Ctx.writePO; split <;> simp
@[simp] theorem Ctx.writePO_sb (c : Ctx) (o : Operand) (b : Bool) : (c.writePO o b).sb = c.sb := by unfold Ctx.writePO; split <;> simp
@[simp] theorem Ctx.writePO_acqs (c : Ctx) (o : Operand) (b : Bool) : (c.writePO o b).acqs = c.acqs := by unfold Ctx.writePO; split <;> simp
@[simp] theorem Ctx.writePO_obs (c : Ctx) (o : Operand) (b : Bool) : (c.writePO o b).obs = c.obs := by unfold Ctx.writePO; split <;> simp
@[simp] theorem Ctx.writePO_seq (c : Ctx) (o : Operand) (b : Bool) : (c.writePO o b).seq = c.seq := by unfold Ctx.writePO; split <;> simp
@[simp] theorem Ctx.writePO_mon (c : Ctx) (o : Operand) (b : Bool) : (c.writePO o b).mon = c.mon := by unfold Ctx.writePO; split <;> simp
@[simp] theorem Ctx.writePO_busy (c : Ctx) (o : Operand) (b : Bool) : (c.writePO o b).busy = c.busy := by unfold Ctx.writePO; split <;> simp
@[simp] theorem Ctx.writePO_sfault (c : Ctx) (o : Operand) (b : Bool) : (c.writePO o b).sfault = c.sfault := by unfold Ctx.writePO; split <;> simp
@[simp] theorem Ctx.writePO_forker (c : Ctx) (o : Operand) (b : Bool) : (c.writePO o b).forker = c.forker := by unfold Ctx.writePO; split <;> simp
@[simp] theorem Ctx.writePO_fences (c : Ctx) (o : Operand) (b : Bool) : (c.writePO o b).fences = c.fences := by unfold Ctx.writePO; split <;> simp
@[simp] theorem Ctx.writePO_fpart (c : Ctx) (o : Operand) (b : Bool) : (c.writePO o b).fpart = c.fpart := by unfold Ctx.writePO; split <;> simp
@[simp] theorem Ctx.writePO_dtSeen (c : Ctx) (o : Operand) (b : Bool) : (c.writePO o b).dtSeen = c.dtSeen := by unfold Ctx.writePO; split <;> simp
@[simp] theorem Ctx.writePO_missEA (c : Ctx) (o : Operand) (b : Bool) : (c.writePO o b).missEA = c.missEA := by unfold Ctx.writePO; split <;> simp

/-! ## Taking a wait clause -/

@[simp] theorem State.observe_clusters (s : State) (a : Agent) (ws : List Nat) : (s.observe a ws).clusters = s.clusters := by unfold State.observe; split <;> rfl
@[simp] theorem State.observe_mem (s : State) (a : Agent) (ws : List Nat) : (s.observe a ws).mem = s.mem := by unfold State.observe; split <;> rfl
@[simp] theorem State.observe_tags (s : State) (a : Agent) (ws : List Nat) : (s.observe a ws).tags = s.tags := by unfold State.observe; split <;> rfl
@[simp] theorem State.observe_poison (s : State) (a : Agent) (ws : List Nat) : (s.observe a ws).poison = s.poison := by unfold State.observe; split <;> rfl
@[simp] theorem State.observe_storage (s : State) (a : Agent) (ws : List Nat) : (s.observe a ws).storage = s.storage := by unfold State.observe; split <;> rfl
@[simp] theorem State.observe_dir (s : State) (a : Agent) (ws : List Nat) : (s.observe a ws).dir = s.dir := by unfold State.observe; split <;> rfl
@[simp] theorem State.observe_dec (s : State) (a : Agent) (ws : List Nat) : (s.observe a ws).dec = s.dec := by unfold State.observe; split <;> rfl
@[simp] theorem State.observe_writers (s : State) (a : Agent) (ws : List Nat) : (s.observe a ws).writers = s.writers := by unfold State.observe; split <;> rfl
@[simp] theorem State.observe_recs (s : State) (a : Agent) (ws : List Nat) : (s.observe a ws).recs = s.recs := by unfold State.observe; split <;> rfl
@[simp] theorem State.observe_invals (s : State) (a : Agent) (ws : List Nat) : (s.observe a ws).invals = s.invals := by unfold State.observe; split <;> rfl
@[simp] theorem State.observe_lineVer (s : State) (a : Agent) (ws : List Nat) : (s.observe a ws).lineVer = s.lineVer := by unfold State.observe; split <;> rfl
@[simp] theorem State.observe_byteVer (s : State) (a : Agent) (ws : List Nat) : (s.observe a ws).byteVer = s.byteVer := by unfold State.observe; split <;> rfl
@[simp] theorem State.observe_now (s : State) (a : Agent) (ws : List Nat) : (s.observe a ws).now = s.now := by unfold State.observe; split <;> rfl
@[simp] theorem State.observe_nextWid (s : State) (a : Agent) (ws : List Nat) : (s.observe a ws).nextWid = s.nextWid := by unfold State.observe; split <;> rfl
@[simp] theorem State.observe_nextId (s : State) (a : Agent) (ws : List Nat) : (s.observe a ws).nextId = s.nextId := by unfold State.observe; split <;> rfl
@[simp] theorem State.observe_nextOrd (s : State) (a : Agent) (ws : List Nat) : (s.observe a ws).nextOrd = s.nextOrd := by unfold State.observe; split <;> rfl
@[simp] theorem State.observe_fresh (s : State) (a : Agent) (ws : List Nat) : (s.observe a ws).fresh = s.fresh := by unfold State.observe; split <;> rfl
@[simp] theorem State.observe_dev (s : State) (a : Agent) (ws : List Nat) : (s.observe a ws).dev = s.dev := by unfold State.observe; split <;> rfl
@[simp] theorem State.observe_arrivals (s : State) (a : Agent) (ws : List Nat) : (s.observe a ws).arrivals = s.arrivals := by unfold State.observe; split <;> rfl
@[simp] theorem State.observe_flights (s : State) (a : Agent) (ws : List Nat) : (s.observe a ws).flights = s.flights := by unfold State.observe; split <;> rfl
@[simp] theorem State.observe_agenda (s : State) (a : Agent) (ws : List Nat) : (s.observe a ws).agenda = s.agenda := by unfold State.observe; split <;> rfl
@[simp] theorem State.observe_cur (s : State) (a : Agent) (ws : List Nat) : (s.observe a ws).cur = s.cur := by unfold State.observe; split <;> rfl
@[simp] theorem State.observe_ev (s : State) (a : Agent) (ws : List Nat) : (s.observe a ws).ev = s.ev := by unfold State.observe; split <;> rfl
@[simp] theorem State.observe_rr (s : State) (a : Agent) (ws : List Nat) : (s.observe a ws).rr = s.rr := by unfold State.observe; split <;> rfl
@[simp] theorem State.observe_ecc (s : State) (a : Agent) (ws : List Nat) : (s.observe a ws).ecc = s.ecc := by unfold State.observe; split <;> rfl
@[simp] theorem State.observe_remote (s : State) (a : Agent) (ws : List Nat) : (s.observe a ws).remote = s.remote := by unfold State.observe; split <;> rfl
@[simp] theorem State.observe_far (s : State) (a : Agent) (ws : List Nat) : (s.observe a ws).far = s.far := by unfold State.observe; split <;> rfl
@[simp] theorem State.takeSem_clusters (s : State) (a : Agent) (h : Hdr) : (s.takeSem a h).clusters = s.clusters := by simp [State.takeSem]
@[simp] theorem State.takeSem_mem (s : State) (a : Agent) (h : Hdr) : (s.takeSem a h).mem = s.mem := by simp [State.takeSem]
@[simp] theorem State.takeSem_tags (s : State) (a : Agent) (h : Hdr) : (s.takeSem a h).tags = s.tags := by simp [State.takeSem]
@[simp] theorem State.takeSem_poison (s : State) (a : Agent) (h : Hdr) : (s.takeSem a h).poison = s.poison := by simp [State.takeSem]
@[simp] theorem State.takeSem_storage (s : State) (a : Agent) (h : Hdr) : (s.takeSem a h).storage = s.storage := by simp [State.takeSem]
@[simp] theorem State.takeSem_dir (s : State) (a : Agent) (h : Hdr) : (s.takeSem a h).dir = s.dir := by simp [State.takeSem]
@[simp] theorem State.takeSem_dec (s : State) (a : Agent) (h : Hdr) : (s.takeSem a h).dec = s.dec := by simp [State.takeSem]
@[simp] theorem State.takeSem_writers (s : State) (a : Agent) (h : Hdr) : (s.takeSem a h).writers = s.writers := by simp [State.takeSem]
@[simp] theorem State.takeSem_recs (s : State) (a : Agent) (h : Hdr) : (s.takeSem a h).recs = s.recs := by simp [State.takeSem]
@[simp] theorem State.takeSem_invals (s : State) (a : Agent) (h : Hdr) : (s.takeSem a h).invals = s.invals := by simp [State.takeSem]
@[simp] theorem State.takeSem_lineVer (s : State) (a : Agent) (h : Hdr) : (s.takeSem a h).lineVer = s.lineVer := by simp [State.takeSem]
@[simp] theorem State.takeSem_byteVer (s : State) (a : Agent) (h : Hdr) : (s.takeSem a h).byteVer = s.byteVer := by simp [State.takeSem]
@[simp] theorem State.takeSem_now (s : State) (a : Agent) (h : Hdr) : (s.takeSem a h).now = s.now := by simp [State.takeSem]
@[simp] theorem State.takeSem_nextWid (s : State) (a : Agent) (h : Hdr) : (s.takeSem a h).nextWid = s.nextWid := by simp [State.takeSem]
@[simp] theorem State.takeSem_nextId (s : State) (a : Agent) (h : Hdr) : (s.takeSem a h).nextId = s.nextId := by simp [State.takeSem]
@[simp] theorem State.takeSem_nextOrd (s : State) (a : Agent) (h : Hdr) : (s.takeSem a h).nextOrd = s.nextOrd := by simp [State.takeSem]
@[simp] theorem State.takeSem_fresh (s : State) (a : Agent) (h : Hdr) : (s.takeSem a h).fresh = s.fresh := by simp [State.takeSem]
@[simp] theorem State.takeSem_dev (s : State) (a : Agent) (h : Hdr) : (s.takeSem a h).dev = s.dev := by simp [State.takeSem]
@[simp] theorem State.takeSem_arrivals (s : State) (a : Agent) (h : Hdr) : (s.takeSem a h).arrivals = s.arrivals := by simp [State.takeSem]
@[simp] theorem State.takeSem_flights (s : State) (a : Agent) (h : Hdr) : (s.takeSem a h).flights = s.flights := by simp [State.takeSem]
@[simp] theorem State.takeSem_agenda (s : State) (a : Agent) (h : Hdr) : (s.takeSem a h).agenda = s.agenda := by simp [State.takeSem]
@[simp] theorem State.takeSem_cur (s : State) (a : Agent) (h : Hdr) : (s.takeSem a h).cur = s.cur := by simp [State.takeSem]
@[simp] theorem State.takeSem_ev (s : State) (a : Agent) (h : Hdr) : (s.takeSem a h).ev = s.ev := by simp [State.takeSem]
@[simp] theorem State.takeSem_rr (s : State) (a : Agent) (h : Hdr) : (s.takeSem a h).rr = s.rr := by simp [State.takeSem]
@[simp] theorem State.takeSem_ecc (s : State) (a : Agent) (h : Hdr) : (s.takeSem a h).ecc = s.ecc := by simp [State.takeSem]
@[simp] theorem State.takeSem_remote (s : State) (a : Agent) (h : Hdr) : (s.takeSem a h).remote = s.remote := by simp [State.takeSem]
@[simp] theorem State.takeSem_far (s : State) (a : Agent) (h : Hdr) : (s.takeSem a h).far = s.far := by simp [State.takeSem]

/-- What taking a wait clause does: nothing where there is none or it is taken; else the semaphore holds the count, falls by it, and
the writes behind its signals are observed. -/
theorem State.takeWait_cases {s t : State} {a : Agent} {h : Hdr} (ht : s.takeWait a h = some t) :
    (t = s ∧ ((s.ctx a).waitTaken = true ∨ h.wt = 0)) ∨
    ((s.ctx a).waitTaken = false ∧ h.wt ≠ 0 ∧ h.wt.toNat ≤ ((s.core a.gid).sem h.ws.toNat).val.toNat ∧
      s.outranked a h.ws.toNat = false ∧ t = s.takeSem a h) := by
  unfold State.takeWait at ht
  simp only [Bool.or_eq_true, decide_eq_true_eq] at ht
  split at ht
  · next hc => exact .inl ⟨(Option.some.inj ht).symm, hc⟩
  · next hc =>
    simp only [not_or, Bool.not_eq_true] at hc
    split at ht
    · simp at ht
    · next hlow =>
      simp only [not_or, Nat.not_lt, Bool.not_eq_true] at hlow
      exact .inr ⟨hc.1, hc.2, hlow.1, hlow.2, (Option.some.inj ht).symm⟩

/-- Of the contexts, taking a wait clause changes the observed writes and the wait marks of its own. -/
theorem State.takeSem_ctx (s : State) (a : Agent) (h : Hdr) :
    ∃ o, (s.takeSem a h).ctx a = { s.ctx a with obs := o, waitTaken := true, waiting := false } := by
  unfold State.takeSem
  simp only [State.ctx_updCtx_same]
  unfold State.observe
  split
  · exact ⟨(s.ctx a).obs, by simp [State.ctx, Core.ctx]⟩
  · exact ⟨_, by simp only [State.ctx_updCtx_same]; simp [State.ctx, Core.ctx]; rfl⟩

theorem State.takeWait_ctx {s t : State} {a : Agent} {h : Hdr} (ht : s.takeWait a h = some t) :
    ∃ o u w, t.ctx a = { s.ctx a with obs := o, waitTaken := u, waiting := w } := by
  rcases State.takeWait_cases ht with ⟨rfl, -⟩ | ⟨-, -, -, -, rfl⟩
  · exact ⟨_, _, _, rfl⟩
  · obtain ⟨o, e⟩ := State.takeSem_ctx s a h
    exact ⟨o, true, false, e⟩

theorem State.takeWait_clusters {s t : State} {a : Agent} {h : Hdr} (ht : s.takeWait a h = some t) : t.clusters = s.clusters := by
  rcases State.takeWait_cases ht with ⟨rfl, -⟩ | ⟨-, -, -, -, rfl⟩ <;> simp
theorem State.takeWait_mem {s t : State} {a : Agent} {h : Hdr} (ht : s.takeWait a h = some t) : t.mem = s.mem := by
  rcases State.takeWait_cases ht with ⟨rfl, -⟩ | ⟨-, -, -, -, rfl⟩ <;> simp
theorem State.takeWait_tags {s t : State} {a : Agent} {h : Hdr} (ht : s.takeWait a h = some t) : t.tags = s.tags := by
  rcases State.takeWait_cases ht with ⟨rfl, -⟩ | ⟨-, -, -, -, rfl⟩ <;> simp
theorem State.takeWait_poison {s t : State} {a : Agent} {h : Hdr} (ht : s.takeWait a h = some t) : t.poison = s.poison := by
  rcases State.takeWait_cases ht with ⟨rfl, -⟩ | ⟨-, -, -, -, rfl⟩ <;> simp
theorem State.takeWait_storage {s t : State} {a : Agent} {h : Hdr} (ht : s.takeWait a h = some t) : t.storage = s.storage := by
  rcases State.takeWait_cases ht with ⟨rfl, -⟩ | ⟨-, -, -, -, rfl⟩ <;> simp
theorem State.takeWait_dir {s t : State} {a : Agent} {h : Hdr} (ht : s.takeWait a h = some t) : t.dir = s.dir := by
  rcases State.takeWait_cases ht with ⟨rfl, -⟩ | ⟨-, -, -, -, rfl⟩ <;> simp
theorem State.takeWait_dec {s t : State} {a : Agent} {h : Hdr} (ht : s.takeWait a h = some t) : t.dec = s.dec := by
  rcases State.takeWait_cases ht with ⟨rfl, -⟩ | ⟨-, -, -, -, rfl⟩ <;> simp
theorem State.takeWait_writers {s t : State} {a : Agent} {h : Hdr} (ht : s.takeWait a h = some t) : t.writers = s.writers := by
  rcases State.takeWait_cases ht with ⟨rfl, -⟩ | ⟨-, -, -, -, rfl⟩ <;> simp
theorem State.takeWait_recs {s t : State} {a : Agent} {h : Hdr} (ht : s.takeWait a h = some t) : t.recs = s.recs := by
  rcases State.takeWait_cases ht with ⟨rfl, -⟩ | ⟨-, -, -, -, rfl⟩ <;> simp
theorem State.takeWait_invals {s t : State} {a : Agent} {h : Hdr} (ht : s.takeWait a h = some t) : t.invals = s.invals := by
  rcases State.takeWait_cases ht with ⟨rfl, -⟩ | ⟨-, -, -, -, rfl⟩ <;> simp
theorem State.takeWait_lineVer {s t : State} {a : Agent} {h : Hdr} (ht : s.takeWait a h = some t) : t.lineVer = s.lineVer := by
  rcases State.takeWait_cases ht with ⟨rfl, -⟩ | ⟨-, -, -, -, rfl⟩ <;> simp
theorem State.takeWait_byteVer {s t : State} {a : Agent} {h : Hdr} (ht : s.takeWait a h = some t) : t.byteVer = s.byteVer := by
  rcases State.takeWait_cases ht with ⟨rfl, -⟩ | ⟨-, -, -, -, rfl⟩ <;> simp
theorem State.takeWait_now {s t : State} {a : Agent} {h : Hdr} (ht : s.takeWait a h = some t) : t.now = s.now := by
  rcases State.takeWait_cases ht with ⟨rfl, -⟩ | ⟨-, -, -, -, rfl⟩ <;> simp
theorem State.takeWait_nextWid {s t : State} {a : Agent} {h : Hdr} (ht : s.takeWait a h = some t) : t.nextWid = s.nextWid := by
  rcases State.takeWait_cases ht with ⟨rfl, -⟩ | ⟨-, -, -, -, rfl⟩ <;> simp
theorem State.takeWait_nextId {s t : State} {a : Agent} {h : Hdr} (ht : s.takeWait a h = some t) : t.nextId = s.nextId := by
  rcases State.takeWait_cases ht with ⟨rfl, -⟩ | ⟨-, -, -, -, rfl⟩ <;> simp
theorem State.takeWait_nextOrd {s t : State} {a : Agent} {h : Hdr} (ht : s.takeWait a h = some t) : t.nextOrd = s.nextOrd := by
  rcases State.takeWait_cases ht with ⟨rfl, -⟩ | ⟨-, -, -, -, rfl⟩ <;> simp
theorem State.takeWait_fresh {s t : State} {a : Agent} {h : Hdr} (ht : s.takeWait a h = some t) : t.fresh = s.fresh := by
  rcases State.takeWait_cases ht with ⟨rfl, -⟩ | ⟨-, -, -, -, rfl⟩ <;> simp
theorem State.takeWait_dev {s t : State} {a : Agent} {h : Hdr} (ht : s.takeWait a h = some t) : t.dev = s.dev := by
  rcases State.takeWait_cases ht with ⟨rfl, -⟩ | ⟨-, -, -, -, rfl⟩ <;> simp
theorem State.takeWait_arrivals {s t : State} {a : Agent} {h : Hdr} (ht : s.takeWait a h = some t) : t.arrivals = s.arrivals := by
  rcases State.takeWait_cases ht with ⟨rfl, -⟩ | ⟨-, -, -, -, rfl⟩ <;> simp
theorem State.takeWait_flights {s t : State} {a : Agent} {h : Hdr} (ht : s.takeWait a h = some t) : t.flights = s.flights := by
  rcases State.takeWait_cases ht with ⟨rfl, -⟩ | ⟨-, -, -, -, rfl⟩ <;> simp
theorem State.takeWait_agenda {s t : State} {a : Agent} {h : Hdr} (ht : s.takeWait a h = some t) : t.agenda = s.agenda := by
  rcases State.takeWait_cases ht with ⟨rfl, -⟩ | ⟨-, -, -, -, rfl⟩ <;> simp
theorem State.takeWait_cur {s t : State} {a : Agent} {h : Hdr} (ht : s.takeWait a h = some t) : t.cur = s.cur := by
  rcases State.takeWait_cases ht with ⟨rfl, -⟩ | ⟨-, -, -, -, rfl⟩ <;> simp
theorem State.takeWait_ev {s t : State} {a : Agent} {h : Hdr} (ht : s.takeWait a h = some t) : t.ev = s.ev := by
  rcases State.takeWait_cases ht with ⟨rfl, -⟩ | ⟨-, -, -, -, rfl⟩ <;> simp
theorem State.takeWait_rr {s t : State} {a : Agent} {h : Hdr} (ht : s.takeWait a h = some t) : t.rr = s.rr := by
  rcases State.takeWait_cases ht with ⟨rfl, -⟩ | ⟨-, -, -, -, rfl⟩ <;> simp
theorem State.takeWait_ctx_live {s t : State} {a : Agent} {h : Hdr} (ht : s.takeWait a h = some t) : (t.ctx a).live = (s.ctx a).live := by
  obtain ⟨o, u, w, e⟩ := State.takeWait_ctx ht
  rw [e]
theorem State.takeWait_ctx_level {s t : State} {a : Agent} {h : Hdr} (ht : s.takeWait a h = some t) : (t.ctx a).level = (s.ctx a).level := by
  obtain ⟨o, u, w, e⟩ := State.takeWait_ctx ht
  rw [e]
theorem State.takeWait_ctx_pcc {s t : State} {a : Agent} {h : Hdr} (ht : s.takeWait a h = some t) : (t.ctx a).pcc = (s.ctx a).pcc := by
  obtain ⟨o, u, w, e⟩ := State.takeWait_ctx ht
  rw [e]
theorem State.takeWait_ctx_pcOut {s t : State} {a : Agent} {h : Hdr} (ht : s.takeWait a h = some t) : (t.ctx a).pcOut = (s.ctx a).pcOut := by
  obtain ⟨o, u, w, e⟩ := State.takeWait_ctx ht
  rw [e]
theorem State.takeWait_ctx_slot {s t : State} {a : Agent} {h : Hdr} (ht : s.takeWait a h = some t) : (t.ctx a).slot = (s.ctx a).slot := by
  obtain ⟨o, u, w, e⟩ := State.takeWait_ctx ht
  rw [e]
theorem State.takeWait_ctx_blk {s t : State} {a : Agent} {h : Hdr} (ht : s.takeWait a h = some t) : (t.ctx a).blk = (s.ctx a).blk := by
  obtain ⟨o, u, w, e⟩ := State.takeWait_ctx ht
  rw [e]
theorem State.takeWait_ctx_x {s t : State} {a : Agent} {h : Hdr} (ht : s.takeWait a h = some t) : (t.ctx a).x = (s.ctx a).x := by
  obtain ⟨o, u, w, e⟩ := State.takeWait_ctx ht
  rw [e]
theorem State.takeWait_ctx_v {s t : State} {a : Agent} {h : Hdr} (ht : s.takeWait a h = some t) : (t.ctx a).v = (s.ctx a).v := by
  obtain ⟨o, u, w, e⟩ := State.takeWait_ctx ht
  rw [e]
theorem State.takeWait_ctx_k {s t : State} {a : Agent} {h : Hdr} (ht : s.takeWait a h = some t) : (t.ctx a).k = (s.ctx a).k := by
  obtain ⟨o, u, w, e⟩ := State.takeWait_ctx ht
  rw [e]
theorem State.takeWait_ctx_p {s t : State} {a : Agent} {h : Hdr} (ht : s.takeWait a h = some t) : (t.ctx a).p = (s.ctx a).p := by
  obtain ⟨o, u, w, e⟩ := State.takeWait_ctx ht
  rw [e]
theorem State.takeWait_ctx_lq {s t : State} {a : Agent} {h : Hdr} (ht : s.takeWait a h = some t) : (t.ctx a).lq = (s.ctx a).lq := by
  obtain ⟨o, u, w, e⟩ := State.takeWait_ctx ht
  rw [e]
theorem State.takeWait_ctx_sq {s t : State} {a : Agent} {h : Hdr} (ht : s.takeWait a h = some t) : (t.ctx a).sq = (s.ctx a).sq := by
  obtain ⟨o, u, w, e⟩ := State.takeWait_ctx ht
  rw [e]
theorem State.takeWait_ctx_bankDom {s t : State} {a : Agent} {h : Hdr} (ht : s.takeWait a h = some t) : (t.ctx a).bankDom = (s.ctx a).bankDom := by
  obtain ⟨o, u, w, e⟩ := State.takeWait_ctx ht
  rw [e]
theorem State.takeWait_ctx_cdom {s t : State} {a : Agent} {h : Hdr} (ht : s.takeWait a h = some t) : (t.ctx a).cdom = (s.ctx a).cdom := by
  obtain ⟨o, u, w, e⟩ := State.takeWait_ctx ht
  rw [e]
theorem State.takeWait_ctx_upv {s t : State} {a : Agent} {h : Hdr} (ht : s.takeWait a h = some t) : (t.ctx a).upv = (s.ctx a).upv := by
  obtain ⟨o, u, w, e⟩ := State.takeWait_ctx ht
  rw [e]
theorem State.takeWait_ctx_upn {s t : State} {a : Agent} {h : Hdr} (ht : s.takeWait a h = some t) : (t.ctx a).upn = (s.ctx a).upn := by
  obtain ⟨o, u, w, e⟩ := State.takeWait_ctx ht
  rw [e]
theorem State.takeWait_ctx_upc {s t : State} {a : Agent} {h : Hdr} (ht : s.takeWait a h = some t) : (t.ctx a).upc = (s.ctx a).upc := by
  obtain ⟨o, u, w, e⟩ := State.takeWait_ctx ht
  rw [e]
theorem State.takeWait_ctx_upa {s t : State} {a : Agent} {h : Hdr} (ht : s.takeWait a h = some t) : (t.ctx a).upa = (s.ctx a).upa := by
  obtain ⟨o, u, w, e⟩ := State.takeWait_ctx ht
  rw [e]
theorem State.takeWait_ctx_upi {s t : State} {a : Agent} {h : Hdr} (ht : s.takeWait a h = some t) : (t.ctx a).upi = (s.ctx a).upi := by
  obtain ⟨o, u, w, e⟩ := State.takeWait_ctx ht
  rw [e]
theorem State.takeWait_ctx_upk {s t : State} {a : Agent} {h : Hdr} (ht : s.takeWait a h = some t) : (t.ctx a).upk = (s.ctx a).upk := by
  obtain ⟨o, u, w, e⟩ := State.takeWait_ctx ht
  rw [e]
theorem State.takeWait_ctx_bstat {s t : State} {a : Agent} {h : Hdr} (ht : s.takeWait a h = some t) : (t.ctx a).bstat = (s.ctx a).bstat := by
  obtain ⟨o, u, w, e⟩ := State.takeWait_ctx ht
  rw [e]
theorem State.takeWait_ctx_prgn {s t : State} {a : Agent} {h : Hdr} (ht : s.takeWait a h = some t) : (t.ctx a).prgn = (s.ctx a).prgn := by
  obtain ⟨o, u, w, e⟩ := State.takeWait_ctx ht
  rw [e]
theorem State.takeWait_ctx_pres {s t : State} {a : Agent} {h : Hdr} (ht : s.takeWait a h = some t) : (t.ctx a).pres = (s.ctx a).pres := by
  obtain ⟨o, u, w, e⟩ := State.takeWait_ctx ht
  rw [e]
theorem State.takeWait_ctx_fstat {s t : State} {a : Agent} {h : Hdr} (ht : s.takeWait a h = some t) : (t.ctx a).fstat = (s.ctx a).fstat := by
  obtain ⟨o, u, w, e⟩ := State.takeWait_ctx ht
  rw [e]
theorem State.takeWait_ctx_inex {s t : State} {a : Agent} {h : Hdr} (ht : s.takeWait a h = some t) : (t.ctx a).inex = (s.ctx a).inex := by
  obtain ⟨o, u, w, e⟩ := State.takeWait_ctx ht
  rw [e]
theorem State.takeWait_ctx_twid {s t : State} {a : Agent} {h : Hdr} (ht : s.takeWait a h = some t) : (t.ctx a).twid = (s.ctx a).twid := by
  obtain ⟨o, u, w, e⟩ := State.takeWait_ctx ht
  rw [e]
theorem State.takeWait_ctx_tinf {s t : State} {a : Agent} {h : Hdr} (ht : s.takeWait a h = some t) : (t.ctx a).tinf = (s.ctx a).tinf := by
  obtain ⟨o, u, w, e⟩ := State.takeWait_ctx ht
  rw [e]
theorem State.takeWait_ctx_sup {s t : State} {a : Agent} {h : Hdr} (ht : s.takeWait a h = some t) : (t.ctx a).sup = (s.ctx a).sup := by
  obtain ⟨o, u, w, e⟩ := State.takeWait_ctx ht
  rw [e]
theorem State.takeWait_ctx_hyp {s t : State} {a : Agent} {h : Hdr} (ht : s.takeWait a h = some t) : (t.ctx a).hyp = (s.ctx a).hyp := by
  obtain ⟨o, u, w, e⟩ := State.takeWait_ctx ht
  rw [e]
theorem State.takeWait_ctx_budg {s t : State} {a : Agent} {h : Hdr} (ht : s.takeWait a h = some t) : (t.ctx a).budg = (s.ctx a).budg := by
  obtain ⟨o, u, w, e⟩ := State.takeWait_ctx ht
  rw [e]
theorem State.takeWait_ctx_dtLock {s t : State} {a : Agent} {h : Hdr} (ht : s.takeWait a h = some t) : (t.ctx a).dtLock = (s.ctx a).dtLock := by
  obtain ⟨o, u, w, e⟩ := State.takeWait_ctx ht
  rw [e]
theorem State.takeWait_ctx_dtFrac {s t : State} {a : Agent} {h : Hdr} (ht : s.takeWait a h = some t) : (t.ctx a).dtFrac = (s.ctx a).dtFrac := by
  obtain ⟨o, u, w, e⟩ := State.takeWait_ctx ht
  rw [e]
theorem State.takeWait_ctx_region {s t : State} {a : Agent} {h : Hdr} (ht : s.takeWait a h = some t) : (t.ctx a).region = (s.ctx a).region := by
  obtain ⟨o, u, w, e⟩ := State.takeWait_ctx ht
  rw [e]
theorem State.takeWait_ctx_pend {s t : State} {a : Agent} {h : Hdr} (ht : s.takeWait a h = some t) : (t.ctx a).pend = (s.ctx a).pend := by
  obtain ⟨o, u, w, e⟩ := State.takeWait_ctx ht
  rw [e]
theorem State.takeWait_ctx_sb {s t : State} {a : Agent} {h : Hdr} (ht : s.takeWait a h = some t) : (t.ctx a).sb = (s.ctx a).sb := by
  obtain ⟨o, u, w, e⟩ := State.takeWait_ctx ht
  rw [e]
theorem State.takeWait_ctx_acqs {s t : State} {a : Agent} {h : Hdr} (ht : s.takeWait a h = some t) : (t.ctx a).acqs = (s.ctx a).acqs := by
  obtain ⟨o, u, w, e⟩ := State.takeWait_ctx ht
  rw [e]
theorem State.takeWait_ctx_seq {s t : State} {a : Agent} {h : Hdr} (ht : s.takeWait a h = some t) : (t.ctx a).seq = (s.ctx a).seq := by
  obtain ⟨o, u, w, e⟩ := State.takeWait_ctx ht
  rw [e]
theorem State.takeWait_ctx_mon {s t : State} {a : Agent} {h : Hdr} (ht : s.takeWait a h = some t) : (t.ctx a).mon = (s.ctx a).mon := by
  obtain ⟨o, u, w, e⟩ := State.takeWait_ctx ht
  rw [e]
theorem State.takeWait_ctx_busy {s t : State} {a : Agent} {h : Hdr} (ht : s.takeWait a h = some t) : (t.ctx a).busy = (s.ctx a).busy := by
  obtain ⟨o, u, w, e⟩ := State.takeWait_ctx ht
  rw [e]
theorem State.takeWait_ctx_sfault {s t : State} {a : Agent} {h : Hdr} (ht : s.takeWait a h = some t) : (t.ctx a).sfault = (s.ctx a).sfault := by
  obtain ⟨o, u, w, e⟩ := State.takeWait_ctx ht
  rw [e]
theorem State.takeWait_ctx_forker {s t : State} {a : Agent} {h : Hdr} (ht : s.takeWait a h = some t) : (t.ctx a).forker = (s.ctx a).forker := by
  obtain ⟨o, u, w, e⟩ := State.takeWait_ctx ht
  rw [e]


end Sys2Proof.Machine
end

