-- ==== Sys2Proof/Laws/Issue.lean ====
section
/-! SUPPORT. What one execution of an instruction comes to: `issue` always answers a next state, and where the instruction issues it
is the end of its body. -/

namespace Sys2Proof.Machine

open Sys2Proof

/-- The end of an execution is always a next state. -/
theorem Res.close_next (r : Res) (a : Agent) (h : Hdr) (s : State) : ∃ t, r.close a h s = .next t := by
  cases r <;> exact ⟨_, rfl⟩

/-- Where the instruction issues, its execution is the end of its body. -/
theorem issue_of_issues {h : Hdr} {s s1 : State} {rg : InRegion} {srcs dsts : List Operand}
    (hi : Issues h s rg srcs dsts s1) (body : State → Res) :
    issue h s rg srcs dsts body = (body s1).close s.cur h s1 := by
  obtain ⟨free, guard, region, status, reply, ops, wait⟩ := hi
  have hr : (s.me.region.isSome && (decide (rg = .illegal) || (decide (rg = .normal) && (decide (h.wt ≠ 0) || decide (h.si ≠ 0))))) = false := by
    cases hs : s.me.region.isSome
    · rfl
    · obtain ⟨h1, h2⟩ := region hs
      simp only [h1, decide_false, Bool.false_or, Bool.true_and]
      by_cases hn : rg = .normal
      · obtain ⟨h3, h4⟩ := h2 hn
        simp [h3, h4]
      · simp [hn]
  simp only [State.me, State.here] at *
  simp only [issue, free, guard, status, reply, ops, wait]
  simp only [Bool.not_true, Bool.false_eq_true, if_false, Bool.or_self]
  rw [if_neg]
  simpa using hr

/-- Where the guard is false, only the wait and signal clauses act (R237). -/
theorem issue_of_guard {h : Hdr} {s : State} (hf : s.me.held = false) (hg : s.me.guard h = false) (rg : InRegion)
    (srcs dsts : List Operand) (body : State → Res) :
    issue h s rg srcs dsts body =
      match s.takeWait s.cur h with
      | none => .next (s.waitMore s.cur)
      | some s1 => .next (s1.retire s.cur h) := by
  simp only [State.me] at *
  simp only [issue, hf, hg, Bool.not_false, Bool.false_eq_true, if_true, if_false]
  all_goals rfl

/-- A context that an event has to move stays as it is. -/
theorem issue_of_held {h : Hdr} {s : State} (hh : s.me.held = true) (rg : InRegion) (srcs dsts : List Operand)
    (body : State → Res) : issue h s rg srcs dsts body = .next s := by
  simp only [State.me] at *
  simp [issue, hh]

/-- Every execution of an instruction answers a next state. -/
theorem issue_next (h : Hdr) (s : State) (rg : InRegion) (srcs dsts : List Operand) (body : State → Res) :
    ∃ t, issue h s rg srcs dsts body = .next t := by
  simp only [issue]
  repeat' split
  all_goals first
    | exact Res.close_next ..
    | exact ⟨_, rfl⟩

/-- An instruction that only changes its own context retires with that change. -/
theorem pure1_of_issues {h : Hdr} {s s1 : State} {srcs dsts : List Operand}
    (hi : Issues h s .normal srcs dsts s1) (f : Ctx → Ctx) :
    pure1 h s srcs dsts f = .next ((s1.self f).retire s.cur h) := issue_of_issues hi _

/-- The state in which an instruction issues has the same agent in turn. -/
theorem Issues.cur {h : Hdr} {s s1 : State} {rg : InRegion} {srcs dsts : List Operand}
    (hi : Issues h s rg srcs dsts s1) : s1.cur = s.cur := State.takeWait_cur hi.wait

end Sys2Proof.Machine
end

