-- ==== Sys2Proof/Laws/Memory.lean ====
section
/-! SUPPORT. Every memory operation keeps memory, its tags and its poison marks in their canonical form. -/

namespace Sys2Proof.Machine

open Sys2Proof

theorem keysAbove_iff {α : Type} (lo : Nat) (m : Sparse α) :
    keysAbove lo m = true ↔ (∀ e ∈ m, lo < e.1) ∧ m.Pairwise (fun a b => a.1 < b.1) := by
  induction m generalizing lo with
  | nil => simp [keysAbove]
  | cons e m ih =>
    obtain ⟨k, v⟩ := e
    simp only [keysAbove, Bool.and_eq_true, decide_eq_true_eq, ih, List.mem_cons, forall_eq_or_imp, List.pairwise_cons]
    refine ⟨fun ⟨above, rest⟩ => ⟨⟨above, fun a ha => above.trans (rest.1 a ha)⟩, rest⟩, fun ⟨above, rest⟩ => ⟨above.1, rest⟩⟩

/-- The canonical form: keys rise, and no entry is the default. -/
theorem Sparse.wf_iff {α : Type} [DecidableEq α] (d : α) (m : Sparse α) :
    Sparse.wf d m = true ↔ m.Pairwise (fun a b => a.1 < b.1) ∧ ∀ e ∈ m, e.2 ≠ d := by
  cases m with
  | nil => simp [Sparse.wf]
  | cons e m =>
    obtain ⟨k, v⟩ := e
    simp only [Sparse.wf, Bool.and_eq_true, keysAbove_iff, List.all_eq_true, decide_eq_true_eq, List.pairwise_cons]

theorem Sparse.mem_ins {α : Type} {m : Sparse α} {n : Nat} {v : α} {e : Nat × α} (he : e ∈ Sparse.ins m n v) :
    e = (n, v) ∨ e ∈ m := by
  induction m with
  | nil => simp_all [Sparse.ins]
  | cons f m ih =>
    obtain ⟨k, w⟩ := f
    simp only [Sparse.ins] at he
    split_ifs at he <;> simp only [List.mem_cons] at he ⊢ <;> tauto

theorem Sparse.ins_pairwise {α : Type} {m : Sparse α} (h : m.Pairwise (fun a b => a.1 < b.1)) (n : Nat) (v : α) :
    (Sparse.ins m n v).Pairwise (fun a b => a.1 < b.1) := by
  induction m with
  | nil => simp [Sparse.ins]
  | cons f m ih =>
    obtain ⟨k, w⟩ := f
    obtain ⟨first, rest⟩ := List.pairwise_cons.1 h
    simp only [Sparse.ins]
    split_ifs with before same
    · exact (ih rest).cons fun e he => (Sparse.mem_ins he).elim (fun new => new ▸ before) (first e)
    · exact rest.cons fun e he => same ▸ first e he
    · have after : n < k := by omega
      exact h.cons fun e he => (List.mem_cons.1 he).elim (fun top => top ▸ after) (fun low => after.trans (first e low))

/-- A write keeps a map in its canonical form. -/
theorem Sparse.wf_put {α : Type} [DecidableEq α] {d : α} {m : Sparse α} (h : Sparse.wf d m = true) (n : Nat) (v : α) :
    Sparse.wf d (Sparse.put d m n v) = true := by
  rw [Sparse.wf_iff] at *
  unfold Sparse.put
  split
  · exact ⟨h.1.sublist List.filter_sublist, fun e he => h.2 e (List.mem_of_mem_filter he)⟩
  · next hv =>
    refine ⟨Sparse.ins_pairwise h.1 n v, fun e he => ?_⟩
    rcases Sparse.mem_ins he with rfl | he
    · exact hv
    · exact h.2 e he

theorem Sparse.wf_filter {α : Type} [DecidableEq α] {d : α} {m : Sparse α} (h : Sparse.wf d m = true) (p : Nat × α → Bool) :
    Sparse.wf d (m.filter p) = true := by
  rw [Sparse.wf_iff] at *
  exact ⟨h.1.sublist List.filter_sublist, fun e he => h.2 e (List.mem_of_mem_filter he)⟩

theorem mem_natIns {l : List Nat} {n k : Nat} (h : k ∈ natIns l n) : k = n ∨ k ∈ l := by
  induction l with
  | nil => simp_all [natIns]
  | cons a l ih =>
    simp only [natIns] at h
    split_ifs at h <;> simp only [List.mem_cons] at h ⊢ <;> tauto

theorem natIns_pairwise {l : List Nat} (h : l.Pairwise (· < ·)) (n : Nat) : (natIns l n).Pairwise (· < ·) := by
  induction l with
  | nil => simp [natIns]
  | cons a l ih =>
    obtain ⟨first, rest⟩ := List.pairwise_cons.1 h
    simp only [natIns]
    split_ifs with before
    · exact (ih rest).cons fun e he => (mem_natIns he).elim (fun new => new ▸ before) (first e)
    · exact h
    · have after : n < a := by omega
      exact h.cons fun e he => (List.mem_cons.1 he).elim (fun top => top ▸ after) (fun low => after.trans (first e low))

theorem natSet_pairwise {l : List Nat} (h : l.Pairwise (· < ·)) (n : Nat) (b : Bool) : (natSet l n b).Pairwise (· < ·) := by
  unfold natSet natDel
  split
  · exact natIns_pairwise h n
  · exact h.sublist List.filter_sublist

/-! ## The memory operations -/

namespace State

theorem memWf_of_eq {s t : State} (h : s.MemWf) (h1 : t.mem = s.mem) (h2 : t.tags = s.tags) (h3 : t.poison = s.poison) :
    t.MemWf := by
  unfold State.MemWf
  rw [h1, h2, h3]
  exact h

theorem memWf_setByte {s : State} (h : s.MemWf) (a : Nat) (b : Byte) : (s.setByte a b).MemWf :=
  ⟨Sparse.wf_put h.1 a b, h.2⟩

theorem memWf_setBytes {s : State} (h : s.MemWf) (a : Nat) (l : List Byte) : (s.setBytes a l).MemWf := by
  induction l generalizing s a with
  | nil => exact h
  | cons b l ih => exact ih (memWf_setByte h a b) (a + 1)

theorem memWf_setTag {s : State} (h : s.MemWf) (a : Nat) (b : Bool) : (s.setTag a b).MemWf :=
  ⟨h.1, natSet_pairwise h.2.1 _ _, h.2.2⟩

theorem memWf_setPoison {s : State} (h : s.MemWf) (a : Nat) (b : Bool) : (s.setPoison a b).MemWf :=
  ⟨h.1, h.2.1, natSet_pairwise h.2.2 _ _⟩

theorem memWf_clearTags {s : State} (h : s.MemWf) (a n : Nat) : (s.clearTags a n).MemWf := by
  unfold State.clearTags
  split
  · exact h
  · exact ⟨h.1, h.2.1.sublist List.filter_sublist, h.2.2⟩

theorem memWf_zeroBank {s : State} (h : s.MemWf) (cl n : Nat) : (s.zeroBank cl n).MemWf :=
  ⟨Sparse.wf_filter h.1 _, h.2.1.sublist List.filter_sublist, h.2.2.sublist List.filter_sublist⟩

/-- A fold keeps the form when each of its steps does. -/
theorem memWf_foldl {α : Type} (f : State → α → State) (hf : ∀ s e, s.MemWf → (f s e).MemWf) (l : List α) :
    ∀ s : State, s.MemWf → (l.foldl f s).MemWf := by
  induction l with
  | nil => exact fun _ h => h
  | cons e l ih => exact fun s h => ih _ (hf s e h)

@[simp] theorem post_mem (s : State) (cl k : Nat) (ws : List Word) : (s.post cl k ws).mem = s.mem := rfl
@[simp] theorem post_tags (s : State) (cl k : Nat) (ws : List Word) : (s.post cl k ws).tags = s.tags := rfl
@[simp] theorem post_poison (s : State) (cl k : Nat) (ws : List Word) : (s.post cl k ws).poison = s.poison := rfl
@[simp] theorem collect_mem (s : State) (l w : Nat) : (s.collect l w).mem = s.mem := rfl
@[simp] theorem collect_tags (s : State) (l w : Nat) : (s.collect l w).tags = s.tags := rfl
@[simp] theorem collect_poison (s : State) (l w : Nat) : (s.collect l w).poison = s.poison := rfl
@[simp] theorem count_mem (s : State) (c u n : Nat) : (s.count c u n).mem = s.mem := rfl
@[simp] theorem count_tags (s : State) (c u n : Nat) : (s.count c u n).tags = s.tags := rfl
@[simp] theorem count_poison (s : State) (c u n : Nat) : (s.count c u n).poison = s.poison := rfl
@[simp] theorem countHole_mem (s : State) (a : Nat) : (s.countHole a).mem = s.mem := rfl
@[simp] theorem countHole_tags (s : State) (a : Nat) : (s.countHole a).tags = s.tags := rfl
@[simp] theorem countHole_poison (s : State) (a : Nat) : (s.countHole a).poison = s.poison := rfl
@[simp] theorem markDirty_mem (s : State) (a : Nat) : (s.markDirty a).mem = s.mem := by
  unfold State.markDirty; split <;> rfl
@[simp] theorem markDirty_tags (s : State) (a : Nat) : (s.markDirty a).tags = s.tags := by
  unfold State.markDirty; split <;> rfl
@[simp] theorem markDirty_poison (s : State) (a : Nat) : (s.markDirty a).poison = s.poison := by
  unfold State.markDirty; split <;> rfl
@[simp] theorem clearErrs_mem (s : State) (a n : Nat) : (s.clearErrs a n).mem = s.mem := rfl
@[simp] theorem clearErrs_tags (s : State) (a n : Nat) : (s.clearErrs a n).tags = s.tags := rfl
@[simp] theorem clearErrs_poison (s : State) (a n : Nat) : (s.clearErrs a n).poison = s.poison := rfl
@[simp] theorem setErr_mem (s : State) (a k : Nat) : (s.setErr a k).mem = s.mem := rfl
@[simp] theorem setErr_tags (s : State) (a k : Nat) : (s.setErr a k).tags = s.tags := rfl
@[simp] theorem setErr_poison (s : State) (a k : Nat) : (s.setErr a k).poison = s.poison := rfl
@[simp] theorem send_mem (s : State) (w : ReqWho) (l p : Nat) (b : Bool) : (s.send w l p b).mem = s.mem := by
  unfold State.send; split <;> rfl
@[simp] theorem send_tags (s : State) (w : ReqWho) (l p : Nat) (b : Bool) : (s.send w l p b).tags = s.tags := by
  unfold State.send; split <;> rfl
@[simp] theorem send_poison (s : State) (w : ReqWho) (l p : Nat) (b : Bool) : (s.send w l p b).poison = s.poison := by
  unfold State.send; split <;> rfl
@[simp] theorem recall_mem (s : State) (l : Nat) : (s.recall l).mem = s.mem := by
  unfold State.recall; split
  · rfl
  · dsimp only; split <;> rfl
@[simp] theorem recall_tags (s : State) (l : Nat) : (s.recall l).tags = s.tags := by
  unfold State.recall; split
  · rfl
  · dsimp only; split <;> rfl
@[simp] theorem recall_poison (s : State) (l : Nat) : (s.recall l).poison = s.poison := by
  unfold State.recall; split
  · rfl
  · dsimp only; split <;> rfl
@[simp] theorem prune_mem (s : State) : s.prune.mem = s.mem := rfl
@[simp] theorem prune_tags (s : State) : s.prune.tags = s.tags := rfl
@[simp] theorem prune_poison (s : State) : s.prune.poison = s.poison := rfl

@[simp] theorem nameWriter_mem (s : State) (w : HomeWrite) (t v : Nat) : (s.nameWriter w t v).mem = s.mem := rfl
@[simp] theorem patchOwn_mem (s : State) (w : HomeWrite) (t v : Nat) : (s.patchOwn w t v).mem = s.mem := by
  unfold State.patchOwn; split <;> rfl
@[simp] theorem nameWriter_tags (s : State) (w : HomeWrite) (t v : Nat) : (s.nameWriter w t v).tags = s.tags := rfl
@[simp] theorem patchOwn_tags (s : State) (w : HomeWrite) (t v : Nat) : (s.patchOwn w t v).tags = s.tags := by
  unfold State.patchOwn; split <;> rfl
@[simp] theorem nameWriter_poison (s : State) (w : HomeWrite) (t v : Nat) : (s.nameWriter w t v).poison = s.poison := rfl
@[simp] theorem patchOwn_poison (s : State) (w : HomeWrite) (t v : Nat) : (s.patchOwn w t v).poison = s.poison := by
  unfold State.patchOwn; split <;> rfl

/-- Bytes put at their home keep the form. -/
theorem memWf_putWrite {s : State} (h : s.MemWf) (w : HomeWrite) : (s.putWrite w).MemWf := by
  have hb : (((s.setBytes w.addr w.data).clearTags w.addr w.data.length).clearErrs w.addr w.data.length).MemWf :=
    memWf_of_eq (memWf_clearTags (memWf_setBytes h _ _) _ _) rfl rfl rfl
  unfold State.putWrite
  dsimp only
  split
  · exact memWf_setTag hb _ _
  · exact hb

/-- A write at its home changes bytes, tags and marks as `putWrite` does, or not at all. -/
theorem writeHome_mem (s : State) (w : HomeWrite) :
    ((s.writeHome w).mem = s.mem ∧ (s.writeHome w).tags = s.tags ∧ (s.writeHome w).poison = s.poison) ∨
    ((s.writeHome w).mem = (s.putWrite w).mem ∧ (s.writeHome w).tags = (s.putWrite w).tags ∧
      (s.writeHome w).poison = (s.putWrite w).poison) := by
  unfold State.writeHome
  split
  · exact .inl ⟨rfl, rfl, rfl⟩
  · refine .inr ⟨?_, ?_, ?_⟩ <;>
    · dsimp only
      split <;> simp only [prune_mem, prune_tags, prune_poison, markDirty_mem, markDirty_tags, markDirty_poison, patchOwn_mem,
        patchOwn_tags, patchOwn_poison, nameWriter_mem, nameWriter_tags, nameWriter_poison] <;> split <;> rfl

/-- A write at its home keeps the form. -/
theorem memWf_writeHome {s : State} (h : s.MemWf) (w : HomeWrite) : (s.writeHome w).MemWf := by
  rcases writeHome_mem s w with ⟨h1, h2, h3⟩ | ⟨h1, h2, h3⟩
  · exact memWf_of_eq h h1 h2 h3
  · exact memWf_of_eq (memWf_putWrite h w) h1 h2 h3

/-- More bytes of the same write keep the form. -/
theorem memWf_writeMore {s : State} (h : s.MemWf) (wid : Nat) (w : HomeWrite) : (s.writeMore wid w).MemWf := by
  unfold State.writeMore
  split
  · exact h
  · exact memWf_of_eq (memWf_putWrite h w) (by simp) (by simp) (by simp)

/-- A line written whole with sound data keeps the form. -/
theorem memWf_soundLine {s : State} (h : s.MemWf) (a g : Nat) : (s.soundLine a g).MemWf :=
  memWf_of_eq (memWf_setPoison h a false) rfl rfl rfl

/-- A recall changes no byte, no tag and no mark. -/
theorem memWf_recall {s : State} (h : s.MemWf) (l : Nat) : (s.recall l).MemWf := memWf_of_eq h (by simp) (by simp) (by simp)

/-- A write of a unit of the device within one line keeps the form. -/
theorem memWf_devLine {s : State} (h : s.MemWf) (own : Nat) (rel : Bool) (a : Nat) (bs : List Byte) :
    (s.devLine own rel a bs).MemWf := memWf_writeHome (memWf_recall h _) _

/-- A write of a unit of the device keeps the form. -/
theorem memWf_devWrite {s : State} (h : s.MemWf) (own : Nat) (rel : Bool) (a : Nat) (bs : List Byte) :
    (s.devWrite own rel a bs).MemWf := memWf_foldl _ (fun _ _ hs => memWf_devLine hs _ _ _ _) _ _ h

/-- The same at a physical address. -/
theorem memWf_physWrite {s : State} (h : s.MemWf) (own : Nat) (rel : Bool) (a : Nat) (bs : List Byte) :
    (s.physWrite own rel a bs).MemWf := by
  refine memWf_foldl _ (fun u e hs => ?_) _ _ h
  split
  · exact memWf_of_eq hs rfl rfl rfl
  · exact memWf_devLine hs _ _ _ _

/-- Counting a bank's error changes no byte, no tag and no mark. -/
theorem memWf_countBank {s : State} (h : s.MemWf) (c a : Nat) : (s.countBank c a).MemWf := by
  unfold State.countBank
  split
  · exact memWf_of_eq h rfl rfl rfl
  · exact h

/-- What a bank does about an error in a word that is read keeps the form. -/
theorem memWf_fixBank {s : State} (h : s.MemWf) (a k : Nat) : (s.fixBank a k).MemWf := by
  have h1 : (s.setErr a 0).MemWf := memWf_of_eq h rfl rfl rfl
  unfold State.fixBank
  dsimp only
  split
  · exact memWf_countBank (s := (s.setErr a 0).count 2 (bankOf a).1 1) (memWf_of_eq h1 rfl rfl rfl) _ _
  · split
    · exact memWf_countBank (s := ((s.setErr a 0).setPoison a true).count 3 (bankOf a).1 1)
        (memWf_of_eq (memWf_setPoison h1 a true) rfl rfl rfl) _ _
    · refine memWf_setTag (memWf_setBytes (memWf_foldl _ (fun u e hs => ?_) _ _ (memWf_countBank h1 _ _)) _ _) _ _
      split
      · exact memWf_countBank (s := (u.setErr e 0).count 2 (bankOf a).1 1) (memWf_of_eq hs rfl rfl rfl) _ _
      · exact hs

/-- A line that is poisoned where it lies keeps the form. -/
theorem memWf_spoil {s : State} (h : s.MemWf) (a : Nat) : (s.spoil a).MemWf := by
  unfold State.spoil
  split
  · exact memWf_of_eq h rfl rfl rfl
  · exact memWf_setPoison h a true

/-- What a memory controller does about an error in a word that is read keeps the form. -/
theorem memWf_fixDram {s : State} (h : s.MemWf) (a k : Nat) : (s.fixDram a k).MemWf := by
  have h1 : (s.setErr a 0).MemWf := memWf_of_eq h rfl rfl rfl
  unfold State.fixDram
  dsimp only
  split
  · exact memWf_of_eq h1 rfl rfl rfl
  · exact memWf_of_eq (memWf_setPoison h1 a true) rfl rfl rfl

/-- What a slice or a memory controller does about an error in a word that is read keeps the form. -/
theorem memWf_fixWord {s : State} (h : s.MemWf) (a k : Nat) : (s.fixWord a k).MemWf := by
  have h1 : (s.setErr a 0).MemWf := memWf_of_eq h rfl rfl rfl
  unfold State.fixWord
  dsimp only
  split
  · exact memWf_fixBank h a k
  split
  · exact memWf_of_eq h1 rfl rfl rfl
  split
  · exact memWf_of_eq (memWf_spoil h1 a) rfl rfl rfl
  split
  · exact h
  · exact memWf_fixDram h a k

/-- Looking at the check bits of what a read touches keeps the form. -/
theorem memWf_scrub {s : State} (h : s.MemWf) (a n : Nat) : (s.scrub a n).MemWf :=
  memWf_foldl _ (fun _ _ hs => memWf_fixWord hs _ _) _ _ h

theorem memWf_scrubPlane {s : State} (h : s.MemWf) (a n : Nat) : (s.scrubPlane a n).MemWf :=
  memWf_foldl _ (fun _ _ hs => memWf_fixDram hs _ _) _ _ h

theorem memWf_scrubPlanes {s : State} (h : s.MemWf) (f : Nat → Nat) (l : List Nat) :
    (l.foldl (fun (u : State) j => u.scrubPlane (f j) 16) s).MemWf :=
  memWf_foldl _ (fun _ _ hs => memWf_scrubPlane hs _ _) _ _ h

theorem memWf_scrubRead {s : State} (h : s.MemWf) (a n : Nat) : (s.scrubRead a n).MemWf := by
  unfold State.scrubRead
  split
  · exact memWf_scrub h _ _
  · dsimp only
    split
    · exact memWf_scrub (memWf_scrubPlanes h _ _) _ _
    · exact memWf_scrubPlanes h _ _

/-- What a read at the home leaves keeps the form. -/
theorem memWf_noteRead {s : State} (h : s.MemWf) (p : Option Nat) (svc : Bool) (a n : Nat) : (s.noteRead p svc a n).MemWf := by
  unfold State.noteRead
  split
  · exact memWf_of_eq h rfl rfl rfl
  · exact memWf_scrubRead h _ _

end State

end Sys2Proof.Machine
end

