-- ==== Sys2Proof/Tests/Slice0.lean ====
section
/-! SUPPORT. The model's own tests: ill-formed terms that WellFormed refuses, decoded words, worked examples of the manual, single
steps, and a witness for the hypotheses of each statement. Expected results come from the manual. -/

namespace Sys2Proof.Tests

open Sys2Proof Sys2Proof.Machine

set_option Elab.async false

/-- No clauses. -/
def hA : Hdr := ⟨false, 0, 0, 0, 0, 0, false, false, false⟩
/-- Every clause, and a guard that is negated. -/
def hB : Hdr := ⟨true, 3, 0x11, 0x25, 0xC8, 9, true, false, true⟩
/-- A wait clause alone. -/
def hC : Hdr := ⟨false, 6, 0xFF, 1, 0, 0, false, true, false⟩


/-! ## Decoding: the words are laid out by hand from the tables of R236, R239, R246 and R249 and the entries' own fields -/

/-- Each word decodes to the instruction beside it, and encodes it. -/
def reads (l : List (BitVec 96 × Instr)) : Bool := l.all (fun e => decide (decodeWord e.1 = some e.2) && decide (encode e.2 = some e.1))

theorem test_decodeControlA : reads ([
  (0x004000000000000000000000, .nop hA),
  (0x00AC02A00232E44D00000000, .br hB ⟨.x 0, .x 42, .x 0⟩),
  (0x00D800001FE08002FFFFFFFE, .bri hC ⟨.x 0, 0xFFFFFFFE⟩),
  (0x010040000000000012345678, .call hA ⟨.x 8, 0x12345678⟩),
  (0x016C02A00232E44D00000000, .ret hB ⟨.x 0, .x 42, .x 0⟩),
  (0x019828001FE08002FFFFFFFF, .loop hC ⟨.x 5, 0xFFFFFFFF⟩),
  (0x01C000000000000000000000, .halt hA),
  (0x022C00000232E44D00000000, .exit hB),
  (0x025B58001FE0800200000007, .start hC ⟨.p 3, 7⟩),
  (0x028000000000000080000102, .fork hA ⟨0x8000, 0x102⟩),
  (0x02EC00000232E44D00000000, .join hB),
  (0x031802A01FE0800200000000, .yield hC ⟨.x 0, .x 42, .x 0⟩),
  (0x0340000000000000DEADBEEF, .trap hA ⟨.x 0, .x 0, 0xDEADBEEF⟩),
  (0x03ACA3E00232E44D00000000, .sysc hB ⟨.x 20, .x 62, .x 0⟩),
  (0x03D800001FE0800200000000, .rfu hC),
  (0x040000000000000000000000, .rfe hA)] : List (BitVec 96 × Instr)) = true := by decide +kernel

theorem test_decodeControlB : reads ([
  (0x046C00900232E44D00BEEFC8, .semSet hB ⟨.x 0, .x 9, 0xBEEF, 0xC8⟩),
  (0x049800901FE0800200BEEFC8, .semAdd hC ⟨.x 0, .x 9, 0xBEEF, 0xC8⟩),
  (0x04C34E2000000000000003FF, .semSig hA ⟨.p 1, .lq 2, 3, 0xFF⟩),
  (0x052F28000232E44D00000011, .semRd hB ⟨.sq 1, .x 0, 0, 0x11⟩),
  (0x0559F8001FE0800200000098, .mfs hC ⟨.x 63, .x 0, 0x98⟩),
  (0x05800070000000000000007C, .mts hA ⟨.x 0, .x 7, 0x7C⟩),
  (0x05AC00700232E44D00000050, .prgnWrite hB ⟨.x 0, .x 7, 0x50⟩),
  (0x059806301FE0800200000098, .svcrReadyWrite hC ⟨.x 0, .lq 3, 0x98⟩),
  (0x058000700000000000000089, .mqoWrite hA ⟨.x 0, .x 7, 0x89⟩),
  (0x05EC00042232E44D00000000, .bar hB ⟨.x 33⟩),
  (0x061800001FE0800200000000, .gang hC),
  (0x06401840A000000020800001, .wmon hA ⟨.x 3, .x 4, .x 5, 0, 4, 0, 0x800001⟩),
  (0x06AF20000232E44D00000000, .dtime hB ⟨.sq 0, .x 0, .x 0, 0⟩),
  (0x06DB78C01FE0800200000A4D, .budget hC ⟨.p 7, .x 12, 0xA, 0x4D⟩),
  (0x070000042000000000000000, .sstep hA ⟨.x 33⟩),
  (0x076C00042232E44D00000000, .fenceLl hB ⟨.x 33⟩)] : List (BitVec 96 × Instr)) = true := by decide +kernel

theorem test_decodeControlC : reads ([
  (0x075800043FE0800200000001, .fenceSs hC ⟨.x 33⟩),
  (0x074000042000000000000002, .fenceFull hA ⟨.x 33⟩),
  (0x076C00042232E44D00000003, .fenceEng hB ⟨.x 33⟩)] : List (BitVec 96 × Instr)) = true := by decide +kernel

theorem test_decodeIntegerA : reads ([
  (0x10180E07FFE0800200000000, .add hC ⟨.x 1, .lq 0, .x 63, 0⟩),
  (0x10400E07E000000000000000, .sub hA ⟨.x 1, .lq 0, .x 63, 0⟩),
  (0x10AC30700232E44D89ABCDEF, .addi hB ⟨.x 6, .x 7, 0x89ABCDEF⟩),
  (0x10D80E07FFE0800200000000, .mul hC ⟨.x 1, .lq 0, .x 63, 0⟩),
  (0x11000E07E000000000000000, .mulh hA ⟨.x 1, .lq 0, .x 63, 0⟩),
  (0x116C0E07E232E44D00000000, .mulhu hB ⟨.x 1, .lq 0, .x 63, 0⟩),
  (0x11980E07FFE0800200000000, .div hC ⟨.x 1, .lq 0, .x 63, 0⟩),
  (0x11C00E07E000000000000000, .divu hA ⟨.x 1, .lq 0, .x 63, 0⟩),
  (0x122C0E07E232E44D00000000, .rem hB ⟨.x 1, .lq 0, .x 63, 0⟩),
  (0x12580E07FFE0800200000000, .remu hC ⟨.x 1, .lq 0, .x 63, 0⟩),
  (0x12800E07E000000000000000, .and hA ⟨.x 1, .lq 0, .x 63, 0⟩),
  (0x12EC0E07E232E44D00000000, .or hB ⟨.x 1, .lq 0, .x 63, 0⟩),
  (0x13180E07FFE0800200000000, .xor hC ⟨.x 1, .lq 0, .x 63, 0⟩),
  (0x13400E07E000000000000000, .andn hA ⟨.x 1, .lq 0, .x 63, 0⟩),
  (0x13AC0E07E232E44D00000000, .shl hB ⟨.x 1, .lq 0, .x 63, 0⟩),
  (0x13D80E07FFE0800200000000, .shr hC ⟨.x 1, .lq 0, .x 63, 0⟩)] : List (BitVec 96 × Instr)) = true := by decide +kernel

theorem test_decodeIntegerB : reads ([
  (0x14000E07E000000000000000, .sar hA ⟨.x 1, .lq 0, .x 63, 0⟩),
  (0x146C0E07E232E44D00000000, .rol hB ⟨.x 1, .lq 0, .x 63, 0⟩),
  (0x149836101FE080020000003F, .shlI hC ⟨.x 6, .lq 1, 0x3F⟩),
  (0x14C03610000000000000003F, .shrI hA ⟨.x 6, .lq 1, 0x3F⟩),
  (0x152C36100232E44D0000003F, .sarI hB ⟨.x 6, .lq 1, 0x3F⟩),
  (0x155836101FE080020000003F, .rolI hC ⟨.x 6, .lq 1, 0x3F⟩),
  (0x158329F00000000000000000, .clz hA ⟨.sq 1, .x 31, .x 0, 0⟩),
  (0x15EF29F00232E44D00000000, .ctz hB ⟨.sq 1, .x 31, .x 0, 0⟩),
  (0x161B29F01FE0800200000000, .popc hC ⟨.sq 1, .x 31, .x 0, 0⟩),
  (0x16400E07E000000000000000, .min hA ⟨.x 1, .lq 0, .x 63, 0⟩),
  (0x16AC0E07E232E44D00000000, .max hB ⟨.x 1, .lq 0, .x 63, 0⟩),
  (0x16D80E07FFE0800200000000, .minu hC ⟨.x 1, .lq 0, .x 63, 0⟩),
  (0x17000E07E000000000000000, .maxu hA ⟨.x 1, .lq 0, .x 63, 0⟩),
  (0x176F50308232E44D00000009, .cmp hB ⟨.p 2, .x 3, .x 4, 9⟩),
  (0x179B50301FE0800280000105, .cmpi hC ⟨.p 2, .x 3, 0x800001, 5⟩),
  (0x17C008206000000000000005, .sel hA ⟨.x 1, .x 2, .x 3, 5⟩)] : List (BitVec 96 × Instr)) = true := by decide +kernel

theorem test_decodeIntegerC : reads ([
  (0x182C30000232E44D89ABCDEF, .movi hB ⟨.x 6, .x 0, 0x89ABCDEF⟩),
  (0x185830701FE0800289ABCDEF, .movhi hC ⟨.x 6, .x 7, 0x89ABCDEF⟩),
  (0x1883B1F00000000000000000, .mov hA ⟨.k 6, .x 31, .x 0, 0⟩),
  (0x18EC18400232E44D00001000, .bfx hB ⟨.x 3, .x 4, .x 0, 0x40, 0⟩),
  (0x19181840BFE080020000007F, .bfi hC ⟨.x 3, .x 4, .x 5, 1, 0x3F⟩),
  (0x19434EADE000000000000000, .pand hA ⟨.p 1, .p 2, .p 7, 0⟩),
  (0x19AF4EADE232E44D00000000, .por hB ⟨.p 1, .p 2, .p 7, 0⟩),
  (0x19DB46E01FE0800200000000, .pnot hC ⟨.p 0, .p 6, .x 0, 0⟩)] : List (BitVec 96 × Instr)) = true := by decide +kernel

theorem test_decodeCapability : reads ([
  (0x20001280A000000000000000, .cset hA ⟨.x 2, .x 40, .x 5, 0, 0, 0⟩),
  (0x206C1280A232E44D00000000, .cinc hB ⟨.x 2, .x 40, .x 5, 0, 0, 0⟩),
  (0x20981280BFE0800200000000, .cbnd hC ⟨.x 2, .x 40, .x 5, 0, 0, 0⟩),
  (0x20801280A000000000001000, .cbndX hA ⟨.x 2, .x 40, .x 5, 0, 0, 0⟩),
  (0x20EC12800232E44D00000ABC, .cperm hB ⟨.x 2, .x 40, .x 0, 0, 0, 0xABC⟩),
  (0x211812801FE08002000F0000, .cseal hC ⟨.x 2, .x 40, .x 0, 0xF, 0, 0⟩),
  (0x21401A800000000000008000, .cget hA ⟨.x 3, .x 40, .x 0, 0, 8, 0⟩),
  (0x21AF5A80A232E44D00002801, .ctag hB ⟨.p 3, .x 40, .x 5, 0, 2, 0x801⟩),
  (0x21D812801FE0800200000000, .cclr hC ⟨.x 2, .x 40, .x 0, 0, 0, 0⟩)] : List (BitVec 96 × Instr)) = true := by decide +kernel

theorem test_decodeScalarFp : reads ([
  (0x3000082C6000000000000067, .fadd hA ⟨.x 1, .x 2, .lq 3, 0, 0, true, 2, 7⟩),
  (0x306C082C6232E44D00000067, .fsub hB ⟨.x 1, .x 2, .lq 3, 0, 0, true, 2, 7⟩),
  (0x3098082C7FE0800200000067, .fmul hC ⟨.x 1, .x 2, .lq 3, 0, 0, true, 2, 7⟩),
  (0x30C0082C6000000000000067, .ffma hA ⟨.x 1, .x 2, .lq 3, 0, 0, true, 2, 7⟩),
  (0x312C082C6232E44D00000067, .fdiv hB ⟨.x 1, .x 2, .lq 3, 0, 0, true, 2, 7⟩),
  (0x315808201FE0800200000038, .fsqrt hC ⟨.x 1, .x 2, .x 0, 0, 0, false, 3, 8⟩),
  (0x318320206000000000000008, .fmin hA ⟨.sq 0, .x 2, .x 3, 0, 0, false, 0, 8⟩),
  (0x31EF20206232E44D00000008, .fmax hB ⟨.sq 0, .x 2, .x 3, 0, 0, false, 0, 8⟩),
  (0x321B60207FE0800200006007, .fcmp hC ⟨.p 4, .x 2, .x 3, 6, 0, false, 0, 7⟩),
  (0x324008200000000000000B54, .fcvt hA ⟨.x 1, .x 2, .x 0, 0, 0xB, true, 1, 4⟩),
  (0x32AC08200232E44D00000008, .fexp2 hB ⟨.x 1, .x 2, .x 0, 0, 0, false, 0, 8⟩)] : List (BitVec 96 × Instr)) = true := by decide +kernel

theorem test_decodeVectorA : reads ([
  (0x401AFE10DFE0800200020DF9, .vadd hC ⟨.v 31, .lq 1, .x 6, 0, 0, 1, 0, 1, 5, true, true, 3, 9⟩),
  (0x4042FE10C000000000020DF9, .vsub hA ⟨.v 31, .lq 1, .x 6, 0, 0, 1, 0, 1, 5, true, true, 3, 9⟩),
  (0x40AEFE10C232E44D00020DF9, .vmul hB ⟨.v 31, .lq 1, .x 6, 0, 0, 1, 0, 1, 5, true, true, 3, 9⟩),
  (0x40DA0C287FE0800200068FDC, .vfma hC ⟨.v 1, .v 2, .v 3, 0, 0, 3, 2, 1, 7, true, true, 1, 0xC⟩),
  (0x41032C286000000000068F80, .vmin hA ⟨.sq 1, .v 2, .v 3, 0, 0, 3, 2, 1, 7, true, false, 0, 0⟩),
  (0x416F2C286232E44D00068F80, .vmax hB ⟨.sq 1, .v 2, .v 3, 0, 0, 3, 2, 1, 7, true, false, 0, 0⟩),
  (0x419A0C201FE08002000E2845, .vabs hC ⟨.v 1, .v 2, .x 0, 0, 0, 7, 0, 5, 0, false, true, 0, 5⟩),
  (0x41C39C286000000009004182, .vcmp hA ⟨.k 3, .v 2, .v 3, 9, 0, 0, 1, 0, 1, true, false, 0, 2⟩),
  (0x422E0C286232E44D00024A82, .vsel hB ⟨.v 1, .v 2, .v 3, 0, 0, 1, 1, 1, 2, true, false, 0, 2⟩),
  (0x425A0C287FE0800200029846, .viadd hC ⟨.v 1, .v 2, .v 3, 0, 0, 1, 2, 3, 0, false, true, 0, 6⟩),
  (0x42820C286000000000029846, .visub hA ⟨.v 1, .v 2, .v 3, 0, 0, 1, 2, 3, 0, false, true, 0, 6⟩),
  (0x42EE0C286232E44D00029846, .vimul hB ⟨.v 1, .v 2, .v 3, 0, 0, 1, 2, 3, 0, false, true, 0, 6⟩),
  (0x431A0C287FE0800200000483, .vand hC ⟨.v 1, .v 2, .v 3, 0, 0, 0, 0, 0, 4, true, false, 0, 3⟩),
  (0x43420C286000000000000483, .vor hA ⟨.v 1, .v 2, .v 3, 0, 0, 0, 0, 0, 4, true, false, 0, 3⟩),
  (0x43AE0C286232E44D00000483, .vxor hB ⟨.v 1, .v 2, .v 3, 0, 0, 0, 0, 0, 4, true, false, 0, 3⟩),
  (0x43DA0C207FE08002FF020802, .vshl hC ⟨.v 1, .v 2, .x 3, 0xFF, 0, 1, 0, 1, 0, false, false, 0, 2⟩)] : List (BitVec 96 × Instr)) = true := by decide +kernel

theorem test_decodeVectorB : reads ([
  (0x44020C2060000000FF020802, .vshr hA ⟨.v 1, .v 2, .x 3, 0xFF, 0, 1, 0, 1, 0, false, false, 0, 2⟩),
  (0x446E0C206232E44DFF020802, .vsar hB ⟨.v 1, .v 2, .x 3, 0xFF, 0, 1, 0, 1, 0, false, false, 0, 2⟩),
  (0x449A0C201FE08002018603EB, .vcvt hC ⟨.v 1, .v 2, .x 0, 1, 8, 3, 0, 0, 3, true, true, 2, 0xB⟩),
  (0x44C20C286000000084040050, .vquant hA ⟨.v 1, .v 2, .v 3, 0x84, 0, 2, 0, 0, 0, false, true, 1, 0⟩),
  (0x44EE0C200232E44D40000003, .vquantFold hB ⟨.v 1, .v 2, .x 0, 0x40, 0, 0, 0, 0, 0, false, false, 0, 3⟩),
  (0x451A0C207FE080020000382D, .vdeq hC ⟨.v 1, .v 2, .x 3, 0, 0, 0, 0, 7, 0, false, false, 2, 0xD⟩),
  (0x45420C200000000000000688, .vexp2 hA ⟨.v 1, .v 2, .x 0, 0, 0, 0, 0, 0, 6, true, false, 0, 8⟩),
  (0x45AE0C200232E44D00000688, .vrcp hB ⟨.v 1, .v 2, .x 0, 0, 0, 0, 0, 0, 6, true, false, 0, 8⟩),
  (0x45DA0C201FE0800200000688, .vrsq hC ⟨.v 1, .v 2, .x 0, 0, 0, 0, 0, 0, 6, true, false, 0, 8⟩),
  (0x46020C286000000000C0007B, .vdot4 hA ⟨.v 1, .v 2, .v 3, 0, 0xC, 0, 0, 0, 0, false, true, 3, 0xB⟩)] : List (BitVec 96 × Instr)) = true := by decide +kernel

theorem test_decodePermuteA : reads ([
  (0x502E0C286232E44D00000683, .vpermB hB ⟨.v 1, .v 2, .v 3, 0, 0, 0, 0, 0, 6, true, false, 0, 3⟩),
  (0x501A0C287FE0800201000003, .vpermBN hC ⟨.v 1, .v 2, .v 3, 0, 0, 0, 0, 0, 0, false, false, 0, 3⟩),
  (0x50020C286000000003000003, .vpermBNs hA ⟨.v 1, .v 2, .v 3, 0, 0, 0, 0, 0, 0, false, false, 0, 3⟩),
  (0x506E0C286232E44D00000683, .vshuf hB ⟨.v 1, .v 2, .v 3, 0, 0, 0, 0, 0, 6, true, false, 0, 3⟩),
  (0x509A0C201FE080021F020802, .vbcast hC ⟨.v 1, .v 2, .x 0, 0x1F, 0, 1, 0, 1, 0, false, false, 0, 2⟩),
  (0x50C20820000000001E000004, .vins hA ⟨.v 1, .x 2, .x 0, 0x1E, 0, 0, 0, 0, 0, false, false, 0, 4⟩),
  (0x512C0C200232E44D1E000004, .vext hB ⟨.x 1, .v 2, .x 0, 0x1E, 0, 0, 0, 0, 0, false, false, 0, 4⟩),
  (0x515A0C207FE080021F000003, .vrot hC ⟨.v 1, .v 2, .x 3, 0x1F, 0, 0, 0, 0, 0, false, false, 0, 3⟩),
  (0x51820C20000000000000185B, .vredadd hA ⟨.v 1, .v 2, .x 0, 0, 0, 0, 0, 3, 0, false, true, 1, 0xB⟩),
  (0x51EF24200232E44D00001801, .vredmax hB ⟨.sq 0, .v 2, .x 0, 0, 0, 0, 0, 3, 0, false, false, 0, 1⟩),
  (0x521B24201FE0800200001801, .vredmin hC ⟨.sq 0, .v 2, .x 0, 0, 0, 0, 0, 3, 0, false, false, 0, 1⟩),
  (0x524324200000000000001801, .vargmax hA ⟨.sq 0, .v 2, .x 0, 0, 0, 0, 0, 3, 0, false, false, 0, 1⟩),
  (0x52AE0C200232E44D00000068, .vscan hB ⟨.v 1, .v 2, .x 0, 0, 0, 0, 0, 0, 0, false, true, 2, 8⟩),
  (0x529A0C201FE0800201000043, .vscanX hC ⟨.v 1, .v 2, .x 0, 0, 0, 0, 0, 0, 0, false, true, 0, 3⟩),
  (0x52C20C20000000002C000802, .vhist hA ⟨.v 1, .v 2, .x 0, 0x2C, 0, 0, 0, 1, 0, false, false, 0, 2⟩),
  (0x532E0C200232E44D0002080A, .vordkey hB ⟨.v 1, .v 2, .x 0, 0, 0, 1, 0, 1, 0, false, false, 0, 0xA⟩)] : List (BitVec 96 × Instr)) = true := by decide +kernel

theorem test_decodePermuteB : reads ([
  (0x535A0C201FE080020002080A, .vunord hC ⟨.v 1, .v 2, .x 0, 0, 0, 1, 0, 1, 0, false, false, 0, 0xA⟩),
  (0x5383280000000000FF000003, .vlaneid hA ⟨.sq 1, .x 0, .x 0, 0xFF, 0, 0, 0, 0, 0, false, false, 0, 3⟩),
  (0x53EC0C200232E44D00003806, .vcount hB ⟨.x 1, .v 2, .x 0, 0, 0, 0, 0, 7, 0, false, false, 0, 6⟩),
  (0x541B2C201FE0800200000783, .vcompress hC ⟨.sq 1, .v 2, .x 0, 0, 0, 0, 0, 0, 7, true, false, 0, 3⟩)] : List (BitVec 96 × Instr)) = true := by decide +kernel

theorem test_decodeMemoryA : reads ([
  (0x60031840A0000000E37FFFFF, .ld hA ⟨.lq 3, .x 4, .x 5, 3, 4, 3, 0x7FFFFF⟩),
  (0x606C4840A232E44D88800000, .st hB ⟨.x 9, .x 4, .x 5, 2, 1, 0, 0x800000⟩),
  (0x609840401FE0800244000010, .ldc hC ⟨.x 8, .x 4, .x 0, 1, 0, 4, 0x10⟩),
  (0x60C040400000000044000010, .stc hA ⟨.x 8, .x 4, .x 0, 1, 0, 4, 0x10⟩),
  (0x612E4840A232E44D45000000, .ldv hB ⟨.v 9, .x 4, .x 5, 1, 0, 5, 0⟩),
  (0x615B0040BFE0800205000000, .stv hC ⟨.lq 0, .x 4, .x 5, 0, 0, 5, 0⟩),
  (0x618310400000000005000000, .ldq hA ⟨.lq 2, .x 4, .x 0, 0, 0, 5, 0⟩),
  (0x61EF28400232E44D05000000, .stq hB ⟨.sq 1, .x 4, .x 0, 0, 0, 5, 0⟩),
  (0x621A3848BFE0800212000004, .ldg hC ⟨.v 7, .x 4, .v 5, 0, 2, 2, 4⟩),
  (0x62423848A000000012000004, .stg hA ⟨.v 7, .x 4, .v 5, 0, 2, 2, 4⟩),
  (0x62AC4840A232E44DC2000008, .amoAdd hB ⟨.x 9, .x 4, .x 5, 3, 0, 2, 8⟩),
  (0x62D84840BFE08002C2000008, .amoAnd hC ⟨.x 9, .x 4, .x 5, 3, 0, 2, 8⟩),
  (0x63004840A0000000C2000008, .amoOr hA ⟨.x 9, .x 4, .x 5, 3, 0, 2, 8⟩),
  (0x636C4840A232E44DC2000008, .amoXor hB ⟨.x 9, .x 4, .x 5, 3, 0, 2, 8⟩),
  (0x63984840BFE08002C2000008, .amoMin hC ⟨.x 9, .x 4, .x 5, 3, 0, 2, 8⟩),
  (0x63C04840A0000000C2000008, .amoMax hA ⟨.x 9, .x 4, .x 5, 3, 0, 2, 8⟩)] : List (BitVec 96 × Instr)) = true := by decide +kernel

theorem test_decodeMemoryB : reads ([
  (0x642C4840A232E44DC2000008, .amoSwap hB ⟨.x 9, .x 4, .x 5, 3, 0, 2, 8⟩),
  (0x64585040BFE08002C3000008, .amoCas hC ⟨.x 10, .x 4, .x 5, 3, 0, 3, 8⟩),
  (0x64804840A0000000C2000008, .amoFadd hA ⟨.x 9, .x 4, .x 5, 3, 0, 2, 8⟩),
  (0x64EE48420232E44D05000040, .stMc hB ⟨.v 9, .x 4, .x 16, 0, 0, 5, 0x40⟩),
  (0x651A4840BFE080021B000080, .stRedAdd hC ⟨.v 9, .x 4, .x 5, 0, 3, 3, 0x80⟩),
  (0x65424840A00000001B000080, .stRedMin hA ⟨.v 9, .x 4, .x 5, 0, 3, 3, 0x80⟩),
  (0x65AE4840A232E44D1B000080, .stRedMax hB ⟨.v 9, .x 4, .x 5, 0, 3, 3, 0x80⟩),
  (0x65DA4840BFE080021B000080, .stRedFadd hC ⟨.v 9, .x 4, .x 5, 0, 3, 3, 0x80⟩),
  (0x66000040A000000000000100, .pref hA ⟨.x 0, .x 4, .x 5, 0, 0, 0, 0x100⟩),
  (0x666C0040A232E44D00000100, .cinv hB ⟨.x 0, .x 4, .x 5, 0, 0, 0, 0x100⟩),
  (0x66980040BFE0800200000100, .cwb hC ⟨.x 0, .x 4, .x 5, 0, 0, 0, 0x100⟩)] : List (BitVec 96 × Instr)) = true := by decide +kernel

theorem test_decodeBank : reads ([
  (0x700348400000000000565652, .bgive hA ⟨.p 1, .x 4, .x 0, false, 0x2B, 0x56, 5, 2⟩),
  (0x706F48400232E44D0000000F, .btake hB ⟨.p 1, .x 4, .x 0, false, 0, 0, 0, 0xF⟩),
  (0x709B48401FE080020000000F, .bfree hC ⟨.p 1, .x 4, .x 0, false, 0, 0, 0, 0xF⟩),
  (0x70C34840A000000000000007, .bmap hA ⟨.p 1, .x 4, .x 5, false, 0, 0, 0, 7⟩),
  (0x712F4840A232E44D02000003, .ringrot hB ⟨.p 1, .x 4, .x 5, true, 0, 0, 0, 3⟩),
  (0x715B48401FE080020000000F, .bdrain hC ⟨.p 1, .x 4, .x 0, false, 0, 0, 0, 0xF⟩),
  (0x719800001FE08002FFFFFE03, .pbegin hC ⟨0xFFFFFE, 3⟩),
  (0x71EF4840A232E44D00000000, .pcommit hB ⟨.p 1, .x 4, .x 5, 0, 0, 0⟩),
  (0x721800001FE0800200000000, .pabort hC ⟨.x 0, .x 0, .x 0, 0, 0, 0⟩),
  (0x72434840A00000000000000F, .pseed hA ⟨.p 1, .x 4, .x 5, 0, 0, 0xF⟩),
  (0x726F4840A232E44D00000819, .pseedTbl hB ⟨.p 1, .x 4, .x 5, 0, 0x40, 9⟩),
  (0x729808001FE0800200002000, .pdraw hC ⟨.x 1, .x 0, .x 0, 2, 0, 0⟩),
  (0x72C008000000000000001006, .pstat hA ⟨.x 1, .x 0, .x 0, 1, 0, 6⟩),
  (0x72EC08000232E44D000007F6, .pstatE hB ⟨.x 1, .x 0, .x 0, 0, 0x3F, 6⟩)] : List (BitVec 96 × Instr)) = true := by decide +kernel

theorem test_decodeMatrix : reads ([
  (0x80184BC0BFE08002000002C3, .mlds hC ⟨.x 9, .x 60, .x 5, false, false, false, 0, 0, 0xB, 0, 0, true, true⟩),
  (0x804000000000000000000000, .mswp hA ⟨.x 0, .x 0, .x 0, false, false, false, 0, 0, 0, 0, 0, false, false⟩),
  (0x80AC4BC0A232E44D00000372, .mstream hB ⟨.x 9, .x 60, .x 5, false, false, false, 0, 0, 0xD, 3, 0, true, false⟩),
  (0x80D800001FE0800200000020, .mzero hC ⟨.x 0, .x 0, .x 0, false, false, false, 0, 0, 0, 2, 0, false, false⟩),
  (0x810048400000000000000210, .mdrain hA ⟨.x 9, .x 4, .x 0, false, false, false, 0, 0, 8, 1, 0, false, false⟩),
  (0x816C48000232E44D00000000, .mgang hB ⟨.x 9, .x 0, .x 0, false, false, false, 0, 0, 0, 0, 0, false, false⟩),
  (0x819848001FE0800200000320, .mfwd hC ⟨.x 9, .x 0, .x 0, false, false, false, 0, 0, 0xC, 2, 0, false, false⟩),
  (0x81C048400000000000000030, .msave hA ⟨.x 9, .x 4, .x 0, false, false, false, 0, 0, 0, 3, 0, false, false⟩),
  (0x81EC48400232E44D00004000, .msaveSt hB ⟨.x 9, .x 4, .x 0, false, false, false, 1, 0, 0, 0, 0, false, false⟩),
  (0x821848401FE0800200004010, .mrest hC ⟨.x 9, .x 4, .x 0, false, false, false, 1, 0, 0, 1, 0, false, false⟩)] : List (BitVec 96 × Instr)) = true := by decide +kernel

theorem test_decodeCopy : reads ([
  (0x90004903C000000000004006, .cpy hA ⟨.x 9, .x 16, .x 30, false, false, false, 1, 0, 0, 0, 1, true, false⟩),
  (0x906C48000232E44D0000158C, .cpwp hB ⟨.x 9, .x 0, .x 0, false, false, false, 0, 5, 6, 0, 3, false, false⟩),
  (0x909849001FE0800200040008, .cps hC ⟨.x 9, .x 16, .x 0, true, false, false, 0, 0, 0, 0, 2, false, false⟩),
  (0x90C049000000000000040008, .cpsw hA ⟨.x 9, .x 16, .x 0, true, false, false, 0, 0, 0, 0, 2, false, false⟩),
  (0x912C4B800232E44D0000000C, .cpm hB ⟨.x 9, .x 56, .x 0, false, false, false, 0, 0, 0, 0, 3, false, false⟩),
  (0x91584B801FE080020000000C, .cpmFin hC ⟨.x 9, .x 56, .x 0, false, false, false, 0, 0, 0, 0, 3, false, false⟩)] : List (BitVec 96 × Instr)) = true := by decide +kernel

theorem test_decodeExchange : reads ([
  (0xA0035470A000000000000000, .send hA ⟨.p 2, .v 7, .x 5, 0, 0, 0⟩),
  (0xA06E38000232E44D00000000, .recv hB ⟨.v 7, .x 0, .x 0, 0, 0, 0⟩),
  (0xA05B20001FE0800200000100, .recvT hC ⟨.sq 0, .x 0, .x 0, 0, 0, 0⟩),
  (0xA0801000A0000000000FF000, .xphase hA ⟨.x 2, .x 0, .x 5, 0xFF, 0, 0⟩),
  (0xA0EC04700232E44D00080000, .xmit hB ⟨.x 0, .v 7, .x 0, 0x80, 0, 0⟩),
  (0xA11A3800BFE0800200001000, .xsel hC ⟨.v 7, .x 0, .x 5, 1, 0, 0⟩),
  (0xA1401040A0000000000C8209, .cred hA ⟨.x 2, .x 4, .x 5, 0xC8, 2, 9⟩),
  (0xA1AC1040A232E44D000C8004, .cbc hB ⟨.x 2, .x 4, .x 5, 0xC8, 0, 4⟩),
  (0xA1D81040BFE08002000C8004, .cag hC ⟨.x 2, .x 4, .x 5, 0xC8, 0, 4⟩)] : List (BitVec 96 × Instr)) = true := by decide +kernel

theorem test_decodeTaskA : reads ([
  (0xB00010400000000000000000, .launch hA ⟨.x 2, .x 4, .x 0, 0, 0, 0⟩),
  (0xB06F4840A232E44D00000007, .tpsh hB ⟨.p 1, .x 4, .x 5, 0, 0, 7⟩),
  (0xB09B48401FE0800200000000, .tpop hC ⟨.p 1, .x 4, .x 0, 0, 0, 0⟩),
  (0xB0C00040A000000000000010, .tdecl hA ⟨.x 0, .x 4, .x 5, 0, 1, 0⟩),
  (0xB12F48400232E44D00001706, .qprio hB ⟨.p 1, .x 4, .x 0, 0x17, 0, 6⟩),
  (0xB15810001FE0800200000005, .wid hC ⟨.x 2, .x 0, .x 0, 0, 0, 5⟩),
  (0xB1401040A000000000000013, .widSet hA ⟨.x 2, .x 4, .x 5, 0, 0, 3⟩),
  (0xB1AC10000232E44D00000703, .twget hB ⟨.x 2, .x 0, .x 0, 7, 0, 3⟩),
  (0xB1DB48401FE0800200000002, .twadv hC ⟨.p 1, .x 4, .x 0, 0, 0, 2⟩),
  (0xB20348400000000000000401, .twput hA ⟨.p 1, .x 4, .x 0, 4, 0, 1⟩),
  (0xB26C1040A232E44D00000000, .tlbwInstall hB ⟨.x 2, .x 4, .x 5, 0, 0, 0⟩),
  (0xB2581000BFE0800200000710, .tlbwUpcall hC ⟨.x 2, .x 0, .x 5, 7, 0, 0⟩),
  (0xB2401000A000000000000720, .tlbwTrap hA ⟨.x 2, .x 0, .x 5, 7, 0, 0⟩),
  (0xB26C1000A232E44D00000030, .tlbwFail hB ⟨.x 2, .x 0, .x 5, 0, 0, 0⟩),
  (0xB2980040BFE0800200000000, .tlbiPage hC ⟨.x 0, .x 4, .x 5, 0, 0, 0⟩),
  (0xB2800040A000000000000010, .tlbiDomain hA ⟨.x 0, .x 4, .x 5, 0, 0, 0⟩)] : List (BitVec 96 × Instr)) = true := by decide +kernel

theorem test_decodeTaskB : reads ([
  (0xB2AC0000A232E44D00000020, .tlbiAll hB ⟨.x 0, .x 0, .x 5, 0, 0, 0⟩),
  (0xB2D800401FE0800200000000, .fnote hC ⟨.x 0, .x 4, .x 0, 0, 0, 0⟩),
  (0xB30000400000000000002F02, .rtab hA ⟨.x 0, .x 4, .x 0, 0x2F, 0, 2⟩),
  (0xB32C10000232E44D00002F11, .rtabRd hB ⟨.x 2, .x 0, .x 0, 0x2F, 0, 1⟩)] : List (BitVec 96 × Instr)) = true := by decide +kernel

/-! ## Ill-formed terms: each check of WellFormed refuses a term that breaks it alone, and the decoder refuses its word -/

/-- A semaphore named without a count. -/
def hWs : Hdr := ⟨false, 0, 1, 0, 0, 0, false, false, false⟩
def hSs : Hdr := ⟨false, 0, 0, 0, 1, 0, false, false, false⟩

/-- No word decodes to the term, the term is not well formed, and its word is refused. -/
def refuses (l : List (BitVec 96 × Instr)) : Bool := l.all (fun e => !e.2.wf && decide (decodeWord e.1 = none))

theorem test_illFormedA : refuses ([
  (0x004000000020000000000000, .nop hWs),
  (0x004000000000008000000000, .nop hSs),
  (0x00800AA00000000000000000, .br hA ⟨.x 1, .x 42, .x 0⟩),
  (0x008000300000000000000000, .br hA ⟨.x 0, .x 3, .x 0⟩),
  (0x008002A02000000000000000, .br hA ⟨.x 0, .x 42, .x 1⟩),
  (0x00C0080000000000FFFFFFFE, .bri hA ⟨.x 1, 0xFFFFFFFE⟩),
  (0x010018000000000012345678, .call hA ⟨.x 3, 0x12345678⟩),
  (0x014003F00000000000000000, .ret hA ⟨.x 0, .x 63, .x 0⟩),
  (0x0182080000000000FFFFFFFF, .loop hA ⟨.v 1, 0xFFFFFFFF⟩),
  (0x024008000000000000000007, .start hA ⟨.x 1, 7⟩),
  (0x030002A02000000000000000, .yield hA ⟨.x 0, .x 42, .x 1⟩),
  (0x0340001000000000DEADBEEF, .trap hA ⟨.x 0, .x 1, 0xDEADBEEF⟩),
  (0x0340080000000000DEADBEEF, .trap hA ⟨.x 1, .x 0, 0xDEADBEEF⟩),
  (0x03801BE00000000000000000, .sysc hA ⟨.x 3, .x 62, .x 0⟩),
  (0x0380A0300000000000000000, .sysc hA ⟨.x 20, .x 3, .x 0⟩),
  (0x0380A3E04000000000000000, .sysc hA ⟨.x 20, .x 62, .x 2⟩),
  (0x044008900000000000BEEFC8, .semSet hA ⟨.x 1, .x 9, 0xBEEF, 0xC8⟩),
  (0x044004100000000000BEEFC8, .semSet hA ⟨.x 0, .v 1, 0xBEEF, 0xC8⟩),
  (0x048006400000000000BEEFC8, .semAdd hA ⟨.x 0, .sq 0, 0xBEEF, 0xC8⟩),
  (0x04C00E2000000000000003FF, .semSig hA ⟨.x 1, .lq 2, 3, 0xFF⟩),
  (0x050328000000000000000111, .semRd hA ⟨.sq 1, .x 0, 1, 0x11⟩),
  (0x050328100000000000000011, .semRd hA ⟨.sq 1, .x 1, 0, 0x11⟩),
  (0x050208000000000000000011, .semRd hA ⟨.v 1, .x 0, 0, 0x11⟩),
  (0x0541F8000000000000000003, .mfs hA ⟨.x 63, .x 0, 3⟩),
  (0x0541F8100000000000000098, .mfs hA ⟨.x 63, .x 1, 0x98⟩),
  (0x058000700000000000000075, .mts hA ⟨.x 0, .x 7, 0x75⟩),
  (0x05800870000000000000007C, .mts hA ⟨.x 1, .x 7, 0x7C⟩),
  (0x05C000082000000000000000, .bar hA ⟨.v 1⟩),
  (0x06401840A000000060800001, .wmon hA ⟨.x 3, .x 4, .x 5, 1, 4, 0, 0x800001⟩),
  (0x06401840A000000021800001, .wmon hA ⟨.x 3, .x 4, .x 5, 0, 4, 1, 0x800001⟩)] : List (BitVec 96 × Instr)) = true := by decide +kernel

theorem test_illFormedB : refuses ([
  (0x06420840A000000020800001, .wmon hA ⟨.v 1, .x 4, .x 5, 0, 4, 0, 0x800001⟩),
  (0x06401840A000000028800001, .wmon hA ⟨.x 3, .x 4, .x 5, 0, 5, 0, 0x800001⟩),
  (0x068320100000000000000000, .dtime hA ⟨.sq 0, .x 1, .x 0, 0⟩),
  (0x068320000000000000000001, .dtime hA ⟨.sq 0, .x 0, .x 0, 1⟩),
  (0x06C378C0000000000000004D, .budget hA ⟨.p 7, .x 12, 0, 0x4D⟩),
  (0x06C378C00000000000000B4D, .budget hA ⟨.p 7, .x 12, 0xB, 0x4D⟩),
  (0x06C008C00000000000000A4D, .budget hA ⟨.x 1, .x 12, 0xA, 0x4D⟩),
  (0x0700000C0000000000000000, .sstep hA ⟨.lq 0⟩),
  (0x074000082000000000000000, .fenceLl hA ⟨.v 1⟩),
  (0x0740000C8000000000000003, .fenceEng hA ⟨.sq 0⟩),
  (0x10000E07E000000000000001, .add hA ⟨.x 1, .lq 0, .x 63, 1⟩),
  (0x10030607E000000000000000, .add hA ⟨.lq 0, .lq 0, .x 63, 0⟩),
  (0x10400E47E000000000000000, .sub hA ⟨.x 1, .sq 0, .x 63, 0⟩),
  (0x10C00E082000000000000000, .mul hA ⟨.x 1, .lq 0, .v 1, 0⟩),
  (0x158329F02000000000000000, .clz hA ⟨.sq 1, .x 31, .x 1, 0⟩),
  (0x108037100000000089ABCDEF, .addi hA ⟨.x 6, .k 1, 0x89ABCDEF⟩),
  (0x148036100000000000000040, .shlI hA ⟨.x 6, .lq 1, 0x40⟩),
  (0x180030100000000089ABCDEF, .movi hA ⟨.x 6, .x 1, 0x89ABCDEF⟩),
  (0x184200700000000089ABCDEF, .movhi hA ⟨.v 0, .x 7, 0x89ABCDEF⟩),
  (0x17435030800000000000000A, .cmp hA ⟨.p 2, .x 3, .x 4, 0xA⟩),
  (0x174008308000000000000009, .cmp hA ⟨.x 1, .x 3, .x 4, 9⟩),
  (0x17835030000000008000010F, .cmpi hA ⟨.p 2, .x 3, 0x800001, 0xF⟩),
  (0x17C00C106000000000000005, .sel hA ⟨.x 1, .v 1, .x 3, 5⟩),
  (0x1883B7200000000000000000, .mov hA ⟨.k 6, .k 2, .x 0, 0⟩),
  (0x1883B1F02000000000000000, .mov hA ⟨.k 6, .x 31, .x 1, 0⟩),
  (0x18C018400000000000000000, .bfx hA ⟨.x 3, .x 4, .x 0, 0, 0⟩),
  (0x18C018400000000000001001, .bfx hA ⟨.x 3, .x 4, .x 0, 0x40, 1⟩),
  (0x18C018402000000000001000, .bfx hA ⟨.x 3, .x 4, .x 1, 0x40, 0⟩),
  (0x19001840A00000000000107F, .bfi hA ⟨.x 3, .x 4, .x 5, 0x41, 0x3F⟩),
  (0x19400EADE000000000000000, .pand hA ⟨.x 1, .p 2, .p 7, 0⟩)] : List (BitVec 96 × Instr)) = true := by decide +kernel

theorem test_illFormedC : refuses ([
  (0x1983481DE000000000000000, .por hA ⟨.p 1, .x 1, .p 7, 0⟩),
  (0x19C346ED2000000000000000, .pnot hA ⟨.p 0, .p 6, .p 1, 0⟩),
  (0x20001280A000000000010000, .cset hA ⟨.x 2, .x 40, .x 5, 1, 0, 0⟩),
  (0x20001280A000000000000001, .cset hA ⟨.x 2, .x 40, .x 5, 0, 0, 1⟩),
  (0x20001A80A000000000000000, .cset hA ⟨.x 3, .x 40, .x 5, 0, 0, 0⟩),
  (0x20401290A000000000000000, .cinc hA ⟨.x 2, .x 41, .x 5, 0, 0, 0⟩),
  (0x20801280A000000000002000, .cbnd hA ⟨.x 2, .x 40, .x 5, 0, 2, 0⟩),
  (0x20801288A000000000000000, .cbnd hA ⟨.x 2, .x 40, .v 5, 0, 0, 0⟩),
  (0x20C012800000000000000001, .cperm hA ⟨.x 2, .x 40, .x 0, 0, 0, 1⟩),
  (0x20C012802000000000000ABC, .cperm hA ⟨.x 2, .x 40, .x 1, 0, 0, 0xABC⟩),
  (0x210012800000000000000000, .cseal hA ⟨.x 2, .x 40, .x 0, 0, 0, 0⟩),
  (0x2100128000000000000F0001, .cseal hA ⟨.x 2, .x 40, .x 0, 0xF, 0, 1⟩),
  (0x21401A800000000000009000, .cget hA ⟨.x 3, .x 40, .x 0, 0, 9, 0⟩),
  (0x21835A80A000000000003801, .ctag hA ⟨.p 3, .x 40, .x 5, 0, 3, 0x801⟩),
  (0x21835A80A000000000000801, .ctag hA ⟨.p 3, .x 40, .x 5, 0, 0, 0x801⟩),
  (0x21C012802000000000000000, .cclr hA ⟨.x 2, .x 40, .x 1, 0, 0, 0⟩),
  (0x3000082C6000000000000069, .fadd hA ⟨.x 1, .x 2, .lq 3, 0, 0, true, 2, 9⟩),
  (0x3040082C6000000000001067, .fsub hA ⟨.x 1, .x 2, .lq 3, 1, 0, true, 2, 7⟩),
  (0x3080082C6000000000000167, .fmul hA ⟨.x 1, .x 2, .lq 3, 0, 1, true, 2, 7⟩),
  (0x30C3202C6000000000000067, .ffma hA ⟨.sq 0, .x 2, .lq 3, 0, 0, true, 2, 7⟩),
  (0x30C0002C6000000000000067, .ffma hA ⟨.x 0, .x 2, .lq 3, 0, 0, true, 2, 7⟩),
  (0x314008202000000000000038, .fsqrt hA ⟨.x 1, .x 2, .x 1, 0, 0, false, 3, 8⟩),
  (0x318320206000000000000018, .fmin hA ⟨.sq 0, .x 2, .x 3, 0, 0, false, 1, 8⟩),
  (0x31C320206000000000000048, .fmax hA ⟨.sq 0, .x 2, .x 3, 0, 0, true, 0, 8⟩),
  (0x320008206000000000006007, .fcmp hA ⟨.x 1, .x 2, .x 3, 6, 0, false, 0, 7⟩),
  (0x324008200000000000000B55, .fcvt hA ⟨.x 1, .x 2, .x 0, 0, 0xB, true, 1, 5⟩),
  (0x324008200000000000000352, .fcvt hA ⟨.x 1, .x 2, .x 0, 0, 3, true, 1, 2⟩),
  (0x328008200000000000000007, .fexp2 hA ⟨.x 1, .x 2, .x 0, 0, 0, false, 0, 7⟩),
  (0x4002FE10C000000000020DF0, .vadd hA ⟨.v 31, .lq 1, .x 6, 0, 0, 1, 0, 1, 5, true, true, 3, 0⟩),
  (0x4002FE10C000000001020DF9, .vadd hA ⟨.v 31, .lq 1, .x 6, 1, 0, 1, 0, 1, 5, true, true, 3, 9⟩)] : List (BitVec 96 × Instr)) = true := by decide +kernel

theorem test_illFormedD : refuses ([
  (0x4002FE10C000000000024DF9, .vadd hA ⟨.v 31, .lq 1, .x 6, 0, 0, 1, 1, 1, 5, true, true, 3, 9⟩),
  (0x4042FE10C000000000020DF8, .vsub hA ⟨.v 31, .lq 1, .x 6, 0, 0, 1, 0, 1, 5, true, true, 3, 8⟩),
  (0x4082FE10C000000000120DF9, .vmul hA ⟨.v 31, .lq 1, .x 6, 0, 1, 1, 0, 1, 5, true, true, 3, 9⟩),
  (0x40C324286000000000068FDC, .vfma hA ⟨.sq 0, .v 2, .v 3, 0, 0, 3, 2, 1, 7, true, true, 1, 0xC⟩),
  (0x41032C286000000000068F90, .vmin hA ⟨.sq 1, .v 2, .v 3, 0, 0, 3, 2, 1, 7, true, false, 1, 0⟩),
  (0x41820C2000000000000E2848, .vabs hA ⟨.v 1, .v 2, .x 0, 0, 0, 7, 0, 5, 0, false, true, 0, 8⟩),
  (0x41C39C28600000000A004182, .vcmp hA ⟨.k 3, .v 2, .v 3, 0xA, 0, 0, 1, 0, 1, true, false, 0, 2⟩),
  (0x41C20C286000000009004182, .vcmp hA ⟨.v 1, .v 2, .v 3, 9, 0, 0, 1, 0, 1, true, false, 0, 2⟩),
  (0x42020C286000000000024A81, .vsel hA ⟨.v 1, .v 2, .v 3, 0, 0, 1, 1, 1, 2, true, false, 0, 1⟩),
  (0x42420C286000000000029856, .viadd hA ⟨.v 1, .v 2, .v 3, 0, 0, 1, 2, 3, 0, false, true, 1, 6⟩),
  (0x42820C286000000000029848, .visub hA ⟨.v 1, .v 2, .v 3, 0, 0, 1, 2, 3, 0, false, true, 0, 8⟩),
  (0x43020C286000000000000482, .vand hA ⟨.v 1, .v 2, .v 3, 0, 0, 0, 0, 0, 4, true, false, 0, 2⟩),
  (0x43C20C2060000000FF020842, .vshl hA ⟨.v 1, .v 2, .x 3, 0xFF, 0, 1, 0, 1, 0, false, true, 0, 2⟩),
  (0x44820C2000000000028603EB, .vcvt hA ⟨.v 1, .v 2, .x 0, 2, 8, 3, 0, 0, 3, true, true, 2, 0xB⟩),
  (0x44820C2000000000014603EB, .vcvt hA ⟨.v 1, .v 2, .x 0, 1, 4, 3, 0, 0, 3, true, true, 2, 0xB⟩),
  (0x44820C2000000000008603EB, .vcvt hA ⟨.v 1, .v 2, .x 0, 0, 8, 3, 0, 0, 3, true, true, 2, 0xB⟩),
  (0x44C20C286000000084040053, .vquant hA ⟨.v 1, .v 2, .v 3, 0x84, 0, 2, 0, 0, 0, false, true, 1, 3⟩),
  (0x44C20C2860000000A4040050, .vquant hA ⟨.v 1, .v 2, .v 3, 0xA4, 0, 2, 0, 0, 0, false, true, 1, 0⟩),
  (0x44C20C286000000081040050, .vquant hA ⟨.v 1, .v 2, .v 3, 0x81, 0, 2, 0, 0, 0, false, true, 1, 0⟩),
  (0x44C20C286000000001040050, .vquant hA ⟨.v 1, .v 2, .v 3, 1, 0, 2, 0, 0, 0, false, true, 1, 0⟩),
  (0x44C20C200000000041000003, .vquantFold hA ⟨.v 1, .v 2, .x 0, 0x41, 0, 0, 0, 0, 0, false, false, 0, 3⟩),
  (0x45020C20600000000000386D, .vdeq hA ⟨.v 1, .v 2, .x 3, 0, 0, 0, 0, 7, 0, false, true, 2, 0xD⟩),
  (0x45420C200000000000000689, .vexp2 hA ⟨.v 1, .v 2, .x 0, 0, 0, 0, 0, 0, 6, true, false, 0, 9⟩),
  (0x45820C2000000000000006C8, .vrcp hA ⟨.v 1, .v 2, .x 0, 0, 0, 0, 0, 0, 6, true, true, 0, 8⟩),
  (0x46020C28600000000000007B, .vdot4 hA ⟨.v 1, .v 2, .v 3, 0, 0, 0, 0, 0, 0, false, true, 3, 0xB⟩),
  (0x460324286000000000C0007B, .vdot4 hA ⟨.sq 0, .v 2, .v 3, 0, 0xC, 0, 0, 0, 0, false, true, 3, 0xB⟩),
  (0x50020C286000000000000682, .vpermB hA ⟨.v 1, .v 2, .v 3, 0, 0, 0, 0, 0, 6, true, false, 0, 2⟩),
  (0x50420C286000000001000683, .vshuf hA ⟨.v 1, .v 2, .v 3, 1, 0, 0, 0, 0, 6, true, false, 0, 3⟩),
  (0x50820C200000000020020802, .vbcast hA ⟨.v 1, .v 2, .x 0, 0x20, 0, 1, 0, 1, 0, false, false, 0, 2⟩),
  (0x50820820000000001F020802, .vbcast hA ⟨.v 1, .x 2, .x 0, 0x1F, 0, 1, 0, 1, 0, false, false, 0, 2⟩)] : List (BitVec 96 × Instr)) = true := by decide +kernel

theorem test_illFormedE : refuses ([
  (0x50C20820000000001E000084, .vins hA ⟨.v 1, .x 2, .x 0, 0x1E, 0, 0, 0, 0, 0, true, false, 0, 4⟩),
  (0x50C20820000000001F000004, .vins hA ⟨.v 1, .x 2, .x 0, 0x1F, 0, 0, 0, 0, 0, false, false, 0, 4⟩),
  (0x51000C200000000001000004, .vext hA ⟨.x 1, .v 2, .x 0, 1, 0, 0, 0, 0, 0, false, false, 0, 4⟩),
  (0x51420C206000000020000003, .vrot hA ⟨.v 1, .v 2, .x 3, 0x20, 0, 0, 0, 0, 0, false, false, 0, 3⟩),
  (0x51820C200000000000000052, .vredadd hA ⟨.v 1, .v 2, .x 0, 0, 0, 0, 0, 0, 0, false, true, 1, 2⟩),
  (0x51C324200000000000001841, .vredmax hA ⟨.sq 0, .v 2, .x 0, 0, 0, 0, 0, 3, 0, false, true, 0, 1⟩),
  (0x52820C200000000000000062, .vscan hA ⟨.v 1, .v 2, .x 0, 0, 0, 0, 0, 0, 0, false, true, 2, 2⟩),
  (0x52820C200000000001000053, .vscanX hA ⟨.v 1, .v 2, .x 0, 0, 0, 0, 0, 0, 0, false, true, 1, 3⟩),
  (0x52C20C20000000000D000802, .vhist hA ⟨.v 1, .v 2, .x 0, 0xD, 0, 0, 0, 1, 0, false, false, 0, 2⟩),
  (0x53020C200000000000020803, .vordkey hA ⟨.v 1, .v 2, .x 0, 0, 0, 1, 0, 1, 0, false, false, 0, 3⟩),
  (0x5383281000000000FF000003, .vlaneid hA ⟨.sq 1, .x 1, .x 0, 0xFF, 0, 0, 0, 0, 0, false, false, 0, 3⟩),
  (0x53C00C200000000000000008, .vcount hA ⟨.x 1, .v 2, .x 0, 0, 0, 0, 0, 0, 0, false, false, 0, 8⟩),
  (0x54032C200000000001000783, .vcompress hA ⟨.sq 1, .v 2, .x 0, 1, 0, 0, 0, 0, 7, true, false, 0, 3⟩),
  (0x60031840A0000000E47FFFFF, .ld hA ⟨.lq 3, .x 4, .x 5, 3, 4, 4, 0x7FFFFF⟩),
  (0x60031840A0000000EB7FFFFF, .ld hA ⟨.lq 3, .x 4, .x 5, 3, 5, 3, 0x7FFFFF⟩),
  (0x60020840A0000000E37FFFFF, .ld hA ⟨.v 1, .x 4, .x 5, 3, 4, 3, 0x7FFFFF⟩),
  (0x60404850A000000088800000, .st hA ⟨.x 9, .x 5, .x 5, 2, 1, 0, 0x800000⟩),
  (0x608048400000000044000010, .ldc hA ⟨.x 9, .x 4, .x 0, 1, 0, 4, 0x10⟩),
  (0x60C040400000000043000010, .stc hA ⟨.x 8, .x 4, .x 0, 1, 0, 3, 0x10⟩),
  (0x61024840A000000044000000, .ldv hA ⟨.v 9, .x 4, .x 5, 1, 0, 4, 0⟩),
  (0x61432040A000000005000000, .stv hA ⟨.sq 0, .x 4, .x 5, 0, 0, 5, 0⟩),
  (0x618208400000000005000000, .ldq hA ⟨.v 1, .x 4, .x 0, 0, 0, 5, 0⟩),
  (0x61C300400000000005000000, .stq hA ⟨.lq 0, .x 4, .x 0, 0, 0, 5, 0⟩),
  (0x62023840A000000012000004, .ldg hA ⟨.v 7, .x 4, .x 5, 0, 2, 2, 4⟩),
  (0x62023848A000000052000004, .ldg hA ⟨.v 7, .x 4, .v 5, 1, 2, 2, 4⟩),
  (0x62423848A000000011000004, .stg hA ⟨.v 7, .x 4, .v 5, 0, 2, 1, 4⟩),
  (0x62804840A0000000C1000008, .amoAdd hA ⟨.x 9, .x 4, .x 5, 3, 0, 1, 8⟩),
  (0x64405840A0000000C3000008, .amoCas hA ⟨.x 11, .x 4, .x 5, 3, 0, 3, 8⟩),
  (0x64820840A0000000C2000008, .amoFadd hA ⟨.v 1, .x 4, .x 5, 3, 0, 2, 8⟩),
  (0x64C248422000000005000040, .stMc hA ⟨.v 9, .x 4, .x 17, 0, 0, 5, 0x40⟩)] : List (BitVec 96 × Instr)) = true := by decide +kernel

theorem test_illFormedF : refuses ([
  (0x64C248420000000004000040, .stMc hA ⟨.v 9, .x 4, .x 16, 0, 0, 4, 0x40⟩),
  (0x65024840A000000018000080, .stRedAdd hA ⟨.v 9, .x 4, .x 5, 0, 3, 0, 0x80⟩),
  (0x65032040A00000001B000080, .stRedAdd hA ⟨.sq 0, .x 4, .x 5, 0, 3, 3, 0x80⟩),
  (0x66000040A000000001000100, .pref hA ⟨.x 0, .x 4, .x 5, 0, 0, 1, 0x100⟩),
  (0x66400840A000000000000100, .cinv hA ⟨.x 1, .x 4, .x 5, 0, 0, 0, 0x100⟩),
  (0x66800040A000000080000100, .cwb hA ⟨.x 0, .x 4, .x 5, 2, 0, 0, 0x100⟩),
  (0x700348400000000002565652, .bgive hA ⟨.p 1, .x 4, .x 0, true, 0x2B, 0x56, 5, 2⟩),
  (0x70034840A000000000565652, .bgive hA ⟨.p 1, .x 4, .x 5, false, 0x2B, 0x56, 5, 2⟩),
  (0x70434840000000000002000F, .btake hA ⟨.p 1, .x 4, .x 0, false, 1, 0, 0, 0xF⟩),
  (0x70834840200000000000000F, .bfree hA ⟨.p 1, .x 4, .x 1, false, 0, 0, 0, 0xF⟩),
  (0x70C34840A000000000000107, .bmap hA ⟨.p 1, .x 4, .x 5, false, 0, 1, 0, 7⟩),
  (0x7103484C0000000002000003, .ringrot hA ⟨.p 1, .x 4, .lq 0, true, 0, 0, 0, 3⟩),
  (0x71434840000000000200000F, .bdrain hA ⟨.p 1, .x 4, .x 0, true, 0, 0, 0, 0xF⟩),
  (0x7180000000000080FFFFFE03, .pbegin hSs ⟨0xFFFFFE, 3⟩),
  (0x71C34840A000000000000001, .pcommit hA ⟨.p 1, .x 4, .x 5, 0, 0, 1⟩),
  (0x71C34840A000000000001000, .pcommit hA ⟨.p 1, .x 4, .x 5, 1, 0, 0⟩),
  (0x720008000000000000000000, .pabort hA ⟨.x 1, .x 0, .x 0, 0, 0, 0⟩),
  (0x72434840A00000000000100F, .pseed hA ⟨.p 1, .x 4, .x 5, 1, 0, 0xF⟩),
  (0x72434840A00000000000002F, .pseed hA ⟨.p 1, .x 4, .x 5, 0, 1, 0xF⟩),
  (0x72434850A000000000000819, .pseedTbl hA ⟨.p 1, .x 5, .x 5, 0, 0x40, 9⟩),
  (0x728008000000000000003000, .pdraw hA ⟨.x 1, .x 0, .x 0, 3, 0, 0⟩),
  (0x72C008000000000000001026, .pstat hA ⟨.x 1, .x 0, .x 0, 1, 1, 6⟩),
  (0x72C008000000000000000816, .pstatE hA ⟨.x 1, .x 0, .x 0, 0, 0x40, 6⟩),
  (0x80004820A0000000000002C3, .mlds hA ⟨.x 9, .x 2, .x 5, false, false, false, 0, 0, 0xB, 0, 0, true, true⟩),
  (0x80004BC0A000000000000203, .mlds hA ⟨.x 9, .x 60, .x 5, false, false, false, 0, 0, 8, 0, 0, true, true⟩),
  (0x80004BC0A0000000000002D3, .mlds hA ⟨.x 9, .x 60, .x 5, false, false, false, 0, 0, 0xB, 1, 0, true, true⟩),
  (0x80004BC0A0000000000042C3, .mlds hA ⟨.x 9, .x 60, .x 5, false, false, false, 1, 0, 0xB, 0, 0, true, true⟩),
  (0x80004BC0A0000000000002C7, .mlds hA ⟨.x 9, .x 60, .x 5, false, false, false, 0, 0, 0xB, 0, 1, true, true⟩),
  (0x80004BC0A0000000000002C0, .mlds hA ⟨.x 9, .x 60, .x 5, false, false, false, 0, 0, 0xB, 0, 0, false, false⟩),
  (0x804008000000000000000000, .mswp hA ⟨.x 1, .x 0, .x 0, false, false, false, 0, 0, 0, 0, 0, false, false⟩)] : List (BitVec 96 × Instr)) = true := by decide +kernel

theorem test_illFormedG : refuses ([
  (0x80804BC0A000000000040372, .mstream hA ⟨.x 9, .x 60, .x 5, true, false, false, 0, 0, 0xD, 3, 0, true, false⟩),
  (0x80C000000000000000000060, .mzero hA ⟨.x 0, .x 0, .x 0, false, false, false, 0, 0, 1, 2, 0, false, false⟩),
  (0x810048400000000000000010, .mdrain hA ⟨.x 9, .x 4, .x 0, false, false, false, 0, 0, 0, 1, 0, false, false⟩),
  (0x814048000000000000000010, .mgang hA ⟨.x 9, .x 0, .x 0, false, false, false, 0, 0, 0, 1, 0, false, false⟩),
  (0x818048000000000000000220, .mfwd hA ⟨.x 9, .x 0, .x 0, false, false, false, 0, 0, 8, 2, 0, false, false⟩),
  (0x81C048400000000000008030, .msave hA ⟨.x 9, .x 4, .x 0, false, false, false, 2, 0, 0, 3, 0, false, false⟩),
  (0x820048400000000000008010, .mrest hA ⟨.x 9, .x 4, .x 0, false, false, false, 2, 0, 0, 1, 0, false, false⟩),
  (0x90004903C00000000000C006, .cpy hA ⟨.x 9, .x 16, .x 30, false, false, false, 3, 0, 0, 0, 1, true, false⟩),
  (0x90004843C000000000004006, .cpy hA ⟨.x 9, .x 4, .x 30, false, false, false, 1, 0, 0, 0, 1, true, false⟩),
  (0x90004903C0000000000040C6, .cpy hA ⟨.x 9, .x 16, .x 30, false, false, false, 1, 0, 3, 0, 1, true, false⟩),
  (0x90004903C000000000014006, .cpy hA ⟨.x 9, .x 16, .x 30, false, false, true, 1, 0, 0, 0, 1, true, false⟩),
  (0x90004903C0000000000240C6, .cpy hA ⟨.x 9, .x 16, .x 30, false, true, false, 1, 0, 3, 0, 1, true, false⟩),
  (0x90004903C000000000044006, .cpy hA ⟨.x 9, .x 16, .x 30, true, false, false, 1, 0, 0, 0, 1, true, false⟩),
  (0x90404800200000000000158C, .cpwp hA ⟨.x 9, .x 0, .x 1, false, false, false, 0, 5, 6, 0, 3, false, false⟩),
  (0x908049000000000000050008, .cps hA ⟨.x 9, .x 16, .x 0, true, false, true, 0, 0, 0, 0, 2, false, false⟩),
  (0x90C049000000000000044008, .cpsw hA ⟨.x 9, .x 16, .x 0, true, false, false, 1, 0, 0, 0, 2, false, false⟩),
  (0x91004B80000000000000000D, .cpm hA ⟨.x 9, .x 56, .x 0, false, false, false, 0, 0, 0, 0, 3, false, true⟩),
  (0x91404B80000000000000004C, .cpmFin hA ⟨.x 9, .x 56, .x 0, false, false, false, 0, 0, 1, 0, 3, false, false⟩),
  (0xA0035470A000000000001000, .send hA ⟨.p 2, .v 7, .x 5, 1, 0, 0⟩),
  (0xA04238200000000000000000, .recv hA ⟨.v 7, .x 2, .x 0, 0, 0, 0⟩),
  (0xA04010000000000000000100, .recvT hA ⟨.x 2, .x 0, .x 0, 0, 0, 0⟩),
  (0xA0801000A000000000000000, .xphase hA ⟨.x 2, .x 0, .x 5, 0, 0, 0⟩),
  (0xA0C00C700000000000080000, .xmit hA ⟨.x 1, .v 7, .x 0, 0x80, 0, 0⟩),
  (0xA1023810A000000000001000, .xsel hA ⟨.v 7, .x 1, .x 5, 1, 0, 0⟩),
  (0xA1401040A0000000000C8200, .cred hA ⟨.x 2, .x 4, .x 5, 0xC8, 2, 0⟩),
  (0xA1401040A0000000000C8309, .cred hA ⟨.x 2, .x 4, .x 5, 0xC8, 3, 9⟩),
  (0xA1801040A0000000000C8005, .cbc hA ⟨.x 2, .x 4, .x 5, 0xC8, 0, 5⟩),
  (0xA1C01040A0000000000C8104, .cag hA ⟨.x 2, .x 4, .x 5, 0xC8, 1, 4⟩),
  (0xB00010400000000000000001, .launch hA ⟨.x 2, .x 4, .x 0, 0, 0, 1⟩),
  (0xB0434840A000000000000008, .tpsh hA ⟨.p 1, .x 4, .x 5, 0, 0, 8⟩)] : List (BitVec 96 × Instr)) = true := by decide +kernel

theorem test_illFormedH : refuses ([
  (0xB08348402000000000000000, .tpop hA ⟨.p 1, .x 4, .x 1, 0, 0, 0⟩),
  (0xB0C00040A000000000000020, .tdecl hA ⟨.x 0, .x 4, .x 5, 0, 2, 0⟩),
  (0xB10348400000000000001806, .qprio hA ⟨.p 1, .x 4, .x 0, 0x18, 0, 6⟩),
  (0xB10348400000000000001708, .qprio hA ⟨.p 1, .x 4, .x 0, 0x17, 0, 8⟩),
  (0xB14010000000000000000006, .wid hA ⟨.x 2, .x 0, .x 0, 0, 0, 6⟩),
  (0xB1401040A000000000000113, .widSet hA ⟨.x 2, .x 4, .x 5, 1, 0, 3⟩),
  (0xB18010000000000000000704, .twget hA ⟨.x 2, .x 0, .x 0, 7, 0, 4⟩),
  (0xB18010000000000000000803, .twget hA ⟨.x 2, .x 0, .x 0, 8, 0, 3⟩),
  (0xB1C348400000000000000102, .twadv hA ⟨.p 1, .x 4, .x 0, 1, 0, 2⟩),
  (0xB20348400000000000000501, .twput hA ⟨.p 1, .x 4, .x 0, 5, 0, 1⟩),
  (0xB2401040A000000000000100, .tlbwInstall hA ⟨.x 2, .x 4, .x 5, 1, 0, 0⟩),
  (0xB2401000A000000000000010, .tlbwUpcall hA ⟨.x 2, .x 0, .x 5, 0, 0, 0⟩),
  (0xB2401000A000000000000820, .tlbwTrap hA ⟨.x 2, .x 0, .x 5, 8, 0, 0⟩),
  (0xB2420800A000000000000030, .tlbwFail hA ⟨.v 1, .x 0, .x 5, 0, 0, 0⟩),
  (0xB2800050A000000000000000, .tlbiPage hA ⟨.x 0, .x 5, .x 5, 0, 0, 0⟩),
  (0xB28000482000000000000010, .tlbiDomain hA ⟨.x 0, .x 4, .v 1, 0, 0, 0⟩),
  (0xB2800040A000000000000020, .tlbiAll hA ⟨.x 0, .x 4, .x 5, 0, 0, 0⟩),
  (0xB2C000402000000000000000, .fnote hA ⟨.x 0, .x 4, .x 1, 0, 0, 0⟩),
  (0xB30000400000000000003002, .rtab hA ⟨.x 0, .x 4, .x 0, 0x30, 0, 2⟩),
  (0xB30000400000000000002F03, .rtab hA ⟨.x 0, .x 4, .x 0, 0x2F, 0, 3⟩),
  (0xB30010100000000000002F11, .rtabRd hA ⟨.x 2, .x 1, .x 0, 0x2F, 0, 1⟩)] : List (BitVec 96 × Instr)) = true := by decide +kernel

/-- Opcodes that the map leaves unassigned decode to the row of their own (R249, R250); a reserved operand number in any field and a
reserved bit of X are refused (R239, R246). -/
theorem test_refusedWords :
    ([0x000000000000000000000000, 0x078008000000000000000000, 0x0FC000000000000000000005, 0x1A0000000000000000000000, 0xC00000000000000000000000] : List (BitVec 96)).all (fun w => decide (decodeWord w = some (.unassignedOpcode w))) = true ∧
    ([0x100330000000000000000000, 0x100006700000000000000000, 0x1000000F0000000000000000, 0x1003F8000000000000000000, 0x100000000000000000000008, 0x004008000000000000000000, 0x004000000000000000000001] : List (BitVec 96)).all (fun w => decide (decodeWord w = none)) = true := by decide +kernel

/-! ## A small machine: one core, whose control context runs at user level in domain 5 -/

/-- A capability of everything, with every permission. -/
def whole (a : Word) : Cap := ⟨a, 0xFFC0A00000000000, true⟩

/-- A block of five words that are all `nop`, with no signature. -/
def nopBlock : BitVec 512 :=
  (0x000000A0 : BitVec 32) ++ (0x004000000000000000000000 : BitVec 96) ++ (0x004000000000000000000000 : BitVec 96) ++
    (0x004000000000000000000000 : BitVec 96) ++ (0x004000000000000000000000 : BitVec 96) ++ (0x004000000000000000000000 : BitVec 96)

def ctx0 : Ctx :=
  { Ctx.reset with
    live := true, pcc := whole 0x20000, blk := some nopBlock, cdom := 5, bankDom := 5
    x := [(2, ⟨0x10040, true⟩), (3, ⟨0xFFC0A00000000000, true⟩), (4, ⟨7, false⟩), (5, ⟨0x12345678, false⟩), (6, ⟨0xFF, false⟩), (7, ⟨68, false⟩)] }

/-- Page 1 is data and page 2 is code, each at the physical page of the same number. -/
def core0 : Core :=
  { Core.reset with
    ctxs := [(0, ctx0)], slotDom := 5
    tlb := [⟨1, 0, 5, 1, 0, true, true, true, false⟩, ⟨2, 0, 5, 2, 0, true, true, false, true⟩] }

/-- DRAM of 2 MiB. -/
def base : State :=
  { State.reset with cores := [(0, core0)], dev := { Device.reset with memmap := 0x200000 } }

/-- The state after an instruction of the agent in turn. -/
def run (i : Instr) (s : State) : State := match exec i s with | .next t => t | _ => State.reset

def setX (n : Nat) (v : Word) (s : State) : State := s.self (fun c => c.writeX n v)
def setV (n : Nat) (l : List Nat) (s : State) : State := s.self (fun c => c.writeV n (ofLanes (fun i => BitVec.ofNat 32 (l.getD i 0))))
def xv (s : State) (n : Nat) : Word := (s.me.getX n).val
def lanes (s : State) (n k : Nat) : List Nat := (List.range k).map (fun l => (lane (s.me.getV n) l).toNat)

/-- The masks with lanes 0 to 3 enabled in k1. -/
def low4 (s : State) : State := s.self (fun c => c.writeK 1 0xF)

/-! ## Worked examples of the manual -/

/-- The block whose only slot is `exit` has SIG 0x7D23; with NV 2 the signature fails (after R235). -/
theorem test_exitBlock :
    let b : BitVec 512 := (0x7D230020 : BitVec 32) ++ (0 : BitVec 384) ++ (0x020000000000000000000000 : BitVec 96)
    let b2 : BitVec 512 := (0x7D230040 : BitVec 32) ++ (0 : BitVec 384) ++ (0x020000000000000000000000 : BitVec 96)
    blkCrc b = 0x7D23 ∧ entryFault 0 0 b = none ∧ (entryFault 0 0 b2).map (fun e => e.1) = some 6 ∧
      blkNv b = 1 ∧ blkClass b = 0 := by decide +kernel

/-- The mesh example after R3: the core at (37, 21). -/
theorem test_mesh : gidAt 37 21 = 256 * 6 + 85 ∧ gidX (256 * 6 + 85) = 37 ∧ gidY (256 * 6 + 85) = 21 := by decide +kernel

/-- The worked decode after R20: the encoder's choice, and the bounds decoded at two addresses. -/
theorem test_workedEncode :
    encodeBounds false 0x4000300000 0x4000600000 = ⟨2, 0xC0000, 0x180000, 0x4000300000, 0x4000600000, false, false⟩ := by decide +kernel

theorem test_workedDecode :
    ([0x4000500000, 0x3FFFF80000] : List Word).all (fun a => decide (capBase a 0xC000098000180000 = 0x4000300000) &&
      decide (capTop a 0xC000098000180000 = 0x4000600000)) = true ∧
    ([0x3FFFF00000, 0x3FFFEFFFFF, 0x40006FFFFF, 0x4000700000] : List Word).map (capRepresentable 0x4000500000 0xC000098000180000) =
      [true, false, true, false] := by decide +kernel

def capState : State :=
  (setX 22 0x4000300001 (setX 23 0x200000 base)).self (fun c => c.writePair 10 ⟨0x4000500000, 0xC000098000180000, true⟩)

/-- The `cset` and `cbnd` example after R287, and its `cbnd.x`. -/
theorem test_cbnd :
    let s := run (.cset hA ⟨.x 14, .x 10, .x 22, 0, 0, 0⟩) capState
    let t := run (.cbnd hA ⟨.x 14, .x 14, .x 23, 0, 0, 0⟩) s
    let u := run (.cbndX hA ⟨.x 14, .x 14, .x 23, 0, 0, 0⟩) s
    s.me.getPair 14 = ⟨0x4000300001, 0xC000098000180000, true⟩ ∧ t.me.getPair 14 = ⟨0x4000300001, 0xC000098000140001, true⟩ ∧
    t.me.inex = true ∧ u.me.getPair 14 = ⟨0x4000300001, 0xC000098000140001, false⟩ := by decide +kernel

/-- R278: -7 div 2 is -3 and -7 rem 2 is -1; division by zero and the overflow. -/
theorem test_division :
    let s := setX 20 (-7) (setX 21 2 (setX 22 0x8000000000000000 (setX 23 (-1) base)))
    xv (run (.div hA ⟨.x 30, .x 20, .x 21, 0⟩) s) 30 = -3 ∧ xv (run (.rem hA ⟨.x 30, .x 20, .x 21, 0⟩) s) 30 = -1 ∧
    xv (run (.div hA ⟨.x 30, .x 20, .x 0, 0⟩) s) 30 = 0xFFFFFFFFFFFFFFFF ∧ xv (run (.remu hA ⟨.x 30, .x 20, .x 0, 0⟩) s) 30 = -7 ∧
    xv (run (.div hA ⟨.x 30, .x 22, .x 23, 0⟩) s) 30 = 0x8000000000000000 ∧ xv (run (.rem hA ⟨.x 30, .x 22, .x 23, 0⟩) s) 30 = 0 := by decide +kernel

/-- The bit-field and shift examples after R281. -/
theorem test_bitFields :
    xv (run (.bfx hA ⟨.x 30, .x 5, .x 0, 12, 8⟩) base) 30 = 0x456 ∧ xv (run (.bfi hA ⟨.x 30, .x 5, .x 6, 8, 4⟩) base) 30 = 0x12345FF8 ∧
    xv (run (.shl hA ⟨.x 30, .x 5, .x 7, 0⟩) base) 30 = 0x123456780 := by decide +kernel

def fp (i : FmtF → Instr) (fmt fmt2 rnd : Nat) (sat : Bool) (a b : Word) : Word × Nat :=
  let t := run (i ⟨.x 30, .x 20, .x 21, 0, BitVec.ofNat 4 fmt2, sat, BitVec.ofNat 2 rnd, BitVec.ofNat 4 fmt⟩) (setX 20 a (setX 21 b base))
  (xv t 30, t.me.fstat.toNat)

/-- The borderline results after R291. FSTAT: IV 1, DZ 2, OF 4, UF 8, NX 16, SAT 32 (R171). -/
theorem test_fpTable :
    fp (.fadd hA) 8 0 0 false 0x7F800000 0xFF800000 = (0x7FC00000, 1) ∧ fp (.fmul hA) 8 0 0 false 0 0xFF800000 = (0x7FC00000, 1) ∧
    fp (.fdiv hA) 8 0 0 false 0x3F800000 0x80000000 = (0xFF800000, 2) ∧ fp (.fsqrt hA) 8 0 0 false 0xBF800000 0 = (0x7FC00000, 1) ∧
    fp (.fmin hA) 8 0 0 false 0x80000000 0 = (0x80000000, 0) ∧ fp (.fmax hA) 8 0 0 false 0x7FC00001 0x40000000 = (0x40000000, 0) ∧
    fp (.fadd hA) 8 0 0 true 0x7F7FFFFF 0x7F7FFFFF = (0x7F7FFFFF, 4 + 16 + 32) ∧
    fp (.fadd hA) 8 0 1 false 0x7F7FFFFF 0x7F7FFFFF = (0x7F7FFFFF, 4 + 16) := by decide +kernel

theorem test_fpConversions :
    fp (.fcvt hA) 3 8 0 false 0x40200000 0 = (2, 16) ∧ fp (.fcvt hA) 3 8 2 false 0xC0200000 0 = (0xFFFFFFFFFFFFFFFD, 16) ∧
    fp (.fcvt hA) 3 8 0 false 0x4F32D05E 0 = (0xFFFFFFFFB2D05E00, 4) ∧ fp (.fcvt hA) 3 8 0 true 0x4F32D05E 0 = (0x7FFFFFFF, 4 + 32) ∧
    fp (.fcvt hA) 3 8 0 false 0x7FC00000 0 = (0, 1) ∧ fp (.fcvt hA) 0xB 8 0 false 0x43960000 0 = (0x79, 16) := by decide +kernel

/-- The order-key example after R348: keys 0x3C00, 0xBFFF, 0x4200, 0x4200; the maximum is 0x4200 in lane 2. -/
theorem test_orderKeys :
    let s := low4 (setV 1 [0x3C00, 0xC000, 0x4200, 0x4200] base)
    let t := run (.vordkey hA ⟨.v 2, .v 1, .x 0, 0, 0, 0, 0, 0, 1, true, false, 0, 9⟩) s
    let u := run (.vargmax hA ⟨.v 3, .v 2, .x 0, 0, 0, 0, 0, 0, 1, true, false, 0, 2⟩) t
    lanes t 2 5 = [0x3C00, 0xBFFF, 0x4200, 0x4200, 0] ∧ lanes u 3 3 = [0x4200, 2, 0] ∧
    xv (run (.vext hA ⟨.x 20, .v 3, .x 0, 1, 0, 0, 0, 0, 0, false, false, 0, 3⟩) u) 20 = 2 ∧
    xv (run (.vext hA ⟨.x 21, .v 3, .x 0, 0, 0, 0, 0, 0, 0, false, false, 0, 2⟩) u) 21 = 0x4200 := by decide +kernel

/-- The quantisation example of R333. -/
theorem test_vquant :
    let s := setX 9 0x3F800000 (low4 (setV 4 [0x43960000, 0x43EB0000, 0xBF333333, 0x7FC00000] base))
    let t := run (.vquant hA ⟨.v 5, .v 4, .x 9, 0x87, 0, 0, 0, 0, 1, true, true, 0, 0xB⟩) s
    lanes t 5 5 = [0x79, 0x7E, 0xB3, 0x7F, 0] ∧ lanes t 7 5 = [0x43EB0000, 2, 0, 0x10B, 0] ∧ t.me.fstat.toNat = 4 + 16 + 32 ∧
    xv (run (.vext hA ⟨.x 20, .v 7, .x 0, 0, 0, 0, 0, 0, 0, false, false, 0, 4⟩) t) 20 = 0x243EB0000 := by decide +kernel

/-- CRC-32C of the nine bytes "123456789" is 0xE3069283 (R177). -/
theorem test_crc : crc32c [0x31, 0x32, 0x33, 0x34, 0x35, 0x36, 0x37, 0x38, 0x39] = 0xE3069283 := by decide +kernel

/-- The nibble permutation after R335. -/
theorem test_nibbles :
    let s := setV 1 [0xB7] (setV 2 [0x100] base)
    lanes (run (.vpermBNs hA ⟨.v 3, .v 1, .v 2, 0, 0, 0, 0, 0, 0, false, false, 0, 3⟩) s) 3 1 = [0x0707FB07] ∧
    lanes (run (.vpermBN hA ⟨.v 3, .v 1, .v 2, 0, 0, 0, 0, 0, 0, false, false, 0, 3⟩) s) 3 1 = [0x07070B07] := by decide +kernel

/-- For an integral operand the result is the power of two, exactly (R291). -/
theorem test_exp2 : exp2F 0x3F800000 = ⟨0x40000000, 0⟩ ∧ exp2F 0x80000000 = ⟨0x3F800000, 0⟩ := by decide +kernel

/-- Memory whose block at 0x10000 holds value 5 as the byte `b` in bit planes (R175). -/
def planes (b : Byte) : State :=
  (List.range 8).foldl (fun s j => s.setByte (0x10000 + 128 * j) (if b.getLsbD (7 - j) then 0x20 else 0)) base

/-- The examples of R175 and after R106: 0x5B and 0x9C through four and eight planes, as INT8, and as E4M3 with the scale 0.5. -/
theorem test_bitPlanes :
    ([(0x5B, 4), (0x5B, 8), (0x9C, 4), (0x9C, 8)] : List (Byte × Word)).map (fun e => decodeByte (planes e.1) ⟨e.2, 0, 0⟩ 0 0x10000 5) =
      [0x58, 0x5B, 0x98, 0x9C] ∧
    ([0x5B, 0x9C] : List Byte).map (fun b => decodeByte (planes b) ⟨0x00B0000000000004, 0, 0⟩ 0x3F000000 0x10000 5) = [0x63, 0xE5] := by
  decide +kernel

/-! ## Single steps -/

/-- The mixing example after R153: stream 0, ticket 0 and seed 0 draw 0xE220A8. -/
theorem test_draw : drawFn 0 0 0 = 0xE220A8 := by decide +kernel

/-- What `step` leaves of an instruction placed where reset fetches next. -/
def first (w : BitVec 96) : State := match step (State.reset.withFetchWord 96 w.toNat) with | .next t => t | _ => State.reset

/-- `addi x6, x6, 3` as the first instruction after reset (R277), and what is left of the place (R235). -/
theorem test_firstAddi :
    let t := first 0x108030600000000000000003
    (t.ctx ⟨0, 0⟩).getX 6 = ⟨3, false⟩ ∧ (t.ctx ⟨0, 0⟩).slot = 0 ∧ (t.ctx ⟨0, 0⟩).pcc.addr = 0xFFFFFFFFFFF80040 ∧ t.now = 2 := by decide +kernel

/-- A word of opcode 0x000 takes the illegal-instruction trap with KIND 5 and TVAL bits [95:32] of the slot (R207, R210, R250). -/
theorem test_firstUnassigned :
    let t := first 0x000400010000000000000000
    (t.ctx ⟨0, 0⟩).level = .supervisor ∧ bits (t.ctx ⟨0, 0⟩).sup.cau 4 0 = 5 ∧ (t.ctx ⟨0, 0⟩).sup.val = 0x0004000100000000 := by decide +kernel

/-- The agents of the sequencers take their own classes (R232): an `mswp` enters the matrix queue. -/
theorem test_firstMswp : ((first 0x804000000000000000000000).core 0).matrix.cmds.map (fun c => c.kind) = [.mswp] := by decide +kernel

/-- R21: a write to x0 is discarded, and a scalar write clears both tags of the pair. -/
theorem test_tags :
    (run (.add hA ⟨.x 0, .x 4, .x 4, 0⟩) base).me.x = base.me.x ∧
    (run (.mov hA ⟨.x 3, .x 4, .x 0, 0⟩) base).me.getX 2 = ⟨0x10040, false⟩ := by decide +kernel

/-- R242, R243, R244: the wait count is taken; the signal is added in the core's next cycle, saturates and sets the sticky bit. -/
theorem test_clauses :
    let s := base.updCore 0 (fun c => (c.setSem 9 ⟨5, false⟩).setSem 8 ⟨0xFFF8, false⟩)
    let h : Hdr := ⟨false, 0, 9, 4, 8, 15, false, false, false⟩
    let t := run (.nop h) s
    ((t.core 0).sem 9) = ⟨1, false⟩ ∧ ((t.core 0).sem 8) = ⟨0xFFF8, false⟩ ∧ ((t.core 0).semStep.sem 8) = ⟨0xFFFF, true⟩ ∧ t.me.slot = 1 ∧
    (run (.nop h) base).me.slot = 0 ∧ (run (.nop h) base).me.waiting = true := by decide +kernel

/-- R254: `loop` decrements and jumps, and falls through at zero. -/
theorem test_loop :
    (run (.loop hA ⟨.x 4, -1⟩) base).me.pcc.addr = 0x1FFC0 ∧ xv (run (.loop hA ⟨.x 4, -1⟩) base) 4 = 6 ∧
    (run (.loop hA ⟨.x 4, -1⟩) (setX 4 1 base)).me.slot = 1 := by decide +kernel

/-- R261: `trap` retires first; SUB is IMM[3:0] and TVAL is IMM. -/
theorem test_trap :
    let t := run (.trap hA ⟨.x 0, .x 0, 0x123456F7⟩) base
    bits t.me.sup.cau 4 0 = 0xC ∧ bits t.me.sup.cau 11 8 = 7 ∧ t.me.sup.val = 0x123456F7 ∧ t.me.sup.epc = 0x20008 := by decide +kernel

/-- A store of 8 bytes at [x2:x3, 8] enters the store buffer, is performed at its home, and is read back (R292, R293, R123). -/
def stored : State := run (.st hA ⟨.x 5, .x 2, .x 0, 0, 0, 3, 8⟩) base
/-- A move of the ordering machine, and one that has its line at the home slice first (R100). -/
def move (i : Instr) (x : EvArg) (s : State) : State := run i { s with ev := x }
def withLine (i : Instr) (s : State) : State :=
  move i (.access ⟨0, 0⟩ 0 0) (move .sliceFill (.one (0x10048 / 128)) (move i (.access ⟨0, 0⟩ 0 0) s))
def performed : State := withLine .performStore stored

theorem test_store :
    stored.me.sb.length = 1 ∧ stored.mem = [] ∧ performed.me.sb = [] ∧ performed.word 0x10048 = 0x12345678 ∧
    performed.mem.length = 4 := by decide +kernel

theorem test_load :
    let s := run (.ld hA ⟨.x 20, .x 2, .x 0, 0, 0, 1, 10⟩) performed
    let t := move .readHome (.access ⟨0, 0⟩ 0 0) s
    s.me.pend.length = 1 ∧ xv s 20 = 0 ∧ t.me.pend = [] ∧ xv t 20 = 0x1234 := by decide +kernel

/-- R298, R300: an atomic addition gives the old value and stores the sum. -/
theorem test_amo :
    let s := run (.amoAdd hA ⟨.x 6, .x 2, .x 0, 0, 0, 2, 8⟩) performed
    let t := move .atomic (.access ⟨0, 0⟩ 0 0) s
    xv t 6 = 0x12345678 ∧ t.word 0x10048 = 0x12345777 := by decide +kernel

/-- R27, R207: an access through an untagged authority traps with KIND 1 and SUB 1, and TVAL is the effective address. -/
theorem test_accessFaults :
    let t := run (.ld hA ⟨.x 20, .x 4, .x 0, 0, 0, 3, 8⟩) base
    bits t.me.sup.cau 4 0 = 1 ∧ bits t.me.sup.cau 11 8 = 1 ∧ t.me.sup.val = 15 := by decide +kernel

theorem test_miss :
    let s := base.self (fun c => c.writePair 10 (whole 0x50000))
    let t := run (.ld hA ⟨.x 20, .x 10, .x 0, 0, 0, 3, 0⟩) s
    (t.core 0).trackers.length = 1 ∧ t.me.slot = 0 ∧ t.flights.length = 1 := by decide +kernel

/-- R64, R76: `btake` takes a free bank of the core's own quad first; the slot is valid and the bank has left the pool. -/
theorem test_btake :
    let t := run (.btake hA ⟨.p 1, .x 2, .x 0, false, 0, 0, 0, 3⟩) base
    ((t.core 0).slot 3).valid = true ∧ latency 0 (((t.core 0).slot 3).bank / 8) = 1 ∧ t.me.getP 1 = true ∧
    (t.cluster 0).isFree ((t.core 0).slot 3).bank = false := by decide +kernel

/-- R149, R309: `pbegin` takes ticket 0 of stream 3 and opens a region. -/
theorem test_pbegin :
    let t := run (.pbegin hA ⟨2, 3⟩) base
    t.me.prgn.opn = true ∧ t.me.prgn.ticket = 0 ∧ (t.me.region.map (fun r => r.fail)) = some 0x20080 ∧
    ((t.cluster 0).stream 3).next = 1 := by decide +kernel

/-- R275: `dtime` reads device time and latches the fraction. -/
theorem test_dtime :
    let s := base.updDev (fun d => { d with ns := 1234, frac := 0x80000000 })
    let t := run (.dtime hA ⟨.x 20, .x 0, .x 0, 0⟩) s
    xv t 20 = 1234 ∧ t.me.dtFrac = 0x80000000 ∧ t.me.dtLock = false := by decide +kernel

/-! ## Witnesses: for each statement, states and operands that meet its hypotheses -/

/-- Whether an instruction issues. -/
def iss (h : Hdr) (s : State) (rg : InRegion) (srcs dsts : List Operand) : Bool :=
  !s.me.held && s.me.guard h && (s.me.region.isNone || (rg != .illegal && (rg != .normal || (h.wt == 0 && h.si == 0)))) &&
    !s.here.statusDue s.cur.ctx srcs && !s.replyDue s.cur srcs dsts && decide (opsReady s.me srcs dsts = .ready) &&
    (s.takeWait s.cur h).isSome

/-- The state in which it issues. -/
def st1 (h : Hdr) (s : State) : State := (s.takeWait s.cur h).getD s

theorem issues_of {h : Hdr} {s : State} {rg : InRegion} {srcs dsts : List Operand} (w : iss h s rg srcs dsts = true) :
    Issues h s rg srcs dsts (st1 h s) := by
  simp only [iss, Bool.and_eq_true, Bool.or_eq_true, Bool.not_eq_true', decide_eq_true_eq, bne_iff_ne, beq_iff_eq] at w
  obtain ⟨⟨⟨⟨⟨⟨free, guard⟩, region⟩, status⟩, reply⟩, ops⟩, wait⟩ := w
  obtain ⟨s1, hs⟩ := Option.isSome_iff_exists.1 wait
  refine ⟨free, guard, fun hr => ?_, status, reply, ops, by rw [st1, hs]; rfl⟩
  rcases region with hn | ⟨h1, h2⟩
  · rw [Option.isNone_iff_eq_none] at hn
    rw [hn] at hr
    cases hr
  · exact ⟨h1, fun hn => h2.resolve_left (fun h => h hn)⟩

/-- An instruction issues, and a further condition holds. -/
theorem meets {h : Hdr} {s : State} {rg : InRegion} {srcs dsts : List Operand} {P : Prop} [Decidable P]
    (w : (iss h s rg srcs dsts && decide P) = true) : Issues h s rg srcs dsts (st1 h s) ∧ P := by
  simp only [Bool.and_eq_true, decide_eq_true_eq] at w
  exact ⟨issues_of w.1, w.2⟩

/-- Whether an outcome is a next state. -/
def goes (o : Host.Outcome State Fault Refusal) : Bool := match o with | .next _ => true | _ => false

/-- A wait for 4 of semaphore 9 and a signal of 15 to semaphore 8, and the core where the count is there and the signal saturates. -/
def hW : Hdr := ⟨false, 0, 9, 4, 8, 15, false, false, false⟩
/-- A guard that is never true. -/
def hN : Hdr := ⟨true, 0, 9, 4, 8, 0, false, false, false⟩
def semmed : State := base.updCore 0 (fun c => (c.setSem 9 ⟨4, false⟩).setSem 8 ⟨0xFFF8, false⟩)
/-- A load-data queue with one entry. -/
def queued : State := semmed.self (fun c => c.putLq 1 [.val 0x123456789ABCDEF0FF])
/-- The context in its last slot. -/
def atLast : State := base.self (fun c => { c with slot := 4 })
/-- The context inside a region. -/
def inRegion : State := base.self (fun c => { c with
  region := some ⟨0x20000, 0x20080, [], [], [], 1, none⟩, prgn := ⟨true, true, false, 3, 0, 7⟩ })
def atLevel (l : Level) (s : State) : State := s.self (fun c => { c with level := l })
def withTrap (cau : Word) (s : State) : State := s.self (fun c => { c with
  sup := ⟨0x30000, 0xFFC0A00000000000, 0x20038, 0xFFC0A00000000000, cau, 9, 8⟩, hyp := ⟨0x40000, 0xFFC0A00000000000, 0x20008, 1, 0x20, 2, 3⟩ })
def asAgent (a : Agent) (s : State) : State := ({ s with cur := a }).updCtx a (fun _ => s.me)

theorem witness_DecodeEncode : (Instr.addi hB ⟨.x 63, .x 0, -1⟩).isEvent = false ∧ (Instr.addi hB ⟨.x 63, .x 0, -1⟩).wf = true := by
  decide +kernel

theorem witness_EncodeDecode : decodeWord 0x6004A0A00060820803000008 = some (.ld ⟨false, 1, 3, 1, 4, 1, false, false, false⟩
    ⟨.x 20, .x 10, .x 0, 0, 0, 3, 8⟩) := by decide +kernel

/-- The reserved operand numbers at the ends of their ranges, in each field; an opcode that is unassigned. -/
theorem witness_DecodedWords :
    ([102, 103, 120, 127] : List (BitVec 7)).all (fun n => ([75, 68, 61] : List Nat).any (fun sh =>
      let w : BitVec 96 := 0x108000000000000000000000 ||| (n.setWidth 96 <<< sh)
      opAssigned (fOp w).toNat && [fD w, fA w, fB w].any (fun m => m == n))) = true ∧
    opAssigned (fOp 0x3FF000000000000000000000).toNat = false := by decide +kernel

/-- The agent's turn in the same cycle and, with a later turn taken, in the next. -/
def turnAt (n : Nat) : State := { base.updCore 0 (fun c => { c with lastTurn := n }) with agenda := [.agent ⟨0, 0⟩] }

theorem witness_StepRunsDecoded :
    (((turnAt 0).core 0).lastTurn ≤ 0 ∧ 0 < ((turnAt 1).core 0).lastTurn) ∧
    ∀ s ∈ [turnAt 0, turnAt 1],
      let t := State.atTurn { s with agenda := [] } ⟨0, 0⟩
      let c := t.ctx ⟨0, 0⟩
      s.agenda = [.agent ⟨0, 0⟩] ∧ (s.ctx ⟨0, 0⟩).live = true ∧ (s.ctx ⟨0, 0⟩).fences = [] ∧ c.blk = some nopBlock ∧
      t.paused ⟨0, 0⟩ = false ∧ t.conflictDue ⟨0, 0⟩ = none ∧ (t.core 0).misses 0 = false ∧
      c.fenceHolds (slotWord nopBlock c.slot) = false ∧
      admits (blkClass nopBlock) (fOp (slotWord nopBlock c.slot)).toNat = true ∧
      (isSvc 0 && svcRefuses (fOp (slotWord nopBlock c.slot)).toNat) = false ∧
      decodeWord (slotWord nopBlock c.slot) = some (.nop hA) := by decide +kernel

/-- Two sets of one semaphore in a cycle and additions to it and to another: the set of agent 7 stands, and the addition comes after. -/
def changing : Core := { (base.core 0).setSem 9 ⟨0xFFFF, false⟩ with
  semSets := [(3, 8, 5), (7, 8, 6)], semAdds := [(8, 2), (9, 1)] }
theorem witness_SemaphoreStep :
    (∀ e ∈ changing.semSets, e.2.1 ≠ 9) ∧
    ((7, 8, (6 : BitVec 16)) ∈ changing.semSets ∧ ∀ e ∈ changing.semSets, e.2.1 = 8 → e = (7, 8, 6) ∨ e.1 < 7) := by decide +kernel
theorem test_semStep : changing.semStep.sem 8 = ⟨8, false⟩ ∧ changing.semStep.sem 9 = ⟨0xFFFF, true⟩ := by decide +kernel

theorem witness_StepMemWf :
    let s : State := { stored with agenda := [.event .performStore (.access ⟨0, 0⟩ 0 0)] }
    (Memory.wf s.mem = true ∧ s.tags.Pairwise (· < ·) ∧ s.poison.Pairwise (· < ·)) ∧ goes (step s) = true := by decide +kernel

theorem witness_NoInstructionStops : (Instr.unassignedOpcode 0).isEvent = false ∧ (Instr.ffma hB ⟨.x 0, .lq 1, .x 3, 0, 0, false, 0, 8⟩).isEvent = false := by
  decide +kernel

/-- A false guard; `call` in the last slot, and `pbegin` in slot 0 without a signal. -/
theorem witness_FalseGuard :
    (base.me.held = false ∧ base.me.guard hN = false ∧ (Instr.add hN ⟨.x 1, .x 2, .x 3, 0⟩).hdr = some hN) ∧
    (atLast.me.held = false ∧ atLast.me.guard hN = false ∧ (Instr.call hN ⟨.x 0, 1⟩).hdr = some hN ∧ atLast.me.slot + 1 = atLast.me.nv) ∧
    (base.me.slot = 0 ∧ hN.si = 0 ∧ (Instr.pbegin hN ⟨2, 3⟩).hdr = some hN) := by decide +kernel

theorem witness_IssueRules :
    Issues hW semmed .normal [] [] (st1 hW semmed) ∧
    (base.me.held = false ∧ base.me.waitTaken = false ∧ base.me.region = none ∧ (base.here.sem hW.ws.toNat).val.toNat < hW.wt.toNat) ∧
    (base.me.held = false ∧ base.me.guard hW = true ∧ base.me.region = none ∧ base.me.getLq 3 = [] ∧
      base.here.statusDue base.cur.ctx [.lq 3, .x 1] = false ∧ base.replyDue base.cur [.lq 3, .x 1] [.x 1] = false) :=
  ⟨issues_of (by decide +kernel), by decide +kernel, by decide +kernel⟩

/-- An open region; `rfe` at user level; the registers at the ends of the ranges that a level forbids. -/
theorem witness_Forbidden :
    (inRegion.me.held = false ∧ inRegion.me.guard hW = true ∧ inRegion.me.region.isSome = true) ∧
    (Issues hW semmed .illegal [] [] (st1 hW semmed) ∧ semmed.me.level = .user) ∧
    (Issues hW semmed .normal [] [.x 4] (st1 hW semmed) ∧ semmed.me.level = .user) ∧
    (Issues hW (atLevel .supervisor semmed) .normal [] [.x 4] (st1 hW (atLevel .supervisor semmed)) ∧
      (atLevel .supervisor semmed).me.level ≠ .hypervisor) ∧
    (Issues hW semmed .normal [.x 4] [] (st1 hW semmed) ∧ semmed.me.level = .user) ∧
    (([0x070, 0x076, 0x088, 0x089] : List (BitVec 10)).all (fun n => (0x070 ≤ n.toNat && n.toNat ≤ 0x076) || n == 0x088 || n == 0x089) = true ∧
      ([0x078, 0x07E, 0x098] : List (BitVec 10)).all (fun n => (0x078 ≤ n.toNat && n.toNat ≤ 0x07E) || n == 0x098) = true) :=
  ⟨by decide +kernel, meets (by decide +kernel), meets (by decide +kernel), meets (by decide +kernel), meets (by decide +kernel), by decide +kernel⟩

theorem witness_TrapEntry :
    (base.cur.ctx = 0 ∧ base.me.region = none ∧ base.me.level ≠ .hypervisor ∧ base.me.sup.cau.getLsbD 7 = false) ∧
    ((withTrap 0x8C base).cur.ctx = 0 ∧ (withTrap 0x8C base).me.region = none ∧ (withTrap 0x8C base).me.level ≠ .hypervisor ∧
      (withTrap 0x8C base).me.sup.cau.getLsbD 7 = true ∧ (withTrap 0x8C base).me.hyp.cau.getLsbD 7 = false) := by decide +kernel

/-- `trap` in the middle of a block and in its last slot; `rfe` at either level, to each level; `rfu`. -/
theorem witness_TrapsAndReturns :
    (Issues hW semmed .normal [] [] (st1 hW semmed) ∧ semmed.cur.ctx = 0 ∧ semmed.me.region = none ∧ semmed.me.level ≠ .hypervisor ∧
      semmed.me.sup.cau.getLsbD 7 = false ∧ semmed.me.slot + 1 < semmed.me.nv) ∧
    (Issues hA atLast .normal [] [] (st1 hA atLast) ∧ atLast.cur.ctx = 0 ∧ ¬ atLast.me.slot + 1 < atLast.me.nv) ∧
    (let s := atLevel .supervisor (withTrap 0x8C base)
     Issues hA s .illegal [] [] (st1 hA s) ∧ s.me.level ≠ .user ∧ bits s.me.sup.cau 6 5 = 0) ∧
    (let s := atLevel .hypervisor (withTrap 0x8C base)
     Issues hA s .illegal [] [] (st1 hA s) ∧ s.me.level ≠ .user ∧ s.me.level = .hypervisor ∧ bits s.me.hyp.cau 6 5 = 1) :=
  ⟨meets (by decide +kernel), meets (by decide +kernel), meets (by decide +kernel), meets (by decide +kernel)⟩

/-- The registers at either end; a pair; a load-data queue with an entry. -/
theorem witness_RegisterOperands :
    (0 < 64 ∧ 63 < 64 ∧ 62 % 2 = 0 ∧ (62 : Nat) ≠ 0 ∧ (63 : Nat) / 2 = 62 / 2 ∧ (1 : Nat) / 2 ≠ 62 / 2) ∧
    queued.me.getLq 1 = .val 0x123456789ABCDEF0FF :: [] := by decide +kernel

/-! ### Registers: integers, capabilities, numbers, vectors -/

/-- Two sources of which one is a queue, and a queue as the destination. -/
theorem witness_IntegerResults : Issues hW queued .normal [.lq 1, .x 5] [.sq 0] (st1 hW queued) ∧
    Issues hW queued .normal [.x 63, .x 0] [.x 0] (st1 hW queued) := ⟨issues_of (by decide +kernel), issues_of (by decide +kernel)⟩

/-- The counts at either end of a word; the bit fields that take a whole word and its last bit. -/
theorem witness_UnaryResults :
    (Issues hW queued .normal [.lq 1] [.x 63] (st1 hW queued) ∧
      (63 < 64 ∧ (0x8000000000000000 : Word).getLsbD 63 = true ∧ ∀ j, j < 63 → (0x8000000000000000 : Word).getLsbD j = false)) ∧
    (∀ j, 63 < j → (0x8000000000000000 : Word).getLsbD j = false) ∧
    (Issues hW queued .normal [] [.x 0] (st1 hW queued) ∧
      (Instr.bfx hW ⟨.x 1, .lq 1, .x 0, 64, 0⟩).wf = true ∧ (Instr.bfx hW ⟨.x 1, .lq 1, .x 0, 1, 63⟩).wf = true) ∧
    Issues hW queued .normal [.lq 1, .x 2] [.x 1] (st1 hW queued) :=
  ⟨meets (by decide +kernel), fun _ h => BitVec.getLsbD_of_ge _ _ h, meets (by decide +kernel), issues_of (by decide +kernel)⟩

theorem witness_Compares :
    (Issues hW queued .normal [.lq 1, .x 5] [.p 7] (st1 hW queued) ∧ (Instr.cmp hW ⟨.p 7, .lq 1, .x 5, 9⟩).wf = true) ∧
    (Issues hW queued .normal [.x 5] [.p 0] (st1 hW queued) ∧ (Instr.cmpi hW ⟨.p 0, .x 5, -1, 9⟩).wf = true) ∧
    Issues hW queued .normal [] [] (st1 hW queued) ∧
    (Issues hW queued .normal [.x 5, .x 6] [.x 4] (st1 hW queued) ∧
      (let f : BitVec 4 := 8
       0x7FC00000 < 2 ^ fmtBits f.toNat ∧ decodeF f.toNat 0x7FC00000 = .nan ∧ decodeF f.toNat 0 ≠ .nan ∧
       fcmpV (decodeF f.toNat 0) (decodeF f.toNat 0x3F800000) = some .lt ∧ fcmpV (decodeF f.toNat 0x3F800000) (decodeF f.toNat 0) = some .gt ∧
       (∃ e d, decodeF f.toNat 0x80000000 = .fin true 0 e ∧ decodeF f.toNat 0 = .fin false 0 d) ∧
       fcmpV (decodeF f.toNat 0x3F800000) (decodeF f.toNat 0x3F800000) = some .eq)) :=
  ⟨meets (by decide +kernel), meets (by decide +kernel), issues_of (by decide +kernel), issues_of (by decide +kernel),
    by decide +kernel, by decide +kernel, by decide +kernel, by decide +kernel, by decide +kernel, ⟨-149, -149, by decide +kernel⟩,
    by decide +kernel⟩

def withCap (k : Cap) : State := queued.self (fun c => c.writePair 10 k)
/-- A sealed capability, and one with a metadata word that is malformed. -/
def sealedCap (t : Nat) (a : Word) : Cap := ⟨a, mdSetSeal 0xFFC0A00000000000 t, true⟩
def badCap (a : Word) : Cap := ⟨a, 0xFFFFFFFFFFFFFFFF, true⟩

theorem witness_CapabilityResults :
    (Issues hW (withCap (badCap 64)) .normal [.x 10, .x 11, .lq 1] [.x 12] (st1 hW (withCap (badCap 64))) ∧
      (let a := (st1 hW (withCap (badCap 64))).me.readPair (.x 10); a.tag = true ∧ mdMalformed a.md = true)) ∧
    (Issues hW (withCap (sealedCap 15 64)) .normal [.x 10, .x 11, .lq 1] [.x 12] (st1 hW (withCap (sealedCap 15 64))) ∧
      (let a := (st1 hW (withCap (sealedCap 15 64))).me.readPair (.x 10); a.tag = true ∧ mdMalformed a.md = false ∧ mdSeal a.md ≠ 0)) ∧
    (Issues hW (withCap (whole 64)) .normal [.x 10, .x 11, .lq 1] [.x 12] (st1 hW (withCap (whole 64))) ∧
      (let a := (st1 hW (withCap (whole 64))).me.readPair (.x 10); a.tag = true ∧ mdMalformed a.md = false ∧ mdSeal a.md = 0)) ∧
    (Issues hW (withCap (whole 65)) .normal [.x 10, .x 11] [.x 12] (st1 hW (withCap (whole 65))) ∧ (withCap (whole 65)).me.level = .user ∧
      (let a := (st1 hW (withCap (whole 65))).me.readPair (.x 10)
       a.tag = true ∧ mdMalformed a.md = false ∧ mdSeal a.md = 0 ∧ a.addr.toNat % 64 ≠ 0)) ∧
    (Issues hW (withCap (whole 64)) .normal [.x 10, .x 11] [.x 12] (st1 hW (withCap (whole 64))) ∧
      (let a := (st1 hW (withCap (whole 64))).me.readPair (.x 10)
       a.tag = true ∧ mdMalformed a.md = false ∧ mdSeal a.md = 0 ∧ a.md.getLsbD 61 = true ∧ a.addr.toNat % 64 = 0)) ∧
    (Issues hW (withCap (badCap 64)) .normal [.x 10, .x 11] [.x 12] (st1 hW (withCap (badCap 64))) ∧
      (let a := (st1 hW (withCap (badCap 64))).me.readPair (.x 10); a.tag = true ∧ mdMalformed a.md = true)) ∧
    (Issues hW (withCap (sealedCap 1 64)) .normal [.x 10, .x 11] [.x 12] (st1 hW (withCap (sealedCap 1 64))) ∧
      (let a := (st1 hW (withCap (sealedCap 1 64))).me.readPair (.x 10); a.tag = true ∧ mdMalformed a.md = false ∧ mdSeal a.md ≠ 0)) :=
  ⟨meets (by decide +kernel), meets (by decide +kernel), meets (by decide +kernel), meets (by decide +kernel), meets (by decide +kernel),
    meets (by decide +kernel), meets (by decide +kernel)⟩

/-- A capability of all of memory, whose top and length are 2^64, the bounds of the manual's example, and an invalid capability. -/
theorem witness_CapabilityReads :
    (Issues hW (withCap (whole 64)) .normal [.x 10, .x 11] [.x 12] (st1 hW (withCap (whole 64))) ∧
      capValid 64 0xFFC0A00000000000 = true ∧ capTop 64 0xFFC0A00000000000 = 2 ^ 64 ∧
      capValid 0x4000500000 0xC000098000180000 = true ∧ capTop 0x4000500000 0xC000098000180000 < 2 ^ 64 ∧
      capTop 0x4000500000 0xC000098000180000 - capBase 0x4000500000 0xC000098000180000 < 2 ^ 64 ∧
      capTop 64 0xFFC0A00000000000 - capBase 64 0xFFC0A00000000000 = 2 ^ 64 ∧ capValid 64 0xFFFFFFFFFFFFFFFF = false) ∧
    Issues hW (withCap (whole 64)) .normal [.x 10, .x 11, .lq 1] [.p 3] (st1 hW (withCap (whole 64))) :=
  ⟨meets (by decide +kernel), issues_of (by decide +kernel)⟩

theorem witness_CapabilityMonotone :
    Issues hW (withCap (whole 64)) .normal [.x 10, .x 11, .lq 1] [.x 12] (st1 hW (withCap (whole 64))) ∧
      ((Instr.cset hW ⟨.x 12, .x 10, .lq 1, 0, 0, 0⟩).wf = true ∧
        goes (exec (.cset hW ⟨.x 12, .x 10, .lq 1, 0, 0, 0⟩) (withCap (whole 64))) = true) := meets (by decide +kernel)

/-- A finite value of FP32 at the end of its range; two values of E4M3 of which one is the nearer, and two that lie equally close to 17. -/
theorem witness_RoundsToNearest :
    (0x7F7FFFFF < 2 ^ fmtBits 8 ∧ decodeF 8 0x7F7FFFFF = .fin false 0xFFFFFF 104) ∧
    (decodeF 11 (toF 11 0 false (.fin false 33 (-1))).raw = .fin false 8 1 ∧ decodeF 11 0x59 = .fin false 9 1) ∧
    (decodeF 11 (toF 11 0 false (.fin false 17 0)).raw = .fin false 8 1 ∧ 0x59 < 2 ^ fmtBits 11) := by decide +kernel

theorem witness_FpResults :
    ((7 : Nat) ≤ 7 ∧ 12 ≤ 12 ∧ (1 : Nat) ≠ 0 ∧ 12 ≠ 11) ∧
    Issues hW queued .normal [.lq 1, .x 5] [.x 6] (st1 hW queued) ∧ Issues hW queued .normal [.lq 1, .x 5, .x 6] [.x 6] (st1 hW queued) ∧
    Issues hW queued .normal [.lq 1] [.x 0] (st1 hW queued) :=
  ⟨by decide, issues_of (by decide +kernel), issues_of (by decide +kernel), issues_of (by decide +kernel)⟩

theorem witness_VectorResults :
    (31 < 32 ∧ 8 * 3 + 8 ≤ 32) ∧ Issues hW queued .normal [.lq 1, .x 5] [.v 31] (st1 hW queued) ∧
    (6 : BitVec 4).toNat ≤ 6 ∧ Issues hW queued .normal [.v 0, .v 31] [.sq 1] (st1 hW queued) :=
  ⟨by decide, issues_of (by decide +kernel), by decide, issues_of (by decide +kernel)⟩

theorem witness_VectorFusedResults :
    Issues hW queued .normal [.v 1, .v 2, .v 31] [.v 31] (st1 hW queued) ∧ Issues hW queued .normal [.lq 1, .x 9] [.v 0] (st1 hW queued) ∧
    (Issues hW queued .normal [.lq 1] [.v 0] (st1 hW queued) ∧
      (6 < (7 : BitVec 4).toNat ∧ (5 : BitVec 4).toNat ≤ 6 ∧ (5 : BitVec 4).toNat ≠ 1 ∧ (5 : BitVec 4).toNat ≠ 6 ∧
        (6 : BitVec 4).toNat = 6)) :=
  ⟨issues_of (by decide +kernel), issues_of (by decide +kernel), meets (by decide +kernel)⟩

/-- The formats of the order keys, with a NaN and an ordered pair of FP32; integer lanes of 8 bits. -/
theorem witness_VectorCompareShift :
    (Issues hW queued .normal [.v 1, .x 9] [.k 7] (st1 hW queued) ∧ ((2 : BitVec 4).toNat ≤ 6 ∧ fmtBits 2 ≤ 32 ∧ 255 < 2 ^ fmtBits 2)) ∧
    Issues hW queued .normal [.v 1, .v 2] [.v 3] (st1 hW queued) ∧
    (Issues hW queued .normal [.v 1] [.v 3] (st1 hW queued) ∧ (8 ∈ [8, 9, 10, 11, 12]) ∧
      fcmpV (decodeF 8 0xBF800000) (decodeF 8 0x3F800000) = some .lt ∧ decodeF 8 0x7FC00000 = .nan ∧ decodeF 8 0x3F800000 ≠ .nan) ∧
    Issues hW queued .normal [.v 1, .lq 1] [.v 3] (st1 hW queued) :=
  ⟨meets (by decide +kernel), issues_of (by decide +kernel), meets (by decide +kernel), issues_of (by decide +kernel)⟩

theorem witness_VectorMoves :
    Issues hW queued .normal [.v 1, .x 9] [.v 3] (st1 hW queued) ∧
    (Issues hW queued .normal [.lq 1] [.x 3] (st1 hW queued) ∧ (30 : BitVec 8).toNat + 1 < 32 ∧ (6 : BitVec 4).toNat ≤ 6) ∧
    Issues hW queued .normal [] [.v 3] (st1 hW queued) ∧
    (Issues hW queued .normal [.x 4, .v 3] [.v 3] (st1 hW queued) ∧ (30 : BitVec 8).toNat < 31) :=
  ⟨issues_of (by decide +kernel), meets (by decide +kernel), issues_of (by decide +kernel), meets (by decide +kernel)⟩

theorem witness_VectorReductions :
    Issues hW queued .normal [.v 1, .v 3] [.v 3] (st1 hW queued) ∧
      ((6 : BitVec 4).toNat ≤ 6 ∧ 6 < (7 : BitVec 4).toNat ∧ (∀ v ∈ [0x7F800000, 0x7FC00000], v < 2 ^ fmtBits 8) ∧
        decodeF 8 0x7F800000 ≠ .nan ∧ decodeF 8 0x7FC00000 = .nan) := meets (by decide +kernel)

theorem witness_VectorQuantise :
    (Issues hW queued .normal [.v 1, .x 9] [.v 3] (st1 hW queued) ∧ (0x7F : BitVec 8).getLsbD 7 = false) ∧
    (Issues hW queued .normal [.v 1, .x 9, .v 31] [.v 3, .v 31] (st1 hW queued) ∧ (0x9F : BitVec 8).getLsbD 7 = true ∧
      Fin.ofNat 32 ((0x9F : BitVec 8).toNat % 32) = 31 ∧ Operand.v 3 ≠ .v 31) ∧
    Issues hW queued .normal [.v 1, .v 3] [.v 3] (st1 hW queued) :=
  ⟨meets (by decide +kernel), meets (by decide +kernel), issues_of (by decide +kernel)⟩

theorem witness_RegisterFrames :
    (Issues hW queued .normal [.lq 1, .x 5] [.sq 0] (st1 hW queued) ∧ (Instr.cget hW ⟨.x 0, .x 10, .x 0, 0, 8, 0⟩).wf = true ∧
      (Instr.vadd hW ⟨.v 1, .v 2, .v 3, 0, 0, 0, 0, 0, 0, false, false, 0, 8⟩).wf = true) ∧
    Issues hW queued .normal [.lq 1] [.x 63] (st1 hW queued) ∧ Issues hW queued .normal [] [.x 1] (st1 hW queued) ∧
    Issues hW queued .normal [.x 10, .x 11, .lq 1] [.p 1] (st1 hW queued) ∧ Issues hW queued .normal [.v 1, .lq 1, .v 2] [.v 2] (st1 hW queued) :=
  ⟨meets (by decide +kernel), issues_of (by decide +kernel), issues_of (by decide +kernel), issues_of (by decide +kernel), issues_of (by decide +kernel)⟩

/-! ### Control -/

def stage0 : Stage where
  code := whole 0x20000
  cpi := 1
  hlp := 2
  bnk := 0
  prio := 8
  mrg := false
  qdep := 4
  rsz := 8
  nxt := 0xF
  rbase := 0
  rlen := 0
  rfld := 0
  rstr := 0
  wbase := 0
  wlen := 0
  wfld := 0
  wstr := 0

def launch0 : Launch where
  lid := 1
  dom := 5
  det := false
  gang := false
  gangState := 0
  peers := []
  acks := []
  cacks := []
  part := 0
  clm := [0]
  pdl := 100
  gtick := 0
  gmarg := 0
  widths := [16, 16, 16, 8, 4, 4]
  wbase := 0
  logcap := Cap.null
  logrec := 0
  logPages := []
  logOff := 0
  logFree := []
  statusAt := 0x10100
  stages := [stage0]
  count := 3
  given := []
  first := true
  alive := 3
  ended := 0
  counted := 0
  waits := []
  mc := false
  code := 0
  written := true
  storage := 64

def task0 : Task where
  ord := 1
  lid := 1
  stage := 0
  wid := 0
  dom := 5
  mem := 0
  cpi := 1
  level := 8
  slip := false
  det := false
  merged := false
  members := [0]
  record := [1, 2, 3, 4, 5, 6, 7, 8]
  popped := false
  halted := false
  logSlot := none
  sscope := none
  reps := 0
  pdl := 100
  hlp := 2

/-- A launch that runs, with a queue in cluster 0, and its task on core 0. -/
def withLaunch (l : Launch) (s : State) : State :=
  ({ s with dev := { s.dev with launches := [l] } }).updCluster 0 (fun k => { k with queues := [⟨1, 0, 8, 0, 0, 0, 0, [], []⟩] })
def withTask (k : Task) (s : State) : State := s.updCore 0 (fun c => { c with task := some k })
def tasked : State := withTask task0 (withLaunch launch0 base)
def setBusy (b : Busy) (s : State) : State := s.self (fun c => { c with busy := some b })
/-- A copy command in channel 0 of core 0, and the control context's turn. -/
def commanded : State :=
  let s := asAgent ⟨0, 12⟩ base
  { run (.cpy hA ⟨.x 0, .x 8, .x 0, false, false, false, 0, 0, 0, 0, 0, false, false⟩) s with cur := ⟨0, 0⟩ }
def faulted : State := base.updCore 0 (fun c => { c with faults := [⟨1, 4, 0x50, 0⟩] })

/-- An access that passes, that faults, and that misses. -/
theorem fetched_of {f : Fetched} {p : BitVec 512 → Bool} (h : (match f with | .ok b _ _ => p b | _ => false) = true) :
    ∃ b psn s2, f = .ok b psn s2 ∧ p b = true := by
  cases f <;> first | exact ⟨_, _, _, rfl, h⟩ | cases h

/-- A capability of everything without execute permission, one whose address lies past its bounds, and one past the canonical addresses. -/
def noExec (a : Word) : Cap := ⟨a, 0xFFC0A00000000000 &&& ~~~(2 ^ 61), true⟩
def past (a : Word) : Cap := ⟨a, (boundCap (whole 0x10000) 0x10000 false).1.md, true⟩

theorem witness_Transfers :
    (let s := withCap (whole 0x40); Issues hW s .normal [.x 10, .x 11] [] (st1 hW s) ∧
      (let p := (st1 hW s).me.readPair (.x 10)
       p.addr.toNat % 64 = 0 ∧ p.tag = true ∧ mdMalformed p.md = false ∧ mdSeal p.md = 0 ∧ p.md.getLsbD 61 = true ∧
        capCovers p p.addr 64 = true ∧ canonical p.addr = true ∧ canonical (p.addr + 63) = true)) ∧
    (let s := withCap (whole 0x7F); Issues hW s .normal [.x 10, .x 11] [] (st1 hW s) ∧ ((st1 hW s).me.readPair (.x 10)).addr.toNat % 64 ≠ 0) ∧
    (let s := withCap ⟨0x40, 0, false⟩; Issues hW s .normal [.x 10, .x 11] [] (st1 hW s) ∧
      (let p := (st1 hW s).me.readPair (.x 10); p.addr.toNat % 64 = 0 ∧ p.tag = false)) ∧
    (let s := withCap (sealedCap 1 0x40); Issues hW s .normal [.x 10, .x 11] [] (st1 hW s) ∧
      (let p := (st1 hW s).me.readPair (.x 10); p.addr.toNat % 64 = 0 ∧ p.tag = true ∧ mdMalformed p.md = false ∧ mdSeal p.md ≠ 0)) ∧
    (let s := withCap (badCap 0x40); Issues hW s .normal [.x 10, .x 11] [] (st1 hW s) ∧
      (let p := (st1 hW s).me.readPair (.x 10); p.addr.toNat % 64 = 0 ∧ p.tag = true ∧ mdMalformed p.md = true)) ∧
    (∀ k ∈ [noExec 0x40, past 0x20000, whole 0x0100000000000000], let s := withCap k; Issues hW s .normal [.x 10, .x 11] [] (st1 hW s) ∧
      (let p := (st1 hW s).me.readPair (.x 10); p.addr.toNat % 64 = 0 ∧ p.tag = true ∧ mdMalformed p.md = false ∧ mdSeal p.md = 0)) ∧
    ((noExec 0x40).md.getLsbD 61 = false ∧ (past 0x20000).md.getLsbD 61 = true ∧ capCovers (past 0x20000) 0x20000 64 = false ∧
      capCovers (past 0x20000) 0x1FFC0 64 = true ∧ capCovers (whole 0) 0x0100000000000000 64 = true ∧ canonical 0x0100000000000000 = false) ∧
    base.me.slot + 1 ≠ base.me.nv ∧
    (Issues hA atLast .normal [] [] (st1 hA atLast) ∧ atLast.me.slot + 1 = atLast.me.nv) ∧
    (Issues hA atLast .normal [] (pairOps (.x 62)) (st1 hA atLast) ∧ atLast.me.slot + 1 = atLast.me.nv ∧ (62 : Fin 64).val % 2 = 0) ∧
    (Issues hW semmed .normal [.x 4] [.x 4] (st1 hW semmed) ∧ (semmed.me.getX 4).val ≠ 1) ∧
    (let s := setX 4 1 base; Issues hA s .normal [.x 4] [.x 4] (st1 hA s) ∧ (s.me.getX 4).val = 1) :=
  ⟨meets (by decide +kernel), meets (by decide +kernel), meets (by decide +kernel), meets (by decide +kernel), meets (by decide +kernel),
    by intro k hk; fin_cases hk <;> exact meets (by decide +kernel), by decide +kernel, by decide +kernel,
    meets (by decide +kernel), meets (by decide +kernel), meets (by decide +kernel), meets (by decide +kernel)⟩

/-- Helpers live up to a number. -/
def helpersTo (n : Nat) : State :=
  (List.range n).foldl (fun s i => s.updCtx ⟨0, i + 1⟩ (fun c => { c with live := true })) base
/-- A line that its home slice holds. -/
def hold (line : Nat) (s : State) : State := s.updSliceOf line (fun k => { k with present := k.present ++ [line] })
/-- A block of a class at the next place of the program, and `fork` naming it. -/
def codeOf (cls : Nat) : State := hold (0x20040 / 128) (base.setBytes 0x20040 (toBytes 64 (nopBlock.toNat + cls * 256 * 2 ^ 480)))
/-- That block with its line poisoned, in a superstep of a merged stage. -/
def badCode (cls : Nat) (s : State) : State := ((s.setPoison 0x20040 true).updCore 0 (fun c => { c with
  mrg := some ⟨false, [], 0, 0, [], [], [], [(0, ctx0)], [], Stat.reset, Stat.reset, [], []⟩ }))

theorem witness_ContextInstructions :
    (Issues hA (helpersTo 9) .illegal [] [] (st1 hA (helpersTo 9)) ∧
      (let s1 := st1 hA (helpersTo 9)
       9 < s1.helpers 0 ∧ 9 < 10 ∧ (helpersTo 9).cur.ctx ≠ 9 + 1 ∧ (s1.here.ctx 10).live = false ∧ ∀ j, j < 9 → (s1.here.ctx (j + 1)).live = true)) ∧
    (Issues hA (helpersTo 10) .illegal [] [] (st1 hA (helpersTo 10)) ∧
      (let s1 := st1 hA (helpersTo 10); ∀ i, i < s1.helpers 0 → (s1.here.ctx (i + 1)).live = true)) ∧
    ([0, 2] : List Nat).all (fun cls => iss hA (codeOf cls) .illegal forkSrcs [] && !isSvc 0 && !((st1 hA (codeOf cls)).here.ctx 12).live &&
      (let s1 := st1 hA (codeOf cls)
       match fetchBlock s1 ⟨0, 0⟩ ⟨s1.me.pcc.addr + (1 : BitVec 16).signExtend 64 * 64, s1.me.pcc.md, s1.me.pcc.tag⟩
          (s1.me.pcOut || !capRepresentable s1.me.pcc.addr s1.me.pcc.md (s1.me.pcc.addr + (1 : BitVec 16).signExtend 64 * 64)) with
        | .ok b psn _ => blkClass b == cls && !psn
        | _ => false)) = true ∧
    (let s := badCode 2 (codeOf 2)
     let s1 := st1 hA s
     iss hA s .illegal forkSrcs [] = true ∧ (match fetchBlock s1 ⟨0, 0⟩ ⟨s1.me.pcc.addr + (1 : BitVec 16).signExtend 64 * 64, s1.me.pcc.md, s1.me.pcc.tag⟩
        (s1.me.pcOut || !capRepresentable s1.me.pcc.addr s1.me.pcc.md (s1.me.pcc.addr + (1 : BitVec 16).signExtend 64 * 64)) with
      | .ok _ psn s2 => psn && s2.rollsBack 0
      | _ => false) = true) ∧
    (Issues hA (asAgent ⟨0, 11⟩ base) .illegal [] [] (st1 hA (asAgent ⟨0, 11⟩ base)) ∧ 11 ≤ (asAgent ⟨0, 11⟩ base).cur.ctx) ∧
    (Issues hA commanded .illegal [] [] (st1 hA commanded) ∧ commanded.cur.ctx < 11 ∧ (st1 hA commanded).here.enginesQuiet = false) ∧
    (Issues hA base .illegal [] [] (st1 hA base) ∧ base.cur.ctx < 11 ∧ (st1 hA base).here.enginesQuiet = true ∧ (st1 hA base).here.faults = []) ∧
    (Issues hA faulted .illegal [] [] (st1 hA faulted) ∧ faulted.cur.ctx < 11 ∧ (st1 hA faulted).here.enginesQuiet = true ∧
      (st1 hA faulted).here.faults = ⟨1, 4, 0x50, 0⟩ :: []) ∧
    (Issues hA (asAgent ⟨0, 10⟩ base) .illegal [] [] (st1 hA (asAgent ⟨0, 10⟩ base)) ∧ (asAgent ⟨0, 10⟩ base).cur.ctx ≠ 0) ∧
    (Issues hA tasked .illegal [] [] (st1 hA tasked) ∧ tasked.cur.ctx = 0 ∧ (st1 hA tasked).here.faults = [] ∧ (st1 hA tasked).here.task.isSome = true) ∧
    (Issues hA (helpersTo 9) .normal [] [] (st1 hA (helpersTo 9)) ∧ (st1 hA (helpersTo 9)).here.task = none ∧
      ∀ b ∈ (st1 hA (helpersTo 9)).liveAgents 0, ((st1 hA (helpersTo 9)).ctx b).past = false) ∧
    ([[0, 2], [0, 3]] : List (List Byte)).all (fun bs =>
      let s := setBusy (.read (bs ++ List.replicate 30 0) []) tasked
      iss hA s .normal [.x 2, .x 3] [] && decide ((st1 hA s).me.busy = some (.read (bs ++ List.replicate 30 0) [])) && (st1 hA s).me.region.isNone &&
        (st1 hA s).here.task.isSome) = true ∧
    livenessOk ([0, 2] ++ List.replicate 30 0) = true ∧ livenessOk ([1] ++ List.replicate 31 0) = false :=
  ⟨meets (by decide +kernel), meets (by decide +kernel), by decide +kernel, by decide +kernel, meets (by decide +kernel), meets (by decide +kernel),
    meets (by decide +kernel), meets (by decide +kernel), meets (by decide +kernel), meets (by decide +kernel), meets (by decide +kernel),
    by decide +kernel, by decide +kernel, by decide +kernel⟩

def gated (k : Cap) (cls : Nat) : State := (codeOf cls).self (fun c => c.writePair 10 k)

theorem witness_Gates :
    (let s := gated (sealedCap 7 0x20041) 3; Issues hA s .illegal [.x 10, .x 11] [.x 12, .x 13] (st1 hA s) ∧
      ((st1 hA s).me.readPair (.x 10)).addr.toNat % 64 ≠ 0) ∧
    (let s := gated ⟨0x20040, 0, false⟩ 3; Issues hA s .illegal [.x 10, .x 11] [] (st1 hA s) ∧
      (let g := (st1 hA s).me.readPair (.x 10); g.addr.toNat % 64 = 0 ∧ g.tag = false)) ∧
    (let s := gated (badCap 0x20040) 3; Issues hA s .illegal [.x 10, .x 11] [] (st1 hA s) ∧
      (let g := (st1 hA s).me.readPair (.x 10); g.addr.toNat % 64 = 0 ∧ g.tag = true ∧ mdMalformed g.md = true)) ∧
    (let s := gated (whole 0x20040) 3; Issues hA s .illegal [.x 10, .x 11] [] (st1 hA s) ∧
      (let g := (st1 hA s).me.readPair (.x 10); g.addr.toNat % 64 = 0 ∧ g.tag = true ∧ mdMalformed g.md = false ∧ mdSeal g.md = 0)) ∧
    (([(0, 7, 0), (3, 7, 0), (3, 15, 0), (3, 15, 0x8C)] : List (Nat × Nat × Word)).all (fun e =>
      let q := (e.1, e.2.1)
      let s := (gated (sealedCap q.2 0x20040) q.1).self (fun c => { c with sup := { c.sup with cau := e.2.2 } })
      let s1 := st1 hA s
      let g := s1.me.readPair (.x 10)
      iss hA s .illegal [.x 10, .x 11] [.x 12, .x 13] && g.addr.toNat % 64 == 0 && g.tag && !mdMalformed g.md && mdSeal g.md == q.2 &&
        g.md.getLsbD 61 && capCovers g g.addr 64 && s.me.level != .hypervisor && s.me.sup.cau.getLsbD 7 == decide (e.2.2 ≠ 0) && !s.me.hyp.cau.getLsbD 7 &&
        (match fetchBlock s1 s.cur g.unsealed false with | .ok b psn _ => blkClass b == q.1 && !psn | _ => false)) = true) ∧
    (let s := atLevel .hypervisor (gated (sealedCap 15 0x20040) 3)
     iss hA s .illegal [.x 10, .x 11] [.x 12, .x 13] = true ∧ s.me.level = .hypervisor ∧ s.me.hyp.cau.getLsbD 7 = false ∧
      (match fetchBlock (st1 hA s) s.cur (sealedCap 15 0x20040).unsealed false with | .ok b psn _ => blkClass b == 3 && !psn | _ => false) = true) ∧
    (let s := badCode 3 (gated (sealedCap 7 0x20040) 3)
     iss hA s .illegal [.x 10, .x 11] [.x 12, .x 13] = true ∧
      (match fetchBlock (st1 hA s) s.cur (sealedCap 7 0x20040).unsealed false with | .ok _ psn s2 => psn && s2.rollsBack 0 | _ => false) = true) :=
  ⟨meets (by decide +kernel), meets (by decide +kernel), meets (by decide +kernel), meets (by decide +kernel), by decide +kernel, by decide +kernel,
    by decide +kernel⟩

/-- A launch with a merged stage, and one that is a gang. -/
def mergedTask : State := withTask { task0 with merged := true } (withLaunch { launch0 with stages := [{ stage0 with mrg := true }] } base)
def gangTask : State := withTask task0 (withLaunch { launch0 with gang := true, gangState := 3 } base)
/-- The same of this device and peers 2 and 15, and the scope of every device of a gang. -/
def gangLaunch0 : Launch := { launch0 with gang := true, gangState := 3, peers := [2, 15] }
def farGang : State := setX 9 0xFF00000000 (withTask task0 (withLaunch gangLaunch0 base))
/-- A gang's task in a merged stage. -/
def farMerged : State := setX 9 0xFF00000000 (withTask { task0 with merged := true } (withLaunch { gangLaunch0 with stages := [{ stage0 with mrg := true }] } base))
/-- A scope value with a reserved bit. -/
def badScope (s : State) : State := setX 9 0x10000000000 s

theorem witness_SemaphoresAndBarriers :
    (Issues hA base .illegal [.x 4] [] (st1 hA base) ∧ gidOf (gidCl 0) ((base.me.getX 4).val.toNat % 256) ≠ base.cur.gid ∧
      gidOf (gidCl 0) ((base.me.getX 0).val.toNat % 256) = base.cur.gid) ∧
    Issues hA base .illegal [.x 0] [] (st1 hA base) ∧ Issues hW semmed .normal [] [.x 4] (st1 hW semmed) ∧
    (Issues hA (badScope base) .illegal [.x 9] [] (st1 hA (badScope base)) ∧ ((st1 hA (badScope base)).me.scopeArg (.x 9)).ok = false ∧
      (st1 hA (badScope base)).here.task = none) ∧
    (Issues hA base .illegal [.x 0] [] (st1 hA base) ∧ ((st1 hA base).me.scopeArg (.x 0)).ok = true ∧ (st1 hA base).gangLaunch 0 = none) ∧
    (Issues hA farGang .illegal [.x 9] [] (st1 hA farGang) ∧ ((st1 hA farGang).me.scopeArg (.x 9)).ok = true ∧
      (st1 hA farGang).gangLaunch 0 = some gangLaunch0 ∧ ((st1 hA farGang).me.scopeArg (.x 9)).core = false ∧
      bits ((st1 hA farGang).me.scopeArg (.x 9)).scope 39 32 = 255 ∧ (st1 hA farGang).peerMask 0 ((st1 hA farGang).me.scopeArg (.x 9)) ≠ 0) ∧
    (st1 hA base).peerMask 0 ((st1 hA base).me.scopeArg (.x 0)) = 0 ∧
    (Issues hA tasked .illegal [.x 9] [] (st1 hA tasked) ∧ (st1 hA tasked).here.task = some task0 ∧ (st1 hA tasked).stage? 0 = some stage0 ∧
      stage0.mrg = false) ∧
    (Issues hA mergedTask .illegal [.x 9] [] (st1 hA mergedTask) ∧ (st1 hA mergedTask).here.task = some { task0 with merged := true } ∧
      ((st1 hA mergedTask).stage? 0 = some { stage0 with mrg := true }) ∧ ((st1 hA mergedTask).me.scopeArg (.x 9)).ok = true) ∧
    (Issues hA farMerged .illegal [.x 9] [] (st1 hA farMerged) ∧ (st1 hA farMerged).here.task = some { task0 with merged := true } ∧
      ((st1 hA farMerged).stage? 0 = some { stage0 with mrg := true }) ∧
      (st1 hA farMerged).liveScope 0 ((st1 hA farMerged).me.scopeArg (.x 9)) = (st1 hA farMerged).me.scopeArg (.x 9)) ∧
    (Issues hA (badScope mergedTask) .illegal [.x 9] [] (st1 hA (badScope mergedTask)) ∧
      ((st1 hA (badScope mergedTask)).stage? 0 = some { stage0 with mrg := true }) ∧
      ((st1 hA (badScope mergedTask)).me.scopeArg (.x 9)).ok = false) ∧
    (Issues hA base .illegal [] [] (st1 hA base) ∧ (st1 hA base).here.task = none) ∧
    (Issues hA tasked .illegal [] [] (st1 hA tasked) ∧ (st1 hA tasked).here.task = some task0 ∧ (st1 hA tasked).launch? 1 = some launch0 ∧
      launch0.gang = false) ∧
    (Issues hA gangTask .illegal [] [] (st1 hA gangTask) ∧ (st1 hA gangTask).here.task = some task0 ∧
      (st1 hA gangTask).launch? 1 = some { launch0 with gang := true, gangState := 3 }) :=
  ⟨meets (by decide +kernel), issues_of (by decide +kernel), issues_of (by decide +kernel), meets (by decide +kernel), meets (by decide +kernel),
    meets (by decide +kernel), by decide +kernel, meets (by decide +kernel), meets (by decide +kernel), meets (by decide +kernel),
    meets (by decide +kernel), meets (by decide +kernel), meets (by decide +kernel), meets (by decide +kernel)⟩

def svcAt (l : Level) (s : State) : State := atLevel l (asAgent ⟨2048, 0⟩ s)
def overflowed : State := base.updCore 0 (fun c => { c with ovq := [⟨0x10200, false, 0, 0, 0⟩], mqosSize := 4 })

/-- Each register of the lists, those of the ends of a range among them; each level; an open region and none. -/
theorem witness_SpecialRegisters :
    Issues hW semmed .normal [] [.x 4] (st1 hW semmed) ∧ (sprRead (st1 hW semmed) 0x097 = none ∧ (sprRead (st1 hW semmed) 0x090).isSome = true) ∧
    (Issues hW semmed .normal [] (pairOps (.x 62)) (st1 hW semmed) ∧ (62 : Fin 64).val % 2 = 0) ∧
    (Issues hW (atLevel .supervisor semmed) .normal [.x 5] [] (st1 hW (atLevel .supervisor semmed)) ∧
      (atLevel .supervisor semmed).me.level ≠ .user ∧ (atLevel .supervisor semmed).me.prgn.opn = false ∧ (atLevel .supervisor semmed).here.ovq = []) ∧
    (Issues hA inRegion .normal [.x 5] [] (st1 hA inRegion) ∧ inRegion.me.prgn.opn = true) ∧
    (Issues hA (svcAt .hypervisor base) .normal [.x 5] [] (st1 hA (svcAt .hypervisor base)) ∧ (svcAt .hypervisor base).me.level = .hypervisor ∧
      isSvc (svcAt .hypervisor base).cur.gid = true ∧ ((svcAt .hypervisor base).me.getX 5).val.getLsbD 0 = false ∧
      ((svcAt .hypervisor base).me.getX 4).val.getLsbD 0 = true) ∧
    (Issues hA (atLevel .supervisor overflowed) .normal [.x 5] [] (st1 hA (atLevel .supervisor overflowed)) ∧
      (atLevel .supervisor overflowed).here.ovq ≠ []) :=
  ⟨issues_of (by decide +kernel), by decide +kernel, meets (by decide +kernel), meets (by decide +kernel), meets (by decide +kernel),
    meets (by decide +kernel), meets (by decide +kernel)⟩

/-- The context's latest load of its line, and what it took of it. -/
def monitored (took : Sparse Nat) (held : List (Nat × Nat × Nat)) : State :=
  base.self (fun c => { c with mon := [(0x10040 / 128, some ⟨0, 1, took, held⟩)] })
/-- A byte of that line has been written since. -/
def rewritten (s : State) : State := { s with byteVer := [(0x10040, 1)] }
/-- Device time at 1,234, and a context that has read a later time. -/
def timed (seen : Nat) : State := (base.updDev (fun d => { d with ns := 1234 })).self (fun c => { c with dtSeen := seen })
/-- A load in flight at a fence, and a fence in its place before it. -/
def loadedOnce : State := run (.ld hA ⟨.x 20, .x 2, .x 0, 0, 0, 3, 0⟩) base
def fenced : State := base.self (fun c => { c with fences := [⟨1, Order.plain, 0, 0, none, hA⟩] })
def fenceAt (s : State) (k : Nat) : Fence :=
  ⟨k, s.me.scopeArg (.x 0), s.me.seq, s.now, if s.me.pend.any Access.loads then none else some s.now, hA⟩

theorem witness_TimeAndFences :
    (Issues hA (timed 1234) .normal [] [.sq 0] (st1 hA (timed 1234)) ∧
      (st1 hA (timed 1234)).me.dtSeen * 2 ^ 32 + (st1 hA (timed 1234)).me.dtFrac.toNat ≤
        (st1 hA (timed 1234)).dev.ns * 2 ^ 32 + (st1 hA (timed 1234)).dev.frac.toNat) ∧
    (Issues hA (timed 1235) .normal [] [.sq 0] (st1 hA (timed 1235)) ∧
      (st1 hA (timed 1235)).dev.ns * 2 ^ 32 + (st1 hA (timed 1235)).dev.frac.toNat <
        (st1 hA (timed 1235)).me.dtSeen * 2 ^ 32 + (st1 hA (timed 1235)).me.dtFrac.toNat) ∧
    (Issues hA base .illegal [.x 4] [] (st1 hA base) ∧ (st1 hA base).helpers 0 = 10 ∧
      ((0 : BitVec 16).toNat % 16 = 0 ∧ 11 ≤ (11 : BitVec 16).toNat % 16 ∧ 0 < (10 : BitVec 16).toNat % 16 ∧ (10 : BitVec 16).toNat % 16 < 11)) ∧
    (Issues hA tasked .illegal [.x 4] [] (st1 hA tasked) ∧ (st1 hA tasked).helpers 0 < 3) ∧
    (Issues hA (badScope base) .normal [.x 9] [] (st1 hA (badScope base)) ∧ ((st1 hA (badScope base)).me.scopeArg (.x 9)).ok = false) ∧
    (Issues hA base .normal [.x 0] [] (st1 hA base) ∧ ((st1 hA base).me.scopeArg (.x 0)).ok = true ∧ (st1 hA base).me.fences = [] ∧
      (st1 hA base).me.pend = [] ∧ (st1 hA base).me.sb = [] ∧ (st1 hA base).invals = [] ∧ (st1 hA base).here.cmds = [] ∧
      (∀ k, k < 4 → fenceOk (st1 hA base) base.cur (fenceAt (st1 hA base) k) = true)) ∧
    (Issues hA loadedOnce .normal [.x 0] [] (st1 hA loadedOnce) ∧ (st1 hA loadedOnce).me.pend ≠ [] ∧ (st1 hA loadedOnce).me.fences = [] ∧
      fenceOk (st1 hA loadedOnce) loadedOnce.cur (fenceAt (st1 hA loadedOnce) 0) = false) ∧
    (Issues hA fenced .normal [.x 0] [] (st1 hA fenced) ∧ (st1 hA fenced).me.fences ≠ []) ∧
    ([(base, false, false), (monitored [] [], false, false), (rewritten (monitored [] []), true, false),
        (rewritten (monitored [(0x10040, 2)] []), false, false), (rewritten (monitored [] [(3, 0x10040, 8)]), false, false),
        ((monitored [] []).updCore 0 (fun c => { c with req := true }), false, true)] : List (State × Bool × Bool)).all (fun e =>
      let t := st1 hA e.1
      iss hA e.1 .illegal [.x 2, .x 3, .x 0] [.x 20] && t.me.busy.isNone &&
      (match checkElems t 0 5 ⟨t.me.readPair (.x 2), [permLoad], kLoad, 1, 0, [⟨0x10040, 1, 0⟩], false⟩ [⟨0x10040, 1, 0⟩] [] [] with
        | .ok [⟨_, seg :: _⟩] _ => seg.addr == 0x10040
        | _ => false) && t.here.req == e.2.2 &&
      t.laterWrite (t.me.monitored (0x10040 / 128) (Sparse.look 0 t.lineVer (0x10040 / 128))) (0x10040 / 128) (0x10040 / 128) == e.2.1) = true :=
  ⟨meets (by decide +kernel), meets (by decide +kernel), meets (by decide +kernel), meets (by decide +kernel), meets (by decide +kernel),
    meets (by decide +kernel), meets (by decide +kernel), meets (by decide +kernel), by decide +kernel⟩

/-! ### Memory -/

def okAcc (r : Checked) : Bool := match r with | .ok _ _ => true | _ => false
def okElems (r : Passed) : Bool := match r with | .ok _ _ => true | _ => false

theorem okAcc_iff {r : Checked} (h : okAcc r = true) : ∃ segs used, r = .ok segs used := by
  cases r <;> first | exact ⟨_, _, rfl⟩ | cases h

theorem okElems_iff {r : Passed} (h : okElems r = true) : ∃ parts used, r = .ok parts used := by
  cases r <;> first | exact ⟨_, _, rfl⟩ | cases h

/-- A capability of load and store over 64 KiB at page 1. -/
def small (a : Word) : Cap := (boundCap (whole 0x10000) 0x10000 false).1 |> fun c => ⟨a, c.md, true⟩
/-- Bank 7 in slot 7. -/
def banked : State := (base.updCore 0 (fun c => c.setSlot 7 ⟨true, false, false, 7⟩)).updCluster 0 (fun k => { k with taken := [7] })

/-- An access that passes at the last byte of a page, in the scratch region, and that fails each check in turn. -/
theorem witness_AccessAuthority :
    ((∃ segs used, checkAccess base 0 5 (whole 0x10000) [permLoad] kLoad 0x1FFFF 1 1 = .ok segs used) ∧ (0x1FFFF : Word) < scratchLo) ∧
    ((∃ segs used, checkAccess banked 0 5 (whole 0x10000) [permLoad] kLoad 0xFFFFFFFFFFFFFFFF 1 1 = .ok segs used) ∧
      scratchLo ≤ (0xFFFFFFFFFFFFFFFF : Word).toNat) ∧
    (badCap 0).tag = true ∧ mdMalformed (badCap 0).md = true ∧
    (sealedCap 1 0).tag = true ∧ mdMalformed (sealedCap 1 0).md = false ∧ mdSeal (sealedCap 1 0).md ≠ 0 ∧
    (small 0x10000).tag = true ∧ mdMalformed (small 0x10000).md = false ∧ mdSeal (small 0x10000).md = 0 ∧
    mdHas ((small 0x10000).md &&& 0x000FFFFFFFFFFFFF) [permLoad] = false ∧
    (mdHas (small 0x10000).md [permLoad] = true ∧ capCovers (small 0x10000) 0x1FFFF 2 = false ∧ capCovers (small 0x10000) 0x1FFFE 2 = true) ∧
    (capCovers (whole 0) 0x00FFFFFFFFFFFFFF 2 = true ∧ canonical 0x0100000000000000 = false ∧ canonical 0x00FFFFFFFFFFFFFF = true) ∧
    (0x10001 : Word).toNat % 2 ≠ 0 ∧ (touchesScratch 0xFFFFFFFFEFFFFFFF 2).2 = true := by
  refine ⟨⟨okAcc_iff (by decide +kernel), by decide +kernel⟩, ⟨okAcc_iff (by decide +kernel), by decide +kernel⟩, ?_⟩
  decide +kernel

/-- A load with a bad scope; a queue that is full; an access that faults, misses and passes. -/
def lqFull : State := base.self (fun c => c.putLq 2 (List.replicate 16 (.val 0)))
def farCap (s : State) : State := s.self (fun c => c.writePair 2 (whole 0x50000))
def noCap (s : State) : State := s.self (fun c => c.writePair 2 ⟨0x10000, 0, false⟩)
/-- What the checks make of one element at the address of the pair x2. -/
def passes (s : State) (perms : List Nat) (kind al n : Nat) (words : Bool := false) : Passed :=
  let e : Elem := ⟨(s.me.readPair (.x 2)).addr, n, 0⟩
  checkElems s s.cur.gid s.me.cdom ⟨s.me.readPair (.x 2), perms, kind, al, 0, [e], words⟩ [e] [] []

theorem witness_LoadInstructions :
    (Issues hA (badScope base) .normal [.x 2, .x 3, .x 9] [.x 20] (st1 hA (badScope base)) ∧
      (memOrder (st1 hA (badScope base)).me ⟨.x 20, .x 2, .x 9, 1, 0, 3, 0⟩).ok = false) ∧
    (Issues hA lqFull .normal [.x 2, .x 3, .x 0] [.lq 2] (st1 hA lqFull) ∧ (memOrder (st1 hA lqFull).me ⟨.lq 2, .x 2, .x 0, 0, 0, 3, 0⟩).ok = true ∧
      lqRoom (st1 hA lqFull).me (.lq 2) = false) ∧
    (Issues hA (noCap base) .normal [.x 2, .x 3, .x 0] [.lq 2] (st1 hA (noCap base)) ∧ lqRoom (st1 hA (noCap base)).me (.lq 2) = true ∧
      passes (st1 hA (noCap base)) [permLoad] kLoad 1 8 = .trap 1 1 0x10000) ∧
    (Issues hA (farCap base) .normal [.x 2, .x 3, .x 0] [.v 1] (st1 hA (farCap base)) ∧ isSvc 0 = false ∧
      passes (st1 hA (farCap base)) [permLoad] kLoad 1 8 = .miss 0x50000 false 0x50000) ∧
    (Issues hW semmed .normal [.x 2, .x 3, .x 0] [.v 1] (st1 hW semmed) ∧ (st1 hW semmed).me.region = none ∧ (st1 hW semmed).here.mrg = none ∧
      okElems (passes (st1 hW semmed) [permLoad] kLoad 1 8) = true) ∧
    (Issues hA base .normal [.x 2, .x 3, .x 0] (pairOps (.x 62)) (st1 hA base) ∧ okElems (passes (st1 hA base) [permLoad] kLdc 16 16) = true) ∧
    Issues hA base .normal [.x 2, .x 3, .x 0] [] (st1 hA base) :=
  ⟨meets (by decide +kernel), meets (by decide +kernel), meets (by decide +kernel), meets (by decide +kernel), meets (by decide +kernel),
    meets (by decide +kernel), issues_of (by decide +kernel)⟩

def askKind (q : Ask) : Nat := match q with | .go _ => 0 | .wait _ => 1 | .no => 2

/-- The first proposals that a region may hold, up to its limit; the merge buffer of a core, empty and full, without a log slot. -/
def proposalsTo (n : Nat) : List BrineLine := (List.range n).map (fun i => BrineLine.new (0x8000 + i))
def withRegion (n : Nat) : State := inRegion.self (fun c => { c with region := c.region.map (fun r => { r with lines := proposalsTo n }) })
def withMerge (n : Nat) (s : State) : State := s.updCore 0 (fun c => { c with
  mrg := some ⟨false, proposalsTo n, 0, 0, [], [], [], [], [], Stat.reset, Stat.reset, [], []⟩ })
def inMerge (s : State) : State := withMerge 0 s
/-- A store-data queue with an entry. -/
def pushed : State := base.self (fun c => c.putSq 0 [.val 5])
/-- A quiesce holds a line; core 1 holds a line alone. -/
def heldBack (line : Nat) (s : State) : State := s.updDev (fun d => { d with quiesce := [⟨0, List.range 64, line, line⟩] })
def owned (line : Nat) (s : State) : State := s.updCore 1 (fun c => { c with l1 := { c.l1 with own := [line], dl := [line] } })
/-- A state whose line is there, whose line a quiesce holds, and whose line a core holds alone besides. -/
def threeWays (line : Nat) (s : State) : List (State × Nat) :=
  [(s, 0), (heldBack line s, 2), (owned line (heldBack line s), 1)]
/-- A full merge buffer whose member has a log slot, in lines of which a quiesce holds one; a core holds the other alone. -/
def logging (o : Bool) : State :=
  let l : Launch := { launch0 with logrec := 4, logPages := [0x40000, 0x50000], logOff := 65536 - 128 }
  let s := heldBack (0x50000 / 128) (withTask { task0 with logSlot := some 0 } (withLaunch l (withMerge 256 base)))
  if o then owned (0x4FF80 / 128) s else s
/-- What a store of eight bytes at the pair x2 is made of, and whether its checks pass with a condition on its units. -/
def storeUnitsOk (s : State) (f : List SUnit → Bool) : Bool :=
  let r : Req := ⟨s.me.readPair (.x 2), storePerms s.me false, kStore, 1, 0, [⟨(s.me.readPair (.x 2)).addr, 8, 0⟩], false⟩
  match checkElems s s.cur.gid s.me.cdom r r.elems [] [] with
  | .ok ps _ => f (ps.flatMap (fun p => p.storeUnits r))
  | _ => false
/-- What the lines of the log answer to a store in merge mode: 0 go, 1 wait, 2 no. -/
def mergeAsks (s : State) (us : List SUnit) (k : Nat) : Bool :=
  let t := st1 hA s
  askKind (t.devGet false (t.spillLines 0 (us.length + t.here.brineUsed - 256))) == k
/-- A fan with a reserved bit. -/
def badFan : State := setX 8 (BitVec.ofNat 64 (2 ^ 50)) base

theorem witness_StoreInstructions :
    (Issues hA (badScope base) .normal [.x 2, .x 3, .x 9, .x 5] [] (st1 hA (badScope base)) ∧
      (memOrder (st1 hA (badScope base)).me ⟨.x 5, .x 2, .x 9, 2, 0, 3, 0⟩).ok = false) ∧
    (Issues hA (noCap base) .normal [.x 2, .x 3, .x 0, .v 5] [] (st1 hA (noCap base)) ∧
      passes (st1 hA (noCap base)) (storePerms (st1 hA (noCap base)).me false) kStore 1 8 = .trap 1 1 0x10000) ∧
    (Issues hA (farCap base) .normal [.x 2, .x 3, .x 0, .x 5] [] (st1 hA (farCap base)) ∧ isSvc 0 = false ∧ kStore ≠ kMulti ∧
      passes (st1 hA (farCap base)) (storePerms (st1 hA (farCap base)).me false) kStore 1 8 = .miss 0x50000 false 0x50000) ∧
    (Issues hW semmed .normal [.x 2, .x 3, .x 0, .x 5] [] (st1 hW semmed) ∧ (st1 hW semmed).me.region = none ∧ (st1 hW semmed).here.mrg = none ∧
      okElems (passes (st1 hW semmed) (storePerms (st1 hW semmed).me false) kStore 1 8) = true) ∧
    (Issues hW queued .normal [.x 2, .x 3, .x 0, .lq 1] [] (st1 hW queued) ∧ (st1 hW queued).me.getLq 1 = [.val 0x123456789ABCDEF0FF] ∧
      okElems (passes (st1 hW queued) (storePerms (st1 hW queued).me false) kStore 1 8) = true) ∧
    (Issues hA pushed .normal [.x 2, .x 3, .x 0] [] (st1 hA pushed) ∧ (st1 hA pushed).me.getSq 0 = [.val 5] ∧
      okElems (passes (st1 hA pushed) (storePerms (st1 hA pushed).me false) kStore 1 8) = true) ∧
    (Issues hA base .normal [.x 2, .x 3, .x 0] [] (st1 hA base) ∧ (st1 hA base).me.getSq 0 = [] ∧
      okElems (passes (st1 hA base) (storePerms (st1 hA base).me false) kStore 1 8) = true) ∧
    (Issues hA inRegion .normal [.x 2, .x 3, .x 0, .v 31] [] (st1 hA inRegion) ∧ (st1 hA inRegion).me.region.isSome = true ∧
      storeUnitsOk (st1 hA inRegion) (fun us => (proposeUnits (256 - (st1 hA inRegion).here.brineUsed) (toBytes 8 5) false us []).isSome) = true) ∧
    (Issues hA (withRegion 64) .normal [.x 2, .x 3, .x 0, .x 5] [] (st1 hA (withRegion 64)) ∧
      storeUnitsOk (st1 hA (withRegion 64)) (fun us =>
        (proposeUnits (256 - (st1 hA (withRegion 64)).here.brineUsed) (toBytes 8 5) false us (proposalsTo 64)).isNone) = true) ∧
    (Issues hA (inMerge base) .normal [.x 2, .x 3, .x 0, .x 5] [] (st1 hA (inMerge base)) ∧ (st1 hA (inMerge base)).here.mrg.isSome = true ∧
      storeUnitsOk (st1 hA (inMerge base)) (fun us => mergeAsks (inMerge base) us 0 &&
        ((st1 hA (inMerge base)).mergeUnits 0 (toBytes 8 5) false us).isSome) = true) ∧
    (∀ e ∈ ([(false, 2), (true, 1)] : List (Bool × Nat)),
      Issues hA (logging e.1) .normal [.x 2, .x 3, .x 0, .x 5] [] (st1 hA (logging e.1)) ∧ (st1 hA (logging e.1)).here.mrg.isSome = true ∧
      storeUnitsOk (st1 hA (logging e.1)) (fun us => mergeAsks (logging e.1) us e.2) = true) ∧
    (Issues hA (withMerge 256 base) .normal [.x 2, .x 3, .x 0, .x 5] [] (st1 hA (withMerge 256 base)) ∧
      storeUnitsOk (st1 hA (withMerge 256 base)) (fun us => mergeAsks (withMerge 256 base) us 0 &&
        ((st1 hA (withMerge 256 base)).mergeUnits 0 (toBytes 8 5) false us).isNone) = true) ∧
    (Issues hA base .normal [.x 2, .x 3, .x 0, .x 2, .x 3] [] (st1 hA base) ∧ ((st1 hA base).me.readPair (.x 2)).tag = true ∧
      okElems (passes (st1 hA base) (storePerms (st1 hA base).me true) kStc 16 16) = true) ∧
    (Issues hA base .illegal [.x 2, .x 3, .x 8, .x 9, .x 5] [] (st1 hA base) ∧ bits (((st1 hA base).me.getX 8).val) 55 48 = 0 ∧
      (st1 hA base).here.mrg = none ∧ Order.plain.ok = true ∧ okElems (passes (st1 hA base) [permStore] kMulti 1 8) = true) ∧
    (Issues hA badFan .illegal [.x 2, .x 3, .x 8, .x 9, .x 5] [] (st1 hA badFan) ∧ bits (((st1 hA badFan).me.getX 8).val) 55 49 ≠ 0) :=
  ⟨meets (by decide +kernel), meets (by decide +kernel), meets (by decide +kernel), meets (by decide +kernel), meets (by decide +kernel),
    meets (by decide +kernel), meets (by decide +kernel), meets (by decide +kernel), meets (by decide +kernel), meets (by decide +kernel),
    by intro e he; fin_cases he <;> exact meets (by decide +kernel), meets (by decide +kernel), meets (by decide +kernel),
    meets (by decide +kernel), meets (by decide +kernel)⟩

/-- The line of the pair x2, held by its slice; dirty there; dirty with every write-back slot in use; on its way through one. -/
def line2 : Nat := 0x10040 / 128
def slotsFull (s : State) : State := s.updSliceOf line2 (fun k => { k with wb := (List.range 16).map (fun i => (i, false)) })
def dirtied : State := (hold line2 base).updSliceOf line2 (fun k => { k with dirty := [line2] })
def leaving (s : State) : State := s.updSliceOf line2 (fun k => { k with wb := [(line2, false)] })
/-- What a state says of that line: a cache holds it dirty, a slot is free for it, it drains, no cache holds it, its eviction can go on. -/
def lineCase (s : State) : Bool × Bool × Bool × Bool × Bool :=
  let k := s.sliceOf line2
  (s.l1Dirty line2 || k.dirty.contains line2, s.slotFor line2, s.draining line2,
    !k.present.contains line2 && !k.collects.any (fun c => c.2.1 == line2) && !k.ovf.contains line2 && (s.keepers line2).isEmpty,
    (s.evictStep line2).isSome)

theorem witness_AtomicInstructions :
    (Issues hA (inMerge base) .illegal [.x 2, .x 3, .x 0, .x 5] [.x 5] (st1 hA (inMerge base)) ∧ (st1 hA (inMerge base)).here.mrg.isSome = true) ∧
    (Issues hA (noCap base) .illegal [.x 2, .x 3, .x 0, .x 5] [.x 5] (st1 hA (noCap base)) ∧
      passes (st1 hA (noCap base)) [permLoad, permStore, permAtomic] kAtomic 4 4 = .trap 1 1 0x10000) ∧
    (Issues hW semmed .illegal [.x 2, .x 3, .x 0, .x 5] [.x 5] (st1 hW semmed) ∧ (st1 hW semmed).here.mrg = none ∧
      okElems (passes (st1 hW semmed) [permLoad, permStore, permAtomic] kAtomic 4 4) = true) ∧
    Issues hA base .illegal [.x 2, .x 3, .x 0, .x 62, .x 63] [.x 62] (st1 hA base) ∧
    Issues hA base .illegal [.x 2, .x 3, .x 0, .v 31] [] (st1 hA base) ∧ Issues hA base .illegal [.x 2, .x 3, .x 0, .x 63] [] (st1 hA base) ∧
    (Issues hA queued .illegal [.x 2, .x 3, .x 0, .lq 1] [] (st1 hA queued) ∧ (st1 hA queued).me.getLq 1 = .val 0x123456789ABCDEF0FF :: []) ∧
    (([(base, false, true, false, true, true), (hold line2 base, false, true, false, false, true), (dirtied, true, true, false, false, true),
        (slotsFull dirtied, true, false, false, false, false), (leaving base, false, true, true, true, true)] :
        List (State × Bool × Bool × Bool × Bool × Bool)).all (fun e =>
      iss hA e.1 .illegal [.x 2, .x 3, .x 0] [] &&
      (match passes (st1 hA e.1) [permLoad] kLoad 1 1 with
        | .ok [⟨_, seg :: _⟩] used =>
          let s2 := (st1 hA e.1).touchAll 0 used
          !isScratch seg.addr && fwdAddr s2 seg.addr / 128 == line2 && decide (lineCase s2 = e.2) && s2.ecc.isEmpty
        | _ => false)) = true) ∧
    (let s := banked.self (fun c => c.writePair 2 (whole 0xFFFFFFFFFFFF0000))
     Issues hA s .illegal [.x 2, .x 3, .x 0] [] (st1 hA s) ∧
      (match passes (st1 hA s) [permLoad] kLoad 1 1 with | .ok [⟨_, seg :: _⟩] _ => isScratch seg.addr | _ => false) = true) :=
  ⟨meets (by decide +kernel), meets (by decide +kernel), meets (by decide +kernel), issues_of (by decide +kernel), issues_of (by decide +kernel),
    issues_of (by decide +kernel), meets (by decide +kernel), by decide +kernel, meets (by decide +kernel)⟩

/-- States in which a move of the ordering machine is enabled: a store, a load beside a copy, beside a covering store, an atomic; an
invalidation in flight; a slice with an open fill and one with a write-back slot in use; a directory reply on its way. -/
def storing : State := { stored with ev := .access ⟨0, 0⟩ 0 0 }
def loading : State := { run (.ld hA ⟨.x 20, .x 2, .x 0, 0, 0, 3, 0⟩) base with ev := .access ⟨0, 0⟩ 0 0 }
def copied : State := loading.updCore 0 (fun c => { c with
  copies := [(line2, some ⟨7, 0, false, [], 0, []⟩)], l1 := { c.l1 with dl := [line2] } })
def holed : State := loading.updDev (fun d => { d with memmap := 0 })
def forwarding : State := { run (.ld hA ⟨.x 20, .x 2, .x 0, 0, 0, 3, 8⟩) stored with ev := .access ⟨0, 0⟩ 0 0 }
def adding : State := { run (.amoAdd hA ⟨.x 6, .x 2, .x 0, 0, 0, 2, 8⟩) base with ev := .access ⟨0, 0⟩ 0 0 }
def reducing : State := { run (.stRedAdd hA ⟨.x 6, .x 2, .x 0, 0, 0, 2, 8⟩) base with ev := .access ⟨0, 0⟩ 0 0 }
def invalidating : State := { copied with invals := [⟨1, line2, 0⟩], dir := [(line2, [0])], ev := .two 1 0 }
/-- A store that has asked for its line. -/
def filling : State := { move .performStore (.access ⟨0, 0⟩ 0 0) stored with ev := .one line2 }
def evicting : State := { base.updCore 0 (fun c => { c with l1 := { c.l1 with vict := [line2] } }) with ev := .two 0 line2 }
def replying : State := { base with flights := [.dir 0 3 (List.replicate 64 0)], ev := .one 0 }

def isGo (r : Ask) : Bool := match r with | .go _ => true | _ => false
def isWait (r : Ask) : Bool := match r with | .wait _ => true | _ => false
def isNo (r : Ask) : Bool := match r with | .no => true | _ => false

/-- What the read moves ask, whatever the operation. -/
def mayRead (s : State) (op : AccOp) (f : Ask → Bool) : Bool :=
  match s.me.pend with
  | [e] => (match e.units with
    | [x] => x.got.isNone && x.off == 0 && x.len == e.size && decide (0 < e.size) && e.ovl.isEmpty && decide (e.op = op) &&
      (match e.dest with | .x n => decide (n ≠ 0) | _ => false) &&
      s.mayPerform s.cur e.seq e.ord x.addr x.len true (decide (op ≠ .load)) && noSbOverlap s.me e.seq x.addr x.len &&
      f (s.askAccess s.cur (.unit s.cur 0 e.id 0) (fwdAddr s x.addr) x.pol (decide (op ≠ .load)) false) && decide (x.pol ≤ 2)
    | _ => false)
  | _ => false
/-- The same of a store that reduces at its home. -/
def mayReduce (s : State) (op : Nat) : Bool :=
  match s.me.pend with
  | [e] => (match e.units with
    | [x] => x.got.isNone && decide (e.op = .red op) && decide (e.dest = .none) && s.mayPerform s.cur e.seq e.ord x.addr x.len false true &&
      noSbOverlap s.me e.seq x.addr x.len && isGo (s.askAccess s.cur (.unit s.cur 0 e.id 0) (fwdAddr s x.addr) x.pol true false)
    | _ => false)
  | _ => false
/-- The same of a store. -/
def mayStore (s : State) (f : Ask → Bool) : Bool :=
  match s.me.sb with
  | [e] => (match e.units with
    | [x] => !x.done && x.off == 0 && e.data.length == x.len && !e.whole && !e.tag &&
      s.mayPerform s.cur e.seq e.ord x.addr x.len false true && noSbOverlap s.me e.seq x.addr x.len &&
      f (s.askAccess s.cur (.unit s.cur 1 e.seq e.firstAddr) (fwdAddr s x.addr) x.pol true false)
    | _ => false)
  | _ => false
/-- The place of the access under the machine's map: no hole, no window, no poison. -/
def plainPlace (s : State) (a : Nat) : Bool :=
  !reservedPA s (s.partOf 0) false a && (windowOf s a).isNone && !s.poisoned a && s.ecc.isEmpty

theorem witness_OrderingMoves :
    (mayStore (hold line2 storing) isGo = true ∧ plainPlace storing 0x10048 = true ∧ mayStore storing isWait = true ∧
      mayStore { filling with ev := storing.ev } isNo = true ∧
      (let s := storing.updDev (fun d => { d with memmap := 0 })
       mayStore s isGo = true ∧ reservedPA s (s.partOf 0) false 0x10048 = true)) ∧
    (mayRead (hold line2 loading) .load isGo = true ∧ plainPlace loading 0x10040 = true ∧ mayRead loading .load isWait = true ∧
      (hold line2 (loading.setPoison 0x10040 true)).poisoned 0x10040 = true ∧ mayRead (hold line2 (loading.setPoison 0x10040 true)) .load isGo = true) ∧
    (mayRead holed .load isGo = true ∧ reservedPA holed (holed.partOf 0) false 0x10040 = true) ∧
    (mayRead copied .load (fun _ => true) = true ∧ (copied.core 0).copy line2 = some ⟨7, 0, false, [], 0, []⟩ ∧ isScratch 0x10040 = false ∧
      (copied.core 0).l1.dl.contains line2 = true) ∧
    ((match forwarding.me.pend with
      | [e] => forwarding.mayPerform forwarding.cur e.seq e.ord 0x10048 8 true false && (match youngestOverlap forwarding.me e.seq 0x10048 8 with
        | some (_, y) => decide (y.addr ≤ 0x10048) && decide (0x10048 + 8 ≤ y.addr + y.len)
        | none => false)
      | _ => false) = true) ∧
    (mayRead (hold line2 adding) (.amo 0) isGo = true ∧ plainPlace adding 0x10048 = true) ∧
    (mayReduce (hold line2 reducing) 0 = true ∧ plainPlace reducing 0x10048 = true) ∧
    (0 ≠ allCores ∧ invalidating.invals.find? (fun v => v.wid == 1 && v.target == 0) = some ⟨1, line2, 0⟩) ∧
    ((copied.core 0).copy line2).isSome = true ∧
    (let k := filling.sliceOf line2
     (filling.updSliceOf line2 filling.sweep).sliceOf line2 = k ∧ (match k.entry? line2 with
      | some e => e.alloc && !e.filled && e.reqs.any (fun r => !r.pref)
      | none => false) = true ∧ (k.present.filter (fun l => decide (l % 1024 = line2 % 1024))).length < 16 ∧
      notReadyPA filling none true (line2 * 128) = false ∧ filling.ecc = []) ∧
    ((leaving base).sliceOf line2).wb.find? (fun e => decide (e.1 = line2)) = some (line2, false) ∧
    ((evicting.core 0).l1.vict.contains line2 = true ∧ (evicting.sliceOf line2).wb.length < 16) ∧
    (replying.flights[0]? = some (.dir 0 3 (List.replicate 64 0)) ∧ replying.inOrder 0 = true) := by decide +kernel

/-! ### Banks, proposals, engines, exchange -/

/-- A core with bank 7 in slot 3, a core 1 of the same domain with an empty slot, and one of another domain. -/
def bankState : State :=
  ((base.updCore 0 (fun c => c.setSlot 3 ⟨true, false, false, 7⟩)).updCore 1 (fun c => { c with slotDom := 5 })).updCluster 0
    (fun k => { k with taken := [7] })
def allTaken : State := base.updCluster 0 (fun k => { k with taken := List.range 2048 })
def withPair (n : Nat) (k : Cap) (s : State) : State := s.self (fun c => c.writePair n k)
/-- A load of the bank in flight. -/
def through : State := run (.ld hA ⟨.x 20, .x 10, .x 0, 0, 0, 3, 0⟩) (withPair 10 (whole 0xFFFFFFFFFFFB0000) bankState)
/-- A load-data queue that names a bank. -/
def lqNamed (n : Nat) : State := bankState.self (fun c => c.putLq 1 [.val (BitVec.ofNat 1024 n)])
/-- The rectangle of the columns 0 and 1 of row 0. -/
def ring2 : Word := 0x00010000

def bankAuthOf (s : State) (perm slot : Nat) : Option Nat :=
  capCheck (s.me.readPair (.x 2)) [perm] (BitVec.ofNat 64 (0xFFFFFFFFFFF80000 + slot * 65536)) 65536

theorem all_taken (n : Nat) : (allTaken.cluster 0).isFree n = false := by
  have h : (allTaken.cluster 0).taken = List.range 2048 := by decide +kernel
  simp only [Cluster.isFree, h]
  by_cases hn : n < 2048
  · simp [hn, List.mem_range]
  · simp [hn]

theorem witness_BankInstructions :
    (Issues hA (noCap base) .illegal [.x 2, .x 3, .x 0] [.p 1] (st1 hA (noCap base)) ∧ (st1 hA (noCap base)).here.mrg = none ∧ (7 : BitVec 4).toNat ≤ 7 ∧
      ([permStore, permLoad, permGive] : List Nat).all (fun p => bankAuthOf (st1 hA (noCap base)) p 7 == some 1) = true) ∧
    (Issues hA base .illegal [.x 2, .x 3, .x 0] [.p 1] (st1 hA base) ∧ 7 < (8 : BitVec 4).toNat ∧ (st1 hA base).here.mrg = none) ∧
    (Issues hA bankState .illegal [.x 2, .x 3, .x 0] [.p 1] (st1 hA bankState) ∧
      ([permStore, permLoad, permGive] : List Nat).all (fun p => bankAuthOf (st1 hA bankState) p 3 == none && bankAuthOf (st1 hA bankState) p 7 == none) = true ∧
      ((st1 hA bankState).here.slot 3).isEmpty = false ∧ ((st1 hA bankState).here.slot 7).isEmpty = true ∧ ((st1 hA bankState).here.slot 7).valid = false ∧
      ((st1 hA bankState).here.slot 3).valid = true ∧ (st1 hA bankState).proposers 0 7 = [] ∧ (bankState.cluster 0).isFree 7 = false ∧
      (bankState.cluster 0).isFree 2047 = true ∧ (st1 hA bankState).flightsThrough 0 0 7 = [] ∧
      ((st1 hA bankState).core 1).slotDom = (st1 hA bankState).here.slotDom ∧ (((st1 hA bankState).core 1).slot 7).isEmpty = true ∧
      (((st1 hA bankState).core 0).slot 3).isEmpty = false ∧ ((st1 hA bankState).core 255).slotDom ≠ (st1 hA bankState).here.slotDom) ∧
    (Issues hA allTaken .illegal [.x 2, .x 3, .x 0] [.p 1] (st1 hA allTaken) ∧ (allTaken.here.slot 0).isEmpty = true) ∧
    (∀ n, (allTaken.cluster 0).isFree n = false) ∧
    (Issues hA through .illegal [.x 2, .x 3, .x 0] [.p 1] (st1 hA through) ∧ (through.here.slot 3).valid = true ∧
      (st1 hA through).flightsThrough 0 0 7 ≠ [] ∧ bankAuthOf through permLoad 3 = none) ∧
    (Issues hA (setX 9 ring2 base) .illegal [.x 2, .x 3, .x 9] [.p 1] (st1 hA (setX 9 ring2 base)) ∧
      ringOk ((st1 hA (setX 9 ring2 base)).me.getX 9).val 0 = true ∧ bankAuthOf (st1 hA (setX 9 ring2 base)) permGive 0 = none) ∧
    (Issues hA (lqNamed 2047) .illegal [.x 2, .x 3, .lq 1] [.p 1] (st1 hA (lqNamed 2047)) ∧
      ((st1 hA (lqNamed 2047)).me.readS (.lq 1)).1.toNat ≤ 2047 ∧ ((lqNamed 2047).cluster 0).isFree 2047 = true) ∧
    (Issues hA (lqNamed 2048) .illegal [.x 2, .x 3, .lq 1] [.p 1] (st1 hA (lqNamed 2048)) ∧
      2047 < ((st1 hA (lqNamed 2048)).me.readS (.lq 1)).1.toNat) :=
  ⟨meets (by decide +kernel), meets (by decide +kernel), meets (by decide +kernel), meets (by decide +kernel), all_taken, meets (by decide +kernel),
    meets (by decide +kernel), meets (by decide +kernel), meets (by decide +kernel)⟩

/-- A give, a free and a bank to zero; two arrivals at a ring that disagree; two drains of a rotation. -/
def giving : State := { run (.bgive hA ⟨.p 1, .x 2, .x 0, false, 9, 1, 7, 3⟩) bankState with ev := .two 0 3 }
def freeing : State := { run (.bfree hA ⟨.p 1, .x 2, .x 0, false, 0, 0, 0, 3⟩) bankState with ev := .two 0 3 }
def zeroing : State := { bankState.updCluster 0 (fun k => { k with zeroing := [7] }) with ev := .two 0 7 }
def ringed : State :=
  let r : Nat → Arrival := fun g => ⟨.ring ring2, ⟨g, 0⟩, [0, 1], wd g, if g = 0 then 1 else 0, Cap.null, false, false, [], []⟩
  { bankState with arrivals := [r 0, r 1], ev := .one 0 }
/-- A ring of one core, and one of two that agree on slot 3 and their direction. -/
def ringOf (ms : List Nat) : State :=
  let s := (bankState.updCore 1 (fun _ => core0)).updCtx ⟨1, 0⟩ (fun c => { c with busy := some (.barrier hA (.p 1)) })
  { setBusy (.barrier hA (.p 1)) s with
    arrivals := ms.map (fun g => ⟨.ring ring2, ⟨g, 0⟩, ms, 3, 0, Cap.null, false, false, [], []⟩), ev := .one 0 }
/-- What the clause on a rotation asks of a member. -/
def agrees (s : State) (r0 : Arrival) (m : Nat) : Bool := match s.ringArrival m with
  | some r => r.members == r0.members && r.w0 == r0.w0 && r.w1 == r0.w1 && (s.core m).slotDom == (s.core 0).slotDom &&
      decide ((s.ctx r.agent).busy = some (.barrier hA (.p 1))) && (s.proposers 0 ((s.core m).slot 3).bank).isEmpty
  | none => false
/-- Bank 7 with an error in its word 0, and the words of its group that a rebuild reads. -/
def erring (l : List (Nat × Nat)) : State := l.foldl (fun s e => s.setErr e.1 e.2) bankState
def rotating : State :=
  let d : Nat → Drain := fun g => ⟨3, 3, 7 + g, 1 - g, 3, 0, 0, true, 0, 0, [(0, 0, 0), (1, 0, 0)]⟩
  { (bankState.updCore 0 (fun c => { c with drains := [d 0] })).updCore 1 (fun c => { c with drains := [d 1] }) with ev := .one 0 }

theorem witness_BankEvents :
    (∃ d, (giving.core 0).drains.find? (fun d => d.kind == 0 && d.slot == 3) = some d ∧ giving.bankBusy 0 d.bank = false ∧ d.tgt ≠ 0) ∧
    (∃ d, (freeing.core 0).drains.find? (fun d => d.slot == 3 && !(d.kind == 0 || d.kind == 3) && freeing.drainOver 0 d) = some d ∧ d.kind = 1) ∧
    (7 ∈ (zeroing.cluster 0).zeroing ∧ 7 < 2048 ∧ 7 ∉ (zeroing.cluster 0).failing) ∧
    (∃ r0, ringed.ringArrival 0 = some r0 ∧ (∀ m ∈ r0.members, (ringed.ringArrival m).isSome = true) ∧
      ∃ m r, m ∈ r0.members ∧ ringed.ringArrival m = some r ∧ r.w1 ≠ r0.w1) ∧
    (∃ d e, (rotating.core 0).drains.find? (fun d => d.kind == 3) = some d ∧ (rotating.core 1).drains.find? (fun d => d.kind == 3) = some e ∧
      d.waits.map (fun w => w.1) = [0, 1] ∧ d.tgt = 1 ∧ e.tgt = 0 ∧ d.bank < 2048 ∧ e.bank < 2048 ∧
      rotating.bankBusy 0 d.bank = false ∧ rotating.bankBusy 0 e.bank = false) ∧
    (([[0], [0, 1]] : List (List Nat)).all (fun ms => match (ringOf ms).ringArrival 0 with
      | some r0 => r0.members == ms && ms.all (agrees (ringOf ms) r0)
      | none => false) = true) ∧
    ((0 < 8 ∧ 7 < 2048 ∧ 65528 < 65536 ∧ 65528 % 8 = 0) ∧ bankMates 7 = [4, 5, 6] ∧
      (erring [(parityAddr 0 1 0, 2)]).errAt (parityAddr 0 (7 / 4) 0) = 2 ∧
      (∃ k ∈ bankMates 7, (erring [(bankAddr 0 6 0, 2)]).errAt (bankAddr 0 k 0) = 2) ∧
      ((erring [(bankAddr 0 7 0, 2)]).errAt (parityAddr 0 (7 / 4) 0) ≠ 2 ∧
        ∀ k ∈ bankMates 7, (erring [(bankAddr 0 7 0, 2)]).errAt (bankAddr 0 k 0) ≠ 2)) := by
  refine ⟨⟨⟨0, 3, 7, 1, 7, 9, 0, true, 0, 0, []⟩, ?_⟩, ⟨⟨1, 3, 7, 0, 0, 0, 0, true, 0, 0, []⟩, ?_⟩, ?_,
    ⟨⟨.ring ring2, ⟨0, 0⟩, [0, 1], 0, 1, Cap.null, false, false, [], []⟩, ?_, ?_, 1,
      ⟨.ring ring2, ⟨1, 0⟩, [0, 1], 1, 0, Cap.null, false, false, [], []⟩, ?_⟩,
    ⟨⟨3, 3, 7, 1, 3, 0, 0, true, 0, 0, [(0, 0, 0), (1, 0, 0)]⟩, ⟨3, 3, 8, 0, 3, 0, 0, true, 0, 0, [(0, 0, 0), (1, 0, 0)]⟩, ?_⟩, ?_, ?_⟩ <;>
    decide +kernel

/-- The draw units ready, and a region open with ticket 0 of stream 3. -/
def drawing (s : State) : State := s.updDev (fun d => { d with rdy := 0x04000000000000 })
def region0 (d : Option Nat) : Region := ⟨0x20000, 0x20080, [5], [⟨0x10040 / 128, 0xF, 0x04030201, 0, false⟩], [], 1, d⟩
def proposing (d : Option Nat) : State :=
  drawing (base.self (fun c => { c with region := some (region0 d), prgn := ⟨true, true, false, 3, 0, 0⟩ }))
def streamed (f : Stream → Stream) (s : State) : State := s.updStream 0 3 f
/-- A publication that HEAD has passed wrote a line that the region read. -/
def replaying : State := streamed (fun q => { q with pubs := [(9, 2, [5])] }) (proposing none)
def spent : State := streamed (fun q => { q with tbl := true }) (proposing none)
/-- A load in flight at the instruction. -/
def flyingLoad : Access := ⟨1, 0, .load, ⟨true, false, deviceScope, false⟩, 8, [⟨0x10040, 8, 0, 0, none, false, false⟩], [], [], .v 9, [], none, []⟩
/-- A publication that has asked for its line and does not hold it yet. -/
def publishing5 : State := match (st1 hA (proposing (some 5))).askLines [(⟨0, 0⟩, line2)] with
  | .wait u => u.self (fun c => { c with busy := some (.publish hA (.p 1)) })
  | _ => State.reset

theorem witness_ProposalInstructions :
    (atLast.me.slot ≠ 0 ∧ (Issues hA base .illegal [] [] (st1 hA base) ∧ base.me.slot = 0 ∧ hA.si = 0 ∧ base.me.prgn.mrg = false ∧ base.me.prgn.tv = false)) ∧
    (base.psq 3).turn base.dev.cyc base.cur = true ∧
    (let s := streamed (fun q => { q with tookAt := (1, 16) }) base
     Issues hA s .illegal [] [] (st1 hA s) ∧ s.me.slot = 0 ∧ s.me.prgn.mrg = false ∧ s.me.prgn.tv = false ∧ (s.psq 3).turn s.dev.cyc s.cur = false) ∧
    (let s := base.self (fun c => { c with prgn := ⟨false, true, false, 3, 1, 7⟩ })
     Issues hA s .illegal [] [] (st1 hA s) ∧ s.me.prgn.mrg = false ∧ s.me.prgn.tv = true ∧ s.me.prgn.strm = 3 ∧ s.me.prgn.strm ≠ 15) ∧
    (Issues hA base .closes [] [] (st1 hA base) ∧ base.me.region = none) ∧
    (Issues hW (proposing none |>.updCore 0 (fun c => c.setSem 9 ⟨4, false⟩)) .closes [] [] (st1 hW (proposing none |>.updCore 0 (fun c => c.setSem 9 ⟨4, false⟩))) ∧
      (proposing none).me.region.isSome = true) ∧
    (Issues hA inRegion .closes [.x 4, .x 0] [.p 1] (st1 hA inRegion) ∧ inRegion.me.region = some ⟨0x20000, 0x20080, [], [], [], 1, none⟩ ∧
      ((st1 hA inRegion).me.scopeArg (.x 0)).ok = true ∧ (st1 hA inRegion).drawReady = false) ∧
    (Issues hA replaying .closes [.x 4, .x 0] [.p 1] (st1 hA replaying) ∧ replaying.me.region = some (region0 none) ∧ (st1 hA replaying).drawReady = true ∧
      (replaying.psq 3).head = replaying.me.prgn.ticket ∧ mustReplay (replaying.psq 3) (region0 none) = true) ∧
    (Issues hA spent .closes [.x 4, .x 0] [.p 1] (st1 hA spent) ∧ mustReplay (spent.psq 3) (region0 none) = false ∧ (spent.psq 3).tbl = true ∧
      (spent.psq 3).tidx = (spent.psq 3).tcnt) ∧
    (Issues hA (proposing none) .closes [.x 0, .x 0] [.p 1] (st1 hA (proposing none)) ∧ ((proposing none).psq 3).tbl = false ∧
      (let k := (((proposing none).psq 3).draw 3 0).1; verdict 0 k = 2 ∧ (2 : Nat) ≠ 0 ∧ k < 2 ^ 24)) ∧
    (Issues hA (proposing (some 5)) .closes [.x 0, .x 0] [.p 1] (st1 hA (proposing (some 5))) ∧ (proposing (some 5)).me.region = some (region0 (some 5)) ∧
      relDone (st1 hA (proposing (some 5))) ⟨0, 0⟩ ((st1 hA (proposing (some 5))).me.scopeArg (.x 0)) (st1 hA (proposing (some 5))).me.seq = true ∧
      noLoadOverlap (st1 hA (proposing (some 5))).me (region0 (some 5)).lines = true ∧ (proposing (some 5)).dev.migs = [] ∧
      (∀ i, i < 128 → reservedPA (proposing (some 5)) ((proposing (some 5)).partOf 0) false (0x10040 / 128 * 128 + i) = false)) ∧
    (([(proposing (some 5), isWait), (hold line2 (proposing (some 5)), isGo), (publishing5, isNo)] : List (State × (Ask → Bool))).all (fun e =>
      iss hA e.1 .closes [.x 0, .x 0] [.p 1] &&
        e.2 ((st1 hA e.1).askLines ((region0 (some 5)).lines.map (fun b => (e.1.cur, b.line))))) = true) ∧
    (let s := (proposing (some 5)).self (fun c => { c with pend := [{ flyingLoad with units := [⟨0x10000, 8, 0, 0, none, false, false⟩] }], seq := 1 })
     Issues hA s .closes [.x 0, .x 0] [.p 1] (st1 hA s) ∧ noLoadOverlap (st1 hA s).me (region0 (some 5)).lines = false) ∧
    (Issues hA (drawing base) .illegal [.x 4, .x 5] [.p 1] (st1 hA (drawing base)) ∧ (st1 hA (drawing base)).drawReady = true ∧
      ((drawing base).psq 3).head = ((drawing base).psq 3).next ∧ (64 : BitVec 7).toNat ≤ 64) ∧
    (let s := streamed (fun q => { q with next := 1 }) (drawing base)
     Issues hA s .illegal [.x 4, .x 5] [.p 1] (st1 hA s) ∧ (s.psq 3).head ≠ (s.psq 3).next) ∧
    (let bs := List.replicate 256 0xFF |>.mapIdx (fun i b => if i % 4 = 3 then 0 else b)
     let s := setBusy (.read bs []) (drawing base)
     Issues hA s .illegal [.x 2, .x 3, .x 5] [.p 1] (st1 hA s) ∧ (st1 hA s).me.busy = some (.read bs []) ∧
      ∀ i, i < (64 : BitVec 7).toNat → ofBytes ((bs.drop (4 * i)).take 4) < 2 ^ 24) ∧
    (([0, 65] : List Nat).all (fun n => passes (st1 hA (noCap (drawing base))) [permLoad] kLoad 1 (4 * n) true == .trap 1 1 0x10000) = true ∧
      (iss hA (noCap (drawing base)) .illegal [.x 2, .x 3, .x 5] [.p 1] && (st1 hA (noCap (drawing base))).drawReady) = true ∧
      okElems (passes (st1 hA (drawing base)) [permLoad] kLoad 1 0 true) = true) ∧
    (Issues hA (drawing base) .illegal [] [.x 4] (st1 hA (drawing base)) ∧ (st1 hA (drawing base)).drawReady = true) ∧
    Issues hW semmed .normal [] [.sq 1] (st1 hW semmed) :=
  ⟨⟨by decide +kernel, meets (by decide +kernel)⟩, by decide +kernel, meets (by decide +kernel), meets (by decide +kernel), meets (by decide +kernel), meets (by decide +kernel), meets (by decide +kernel),
    meets (by decide +kernel), meets (by decide +kernel), meets (by decide +kernel), meets (by decide +kernel), by decide +kernel,
    meets (by decide +kernel), meets (by decide +kernel), meets (by decide +kernel), meets (by decide +kernel), by decide +kernel, meets (by decide +kernel),
    issues_of (by decide +kernel)⟩

/-- A format for a copy of FP32 elements, and one whose scope is the register x9. -/
def cpyO (b : Operand) (r : Bool) : FmtE := ⟨.x 7, .x 8, b, false, false, false, 0, 8, 8, 0, 3, r, false⟩
/-- Eight commands in channel 3. -/
def queueFull : State :=
  (List.range 8).foldl (fun s _ => run (.cpy hA (cpyO (.x 0) false)) (s.self (fun c => { c with slot := 0 }))) (asAgent ⟨0, 12⟩ base)

def pendLoad : State := base.self (fun c => { c with acqs := [], pend := [flyingLoad], seq := 1 })

theorem witness_EngineCommands :
    (let s := badScope (asAgent ⟨0, 12⟩ base)
     Issues hA s .illegal (groupOps (.x 8) 8 ++ [.x 9]) [] (st1 hA s) ∧ (s.me.cmdOrder (cpyO (.x 9) true)).ok = false) ∧
    (let s := asAgent ⟨0, 12⟩ base
     Issues hA s .illegal (groupOps (.x 56) 8 ++ [.x 0]) [] (st1 hA s) ∧ s.me.level = .user ∧ (s.me.cmdOrder (cpyO (.x 0) false)).ok = true ∧
      (s.here.queueOf 3).length < 8) ∧
    (Issues hA queueFull .illegal (groupOps (.x 8) 8 ++ [.x 0]) [] (st1 hA queueFull) ∧ 8 ≤ (queueFull.here.queueOf 3).length) ∧
    (let s := asAgent ⟨0, 11⟩ (base.updCore 0 (fun c => c.setSem 9 ⟨4, false⟩))
     Issues hW s .illegal (groupOps (.x 60) 4 ++ [.x 0]) [] (st1 hW s) ∧ (s.here.queueOf 4).length < 8) ∧
    (Issues hA base .normal [] [.sq 0] (st1 hA base) ∧
      (orderOk (st1 hA base) ⟨0, 0⟩ (st1 hA base).me.seq { Order.cluster 0 with acq := true, rel := false } &&
        fencesOk (st1 hA base) ⟨0, 0⟩ (st1 hA base).me.seq true false) = true) ∧
    (let s := base.self (fun c => { c with fences := [⟨0, Order.device, 0, 0, none, hA⟩], seq := 1 })
     Issues hA s .normal [] [.x 4] (st1 hA s) ∧ fencesOk (st1 hA s) ⟨0, 0⟩ (st1 hA s).me.seq true false = false) ∧
    (let s := pendLoad
     Issues hA s .normal [] [.x 4] (st1 hA s) ∧
      orderOk (st1 hA s) ⟨0, 0⟩ (st1 hA s).me.seq { Order.cluster 0 with acq := true, rel := false } = false) :=
  ⟨meets (by decide +kernel), meets (by decide +kernel), meets (by decide +kernel), meets (by decide +kernel), meets (by decide +kernel),
    meets (by decide +kernel), meets (by decide +kernel)⟩

def msg0 : Msg := ⟨List.replicate 64 3, false, 0, 0, 7⟩
/-- A full queue on core 1, of core 0's domain; a phase in its cycle 2; a group of cores 0 and 1, whose ranks stand at 0x10200. -/
def recvFull : State := base.updCore 1 (fun c => { c with slotDom := 5, recvq := List.replicate 64 msg0 })
def received (n : Nat) (ov : List OvMsg) : State := base.updCore 0 (fun c => { c with recvq := List.replicate n msg0, ovq := ov })
/-- Behind the queue an overflow entry at 0x10300, and what its line answers. -/
def over1 (n : Nat) : State := received n [⟨0x10300, false, 0, 0, 0⟩]
def overAsk (n : Nat) (s : State) : Ask :=
  let t := (st1 hA s).updCore 0 (fun c => { c with recvq := List.replicate (n - 1) msg0 })
  t.devGet true (t.devLines 0x10300 64)
def phased (now : Nat) : State :=
  (base.updCore 0 (fun c => { c with phase := some ⟨10, 5, [0, 1], [], [1], 0⟩ })).updDev (fun d => { d with cyc := now })
/-- A block of one `xmit`, and core 0 with a helper that waits there to drive phase cycle 2 before another does. -/
def xmitBlock : BitVec 512 := (0x00000020 : BitVec 32) ++ (0 : BitVec 384) ++ (0xA0C004700000000000080000 : BitVec 96)
def driving : State := (phased 12).updCtx ⟨0, 1⟩ (fun _ => { ctx0 with blk := some xmitBlock, busy := some (.late 2) })
def grouped : State :=
  (base.updDev (fun d => { d with groups := [(9, ⟨true, 2, 0x10200⟩)] })).setBytes 0x10200 (toBytes 4 0x1F000000 ++ toBytes 4 0x1F000001)

/-- A quiesce holds the line of the ranks. -/
def unlisted : State := heldBack (0x10200 / 128) grouped

theorem witness_ExchangeInstructions :
    (Issues hA base .illegal [.v 1, .x 4] [.p 1] (st1 hA base) ∧
      ((0x20000 : Word).extractLsb' 17 47 ≠ 0 ∧ (0x10001 : Word).extractLsb' 17 47 = 0 ∧ (0x10001 : Word).getLsbD 16 = true ∧
        (0x10001 : Word).extractLsb' 0 16 ≠ 0 ∧ (0x8700 : Word).extractLsb' 16 48 = 0 ∧ (0x8700 : Word).getLsbD 15 = true ∧
        (0x07FF : Word).extractLsb' 15 49 = 0 ∧ isSvc 0 = false)) ∧
    (let s := setX 9 0x8000 (svcAt .supervisor base)
     Issues hA s .illegal [.v 1, .x 9] [.p 1] (st1 hA s) ∧ isSvc s.cur.gid = true ∧ (st1 hA s).me.level ≠ .user ∧
      ((0x8000 : Word).extractLsb' 8 3).toNat = gidCl s.cur.gid) ∧
    (Issues hA (setX 9 1 recvFull) .illegal [.v 1, .x 9] [.p 1] (st1 hA (setX 9 1 recvFull)) ∧
      ((st1 hA (setX 9 1 recvFull)).core 1).slotDom = ((st1 hA (setX 9 1 recvFull)).core 0).slotDom ∧
      64 ≤ ((st1 hA (setX 9 1 recvFull)).core 1).recvq.length ∧
      ((st1 hA (setX 9 1 recvFull)).core 1).mqosSize.toNat ≤ ((st1 hA (setX 9 1 recvFull)).core 1).ovq.length) ∧
    (Issues hA (setX 9 1 bankState) .illegal [.v 1, .x 9] [.p 1] (st1 hA (setX 9 1 bankState)) ∧
      ((st1 hA (setX 9 1 bankState)).core 1).slotDom = ((st1 hA (setX 9 1 bankState)).core 0).slotDom ∧
      ((st1 hA (setX 9 1 bankState)).core 1).recvq.length < 64 ∧ ((st1 hA (setX 9 1 bankState)).core 2).slotDom ≠ ((st1 hA (setX 9 1 bankState)).core 0).slotDom) ∧
    (Issues hA base .illegal [] [.v 2] (st1 hA base) ∧ ((st1 hA base).core 0).recvq = [] ∧ ((st1 hA base).core 0).ovq = []) ∧
    (Issues hA (received 1 []) .illegal [] [.v 2] (st1 hA (received 1 [])) ∧ ((st1 hA (received 1 [])).core 0).recvq = msg0 :: [] ∧
      ((st1 hA (received 1 [])).core 0).ovq = []) ∧
    (([0, 64] : List Nat).all (fun n => ([(over1 n, isGo), (heldBack (0x10300 / 128) (over1 n), isNo),
        (owned (0x10300 / 128) (heldBack (0x10300 / 128) (over1 n)), isWait)] : List (State × (Ask → Bool))).all
      (fun e => iss hA e.1 .illegal [] [.v 2] && decide (((st1 hA e.1).core 0).recvq = List.replicate n msg0) &&
        decide (((st1 hA e.1).core 0).ovq = [⟨0x10300, false, 0, 0, 0⟩]) && e.2 (overAsk n e.1))) = true) ∧
    (plainPlace base 0x10300 = true ∧ fwdAddr base 0x10300 = 0x10300) ∧
    (Issues hA base .illegal [.x 9] [.v 2] (st1 hA base) ∧ (255 : BitVec 8) ≠ 0 ∧ ((st1 hA base).me.scopeArg (.x 9)).ok = true ∧
      ((st1 hA base).me.scopeArg (.x 9)).scope.extractLsb' 32 8 = 0 ∧ (st1 hA base).me.inTime = false ∧ (st1 hA base).lateFor 0 0 = true) ∧
    (Issues hA (phased 12) .illegal [.x 9] [.v 2] (st1 hA (phased 12)) ∧ (st1 hA (phased 12)).lateFor 0 2 = false ∧ (st1 hA (phased 12)).lateFor 0 1 = true ∧
      (st1 hA (phased 12)).cycleCome 0 4 true = false ∧ (st1 hA (phased 12)).cycleCome 0 2 false = true ∧ (st1 hA (phased 12)).cycleCome 0 4 false = false) ∧
    (let s := setBusy (.late 4) (phased 15)
     Issues hA s .illegal [.x 9] [.v 2] (st1 hA s) ∧ (st1 hA s).me.inTime = true ∧ (st1 hA s).cycleCome 0 4 true = true) ∧
    (Issues hA (phased 12) .illegal [.v 1] [] (st1 hA (phased 12)) ∧ ((st1 hA (phased 12)).core 0).phase = some ⟨10, 5, [0, 1], [], [1], 0⟩ ∧
      (1 ∈ [1]) ∧ (2 ∉ [1])) ∧
    (let s := asAgent ⟨0, 2⟩ driving
     Issues hA s .illegal [.v 1] [] (st1 hA s) ∧ (st1 hA s).cycleCome 0 2 false = true ∧ (st1 hA s).drivesFirst s.cur 2 = true ∧
      (st1 hA s).drivesFirst ⟨0, 1⟩ 2 = false) ∧
    (Issues hA grouped .illegal [.x 2, .x 3, .x 0] [.x 4] (st1 hA grouped) ∧ (Sparse.look Group.reset (st1 hA grouped).dev.groups 8).valid = false ∧
      (let grp := Sparse.look Group.reset (st1 hA grouped).dev.groups 9
       grp.valid = true ∧ (st1 hA grouped).devMay true ((st1 hA grouped).devLines grp.list (4 * grp.n)) = true ∧
        (st1 hA unlisted).devMay true ((st1 hA unlisted).devLines grp.list (4 * grp.n)) = false ∧
        iss hA unlisted .illegal [.x 2, .x 3, .x 0] [.x 4] = true ∧ some 0 ∈ (st1 hA grouped).groupList 0 9 ∧ ¬ grp.n ≤ 1 ∧ grp.n ≤ 2) ∧
      okElems (passes (st1 hA grouped) [permLoad] kLoad 1 4) = true ∧ (st1 hA grouped).me.pend = [] ∧ (st1 hA grouped).me.sb = []) ∧
    (([(base, true), (loadedOnce, false)] : List (State × Bool)).all (fun e => match passes e.1 [permStore] kStore 1 4 with
      | .ok parts _ => (parts.flatMap (fun p => p.segs.map (fun x => (x.addr, x.len)))).all (fun x =>
          noPendOverlap e.1.me e.1.me.seq x.1 x.2 && noSbOverlap e.1.me e.1.me.seq x.1 x.2) == e.2
      | _ => false) = true) :=
  ⟨meets (by decide +kernel), meets (by decide +kernel), meets (by decide +kernel), meets (by decide +kernel), meets (by decide +kernel),
    meets (by decide +kernel), by decide +kernel, by decide +kernel, meets (by decide +kernel), meets (by decide +kernel), meets (by decide +kernel),
    meets (by decide +kernel), meets (by decide +kernel), meets (by decide +kernel), by decide +kernel⟩

/-! ### Launches, tasks, time windows -/

/-- A descriptor of one stage: the words that a case changes, the others of a launch of three tasks. -/
def descBytes (dom clm gset prio : Nat) : List Byte :=
  ([2 ^ 60 + (if gset = 0 then 0 else 2 ^ 59) + dom * 2 ^ 44 + clm * 2 ^ 36, 3 * 2 ^ 42 + 16 + 16 * 2 ^ 7 + 16 * 2 ^ 14 + 8 * 2 ^ 21 + 4 * 2 ^ 28 + 4 * 2 ^ 35, 0, 0, 0, 0, 0, 0,
    0x20000, 0xFFC0A00000000000, prio * 2 ^ 49 + 3 * 2 ^ 36 + 7 * 2 ^ 28 + 15 * 2 ^ 24, 0, 0, 0, 0, gset] : List Nat).flatMap (toBytes 8)
/-- The descriptor read, in a machine whose queue pool has room and whose peer 0 is a member of the partition. -/
def launching (pool dom clm gset prio : Nat) : State :=
  setBusy (.read (descBytes dom clm gset prio) [false, false, false, false, true, false, false, false])
    (base.updDev (fun d => { d with pools := [(0, ⟨0x100000, pool, 0⟩)], peers := [(0, ⟨true, 1, 5, 0⟩)] }))
/-- The checks pass, and the descriptor has a property. -/
def launchCase (s : State) (p : Desc → Bool → List Nat → Bool) : Bool :=
  let s1 := st1 hA s
  let cap := s1.me.readPair (.x 2)
  iss hA s .illegal [.x 2, .x 3] [.x 20] &&
  (match s1.me.busy with
    | some (.read bs tags) =>
      let rq : Req := ⟨cap, [permLoad, permStore], kLoad, 64, 0, [⟨cap.addr, bs.length, 0⟩], true⟩
      let wq : Req := ⟨cap, [permStore], kStore, 8, 0, [⟨cap.addr + 56, 8, 0⟩], true⟩
      bs.length == 64 * (1 + bits (wordAt bs 0) 63 60) &&
      (match checkElems s1 0 s1.me.cdom rq rq.elems [] [] with
        | .ok parts used =>
          let d := descOf bs tags
          okElems (checkElems (s1.touchAll 0 used) 0 s1.me.cdom wq wq.elems [] []) &&
            p d (descBad s1 0 bs d (used.all (fun e => e.pin) && parts.all (fun p => p.segs.all (fun x => !isScratch x.addr)))) (clmOf s1 0 d.clmBits)
        | _ => false)
    | _ => false)

theorem witness_LaunchInstruction :
    (Issues hA (noCap base) .illegal [.x 2, .x 3] [.x 20] (st1 hA (noCap base)) ∧ (st1 hA (noCap base)).me.busy = none ∧
      passes (st1 hA (noCap base)) [permLoad, permStore] kLoad 64 64 true = .trap 1 1 0x10000) ∧
    (Issues hA base .illegal [.x 2, .x 3] [.x 20] (st1 hA base) ∧ (st1 hA base).me.busy = none ∧ (st1 hA base).here.mrg = none ∧
      okElems (passes (st1 hA base) [permLoad, permStore] kLoad 64 64 true) = true) ∧
    (launchCase (launching 0 0xFFF 1 0 8) (fun d _ _ => d.dom == 0xFFF) = true ∧
      launchCase (launching 0 6 1 0 8) (fun d _ _ => d.dom == 6) = true ∧
      launchCase (launching 0 5 1 0 24) (fun d bad _ => d.dom == 5 && bad) = true ∧
      launchCase (launching 0 5 1 0 23) (fun d bad _ => !bad && d.logrec == 0 && d.stages.any (fun st => st.prio == 23)) = true ∧
      launchCase (launching 0 5 0 0 8) (fun d bad clm => !bad && d.stages.all (fun st => st.prio != 23) && clm.isEmpty) = true ∧
      launchCase (launching 0 5 1 1 8) (fun d bad clm => !bad && !clm.isEmpty && d.gang && d.gset == 1 && !base.ready 48) = true ∧
      launchCase (launching 255 5 1 0 8) (fun d bad clm => !bad && !clm.isEmpty && !d.gang && decide (255 < storageOf d clm.length)) = true ∧
      launchCase (launching 256 5 1 0 8) (fun d bad clm => !bad && launchCode (launching 256 5 1 0 8) 0 d clm == 0 && d.count == 3) = true) ∧
    (let s := setBusy (.written 0x10000) storing
     Issues hA s .illegal [.x 2, .x 3] [.x 20] (st1 hA s) ∧ (st1 hA s).me.busy = some (.written 0x10000) ∧ (st1 hA s).me.sb ≠ []) ∧
    (let s := setBusy (.written 2) base
     Issues hA s .illegal [.x 2, .x 3] [.x 20] (st1 hA s) ∧ (st1 hA s).me.busy = some (.written 2) ∧ (st1 hA s).me.sb = []) :=
  ⟨meets (by decide +kernel), meets (by decide +kernel), by decide +kernel, meets (by decide +kernel), meets (by decide +kernel)⟩

/-- A stage of short work IDs: six fields of two bits. -/
def shortLaunch : Launch := { launch0 with widths := [2, 2, 2, 2, 2, 2] }
def shortTask : State := withTask task0 (withLaunch shortLaunch base)
def fullQueue : State := tasked.updCluster 0 (fun k => { k with queues := [⟨1, 0, 8, 0, 0, 0, 0, [], List.replicate 4 ⟨9, 0, [], false, []⟩⟩] })
def fullDeps : State := tasked.updCluster 0 (fun k => { k with deps := List.replicate 512 ⟨1, 0, 1, false, 5⟩ })
def poppedTask : State := withTask { task0 with popped := true } (withLaunch launch0 base)

theorem witness_TaskInstructions :
    ((Issues hA base .illegal [.x 2, .x 3, .x 5] [.p 1] (st1 hA base) ∧ (st1 hA base).here.task = none) ∧
      (Issues hA tasked .illegal [.x 2, .x 3, .x 5] [.p 1] (st1 hA tasked) ∧ (st1 hA tasked).here.task = some task0 ∧
        (st1 hA tasked).launch? 1 = some launch0 ∧ launch0.stages.length ≤ (1 : BitVec 4).toNat ∧ launch0.stages[(0 : BitVec 4).toNat]? = some stage0 ∧
        ((st1 hA tasked).me.readS (.x 5)).1.toNat / 2 ^ fieldLo launch0.widths 6 = 0 ∧ stage0.rsz ≠ 0 ∧
        (st1 hA tasked).me.busy = none ∧ (st1 hA tasked).here.mrg = none ∧ okElems (passes (st1 hA tasked) [permLoad] kLoad 1 8 true) = true) ∧
      (Issues hA shortTask .illegal [.x 2, .x 3, .x 5] [.p 1] (st1 hA shortTask) ∧ (st1 hA shortTask).launch? 1 = some shortLaunch ∧
        ((st1 hA shortTask).me.readS (.x 5)).1.toNat / 2 ^ fieldLo shortLaunch.widths 6 ≠ 0) ∧
      (Issues hA (noCap tasked) .illegal [.x 2, .x 3, .x 5] [.p 1] (st1 hA (noCap tasked)) ∧ (st1 hA (noCap tasked)).me.busy = none ∧
        passes (st1 hA (noCap tasked)) [permLoad] kLoad 1 8 true = .trap 1 1 0x10000) ∧
      (let s := setBusy (.read [1, 2, 3, 4, 5, 6, 7, 8] []) tasked
       Issues hA s .illegal [.x 2, .x 3, .x 5] [.p 1] (st1 hA s) ∧ (st1 hA s).me.busy = some (.read [1, 2, 3, 4, 5, 6, 7, 8] []) ∧
        relDone (st1 hA s) s.cur (Order.cluster 0) (st1 hA s).me.seq = true ∧ ((st1 hA s).cluster 0).roomFor launch0 0 = true ∧
        ((st1 hA s).cluster 0).queue? 1 0 = some ⟨1, 0, 8, 0, 0, 0, 0, [], []⟩) ∧
      (let s := setBusy (.read [1, 2, 3, 4, 5, 6, 7, 8] []) fullQueue
       Issues hA s .illegal [.x 2, .x 3, .x 5] [.p 1] (st1 hA s) ∧ ((st1 hA s).cluster 0).roomFor launch0 0 = false)) ∧
    ((Issues hA base .illegal [.x 2, .x 3] [.p 1] (st1 hA base) ∧ (st1 hA base).here.task = none) ∧
      (Issues hA poppedTask .illegal [.x 2, .x 3] [.p 1] (st1 hA poppedTask) ∧ (st1 hA poppedTask).here.task = some { task0 with popped := true }) ∧
      (Issues hA (noCap tasked) .illegal [.x 2, .x 3] [.p 1] (st1 hA (noCap tasked)) ∧ task0.popped = false ∧
        passes (st1 hA (noCap tasked)) [permStore] kStore 1 8 true = .trap 1 1 0x10000) ∧
      (Issues hA tasked .illegal [.x 2, .x 3] [.p 1] (st1 hA tasked) ∧ (st1 hA tasked).here.task = some task0 ∧ tasked.cur.gid ∈ task0.members ∧
        (st1 hA tasked).here.mrg = none ∧ okElems (passes (st1 hA tasked) [permStore] kStore 1 8 true) = true)) ∧
    ((Issues hA base .illegal [.x 2, .x 5] [] (st1 hA base) ∧ (st1 hA base).here.task = none) ∧
      (Issues hA tasked .illegal [.x 2, .x 0] [] (st1 hA tasked) ∧ (((st1 hA tasked).me.readS (.x 2)).2.readS (.x 0)).1 = 0) ∧
      (Issues hA fullDeps .illegal [.x 2, .x 5] [] (st1 hA fullDeps) ∧ (st1 hA fullDeps).here.task = some task0 ∧
        512 ≤ ((st1 hA fullDeps).cluster 0).deps.length) ∧
      (Issues hA tasked .illegal [.x 2, .x 5] [] (st1 hA tasked) ∧ (st1 hA tasked).here.task = some task0 ∧
        (((st1 hA tasked).me.readS (.x 2)).2.readS (.x 5)).1 ≠ 0 ∧ ((st1 hA tasked).cluster 0).deps.length < 512)) ∧
    ((Issues hA base .illegal [.x 5] [.p 1] (st1 hA base) ∧ (st1 hA base).launch? (((st1 hA base).me.readS (.x 5)).1.extractLsb' 0 16).toNat = none) ∧
      (Issues hA tasked .illegal [.x 0] [.p 1] (st1 hA tasked) ∧ (st1 hA tasked).myLaunch.map (fun e => e.2) = some launch0 ∧
        (launch0.stages.length ≤ (15 : BitVec 4).toNat) ∧
        ¬ (launch0.code ≠ 0 ∨ launch0.stages.length ≤ (0 : BitVec 4).toNat ∨ (launch0.dom ≠ (st1 hA tasked).me.cdom.toNat ∧ (st1 hA tasked).me.cdom.toNat ≠ 0) ∨
          ((22 : BitVec 8) = 23 ∧ ((st1 hA tasked).me.cdom.toNat ≠ 0 ∨ launch0.dom ≠ 0))))) ∧
    Issues hW semmed .normal [] [.sq 1] (st1 hW semmed) ∧
    (Issues hA tasked .normal [.x 5, .x 6] [.x 20] (st1 hA tasked) ∧ (5 : Nat) < (st1 hA tasked).myWidths.length ∧ (0 : Nat) ≠ 5 ∧
      fieldLo (st1 hA tasked).myWidths 6 ≤ 64 ∧ fieldLo (st1 hA tasked).myWidths 1 ≤ 64) :=
  ⟨⟨meets (by decide +kernel), meets (by decide +kernel), meets (by decide +kernel), meets (by decide +kernel), meets (by decide +kernel), meets (by decide +kernel)⟩,
    ⟨meets (by decide +kernel), meets (by decide +kernel), meets (by decide +kernel), meets (by decide +kernel)⟩,
    ⟨meets (by decide +kernel), meets (by decide +kernel), meets (by decide +kernel), meets (by decide +kernel)⟩,
    ⟨meets (by decide +kernel), meets (by decide +kernel)⟩, issues_of (by decide +kernel), meets (by decide +kernel)⟩

/-- Window 3 of cluster 0: two slots of 256 bytes at 0x10400 for launch 1, stage 0, stream 9; a tick each 1,000 ns from 500 on. -/
def win0 (v : Bool) : Twin :=
  ⟨[(0, BitVec.ofNat 64 ((if v then 2 ^ 63 else 0) + 2 ^ 44 + 2 * 2 ^ 32 + 9 * 2 ^ 16 + 1)), (1, 0x10400), (2, 0x0000010000000000), (3, 500),
    (4, 0x000003E800000000)]⟩
def windowed (v : Bool) (dom : Nat) : State :=
  let s := (withLaunch launch0 base).updCluster 0 (fun k => { k with twin := [(3, win0 v)] })
  (s.updDev (fun d => { d with ns := 2600 })).self (fun c => { c with cdom := BitVec.ofNat 12 dom })
/-- A word 0 in x9 with V, and one with too few slots. -/
def word0 (n : Nat) : Word := BitVec.ofNat 64 (2 ^ 63 + 2 ^ 44 + n * 2 ^ 32 + 9 * 2 ^ 16 + 1)
/-- Slot 1 is filled: its number stands there. -/
def slotted (n : Nat) : State := setX 9 (BitVec.ofNat 64 n) ((windowed true 5).setBytes (0x10400 + n % 2 * 256) (toBytes 8 n))

/-- A slot whose tick has passed: whether its header can be reached, and whether its own number stands there. -/
def slotCase (s : State) (n : Nat) : Bool × Bool :=
  let s1 := st1 hA s
  let u := s1.slotTrace (win0 true) n
  (s1.devMay true (s1.slotLines (win0 true) n), u.slotWord (win0 true) n 0 == BitVec.ofNat 64 n)

theorem witness_TimeWindowInstructions :
    Issues hW semmed .normal [] [.lq 1] (st1 hW semmed) ∧
    (Issues hA (windowed false 5) .illegal [.x 9] [.p 1] (st1 hA (windowed false 5)) ∧ (st1 hA (windowed false 5)).me.cdom ≠ 0) ∧
    (Issues hA (windowed true 0) .illegal [.x 9] [.p 1] (st1 hA (windowed true 0)) ∧ (st1 hA (windowed true 0)).me.cdom = 0 ∧
      (7 : BitVec 8) ≠ 0 ∧ (((st1 hA (windowed true 0)).cluster 0).win 3).active = true ∧ ((st1 hA (windowed true 0)).me.getX 9).val.getLsbD 63 = false) ∧
    (Issues hA (windowed false 0) .illegal [.x 9] [.p 1] (st1 hA (windowed false 0)) ∧ (((st1 hA (windowed false 0)).cluster 0).win 3).active = false) ∧
    (let s := setX 9 (word0 1) (windowed false 0)
     Issues hA s .illegal [.x 9] [.p 1] (st1 hA s) ∧ ((st1 hA s).me.readS (.x 9)).1.getLsbD 63 = true ∧ ((win0 false).put 0 (word0 1)).inRange = false) ∧
    (let s := setX 9 (word0 2) (windowed false 0)
     Issues hA s .illegal [.x 9] [.p 1] (st1 hA s) ∧ ((st1 hA s).me.readS (.x 9)).1.getLsbD 63 = true ∧ ((win0 false).put 0 (word0 2)).inRange = true ∧
      ([(s, true), (heldBack (0x10480 / 128) s, true), (heldBack (0x10500 / 128) s, false)] : List (State × Bool)).all (fun e => iss hA e.1 .illegal [.x 9] [.p 1] &&
        (st1 hA e.1).devMay false (((List.range 2).flatMap ((st1 hA e.1).slotLines ((win0 false).put 0 (word0 2)))).foldl natIns []) == e.2) = true) ∧
    (Issues hA base .illegal [.x 9] [.p 1] (st1 hA base) ∧ (((st1 hA base).cluster 0).win 3).nslot = 0) ∧
    (Issues hA (slotted 2) .illegal [.x 9] [.p 1] (st1 hA (slotted 2)) ∧ (st1 hA (slotted 2)).dev.ns < (win0 true).tickOf 2) ∧
    (let s := slotted 1
     let s1 := st1 hA s
     Issues hA s .illegal [.x 9] [.p 1] s1 ∧ (win0 true).nslot ≠ 0 ∧ s1.launch? (win0 true).lid = some launch0 ∧ launch0.dom = s1.me.cdom.toNat ∧
      (win0 true).tickOf 1 ≤ s1.dev.ns ∧ slotCase s 1 = (true, true) ∧ (slotCase (heldBack (0x10500 / 128) s) 1).1 = false ∧ slotCase (setX 9 1 (windowed true 5)) 1 = (true, false) ∧
      (iss hA (heldBack (0x10500 / 128) s) .illegal [.x 9] [.p 1] && iss hA (setX 9 1 (windowed true 5)) .illegal [.x 9] [.p 1]) = true ∧
      (win0 true).slotAt 1 < scratchBase ∧ (orderOk s1 s.cur s1.me.seq (Order.cluster 0) && fencesOk s1 s.cur s1.me.seq false true) = true ∧
      reservedPA s1 none true (fwdAddr s1 ((win0 true).slotAt 1) + 8) = false) ∧
    (let s := (slotted 1).self (fun c => { c with pend := [flyingLoad], seq := 1 })
     Issues hA s .illegal [.x 9] [.p 1] (st1 hA s) ∧ orderOk (st1 hA s) s.cur (st1 hA s).me.seq (Order.cluster 0) = false) :=
  ⟨issues_of (by decide +kernel), meets (by decide +kernel), meets (by decide +kernel), meets (by decide +kernel), meets (by decide +kernel),
    meets (by decide +kernel), meets (by decide +kernel), meets (by decide +kernel), meets (by decide +kernel), meets (by decide +kernel)⟩

/-! ### The translation service, and what arrives -/

/-- A service core of cluster 0 at supervisor level: the words of an entry of frame 3 in x30 and x31, the target of core 9 in x9; range 0
of the cluster closed and range 1 open, which adds 16 frames. -/
def serving : State :=
  let s := (svcAt .supervisor base).updCluster 0 (fun k => { k with
    rnge := [(0, ⟨0xF000000000000000, 0, 0⟩), (1, ⟨0xF000000000000000, 0xFF0000, 0x100000⟩)] })
  setX 30 0x0000000000800005 (setX 31 0x0000000000033C00 (setX 9 0x0000000700000009 s))
def closed : State := serving.updCluster 0 (fun k => { k with rnge := [] })
/-- A store in merge mode under the entry of page 1. -/
def underMerge : State := (inMerge base).mergeVia 0 [⟨1, 0, 5, 1, 0, true, true, true, false⟩]

theorem witness_TranslationInstructions :
    ((let s := svcAt .hypervisor base; Issues hA s .illegal ([.x 30, .x 31] ++ [.x 9]) [.x 20] (st1 hA s) ∧ (st1 hA s).me.level ≠ .supervisor) ∧
      (let s := setX 9 0x80000000 serving; Issues hA s .illegal [.x 9] [.x 20] (st1 hA s) ∧ isSvc s.cur.gid = true ∧ (st1 hA s).me.level = .supervisor ∧
        ((st1 hA s).me.readS (.x 9)).1.extractLsb' 20 12 ≠ 0) ∧
      (Issues hA serving .illegal ([.x 30, .x 31] ++ [.x 9]) [.x 20] (st1 hA serving) ∧ isSvc serving.cur.gid = true ∧ (st1 hA serving).me.level = .supervisor ∧
        (let w := ((st1 hA serving).me.readS (.x 9)).1
         ¬ (w.extractLsb' 20 12 ≠ 0 ∨ w.extractLsb' 8 11 ≠ 0) ∧
          (match tlbOfWords ((st1 hA serving).me.getX 30).val ((st1 hA serving).me.getX 31).val with
            | some x => (((st1 hA serving).cluster 0).range 1).admits 0 x && !(((st1 hA serving).cluster 0).range 0).admits 0 x
            | none => false) = true)) ∧
      (Issues hA closed .illegal ([.x 30, .x 31] ++ [.x 9]) [.x 20] (st1 hA closed) ∧ (st1 hA closed).me.level = .supervisor ∧
        (match tlbOfWords ((st1 hA closed).me.getX 30).val ((st1 hA closed).me.getX 31).val with
          | some x => (List.range 48).all (fun i => !(((st1 hA closed).cluster 0).range i).admits 0 x)
          | none => false) = true) ∧
      tlbOfWords 0x0000000000600005 0x0000000000034C00 = none) ∧
    ((Issues hA base .illegal ([.x 30, .x 31] ++ [.x 0]) [] (st1 hA base) ∧ (st1 hA base).me.busy = none ∧ (st1 hA base).me.level = .user) ∧
      (Issues hA (setX 9 0x00000000 (atLevel .supervisor base)) .illegal ([.x 30, .x 31] ++ [.x 9]) [] (st1 hA (setX 9 0x00000000 (atLevel .supervisor base))) ∧
        (st1 hA (setX 9 0x00000000 (atLevel .supervisor base))).me.busy = none ∧
        ((st1 hA (setX 9 0x00000000 (atLevel .supervisor base))).me.scopeArg (.x 9)).ok = true ∧
        ((st1 hA (setX 9 0x00000000 (atLevel .supervisor base))).me.scopeArg (.x 0)).core = true ∧
        (∀ c ∈ (base.core 0).ctxs, c.2.busy = none)) ∧
      (let s := atLevel .supervisor farGang
       Issues hA s .illegal ([.x 30, .x 31] ++ [.x 9]) [] (st1 hA s) ∧ (st1 hA s).me.busy = none ∧ ((st1 hA s).me.scopeArg (.x 9)).ok = true ∧
        ((st1 hA s).peerMask 0 ((st1 hA s).me.scopeArg (.x 9))).getLsbD 15 = true ∧ inRect ((st1 hA s).me.scopeArg (.x 9)).scope 0 = true ∧
        loadedOnce.accessesUnder (.domain 5) 0 ≠ [] ∧ loadedOnce.accessesUnder (.page 0x20000 5) 0 = [] ∧
        (underMerge.mergesUnder .all [0]).length = 1) ∧
      (∀ ds ∈ ([[], [3]] : List (List Nat)),
        let s := setBusy (.invalidating [(0, 0, 0, 1)] ds) pendLoad
        Issues hA s .illegal ([.x 30, .x 31] ++ [.x 0]) [] (st1 hA s) ∧ (st1 hA s).me.busy = some (.invalidating [(0, 0, 0, 1)] ds) ∧
        (st1 hA s).stillFlying (0, 0, 0, 1) = true ∧ (st1 hA s).stillFlying (0, 0, 0, 2) = false)) ∧
    ((Issues hA base .illegal [.x 30, .x 31] [] (st1 hA base) ∧ isSvc base.cur.gid = false) ∧
      (let s := setX 31 0x0000000000090801 (svcAt .supervisor base)
       Issues hA s .illegal [.x 30, .x 31] [] (st1 hA s) ∧ isSvc s.cur.gid = true ∧ (st1 hA s).me.level = .supervisor ∧
        (let w1 := ((st1 hA s).me.getX 31).val; w1.extractLsb' 48 16 = 0 ∧ w1.extractLsb' 24 4 = 0 ∧ w1.extractLsb' 4 4 = 0) ∧
        (st1 hA s).repliesOut s.cur = false ∧ orderOk (st1 hA s) s.cur (st1 hA s).me.seq (Order.cluster 0) = true) ∧
      (let s := { serving with flights := [.reply 9 0 0 0 7 0 false 0 0 ⟨2048, 0⟩ (.x 20)] }
       Issues hA s .illegal [.x 2, .x 3] [] (st1 hA s) ∧ (st1 hA s).repliesOut s.cur = true)) ∧
    ((let s := setX 9 0xF040000000FF0000 (svcAt .hypervisor base)
      Issues hA s .illegal [.x 9] [] (st1 hA s) ∧ isSvc s.cur.gid = true ∧ (st1 hA s).me.level = .hypervisor ∧
        ((st1 hA s).me.readS (.x 9)).1.extractLsb' 55 5 = 0 ∧ ((st1 hA s).me.readS (.x 9)).1.extractLsb' 0 16 = 0) ∧
      (let s := setX 9 1 (svcAt .hypervisor base)
       Issues hA s .illegal [.x 9] [] (st1 hA s) ∧ ((st1 hA s).me.readS (.x 9)).1.extractLsb' 0 16 ≠ 0) ∧
      Issues hA serving .illegal [] [.x 20] (st1 hA serving) ∧ Issues hA serving .illegal [.x 9] [] (st1 hA serving)) :=
  ⟨⟨meets (by decide +kernel), meets (by decide +kernel), meets (by decide +kernel), meets (by decide +kernel), by decide +kernel⟩,
    ⟨meets (by decide +kernel), meets (by decide +kernel), meets (by decide +kernel),
      by intro ds hd; fin_cases hd <;> exact meets (by decide +kernel)⟩,
    ⟨meets (by decide +kernel), meets (by decide +kernel), meets (by decide +kernel)⟩,
    ⟨meets (by decide +kernel), meets (by decide +kernel), issues_of (by decide +kernel), issues_of (by decide +kernel)⟩⟩

/-- Core 9 with two trackers, one of a context that waits; an answer on its way to it. -/
def tracking : State := base.updCore 9 (fun c => { c with
  gen := 5, trackers := [⟨7, 5, 0x50000, 5, kLoad, 0, none, 0, false, [(0, none)]⟩, ⟨8, 5, 0x60000, 5, kLoad, 0, none, 0, false, []⟩] })
def answering (disp fseq gen : Nat) : State :=
  { tracking with flights := [.reply 9 0 disp 3 fseq gen false 0x0000000000800005 0x0000000000033C00 ⟨2048, 0⟩ (.x 20)], ev := .one 0 }
/-- A message on its way to core 1, whose queue is full, and whose region for more has room or none. -/
def arriving (m : Msg) (size : BitVec 16) (n : Nat) : State :=
  { base.updCore 1 (fun c => { c with recvq := List.replicate n msg0, mqoa := 0x10300, mqosSize := size }) with flights := [.msg 1 m], ev := .one 0 }
def notice : Msg := ⟨recordBytes [0, 0x0000000000010801], true, 4, 0, 0⟩
def checking : State :=
  { setBusy (.sigCheck hW (.p 1)) (base.updCore 1 (fun c => { c with slotDom := 5 })) with
    flights := [.sigAdd 1 9 3, .sigCheck ⟨0, 0⟩ 1 9 3, .qprio 0 1 0 17, .ubhal 0 .user 5 0 (List.replicate 64 0)] }

theorem witness_ArrivalEvents :
    ((∃ f, (answering 0 7 4).flights[0]? = some f ∧ genOlder 4 (tracking.core 9).gen.toNat = true) ∧ genOlder 5 (tracking.core 9).gen.toNat = false ∧
      (tlbOfWords 0x0000000000800005 0x0000000000033C00).isSome = true ∧
      (tracking.core 9).trackers.find? (fun t => decide (t.fseq = 6)) = none ∧
      (tracking.core 9).trackers.find? (fun t => decide (t.fseq = 8)) = some ⟨8, 5, 0x60000, 5, kLoad, 0, none, 0, false, []⟩ ∧
      (tracking.core 9).trackers.find? (fun t => decide (t.fseq = 7)) = some ⟨7, 5, 0x50000, 5, kLoad, 0, none, 0, false, [(0, none)]⟩) ∧
    (∀ m ∈ [msg0, notice], ∃ f, (arriving m 0 63).flights[0]? = some f ∧ (arriving m 0 63).inOrder 0 = true ∧ (m.sys = false ∨ m.sknd ≠ 1) ∧
      ((arriving m 0 63).core 1).recvq.length < 64 ∧ ((arriving m 0 63).core 1).ovq = []) ∧
    (64 ≤ ((arriving msg0 1 64).core 1).recvq.length ∧ ((arriving msg0 1 64).core 1).ovq.length < ((arriving msg0 1 64).core 1).mqosSize.toNat ∧
      ((arriving msg0 0 64).core 1).mqosSize.toNat ≤ ((arriving msg0 0 64).core 1).ovq.length ∧
      ((arriving msg0 1 64).core 1).ovq = [] ∧ (([(arriving msg0 1 64, true), (heldBack (0x10300 / 128) (arriving msg0 1 64), false)] :
        List (State × Bool)).all (fun e => ((e.1.core 1).mqoa.toNat + 64 * (e.1.core 1).spillSlot == 0x10300) &&
          (e.1.landed 0).devMay false ((e.1.landed 0).devLines 0x10300 64) == e.2)) = true) ∧
    (checking.flights[3]? = some (.ubhal 0 .user 5 0 (List.replicate 64 0)) ∧ checking.inOrder 3 = true ∧ checking.flights[0]? = some (.sigAdd 1 9 3) ∧
      checking.flights[2]? = some (.qprio 0 1 0 17) ∧ (tasked.cluster 0).queue? 1 0 = some ⟨1, 0, 8, 0, 0, 0, 0, [], []⟩) ∧
    (checking.flights[1]? = some (.sigCheck ⟨0, 0⟩ 1 9 3) ∧ (checking.ctx ⟨0, 0⟩).busy = some (.sigCheck hW (.p 1)) ∧
      ∀ i g, i < 1 → checking.flights[i]? = some g → ∀ x y z, g ≠ .sigCheck ⟨0, 0⟩ x y z) := by
  refine ⟨?_, ?_, ?_, ?_, ?_, ?_, ?_⟩
  · exact ⟨⟨_, rfl, by decide +kernel⟩, by decide +kernel⟩
  · intro m hm
    simp only [List.mem_cons, List.not_mem_nil, or_false] at hm
    rcases hm with rfl | rfl <;> exact ⟨_, rfl, by decide +kernel⟩
  · decide +kernel
  · decide +kernel
  · decide +kernel
  · decide +kernel
  · intro i g hi hg x y z
    obtain rfl : i = 0 := by omega
    have hg' : some (Flight.sigAdd 1 9 3) = some g := hg
    cases hg'
    exact fun h => nomatch h

/-! ### Barriers, collectives, completions -/

def arrived (k : BarKind) (g : Nat) (w0 w1 : Word) (ps : List (Nat × Nat)) : Arrival := ⟨k, ⟨g, 0⟩, [0, 1], w0, w1, Cap.null, false, false, ps, []⟩
/-- The contexts of cores 0 and 1 wait at a barrier. -/
def barred (k : BarKind) (w0 w1 : Word) : State :=
  let s := (base.updCore 1 (fun _ => core0)).updCtx ⟨1, 0⟩ (fun c => { c with busy := some (.barrier hA (.x 20)) })
  { setBusy (.barrier hA (.x 20)) s with
    arrivals := [arrived k 0 w0 0x103 [(0x10400, 8)], arrived k 1 w0 w1 [(0x10480, 8)]], ev := .agent ⟨0, 0⟩ }
/-- A collective of two members in group 9 of partition 0, whose second brings other operands, or the same. -/
def collecting (w1 : Word) : State :=
  { (barred (.coll 0 9) 1 w1).updDev (fun d => { d with groups := [(9, ⟨true, 2, 0x10200⟩)] }) |>.setBytes 0x10200
      (toBytes 4 0x1F000000 ++ toBytes 4 0x1F000001) with ev := .two 0 9 }
def cmdOf (k : CmdKind) : Cmd where
  kind := k
  o := ⟨.x 20, .x 8, .x 0, false, false, false, 0, 8, 8, 0, 3, false, false⟩
  h := hW
  ord := Order.plain
  regs := []
  slotsUp := []
  forker := 0
  seqFork := 0
  accepted := 0
  cdom := 5
  readPos := 0
  writePos := 0
  buf := []
  bufTags := []
  psns := []
  done := 0
  bad := 0
  stopped := none
  upTo := 0
  waiting := none
  waitingW := none
  num := 0
  rat := none
  wat := none
  effected := false
  row := []
  issuedAt := (0, 0)
def engineAt (k : CmdKind) (f : Cmd → Cmd) : State :=
  { base.updCore 0 (fun c => { c with matrix := { c.matrix with cmds := [f (cmdOf k)] } }) with ev := .three 0 4 0 }
def rowState : State :=
  let s := (base.updCore 0 (fun c => { c with matrix := { c.matrix with cmds := [cmdOf .mgang] } })).updCore 1 (fun c => { c with
    matrix := { c.matrix with cmds := [cmdOf .mgang, cmdOf .mswp] } })
  { (withTask { task0 with members := [0, 1] } s).updCore 1 (fun c => { c with task := some { task0 with members := [0, 1] } }) with ev := .one 0 }

/-- The buffers' lines at their homes. -/
def holdBufs (s : State) : State := hold (0x10480 / 128) (hold (0x10400 / 128) s)
/-- What the clauses on a collective ask, once all have arrived; `f` is the answer that the homes give. -/
def gathered (s : State) (f : Ask → Bool) : Bool :=
  let ls := (s.ranks 0 9).filterMap id
  let rs := ls.filterMap (fun k => match k with | .near r => some r | .far _ => none)
  match rs.head? with
  | some r0 => ls.length == (s.ranks 0 9).length && ls.all (fun k => k.words == (r0.w0, r0.w1)) && f (s.askBuffers rs)
  | none => false
/-- The homes have been asked and have not answered. -/
def askedBufs : State := match (collecting 0x103).askBuffers (collecting 0x103).arrivals with | .wait u => u | _ => State.reset

/-- Two contexts of core 0 and one of core 1 at one exchange barrier, after a phase with three late instructions. -/
def twoWait : State :=
  let k : BarKind := .xphase 0x00010000 false 8
  let s := (barred k 0 0).updCtx ⟨0, 1⟩ (fun _ => { ctx0 with busy := some (.barrier hA (.x 20)) })
  { s.updCore 0 (fun c => { c with lateCount := 3, phase := some ⟨0, 4, [0, 1], [], [], 0⟩ }) with
    arrivals := s.arrivals ++ [{ arrived k 0 0 0x103 [] with agent := ⟨0, 1⟩ }] }
/-- A barrier of core 0 here and on peers 2 and 15, whose cores have arrived. -/
def farBar0 : Arrival := ⟨.bar 0xFF00000000 false, ⟨0, 0⟩, [0], BitVec.ofNat 64 (2 ^ 15 + 2 ^ 2), 0, Cap.null, false, false, [], []⟩
def farBar : State := { setBusy (.barrier hA (.x 0)) farGang with
  arrivals := [farBar0], ev := .agent ⟨0, 0⟩
  remote := [⟨2, 0, .bar 0xFF00000000 false, 0, 0, [], [2, 15], []⟩, ⟨15, 0, .bar 0xFF00000000 false, 0, 0, [], [2, 15], []⟩] }

theorem witness_BarrierEvents :
    (([.bar 0x00010000 false, .xphase 0x00010000 false 8] : List BarKind).all (fun k =>
      let s := barred k 0 0
      let r0 := arrived k 0 0 0x103 [(0x10400, 8)]
      let rs := s.arrivals.filter (sameBarrier r0)
      decide (s.arrivals.find? (fun r => r.agent == ⟨0, 0⟩ && sameBarrier r r) = some r0) && s.allArrived r0 rs && !s.allArrived r0 [r0] &&
        rs.all (fun r => relDone s r.agent r.scope (s.ctx r.agent).seq) && decide ((s.ctx ⟨0, 0⟩).busy = some (.barrier hA (.x 20))) &&
        rs.all (fun r => r.agent.gid != 0 || r == r0)) = true) ∧
    (let s := twoWait
     let rs := s.arrivals.filter (sameBarrier (arrived (.xphase 0x00010000 false 8) 0 0 0x103 [(0x10400, 8)]))
     s.arrivals.find? (fun r => r.agent == ⟨0, 0⟩ && sameBarrier r r) = some (arrived (.xphase 0x00010000 false 8) 0 0 0x103 [(0x10400, 8)]) ∧
      s.allArrived (arrived (.xphase 0x00010000 false 8) 0 0 0x103 [(0x10400, 8)]) rs = true ∧ (rs.filter (fun r => r.agent.gid == 0)).length = 2 ∧
      (rs.map (fun r => r.agent)).Nodup ∧ (∀ r ∈ rs, r.agent.gid = 0 → r.kind = .xphase 0x00010000 false 8) ∧
      (s.core 0).phase ≠ some ⟨s.dev.cyc + 1, 8, [0, 1], [], [], 0⟩ ∧ (s.core 0).lateCount = 3 ∧
      (s.ctx ⟨0, 1⟩).busy = some (.barrier hA (.x 20))) ∧
    (farBar.farDevs farBar0 = [2, 15] ∧ farBar0.farRect = [0] ∧ farBar.farArrived farBar0 = true ∧ farBar.allArrived farBar0 [farBar0] = true ∧
      { farBar with remote := farBar.remote.take 1 }.allArrived farBar0 [farBar0] = false) ∧
    (let s := { barred (.bar 0x00010000 false) 0 0 with arrivals := [arrived (.bar 0x00010000 false) 0 0 0x103 []] }
     s.allArrived (arrived (.bar 0x00010000 false) 0 0 0x103 []) s.arrivals = false) ∧
    (let ks := ((collecting 0x100).ranks 0 9).filterMap id
     ks.length = ((collecting 0x100).ranks 0 9).length ∧ (∃ k ∈ ks, k.words ≠ (1, 0x103)) ∧
      ks.head? = some (.near (arrived (.coll 0 9) 0 1 0x103 [(0x10400, 8)]))) ∧
    (gathered (holdBufs (collecting 0x103)) isGo = true ∧ gathered (collecting 0x103) isWait = true ∧ gathered askedBufs isNo = true ∧
      (holdBufs (collecting 0x103)).ecc = []) ∧
    (fmtIsInt 3 = true ∧ 8 * collWidth 3 = fmtBits 3 ∧
      (∀ b ∈ ([[1, 0, 0, 0], [255, 255, 255, 255]] : List (List Byte)), b.length = 1 * collWidth 3) ∧
      (∀ b ∈ ([[1, 0, 0, 0, 2, 0, 0, 0], [3, 0, 0, 0, 4, 0, 0, 0]] : List (List Byte)), b.length = 2 * (1 * collWidth 3)) ∧
      fmtIsInt 8 = false ∧ decodeF 8 0x7FC00001 = .nan) ∧
    (0 ∈ rowState.rowOf 0 ∧ (rowState.rowOf 0).Nodup ∧
      (let u := (rowState.rowOf 0).foldl (fun st k => st.settled k 4) rowState
       (∀ k ∈ rowState.rowOf 0, u.gangWaits k = true) ∧ (u.core 1).matrix.due = some (0, cmdOf .mgang))) := by decide +kernel

/-- A fault held, tickets resolved, a budget used up. -/
def seqFaulted : State := { (asAgent ⟨0, 11⟩ base).updCtx ⟨0, 11⟩ (fun c => { c with sfault := some ⟨1, 4, 0x50, 0⟩ }) with ev := .agent ⟨0, 11⟩ }
def resolvedAt : State := { streamed (fun q => { q with next := 1, resolved := [(0, [4])] }) base with invals := [⟨4, 0x200, 300⟩, ⟨6, 0x200, 1⟩], ev := .two 0 3 }
def budgeted : State :=
  { (asAgent ⟨0, 10⟩ base).updCtx ⟨0, 10⟩ (fun c => { c with budg := ⟨true, false, 0, 7, 0⟩, region := some (region0 none) }) with ev := .agent ⟨0, 10⟩ }

/-- The command at the head of the matrix queue of core 0 has its effect next. -/
def effects (k : CmdKind) (f : Cmd → Cmd) : Bool :=
  let s := engineAt k f
  match (s.core 0).matrix.due with
  | some (_, c) => !(s.core 0).stopped && (s.core 0).matrix.effectReady 0 c && c.stopped.isNone && c.kind == k
  | none => false
/-- Whether the command of the moment can complete, and how it stopped. -/
def completes (s : State) (ch : Nat) (yes : Bool) (st : Option (Nat × Nat)) : Bool :=
  let u := s.settled 0 ch
  match ((u.core 0).queueOf ch)[0]? with
  | some c => u.canComplete 0 0 c == yes && decide (c.stopped = st)
  | none => false
def budgetedBy (f : Core → Core) : State := budgeted.updCore 0 f

/-- A pass and a load that have completed, with their effect next; a load that has read all behind a pass that still reads. -/
def full (k : CmdKind) : Cmd := { cmdOf k with readPos := (cmdOf k).srcCount, buf := List.replicate 8704 1 }
def lateOf (k : CmdKind) : State :=
  base.updCore 0 (fun c => { c with matrix := { c.matrix with late := [full k], cmds := [{ cmdOf .mswp with accepted := 1 }] } })
def latePass : State := lateOf .mstream
def lateLoad : State := lateOf .mlds
def behind : State :=
  { base.updCore 0 (fun c => { c with matrix := { c.matrix with cmds := [cmdOf .mstream, { full .mlds with accepted := 1 }] } }) with ev := .three 0 4 1 }

theorem witness_CompletionEvents :
    ((effects .mswp id && effects .mzero id && effects .mlds (fun c => { c with readPos := c.srcCount, buf := List.replicate 8704 1 }) &&
      effects .mstream (fun c => { c with readPos := c.srcCount, buf := List.replicate 8704 1 })) = true) ∧
    ((completes (engineAt .mswp id) 4 true none && completes (engineAt .mstream id) 4 false none && completes (engineAt .mgang id) 4 false none &&
      completes (engineAt .mfwd (fun c => { c with stopped := some (7, 0) })) 4 true (some (7, 0)) &&
      completes (engineAt .mdrain (fun c => { c with stopped := some (2, 1) })) 4 true (some (2, 1)) &&
      completes (commanded.updCmd 0 0 0 (fun c => { c with readPos := c.srcCount, writePos := c.dstCount })) 0 true none) = true ∧ (cmdOf .mswp).o.d = .x 20) ∧
    ((latePass.core 0).matrix.lateDue.map (fun c => c.kind) = some .mstream ∧ (lateLoad.core 0).matrix.lateDue.map (fun c => c.kind) = some .mlds) ∧
    (let u := behind.settled 0 4
     (match ((u.core 0).queueOf 4)[1]? with
      | some c => u.canComplete 0 1 c && c.readsOnly && !c.effected && c.stopped.isNone
      | none => false) = true ∧ (u.core 0).matrix.due.map (fun e => e.1) = some 0) ∧
    (seqFaulted.ctx ⟨0, 11⟩).sfault = some ⟨1, 4, 0x50, 0⟩ ∧
    (((resolvedAt.cluster 0).stream 3).resolved.find? (fun r => r.1 == ((resolvedAt.cluster 0).stream 3).head) = some (0, [4]) ∧
      ∀ v ∈ resolvedAt.invals, v.wid ∈ [4] → v.target ≠ allCores ∧ gidCl v.target ≠ 0) ∧
    ((budgeted.ctx ⟨0, 10⟩).live = true ∧ (budgeted.ctx ⟨0, 10⟩).budg.arm = true ∧ (budgeted.ctx ⟨0, 10⟩).budg.cnt = 0 ∧
      (budgeted.ctx ⟨0, 10⟩).runsOn = false ∧ (budgeted.ctx ⟨0, 10⟩).waitTaken = false ∧ (budgeted.core 0).stopped = false ∧
      (budgeted.core 0).failed = false ∧ (budgeted.core 0).saving ≠ 2 ∧ budgeted.saveDue 0 = false ∧
      ((budgetedBy (fun c => { c with stopped := true })).core 0).stopped = true ∧ ((budgetedBy (fun c => { c with saving := 2 })).core 0).saving = 2 ∧
      (budgetedBy (fun c => { c with task := some task0, req := true, dlc := 0 })).saveDue 0 = true) := by
  decide +kernel

/-! ### The distributor -/

def item (o : Nat) : QItem := ⟨o, 3, [1, 2, 3, 4, 5, 6, 7, 8], false, []⟩
/-- A cluster that is ready, a launch of one-core tasks, and a queue of one record; core 0 is idle and of domain 5 or of none. -/
def sched (dom : BitVec 12) (q : StageQ) : State :=
  let s := withLaunch { launch0 with stages := [{ stage0 with cpi := 0, bnk := 1 }] }
    (base.updCore 0 (fun c => { c with ctxs := [], slotDom := dom }))
  { (s.updDev (fun d => { d with rdy := 0x100, fallback := false, cyc := 2048 })).updCluster 0 (fun k => { k with queues := [q] }) with ev := .one 0 }
def running : State :=
  { (withTask { task0 with cpi := 0, members := [0] } (sched 5 ⟨1, 0, 10, 2, 0, 0, 1024, [], [item 1]⟩)).updCore 2 (fun c => { c with
      task := some { task0 with members := [2], level := 9 } }) with ev := .one 0 }
/-- A queue whose head has waited. -/
def aging : State := { sched 5 ⟨1, 0, 8, 2, 0, 65536, 0, [], [item 1]⟩ with ev := .three 0 1 0 }
def dealing : State := { sched 5 ⟨1, 0, 8, 0, 0, 0, 0, [], []⟩ with ev := .two 0 1 }
/-- The task of core 0 has executed `exit`. -/
def ending : State := { setBusy .ending tasked with ev := .one 0 }
def halted (n : Nat) : State :=
  { withTask { task0 with halted := true } (withLaunch { launch0 with alive := n } base) with ev := .one 0 }
def counting : State := { withLaunch { launch0 with ended := 1, waits := [4] } base with ev := .one 1 }

/-- A head selected, and what a clause says of it. -/
def selected (s : State) (p : Selection → Bool) : Bool := match s.select 0 with | some r => p r | none => false
theorem selected_iff {s : State} {p : Selection → Bool} (h : selected s p = true) : ∃ r, s.select 0 = some r ∧ p r = true := by
  unfold selected at h
  cases e : s.select 0 with
  | none => rw [e] at h; cases h
  | some r => rw [e] at h; exact ⟨r, rfl, h⟩

theorem witness_SchedulerEvents :
    ((∃ r, (sched 5 ⟨1, 0, 8, 0, 0, 0, 0, [], [item 1]⟩).select 0 = some r ∧ (r.it.saved.isEmpty && r.ms == [0] && r.l.dom == 5 &&
        decide (r.st.bnk ≤ ((sched 5 ⟨1, 0, 8, 0, 0, 0, 0, [], [item 1]⟩).cluster 0).freeCount)) = true) ∧
      (sched 5 ⟨1, 0, 8, 0, 0, 0, 0, [], [item 1]⟩).ready 8 = true ∧
      ∃ r, (sched 7 ⟨1, 0, 8, 0, 0, 0, 0, [], [item 1]⟩).select 0 = some r ∧ (r.it.saved.isEmpty && r.ms == [0]) = true) ∧
    ((aging.cluster 0).queue? 1 0 = some ⟨1, 0, 8, 2, 0, 65536, 0, [], [item 1]⟩ ∧ ((aging.cluster 0).head ⟨1, 0, 8, 2, 0, 65536, 0, [], [item 1]⟩).isSome = true ∧
      (let q := (⟨1, 0, 8, 2, 0, 65536, 0, [], [item 1]⟩ : StageQ).facing ((aging.cluster 0).head ⟨1, 0, 8, 2, 0, 65536, 0, [], [item 1]⟩)
       65536 ≤ q.aged ∧ q.base + q.age < 22)) ∧
    ((running.cluster 0).windows < running.dev.cyc / 1024 ∧ (running.updDev (fun d => { d with fallback := true })).dev.fallback = true) ∧
    ((running.cluster 0).request = none ∧ running.dev.fallback = false ∧ (0, 8, 1, 0) ∈ running.running 0 ∧ (∀ q ∈ running.running 0, 8 ≤ q.2.1) ∧
      ∃ e ∈ (running.cluster 0).heads, 1024 ≤ e.1.waited ∧ 8 + 2 ≤ e.1.level) ∧
    (dealing.launch? 1 = some { launch0 with stages := [{ stage0 with cpi := 0, bnk := 1 }] } ∧
      (dealing.cluster 0).roomFor { launch0 with stages := [{ stage0 with cpi := 0, bnk := 1 }] } 0 = true ∧
      (dealing.cluster 0).queue? 1 0 = some ⟨1, 0, 8, 0, 0, 0, 0, [], []⟩ ∧ launch0.clm.findIdx (fun c => c == 0) < launch0.clm.length ∧
      0 + Sparse.look 0 launch0.given 0 * launch0.clm.length < launch0.count) ∧
    ((∀ s ∈ [ending, halted 3, halted 1], (s.core 0).task.isSome = true ∧ s.memberOver 0 = true ∧ (s.launch? 1).isSome = true) ∧ 0 ∈ task0.members) ∧
    (counting.launch? 1 = some { launch0 with ended := 1, waits := [4] } ∧ launch0.first = true ∧ launch0.counted < 1 ∧
      (∀ w ∈ [4], counting.anyInFlight w = false) ∧ launch0.statusAt % 8 = 0 ∧ launch0.statusAt ≠ 0 ∧
      reservedPA counting none true (fwdAddr counting launch0.statusAt) = false ∧
      (threeWays (0x10100 / 128) counting).all (fun e => askKind (e.1.devGet false (e.1.devLines launch0.statusAt 8)) == e.2) = true) := by
  refine ⟨⟨selected_iff (by decide +kernel), by decide +kernel, selected_iff (by decide +kernel)⟩, by decide +kernel, by decide +kernel,
    ⟨by decide +kernel, by decide +kernel, by decide +kernel, by decide +kernel, (⟨1, 0, 10, 2, 0, 0, 1024, [], [item 1]⟩, item 1), ?_⟩, by decide +kernel, by decide +kernel, by decide +kernel⟩
  decide +kernel

/-! ### Saves, merges, gangs -/

def upd0 (f : Core → Core) (s : State) : State := { s.updCore 0 f with ev := .one 0 }
def forced0 : State := upd0 (fun c => { c with req := true }) tasked
def saving0 (n : Nat) : State := upd0 (fun c => { c with saving := n }) (setBusy (.saving true) tasked)
def savingAll : State := upd0 (fun c => { c with saving := 2 }) tasked
def line0 : BrineLine := ⟨0x10040 / 128, 0xFF00000000000000, 0x0807060504030201, 0, false⟩
def mrgOf (f : Bool) : Merge := ⟨f, [line0], 0, 0, [], [], [], [(0, ctx0)], [], Stat.reset, Stat.reset, [], []⟩
def sstepAt (w1 : Word) : Arrival := ⟨.sstep 1 0 true, ⟨0, 0⟩, [0], 0, w1, Cap.null, false, false, [], []⟩
/-- The one task of a superstep has arrived, with a proposal of eight bytes; its merge is performed when w1 is 1. -/
def atSstep (w1 : Word) : State :=
  let s := mergedTask.updCore 0 (fun c => { c with mrg := some (mrgOf false) })
  { s with arrivals := [sstepAt w1], ev := .one 0 }
def failing (n : Nat) : State :=
  { (withTask { task0 with reps := n } (withLaunch launch0 base)).updCore 0 (fun c => { c with mrg := some (mrgOf true) }) with ev := .one 0 }

/-- What the clauses on a save, a merge and a rollback ask of a state. -/
def maySave (s : State) : Bool := decide ((s.core 0).task = some task0 ∧ task0.members = [0] ∧ (s.core 0).saving ≠ 0 ∧ (s.core 0).stopped = false ∧
      s.stuck 0 = false ∧ s.memberSaves (decide ((s.core 0).saving = 2)) 0 = true ∧ (s.cluster (gidCl 0)).queue? 1 0 = some ⟨1, 0, 8, 0, 0, 0, 0, [], []⟩)
def mayMerge (s : State) (r0 : Arrival) : Bool :=
  (s.arrivals.find? (fun r => decide (r.agent.gid = 0) && (match r.kind with | .sstep _ _ _ => true | _ => false)) == some r0) && s.sstepFull r0 &&
    s.arrivals.filter (sameSstep r0) == [r0] && !(s.core 0).stopped && decide ((s.core 0).mrg = some (mrgOf false)) && s.dev.migs.isEmpty &&
    decide (mergedLines (s.mergers [r0]) = [(0, line0)]) && decide ((s.core 0).task = some { task0 with merged := true }) && decide (task0.reps < 3) &&
    (List.range 128).all (fun i => !reservedPA s (s.partOf 0) (isSvc 0) (line0.line * 128 + i)) &&
    relDone s ⟨0, 0⟩ ⟨false, true, 0, true⟩ (s.ctx ⟨0, 0⟩).seq
def mayRoll (n : Nat) (s : State) : Bool := decide ((s.core 0).mrg = some (mrgOf true) ∧ (s.core 0).stopped = false ∧ (s.core 0).task = some { task0 with reps := n } ∧ s.superstepOf 0 = [0] ∧
    (∀ a ∈ s.liveAgents 0, (s.ctx a).busy = none) ∧ s.stuck 0 = false ∧ s.memberSaves true 0 = true ∧ s.undoRecords 0 = [] ∧
    (mrgOf true).snap.find? (fun p => p.1 == 0) = some (0, ctx0) ∧ (s.ctx ⟨0, 0⟩).live = true)

/-- What the home slices answer to the merge of the superstep: 0 go, 1 wait, 2 no. -/
def mergeAsk (s : State) : Ask := s.askLines ((mergedLines (s.mergers [sstepAt 0])).map (fun e => ((⟨e.1, 0⟩ : Agent), e.2.line)))
def askAfter (q : Ask) (s : State) : State := match q with | .go u => u | .wait u => u | .no => s
/-- The superstep's line is not in its slice, has been asked for, and is there. -/
def asked : State := askAfter (mergeAsk (atSstep 0)) (atSstep 0)
def there : State := hold line0.line (atSstep 0)

/-- A complete superstep and a complete collective of a task whose countdown has ended. -/
def dueAt (s : State) : State := upd0 (fun c => { c with req := true, task := c.task.or (some task0) }) s
/-- Members with records in their logs: one proposal spilled, one write undone. -/
def logged (s : State) : State :=
  let l : Launch := { launch0 with logrec := 4, logPages := [0x40000], stages := [{ stage0 with mrg := true }] }
  (s.updDev (fun d => { d with launches := [l] })).updCore 0 (fun c => { c with
    task := c.task.map (fun t => { t with logSlot := some 0 }), mrg := c.mrg.map (fun m => { m with up := 1, down := 1 }) })

theorem witness_SaveMergeEvents_asks :
    (([dueAt (atSstep 0), dueAt { collecting 0x103 with ev := .one 0 }] : List State).all (fun s =>
      (s.core 0).task.isSome && (s.core 0).req && (s.core 0).dlc == 0 && s.arrivals.any (fun r => s.sstepFull r || s.collFull r)) = true) ∧
    ((threeWays (0x40000 / 128) (logged (atSstep 0))).all (fun e => askKind (e.1.recordsGet [0] false) == e.2 &&
      (e.1.arrivals.find? (fun r => decide (r.agent.gid = 0) && (match r.kind with | .sstep _ _ _ => true | _ => false)) == some (sstepAt 0)) &&
      e.1.sstepFull (sstepAt 0)) = true ∧
     (threeWays (0x40200 / 128) (logged (failing 1))).all (fun e => askKind (e.1.recordsGet [0] true) == e.2 && e.1.superstepOf 0 == [0] &&
      !e.1.stuck 0 && e.1.memberSaves true 0) = true) ∧
    (askKind ((atSstep 0).recordsGet [0] false) = 0 ∧ askKind ((failing 1).recordsGet [0] true) = 0) ∧
    (askKind (mergeAsk (atSstep 0)) = 1 ∧ askKind (mergeAsk asked) = 2 ∧ askKind (mergeAsk there) = 0) ∧
    (∀ s ∈ [atSstep 0, asked, there], mayMerge s (sstepAt 0) = true ∧ s.ev = .one 0 ∧
      noLoadOverlap (s.ctx ⟨0, 0⟩) ((mergedLines (s.mergers [sstepAt 0])).map (fun e => e.2)) = true) ∧
    mayMerge (askAfter (mergeAsk there) there) (sstepAt 0) = true := by decide +kernel

theorem witness_SaveMergeEvents :
    ((forced0.core 0).task = some task0 ∧ (forced0.core 0).req = true ∧ (forced0.core 0).dlc = 0 ∧ (forced0.core 0).saving ≠ 2 ∧
      (forced0.core 0).stopped = false ∧ (forced0.core 0).binding = none ∧ task0.halted = false ∧ forced0.arrivals = []) ∧
    (maySave (saving0 1) = true ∧ maySave savingAll = true) ∧
    ((savingAll.core 0).saving = 2 ∧ (savingAll.ctx ⟨0, 0⟩).busy = none) ∧
    (mayMerge (atSstep 0) (sstepAt 0) = true ∧ mayMerge (atSstep 1) (sstepAt 1) = true) ∧
    (mayRoll 1 (failing 1) = true ∧ mayRoll 2 (failing 2) = true) := by decide +kernel

def ganged (f : Launch → Launch) (ns : Nat) : State :=
  { (withLaunch (f { launch0 with gang := true, gtick := 9000, gmarg := 1000, peers := [2] }) base).updDev (fun d =>
      { d with ns := ns, fallback := false, cyc := 128 }) with ev := .one 1 }
def acking (peers : List Nat) : State := { ganged (fun l => { l with gangState := 1, peers := peers }) 7999 with ev := .two 1 2 }
def offered (dom : Nat) : State :=
  { launching 256 5 1 0 8 with ev := .offer ⟨0, [], 0, descBytes dom 1 1 8, [false, false, false, false, true, false, false, false]⟩ }
def ticking (n : Nat) (late : Bool) : State :=
  let w := ⟨[(0, (word0 2)), (1, 0x10400), (2, 0x0000010000000000), (3, 500), (4, 0x000003E800000000), (7, 1)]⟩
  let s := (withLaunch launch0 base).updCluster 0 (fun k => { k with twin := [(3, w)], queues := [⟨1, 0, 8, 0, 0, 0, 0, [], List.replicate n (item 9)⟩] })
  { (s.updDev (fun d => { d with ns := 2600 })).setBytes 0x10500 (toBytes 8 1 ++ toBytes 8 (if late then 1 else 0)) with ev := .two 0 3 }

/-- Cluster 0 acknowledges a gang that it can place, and one whose stage needs more banks than there are. -/
def clusterAcking (peers : List Nat) (bnk : Nat) : State :=
  { ganged (fun l => { l with gangState := 1, peers := peers, stages := [{ stage0 with bnk := bnk }] }) 7999 with ev := .two 1 16 }
/-- A gang of this device alone without time lock, and one that time lock holds. -/
def alone (n : Nat) (fall : Bool) : State :=
  { ((ganged (fun l => { l with gangState := n, peers := [] }) 0).updDev (fun d => { d with fallback := fall })).updCluster 0 (fun k =>
      { k with freeCores := List.range 256, freeBanks := 256 }) with ev := .one 1 }

theorem witness_GangEvents_clusters :
    (([([2], 1, true), ([], 1, true), ([], 3000, false)] : List (List Nat × Nat × Bool)).all (fun e =>
      let s := clusterAcking e.1 e.2.1
      match s.launch? 1 with
      | some l => l.gangState == 1 && l.clm == [0] && l.cacks.isEmpty && decide (s.dev.ns + l.gmarg < l.gtick) && s.clusterPlace l 0 == e.2.2
      | none => false)) = true ∧
    (([(1, true), (2, true), (1, false)] : List (Nat × Bool)).all (fun e =>
      let s := alone e.1 e.2
      match s.launch? 1 with
      | some l => l.gangState == e.1 && s.gangHere l == e.2 && s.allPlace l
      | none => false)) = true := by decide +kernel

theorem witness_GangEvents :
    (([[2], [2, 4]] : List (List Nat)).all (fun p =>
      decide ((acking p).launch? 1 = some { launch0 with gang := true, gtick := 9000, gmarg := 1000, gangState := 1, peers := p }) &&
        p.contains 2 && !launch0.acks.contains 2 && decide ((acking p).dev.ns + 1000 < 9000)) = true) ∧
    (([(2, 9000, 3), (2, 9000, 0), (1, 8000, 3), (2, 8999, 3), (3, 9001, 3)] : List (Nat × Nat × Nat)).all (fun e =>
      let s := ganged (fun l => { l with gangState := e.1, count := e.2.2 }) e.2.1
      !s.dev.fallback && (match s.launch? 1 with
        | some l => l.gangState == e.1 && l.code == 0 && l.count == e.2.2 && l.gtick == 9000 && l.gmarg == 1000
        | none => false)) = true) ∧
    (([(5, false), (6, false), (0xFFF, true)] : List (Nat × Bool)).all (fun e =>
      let s := offered e.1
      let d := { descOf (descBytes e.1 1 1 8) [false, false, false, false, true, false, false, false] with gset := 0 }
      (s.peer 0).valid && (s.peer 0).part == 0 &&
        (!d.gang || d.dom == 0xFFF || descBad s 0 (descBytes e.1 1 1 8) d true || decide (launchCode s 0 d (clmOf s 0 d.clmBits) ≠ 0)) == e.2) = true) ∧
    (((offered 5).peer 0).part = 0 ∧ ((offered 5).peer 1).valid = false ∧ ((offered 5).peer 0).part ≠ 1 ∧ ¬ [0, 0].Nodup) ∧
    ((ganged id 0).updDev (fun d => { d with fallback := true })).dev.reports < 128 / 64 ∧
    (([(0, false), (0, true), (4, false)] : List (Nat × Bool)).all (fun e =>
      let s := ticking e.1 e.2
      let w := (s.cluster 0).win 3
      let u := s.slotTrace w w.nexts
      w.active && decide (w.tickOf w.nexts ≤ s.dev.ns) && !(u.slotWord w w.nexts 1).getLsbD 1 && s.ecc.isEmpty &&
        (threeWays (0x10500 / 128) s).all (fun e => askKind (e.1.devGet true (e.1.slotLines w w.nexts)) == e.2) && decide (s.launch? w.lid = some launch0) &&
        decide (launch0.stages[w.stage]? = some stage0) &&
        decide ((s.cluster 0).queue? w.lid w.stage = some ⟨1, 0, 8, 0, 0, 0, 0, [], List.replicate e.1 (item 9)⟩) &&
        (decide (e.1 ≠ 0) || (s.cluster 0).roomFor launch0 w.stage) &&
        (decide (u.slotWord w w.nexts 0 = w.word 7) && (u.slotWord w w.nexts 1).getLsbD 0) == e.2) = true) ∧
    ((ticking 0 false).updDev (fun d => { d with launches := [] })).launch? (((ticking 0 false).cluster 0).win 3).lid = none := by decide +kernel

/-! ### The edges of the device -/

/-- The host port, port 0 and its peer are up. -/
def linked : State := base.updDev (fun d => { d with rdy := 0x0002000001000000, peers := [(2, ⟨true, 1, 5, 0⟩)] })
/-- A window over the page at 0x10000. -/
def inWindow : State := linked.updDev (fun d => { d with fwin := [(0, ⟨0x8000000000010004, 0x10000, 0x20000⟩)] })
def mayWrite (s : State) (l : Link) (pa0 : Nat) (data : List Byte) : Bool :=
  s.linkMay l pa0 data.length && s.recs.all (fun r => r.gid != linkPos l || !s.anyInFlight r.wid)
/-- An earlier write of the host still has an invalidation in flight. -/
def delivering : State := { linked with recs := [⟨4, 4096, 0, false, [], none⟩], invals := [⟨4, 0x200, 300⟩] }
/-- A frame of ten bytes of stream 9 for slot 1 of window 3, which is open. -/
def frame0 : HeneriFrame := ⟨9, false, 1600, List.replicate 10 7⟩
def framed : State :=
  { (ticking 0 false).updDev (fun d => { d with ns := 1600, rdy := 0x01000000 }) with ev := .frame 0 frame0 }
def fits (s : State) (f : HeneriFrame) (cl i : Nat) : Bool :=
  decide ((s.cluster cl).part = Sparse.look 0 s.dev.portPart 0) && ((s.cluster cl).win i).active && decide (((s.cluster cl).win i).hstr = f.hstr.toNat)
/-- The miss table of a line's slice full of other lines. -/
def missesFull (pa : Nat) (s : State) : State := s.updSliceOf (pa / 128) (fun k => { k with
  open_ := (List.range 64).map (fun i => ⟨0x100000 + i, true, false, []⟩) })
def locked (good : Nat) (dtst : Word) : State := linked.updDev (fun d => { d with dtst := dtst, syncGood := good, fallback := false })

/-- Whether a Sync of this offset makes the first step to the master's time. -/
def steps (good : Nat) (dtst : Word) (off : Int) : Bool :=
  let s := locked good dtst
  let n := if off.natAbs ≤ 50 then s.dev.syncGood + 1 else 0
  ((s.dev.dtst.getLsbD 63 && decide (off.natAbs ≤ 500)) || decide (16 ≤ n)) && !s.dev.dtst.getLsbD 60

theorem witness_LinkTimeEvents :
    (mayWrite linked .host 0x10078 (List.replicate 8 1) = true ∧ mayWrite linked (.peer 2) 0x10000 (List.replicate 128 1) = true ∧
      windowOf linked 0x10078 = none ∧ reservedPA linked none true 0x10078 = false ∧
      mayWrite inWindow .host 0x10078 [1] = true ∧ (windowOf inWindow (fwdAddr inWindow 0x10078)).isSome = true ∧
      mayWrite linked (.peer 2) 0x400000 [1] = true ∧ windowOf linked 0x400000 = none ∧ reservedPA linked none true (fwdAddr linked 0x400000) = true) ∧
    (linked.linkMay .host 0x10079 8 = false ∧ linked.linkMay .host 0x200000 8 = false ∧ linked.linkMay .host hostBase 8 = true ∧
      linked.missRoom (fwdAddr linked 0x10078) = true ∧ (missesFull 0x10078 linked).missRoom (fwdAddr (missesFull 0x10078 linked) 0x10078) = false ∧
      (∃ r ∈ delivering.recs, r.gid = linkPos .host ∧ delivering.anyInFlight r.wid = true) ∧ linked.linkMay .host 0x10078 8 = true ∧ linked.ecc = []) ∧
    (linked.linkUp .host = true ∧ 56 + (List.replicate 8 (1 : Byte)).length ≤ 64 ∧ (toBytes 8 1).length = 8 ∧ ofBytes (toBytes 8 1) = 1 ∧ linked.dev.go = false) ∧
    (linked.laneLost 0 = false ∧ linked.laneLost 63 = false ∧
      (let s := linked.loseLanes [0, 1, 2, 4, 5]
       s.laneLost 3 = false ∧ (s.loseLanes [3]).lanesShort = true ∧ ([0, 1, 2] : List Nat).all (fun m => s.laneLost m) = true)) ∧
    (framed.ready 24 = true ∧ (List.range 8).all (fun c => (List.range 4).all (fun k => fits framed frame0 c k == (c == 0 && k == 3))) = true ∧
      (List.range 8).all (fun c => (List.range 4).all (fun k => !fits framed { frame0 with hstr := 8 } c k)) = true ∧
      (let w := (framed.cluster 0).win 3
       w.t0 ≤ frame0.ts.toNat ∧ (frame0.ts.toNat - w.t0) / w.per = 1 ∧ bits (framed.slotWord w 1 1) 63 32 = 0 ∧ framed.dev.migs = [] ∧ 1 < w.nexts + w.horiz ∧
        framed.dev.ns < w.tickOf 1 ∧ (framed.slotWord w 1 0).toNat = 1 ∧ bits (framed.slotWord w 1 1) 31 16 < 65535 ∧
        128 + 0 + (frameRecord frame0).length ≤ w.slsz ∧ (∀ k, k < w.slsz → reservedPA framed none true (w.slotAt 1 + k) = false ∧ windowOf framed (w.slotAt 1 + k) = none) ∧
        w.slotAt 1 % 128 = 0 ∧ w.slotAt 1 + w.slsz ≤ scratchBase ∧ framed.ecc = [] ∧
        (threeWays (w.slotAt 1 / 128) framed).all (fun e => askKind (e.1.devGet true ((e.1.recordLines 0 3 frame0).foldl natIns [])) == e.2) = true)) ∧
    (linked.ready 24 = true ∧ (locked 15 0).dev.syncGood + 1 = 16 ∧ (locked 0 0xA000000000000000).dev.dtst.getLsbD 63 = true ∧
      bits (locked 0 0xA000000000000000).dev.dtst 62 61 = 1 ∧ (50 : Int).natAbs ≤ 50 ∧ 500 < (-501 : Int).natAbs ∧ 50 < (500 : Int).natAbs ∧
      steps 15 0 50 = true ∧ steps 15 0x1000000000000000 50 = false ∧ steps 14 0 50 = false ∧ steps 0 0xA000000000000000 500 = true ∧
      linked.dev.ns ≤ 2600) := by
  decide +kernel

/-- An image that the checks beside the signature accept, and one with a reserved field set. -/
def image (r : Bool) : FwImage := ⟨[1, 2, 3], [], Config.fusedMinVersion, r, 0x12345678, 5, 0x100000, 0x40000, 7, [], [[0x0000000000000000, 1, 2]]⟩
def beingBroughtUp : State := State.reset.updDev (fun d => { d with fw := some (image false) })
def ready8 : State := State.reset.updDev (fun d => { d with rdy := 0xFF, avail := List.range 256, cycl := 2 ^ 30 })

/-- The last bank has shown 4,097 corrected errors in its window, the last channel uncorrectable ones in a third window in a row. -/
def failing8 : State := ready8.updDev (fun d => { d with
  ctr := [(4096 * 5 + 255, 3), (4096 * 16 + 2048 * 7 + 2047, 4097)], health := [(4096 * 4 + 255, ⟨0, 2, 2⟩)] })

theorem witness_DeviceEvents :
    (base.dev.bubbleRun < 7 ∧ 7 ≤ (base.updDev (fun d => { d with bubbleRun := 7 })).dev.bubbleRun ∧ base.dev.thermal = false ∧
      base.dev.acted = false ∧ (base.updDev (fun d => { d with acted := true })).dev.acted = true) ∧
    (ready8.dev.healthWindows < ready8.dev.cycl.toNat / 2 ^ 30 ∧ ready8.dev.quiesce = [] ∧ (∀ u, u < 128 → (ready8.judge 0 (some 1) u).2 = false) ∧
      (∀ u, u < 64 → (ready8.judge 6 none u).2 = false) ∧
      (failing8.judge 16 (some 20) (2048 * 7 + 2047)).2 = true ∧ (failing8.judge 16 (some 20) 0).2 = false ∧ (failing8.judge 4 (some 5) 255).2 = true ∧
      failing8.dev.healthWindows < failing8.dev.cycl.toNat / 2 ^ 30) ∧
    (State.reset.ready 8 = false ∧ State.reset.ready 57 = false ∧ State.reset.ready 49 = false ∧ State.reset.ready 0 = false ∧ State.reset.ready 7 = false ∧
      ((List.range 256).filter (fun c => (List.range 256).contains c && !State.reset.dev.badChans.contains c)).length = 256 ∧ bits State.reset.dev.rdy 7 0 = 0 ∧ bits ready8.dev.rdy 7 0 ≠ 0) ∧
    ((beingBroughtUp.ctx ⟨svcOf 7, 0⟩).live = false ∧ beingBroughtUp.dev.fw.isSome = true ∧ (image false).rnge[0]? = some [0, 1, 2] ∧
      (let s := beingBroughtUp.updDev (fun d => { d with memmap := 0x200000, fw := some { image false with version := 0 } })
       (threeWays (0x100000 / 128) s).all (fun e => askKind (e.1.devGet false (e.1.devLines (image false).svcBase (image false).payload.length)) == e.2) = true)) ∧
    (∀ i ∈ [24, 40], State.reset.ready i = false) ∧ State.reset.laneLost 0 = false ∧
    (State.reset.dev.bringupDone = false ∧ (∃ k, k < 8 ∧ State.reset.ready k = false) ∧
      (∀ k, k < 8 → ready8.ready k = true ∧ ∀ c, c < 32 → ready8.dev.avail.contains (32 * k + c) = true)) := by
  refine ⟨?_, ?_, ?_, ?_, ?_, ?_, ?_, ⟨0, ?_⟩, ?_⟩ <;> decide +kernel

/-- Whether an image is accepted rests on its signature alone here, which the model leaves free; one with a reserved field set is refused. -/
theorem witness_DeviceEvents_images :
    (Config.fusedMinVersion ≤ (image false).version ∧ (image false).reservedSet = false) ∧
    ¬ (Config.sm2Verify (image true) = true ∧ Config.fusedMinVersion ≤ (image true).version ∧ (image true).reservedSet = false) :=
  ⟨⟨Nat.le_refl _, rfl⟩, fun h => Bool.noConfusion h.2.2⟩

/-! ### Requests to the Ubhal -/

/-- A request of the words given, for partition 1, from core 0 at hypervisor level. -/
def req (op : Nat) (ws : List Nat) : UbReq := ⟨padTo 0 64 (((op * 2 ^ 56 + 2 ^ 48) :: ws).flatMap (toBytes 8)), some 0, .hypervisor, 5, 0⟩
def asking (r : UbReq) : State := base.updDev (fun d => { d with ubq := [r] })
/-- Cluster 3 closing for partition 1. -/
def closing : State := (asking (req 8 [3])).updCluster 3 (fun k => { k with closing := some 1 })
def pooled (part : Nat) (st : Nat) : State :=
  (asking (req 9 [0x100000, 0x10000])).updDev (fun d => { d with pools := [(part, ⟨0x10FFFF, 1, 0⟩)], launches := [{ launch0 with part := 1, storage := st }] })

/-- The requests that move lines: a home range to cluster 3, and a window that is in range or is not. -/
def rangeReq : UbReq := req 4 [15, 2 ^ 63 + 3 * 2 ^ 52 + 2 ^ 30, 2 ^ 30]
def windowReq (low : Nat) : UbReq := req 5 [15, 2 ^ 63 + 0x10000 + low, 0x10000, 0x20000]
def rangeQs (s : State) : List Quiesce :=
  (rangeLines (s.hrng 15) ++ rangeLines ⟨rangeReq.word 2, rangeReq.word 3, 0⟩).flatMap (fun x => quiesceRange x.1 x.2)
def windowQs (s : State) (r : UbReq) : List Quiesce :=
  let v := (r.word 2).getLsbD 63 && !windowRefused s ⟨r.word 2, r.word 3, r.word 4⟩
  (if (s.fwin 15).w0.getLsbD 63 = true then windowLines (s.fwin 15) else []) ++
    (if v = true then windowLines (windowWords ⟨r.word 2, r.word 3, r.word 4⟩ v) else [])
/-- A request whose quiesces are these, and how far they have come. -/
def quiescing (r : UbReq) (qs : List Quiesce) : State := (asking r).updDev (fun d => { d with quiesce := qs })
/-- What a clause on moved lines asks: another move stands in the way; a step is to be done; nothing but others' work is left; all is flushed. -/
def inTheWay (s : State) (qs : List Quiesce) : Bool := !s.dev.quiesce.all (fun q => qs.contains q)
def hasStep (s : State) (qs : List Quiesce) : Bool := s.dev.quiesce.all (fun q => qs.contains q) && !s.flushed qs && (s.quiesceAll qs).isSome
def noStep (s : State) (qs : List Quiesce) : Bool := s.dev.quiesce.all (fun q => qs.contains q) && !s.flushed qs && (s.quiesceAll qs).isNone
def allFlushed (s : State) (qs : List Quiesce) : Bool := s.dev.quiesce.all (fun q => qs.contains q) && s.flushed qs

/-- No other core than core 0 holds anything. -/
theorem other_core {g : Nat} (h : g ≠ 0) : tasked.core g = Core.reset := by
  have hc : tasked.cores = [(0, { core0 with task := some task0 })] := by decide +kernel
  simp [State.core, hc, Sparse.look, Ne.symm h]

theorem task_member (g : Nat) (k : Task) (hk : (tasked.core g).task = some k) : g ∈ k.members := by
  by_cases h : g = 0
  · subst h
    have h0 : (tasked.core 0).task = some task0 := by decide +kernel
    rw [h0] at hk
    cases hk
    exact List.mem_singleton.2 rfl
  · rw [other_core h] at hk
    cases hk

theorem none_held (g : Nat) : tasked.slotsHeld g = false := by
  by_cases h : g = 0
  · subst h
    decide +kernel
  · simp [State.slotsHeld, other_core h, Core.slot, Core.reset, Sparse.look, Slot.empty]

theorem none_spent (g : Nat) : tasked.coreSpent g = true := by
  by_cases h : g = 0
  · subst h
    decide +kernel
  · rw [State.coreSpent, other_core h]
    decide +kernel

theorem closing_held (g : Nat) : closing.slotsHeld g = false := by
  have hc : closing.cores = [(0, core0)] := by decide +kernel
  by_cases h : g = 0
  · subst h
    decide +kernel
  · simp [State.slotsHeld, State.core, hc, Sparse.look, Ne.symm h, Core.slot, Core.reset, Slot.empty]

theorem witness_UbhalRequests :
    (∀ op, op < 16 → (asking (req op [])).dev.ubq = req op [] :: [] ∧ (req op []).op = op ∧ (req op []).headOk = true ∧
      (req op []).partition = 1 ∧ (req op []).zeroFrom 1 = true) ∧
    ({ req 1 [] with level := .user }.hyper = false ∧ { req 2 [] with level := .supervisor, dom := 5 }.superZero = false ∧
      { req 10 [] with level := .user }.super = false ∧ (req 1 []).hyper = true ∧ (req 2 []).superZero = true ∧ (req 10 []).super = true) ∧
    ((⟨padTo 0 64 (toBytes 8 (2 ^ 56 + 2 ^ 55)), none, .hypervisor, 0, 0⟩ : UbReq).headOk = false ∧
      (⟨padTo 0 64 (toBytes 8 (2 ^ 56 + 2 ^ 32)), none, .hypervisor, 0, 0⟩ : UbReq).headOk = false) ∧
    (let r := req 1 [15, 2 ^ 63 + 0xFFFF, 0xFFFFFFFFFFFF]
     (r.word 1).toNat < 16 ∧ bits (r.word 2) 62 16 = 0 ∧ bits (r.word 3) 63 48 = 0 ∧ r.zeroFrom 4 = true) ∧
    (let r := req 2 [255, 2 ^ 63 + 0xFFF, 0xFFFFFFFFFFFFC]
     (r.word 1).toNat < 256 ∧ bits (r.word 2) 62 12 = 0 ∧ bits (r.word 3) 63 52 = 0 ∧ bits (r.word 3) 1 0 = 0 ∧ r.zeroFrom 4 = true) ∧
    (let r := req 3 [63, 3 * 2 ^ 62 + 7, 0xFFFFFFFF]
     (r.word 1).toNat < 64 ∧ bits (r.word 2) 61 3 = 0 ∧ bits (r.word 3) 63 32 = 0 ∧ r.zeroFrom 4 = true) ∧
    (let r := req 4 [15, 2 ^ 63 + 3 * 2 ^ 52 + 2 ^ 30, 2 ^ 30]
     (r.word 1).toNat < 16 ∧ bits (r.word 2) 62 55 = 0 ∧ bits (r.word 2) 29 0 = 0 ∧ bits (r.word 3) 63 52 = 0 ∧ bits (r.word 3) 29 0 = 0 ∧
      r.zeroFrom 4 = true ∧ r = rangeReq) ∧
    (let qs := rangeQs (asking rangeReq)
     inTheWay (quiescing rangeReq [⟨0, [1], 5, 6⟩]) qs = true ∧ hasStep (asking rangeReq) qs = true ∧ allFlushed (quiescing rangeReq qs) qs = true ∧
      noStep ((quiescing rangeReq qs).updSliceOf (2 ^ 23 + 7) (fun k =>
        { k with present := [2 ^ 23 + 7], dirty := [2 ^ 23 + 7], wb := List.replicate 16 (5, false) })) qs = true) ∧
    (([(4, false), (9, true)] : List (Nat × Bool)).all (fun e =>
      let r := req 5 [15, 2 ^ 63 + 0x10000 + e.1, 0x10000, 0x20000]
      decide ((r.word 1).toNat < 16) && r.zeroFrom 5 && windowRefused (asking r) ⟨r.word 2, r.word 3, r.word 4⟩ == e.2 && decide (r = windowReq e.1)) = true) ∧
    (let qs := windowQs (asking (windowReq 4)) (windowReq 4)
     hasStep (asking (windowReq 4)) qs = true ∧ allFlushed (quiescing (windowReq 4) qs) qs = true ∧
      allFlushed (asking (windowReq 9)) (windowQs (asking (windowReq 9)) (windowReq 9)) = true) ∧
    ((req 6 [0]).word 1 = 0 ∧ (req 6 [0]).zeroFrom 2 = true ∧ (∀ g k, (tasked.core g).task = some k → g ∈ k.members) ∧
      (∀ g, tasked.slotsHeld g = false ∧ tasked.coreSpent g = true) ∧
      (let s := (loadedOnce.updCore 0 (fun c => { c with stopped := true })).updCluster 0 (fun k => { k with part := 1 })
       (0 : Nat) < 2048 ∧ (s.cluster (gidCl 0)).part = (req 7 [0]).partition ∧ (s.core 0).stopped = true ∧ s.taskCores 0 = [0] ∧
        s.coreSpent 0 = false ∧ (req 7 [0]).word 1 = 0 ∧ (req 7 [0]).zeroFrom 2 = true)) ∧
    (let r := req 8 [2 ^ 63 + 15]
     (r.word 1).getLsbD 63 = true ∧ bits (r.word 1) 62 4 = 0 ∧ r.zeroFrom 2 = true) ∧
    (((req 8 [3]).word 1).toNat = 3 ∧ (req 8 [3]).zeroFrom 2 = true ∧ ((asking (req 8 [3])).cluster 3).part ≠ 1 ∧ ((asking (req 8 [3])).cluster 3).closing = none ∧
      ((asking (req 8 [3])).hasRanges 3 = false ∧ (closing.cluster 3).closing = some 1 ∧ closing.hasRanges 3 = false ∧ closing.drained 3 = true ∧
        closing.dev.quiesce = []) ∧
      (let s := (asking (req 8 [3])).updDev (fun d => { d with hrng := [(2, ⟨0x8030000040000000, 0x40000000, 0⟩)] })
       s.hasRanges 3 = true ∧ ∀ c, c < 8 → c ≠ 3 → ((s.updCluster 3 (fun k => { k with part := 6 })).cluster c).part ≠
        ((s.updCluster 3 (fun k => { k with part := 6 })).cluster 3).part) ∧ ∀ g, closing.slotsHeld g = false) ∧
    (((req 9 [0x100000, 0x10000]).word 2).toNat % 65536 = 0 ∧ (req 9 [0x100000, 0x10000]).zeroFrom 3 = true ∧
      memTop (asking (req 9 [0x200000, 0x10000])) < 0x200000 + 0x10000 ∧ memTop (pooled 1 0) = 0x200000 ∧
      (∃ e ∈ (pooled 0 0).dev.pools, e.1 ≠ 1 ∧ e.2.size ≠ 0 ∧ e.2.base < 0x100000 + 0x10000 ∧ 0x100000 < e.2.base + e.2.size) ∧
      (¬ ∃ e ∈ (pooled 1 0).dev.pools, e.1 ≠ 1 ∧ e.2.size ≠ 0 ∧ e.2.base < 0x100000 + 0x10000 ∧ 0x100000 < e.2.base + e.2.size) ∧
      (∃ l ∈ (pooled 1 64).dev.launches, l.part = 1 ∧ l.storage ≠ 0) ∧ ¬ ∃ l ∈ (pooled 1 0).dev.launches, l.part = 1 ∧ l.storage ≠ 0) ∧
    (let r := req 10 [3, 5 * 4096 + 255]
     r.zeroFrom 3 = true ∧ bits (r.word 2) 63 16 = 0 ∧ r.word 1 = 3 ∧ bits (r.word 2) 11 0 < counterUnits (bits (r.word 2) 15 12)) ∧
    (let r := req 11 [0, 0, 0, 0, 0x10040, 0x1000]
     bits (r.word 5) 63 52 = 0 ∧ r.zeroFrom 7 = true ∧ r.overLink = false ∧ { r with from_ := some 4096 }.overLink = true ∧
      (r.word 5).toNat + (r.word 6).toNat ≤ scratchBase ∧ (asking r).dev.migs = [] ∧
      (∀ k, k < 64 → reservedPA (asking r) none true ((r.word 5).toNat + k) = false) ∧
      (threeWays (0x10040 / 128) (asking r)).all (fun e => askKind (e.1.devGet false (e.1.devLines (r.word 5).toNat 64)) == e.2) = true) := by
  refine ⟨?_, ?_, ?_, ?_, ?_, ?_, ?_, ?_, ?_, ?_, ⟨?_, ?_, task_member, fun g => ⟨none_held g, none_spent g⟩, ?_⟩, ?_, ⟨?_, ?_, ?_, ?_, ?_, ?_, closing_held⟩,
    ⟨?_, ?_, ?_, ?_, ?_, ?_, ?_, ?_⟩, ?_, ?_⟩ <;>
    decide +kernel

end Sys2Proof.Tests
end

section
/-! PROOFS. Address spaces (R13-R22): the registers and queues of a context, the bounds of a capability as they are decoded and encoded, and
the results of the capability instructions, none of which adds authority. -/

namespace Sys2Proof.Machine

open Sys2Proof

theorem bits_eq_toNat_extract (w : Word) (hi lo : Nat) : bits w hi lo = (w.extractLsb' lo (hi + 1 - lo)).toNat := by
  rw [bits, BitVec.extractLsb'_toNat, Nat.shiftRight_eq_div_pow]

theorem toNat_append_eq_add {n m : Nat} (x : BitVec n) (y : BitVec m) : (x ++ y).toNat = x.toNat * 2 ^ m + y.toNat := by
  rw [BitVec.toNat_append, ← Nat.shiftLeft_add_eq_or_of_lt y.isLt, Nat.shiftLeft_eq]

/-! ## Metadata words that are written, as the fields they are made of (R14) -/

theorem mdSetSeal_eq_append (md : Word) (k : BitVec 4) :
    mdSetSeal md k.toNat = md.extractLsb' 52 12 ++ k ++ md.extractLsb' 0 48 := by
  apply BitVec.eq_of_toNat_eq
  have hk := k.isLt
  have hm := md.isLt
  simp only [mdSetSeal, mdSeal, bits, wd, BitVec.toNat_ofNat, toNat_append_eq_add, BitVec.extractLsb'_toNat, Nat.shiftRight_eq_div_pow]
  omega

theorem mdSetBounds_eq_append (md : Word) (e b t : Nat) :
    mdSetBounds md e b t = md.extractLsb' 48 16 ++ BitVec.ofNat 6 e ++ BitVec.ofNat 21 b ++ BitVec.ofNat 21 t := by
  apply BitVec.eq_of_toNat_eq
  simp only [mdSetBounds, bits, wd, BitVec.toNat_ofNat, toNat_append_eq_add, BitVec.extractLsb'_toNat, Nat.shiftRight_eq_div_pow]
  omega

theorem word_eq_high_append_low (w : Word) : w = w.extractLsb' 52 12 ++ w.extractLsb' 0 52 := by
  apply BitVec.eq_of_toNat_eq
  have := w.isLt
  simp only [toNat_append_eq_add, BitVec.extractLsb'_toNat, Nat.shiftRight_eq_div_pow]
  omega

theorem mdAndPerm_eq_append (md : Word) (perm : BitVec 12) :
    mdAndPerm md perm = (md.extractLsb' 52 12 &&& perm) ++ md.extractLsb' 0 52 := by
  have mask : (perm.setWidth 64 <<< 52 ||| 0x000FFFFFFFFFFFFF : Word) = perm ++ BitVec.allOnes 52 := by
    apply BitVec.eq_of_toNat_eq
    have hp : perm.toNat * 2 ^ 52 < 2 ^ 64 := by have := perm.isLt; omega
    rw [BitVec.toNat_or, BitVec.toNat_append, BitVec.toNat_shiftLeft, BitVec.toNat_setWidth_of_le (by decide),
      Nat.shiftLeft_eq, Nat.mod_eq_of_lt hp]
    rfl
  conv_lhs => rw [mdAndPerm, mask, word_eq_high_append_low md, BitVec.and_append, BitVec.and_allOnes]

/-- The bounds fields lie in the low 48 bits (R14). -/
theorem bounds_fields_eq_of_low {md md' : Word} (low : md.extractLsb' 0 48 = md'.extractLsb' 0 48) :
    mdE md = mdE md' ∧ mdB md = mdB md' ∧ mdT md = mdT md' := by
  have low := congrArg BitVec.toNat low
  simp only [BitVec.extractLsb'_toNat, Nat.shiftRight_eq_div_pow] at low
  simp only [mdE, mdB, mdT, bits]
  omega

/-! ## The decoded bounds (R18, R19) -/

/-- R18: the decoded base is a whole number of 2^E-byte blocks, whose low 21 bits are the B field and which lies within 2^20 blocks of the
address. -/
theorem capBase_spec {md : Word} (a : Word) (nw : mdWhole md = false) :
    ∃ k : Int, capBase a md = k * (2 ^ mdE md : Nat) ∧ (k - mdB md) % 2 ^ 21 = 0 ∧
      (a.toNat / 2 ^ mdE md : Nat) - 2 ^ 20 < k ∧ k ≤ (a.toNat / 2 ^ mdE md : Nat) + 2 ^ 20 := by
  have hB : mdB md < 2 ^ 21 := Nat.mod_lt _ (by decide)
  have hfloor : a.toNat - a.toNat % 2 ^ mdE md = a.toNat / 2 ^ mdE md * 2 ^ mdE md := by
    have := Nat.div_add_mod' a.toNat (2 ^ mdE md)
    omega
  simp only [capBase, nw, hfloor, Bool.false_eq_true, if_false]
  generalize a.toNat / 2 ^ mdE md = q
  generalize hd : (q % 2 ^ 21 + 2 ^ 21 - mdB md) % 2 ^ 21 = d
  refine ⟨q - (if 2 ^ 20 ≤ d then Int.ofNat d - 2 ^ 21 else Int.ofNat d), ?_, ?_, ?_, ?_⟩
  · push_cast [Int.ofNat_eq_natCast]
    ring
  all_goals
    simp only [Int.ofNat_eq_natCast]
    split <;> omega

/-- R18 read backwards: the base is the one block boundary near the address whose low 21 block bits are the B field. -/
theorem capBase_eq_of_window {md : Word} (a : Word) (nw : mdWhole md = false) {k : Int} (low : (k - mdB md) % 2 ^ 21 = 0)
    (above : (a.toNat / 2 ^ mdE md : Nat) - 2 ^ 20 < k) (below : k ≤ (a.toNat / 2 ^ mdE md : Nat) + 2 ^ 20) :
    capBase a md = k * (2 ^ mdE md : Nat) := by
  obtain ⟨j, base, lowj, abovej, belowj⟩ := capBase_spec a nw
  have same : j = k := by omega
  rw [base, same]

/-- Moving an address inside the representable region leaves the decoded base where it is (R19). -/
theorem capBase_eq_of_representable {a md new : Word} (rep : capRepresentable a md new = true) :
    capBase new md = capBase a md := by
  cases nw : mdWhole md
  · obtain ⟨k, base, low, -, -⟩ := capBase_spec a nw
    simp only [capRepresentable, nw, Bool.false_or, Bool.and_eq_true, decide_eq_true_eq, base, pow_add] at rep
    obtain ⟨above, below⟩ := rep
    have pos : (0 : Int) < (2 ^ mdE md : Nat) := by positivity
    have lower : k - 2 ^ 20 ≤ (new.toNat / 2 ^ mdE md : Nat) := by
      rw [Int.natCast_ediv, Int.le_ediv_iff_mul_le pos, sub_mul, mul_comm (2 ^ 20)]
      exact_mod_cast above
    have upper : (new.toNat / 2 ^ mdE md : Nat) < k + 2 ^ 20 := by
      rw [Int.natCast_ediv, Int.ediv_lt_iff_lt_mul pos, add_mul, mul_comm (2 ^ 20)]
      exact_mod_cast below
    rw [base]
    exact capBase_eq_of_window new nw low (by omega) (by omega)
  · simp [capBase, nw]

theorem capTop_eq_of_representable {a md new : Word} (rep : capRepresentable a md new = true) :
    capTop new md = capTop a md := by
  simp only [capTop, capBase_eq_of_representable rep]

/-- The decoded bounds depend on the address and the three bounds fields alone. -/
theorem capBase_congr (a : Word) {md md' : Word} (hE : mdE md = mdE md') (hB : mdB md = mdB md') (hT : mdT md = mdT md') :
    capBase a md = capBase a md' := by
  unfold capBase mdWhole
  rw [hE, hB, hT]

theorem capTop_congr (a : Word) {md md' : Word} (hE : mdE md = mdE md') (hB : mdB md = mdB md') (hT : mdT md = mdT md') :
    capTop a md = capTop a md' := by
  unfold capTop mdWhole capSpan
  rw [capBase_congr a hE hB hT, hE, hB, hT]

/-! ## The bounds encoder (R20) -/

theorem roundDown_eq_mul (n e : Nat) : roundDown n e = n / 2 ^ e * 2 ^ e := by
  have := Nat.div_add_mod' n (2 ^ e)
  unfold roundDown
  omega

theorem roundDown_le (n e : Nat) : roundDown n e ≤ n := Nat.sub_le _ _

theorem le_roundUp (n e : Nat) : n ≤ roundUp n e := by
  have pos : 0 < 2 ^ e := Nat.two_pow_pos e
  have := Nat.div_add_mod' (n + 2 ^ e - 1) (2 ^ e)
  have := Nat.mod_lt (n + 2 ^ e - 1) pos
  unfold roundUp
  omega

@[simp] theorem roundDown_zero (n : Nat) : roundDown n 0 = n := by simp [roundDown, Nat.mod_one]
@[simp] theorem roundUp_zero (n : Nat) : roundUp n 0 = n := by simp [roundUp]

/-- What step 1 of R20 finds: an exponent in range whose rounded bounds fit, and the first one tried does not fit unless it is it. -/
theorem findE_spec {fuel e0 base top e : Nat} (h : findE fuel e0 base top = some e) :
    e0 ≤ e ∧ e < e0 + fuel ∧ roundUp top e - roundDown base e ≤ 2 ^ (e + 20) ∧
      (e = e0 ∨ 2 ^ (e0 + 20) < roundUp top e0 - roundDown base e0) := by
  induction fuel generalizing e0 with
  | zero => simp [findE] at h
  | succ fuel ih =>
    rw [findE] at h
    split at h
    next fits =>
      obtain rfl := Option.some.inj h
      exact ⟨le_rfl, by omega, fits, .inl rfl⟩
    next wide =>
      obtain ⟨from_, to_, fits, -⟩ := ih h
      exact ⟨by omega, by omega, fits, .inr (by omega)⟩

/-- A B field that names the address's own block and a T field that names block `t`, fewer than 2^21 blocks on, decode to these blocks. -/
theorem decoded_of_fields {a md : Word} {t : Nat} (nw : mdWhole md = false) (hB : mdB md = a.toNat / 2 ^ mdE md % 2 ^ 21)
    (hT : mdT md = t % 2 ^ 21) (le : a.toNat / 2 ^ mdE md ≤ t) (fits : t - a.toNat / 2 ^ mdE md < 2 ^ 21) :
    capBase a md = (a.toNat / 2 ^ mdE md * 2 ^ mdE md : Nat) ∧ capTop a md = (t * 2 ^ mdE md : Nat) := by
  have base : capBase a md = (a.toNat / 2 ^ mdE md * 2 ^ mdE md : Nat) := by
    rw [Nat.cast_mul]
    exact capBase_eq_of_window a nw (by omega) (by omega) (by omega)
  have span : capSpan md = (t - a.toNat / 2 ^ mdE md) * 2 ^ mdE md := by
    rw [capSpan, hB, hT]
    congr 1
    omega
  refine ⟨base, ?_⟩
  simp only [capTop, nw, base, span, Bool.false_eq_true, if_false]
  rw [← Nat.cast_add, ← Nat.add_mul, Nat.add_sub_cancel' le]

@[simp] theorem mdE_mdSetBounds (md : Word) (e b t : Nat) : mdE (mdSetBounds md e b t) = e % 64 := by
  simp only [mdE, bits, mdSetBounds_eq_append, toNat_append_eq_add, BitVec.toNat_ofNat]
  omega

@[simp] theorem mdB_mdSetBounds (md : Word) (e b t : Nat) : mdB (mdSetBounds md e b t) = b % 2 ^ 21 := by
  simp only [mdB, bits, mdSetBounds_eq_append, toNat_append_eq_add, BitVec.toNat_ofNat]
  omega

@[simp] theorem mdT_mdSetBounds (md : Word) (e b t : Nat) : mdT (mdSetBounds md e b t) = t % 2 ^ 21 := by
  simp only [mdT, bits, mdSetBounds_eq_append, toNat_append_eq_add, BitVec.toNat_ofNat]
  omega

@[simp] theorem mdPerm_mdSetBounds (md : Word) (e b t : Nat) : mdPerm (mdSetBounds md e b t) = mdPerm md := by
  simp only [mdPerm, bits, mdSetBounds_eq_append, toNat_append_eq_add, BitVec.toNat_ofNat, BitVec.extractLsb'_toNat, Nat.shiftRight_eq_div_pow]
  omega

@[simp] theorem mdSeal_mdSetBounds (md : Word) (e b t : Nat) : mdSeal (mdSetBounds md e b t) = mdSeal md := by
  simp only [mdSeal, bits, mdSetBounds_eq_append, toNat_append_eq_add, BitVec.toNat_ofNat, BitVec.extractLsb'_toNat, Nat.shiftRight_eq_div_pow]
  omega

/-- What the encoder of R20 answers where it keeps the tags: an exponent whose rounded bounds fit, at the last exponent for a
request that is not empty; or the whole space. -/
theorem encodeBounds_cases {whole : Bool} {lo hi : Nat} (keeps : (encodeBounds whole lo hi).clear = false) :
    (∃ e ≤ 40, roundUp hi e - roundDown lo e ≤ 2 ^ (e + 20) ∧ (e = 40 → lo < hi) ∧
      encodeBounds whole lo hi = ⟨e, roundDown lo e / 2 ^ e % 2 ^ 21, roundUp hi e / 2 ^ e % 2 ^ 21, roundDown lo e, roundUp hi e,
        decide (roundDown lo e ≠ lo ∨ roundUp hi e ≠ hi), false⟩) ∨
    encodeBounds whole lo hi = ⟨40, 0, 0, 0, 2 ^ 64, decide (lo ≠ 0 ∨ hi ≠ 2 ^ 64), false⟩ := by
  unfold encodeBounds at keeps ⊢
  split at keeps
  next e found =>
    obtain ⟨-, inRange, fits, first⟩ := findE_spec found
    simp only [roundUp_zero, roundDown_zero] at first
    exact .inl ⟨e, by omega, fits, by omega, rfl⟩
  next =>
    cases whole
    · simp at keeps
    · exact .inr rfl

theorem encodeBounds_covers {whole : Bool} {lo hi : Nat} (keeps : (encodeBounds whole lo hi).clear = false) (inSpace : hi ≤ 2 ^ 64) :
    (encodeBounds whole lo hi).base ≤ lo ∧ hi ≤ (encodeBounds whole lo hi).top := by
  rcases encodeBounds_cases keeps with ⟨e, -, -, -, enc⟩ | enc <;> rw [enc]
  · exact ⟨roundDown_le lo e, le_roundUp hi e⟩
  · exact ⟨Nat.zero_le lo, inSpace⟩

theorem encodeBounds_exact_iff {whole : Bool} {lo hi : Nat} (keeps : (encodeBounds whole lo hi).clear = false) :
    (encodeBounds whole lo hi).wider = false ↔ (encodeBounds whole lo hi).base = lo ∧ (encodeBounds whole lo hi).top = hi := by
  rcases encodeBounds_cases keeps with ⟨e, -, -, -, enc⟩ | enc <;> rw [enc]
  · simp
  · simp only [decide_eq_false_iff_not]
    omega

/-- The fields of an exponent that encodes the request decode to the request's bounds rounded to blocks of it. -/
theorem decoded_rounded {e hi : Nat} (a md : Word) (le : a.toNat ≤ hi) (small : e ≤ 40)
    (fits : roundUp hi e - roundDown a.toNat e ≤ 2 ^ (e + 20)) (last : e = 40 → a.toNat < hi) :
    capBase a (mdSetBounds md e (roundDown a.toNat e / 2 ^ e % 2 ^ 21) (roundUp hi e / 2 ^ e % 2 ^ 21)) = roundDown a.toNat e ∧
      capTop a (mdSetBounds md e (roundDown a.toNat e / 2 ^ e % 2 ^ 21) (roundUp hi e / 2 ^ e % 2 ^ 21)) = roundUp hi e := by
  have pos : 0 < 2 ^ e := Nat.two_pow_pos e
  have up : roundUp hi e / 2 ^ e * 2 ^ e = roundUp hi e := by rw [roundUp, Nat.mul_div_cancel _ pos]
  have down : roundDown a.toNat e / 2 ^ e = a.toNat / 2 ^ e := by rw [roundDown_eq_mul, Nat.mul_div_cancel _ pos]
  have base := roundDown_le a.toNat e
  have top := le_roundUp hi e
  rw [down]
  rw [roundDown_eq_mul] at base fits ⊢
  rw [← up] at top fits ⊢
  generalize roundUp hi e / 2 ^ e = t at *
  rw [Nat.mul_div_cancel _ pos]
  have ordered : a.toNat / 2 ^ e ≤ t := Nat.le_of_mul_le_mul_right (base.trans (le.trans top)) pos
  have blocks : t - a.toNat / 2 ^ e ≤ 2 ^ 20 := by
    rw [← Nat.sub_mul, pow_add, mul_comm (2 ^ e)] at fits
    exact Nat.le_of_mul_le_mul_right fits pos
  have spans : e = 40 → a.toNat / 2 ^ e < t := fun h =>
    Nat.lt_of_mul_lt_mul_right (base.trans_lt ((last h).trans_le top))
  have exp : mdE (mdSetBounds md e (a.toNat / 2 ^ e % 2 ^ 21) (t % 2 ^ 21)) = e := by
    rw [mdE_mdSetBounds]
    omega
  have notWhole : mdWhole (mdSetBounds md e (a.toNat / 2 ^ e % 2 ^ 21) (t % 2 ^ 21)) = false := by
    rw [mdWhole, exp, mdB_mdSetBounds, mdT_mdSetBounds]
    generalize a.toNat / 2 ^ e = q at *
    simp only [Bool.and_eq_false_iff, decide_eq_false_iff_not]
    omega
  have decoded := decoded_of_fields (a := a) (t := t) notWhole (by rw [exp, mdB_mdSetBounds, Nat.mod_mod])
    (by rw [mdT_mdSetBounds, Nat.mod_mod]) (by rwa [exp]) (by rw [exp]; omega)
  rwa [exp] at decoded

/-- R18 decodes what R20 encodes: the bounds of a capability at the low end of the request are those that the encoder names. -/
theorem decoded_encodeBounds {whole : Bool} {hi : Nat} (a md : Word) (le : a.toNat ≤ hi)
    (keeps : (encodeBounds whole a.toNat hi).clear = false) :
    let enc := encodeBounds whole a.toNat hi
    capBase a (mdSetBounds md enc.e enc.b enc.t) = enc.base ∧ capTop a (mdSetBounds md enc.e enc.b enc.t) = enc.top := by
  rcases encodeBounds_cases keeps with ⟨e, small, fits, last, enc⟩ | enc <;> simp only [enc]
  · exact decoded_rounded a md le small fits last
  · simp [capBase, capTop, mdWhole]

/-! ## What `cbnd` makes (R284) -/

/-- What R20 makes of the bounds that `cbnd` asks for: `len` bytes from the capability's address. -/
def Cap.encoded (a : Cap) (len : Word) : EncBounds := encodeBounds (mdWhole a.md) a.addr.toNat (a.addr.toNat + len.toNat)

theorem boundCap_inex (a : Cap) (len : Word) (exact : Bool) : (boundCap a len exact).2 = (a.encoded len).wider := rfl

theorem Cap.addr_mk (addr md : Word) (tag : Bool) : (Cap.mk addr md tag).addr = addr := rfl

/-- The address stays. The kernel must not be asked this by `rfl`: it would compare the metadata words by evaluating them. -/
@[simp] theorem boundCap_addr (a : Cap) (len : Word) (exact : Bool) : (boundCap a len exact).1.addr = a.addr :=
  Cap.addr_mk ..

theorem boundCap_md (a : Cap) (len : Word) (exact : Bool) :
    (boundCap a len exact).1.md = mdSetBounds a.md (a.encoded len).e (a.encoded len).b (a.encoded len).t := rfl

@[simp] theorem mdPerm_boundCap (a : Cap) (len : Word) (exact : Bool) : mdPerm (boundCap a len exact).1.md = mdPerm a.md := by
  rw [boundCap_md, mdPerm_mdSetBounds]

@[simp] theorem mdSeal_boundCap (a : Cap) (len : Word) (exact : Bool) : mdSeal (boundCap a len exact).1.md = mdSeal a.md := by
  rw [boundCap_md, mdSeal_mdSetBounds]

theorem boundCap_decoded {a : Cap} {len : Word} (exact : Bool) (keeps : (a.encoded len).clear = false) :
    capBase a.addr (boundCap a len exact).1.md = (a.encoded len).base ∧
      capTop a.addr (boundCap a len exact).1.md = (a.encoded len).top := by
  rw [boundCap_md]
  exact decoded_encodeBounds a.addr a.md (Nat.le_add_right _ _) keeps

/-- When `cbnd` keeps the tag (R284). -/
theorem boundCap_tag_iff {a : Cap} {len : Word} {exact : Bool} :
    (boundCap a len exact).1.tag = true ↔
      a.tag = true ∧ (a.encoded len).clear = false ∧ capValid a.addr a.md = true ∧ a.addr.toNat + len.toNat ≤ 2 ^ 64 ∧
        capBase a.addr a.md ≤ ((a.encoded len).base : Int) ∧ ((a.encoded len).top : Int) ≤ capTop a.addr a.md ∧
        (exact = true → (boundCap a len exact).2 = false) := by
  simp only [boundCap, Cap.encoded, Bool.and_eq_true, decide_eq_true_eq, Bool.not_eq_true', Bool.and_eq_false_imp, and_assoc]

/-- A tag that `cbnd` keeps stands on bounds inside the source's. -/
theorem boundCap_inside {a : Cap} {len : Word} {exact : Bool} (keeps : (boundCap a len exact).1.tag = true) :
    capBase a.addr a.md ≤ capBase a.addr (boundCap a len exact).1.md ∧
      capTop a.addr (boundCap a len exact).1.md ≤ capTop a.addr a.md := by
  obtain ⟨-, clear, -, -, base, top, -⟩ := boundCap_tag_iff.1 keeps
  obtain ⟨decBase, decTop⟩ := boundCap_decoded exact clear
  rw [decBase, decTop]
  exact ⟨base, top⟩

/-- Settles O19: the bounds that R20 encodes decode to the encoder's own (`boundCap_decoded`), which cover the request. -/
theorem boundsCoverRequest : Obligations.BoundsCoverRequest := by
  unfold Obligations.BoundsCoverRequest
  intro a len exact
  refine ⟨boundCap_addr .., mdPerm_boundCap .., mdSeal_boundCap .., fun keeps => ?_⟩
  obtain ⟨inBase, inTop⟩ := boundCap_inside keeps
  obtain ⟨tag, clear, -, inSpace, -, -, exactly⟩ := boundCap_tag_iff.1 keeps
  obtain ⟨lower, upper⟩ := encodeBounds_covers clear inSpace
  obtain ⟨base, top⟩ := boundCap_decoded exact clear
  rw [boundCap_addr]
  refine ⟨tag, ?_, ?_, inBase, inTop, ?_, exactly⟩
  · rw [base]
    exact Nat.cast_le.2 lower
  · rw [top]
    exact Nat.cast_le.2 upper
  · rw [base, top, boundCap_inex, Nat.cast_inj, Nat.cast_inj]
    exact encodeBounds_exact_iff clear

/-! ## Scalar registers and queue operands (R21, R239, R240) -/

theorem pairMate_ne_self (n : Nat) : pairMate n ≠ n := by
  unfold pairMate
  split <;> omega

/-- The registers of one pair are a register and its mate. -/
theorem pair_eq_iff (m n : Nat) : m / 2 = n / 2 ↔ m = n ∨ pairMate n = m := by
  unfold pairMate
  split <;> omega

@[simp] theorem Ctx.writeX_zero (c : Ctx) (v : Word) : c.writeX 0 v = c := rfl

/-- A pair that is written reads back, the pair of `x0` excepted. -/
theorem Ctx.getPair_writePair (c : Ctx) {n : Nat} (k : Cap) (hn : n ≠ 0) : (c.writePair n k).getPair n = k := by
  simp [Ctx.getPair, Ctx.getX_writePair, hn]

theorem Ctx.getX_writePair_other (c : Ctx) {n m : Nat} (k : Cap) (even : n % 2 = 0) (other : m / 2 ≠ n / 2) :
    (c.writePair n k).getX m = c.getX m := by
  have hn : n ≠ m := by rintro rfl; exact other rfl
  have hn1 : n + 1 ≠ m := by omega
  rw [Ctx.getX_writePair, if_neg hn1, if_neg hn]
  split
  next zero => rw [zero, Ctx.getX_zero]
  next => rfl

theorem Ctx.getSq_pushSq (c : Ctx) (q : Nat) (v : Line) (k : Nat) :
    (c.pushSq q v).getSq k = if q = k then c.getSq k ++ [.val v] else c.getSq k := by
  rw [Ctx.pushSq, Ctx.getSq_putSq]
  split
  next same => rw [same]
  next => rfl

/-- Reading a load-data queue whose oldest entry is performed. -/
theorem Ctx.readS_lq (c : Ctx) {q : Fin 4} {e : Line} {rest : List QEntry} (head : c.getLq q.val = .val e :: rest) :
    c.readS (.lq q) = (e.setWidth 64, c.putLq q.val rest) := by
  simp only [Ctx.readS, Ctx.popLq, head]

/-- Settles O14, from what reading a register or a queue gives after a write of it. -/
theorem registerOperands : Obligations.RegisterOperands := by
  unfold Obligations.RegisterOperands
  refine ⟨fun c n m v _ _ => ⟨c.getX_zero, c.writeX_zero v, ?_, ?_, ?_, ?_, ?_, ?_⟩, fun c p q v e rest => ⟨⟨?_, ?_, ?_⟩, ?_⟩⟩
  · intro hn
    simp [Ctx.getX_writeX, hn, pairMate_ne_self]
  · intro hn hm
    rw [Ctx.getX_writeX, if_neg (Ne.symm hm)]
    split_ifs <;> rfl
  · intro hn pair
    rw [Ctx.getX_writeX]
    rcases (pair_eq_iff m n).1 pair with rfl | mate
    · simp [hn, pairMate_ne_self]
    · split_ifs with hm
      · rw [hm.resolve_right hn, Ctx.getX_zero]
        rfl
      · rfl
  · intro hn other
    obtain ⟨hm, mate⟩ := not_or.1 (mt (pair_eq_iff m n).2 other)
    simp [Ctx.getX_writeX, mate, Ne.symm hm]
  · exact fun k even hn => ⟨c.getPair_writePair k hn, c.getX_writePair_other k even⟩
  · exact fun d => ⟨c.writeS_live d v, c.writeS_region d v, c.writeS_slot d v⟩
  · exact (c.getSq_pushSq ..).trans (if_pos rfl)
  · exact fun r other => (c.getSq_pushSq ..).trans (if_neg fun same => other (Fin.ext same.symm))
  · exact c.pushSq_x ..
  · intro head
    rw [c.readS_lq head]
    refine ⟨rfl, ?_, fun r other => ?_, c.putLq_x ..⟩
    · rw [Ctx.getLq_putLq, if_pos rfl]
    · rw [Ctx.getLq_putLq, if_neg fun same => other (Fin.ext same.symm)]

/-! ## The capability instructions (R282-R287) -/

theorem exec_cset (h : Hdr) (o : FmtCAP) (s : State) :
    exec (.cset h o) s = capModify h o s (fun c a b => .ok (a.move b, c)) := rfl

theorem exec_cinc (h : Hdr) (o : FmtCAP) (s : State) :
    exec (.cinc h o) s = capModify h o s (fun c a b => .ok (a.move (a.addr + b), c)) := rfl

theorem exec_cbnd (h : Hdr) (o : FmtCAP) (s : State) :
    exec (.cbnd h o) s = capModify h o s (fun c a b => .ok ((boundCap a b false).1, c.setInex (boundCap a b false).2)) := rfl

theorem exec_cbndX (h : Hdr) (o : FmtCAP) (s : State) :
    exec (.cbndX h o) s = capModify h o s (fun c a b => .ok ((boundCap a b true).1, c.setInex (boundCap a b true).2)) := rfl

theorem exec_cperm (h : Hdr) (o : FmtCAP) (s : State) :
    exec (.cperm h o) s = capModify h o s (fun c a _ => .ok (⟨a.addr, mdAndPerm a.md o.perm, a.tag⟩, c)) := rfl

theorem exec_cseal (h : Hdr) (o : FmtCAP) (s : State) : exec (.cseal h o) s = execCseal h o s := rfl

theorem exec_cclr (h : Hdr) (o : FmtCAP) (s : State) :
    exec (.cclr h o) s = pure1 h s (pairOps o.a) [o.d] (fun c =>
      c.writePair (opNum o.d) ⟨(c.readPair o.a).addr, (c.readPair o.a).md, false⟩) := rfl

theorem capSourceFault_malformed {k : Cap} (tag : k.tag = true) (bad : mdMalformed k.md = true) :
    capSourceFault k = some 7 := by
  simp [capSourceFault, tag, bad]

theorem capSourceFault_sealed {k : Cap} (tag : k.tag = true) (good : mdMalformed k.md = false) (sealed : mdSeal k.md ≠ 0) :
    capSourceFault k = some 2 := by
  simp [capSourceFault, tag, good, sealed]

theorem capSourceFault_none {k : Cap} (sound : k.tag = true → mdMalformed k.md = false ∧ mdSeal k.md = 0) :
    capSourceFault k = none := by
  cases tag : k.tag
  · simp [capSourceFault, tag]
  · obtain ⟨good, unsealed⟩ := sound tag
    simp [capSourceFault, good, unsealed]

/-- Taking the wait clause leaves the privilege level. -/
theorem Issues.me_level {h : Hdr} {s s1 : State} {rg : InRegion} {srcs dsts : List Operand} (hi : Issues h s rg srcs dsts s1) :
    s1.me.level = s.me.level := by
  rw [State.me, hi.cur, State.takeWait_ctx_level hi.wait]
  rfl

/-- The end of an instruction that only changes its own context is `State.after`. -/
theorem Issues.close_done {h : Hdr} {s s1 : State} {rg : InRegion} {srcs dsts : List Operand} (hi : Issues h s rg srcs dsts s1)
    (f : Ctx → Ctx) : (Res.done (s1.self f)).close s.cur h s1 = .next (s1.after h f) := by
  rw [State.after, hi.cur]
  rfl

theorem pure1_eq_after {h : Hdr} {s s1 : State} {srcs dsts : List Operand} (hi : Issues h s .normal srcs dsts s1) (f : Ctx → Ctx) :
    pure1 h s srcs dsts f = .next (s1.after h f) := (issue_of_issues hi _).trans (hi.close_done f)

section
variable {h : Hdr} {o : FmtCAP} {s s1 : State}

/-- A source at fault ends the instruction before it has an effect (R282). -/
theorem capModify_fault (hi : Issues h s .normal (pairOps o.a ++ [o.b]) [o.d] s1) {cause : Nat}
    (bad : capSourceFault (s1.me.readPair o.a) = some cause) (f : Ctx → Cap → Word → Except Nat (Cap × Ctx)) :
    capModify h o s f = .next (s1.fault s.cur h 1 cause (s1.me.readPair o.a).addr) := by
  rw [capModify, issue_of_issues hi]
  simp only [bad, Res.close]

/-- A source without fault gives its result to the pair in D, in the context in which B has been read. -/
theorem capModify_result (hi : Issues h s .normal (pairOps o.a ++ [o.b]) [o.d] s1)
    (sound : (s1.me.readPair o.a).tag = true → mdMalformed (s1.me.readPair o.a).md = false ∧ mdSeal (s1.me.readPair o.a).md = 0)
    {f : Cap → Word → Cap} {g : Cap → Word → Ctx → Ctx} :
    capModify h o s (fun c a b => .ok (f a b, g a b c)) = .next (s1.after h (fun c =>
      (g (s1.me.readPair o.a) (c.readS o.b).1 (c.readS o.b).2).writePair (opNum o.d) (f (s1.me.readPair o.a) (c.readS o.b).1))) := by
  rw [capModify, issue_of_issues hi]
  simp only [capSourceFault_none sound]
  rw [← hi.close_done]
  rfl

/-- Of the instructions that modify a capability, each is `capModify` of its own result. -/
theorem exec_eq_capModify {mk : Hdr → FmtCAP → Instr}
    (hmk : mk ∈ ([.cset, .cinc, .cbnd, .cbndX, .cperm] : List (Hdr → FmtCAP → Instr)))
    (h : Hdr) (o : FmtCAP) (s : State) : ∃ f, exec (mk h o) s = capModify h o s f := by
  simp only [List.mem_cons, List.not_mem_nil, or_false] at hmk
  rcases hmk with rfl | rfl | rfl | rfl | rfl
  exacts [⟨_, exec_cset ..⟩, ⟨_, exec_cinc ..⟩, ⟨_, exec_cbnd ..⟩, ⟨_, exec_cbndX ..⟩, ⟨_, exec_cperm ..⟩]

/-- The seal types that `cseal` refuses are 0, and 15 at user level (R285). -/
theorem cseal_illegal (hi : Issues h s .normal (pairOps o.a) [o.d] s1) (refused : o.sealTy = 0 ∨ (o.sealTy = 15 ∧ s.me.level = .user)) :
    exec (.cseal h o) s = .next (s1.fault s.cur h 5 0 s1.me.slotVal) := by
  rw [exec_cseal, execCseal, issue_of_issues hi]
  simp only [hi.me_level, if_pos refused, Res.close]
  rw [State.me, hi.cur]

/-- A source at fault ends `cseal` before it has an effect (R282, R285). -/
theorem cseal_fault (hi : Issues h s .normal (pairOps o.a) [o.d] s1)
    (allowed : ¬(o.sealTy = 0 ∨ (o.sealTy = 15 ∧ s.me.level = .user))) {cause : Nat}
    (bad : capSourceFault (s1.me.readPair o.a) = some cause) :
    exec (.cseal h o) s = .next (s1.fault s.cur h 1 cause (s1.me.readPair o.a).addr) := by
  rw [exec_cseal, execCseal, issue_of_issues hi]
  simp only [hi.me_level, if_neg allowed, bad, Res.close]

theorem cseal_unfit_iff (a : Cap) :
    (a.tag && !(bit a.md permExec && decide (a.addr.toNat % 64 = 0))) = true ↔
      a.tag = true ∧ (a.md.getLsbD 61 = false ∨ a.addr.toNat % 64 ≠ 0) := by
  simp [bit, permExec]

/-- A source without fault: `cseal` needs execute permission and a block address of a tagged one, and seals it. -/
theorem cseal_sound (hi : Issues h s .normal (pairOps o.a) [o.d] s1) (allowed : ¬(o.sealTy = 0 ∨ (o.sealTy = 15 ∧ s.me.level = .user)))
    (sound : (s1.me.readPair o.a).tag = true → mdMalformed (s1.me.readPair o.a).md = false ∧ mdSeal (s1.me.readPair o.a).md = 0) :
    exec (.cseal h o) s =
      let a := s1.me.readPair o.a
      if a.tag = true ∧ (a.md.getLsbD 61 = false ∨ a.addr.toNat % 64 ≠ 0) then .next (s1.fault s.cur h 1 3 a.addr)
      else .next (s1.after h (fun c => c.writePair (opNum o.d) ⟨a.addr, mdSetSeal a.md o.sealTy.toNat, a.tag⟩)) := by
  rw [exec_cseal, execCseal, issue_of_issues hi]
  simp only [hi.me_level, if_neg allowed, capSourceFault_none sound, cseal_unfit_iff]
  split
  · rfl
  · exact hi.close_done _

end

/-- Settles O18: a source at fault ends each instruction (`capModify_fault`, `cseal_fault`), any other retires it with its own result. -/
theorem capabilityResults : Obligations.CapabilityResults := by
  unfold Obligations.CapabilityResults
  refine ⟨fun h o s s1 hi => ⟨fun mk hmk tag => ?_, fun sound => ⟨?_, ?_, ?_⟩⟩, fun h o s s1 hi =>
    ⟨fun refused => cseal_illegal hi refused, fun nonzero level tag => ?_, fun nonzero level sound => ?_, ?_⟩⟩
  · obtain ⟨f, e⟩ := exec_eq_capModify hmk h o s
    rw [e]
    exact ⟨fun bad => capModify_fault hi (capSourceFault_malformed tag bad) f,
      fun good sealed => capModify_fault hi (capSourceFault_sealed tag good sealed) f⟩
  · intro e he
    simp only [List.mem_cons, List.not_mem_nil, or_false] at he
    rcases he with rfl | rfl
    · rw [exec_cset]
      exact capModify_result hi sound
    · rw [exec_cinc]
      exact capModify_result hi sound
  · rw [exec_cperm]
    simp only [← mdAndPerm_eq_append]
    exact capModify_result hi sound
  · intro e he
    simp only [List.mem_cons, List.not_mem_nil, or_false] at he
    rcases he with rfl | rfl
    · rw [exec_cbnd]
      exact capModify_result hi sound
    · rw [exec_cbndX]
      exact capModify_result hi sound
  · have allowed : ¬(o.sealTy = 0 ∨ (o.sealTy = 15 ∧ s.me.level = .user)) := by tauto
    exact ⟨fun bad => cseal_fault hi allowed (capSourceFault_malformed tag bad),
      fun good sealed => cseal_fault hi allowed (capSourceFault_sealed tag good sealed)⟩
  · have allowed : ¬(o.sealTy = 0 ∨ (o.sealTy = 15 ∧ s.me.level = .user)) := by tauto
    rw [cseal_sound hi allowed sound]
    refine ⟨fun tag unfit => if_pos ⟨tag, unfit⟩, fun fit => ?_⟩
    rw [← mdSetSeal_eq_append]
    exact if_neg fun ⟨tag, unfit⟩ =>
      unfit.elim (fun noExec => Bool.false_ne_true (noExec.symm.trans (fit tag).1)) (absurd (fit tag).2)
  · rw [exec_cclr]
    exact pure1_eq_after hi _

/-! ## What waiting, retiring and faulting leave of the scalar registers -/

/-- The agent in turn and every context's scalar registers with their tags are the same. -/
structure State.KeepsX (s t : State) : Prop where
  cur : t.cur = s.cur
  x : ∀ b : Agent, (t.ctx b).x = (s.ctx b).x

/-- Abandoning waits leaves the registers of every context of the core. -/
theorem Core.unwait_ctx_x (c : Core) (i j : Nat) : ((c.unwait i).ctx j).x = (c.ctx j).x := by
  simp only [Core.ctx, Core.unwait]
  induction c.ctxs with
  | nil => rfl
  | cons e l ih =>
    rw [List.map_cons]
    split <;>
    · simp only [Sparse.look]
      split
      · rfl
      · exact ih

namespace State.KeepsX

variable {s t u : State} {a : Agent} {h : Hdr}

theorem refl (s : State) : s.KeepsX s := ⟨rfl, fun _ => rfl⟩

theorem trans (first : s.KeepsX t) (second : t.KeepsX u) : s.KeepsX u :=
  ⟨second.cur.trans first.cur, fun b => (second.x b).trans (first.x b)⟩

/-- A pair reads the same. -/
theorem getPair (keeps : s.KeepsX t) (n : Nat) : t.me.getPair n = s.me.getPair n := by
  have x : t.me.x = s.me.x := by
    rw [State.me, keeps.cur]
    exact keeps.x s.cur
  simp only [Ctx.getPair, Ctx.getX, x]

/-- A change of one core that keeps the registers of its contexts. -/
theorem updCore (g : Nat) {f : Core → Core} (hf : ∀ c i, ((f c).ctx i).x = (c.ctx i).x) : s.KeepsX (s.updCore g f) := by
  refine ⟨State.updCore_cur .., fun b => ?_⟩
  rw [State.ctx]
  by_cases own : g = b.gid
  · rw [own, State.core_updCore_same, hf]
    rfl
  · rw [State.core_updCore_ne s f own]
    rfl

/-- A change of one core that keeps its contexts. -/
theorem updCore_ctxs (g : Nat) {f : Core → Core} (hf : ∀ c, (f c).ctxs = c.ctxs) : s.KeepsX (s.updCore g f) :=
  updCore g fun c i => by rw [Core.ctx, hf]; rfl

theorem updCtx (a : Agent) {f : Ctx → Ctx} (hf : ∀ c, (f c).x = c.x) : s.KeepsX (s.updCtx a f) := by
  refine ⟨State.updCtx_cur .., fun b => ?_⟩
  by_cases own : a = b
  · rw [own, State.ctx_updCtx_same, hf]
  · rw [State.ctx_updCtx_ne s f own]

/-- A change that keeps the cores and the agent in turn. -/
theorem of_cores (cores : t.cores = s.cores) (cur : t.cur = s.cur) : s.KeepsX t :=
  ⟨cur, fun b => by rw [State.ctx, State.core_cores t s cores]; rfl⟩

/-! A chain of changes is followed from its last change to its first. -/

theorem then_updCtx (first : s.KeepsX t) {f : Ctx → Ctx} (hf : ∀ c, (f c).x = c.x) : s.KeepsX (t.updCtx a f) :=
  first.trans (updCtx a hf)

theorem then_updCore {g : Nat} (first : s.KeepsX t) {f : Core → Core} (hf : ∀ c i, ((f c).ctx i).x = (c.ctx i).x) :
    s.KeepsX (t.updCore g f) := first.trans (updCore g hf)

theorem then_updCore_ctxs {g : Nat} (first : s.KeepsX t) {f : Core → Core} (hf : ∀ c, (f c).ctxs = c.ctxs) :
    s.KeepsX (t.updCore g f) := first.trans (updCore_ctxs g hf)

theorem foldl {α : Type} {f : State → α → State} (hf : ∀ (s : State) e, s.KeepsX (f s e)) (l : List α) (s : State) :
    s.KeepsX (l.foldl f s) := by
  induction l generalizing s with
  | nil => exact refl s
  | cons e l ih => exact (hf s e).trans (ih _)

theorem addSem (s : State) (g n k : Nat) : s.KeepsX (s.addSem g n k) := updCore_ctxs g fun _ => rfl

theorem signalNext (s : State) (g : Nat) (h : Hdr) : s.KeepsX (s.signalNext g h) := by
  unfold State.signalNext
  split
  · exact refl s
  · exact updCore_ctxs g fun _ => rfl

theorem retire (s : State) (a : Agent) (h : Hdr) : s.KeepsX (s.retire a h) :=
  then_updCtx (signalNext s a.gid h) Ctx.advance_x

theorem waitMore (s : State) (a : Agent) : s.KeepsX (s.waitMore a) := updCtx a fun _ => rfl

theorem observe (s : State) (a : Agent) (ws : List Nat) : s.KeepsX (s.observe a ws) := by
  unfold State.observe
  split
  · exact refl s
  · exact updCtx a fun _ => rfl

theorem takeSem (s : State) (a : Agent) (h : Hdr) : s.KeepsX (s.takeSem a h) := by
  unfold State.takeSem
  refine then_updCtx (trans ?_ (observe ..)) fun _ => rfl
  exact updCore_ctxs a.gid fun _ => rfl

theorem takeWait (taken : s.takeWait a h = some t) : s.KeepsX t := by
  rcases State.takeWait_cases taken with ⟨rfl, -⟩ | ⟨-, -, -, -, rfl⟩
  · exact refl t
  · exact takeSem s a h

theorem addBack (s : State) (a : Agent) (h : Hdr) : s.KeepsX (s.addBack a h) := by
  unfold State.addBack
  split
  · exact then_updCtx (addSem ..) fun _ => rfl
  · exact refl s

theorem abandon (s : State) (a : Agent) : s.KeepsX (s.abandon a) := by
  unfold State.abandon
  split
  · exact refl s
  · refine then_updCore_ctxs (updCtx a fun _ => ?_) fun _ => ?_ <;> rfl

theorem abortTicket (s : State) (a : Agent) : s.KeepsX (s.abortTicket a) := by
  unfold State.abortTicket State.resolve
  dsimp only
  split
  · refine trans (updCtx a fun _ => ?_) (of_cores (State.updStream_cores ..) (State.updStream_cur ..))
    rfl
  · exact refl s

theorem then_unwait {g i : Nat} (first : s.KeepsX t) : s.KeepsX (t.updCore g (fun k => k.unwait i)) :=
  then_updCore first fun c j => c.unwait_ctx_x i j

theorem letGo (s : State) (a : Agent) : s.KeepsX (s.letGo a) := by
  unfold State.letGo
  refine then_updCore_ctxs (of_cores ?_ ?_) fun c => ?_
  · rfl
  · rfl
  · split <;> rfl

theorem haltCtx (s : State) (a : Agent) : s.KeepsX (s.haltCtx a) := by
  unfold State.haltCtx
  refine then_unwait (then_updCtx (trans (trans (addBack ..) (abandon ..)) (abortTicket ..)) fun _ => ?_)
  rfl

/-- Stopping contexts one after the other. -/
theorem haltAll (s : State) (l : List Agent) : s.KeepsX (l.foldl (fun st b => (st.haltCtx b).letGo b) s) :=
  foldl (fun st b => (haltCtx st b).trans (letGo _ b)) l s

theorem condemn (s : State) (a : Agent) : s.KeepsX (s.condemn a) := by
  unfold State.condemn
  split
  · exact haltCtx s a
  next task _ =>
    refine trans (trans (foldl (fun st m => haltAll st (st.liveAgents m)) task.members s) (of_cores ?_ ?_))
      (foldl (fun st m => updCore_ctxs m fun _ => ?_) _ _) <;> rfl

theorem hypTrap (s : State) (a : Agent) (i : TrapInfo) (kind sub : Nat) (blk : Word) (slot : Nat) :
    s.KeepsX (s.hypTrap a i kind sub blk slot) := by
  unfold State.hypTrap
  dsimp only
  split
  · exact (condemn s a).trans (of_cores rfl rfl)
  · exact updCtx a fun _ => rfl

theorem supTrap (s : State) (a : Agent) (i : TrapInfo) (blk : Word) (slot : Nat) : s.KeepsX (s.supTrap a i blk slot) := by
  unfold State.supTrap
  dsimp only
  split
  · exact hypTrap ..
  · split
    · exact hypTrap ..
    · exact updCtx a fun _ => rfl

theorem endHelper (s : State) (a : Agent) (kind : Nat) : s.KeepsX (s.endHelper a kind) := by
  unfold State.endHelper
  refine then_updCtx (trans (then_updCore (trans (trans (addBack ..) (abandon ..)) (letGo ..)) fun c i => ?_) (abortTicket ..)) fun _ => ?_
  · exact Core.unwait_ctx_x ..
  · rfl

theorem deliverTrap (s : State) (a : Agent) (i : TrapInfo) : s.KeepsX (s.deliverTrap a i) := by
  unfold State.deliverTrap
  split
  · exact updCtx a fun _ => rfl
  · split
    · exact endHelper ..
    · exact trans (then_unwait (abandon ..)) (supTrap ..)

theorem fault (s : State) (a : Agent) (h : Hdr) (kind sub : Nat) (val : Word) : s.KeepsX (s.fault a h kind sub val) :=
  (addBack ..).trans (deliverTrap ..)

end State.KeepsX

/-! ## No capability instruction adds authority (R13-R22) -/

/-- An execution that answers a next state has kept the scalar registers, or is the end of the body after the wait clause. -/
theorem issue_cases {h : Hdr} {s t : State} {rg : InRegion} {srcs dsts : List Operand} {body : State → Res}
    (ends : issue h s rg srcs dsts body = .next t) :
    s.KeepsX t ∨ ∃ s1, s.takeWait s.cur h = some s1 ∧ (body s1).close s.cur h s1 = .next t := by
  have next {u : State} (e : (Host.Outcome.next u : Out) = .next t) (keeps : s.KeepsX u) : s.KeepsX t :=
    Host.Outcome.next.inj e ▸ keeps
  simp only [issue] at ends
  split at ends
  · exact .inl (next ends (.refl s))
  split at ends
  · split at ends
    · exact .inl (next ends (.waitMore ..))
    next taken => exact .inl (next ends ((State.KeepsX.takeWait taken).trans (.retire ..)))
  split at ends
  · exact .inl (next ends (.fault ..))
  split at ends
  · exact .inl (next ends (.refl s))
  split at ends
  · exact .inl (next ends (.fault ..))
  · exact .inl (next ends (.refl s))
  · split at ends
    · exact .inl (next ends (.waitMore ..))
    next s1 taken => exact .inr ⟨s1, taken, ends⟩

/-- A capability that is tagged only if `a` is, with no permission that `a` lacks and with bounds inside those of `a`. -/
def Cap.NoWider (r a : Cap) : Prop :=
  r.tag = true → a.tag = true ∧ mdPerm r.md &&& mdPerm a.md = mdPerm r.md ∧ capBase a.addr a.md ≤ capBase r.addr r.md ∧
    capTop r.addr r.md ≤ capTop a.addr a.md

/-- A moved capability keeps its tag only where its bounds stay (R19). -/
theorem Cap.noWider_move (a : Cap) (addr : Word) : (a.move addr).NoWider a := by
  intro tag
  simp only [Cap.move, Bool.and_eq_true] at tag
  obtain ⟨tag, rep⟩ := tag
  exact ⟨tag, Nat.and_self _, (capBase_eq_of_representable rep).ge, (capTop_eq_of_representable rep).le⟩

theorem Cap.noWider_boundCap (a : Cap) (len : Word) (exact : Bool) : (boundCap a len exact).1.NoWider a := by
  intro keeps
  obtain ⟨base, top⟩ := boundCap_inside keeps
  rw [boundCap_addr, mdPerm_boundCap]
  exact ⟨(boundCap_tag_iff.1 keeps).1, Nat.and_self _, base, top⟩

/-- A metadata word with the same bounds fields and no more permissions. -/
theorem Cap.noWider_of_low {a : Cap} {md : Word} (low : md.extractLsb' 0 48 = a.md.extractLsb' 0 48)
    (perm : mdPerm md &&& mdPerm a.md = mdPerm md) : (Cap.mk a.addr md a.tag).NoWider a := by
  obtain ⟨hE, hB, hT⟩ := bounds_fields_eq_of_low low
  exact fun tag => ⟨tag, perm, (capBase_congr a.addr hE hB hT).ge, (capTop_congr a.addr hE hB hT).le⟩

theorem mdPerm_eq_toNat (md : Word) : mdPerm md = (md.extractLsb' 52 12).toNat := bits_eq_toNat_extract md 63 52

theorem Cap.noWider_cperm (a : Cap) (perm : BitVec 12) : (Cap.mk a.addr (mdAndPerm a.md perm) a.tag).NoWider a := by
  apply Cap.noWider_of_low
  · rw [mdAndPerm_eq_append, extract_append_lo _ _ (by decide)]
    simp
  · rw [mdPerm_eq_toNat, mdPerm_eq_toNat, mdAndPerm_eq_append, extract_append_hi _ _ (by decide), extract_self, ← BitVec.toNat_and,
      BitVec.and_assoc, BitVec.and_comm perm, ← BitVec.and_assoc, BitVec.and_self]

theorem Cap.noWider_cseal (a : Cap) (k : BitVec 4) : (Cap.mk a.addr (mdSetSeal a.md k.toNat) a.tag).NoWider a := by
  apply Cap.noWider_of_low
  · rw [mdSetSeal_eq_append, extract_append_lo _ _ (by decide), extract_self]
  · rw [mdPerm_eq_toNat, mdPerm_eq_toNat, mdSetSeal_eq_append, extract_append_hi _ _ (by decide), extract_append_hi _ _ (by decide),
      extract_self, Nat.and_self]

/-- Writing a capability to a pair puts no wider one there. -/
theorem Ctx.writePair_noWider {k a : Cap} (noWider : k.NoWider a) (c : Ctx) (n : Nat) : ((c.writePair n k).getPair n).NoWider a := by
  by_cases zero : n = 0
  · rw [zero]
    intro tag
    simp [Ctx.getPair, Reg.zero] at tag
  · rwa [c.getPair_writePair k zero]

section
variable {h : Hdr} {o : FmtCAP} {s s1 t : State}

/-- What the destination pair may hold after an instruction of the capability group: what it held, or no wider capability
than the one in A. -/
def PairNarrows (o : FmtCAP) (s s1 t : State) : Prop :=
  t.me.getPair (opNum o.d) = s.me.getPair (opNum o.d) ∨ (t.me.getPair (opNum o.d)).NoWider (s1.me.readPair o.a)

theorem State.KeepsX.pairNarrows (keeps : s.KeepsX t) : PairNarrows o s s1 t := .inl (keeps.getPair _)

/-- Retiring with a capability written to D that is no wider than the one in A. -/
theorem pairNarrows_of_writePair {k : Cap} (noWider : k.NoWider (s1.me.readPair o.a)) (c : Ctx) :
    PairNarrows o s s1 ((s1.setCtx s1.cur (c.writePair (opNum o.d) k)).retire s.cur h) := by
  refine .inr ?_
  rw [(State.KeepsX.retire ..).getPair]
  have me : (s1.setCtx s1.cur (c.writePair (opNum o.d) k)).me = c.writePair (opNum o.d) k := State.ctx_setCtx_same ..
  rw [me]
  exact c.writePair_noWider noWider _

theorem capModify_pairNarrows {f : Cap → Word → Cap} {g : Cap → Word → Ctx → Ctx} (taken : s.takeWait s.cur h = some s1)
    (ends : capModify h o s (fun c a b => .ok (f a b, g a b c)) = .next t) (noWider : ∀ a b, (f a b).NoWider a) :
    PairNarrows o s s1 t := by
  rcases issue_cases ends with keeps | ⟨s2, taken2, close⟩
  · exact keeps.pairNarrows
  · obtain rfl : s1 = s2 := Option.some.inj (taken.symm.trans taken2)
    dsimp only at close
    split at close
    · obtain rfl := Host.Outcome.next.inj close
      exact ((State.KeepsX.takeWait taken).trans (.fault ..)).pairNarrows
    · obtain rfl := Host.Outcome.next.inj close
      exact pairNarrows_of_writePair (noWider _ _) _

theorem cseal_pairNarrows (taken : s.takeWait s.cur h = some s1) (ends : exec (.cseal h o) s = .next t) : PairNarrows o s s1 t := by
  rw [exec_cseal] at ends
  rcases issue_cases ends with keeps | ⟨s2, taken2, close⟩
  · exact keeps.pairNarrows
  · obtain rfl : s1 = s2 := Option.some.inj (taken.symm.trans taken2)
    have faults {k sub : Nat} {v : Word} (e : (Host.Outcome.next (s1.fault s.cur h k sub v) : Out) = .next t) : PairNarrows o s s1 t :=
      Host.Outcome.next.inj e ▸ ((State.KeepsX.takeWait taken).trans (.fault ..)).pairNarrows
    dsimp only at close
    split at close
    · exact faults close
    split at close
    · exact faults close
    split at close
    · exact faults close
    · obtain rfl := Host.Outcome.next.inj close
      exact pairNarrows_of_writePair (Cap.noWider_cseal _ o.sealTy) _

theorem cclr_pairNarrows (taken : s.takeWait s.cur h = some s1) (ends : exec (.cclr h o) s = .next t) : PairNarrows o s s1 t := by
  rw [exec_cclr] at ends
  rcases issue_cases ends with keeps | ⟨s2, taken2, close⟩
  · exact keeps.pairNarrows
  · obtain rfl : s1 = s2 := Option.some.inj (taken.symm.trans taken2)
    obtain rfl := Host.Outcome.next.inj close
    exact pairNarrows_of_writePair (fun tag => absurd tag Bool.false_ne_true) _

end

/-- Settles O21: whatever an instruction of the group comes to, it keeps the registers or writes D with a capability no wider than A's. -/
theorem capabilityMonotone : Obligations.CapabilityMonotone := by
  unfold Obligations.CapabilityMonotone
  intro h o s s1 t mk hmk _ hi ends
  suffices narrows : PairNarrows o s s1 t from narrows
  simp only [List.mem_cons, List.not_mem_nil, or_false] at hmk
  rcases hmk with rfl | rfl | rfl | rfl | rfl | rfl | rfl
  · exact capModify_pairNarrows hi.wait ((exec_cset ..).symm.trans ends) fun a b => a.noWider_move b
  · exact capModify_pairNarrows hi.wait ((exec_cinc ..).symm.trans ends) fun a b => a.noWider_move (a.addr + b)
  · exact capModify_pairNarrows hi.wait ((exec_cbnd ..).symm.trans ends) fun a b => a.noWider_boundCap b false
  · exact capModify_pairNarrows hi.wait ((exec_cbndX ..).symm.trans ends) fun a b => a.noWider_boundCap b true
  · exact capModify_pairNarrows hi.wait ((exec_cperm ..).symm.trans ends) fun a _ => a.noWider_cperm o.perm
  · exact cseal_pairNarrows hi.wait ends
  · exact cclr_pairNarrows hi.wait ends

end Sys2Proof.Machine
end

section
/-! PROOFS. Translation (R39-R52): `tlbw`, `tlbi`, `fnote` and the range table, and the events in which answers, messages, increments and
checks arrive. -/

namespace Sys2Proof.Machine

open Sys2Proof

/-! ## Where a context stands as an instruction issues and retires (R235) -/

/-- Two contexts stand at the same slot of the same block. -/
structure Ctx.SamePlace (c d : Ctx) : Prop where
  slot : d.slot = c.slot
  pcc : d.pcc = c.pcc
  blk : d.blk = c.blk

theorem Ctx.SamePlace.trans {c d e : Ctx} (first : c.SamePlace d) (second : d.SamePlace e) : c.SamePlace e :=
  ⟨second.slot.trans first.slot, second.pcc.trans first.pcc, second.blk.trans first.blk⟩

theorem Ctx.samePlace_readS (c : Ctx) (o : Operand) : c.SamePlace (c.readS o).2 := by constructor <;> simp
theorem Ctx.samePlace_writeS (c : Ctx) (o : Operand) (v : Word) : c.SamePlace (c.writeS o v) := by constructor <;> simp
theorem Ctx.samePlace_writePO (c : Ctx) (o : Operand) (b : Bool) : c.SamePlace (c.writePO o b) := by constructor <;> simp

@[simp] theorem Ctx.getX_advance (c : Ctx) (n : Nat) : c.advance.getX n = c.getX n := by
  simp only [Ctx.getX, Ctx.advance_x]

@[simp] theorem Ctx.getP_advance (c : Ctx) (n : Nat) : c.advance.getP n = c.getP n := by
  simp only [Ctx.getP, Ctx.advance_p]

/-- A scalar register that is written as a destination reads back. -/
theorem Ctx.getX_writeS_same (c : Ctx) (v : Word) {n : Fin 64} (nonzero : n ≠ 0) : (c.writeS (.x n) v).getX n.val = ⟨v, false⟩ := by
  have hn : n.val ≠ 0 := fun zero => nonzero (Fin.ext zero)
  simp [Ctx.writeS, Ctx.getX_writeX, hn, pairMate_ne_self]

theorem Ctx.SamePlace.slotVal {c d : Ctx} (same : c.SamePlace d) : d.slotVal = c.slotVal := by
  simp only [Ctx.slotVal, same.slot, same.blk]

/-- Retiring moves a context on from where it stands. -/
theorem Ctx.SamePlace.advanced {c d : Ctx} (same : c.SamePlace d) : c.Advanced d.advance := by
  have nv : d.nv = c.nv := by rw [Ctx.nv, Ctx.nv, same.blk]
  unfold Ctx.Advanced Ctx.advance
  rw [nv, same.slot]
  split
  · exact ⟨rfl, same.pcc, same.blk⟩
  · rw [← same.pcc]
    exact ⟨rfl, rfl, rfl⟩

theorem State.takeWait_samePlace {s t : State} {a : Agent} {h : Hdr} (taken : s.takeWait a h = some t) : (s.ctx a).SamePlace (t.ctx a) :=
  ⟨State.takeWait_ctx_slot taken, State.takeWait_ctx_pcc taken, State.takeWait_ctx_blk taken⟩

theorem State.signalNext_ctxs (s : State) (g : Nat) (h : Hdr) (k : Nat) : ((s.signalNext g h).core k).ctxs = (s.core k).ctxs := by
  unfold State.signalNext State.addSemNext
  split
  · rfl
  · by_cases own : g = k
    · rw [own, State.core_updCore_same]
    · rw [State.core_updCore_ne s _ own]

@[simp] theorem State.signalNext_ctx (s : State) (g : Nat) (h : Hdr) (a : Agent) : (s.signalNext g h).ctx a = s.ctx a := by
  simp only [State.ctx, Core.ctx, State.signalNext_ctxs]

@[simp] theorem State.retire_ctx (s : State) (a : Agent) (h : Hdr) : (s.retire a h).ctx a = (s.ctx a).advance := by
  rw [State.retire, State.ctx_updCtx_same, State.signalNext_ctx]

/-- A flight sets out. -/
def State.sending (s : State) (f : Flight) : State := { s with flights := s.flights ++ [f] }

@[simp] theorem State.sending_flights (s : State) (f : Flight) : (s.sending f).flights = s.flights ++ [f] := rfl
@[simp] theorem State.sending_mem (s : State) (f : Flight) : (s.sending f).mem = s.mem := rfl

section
variable {h : Hdr} {s s1 : State} {rg : InRegion} {srcs dsts : List Operand}

theorem Issues.me_eq (hi : Issues h s rg srcs dsts s1) : s1.me = s1.ctx s.cur := by rw [State.me, hi.cur]

theorem Issues.samePlace (hi : Issues h s rg srcs dsts s1) : s.me.SamePlace s1.me := hi.me_eq ▸ State.takeWait_samePlace hi.wait

theorem Issues.me_x (hi : Issues h s rg srcs dsts s1) : s1.me.x = s.me.x := hi.me_eq ▸ State.takeWait_ctx_x hi.wait

theorem Issues.cluster (hi : Issues h s rg srcs dsts s1) (c : Nat) : s1.cluster c = s.cluster c := by
  rw [State.cluster, State.takeWait_clusters hi.wait]
  rfl

theorem Issues.close_illegal (hi : Issues h s rg srcs dsts s1) :
    Res.illegal.close s.cur h s1 = .next (s1.fault s.cur h 5 0 s.me.slotVal) := by
  rw [← hi.samePlace.slotVal, hi.me_eq]
  rfl

/-- The end of an instruction that puts its own context in the place of the one it read. -/
theorem Issues.close_setCtx (hi : Issues h s rg srcs dsts s1) (f : Ctx → Ctx) :
    (Res.done (s1.setCtx s.cur (f s1.me))).close s.cur h s1 = .next (s1.after h f) := by
  rw [← hi.close_done f, State.self, hi.cur, State.updCtx, hi.me_eq]

/-- The end of an instruction that leaves its context at its place, with what it writes there: the context has moved on. -/
theorem Issues.retired (hi : Issues h s rg srcs dsts s1) {u : State} {c : Ctx} (cur : u.cur = s1.cur) (ctx : u.ctx s.cur = c)
    (same : s1.me.SamePlace c) : (u.retire s.cur h).me = c.advance ∧ s.me.Advanced (u.retire s.cur h).me := by
  have me : (u.retire s.cur h).me = c.advance := by
    rw [State.me, State.retire_cur, cur, hi.cur, State.retire_ctx, ctx]
  exact ⟨me, me ▸ (hi.samePlace.trans same).advanced⟩

end

/-! ## `tlbw` (R39-R41, R376) -/

theorem targetOf_bad_iff (w : Word) : (targetOf w).bad = true ↔ w.extractLsb' 20 12 ≠ 0 ∨ w.extractLsb' 8 11 ≠ 0 := by
  simp only [targetOf, bits_eq_toNat_extract, Bool.or_eq_true, decide_eq_true_eq, ne_eq, BitVec.toNat_eq]
  rfl

theorem targetOf_core (w : Word) : (targetOf w).core = (w.extractLsb' 0 8).toNat := bits_eq_toNat_extract w 7 0
theorem targetOf_fseq (w : Word) : (targetOf w).fseq = (w.extractLsb' 32 16).toNat := bits_eq_toNat_extract w 47 32
theorem targetOf_gen (w : Word) : (targetOf w).gen = (w.extractLsb' 48 16).toNat := bits_eq_toNat_extract w 63 48

/-! ## What a change keeps of every core, of memory and of what is in flight -/

/-- A part of every core is the same. -/
def State.KeepsCores {α : Type} (p : Core → α) (s t : State) : Prop := ∀ g, p (t.core g) = p (s.core g)

namespace State.KeepsCores

variable {α : Type} {p : Core → α} {s t u : State}

theorem refl (s : State) : s.KeepsCores p s := fun _ => rfl

theorem trans (first : s.KeepsCores p t) (second : t.KeepsCores p u) : s.KeepsCores p u := fun g => (second g).trans (first g)

/-- A change that keeps the cores. -/
theorem of_cores (cores : t.cores = s.cores) : s.KeepsCores p t := fun g => by rw [State.core_cores t s cores]

/-- A change of one core that keeps the part of it. -/
theorem updCore (g : Nat) {f : Core → Core} (hf : ∀ c, p (f c) = p c) : s.KeepsCores p (s.updCore g f) := fun k => by
  by_cases own : g = k
  · rw [own, State.core_updCore_same, hf]
  · rw [State.core_updCore_ne s f own]

theorem updCtx (a : Agent) (f : Ctx → Ctx) (hp : ∀ c i x, p (c.setCtx i x) = p c) : s.KeepsCores p (s.updCtx a f) :=
  updCore a.gid fun c => hp c ..

theorem observe (s : State) (a : Agent) (ws : List Nat) (hp : ∀ c i x, p (c.setCtx i x) = p c) : s.KeepsCores p (s.observe a ws) := by
  unfold State.observe
  split
  · exact refl s
  · exact updCtx a _ hp

theorem foldl {β : Type} {f : State → β → State} (hf : ∀ (s : State) e, s.KeepsCores p (f s e)) (l : List β) (s : State) :
    s.KeepsCores p (l.foldl f s) := by
  induction l generalizing s with
  | nil => exact refl s
  | cons e l ih => exact (hf s e).trans (ih _)

end State.KeepsCores

/-- Memory and what is in flight are the same. -/
structure State.KeepsOut (s t : State) : Prop where
  mem : t.mem = s.mem
  flights : t.flights = s.flights

namespace State.KeepsOut

variable {s t u : State} {a : Agent}

theorem refl (s : State) : s.KeepsOut s := ⟨rfl, rfl⟩

theorem trans (first : s.KeepsOut t) (second : t.KeepsOut u) : s.KeepsOut u :=
  ⟨second.mem.trans first.mem, second.flights.trans first.flights⟩

theorem updCore (s : State) (g : Nat) (f : Core → Core) : s.KeepsOut (s.updCore g f) := ⟨rfl, rfl⟩

theorem updCtx (s : State) (a : Agent) (f : Ctx → Ctx) : s.KeepsOut (s.updCtx a f) := ⟨rfl, rfl⟩

/-- A change of the arrivals alone. -/
theorem arrivals (s : State) (l : List Arrival) : s.KeepsOut { s with arrivals := l } := ⟨rfl, rfl⟩

theorem then_updCore (first : s.KeepsOut t) (g : Nat) (f : Core → Core) : s.KeepsOut (t.updCore g f) := first.trans (updCore ..)

theorem then_updCtx (first : s.KeepsOut t) (a : Agent) (f : Ctx → Ctx) : s.KeepsOut (t.updCtx a f) := first.trans (updCtx ..)

theorem foldl {β : Type} {f : State → β → State} (hf : ∀ (s : State) e, s.KeepsOut (f s e)) (l : List β) (s : State) :
    s.KeepsOut (l.foldl f s) := by
  induction l generalizing s with
  | nil => exact refl s
  | cons e l ih => exact (hf s e).trans (ih _)

theorem addBack (s : State) (a : Agent) (h : Hdr) : s.KeepsOut (s.addBack a h) := by
  unfold State.addBack
  split
  · exact (updCore ..).then_updCtx ..
  · exact refl s

theorem abandon (s : State) (a : Agent) : s.KeepsOut (s.abandon a) := by
  unfold State.abandon
  split
  · exact refl s
  · exact (updCtx ..).then_updCore ..

theorem abandonFor (s : State) (a : Agent) : s.KeepsOut (s.abandonFor a) := (abandon s a).then_updCore ..

theorem abortTicket (s : State) (a : Agent) : s.KeepsOut (s.abortTicket a) := by
  unfold State.abortTicket State.resolve
  dsimp only
  split
  · exact (updCtx ..).trans ⟨State.updStream_mem .., State.updStream_flights ..⟩
  · exact refl s

theorem letGo (s : State) (a : Agent) : s.KeepsOut (s.letGo a) := by
  unfold State.letGo
  exact (arrivals ..).then_updCore ..

theorem haltCtx (s : State) (a : Agent) : s.KeepsOut (s.haltCtx a) := by
  unfold State.haltCtx
  exact ((((addBack ..).trans (abandon ..)).trans (abortTicket ..)).then_updCtx ..).then_updCore ..

theorem haltAll (s : State) (l : List Agent) : s.KeepsOut (l.foldl (fun st b => (st.haltCtx b).letGo b) s) :=
  foldl (fun st b => (haltCtx st b).trans (letGo _ b)) l s

theorem condemn (s : State) (a : Agent) : s.KeepsOut (s.condemn a) := by
  unfold State.condemn
  split
  · exact haltCtx s a
  · exact ((foldl (fun st m => haltAll st (st.liveAgents m)) _ s).trans (arrivals ..)).trans (foldl (fun st m => updCore st m _) _ _)

theorem hypTrap (s : State) (a : Agent) (i : TrapInfo) (kind sub : Nat) (blk : Word) (slot : Nat) :
    s.KeepsOut (s.hypTrap a i kind sub blk slot) := by
  unfold State.hypTrap
  dsimp only
  split
  · exact (condemn s a).trans ⟨rfl, rfl⟩
  · exact updCtx ..

theorem supTrap (s : State) (a : Agent) (i : TrapInfo) (blk : Word) (slot : Nat) : s.KeepsOut (s.supTrap a i blk slot) := by
  unfold State.supTrap
  dsimp only
  split
  · exact hypTrap ..
  · split
    · exact hypTrap ..
    · exact updCtx ..

theorem endHelper (s : State) (a : Agent) (kind : Nat) : s.KeepsOut (s.endHelper a kind) := by
  unfold State.endHelper
  exact (((((addBack ..).trans (abandon ..)).trans (letGo ..)).then_updCore ..).trans (abortTicket ..)).then_updCtx ..

theorem deliverTrap (s : State) (a : Agent) (i : TrapInfo) : s.KeepsOut (s.deliverTrap a i) := by
  unfold State.deliverTrap
  split
  · exact updCtx ..
  · split
    · exact endHelper ..
    · exact ((abandon ..).then_updCore ..).trans (supTrap ..)

theorem upcall (s : State) (a : Agent) (va : Word) (fseq k cause : Nat) : s.KeepsOut (s.upcall a va fseq k cause) := by
  unfold State.upcall
  exact ((abandon ..).then_updCore ..).then_updCtx ..

theorem upcallOrTrap (s : State) (a : Agent) (h : Hdr) (kind sub : Nat) (va : Word) (fseq k cause : Nat) :
    s.KeepsOut (s.upcallOrTrap a h kind sub va fseq k cause) := by
  unfold State.upcallOrTrap
  dsimp only
  split
  · exact (addBack ..).trans (deliverTrap ..)
  · split
    · exact (addBack ..).trans (deliverTrap ..)
    · exact (addBack ..).trans (upcall ..)

end State.KeepsOut

/-! ## The cores of a rectangle (R120) -/

theorem mem_natIns_iff {l : List Nat} {n k : Nat} : k ∈ natIns l n ↔ k = n ∨ k ∈ l := by
  refine ⟨mem_natIns, fun hk => ?_⟩
  induction l with
  | nil => simpa [natIns] using hk
  | cons a l ih =>
    rw [List.mem_cons] at hk
    rw [natIns]
    split_ifs with before same
    · exact List.mem_cons.2 (by tauto)
    · subst same
      exact List.mem_cons.2 (by tauto)
    · exact List.mem_cons.2 (hk.imp_right List.mem_cons.2)

theorem mem_foldl_natIns {l acc : List Nat} {k : Nat} : k ∈ l.foldl natIns acc ↔ k ∈ l ∨ k ∈ acc := by
  induction l generalizing acc with
  | nil => simp
  | cons a l ih =>
    rw [List.foldl_cons, ih, mem_natIns_iff, List.mem_cons]
    tauto

theorem foldl_natIns_pairwise {acc : List Nat} (sorted : acc.Pairwise (· < ·)) (l : List Nat) :
    (l.foldl natIns acc).Pairwise (· < ·) := by
  induction l generalizing acc with
  | nil => exact sorted
  | cons a l ih => exact ih (natIns_pairwise sorted a)

theorem rectCores_nodup (w : Word) : (rectCores w).Nodup :=
  (foldl_natIns_pairwise List.Pairwise.nil _).imp Nat.ne_of_lt

/-- The core at a mesh position (R3). -/
theorem gidAt_spec {x y : Nat} (hx : x < 64) (hy : y < 32) :
    gidAt x y < 2048 ∧ gidX (gidAt x y) = x ∧ gidY (gidAt x y) = y := by
  have small : gidAt x y < 2048 := by
    unfold gidAt
    omega
  simp only [gidX, gidY, gidCl, gidIdx, if_pos small]
  unfold gidAt at small ⊢
  omega

/-- The mesh position of a compute core (R3). -/
theorem gidAt_position {k : Nat} (hk : k < 2048) : gidX k < 64 ∧ gidY k < 32 ∧ gidAt (gidX k) (gidY k) = k := by
  simp only [gidAt, gidX, gidY, gidCl, gidIdx, if_pos hk]
  omega

theorem mem_rectCores (w : Word) (k : Nat) : k ∈ rectCores w ↔ inRect w k = true := by
  simp only [rectCores, mem_foldl_natIns, List.not_mem_nil, or_false, List.mem_flatMap, List.mem_filterMap, List.mem_range, inRect,
    Bool.and_eq_true, decide_eq_true_eq]
  constructor
  · rintro ⟨y, hy, x, hx, found⟩
    obtain ⟨small, atX, atY⟩ := gidAt_spec hx hy
    split at found
    next inside =>
      obtain rfl := Option.some.inj found
      rw [atX, atY]
      tauto
    next => cases found
  · rintro ⟨⟨⟨⟨small, left⟩, right⟩, low⟩, high⟩
    obtain ⟨hx, hy, position⟩ := gidAt_position small
    exact ⟨gidY k, hy, gidX k, hx, by rw [if_pos ⟨left, right, low, high⟩, position]⟩

/-- The four forms of `tlbw` are one meaning with the number of the disposition. -/
theorem exec_eq_tlbw {e : (Hdr → FmtT → Instr) × Nat}
    (he : e ∈ ([(.tlbwInstall, 0), (.tlbwUpcall, 1), (.tlbwTrap, 2), (.tlbwFail, 3)] : List ((Hdr → FmtT → Instr) × Nat)))
    (h : Hdr) (o : FmtT) (s : State) : exec (e.1 h o) s = tlbw e.2 h o s := by
  simp only [List.mem_cons, List.not_mem_nil, or_false] at he
  rcases he with rfl | rfl | rfl | rfl <;> rfl

/-- The lowest range that admits an entry gives its frame (R41). -/
theorem Cluster.rangeCheck_lowest {k : Cluster} {x : TlbEntry} {i : Nat} (inTable : i < 48) (admits : (k.range i).admits k.part x = true)
    (lowest : ∀ j, j < i → (k.range j).admits k.part x = false) :
    k.rangeCheck x = some { x with pfn := (x.pfn + bits (k.range i).w2 51 16) % 2 ^ 36 } := by
  have found : (List.range 48).find? (fun j => (k.range j).admits k.part x) = some i := by
    rw [List.find?_range_eq_some]
    exact ⟨admits, List.mem_range.2 inTable, fun j hj => by simp [lowest j hj]⟩
  rw [Cluster.rangeCheck, found]

theorem Cluster.rangeCheck_none {k : Cluster} {x : TlbEntry} (refused : ∀ i, i < 48 → (k.range i).admits k.part x = false) :
    k.rangeCheck x = none := by
  have missed : (List.range 48).find? (fun j => (k.range j).admits k.part x) = none := by
    rw [List.find?_range_eq_none]
    exact fun j hj => by simp [refused j hj]
  rw [Cluster.rangeCheck, missed]

/-- The generation of the answer that a `tlbw` sends: the target's own, or of an unsolicited one the last that was observed (R46, R376). -/
def tlbwGen (s1 : State) (w : Word) : Nat :=
  if (targetOf w).uns then s1.myCluster.genOf (targetOf w).core else (targetOf w).gen

/-- The answer that a `tlbw` sends to the core of its target, with two words of an entry (R376). -/
def tlbwReply (disp : Nat) (o : FmtT) (s1 : State) (w0 w1 : Word) : Flight :=
  let w := (s1.me.readS o.b).1
  let cl := gidCl s1.cur.gid
  .reply (gidOf cl (targetOf w).core) cl disp o.imm.toNat (targetOf w).fseq (tlbwGen s1 w) (targetOf w).uns w0 w1 s1.cur o.d

/-- The record of an install that no range admits (R41). -/
def rangeMissRecord (o : FmtT) (s1 : State) (x : TlbEntry) : Flight :=
  let w := (s1.me.readS o.b).1
  let cl := gidCl s1.cur.gid
  .msg (svcOf cl) ⟨recordBytes (rangeMissWords s1 (gidOf cl (targetOf w).core) (targetOf w) (tlbwGen s1 w) x), true, 2, 0, 0⟩

section
variable {disp : Nat} {h : Hdr} {o : FmtT} {s s1 : State}
  (hi : Issues h s .illegal ((if disp = 0 then pairOps o.a else []) ++ [o.b]) [o.d] s1)
include hi

/-- Outside a supervisor of a service core `tlbw` is illegal. -/
theorem tlbw_illegal (denied : isSvc s.cur.gid = false ∨ s1.me.level ≠ .supervisor) :
    tlbw disp h o s = .next (s1.fault s.cur h 5 0 s.me.slotVal) := by
  rw [tlbw, issue_of_issues hi, ← hi.close_illegal]
  simp only [hi.cur, Bool.not_eq_true', if_pos denied]

/-- The generation of an answer, by the bits of its target. -/
theorem tlbwGen_eq (w : Word) :
    tlbwGen s1 w = if w.getLsbD 19 then (s1.cluster (gidCl s.cur.gid)).genOf (w.extractLsb' 0 8).toNat else (w.extractLsb' 48 16).toNat := by
  rw [tlbwGen, targetOf_core, targetOf_gen, State.myCluster, hi.cur]
  rfl

/-- What an answer that goes out leaves, by the bits of its target. -/
theorem tlbw_sent {w0 w1 : Word}
    (ends : tlbw disp h o s = .next (((s1.sending (tlbwReply disp o s1 w0 w1)).setCtx s.cur (s1.me.readS o.b).2).retire s.cur h)) :
    let w := (s1.me.readS o.b).1
    let cl := gidCl s.cur.gid
    let gen := if w.getLsbD 19 then (s1.cluster cl).genOf (w.extractLsb' 0 8).toNat else (w.extractLsb' 48 16).toNat
    ∃ t, tlbw disp h o s = .next t ∧
      t.flights = s.flights ++ [.reply (gidOf cl (w.extractLsb' 0 8).toNat) cl disp o.imm.toNat (w.extractLsb' 32 16).toNat gen (w.getLsbD 19)
        w0 w1 s.cur o.d] ∧
      t.me.x = s.me.x ∧ s.me.Advanced t.me ∧ t.mem = s.mem := by
  obtain ⟨me, advanced⟩ := hi.retired (u := (s1.sending (tlbwReply disp o s1 w0 w1)).setCtx s.cur (s1.me.readS o.b).2) rfl
    (State.ctx_setCtx_same ..) (s1.me.samePlace_readS o.b)
  refine ⟨_, ends, ?_, ?_, advanced, ?_⟩
  · rw [State.retire_flights, State.setCtx_flights, State.sending_flights, State.takeWait_flights hi.wait, tlbwReply, hi.cur, tlbwGen_eq hi,
      targetOf_core, targetOf_fseq]
    rfl
  · rw [me, Ctx.advance_x, Ctx.readS_x, hi.me_x]
  · rw [State.retire_mem, State.setCtx_mem, State.sending_mem, State.takeWait_mem hi.wait]

variable (svc : isSvc s.cur.gid = true) (level : s1.me.level = .supervisor)
include svc level

omit hi in
theorem tlbw_granted : ¬((!isSvc s.cur.gid) = true ∨ s1.me.level ≠ .supervisor) := by
  simp [svc, level]

/-- A target or words that are malformed write 3 (R376). -/
theorem tlbw_malformed
    (bad : (targetOf (s1.me.readS o.b).1).bad = true ∨
      disp = 0 ∧ tlbOfWords (s1.me.getX (opNum o.a)).val (s1.me.getX (opNum o.a + 1)).val = none) :
    tlbw disp h o s = .next (s1.after h (fun c => (c.readS o.b).2.writeS o.d (wd 3))) := by
  rw [tlbw, issue_of_issues hi, ← hi.close_setCtx]
  simp only [hi.cur, if_neg (tlbw_granted svc level)]
  by_cases target : (targetOf (s1.me.readS o.b).1).bad = true
  · rw [if_pos target]
  · obtain ⟨install, none⟩ := bad.resolve_left target
    simp only [if_neg target, install, none, ne_eq, not_true_eq_false, if_false]

/-- The answers other than an install go out with no words. -/
theorem tlbw_sends_disposition (good : ¬(targetOf (s1.me.readS o.b).1).bad = true) (other : disp ≠ 0) :
    tlbw disp h o s =
      .next (((s1.sending (tlbwReply disp o s1 0 0)).setCtx s.cur (s1.me.readS o.b).2).retire s.cur h) := by
  rw [tlbw, issue_of_issues hi]
  simp only [hi.cur, if_neg (tlbw_granted svc level), if_neg good, if_pos other, tlbwReply, tlbwGen]
  rfl

/-- An install that a range admits goes out with the frame that the range gives. -/
theorem tlbw_sends_install (good : ¬(targetOf (s1.me.readS o.b).1).bad = true) (install : disp = 0)
    {x y : TlbEntry} (entry : tlbOfWords (s1.me.getX (opNum o.a)).val (s1.me.getX (opNum o.a + 1)).val = some x)
    (admitted : s1.myCluster.rangeCheck x = some y) :
    let w1 := (s1.me.getX (opNum o.a + 1)).val
    let f := tlbwReply disp o s1 (s1.me.getX (opNum o.a)).val (wd (w1.toNat - bits w1 51 16 * 65536 + y.pfn * 65536))
    tlbw disp h o s = .next (((s1.sending f).setCtx s.cur (s1.me.readS o.b).2).retire s.cur h) := by
  rw [tlbw, issue_of_issues hi]
  simp only [hi.cur, if_neg (tlbw_granted svc level), if_neg good, install, ne_eq, not_true_eq_false, if_false, entry, admitted, tlbwReply, tlbwGen]
  rfl

/-- An install that no range admits writes 2 and posts a record. -/
theorem tlbw_misses_ranges (good : ¬(targetOf (s1.me.readS o.b).1).bad = true) (install : disp = 0)
    {x : TlbEntry} (entry : tlbOfWords (s1.me.getX (opNum o.a)).val (s1.me.getX (opNum o.a + 1)).val = some x)
    (refused : s1.myCluster.rangeCheck x = none) :
    ∃ u : State, u.cur = s1.cur ∧ u.mem = s1.mem ∧ u.flights = s1.flights ++ [rangeMissRecord o s1 x] ∧
      tlbw disp h o s = .next ((u.setCtx s.cur ((s1.me.readS o.b).2.writeS o.d (wd 2))).retire s.cur h) := by
  refine ⟨{ s1.sending (rangeMissRecord o s1 x) with fresh := s1.fresh + 1 }, rfl, rfl, rfl, ?_⟩
  rw [tlbw, issue_of_issues hi]
  simp only [hi.cur, if_neg (tlbw_granted svc level), if_neg good, install, ne_eq, not_true_eq_false, if_false, entry, refused, tlbwGen,
    rangeMissRecord]
  rfl

/-- What an install that no range admits leaves, by the bits of its target. -/
theorem tlbw_missed (good : ¬(targetOf (s1.me.readS o.b).1).bad = true) (install : disp = 0)
    {x : TlbEntry} (entry : tlbOfWords (s1.me.getX (opNum o.a)).val (s1.me.getX (opNum o.a + 1)).val = some x)
    (refused : s1.myCluster.rangeCheck x = none) :
    let w := (s1.me.readS o.b).1
    let cl := gidCl s.cur.gid
    let gen := if w.getLsbD 19 then (s1.cluster cl).genOf (w.extractLsb' 0 8).toNat else (w.extractLsb' 48 16).toNat
    ∃ t, tlbw disp h o s = .next t ∧ (∀ n : Fin 64, o.d = .x n → n ≠ 0 → (t.me.getX n.val).val = 2) ∧
      t.flights = s.flights ++ [.msg (svcOf cl) ⟨recordBytes (rangeMissWords s1 (gidOf cl (w.extractLsb' 0 8).toNat) (targetOf w) gen x),
        true, 2, 0, 0⟩] ∧
      s.me.Advanced t.me ∧ t.mem = s.mem := by
  intro w cl gen
  obtain ⟨u, cur, mem, flights, ends⟩ := tlbw_misses_ranges hi svc level good install entry refused
  obtain ⟨me, advanced⟩ := hi.retired (u := u.setCtx s.cur ((s1.me.readS o.b).2.writeS o.d (wd 2))) cur (State.ctx_setCtx_same ..)
    ((s1.me.samePlace_readS o.b).trans (Ctx.samePlace_writeS ..))
  refine ⟨_, ends, fun n dest nonzero => ?_, ?_, advanced, ?_⟩
  · rw [me, dest, Ctx.getX_advance, Ctx.getX_writeS_same _ _ nonzero]
    rfl
  · rw [State.retire_flights, State.setCtx_flights, flights, State.takeWait_flights hi.wait, rangeMissRecord, tlbwGen_eq hi, targetOf_core,
      hi.cur]
  · rw [State.retire_mem, State.setCtx_mem, mem, State.takeWait_mem hi.wait]

end

/-! ## `tlbi` (R45, R46, R156, R377) -/

/-- What a core translates by: its entries and its generation. -/
def Core.translations (c : Core) : List TlbEntry × BitVec 16 := (c.tlb, c.gen)

/-- Some entries removed, the generation advanced. -/
def TlbiWhat.removed (w : TlbiWhat) (k : List TlbEntry × BitVec 16) : List TlbEntry × BitVec 16 :=
  (k.1.filter (fun e => !w.hits e.vpn e.size e.dom), k.2 + 1)

theorem State.takeWait_translations {s t : State} {a : Agent} {h : Hdr} (taken : s.takeWait a h = some t) :
    s.KeepsCores Core.translations t := by
  rcases State.takeWait_cases taken with ⟨rfl, -⟩ | ⟨-, -, -, -, rfl⟩
  · exact .refl t
  · refine .trans (.trans (t := s.updCore a.gid _) (.updCore a.gid fun c => ?_) (.observe _ a _ fun _ _ _ => ?_))
      (.updCtx a _ fun _ _ _ => ?_) <;> rfl

theorem State.abandonFor_translations (s : State) (a : Agent) : s.KeepsCores Core.translations (s.abandonFor a) := by
  unfold State.abandonFor State.abandon
  refine .trans ?_ (.updCore a.gid fun _ => rfl)
  split
  · exact .refl s
  · exact .trans (.updCtx a _ fun _ _ _ => rfl) (.updCore a.gid fun _ => rfl)

theorem State.KeepsX.abandonFor (s : State) (a : Agent) : s.KeepsX (s.abandonFor a) := (State.KeepsX.abandon s a).then_unwait

/-- Fetching anew leaves the registers of every context of the core. -/
theorem Core.refetch_ctx_x (c : Core) (j : Nat) : (c.refetch.ctx j).x = (c.ctx j).x := by
  simp only [Core.ctx, Core.refetch]
  induction c.ctxs with
  | nil => rfl
  | cons e l ih =>
    rw [List.map_cons]
    split <;>
    · simp only [Sparse.look]
      split
      · rfl
      · exact ih

theorem State.tlbiCore_keepsX (s : State) (w : TlbiWhat) (g : Nat) : s.KeepsX (s.tlbiCore w g) := by
  unfold State.tlbiCore
  refine .trans (.updCore g fun c i => ?_) (.foldl .abandonFor ..)
  exact c.refetch_ctx_x i

theorem State.tlbiCore_keepsOut (s : State) (w : TlbiWhat) (g : Nat) : s.KeepsOut (s.tlbiCore w g) := by
  unfold State.tlbiCore
  exact (State.KeepsOut.updCore ..).trans (.foldl .abandonFor ..)

/-- An invalidation on one core removes the entries that it names there, and none on another. -/
theorem State.tlbiCore_translations (s : State) (w : TlbiWhat) (g k : Nat) :
    ((s.tlbiCore w g).core k).translations = if k = g then w.removed (s.core k).translations else (s.core k).translations := by
  unfold State.tlbiCore
  rw [State.KeepsCores.foldl State.abandonFor_translations _ _ k]
  split
  next own =>
    rw [own, State.core_updCore_same]
    rfl
  next other => rw [State.core_updCore_ne s _ (Ne.symm other)]

/-- An invalidation on several cores, each once. -/
theorem State.tlbiCores_translations {cores : List Nat} (once : cores.Nodup) (s : State) (w : TlbiWhat) (k : Nat) :
    ((cores.foldl (fun acc g => acc.tlbiCore w g) s).core k).translations =
      if k ∈ cores then w.removed (s.core k).translations else (s.core k).translations := by
  induction cores generalizing s with
  | nil => rfl
  | cons g l ih =>
    obtain ⟨fresh, once⟩ := List.nodup_cons.1 once
    rw [List.foldl_cons, ih once, State.tlbiCore_translations]
    by_cases own : k = g
    · subst own
      simp [fresh]
    · simp [own]

/-- What each form of `tlbi` removes (R45), by the numbers of its three rows in the opcode table. -/
def tlbiWhat (row : Nat) (o : FmtT) (c : Ctx) : TlbiWhat :=
  let dom := ((c.getX (opNum o.a + 1)).val.extractLsb' 0 12).toNat
  if row = 0 then .page (c.getX (opNum o.a)).val dom else if row = 1 then .domain dom else .all

theorem exec_eq_tlbi {e : (Hdr → FmtT → Instr) × Nat}
    (he : e ∈ ([(.tlbiPage, 0), (.tlbiDomain, 1), (.tlbiAll, 2)] : List ((Hdr → FmtT → Instr) × Nat)))
    (h : Hdr) (o : FmtT) (s : State) : exec (e.1 h o) s = tlbi (tlbiWhat e.2 o) h o s := by
  have dom (w : Word) : (w.extractLsb' 0 12).toNat = bits w 11 0 := (bits_eq_toNat_extract w 11 0).symm
  have what : tlbiWhat e.2 o = fun c => tlbiWhat e.2 o c := rfl
  rw [what]
  simp only [tlbiWhat, dom]
  simp only [List.mem_cons, List.not_mem_nil, or_false] at he
  rcases he with rfl | rfl | rfl <;> rfl

theorem tlbiWhat_hits_iff {row : Nat} (small : row ≤ 2) (o : FmtT) (c : Ctx) (x : TlbEntry) :
    (tlbiWhat row o c).hits x.vpn x.size x.dom = true ↔
      (row ≠ 2 → x.dom = ((c.getX (opNum o.a + 1)).val.extractLsb' 0 12).toNat) ∧
      (row = 0 → va57 (c.getX (opNum o.a)).val / 2 ^ pageBits x.size = x.vpn * 65536 / 2 ^ pageBits x.size) := by
  have rows : row = 0 ∨ row = 1 ∨ row = 2 := by omega
  simp only [tlbiWhat]
  generalize ((c.getX (opNum o.a + 1)).val.extractLsb' 0 12).toNat = dom
  rcases rows with rfl | rfl | rfl <;> simp [TlbiWhat.hits, eq_comm (a := dom) (b := x.dom)]

/-- The cores on which `tlbi` removes entries: those of its scope, each once. -/
def tlbiCores (g : Nat) (q : Order) : List Nat := if q.core then [g] else rectCores q.scope

theorem mem_tlbiCores (g : Nat) (q : Order) (k : Nat) : k ∈ tlbiCores g q ↔ if q.core then k = g else inRect q.scope k = true := by
  unfold tlbiCores
  split
  · exact List.mem_singleton
  · exact mem_rectCores ..

theorem tlbiCores_nodup (g : Nat) (q : Order) : (tlbiCores g q).Nodup := by
  unfold tlbiCores
  split
  · exact List.nodup_singleton g
  · exact rectCores_nodup _

/-- Without a publication under way on a core no region there holds the removal up. -/
theorem State.drawnUnder_eq_false {s : State} {k : Nat} (none : ∀ c ∈ (s.core k).ctxs, ∀ x y, c.2.busy ≠ some (.publish x y))
    (w : TlbiWhat) : s.drawnUnder w k = false := by
  rw [State.drawnUnder, List.any_eq_false]
  intro c hc
  rw [Bool.and_eq_true]
  rintro ⟨-, drawn⟩
  split at drawn
  next x y busy => exact none c hc x y busy
  next => cases drawn

/-- What waits for the end of an invalidation: the accesses that used the entries, and the devices of the gang. -/
def State.tlbiWaits (s1 : State) (w : TlbiWhat) (q : Order) : List (Nat × Nat × Nat × Nat) × List Nat :=
  let cores := tlbiCores s1.cur.gid q
  (cores.flatMap (fun g => (s1.accessesUnder w g).map (fun x => (g, x))) ++ s1.mergesUnder w cores,
    (List.range 16).filter (fun p => bit (s1.peerMask s1.cur.gid q) p))

/-- Entries removed on the cores of a scope, and the context that waits for the accesses under them. -/
def State.tlbiRemove (s1 : State) (w : TlbiWhat) (q : Order) : State :=
  ((tlbiCores s1.cur.gid q).foldl (fun acc g => acc.tlbiCore w g) s1).self (fun c =>
    { c with busy := some (.invalidating (s1.tlbiWaits w q).1 (s1.tlbiWaits w q).2) })

/-- The agent in turn is the same after the removal, and so are the registers and memory. -/
theorem State.tlbiRemove_keepsX (s1 : State) (w : TlbiWhat) (q : Order) : s1.KeepsX (s1.tlbiRemove w q) := by
  unfold State.tlbiRemove State.self
  exact .trans (.foldl (fun st g => st.tlbiCore_keepsX w g) ..) (.updCtx _ fun _ => rfl)

theorem State.tlbiRemove_keepsOut (s1 : State) (w : TlbiWhat) (q : Order) : s1.KeepsOut (s1.tlbiRemove w q) := by
  unfold State.tlbiRemove State.self
  exact .trans (.foldl (fun st g => st.tlbiCore_keepsOut w g) ..) (.updCtx ..)

theorem State.tlbiRemove_busy (s1 : State) (w : TlbiWhat) (q : Order) :
    (s1.tlbiRemove w q).me.busy = some (.invalidating (s1.tlbiWaits w q).1 (s1.tlbiWaits w q).2) := by
  rw [State.tlbiRemove, State.me_self]

theorem State.tlbiRemove_translations (s1 : State) (w : TlbiWhat) (q : Order) (k : Nat) :
    ((s1.tlbiRemove w q).core k).translations =
      if k ∈ tlbiCores s1.cur.gid q then w.removed (s1.core k).translations else (s1.core k).translations := by
  rw [← State.tlbiCores_translations (tlbiCores_nodup _ _)]
  exact State.KeepsCores.updCtx (p := Core.translations) _ _ (fun _ _ _ => rfl) k

section
variable {what : Ctx → TlbiWhat} {h : Hdr} {o : FmtT} {s s1 : State} (hi : Issues h s .illegal (pairOps o.a ++ [o.b]) [] s1)
include hi

/-- Outside supervisor level, or with a malformed scope, `tlbi` is illegal. -/
theorem tlbi_illegal (first : ∀ ws ds, s1.me.busy ≠ some (.invalidating ws ds))
    (denied : s1.me.level ≠ .supervisor ∨ (s1.me.scopeArg o.b).ok = false) :
    tlbi what h o s = .next (s1.fault s.cur h 5 0 s.me.slotVal) := by
  rw [tlbi, issue_of_issues hi, ← hi.close_illegal]
  dsimp only
  split
  next ws ds busy => exact absurd busy (first ws ds)
  next => rw [if_pos (by simpa using denied)]

theorem tlbi_removes (first : ∀ ws ds, s1.me.busy ≠ some (.invalidating ws ds))
    (level : s1.me.level = .supervisor) (scope : (s1.me.scopeArg o.b).ok = true)
    (free : ∀ k ∈ tlbiCores s.cur.gid (s1.me.scopeArg o.b), ∀ c ∈ (s1.core k).ctxs, ∀ x y, c.2.busy ≠ some (.publish x y)) :
    tlbi what h o s = .next (s1.tlbiRemove (what s1.me) (s1.me.scopeArg o.b)) := by
  have granted : ¬(s1.me.level ≠ .supervisor ∨ (!(s1.me.scopeArg o.b).ok) = true) := by simp [level, scope]
  have undrawn : (tlbiCores s1.cur.gid (s1.me.scopeArg o.b)).any (s1.drawnUnder (what s1.me)) = false := by
    rw [hi.cur, List.any_eq_false]
    exact fun k hk => Bool.not_eq_true _ ▸ State.drawnUnder_eq_false (free k hk) _
  rw [tlbiCores] at undrawn
  rw [tlbi, issue_of_issues hi]
  dsimp only
  split
  next ws ds busy => exact absurd busy (first ws ds)
  next =>
    rw [if_neg granted, undrawn]
    rfl

theorem tlbi_waits {ws : List (Nat × Nat × Nat × Nat)} {ds : List Nat}
    (busy : s1.me.busy = some (.invalidating ws ds)) (waits : ws.any s1.stillFlying = true ∨ ds ≠ []) : tlbi what h o s = .next s1 := by
  have more : (ws.any s1.stillFlying || !ds.isEmpty) = true := by simpa using waits
  rw [tlbi, issue_of_issues hi]
  simp only [busy, if_pos more]
  rfl

theorem tlbi_ends {ws : List (Nat × Nat × Nat × Nat)} {ds : List Nat}
    (busy : s1.me.busy = some (.invalidating ws ds)) (done : ws.any s1.stillFlying = false) (reported : ds = []) :
    tlbi what h o s = .next (s1.retire s.cur h) := by
  rw [tlbi, issue_of_issues hi]
  simp only [busy, done, reported, List.isEmpty_nil, Bool.not_true, Bool.or_self, Bool.false_eq_true, if_false]
  rfl

/-- What the removal leaves: what waits for its end, and the entries and generations of every core. -/
theorem tlbi_removed (row : Nat) :
    let q := s1.me.scopeArg o.b
    let w := tlbiWhat row o s1.me
    let cores := tlbiCores s.cur.gid q
    let t := s1.tlbiRemove w q
    ∃ ws ds, t.me.busy = some (.invalidating ws ds) ∧ t.me.x = s.me.x ∧ t.mem = s.mem ∧
      (∀ k ∈ cores, ∀ x ∈ s1.accessesUnder w k, (k, x) ∈ ws) ∧ (∀ x ∈ s1.mergesUnder w cores, x ∈ ws) ∧
      (∀ p, p ∈ ds ↔ p < 16 ∧ (s1.peerMask s.cur.gid q).getLsbD p = true) ∧
      (∀ k ∈ cores, (∀ x, x ∈ (t.core k).tlb ↔ x ∈ (s.core k).tlb ∧ ¬w.hits x.vpn x.size x.dom = true) ∧
        (t.core k).gen = (s.core k).gen + 1) ∧
      (∀ k, k ∉ cores → (t.core k).tlb = (s.core k).tlb ∧ (t.core k).gen = (s.core k).gen) := by
  intro q w cores t
  have keeps := s1.tlbiRemove_keepsX w q
  have x : t.me.x = s1.me.x := by
    rw [State.me, State.me, keeps.cur]
    exact keeps.x _
  have after (k : Nat) : (t.core k).translations = if k ∈ cores then w.removed (s.core k).translations else (s.core k).translations := by
    rw [State.tlbiRemove_translations, hi.cur, State.takeWait_translations hi.wait k]
  refine ⟨_, _, s1.tlbiRemove_busy w q, x.trans hi.me_x, (s1.tlbiRemove_keepsOut w q).mem.trans (State.takeWait_mem hi.wait),
    fun k hk x hx => ?_, fun x hx => ?_, fun p => ?_, fun k hk => ?_, fun k hk => ?_⟩
  · rw [State.tlbiWaits, hi.cur]
    exact List.mem_append_left _ (List.mem_flatMap.2 ⟨k, hk, List.mem_map_of_mem hx⟩)
  · rw [State.tlbiWaits, hi.cur]
    exact List.mem_append_right _ hx
  · rw [State.tlbiWaits, hi.cur, List.mem_filter, List.mem_range]
    rfl
  · obtain ⟨tlb, gen⟩ := Prod.ext_iff.1 ((after k).trans (if_pos hk))
    refine ⟨fun x => ?_, gen⟩
    rw [show (t.core k).tlb = _ from tlb, TlbiWhat.removed, List.mem_filter, Bool.not_eq_true', Bool.not_eq_true]
    rfl
  · exact Prod.ext_iff.1 ((after k).trans (if_neg hk))

end

/-! ## `fnote` and the range table (R42, R52, R378, R379) -/

theorem exec_fnote (h : Hdr) (o : FmtT) (s : State) : exec (.fnote h o) s = execFnote h o s := rfl
theorem exec_rtab (h : Hdr) (o : FmtT) (s : State) : exec (.rtab h o) s = execRtab h o s := rfl
theorem exec_rtabRd (h : Hdr) (o : FmtT) (s : State) : exec (.rtabRd h o) s = execRtabRd h o s := rfl

theorem noticeReserved_iff (w : Word) :
    noticeReserved w = true ↔ w.extractLsb' 48 16 ≠ 0 ∨ w.extractLsb' 24 4 ≠ 0 ∨ w.extractLsb' 4 4 ≠ 0 := by
  simp only [noticeReserved, bits_eq_toNat_extract, Bool.or_eq_true, decide_eq_true_eq, ne_eq, BitVec.toNat_eq, or_assoc]
  rfl

theorem rngeReserved_iff (sel : BitVec 4) (w : Word) :
    rngeReserved sel.toNat w = true ↔
      if sel = 0 then w.extractLsb' 55 5 ≠ 0 ∨ w.extractLsb' 0 16 ≠ 0 else w.extractLsb' 52 12 ≠ 0 ∨ w.extractLsb' 0 16 ≠ 0 := by
  have zero : sel = 0 ↔ sel.toNat = 0 := BitVec.toNat_eq
  simp only [rngeReserved, zero, bits_eq_toNat_extract]
  split <;> simp only [Bool.or_eq_true, decide_eq_true_eq, ne_eq, BitVec.toNat_eq] <;> rfl

section
variable {h : Hdr} {o : FmtT} {s s1 : State}

theorem fnote_illegal (hi : Issues h s .illegal (pairOps o.a) [] s1)
    (denied : isSvc s.cur.gid = false ∨ s1.me.level ≠ .supervisor ∨ noticeReserved (s1.me.getX (opNum o.a + 1)).val = true) :
    execFnote h o s = .next (s1.fault s.cur h 5 0 s.me.slotVal) := by
  rw [execFnote, issue_of_issues hi, ← hi.close_illegal]
  simp only [hi.cur, Bool.not_eq_true', if_pos denied]

theorem fnote_waits (hi : Issues h s .illegal (pairOps o.a) [] s1)
    (granted : ¬(isSvc s.cur.gid = false ∨ s1.me.level ≠ .supervisor ∨ noticeReserved (s1.me.getX (opNum o.a + 1)).val = true))
    (due : s1.repliesOut s.cur = true ∨ orderOk s1 s.cur s1.me.seq (Order.cluster (gidCl s.cur.gid)) = false ∨
      fencesOk s1 s.cur s1.me.seq false true = false) :
    execFnote h o s = .next s1 := by
  rw [execFnote, issue_of_issues hi]
  simp only [hi.cur, Bool.not_eq_true', if_neg granted]
  rw [if_pos (by simpa [or_assoc] using due)]
  rfl

/-- The notice of completion that `fnote` sends (R378). -/
def completionNotice (o : FmtT) (s1 : State) : Flight :=
  let w1 := (s1.me.getX (opNum o.a + 1)).val
  .msg (gidOf (gidCl s1.cur.gid) (bits w1 23 16)) ⟨recordBytes [(s1.me.getX (opNum o.a)).val,
    wd (w1.toNat / 16 * 16 + (if bits w1 3 0 = 0 then 0 else 1))], true, 4, 0, 0⟩

theorem fnote_sends (hi : Issues h s .illegal (pairOps o.a) [] s1)
    (granted : ¬(isSvc s.cur.gid = false ∨ s1.me.level ≠ .supervisor ∨ noticeReserved (s1.me.getX (opNum o.a + 1)).val = true))
    (free : ¬(s1.repliesOut s.cur = true ∨ orderOk s1 s.cur s1.me.seq (Order.cluster (gidCl s.cur.gid)) = false ∨
      fencesOk s1 s.cur s1.me.seq false true = false)) :
    execFnote h o s = .next ((s1.sending (completionNotice o s1)).retire s.cur h) := by
  rw [← hi.cur] at granted free
  rw [execFnote, issue_of_issues hi]
  simp only [Bool.not_eq_true', if_neg granted]
  rw [if_neg (by simpa [or_assoc] using free)]
  rfl

theorem rtab_illegal (hi : Issues h s .illegal [o.a] [] s1) (denied : ¬(isSvc s.cur.gid = true ∧ s1.me.level = .hypervisor)) :
    execRtab h o s = .next (s1.fault s.cur h 5 0 s.me.slotVal) := by
  rw [execRtab, issue_of_issues hi, ← hi.close_illegal]
  dsimp only
  rw [if_pos (by rw [hi.cur, Bool.not_eq_true']; rwa [not_and_or, Bool.not_eq_true] at denied)]

theorem rtab_reserved (hi : Issues h s .illegal [o.a] [] s1) (granted : isSvc s.cur.gid = true ∧ s1.me.level = .hypervisor)
    (reserved : rngeReserved o.sel.toNat (s1.me.readS o.a).1 = true) :
    execRtab h o s = .next (s1.after h (fun c => (c.readS o.a).2)) := by
  rw [execRtab, issue_of_issues hi, ← hi.close_setCtx]
  simp only [hi.cur, granted, reserved, Bool.not_true, Bool.false_eq_true, ne_eq, not_true_eq_false, or_self, if_false, if_true]

/-- A range-table entry with one of its three words written (R42, R379). -/
def Rnge.write (r : Rnge) (o : FmtT) (w : Word) : Rnge :=
  if o.sel = 0 then { r with w0 := w } else if o.sel = 1 then { r with w1 := w } else { r with w2 := w }

theorem rtab_writes (hi : Issues h s .illegal [o.a] [] s1) (granted : isSvc s.cur.gid = true ∧ s1.me.level = .hypervisor)
    (sound : ¬rngeReserved o.sel.toNat (s1.me.readS o.a).1 = true) :
    execRtab h o s = .next (((s1.setCtx s.cur (s1.me.readS o.a).2).updCluster (gidCl s.cur.gid) (fun k =>
      { k with rnge := Sparse.put Rnge.reset k.rnge o.imm.toNat ((k.range o.imm.toNat).write o (s1.me.readS o.a).1) })).retire s.cur h) := by
  rw [execRtab, issue_of_issues hi]
  simp only [hi.cur, granted, sound, Bool.not_true, Bool.false_eq_true, ne_eq, not_true_eq_false, or_self, if_false]
  rfl

/-- Reading the range table after a write of it. -/
theorem Cluster.range_put (k : Cluster) (n : Nat) (r : Rnge) (i : Nat) :
    ({ k with rnge := Sparse.put Rnge.reset k.rnge n r } : Cluster).range i = if n = i then r else k.range i := Sparse.look_put ..

theorem rtabRd_illegal (hi : Issues h s .illegal [] [o.d] s1) (denied : ¬(isSvc s.cur.gid = true ∧ s1.me.level = .hypervisor)) :
    execRtabRd h o s = .next (s1.fault s.cur h 5 0 s.me.slotVal) := by
  rw [execRtabRd, issue_of_issues hi, ← hi.close_illegal]
  dsimp only
  rw [if_pos (by rw [hi.cur, Bool.not_eq_true']; rwa [not_and_or, Bool.not_eq_true] at denied)]

theorem rtabRd_reads (hi : Issues h s .illegal [] [o.d] s1) (granted : isSvc s.cur.gid = true ∧ s1.me.level = .hypervisor) :
    let r := (s1.cluster (gidCl s.cur.gid)).range o.imm.toNat
    execRtabRd h o s = .next (s1.after h (fun c => c.writeS o.d (if o.sel = 0 then r.w0 else if o.sel = 1 then r.w1 else r.w2))) := by
  intro r
  rw [execRtabRd, issue_of_issues hi, ← hi.close_done]
  simp only [State.myCluster, hi.cur, granted, Bool.not_true, Bool.false_eq_true, ne_eq, not_true_eq_false, or_self, if_false, r]

/-- What the notice that goes out leaves. -/
theorem fnote_sent (hi : Issues h s .illegal (pairOps o.a) [] s1) :
    let t := (s1.sending (completionNotice o s1)).retire s.cur h
    let w1 := (s1.me.getX (opNum o.a + 1)).val
    t.flights = s.flights ++ [.msg (gidOf (gidCl s.cur.gid) (w1.extractLsb' 16 8).toNat) ⟨recordBytes [(s1.me.getX (opNum o.a)).val,
      BitVec.ofNat 64 (w1.toNat / 16 * 16 + (if w1.extractLsb' 0 4 = 0 then 0 else 1))], true, 4, 0, 0⟩] ∧
    SameRegs s.me t.me ∧ s.me.Advanced t.me ∧ t.mem = s.mem := by
  intro t w1
  obtain ⟨me, advanced⟩ := hi.retired (u := s1.sending (completionNotice o s1)) (c := s1.me) rfl hi.me_eq.symm ⟨rfl, rfl, rfl⟩
  have ok : bits w1 3 0 = 0 ↔ w1.extractLsb' 0 4 = 0 := by
    rw [bits_eq_toNat_extract, BitVec.toNat_eq]
    rfl
  refine ⟨?_, ?_, advanced, ?_⟩
  · rw [State.retire_flights, State.sending_flights, State.takeWait_flights hi.wait, completionNotice, hi.cur, bits_eq_toNat_extract _ 23 16]
    simp only [← ok]
    rfl
  · rw [me, hi.me_eq]
    constructor <;> simp [State.me, State.takeWait_ctx_x hi.wait, State.takeWait_ctx_v hi.wait, State.takeWait_ctx_k hi.wait,
      State.takeWait_ctx_p hi.wait, State.takeWait_ctx_lq hi.wait, State.takeWait_ctx_sq hi.wait, State.takeWait_ctx_sb hi.wait]
  · rw [State.retire_mem, State.sending_mem, State.takeWait_mem hi.wait]

/-- What a write of the range table leaves. -/
theorem rtab_wrote (hi : Issues h s .illegal [o.a] [] s1) (w : Word) :
    let cl := gidCl s.cur.gid
    let t := ((s1.setCtx s.cur (s1.me.readS o.a).2).updCluster cl (fun k =>
      { k with rnge := Sparse.put Rnge.reset k.rnge o.imm.toNat ((k.range o.imm.toNat).write o w) })).retire s.cur h
    (t.cluster cl).range o.imm.toNat = ((s.cluster cl).range o.imm.toNat).write o w ∧
    (∀ i, i ≠ o.imm.toNat → (t.cluster cl).range i = (s.cluster cl).range i) ∧
    t.me.x = s.me.x ∧ s.me.Advanced t.me ∧ t.mem = s.mem := by
  intro cl t
  obtain ⟨me, advanced⟩ := hi.retired (u := (s1.setCtx s.cur (s1.me.readS o.a).2).updCluster cl (fun k =>
    { k with rnge := Sparse.put Rnge.reset k.rnge o.imm.toNat ((k.range o.imm.toNat).write o w) })) rfl
    (State.ctx_setCtx_same ..) (s1.me.samePlace_readS o.a)
  have table (i : Nat) : (t.cluster cl).range i =
      if o.imm.toNat = i then ((s.cluster cl).range o.imm.toNat).write o w else (s.cluster cl).range i := by
    rw [State.cluster, State.retire_clusters, ← State.cluster, State.cluster_updCluster_same, Cluster.range_put]
    rw [show (s1.setCtx s.cur (s1.me.readS o.a).2).cluster cl = s.cluster cl from hi.cluster cl]
  refine ⟨(table _).trans (if_pos rfl), fun i other => (table i).trans (if_neg other.symm), ?_, advanced, ?_⟩
  · rw [me, Ctx.advance_x, Ctx.readS_x, hi.me_x]
  · rw [State.retire_mem, State.updCluster_mem, State.setCtx_mem, State.takeWait_mem hi.wait]

end

/-- Settles O50: each of the ten forms by what it comes to in each of its cases. -/
theorem translationInstructions : Obligations.TranslationInstructions := by
  unfold Obligations.TranslationInstructions
  intro h o s s1
  refine ⟨fun e he hi => ?_, fun e he hi => ?_, fun hi => ?_, fun hi => ?_, fun hi => ?_⟩
  · simp only [exec_eq_tlbw he, ← targetOf_bad_iff]
    refine ⟨tlbw_illegal hi, fun svc level => ⟨fun bad => tlbw_malformed hi svc level (.inl bad), fun good other => ?_,
      fun good install none => tlbw_malformed hi svc level (.inr ⟨install, none⟩), fun good install x entry => ⟨fun refused => ?_,
        fun i inTable admits lowest => ?_⟩⟩⟩
    · exact tlbw_sent hi (tlbw_sends_disposition hi svc level good other)
    · refine tlbw_missed hi svc level good install entry (Cluster.rangeCheck_none ?_)
      rwa [State.myCluster, hi.cur]
    · have admitted := Cluster.rangeCheck_lowest inTable admits lowest
      rw [← hi.cur] at admitted
      have sent := tlbw_sent hi (tlbw_sends_install hi svc level good install entry admitted)
      rwa [hi.cur] at sent
  · have small : e.2 ≤ 2 := by
      simp only [List.mem_cons, List.not_mem_nil, or_false] at he
      rcases he with rfl | rfl | rfl <;> decide
    simp only [exec_eq_tlbi he]
    refine ⟨mem_tlbiCores _ _, tlbi_illegal hi, fun first level scope free => ?_, fun ws ds busy => ⟨tlbi_waits hi busy, tlbi_ends hi busy⟩⟩
    obtain ⟨ws, ds, removed⟩ := tlbi_removed hi e.2
    simp only [tlbiWhat_hits_iff small] at removed
    exact ⟨_, ws, ds, tlbi_removes hi first level scope free, removed⟩
  · simp only [exec_fnote, ← noticeReserved_iff]
    refine ⟨fnote_illegal hi, fnote_waits hi, fun granted free => ⟨_, fnote_sends hi granted free, fnote_sent hi⟩⟩
  · simp only [exec_rtab, ← rngeReserved_iff]
    refine ⟨rtab_illegal hi, rtab_reserved hi, fun granted sound => ⟨_, rtab_writes hi granted sound, rtab_wrote hi _⟩⟩
  · simp only [exec_rtabRd]
    exact ⟨rtabRd_illegal hi, rtabRd_reads hi⟩

/-! ## Answers to misses (R39, R40, R46, R376) -/

/-- What a core has of translations: its entries and the misses that wait. -/
def Core.missState (c : Core) : List TlbEntry × List Tracker := (c.tlb, c.trackers)

@[simp] theorem State.landed_core (s : State) (j g : Nat) : (s.landed j).core g = s.core g := rfl
@[simp] theorem State.landed_mem (s : State) (j : Nat) : (s.landed j).mem = s.mem := rfl
@[simp] theorem State.landed_flights (s : State) (j : Nat) : (s.landed j).flights = s.flights.eraseIdx j := rfl

theorem Core.wake_missState (c : Core) (ch fseq : Nat) : (c.wake ch fseq).missState = c.missState := by
  unfold Core.wake Core.setQueue
  dsimp only
  split <;> rfl

/-- What the waiters of a tracker do as it is freed: commands look up again, contexts forget their address. -/
def State.wakeWaiter (s : State) (g fseq : Nat) (w : Nat × Option Nat) : State :=
  match w.2 with
  | some ch => s.updCore g (fun k => k.wake ch fseq)
  | none => s.updCtx ⟨g, w.1⟩ (fun c => { c with missEA := none })

theorem State.wakeWaiter_missState (s : State) (g fseq : Nat) (w : Nat × Option Nat) :
    s.KeepsCores Core.missState (s.wakeWaiter g fseq w) := by
  unfold State.wakeWaiter
  split
  · exact .updCore g fun c => c.wake_missState ..
  · exact .updCtx _ _ fun _ _ _ => rfl

theorem State.wakeWaiter_keepsOut (s : State) (g fseq : Nat) (w : Nat × Option Nat) : s.KeepsOut (s.wakeWaiter g fseq w) := by
  unfold State.wakeWaiter
  split
  · exact .updCore ..
  · exact .updCtx ..

theorem State.freeTracker_eq (s : State) (g : Nat) (t : Tracker) :
    s.freeTracker g t = t.waiters.foldl (fun acc w => acc.wakeWaiter g t.fseq w)
      (s.updCore g (fun c => { c with trackers := c.trackers.filter (fun u => u.fseq ≠ t.fseq) })) := rfl

theorem State.freeTracker_keepsOut (s : State) (g : Nat) (t : Tracker) : s.KeepsOut (s.freeTracker g t) := by
  rw [State.freeTracker_eq]
  exact .trans (.updCore ..) (.foldl (fun st w => st.wakeWaiter_keepsOut g t.fseq w) ..)

/-- A tracker that is freed leaves the entries and the other trackers of its core. -/
theorem State.freeTracker_missState (s : State) (g : Nat) (t : Tracker) :
    ((s.freeTracker g t).core g).missState = ((s.core g).tlb, (s.core g).trackers.filter (fun u => u.fseq ≠ t.fseq)) := by
  rw [State.freeTracker_eq, State.KeepsCores.foldl (fun st w => st.wakeWaiter_missState g t.fseq w) _ _ g, State.core_updCore_same]
  rfl

theorem State.answerCtx_keepsOut (s : State) (a : Agent) (t : Tracker) (disp cause : Nat) : s.KeepsOut (s.answerCtx a t disp cause) := by
  unfold State.answerCtx
  dsimp only
  split
  · exact .upcallOrTrap ..
  · exact .trans (.addBack ..) (.deliverTrap ..)

/-- The tracker that an answer concerns (R39): that of the miss it names, none of an unsolicited one. -/
def Core.tracker? (c : Core) (uns : Bool) (fseq : Nat) : Option Tracker :=
  if uns then none else c.trackers.find? (fun t => decide (t.fseq = fseq))

theorem Core.fseq_of_tracker? {c : Core} {uns : Bool} {fseq : Nat} {t : Tracker} (found : c.tracker? uns fseq = some t) : t.fseq = fseq := by
  unfold Core.tracker? at found
  split at found
  · cases found
  · simpa using List.find?_some found

/-- The tracker of an answer is freed, where there is one. -/
def State.freeAnswered (s : State) (g fseq : Nat) (uns : Bool) : State :=
  match (s.core g).tracker? uns fseq with
  | some t => s.freeTracker g t
  | none => s

theorem State.freeAnswered_of_some {s : State} {g fseq : Nat} {uns : Bool} {t : Tracker} (found : (s.core g).tracker? uns fseq = some t) :
    s.freeAnswered g fseq uns = s.freeTracker g t := by
  simp only [State.freeAnswered, found]

theorem State.freeAnswered_keepsOut (s : State) (g fseq : Nat) (uns : Bool) : s.KeepsOut (s.freeAnswered g fseq uns) := by
  unfold State.freeAnswered
  split
  · exact s.freeTracker_keepsOut ..
  · exact .refl s

theorem State.freeAnswered_tlb (s : State) (g fseq : Nat) (uns : Bool) : ((s.freeAnswered g fseq uns).core g).tlb = (s.core g).tlb := by
  unfold State.freeAnswered
  split
  · exact congrArg Prod.fst (s.freeTracker_missState ..)
  · rfl

/-- A tracker that is freed stands at its core no more. -/
theorem State.freeTracker_gone (s : State) (g : Nat) (t : Tracker) : ∀ u ∈ ((s.freeTracker g t).core g).trackers, u.fseq ≠ t.fseq := by
  intro u hu
  rw [show ((s.freeTracker g t).core g).trackers = _ from congrArg Prod.snd (s.freeTracker_missState g t)] at hu
  exact of_decide_eq_true (List.mem_filter.1 hu).2

theorem State.freeAnswered_gone (s : State) (g fseq : Nat) (uns : Bool) {t : Tracker} (found : (s.core g).tracker? uns fseq = some t) :
    t ∉ ((s.freeAnswered g fseq uns).core g).trackers := by
  rw [State.freeAnswered_of_some found]
  exact fun stands => s.freeTracker_gone g t t stands rfl

/-- A well-formed entry that is installed stands among at most 128, the others of which stood there before (R33, R35). -/
theorem Core.install_tlb (c : Core) (e : TlbEntry) :
    e ∈ (c.install e).tlb ∧ (c.install e).tlb.length ≤ 128 ∧ ∀ x ∈ (c.install e).tlb, x = e ∨ x ∈ c.tlb := by
  dsimp only [Core.install]
  refine ⟨?_, List.length_take_le .., fun x hx => ?_⟩
  · rw [List.take_succ_cons]
    exact List.mem_cons_self
  · exact (List.mem_cons.1 (List.mem_of_mem_take hx)).imp_right List.mem_of_mem_filter

section
variable {s : State} {g disp cause fseq gen : Nat} {uns : Bool} {w0 w1 : Word}

theorem State.answer_of_older (install : disp = 0) (older : genOlder gen (s.core g).gen.toNat = true) :
    s.answer g disp cause fseq gen uns w0 w1 = (s.freeAnswered g fseq uns, 4) := by
  simp only [State.answer, if_pos install, if_pos older]
  rfl

theorem State.answer_of_install (install : disp = 0) (current : genOlder gen (s.core g).gen.toNat = false) {e : TlbEntry}
    (entry : tlbOfWords w0 w1 = some e) :
    s.answer g disp cause fseq gen uns w0 w1 = ((s.freeAnswered g fseq uns).updCore g (fun c => c.install e), 0) := by
  simp only [State.answer, if_pos install, current, Bool.false_eq_true, if_false, entry]
  rfl

/-- An answer that is no install finds nothing that waits: a tracker without waiters is freed, and none else. -/
theorem State.answer_of_none_waiting (other : disp ≠ 0)
    (idle : (s.core g).tracker? uns fseq = none ∨ ∃ t, (s.core g).tracker? uns fseq = some t ∧ t.waiters = []) :
    s.answer g disp cause fseq gen uns w0 w1 = (s.freeAnswered g fseq uns, 5) := by
  unfold Core.tracker? at idle
  rcases idle with none | ⟨t, some, empty⟩
  · simp only [State.answer, State.freeAnswered, Core.tracker?, if_neg other, none]
  · simp only [State.answer, State.freeAnswered, Core.tracker?, if_neg other, some, empty, List.isEmpty_nil, if_true]

/-- One waiting context takes the disposition and the tracker is freed. -/
theorem State.answer_of_context (other : disp ≠ 0) {t : Tracker} {c : Nat} (found : (s.core g).tracker? uns fseq = some t)
    (waiter : t.waiters = [(c, none)]) :
    s.answer g disp cause fseq gen uns w0 w1 = ((s.answerCtx ⟨g, c⟩ t disp cause).freeTracker g t, 1) := by
  unfold Core.tracker? at found
  simp only [State.answer, if_neg other, found, waiter, List.isEmpty_cons, Bool.false_eq_true, if_false, List.foldl_cons, List.foldl_nil]

end

section
variable {s : State} {j g cl disp cause fseq gen : Nat} {uns : Bool} {w0 w1 : Word} {v : Agent} {d : Operand}
  (ev : s.ev = .one j) (flight : s.flights[j]? = some (.reply g cl disp cause fseq gen uns w0 w1 v d))
include ev flight

/-- A miss reply that arrives: its answer takes effect, and D receives the outcome. -/
theorem exec_missReply {u : State} {n : Nat} (answer : (s.landed j).answer g disp cause fseq gen uns w0 w1 = (u, n)) :
    exec .missReply s = .next (u.updCtx v (fun c => c.writeS d (wd n))) := by
  show execMissReply s = _
  simp only [execMissReply, ev, flight, answer]
  rfl

/-- What a miss reply leaves whose answer keeps memory and what is in flight. -/
theorem missReply_ends {u : State} {n : Nat}
    (answer : (s.landed j).answer g disp cause fseq gen uns w0 w1 = (u, n)) (keeps : (s.landed j).KeepsOut u) :
    ∃ t, exec .missReply s = .next t ∧ t.flights = s.flights.eraseIdx j ∧ t.mem = s.mem ∧
      (∀ r : Fin 64, d = .x r → r ≠ 0 → ((t.ctx v).getX r.val).val = BitVec.ofNat 64 n) ∧ u.KeepsCores Core.missState t := by
  refine ⟨_, exec_missReply ev flight answer, ?_, ?_, fun r dest nonzero => ?_, .updCtx _ _ fun _ _ _ => rfl⟩
  · rw [State.updCtx_flights, keeps.flights, State.landed_flights]
  · rw [State.updCtx_mem, keeps.mem, State.landed_mem]
  · rw [State.ctx_updCtx_same, dest, Ctx.getX_writeS_same _ _ nonzero]
    rfl

/-- What a miss reply leaves whose answer comes to no more than that its tracker is freed. -/
theorem missReply_frees {n : Nat} (answer : (s.landed j).answer g disp cause fseq gen uns w0 w1 = ((s.landed j).freeAnswered g fseq uns, n)) :
    ∃ t, (exec .missReply s = .next t ∧ t.flights = s.flights.eraseIdx j ∧ t.mem = s.mem ∧
      (∀ r : Fin 64, d = .x r → r ≠ 0 → ((t.ctx v).getX r.val).val = BitVec.ofNat 64 n) ∧
      (∀ e, (s.core g).tracker? uns fseq = some e → e ∉ (t.core g).trackers)) ∧ (t.core g).tlb = (s.core g).tlb := by
  obtain ⟨t, ends, flights, mem, dest, keeps⟩ := missReply_ends ev flight answer (State.freeAnswered_keepsOut ..)
  obtain ⟨tlb, trackers⟩ := Prod.ext_iff.1 (keeps g)
  refine ⟨t, ⟨ends, flights, mem, dest, fun e found => ?_⟩, tlb.trans (State.freeAnswered_tlb ..)⟩
  rw [show (t.core g).trackers = _ from trackers]
  exact State.freeAnswered_gone (s.landed j) g fseq uns found

/-- What a miss reply leaves that installs an entry. -/
theorem missReply_installs {e : TlbEntry} (install : disp = 0)
    (current : genOlder gen (s.core g).gen.toNat = false) (entry : tlbOfWords w0 w1 = some e) :
    ∃ t, (exec .missReply s = .next t ∧ t.flights = s.flights.eraseIdx j ∧ t.mem = s.mem ∧
      (∀ r : Fin 64, d = .x r → r ≠ 0 → ((t.ctx v).getX r.val).val = BitVec.ofNat 64 0) ∧
      (∀ e, (s.core g).tracker? uns fseq = some e → e ∉ (t.core g).trackers)) ∧
      e ∈ (t.core g).tlb ∧ (t.core g).tlb.length ≤ 128 ∧ ∀ x ∈ (t.core g).tlb, x = e ∨ x ∈ (s.core g).tlb := by
  let u := (s.landed j).freeAnswered g fseq uns
  obtain ⟨t, ends, flights, mem, dest, keeps⟩ := missReply_ends ev flight (State.answer_of_install (s := s.landed j) install current entry)
    ((State.freeAnswered_keepsOut ..).then_updCore ..)
  have installed : (t.core g).missState = ((u.core g).install e).missState := (keeps g).trans (congrArg _ (State.core_updCore_same ..))
  obtain ⟨tlb, trackers⟩ := Prod.ext_iff.1 installed
  refine ⟨t, ⟨ends, flights, mem, dest, fun e found => ?_⟩, ?_⟩
  · rw [show (t.core g).trackers = _ from trackers]
    exact State.freeAnswered_gone (s.landed j) g fseq uns found
  · have before : (u.core g).tlb = (s.core g).tlb := State.freeAnswered_tlb ..
    rw [show (t.core g).tlb = _ from tlb, ← before]
    exact (u.core g).install_tlb e

/-- What a miss reply leaves that a waiting context takes. -/
theorem missReply_answers {e : Tracker} {c : Nat} (other : disp ≠ 0)
    (found : (s.core g).tracker? uns fseq = some e) (waiter : e.waiters = [(c, none)]) :
    ∃ t, exec .missReply s = .next t ∧ t.flights = s.flights.eraseIdx j ∧ t.mem = s.mem ∧
      (∀ r : Fin 64, d = .x r → r ≠ 0 → ((t.ctx v).getX r.val).val = 1) ∧ (∀ u ∈ (t.core g).trackers, u.fseq ≠ fseq) := by
  obtain ⟨t, ends, flights, mem, dest, keeps⟩ := missReply_ends ev flight (State.answer_of_context (s := s.landed j) other found waiter)
    ((State.answerCtx_keepsOut ..).trans (State.freeTracker_keepsOut ..))
  refine ⟨t, ends, flights, mem, dest, ?_⟩
  rw [show (t.core g).trackers = _ from congrArg Prod.snd (keeps g), ← Core.fseq_of_tracker? found]
  exact State.freeTracker_gone _ g e

end

/-! ## Messages (R213, R214, R364, R428) -/

/-- A core's receive queue with its overflow region. -/
def Core.queues (c : Core) : List Msg × List OvMsg × BitVec 32 := (c.recvq, c.ovq, c.mqosSpill)

theorem State.recall_queues (s : State) (line : Nat) : s.KeepsCores Core.queues (s.recall line) := by
  unfold State.recall
  split
  · exact .refl s
  · dsimp only
    split
    · refine .trans ?_ (.of_cores (State.updSlice_cores ..))
      exact .updCore _ fun _ => rfl
    · exact .updCore _ fun _ => rfl

theorem State.setBytes_cores (s : State) (a : Nat) (bs : List Byte) : (s.setBytes a bs).cores = s.cores := by
  induction bs generalizing s a with
  | nil => rfl
  | cons b bs ih => exact ih _ _

theorem State.clearTags_cores (s : State) (a n : Nat) : (s.clearTags a n).cores = s.cores := by
  unfold State.clearTags
  split <;> rfl

theorem State.putWrite_cores (s : State) (w : HomeWrite) : (s.putWrite w).cores = s.cores := by
  have written (a n : Nat) : ((s.setBytes w.addr w.data).clearTags a n).cores = s.cores :=
    (State.clearTags_cores ..).trans (s.setBytes_cores ..)
  unfold State.putWrite
  dsimp only
  split <;> exact written ..

theorem State.patchOwn_queues (s : State) (w : HomeWrite) (tag ver : Nat) : s.KeepsCores Core.queues (s.patchOwn w tag ver) := by
  unfold State.patchOwn
  split
  · exact .refl s
  · refine .updCore _ fun c => ?_
    split <;> rfl

theorem State.markDirty_cores (s : State) (a : Nat) : (s.markDirty a).cores = s.cores := by
  unfold State.markDirty
  split <;> rfl

theorem State.writeHome_queues (s : State) (w : HomeWrite) : s.KeepsCores Core.queues (s.writeHome w) := by
  unfold State.writeHome
  split
  · exact .of_cores rfl
  · have listed (c : Bool) (u : State) (line wid : Nat) : (if c = true then u.collect line wid else u).cores = u.cores := by
      split <;> rfl
    have dirty (u : State) : (if w.owned = true then u else u.markDirty w.addr).prune.cores = u.cores := by
      split
      · rfl
      · exact State.markDirty_cores ..
    dsimp only
    refine .trans (.trans (.of_cores ?_) (State.patchOwn_queues _ w _ _)) (.of_cores (dirty _))
    exact (listed ..).trans (s.putWrite_cores w)

theorem State.physWrite_queues (s : State) (own : Nat) (rel : Bool) (a : Nat) (bs : List Byte) :
    s.KeepsCores Core.queues (s.physWrite own rel a bs) := by
  refine .foldl (fun st e => ?_) _ s
  split
  · exact .of_cores rfl
  · exact (st.recall_queues _).trans (State.writeHome_queues _ _)

theorem State.arrived_queues (s : State) (dst : Nat) (m : Msg) : s.KeepsCores Core.queues (s.arrived dst m) := by
  unfold State.arrived
  split
  · exact .refl s
  split
  · exact .of_cores rfl
  split
  · exact .updCore dst fun _ => rfl
  · exact .refl s

theorem State.arrived_keepsOut (s : State) (dst : Nat) (m : Msg) : s.KeepsOut (s.arrived dst m) := by
  unfold State.arrived
  split
  · exact .refl s
  split
  · exact ⟨rfl, rfl⟩
  split
  · exact ⟨rfl, rfl⟩
  · exact .refl s

/-- A saturating addition (R243). -/
theorem Core.sem_addSem_same (c : Core) (n k : Nat) :
    ((c.addSem n k).sem n).val.toNat = min 0xFFFF ((c.sem n).val.toNat + k) ∧
      ((c.addSem n k).sem n).ovf = ((c.sem n).ovf || decide (0xFFFF < (c.sem n).val.toNat + k)) := by
  simp only [Core.addSem, Core.sem_setSem, if_true, satAdd16]
  split
  next fits =>
    rw [BitVec.toNat_ofNat, decide_eq_false (by omega)]
    exact ⟨by omega, rfl⟩
  next wide =>
    rw [decide_eq_true (by omega)]
    exact ⟨(min_eq_left (by omega)).symm, rfl⟩

theorem Core.sem_addSem_other (c : Core) {n m : Nat} (k : Nat) (other : m ≠ n) : (c.addSem n k).sem m = c.sem m := by
  rw [Core.addSem, Core.sem_setSem, if_neg other.symm]

/-- A notice adds one to the semaphore it names (R52). -/
theorem State.arrived_notice {s : State} {dst : Nat} {m : Msg} (sys : m.sys = true) (notice : m.sknd = 4) :
    s.arrived dst m = s.addSem dst (bits (wordAt m.bytes 1) 15 8) 1 := by
  simp [State.arrived, sys, notice]

/-- Any other message leaves the semaphores. -/
theorem State.arrived_sem {s : State} {dst : Nat} {m : Msg} (other : m.sys = false ∨ m.sknd ≠ 4) (g n : Nat) :
    ((s.arrived dst m).core g).sem n = (s.core g).sem n := by
  unfold State.arrived
  split
  · rfl
  next sys =>
    split
    · rfl
    · rw [if_neg (other.resolve_left (by simpa using sys))]

/-- A miss record shows its core's generation (R46). -/
theorem State.arrived_gen {s : State} {dst : Nat} {m : Msg} (sys : m.sys = true) (miss : m.sknd = 1) :
    ((s.arrived dst m).cluster (gidCl dst)).genOf (bits (wordAt m.bytes 1) 7 0) = bits (wordAt m.bytes 1) 63 48 := by
  simp only [State.arrived, sys, miss, Bool.not_true, Bool.false_eq_true, if_false, if_true, State.cluster_updCluster_same, Cluster.genOf,
    Sparse.look_put_same, BitVec.toNat_ofNat]
  exact Nat.mod_eq_of_lt (Nat.mod_lt _ (by decide))

/-- A core takes a message into its receive queue. -/
def Core.receive (c : Core) (m : Msg) : Core := { c with recvq := c.recvq ++ [m], msgRecv := c.msgRecv + 1 }

/-- A core takes a message into a place of its overflow region. -/
def Core.spill (c : Core) (place : Nat) (m : Msg) : Core :=
  { c with ovq := c.ovq ++ [⟨place, m.sys, m.sknd, m.cl, m.idx⟩], mqosSpill := c.mqosSpill + 1, msgRecv := c.msgRecv + 1 }

/-- The end of a core's queue with room takes a message, while nothing lies in its overflow region (R214). -/
theorem State.enqueueMsg_of_room {s : State} {g : Nat} (m : Msg) (room : (s.core g).recvq.length < 64) (empty : (s.core g).ovq = []) :
    s.enqueueMsg g m = some (s.updCore g (fun c => c.receive m)) := by
  simp only [State.enqueueMsg, room, empty, List.isEmpty_nil, and_self, if_true]
  rfl

theorem Core.not_room_of_full {c : Core} (full : 64 ≤ c.recvq.length ∨ c.ovq ≠ []) : ¬(c.recvq.length < 64 ∧ c.ovq.isEmpty = true) := by
  rintro ⟨room, empty⟩
  exact full.elim (fun long => absurd room (not_lt.2 long)) (fun some => some (List.isEmpty_iff.1 empty))

/-- Behind a full queue a message waits while the overflow region is full, or its memory cannot be reached (R214). -/
theorem State.enqueueMsg_eq_none {s : State} {g : Nat} (m : Msg) (full : 64 ≤ (s.core g).recvq.length ∨ (s.core g).ovq ≠ [])
    (blocked : (s.core g).mqosSize.toNat ≤ (s.core g).ovq.length ∨
      s.devMay false (s.devLines ((s.core g).mqoa.toNat + 64 * (s.core g).spillSlot) 64) = false) : s.enqueueMsg g m = none := by
  simp only [State.enqueueMsg, if_neg (Core.not_room_of_full full)]
  split
  · rfl
  next room => simp [blocked.resolve_left room]

/-- Behind a full queue a message goes to the next place of the overflow region (R214). -/
theorem State.enqueueMsg_of_spill {s : State} {g : Nat} (m : Msg) (full : 64 ≤ (s.core g).recvq.length ∨ (s.core g).ovq ≠ [])
    (room : (s.core g).ovq.length < (s.core g).mqosSize.toNat)
    (reach : s.devMay false (s.devLines ((s.core g).mqoa.toNat + 64 * (s.core g).spillSlot) 64) = true) :
    ∃ u : State, s.KeepsCores Core.queues u ∧
      s.enqueueMsg g m = some (u.updCore g (fun c => c.spill ((s.core g).mqoa.toNat + 64 * (s.core g).spillSlot) m)) := by
  refine ⟨_, s.physWrite_queues devUnit false ((s.core g).mqoa.toNat + 64 * (s.core g).spillSlot) m.bytes, ?_⟩
  simp only [State.enqueueMsg, if_neg (Core.not_room_of_full full), if_neg (Nat.not_le.2 room), reach, Bool.not_true, Bool.false_eq_true, if_false]
  rfl

theorem exec_messageArrival {s : State} {j : Nat} (ev : s.ev = .one j) : exec .messageArrival s = event "MESSAGE_ARRIVAL" (s.messageArrival j) := by
  show execMessageArrival s = _
  simp only [execMessageArrival, ev]

/-- A request that reaches the Ubhal (R428). -/
theorem messageArrival_request {s : State} {j g dom part : Nat} {level : Level} {bs : List Byte} (ev : s.ev = .one j)
    (flight : s.flights[j]? = some (.ubhal g level dom part bs)) (turn : s.inOrder j = true) :
    exec .messageArrival s = .next ((s.landed j).updDev (fun d => { d with ubq := d.ubq ++ [⟨bs, some g, level, dom, part⟩] })) := by
  rw [exec_messageArrival ev]
  simp only [State.messageArrival, turn, flight, Bool.not_true, Bool.false_eq_true, if_false]
  rfl

section
variable {s : State} {j dst : Nat} {m : Msg} (flight : s.flights[j]? = some (.msg dst m)) (turn : s.inOrder j = true)
  (ready : m.sys = false ∨ m.sknd ≠ 1 ∨ s.ready (16 + gidCl dst) = true)
include flight turn ready

/-- A message whose turn it is enters the queue of its core, and does what its kind does. -/
theorem State.messageArrival_of_msg :
    s.messageArrival j = ((s.landed j).enqueueMsg dst m).map (fun t => t.arrived dst m) := by
  have free : (m.sys && decide (m.sknd = 1) && !s.ready (16 + gidCl dst)) = false := by
    rcases ready with h | h | h <;> simp [h]
  simp only [State.messageArrival, turn, flight, free, Bool.not_true, Bool.false_eq_true, if_false]

variable (ev : s.ev = .one j)
include ev

theorem messageArrival_of_enqueued {u : State} (enqueued : (s.landed j).enqueueMsg dst m = some u) :
    exec .messageArrival s = .next (u.arrived dst m) := by
  rw [exec_messageArrival ev, State.messageArrival_of_msg flight turn ready, enqueued]
  rfl

/-- What a message leaves that enters the receive queue. -/
theorem messageArrival_enters (room : (s.core dst).recvq.length < 64)
    (empty : (s.core dst).ovq = []) :
    ∃ t, exec .messageArrival s = .next t ∧ (t.core dst).recvq = (s.core dst).recvq ++ [m] ∧ (t.core dst).ovq = [] ∧
      t.flights = s.flights.eraseIdx j ∧ t.mem = s.mem ∧
      (m.sys = true → m.sknd = 4 → ((t.core dst).sem (bits (wordAt m.bytes 1) 15 8)).val.toNat =
        min 0xFFFF (((s.core dst).sem (bits (wordAt m.bytes 1) 15 8)).val.toNat + 1)) ∧
      ((m.sys = false ∨ m.sknd ≠ 4) → ∀ n, (t.core dst).sem n = (s.core dst).sem n) ∧
      (m.sys = true → m.sknd = 1 → ((t.cluster (gidCl dst)).genOf (bits (wordAt m.bytes 1) 7 0)) = bits (wordAt m.bytes 1) 63 48) := by
  let u := (s.landed j).updCore dst (fun c => c.receive m)
  have enqueued : (s.landed j).enqueueMsg dst m = some u := State.enqueueMsg_of_room m room empty
  have entered : u.core dst = (s.core dst).receive m := State.core_updCore_same ..
  have queues : ((u.arrived dst m).core dst).queues = ((s.core dst).receive m).queues := by
    rw [u.arrived_queues dst m dst, entered]
  have out := u.arrived_keepsOut dst m
  refine ⟨u.arrived dst m, messageArrival_of_enqueued flight turn ready ev enqueued, congrArg Prod.fst queues,
    (congrArg (fun q => q.2.1) queues).trans empty, out.flights, out.mem, fun sys notice => ?_, fun other n => ?_,
    fun sys miss => State.arrived_gen sys miss⟩
  · rw [State.arrived_notice sys notice, State.addSem, State.core_updCore_same, (Core.sem_addSem_same ..).1, entered]
    rfl
  · rw [State.arrived_sem other, entered]
    rfl

/-- What a message leaves that goes to the overflow region. -/
theorem messageArrival_spills
    (full : 64 ≤ (s.core dst).recvq.length ∨ (s.core dst).ovq ≠ []) (room : (s.core dst).ovq.length < (s.core dst).mqosSize.toNat) {place : Nat}
    (at' : place = (s.core dst).mqoa.toNat + 64 * (s.core dst).spillSlot)
    (reach : (s.landed j).devMay false ((s.landed j).devLines place 64) = true) :
    ∃ t e, exec .messageArrival s = .next t ∧ (t.core dst).recvq = (s.core dst).recvq ∧ (t.core dst).ovq = (s.core dst).ovq ++ [e] ∧
      e.addr = place ∧ e.sys = m.sys ∧ e.sknd = m.sknd ∧ e.cl = m.cl ∧ e.idx = m.idx ∧
      (t.core dst).mqosSpill = (s.core dst).mqosSpill + 1 := by
  subst at'
  obtain ⟨u, keeps, enqueued⟩ := State.enqueueMsg_of_spill (s := s.landed j) m full room reach
  have queues := (State.arrived_queues _ dst m dst).trans (congrArg Core.queues (State.core_updCore_same u dst (fun c => c.spill
    (((s.landed j).core dst).mqoa.toNat + 64 * ((s.landed j).core dst).spillSlot) m)))
  have kept : (u.core dst).queues = (s.core dst).queues := keeps dst
  simp only [Core.queues, Prod.mk.injEq] at kept queues
  obtain ⟨recvq, ovq, count⟩ := kept
  obtain ⟨recvq', ovq', count'⟩ := queues
  exact ⟨_, _, messageArrival_of_enqueued flight turn ready ev enqueued, recvq'.trans recvq, ovq'.trans (congrArg (· ++ [_]) ovq),
    rfl, rfl, rfl, rfl, rfl, count'.trans (congrArg (· + 1) count)⟩

/-- A message that can go nowhere does not arrive. -/
theorem messageArrival_blocked (blocked : (s.landed j).enqueueMsg dst m = none) :
    exec .messageArrival s = .fault (.notEnabled "MESSAGE_ARRIVAL") := by
  rw [exec_messageArrival ev, State.messageArrival_of_msg flight turn ready, blocked]
  rfl

end

/-! ## Increments, checks and changes of a level (R265, R372) -/

theorem exec_semSigArrival {s : State} {j g sem n : Nat} (ev : s.ev = .one j) (flight : s.flights[j]? = some (.sigAdd g sem n)) :
    exec .semSigArrival s = .next ((s.landed j).addSem g sem n) := by
  show execSemSigArrival s = _
  simp only [execSemSigArrival, ev, flight]
  rfl

/-- A queue whose base level has changed: the aging of all its records restarts (R193, R372). -/
def StageQ.restart (q : StageQ) (lvl : Nat) : StageQ :=
  { q with base := lvl, age := 0, aged := 0, past := q.past.map (fun e => (e.1, 0, 0, e.2.2.2)) }

theorem exec_qprioChangeArrival {s : State} {j cl lid stage lvl : Nat} (ev : s.ev = .one j)
    (flight : s.flights[j]? = some (.qprio cl lid stage lvl)) :
    exec .qprioChangeArrival s = .next ((s.landed j).updCluster cl (fun k => k.updQueue lid stage (fun q => q.restart lvl))) := by
  show execQprioChangeArrival s = _
  simp only [execQprioChangeArrival, ev, flight]
  rfl

/-- Reading a queue after a change of it that keeps its launch and its stage. -/
theorem Cluster.queue?_updQueue {k : Cluster} {lid stage : Nat} {f : StageQ → StageQ} {q : StageQ}
    (keeps : ∀ q, (f q).lid = q.lid ∧ (f q).stage = q.stage) (found : k.queue? lid stage = some q) :
    (k.updQueue lid stage f).queue? lid stage = some (f q) := by
  have same : (fun q : StageQ => q.lid == lid && q.stage == stage) ∘ (fun q => if q.lid == lid && q.stage == stage then f q else q) =
      fun q => q.lid == lid && q.stage == stage := by
    funext q
    obtain ⟨lidKept, stageKept⟩ := keeps q
    simp only [Function.comp_apply]
    split
    · rw [lidKept, stageKept]
    · rfl
  unfold Cluster.queue? Cluster.updQueue at *
  rw [List.find?_map, same, found, Option.map_some, if_pos (List.find?_some found)]

/-- The checks of an agent that are on their way (R265). -/
def Flight.checks (a : Agent) (f : Flight) : Bool := match f with | .sigCheck b _ _ _ => b == a | _ => false

/-- A flight sets out where a condition holds. -/
def State.sendingIf (s : State) (ok : Bool) (f : Flight) : State := if ok then s.sending f else s

theorem State.sendingIf_flights (s : State) (ok : Bool) (f : Flight) :
    (s.sendingIf ok f).flights = s.flights ++ (if ok then [f] else []) := by
  cases ok
  · exact (List.append_nil _).symm
  · rfl

theorem State.sendingIf_cores (s : State) (ok : Bool) (f : Flight) : (s.sendingIf ok f).cores = s.cores := by cases ok <;> rfl
theorem State.sendingIf_mem (s : State) (ok : Bool) (f : Flight) : (s.sendingIf ok f).mem = s.mem := by cases ok <;> rfl

theorem State.sendingIf_core (s : State) (ok : Bool) (f : Flight) (g : Nat) : (s.sendingIf ok f).core g = s.core g :=
  State.core_cores _ _ (s.sendingIf_cores ok f) g

theorem State.sendingIf_ctx (s : State) (ok : Bool) (f : Flight) (a : Agent) : (s.sendingIf ok f).ctx a = s.ctx a :=
  congrArg (fun c => c.ctx a.ctx) (s.sendingIf_core ok f a.gid)

theorem State.sigReturn_eq (s : State) (a : Agent) {j tgt sem n : Nat} {h : Hdr} {d : Operand}
    (first : s.flights.findIdx? (Flight.checks a) = some j) (flight : s.flights[j]? = some (.sigCheck a tgt sem n))
    (busy : (s.ctx a).busy = some (.sigCheck h d)) :
    let ok := decide ((s.core tgt).slotDom = (s.ctx a).cdom)
    s.sigReturn a = some ((((s.landed j).sendingIf ok (.sigAdd tgt sem n)).updCtx a (fun c => c.writePO d ok)).retire a h) := by
  intro ok
  dsimp only [State.sigReturn]
  split
  next none => exact absurd (none.symm.trans first) (by simp)
  next i found =>
    obtain rfl : i = j := Option.some.inj (found.symm.trans first)
    simp only [flight, busy]
    rfl

theorem Flight.checks_iff {a : Agent} {f : Flight} : f.checks a = true ↔ ∃ tgt sem n, f = .sigCheck a tgt sem n := by
  unfold Flight.checks
  split
  next b tgt sem n =>
    rw [beq_iff_eq]
    exact ⟨fun own => own ▸ ⟨tgt, sem, n, rfl⟩, fun ⟨x, y, z, same⟩ => (Flight.sigCheck.inj same).1⟩
  next none =>
    exact ⟨fun no => absurd no Bool.false_ne_true, fun ⟨x, y, z, same⟩ => absurd same (none a x y z)⟩

/-- The check of an agent that returns is the first of its checks on the way. -/
theorem findIdx_checks {l : List Flight} {a : Agent} {j tgt sem n : Nat} (flight : l[j]? = some (.sigCheck a tgt sem n))
    (first : ∀ i g, i < j → l[i]? = some g → ∀ x y z, g ≠ .sigCheck a x y z) : l.findIdx? (Flight.checks a) = some j := by
  obtain ⟨inside, at'⟩ := List.getElem?_eq_some_iff.1 flight
  rw [List.findIdx?_eq_some_iff_getElem]
  refine ⟨inside, Flight.checks_iff.2 ⟨tgt, sem, n, at'⟩, fun i before => ?_⟩
  rw [Flight.checks_iff]
  rintro ⟨x, y, z, same⟩
  exact first i _ before (List.getElem?_eq_getElem (before.trans inside)) x y z same

/-- What a retirement leaves of the semaphores of its core: what the next cycle adds (R243, R244). -/
theorem State.retire_core_sems (s : State) (a : Agent) (h : Hdr) :
    ((s.retire a h).core a.gid).semAdds = (s.core a.gid).semAdds ++ addsOf h ∧ ((s.retire a h).core a.gid).sems = (s.core a.gid).sems := by
  unfold State.retire State.updCtx State.setCtx
  rw [State.core_updCore_same, Core.setCtx_semAdds, Core.setCtx_sems]
  unfold State.signalNext State.addSemNext addsOf
  split
  · exact ⟨(List.append_nil _).symm, rfl⟩
  · rw [State.core_updCore_same]
    exact ⟨rfl, rfl⟩

/-- What the return of a check leaves. -/
theorem semSigCheckReturn_ends {s : State} {a : Agent} {j tgt sem n : Nat} {h : Hdr} {d : Operand}
    (flight : s.flights[j]? = some (.sigCheck a tgt sem n))
    (first : ∀ i g, i < j → s.flights[i]? = some g → ∀ x y z, g ≠ .sigCheck a x y z) (busy : (s.ctx a).busy = some (.sigCheck h d)) :
    let ok := decide ((s.core tgt).slotDom = (s.ctx a).cdom)
    ∃ t, exec .semSigCheckReturn { s with ev := .agent a } = .next t ∧
      t.flights = s.flights.eraseIdx j ++ (if ok then [.sigAdd tgt sem n] else []) ∧
      (∀ p : Fin 8, d = .p p → p ≠ 0 → (t.ctx a).getP p.val = ok) ∧ (t.ctx a).x = (s.ctx a).x ∧ (s.ctx a).Advanced (t.ctx a) ∧
      (t.core a.gid).semAdds = (s.core a.gid).semAdds ++ addsOf h ∧ (t.core a.gid).sems = (s.core a.gid).sems ∧ t.mem = s.mem := by
  intro ok
  let s' : State := { s with ev := .agent a }
  let u := (s'.landed j).sendingIf ok (.sigAdd tgt sem n)
  have ctx : u.ctx a = s.ctx a := State.sendingIf_ctx ..
  have returned : (u.updCtx a (fun c => c.writePO d ok)).ctx a = (s.ctx a).writePO d ok := by rw [State.ctx_updCtx_same, ctx]
  obtain ⟨adds, sems⟩ := State.retire_core_sems (u.updCtx a (fun c => c.writePO d ok)) a h
  have core : (u.updCtx a (fun c => c.writePO d ok)).core a.gid = (s.core a.gid).setCtx a.ctx ((s.ctx a).writePO d ok) := by
    rw [State.updCtx, State.setCtx, State.core_updCore_same, ctx, State.sendingIf_core]
    rfl
  rw [core] at adds sems
  refine ⟨(u.updCtx a (fun c => c.writePO d ok)).retire a h, ?_, ?_, fun p dest nonzero => ?_, ?_, ?_, adds, sems, ?_⟩
  · have ends := s'.sigReturn_eq a (findIdx_checks flight first) flight busy
    show event "SEM_SIG_CHECK_RETURN" (s'.sigReturn a) = _
    rw [ends]
    rfl
  · rw [State.retire_flights, State.updCtx_flights, State.sendingIf_flights]
    rfl
  · have hp : p.val ≠ 0 := fun zero => nonzero (Fin.ext zero)
    rw [State.retire_ctx, returned, dest, Ctx.getP_advance, Ctx.writePO, Ctx.getP_writeP, if_neg hp, if_pos rfl]
  · rw [State.retire_ctx, returned, Ctx.advance_x, Ctx.writePO_x]
  · rw [State.retire_ctx, returned]
    exact ((s.ctx a).samePlace_writePO d ok).advanced
  · rw [State.retire_mem, State.updCtx_mem, State.sendingIf_mem]
    rfl

/-- Settles O51: each arrival by what it leaves in each of its cases. -/
theorem arrivalEvents : Obligations.ArrivalEvents := by
  unfold Obligations.ArrivalEvents
  intro s j f ev flight
  refine ⟨?_, ?_, ?_, ?_, ?_, ?_⟩
  · rintro g cl disp cause fseq gen uns w0 w1 v d rfl
    exact ⟨fun install older => missReply_frees ev flight (State.answer_of_older install older),
      fun e install current entry => missReply_installs ev flight install current entry,
      fun other idle => missReply_frees ev flight (State.answer_of_none_waiting other idle),
      fun e c other found waiter _ => missReply_answers ev flight other found waiter⟩
  · rintro dst m rfl turn ready
    refine ⟨messageArrival_enters flight turn ready ev, ?_, fun full size => ?_, fun empty => ?_⟩
    · rintro place at' full room
      refine ⟨fun blocked => ?_, messageArrival_spills flight turn ready ev full room at'⟩
      exact messageArrival_blocked flight turn ready ev (State.enqueueMsg_eq_none m full (.inr (at' ▸ blocked)))
    · exact messageArrival_blocked flight turn ready ev (State.enqueueMsg_eq_none m full (.inl size))
    · simp only [Core.spillSlot, empty, List.getLast?_nil]
  · rintro g level dom part bs rfl turn
    exact ⟨_, messageArrival_request ev flight turn, rfl, rfl, rfl⟩
  · rintro g sem n rfl
    have added : ((s.landed j).addSem g sem n).core g = (s.core g).addSem sem n := State.core_updCore_same ..
    refine ⟨_, exec_semSigArrival ev flight, ?_⟩
    rw [added]
    exact ⟨(Core.sem_addSem_same ..).1, (Core.sem_addSem_same ..).2, fun m other => Core.sem_addSem_other _ n other, rfl, rfl⟩
  · rintro cl lid stage lvl q rfl found
    refine ⟨_, exec_qprioChangeArrival ev flight, ?_, rfl, rfl⟩
    rw [State.cluster_updCluster_same]
    exact Cluster.queue?_updQueue (fun _ => ⟨rfl, rfl⟩) found
  · rintro a tgt sem n h d rfl first busy
    exact semSigCheckReturn_ends flight first busy

end Sys2Proof.Machine
end

section
/-! PROOFS. Scratch banks (R60-R83): what `bdrain` does where nothing is in flight, and the events that end drains, zeroing and rotations and
correct errors. -/

namespace Sys2Proof.Machine

open Sys2Proof

/-! ## `bdrain` without an access in flight (R79) -/

theorem exec_bdrain (h : Hdr) (o : FmtK) (s : State) : exec (.bdrain h o) s = execBdrain h o s := rfl

/-- Where the slot maps a bank and no access of the core is in flight through it, `bdrain` is done at once; the units of a next block that a
context of the core has fetched are fetched anew (R234). -/
theorem bdrain_refetches {h : Hdr} {o : FmtK} {s s1 : State} (hi : Issues h s .illegal (pairOps o.a ++ [o.b]) [o.d] s1)
    (inRange : o.slot.toNat ≤ 7) (auth : bankAuth s1.me o.a permLoad o.slot.toNat = none)
    (valid : (s1.here.slot o.slot.toNat).valid = true)
    (none : s1.flightsThrough s.cur.gid (gidCl s.cur.gid) (s1.here.slot o.slot.toNat).bank = []) :
    exec (.bdrain h o) s = .next ((s1.updCore s.cur.gid Core.refetch).after h (fun c => c.bankResult o.d 0)) := by
  rw [← hi.cur] at none
  rw [exec_bdrain, execBdrain, bankOp, issue_of_issues hi]
  simp only [Bool.false_and, Bool.false_eq_true, if_false, auth, Nat.not_lt.2 inRange, valid, Bool.not_true, none, List.isEmpty_nil,
    if_true, bankDone, Res.close]
  rw [State.after, State.updCore_cur, hi.cur]

/-- Core 0: its context 0 holds a capability of everything with every permission, slot 3 maps bank 7, and context 1 has fetched one unit of
its next block. -/
def fetchingCore : Core :=
  { Core.reset with
    ctxs := [(0, { Ctx.reset with live := true, x := [(2, ⟨0, true⟩), (3, ⟨0xFFC0A00000000000, true⟩)] }),
      (1, { Ctx.reset with live := true, fpart := [⟨0, List.replicate 8 0, false, true⟩] })]
    slots := [(3, ⟨true, false, false, 7⟩)] }

def fetchingState : State := { State.reset with cores := [(0, fetchingCore)] }

/-- Clauses that ask for nothing: no guard, no wait, no signal. -/
def plainHdr : Hdr := ⟨false, 0, 0, 0, 0, 0, false, false, false⟩

/-- `bdrain` of slot 3 under the pair x2, with its result in p1. -/
def drainSlot3 : FmtK := ⟨.p 1, .x 2, .x 0, false, 0, 0, 0, 3⟩

theorem fetchingState_issues :
    Issues plainHdr fetchingState .illegal (pairOps drainSlot3.a ++ [drainSlot3.b]) [drainSlot3.d] fetchingState where
  free := by decide +kernel
  guard := by decide +kernel
  region := fun opened => absurd opened (by decide +kernel)
  status := by decide +kernel
  reply := by decide +kernel
  ops := by decide +kernel
  wait := rfl

/-- Refutes O42: the clause on a `bdrain` with nothing in flight through its bank leaves the core as it is but for the result, and the model's
`bdrain` also drops the units of a next block that a context of the core, here context 1, has fetched. -/
theorem not_bankInstructions : ¬ Obligations.BankInstructions := by
  unfold Obligations.BankInstructions
  intro claim
  obtain ⟨-, -, -, -, -, drains⟩ := claim plainHdr drainSlot3 fetchingState fetchingState fetchingState_issues
  obtain ⟨-, done, -⟩ := drains (by decide) (by decide +kernel)
  have kept := done (by decide +kernel) (by decide +kernel)
  have dropped := bdrain_refetches fetchingState_issues (by decide) (by decide +kernel) (by decide +kernel) (by decide +kernel)
  have same := Host.Outcome.next.inj (dropped.symm.trans kept)
  have units := congrArg (fun t : State => (t.ctx ⟨0, 1⟩).fpart) same
  exact absurd units (by decide +kernel)

/-! ## Changes of the cores alone -/

/-- Nothing outside the cores is changed. -/
structure State.OnlyCores (s t : State) : Prop where
  eq : t = { s with cores := t.cores }

namespace State.OnlyCores

variable {s t u : State}

theorem mem (only : s.OnlyCores t) : t.mem = s.mem := by rw [only.eq]
theorem tags (only : s.OnlyCores t) : t.tags = s.tags := by rw [only.eq]
theorem poison (only : s.OnlyCores t) : t.poison = s.poison := by rw [only.eq]
theorem arrivals (only : s.OnlyCores t) : t.arrivals = s.arrivals := by rw [only.eq]
theorem clusters (only : s.OnlyCores t) : t.clusters = s.clusters := by rw [only.eq]

theorem refl (s : State) : s.OnlyCores s := ⟨rfl⟩

theorem trans (first : s.OnlyCores t) (second : t.OnlyCores u) : s.OnlyCores u :=
  ⟨second.eq.trans (congrArg (fun w : State => { w with cores := u.cores }) first.eq)⟩

theorem updCore (s : State) (g : Nat) (f : Core → Core) : s.OnlyCores (s.updCore g f) := ⟨rfl⟩

theorem updCtx (s : State) (a : Agent) (f : Ctx → Ctx) : s.OnlyCores (s.updCtx a f) := ⟨rfl⟩

theorem foldl {β : Type} {f : State → β → State} (hf : ∀ (s : State) e, s.OnlyCores (f s e)) (l : List β) (s : State) :
    s.OnlyCores (l.foldl f s) := by
  induction l generalizing s with
  | nil => exact refl s
  | cons e l ih => exact (hf s e).trans (ih _)

theorem retire (s : State) (a : Agent) (h : Hdr) : s.OnlyCores (s.retire a h) := by
  unfold State.retire State.signalNext
  split
  · exact updCtx ..
  · exact (updCore s a.gid _).trans (updCtx ..)

theorem release (s : State) (a : Agent) (f : Operand → Ctx → Ctx) : s.OnlyCores (s.release a f) := by
  unfold State.release
  split
  · exact (updCtx ..).trans (retire ..)
  · exact refl s

end State.OnlyCores

/-! ## Retiring from a drain or a barrier: the slots stay, and so does every other core -/

theorem State.retire_slots (s : State) (a : Agent) (h : Hdr) : s.KeepsCores Core.slots (s.retire a h) := by
  unfold State.retire State.signalNext
  refine .trans ?_ (.updCtx a _ fun _ _ _ => rfl)
  split
  · exact .refl s
  · exact .updCore a.gid fun _ => rfl

theorem State.retire_core_ne (s : State) (a : Agent) (h : Hdr) {k : Nat} (other : a.gid ≠ k) : (s.retire a h).core k = s.core k := by
  unfold State.retire State.signalNext
  refine (State.core_updCore_ne _ _ other).trans ?_
  split
  · rfl
  · exact State.core_updCore_ne _ _ other

theorem State.release_slots (s : State) (a : Agent) (f : Operand → Ctx → Ctx) : s.KeepsCores Core.slots (s.release a f) := by
  unfold State.release
  split
  · exact State.KeepsCores.trans (.updCtx a _ fun _ _ _ => rfl) (State.retire_slots _ a _)
  · exact .refl s

/-- A drain is struck off its core's list. -/
def State.undrained (s : State) (g : Nat) (d : Drain) : State := s.updCore g (fun c => { c with drains := c.drains.erase d })

/-- What the end of a drain can be: the waiting instruction retires, or it has no signal clause left to fire, or that clause fires (R80). -/
theorem State.endDrain_cases (s : State) (g : Nat) (d : Drain) :
    (∃ h o, s.endDrain g d = ((s.undrained g d).updCtx ⟨g, d.ctx⟩ (fun c => c.bankResult o 0)).retire ⟨g, d.ctx⟩ h) ∨
      s.endDrain g d = s.undrained g d ∨ s.endDrain g d = (s.undrained g d).addSem g d.ss.toNat d.si.toNat := by
  unfold State.endDrain
  dsimp only
  split
  next h o _ _ => exact .inl ⟨h, o, rfl⟩
  next =>
    split
    · exact .inr (.inl rfl)
    · exact .inr (.inr rfl)

theorem State.OnlyCores.endDrain (s : State) (g : Nat) (d : Drain) : s.OnlyCores (s.endDrain g d) := by
  have struck : s.OnlyCores (s.undrained g d) := .updCore ..
  rcases s.endDrain_cases g d with ⟨h, o, ends⟩ | ends | ends <;> rw [ends]
  · exact (struck.trans (.updCtx ..)).trans (.retire ..)
  · exact struck
  · exact struck.trans (.updCore ..)

theorem State.endDrain_slots (s : State) (g : Nat) (d : Drain) : s.KeepsCores Core.slots (s.endDrain g d) := by
  have struck : s.KeepsCores Core.slots (s.undrained g d) := .updCore g fun _ => rfl
  rcases s.endDrain_cases g d with ⟨h, o, ends⟩ | ends | ends <;> rw [ends]
  · exact (struck.trans (.updCtx _ _ fun _ _ _ => rfl)).trans (State.retire_slots _ _ h)
  · exact struck
  · exact struck.trans (.updCore g fun _ => rfl)

theorem State.endDrain_core_ne (s : State) (g : Nat) (d : Drain) {k : Nat} (other : g ≠ k) : (s.endDrain g d).core k = s.core k := by
  have struck : (s.undrained g d).core k = s.core k := State.core_updCore_ne _ _ other
  rcases s.endDrain_cases g d with ⟨h, o, ends⟩ | ends | ends <;> rw [ends]
  · exact ((State.retire_core_ne _ ⟨g, d.ctx⟩ h other).trans (State.core_updCore_ne _ _ other)).trans struck
  · exact struck
  · exact (State.core_updCore_ne _ _ other).trans struck

theorem Core.addSem_slot (c : Core) (n k m : Nat) : (c.addSem n k).slot m = c.slot m := rfl

/-- The end of a drain leaves each slot of each core. -/
theorem State.endDrain_slot (s : State) (g : Nat) (d : Drain) (k n : Nat) : ((s.endDrain g d).core k).slot n = (s.core k).slot n :=
  congrArg (fun m => Sparse.look Slot.empty m n) (s.endDrain_slots g d k)

/-! ## The ends of gives and frees (R77, R79) -/

theorem exec_bgiveDrainComplete {s : State} {g slot : Nat} (ev : s.ev = .two g slot) :
    exec .bgiveDrainComplete s = event "BGIVE_DRAIN_COMPLETE" (s.giveDone g slot) := by
  show execBgiveDrainComplete s = _
  rw [execBgiveDrainComplete, ev]

theorem exec_bfreeDrainComplete {s : State} {g slot : Nat} (ev : s.ev = .two g slot) :
    exec .bfreeDrainComplete s = event "BFREE_DRAIN_COMPLETE" (s.freeDone g slot) := by
  show execBfreeDrainComplete s = _
  rw [execBfreeDrainComplete, ev]

/-- The slot that a drain leaves is no longer on its way out. -/
def State.slotOut (s : State) (g slot : Nat) : State := s.updCore g (fun c => c.setSlot slot { c.slot slot with out := false })

/-- A bank arrives in a slot. -/
def State.bankIn (s : State) (g slot n : Nat) : State := s.updCore g (fun c => c.setSlot slot ⟨true, false, false, n⟩)

theorem State.bankIn_slot (s : State) (g slot n : Nat) : ((s.bankIn g slot n).core g).slot slot = ⟨true, false, false, n⟩ := by
  rw [State.bankIn, State.core_updCore_same, Core.slot_setSlot, if_pos rfl]

theorem State.slotOut_slot (s : State) (g slot : Nat) : (((s.slotOut g slot).core g).slot slot).out = false := by
  rw [State.slotOut, State.core_updCore_same, Core.slot_setSlot, if_pos rfl]

section
variable {s : State} {g slot : Nat} {d : Drain}

theorem giveDone_ends (found : (s.core g).drains.find? (fun d => d.kind == 0 && d.slot == slot) = some d)
    (free : s.bankBusy (gidCl g) d.bank = false) :
    s.giveDone g slot = some ((((s.slotOut g slot).bankIn d.tgt d.tslot d.bank).addSem d.tgt d.tsem 1).endDrain g d) := by
  rw [State.giveDone, found]
  dsimp only
  rw [free]
  rfl

/-- What the end of a give leaves. -/
theorem bgiveDrainComplete_ends (ev : s.ev = .two g slot)
    (found : (s.core g).drains.find? (fun d => d.kind == 0 && d.slot == slot) = some d)
    (free : s.bankBusy (gidCl g) d.bank = false) (other : d.tgt ≠ g) :
    ∃ t, exec .bgiveDrainComplete s = .next t ∧ (t.core d.tgt).slot d.tslot = ⟨true, false, false, d.bank⟩ ∧
      ((t.core g).slot slot).out = false ∧ ((t.core d.tgt).sem d.tsem).val.toNat = min 0xFFFF (((s.core d.tgt).sem d.tsem).val.toNat + 1) ∧
      t.mem = s.mem ∧ t.tags = s.tags := by
  let u := (s.slotOut g slot).bankIn d.tgt d.tslot d.bank
  have only : s.OnlyCores ((u.addSem d.tgt d.tsem 1).endDrain g d) :=
    (((State.OnlyCores.updCore s g _).trans (.updCore _ d.tgt _)).trans (.updCore u d.tgt _)).trans (.endDrain ..)
  have target : (u.addSem d.tgt d.tsem 1).core d.tgt = (u.core d.tgt).addSem d.tsem 1 := State.core_updCore_same ..
  refine ⟨(u.addSem d.tgt d.tsem 1).endDrain g d, ?_, ?_, ?_, ?_, only.mem, only.tags⟩
  · rw [exec_bgiveDrainComplete ev, giveDone_ends found free]
    rfl
  · rw [State.endDrain_slot, target, Core.addSem_slot]
    exact State.bankIn_slot (s.slotOut g slot) d.tgt d.tslot d.bank
  · have source : (u.addSem d.tgt d.tsem 1).core g = (s.slotOut g slot).core g :=
      (State.core_updCore_ne u _ other).trans (State.core_updCore_ne (s.slotOut g slot) _ other)
    rw [State.endDrain_slot, source]
    exact s.slotOut_slot g slot
  · have sems : s.KeepsCores Core.sem u := .trans (t := s.slotOut g slot) (.updCore g fun _ => rfl) (.updCore d.tgt fun _ => rfl)
    rw [State.endDrain_core_ne _ g d other.symm, target, (Core.sem_addSem_same ..).1, sems d.tgt]

theorem freeDone_ends (found : (s.core g).drains.find? (fun d => d.slot == slot && !(d.kind == 0 || d.kind == 3) && s.drainOver g d) = some d)
    (free : d.kind = 1) :
    s.freeDone g slot = some
      (((s.slotOut g slot).updCluster (gidCl g) (fun k => { k with zeroing := natIns k.zeroing d.bank })).endDrain g d) := by
  rw [State.freeDone]
  dsimp only
  rw [found]
  simp only [free]
  rfl

/-- What the end of a free leaves. -/
theorem bfreeDrainComplete_ends (ev : s.ev = .two g slot)
    (found : (s.core g).drains.find? (fun d => d.slot == slot && !(d.kind == 0 || d.kind == 3) && s.drainOver g d) = some d)
    (free : d.kind = 1) :
    ∃ t, exec .bfreeDrainComplete s = .next t ∧ d.bank ∈ (t.cluster (gidCl g)).zeroing ∧ ((t.core g).slot slot).out = false ∧
      t.mem = s.mem ∧ t.tags = s.tags := by
  let u := (s.slotOut g slot).updCluster (gidCl g) (fun k => { k with zeroing := natIns k.zeroing d.bank })
  have only : u.OnlyCores (u.endDrain g d) := .endDrain ..
  refine ⟨u.endDrain g d, ?_, ?_, ?_, only.mem, only.tags⟩
  · rw [exec_bfreeDrainComplete ev, freeDone_ends found free]
    rfl
  · rw [State.cluster, only.clusters]
    show d.bank ∈ (u.cluster (gidCl g)).zeroing
    rw [State.cluster_updCluster_same]
    exact mem_natIns_iff.2 (.inl rfl)
  · rw [State.endDrain_slot]
    exact s.slotOut_slot g slot

end

/-! ## Zeroing (R63, R79) -/

theorem Sparse.look_filter {α : Type} (d : α) (m : Sparse α) (p : Nat → Bool) (k : Nat) :
    Sparse.look d (m.filter (fun e => p e.1)) k = if p k then Sparse.look d m k else d := by
  induction m with
  | nil => simp [Sparse.look]
  | cons e m ih =>
    rw [List.filter_cons]
    by_cases own : e.1 = k
    · subst own
      by_cases keeps : p e.1 <;> simp_all [Sparse.look]
    · by_cases keeps : p e.1 <;> simp_all [Sparse.look]

theorem exec_bankZeroingComplete {s : State} {cl n : Nat} (ev : s.ev = .two cl n) :
    exec .bankZeroingComplete s = event "BANK_ZEROING_COMPLETE" (s.zeroingDone cl n) := by
  show execBankZeroingComplete s = _
  rw [execBankZeroingComplete, ev]

section
variable (s : State) (cl n : Nat) {x : Nat}

theorem State.zeroBank_byte_in (low : bankAddr cl n 0 ≤ x) (high : x < bankAddr cl n 0 + 65536) : (s.zeroBank cl n).byte x = 0 := by
  refine (Sparse.look_filter 0 s.mem (fun y => !(decide (bankAddr cl n 0 ≤ y) && decide (y < bankAddr cl n 0 + 65536))) x).trans ?_
  simp [low, high]

theorem State.zeroBank_byte_out (out : x < bankAddr cl n 0 ∨ bankAddr cl n 0 + 65536 ≤ x) : (s.zeroBank cl n).byte x = s.byte x := by
  refine (Sparse.look_filter 0 s.mem (fun y => !(decide (bankAddr cl n 0 ≤ y) && decide (y < bankAddr cl n 0 + 65536))) x).trans
    (if_pos ?_)
  rw [Bool.not_eq_true', Bool.and_eq_false_iff, decide_eq_false_iff_not, decide_eq_false_iff_not]
  omega

/-- A bank starts at a multiple of its size. -/
theorem bankAddr_eq_mul : bankAddr cl n 0 = 65536 * (2 ^ 36 + cl * 2048 + n) := by
  unfold bankAddr scratchBase
  ring

theorem State.zeroBank_tagAt (low : bankAddr cl n 0 ≤ x) (high : x < bankAddr cl n 0 + 65536) : (s.zeroBank cl n).tagAt x = false := by
  have start := bankAddr_eq_mul cl n
  have granule : bankAddr cl n 0 / 16 ≤ x / 16 ∧ x / 16 < (bankAddr cl n 0 + 65536) / 16 := by omega
  simp only [State.tagAt, State.zeroBank, List.contains_eq_mem, List.mem_filter, granule, decide_true, Bool.and_self, Bool.not_true,
    Bool.false_eq_true, and_false, decide_false]

theorem State.zeroBank_poisoned (low : bankAddr cl n 0 ≤ x) (high : x < bankAddr cl n 0 + 65536) :
    (s.zeroBank cl n).poisoned x = false := by
  have start := bankAddr_eq_mul cl n
  have line : bankAddr cl n 0 / 128 ≤ x / 128 ∧ x / 128 < (bankAddr cl n 0 + 65536) / 128 := by omega
  simp only [State.poisoned, State.zeroBank, List.contains_eq_mem, List.mem_filter, line, decide_true, Bool.and_self, Bool.not_true,
    Bool.false_eq_true, and_false, decide_false]

end

/-- A bank leaves zeroing: it enters the pool unless it is failing. -/
def Cluster.zeroed (k : Cluster) (n : Nat) : Cluster :=
  { k with zeroing := natDel k.zeroing n, taken := if k.failing.contains n then k.taken else natDel k.taken n }

theorem natDel_not_mem (l : List Nat) (n : Nat) : n ∉ natDel l n := by simp [natDel]

theorem Cluster.zeroed_isFree (k : Cluster) {n : Nat} (inRange : n < 2048) (sound : n ∉ k.failing) : (k.zeroed n).isFree n = true := by
  simp [Cluster.isFree, Cluster.zeroed, inRange, sound, natDel_not_mem]

theorem Cluster.zeroed_isFree_failing (k : Cluster) {n : Nat} (failing : n ∈ k.failing) : (k.zeroed n).isFree n = k.isFree n := by
  simp [Cluster.isFree, Cluster.zeroed, failing]

/-- What the end of a bank's zeroing leaves. -/
theorem bankZeroingComplete_ends {s : State} {cl n : Nat} (ev : s.ev = .two cl n) (zeroing : n ∈ (s.cluster cl).zeroing) :
    ∃ t, exec .bankZeroingComplete s = .next t ∧
      (∀ x, bankAddr cl n 0 ≤ x → x < bankAddr cl n 0 + 65536 → t.byte x = 0 ∧ t.tagAt x = false ∧ t.poisoned x = false) ∧
      (∀ x, (x < bankAddr cl n 0 ∨ bankAddr cl n 0 + 65536 ≤ x) → t.byte x = s.byte x) ∧
      n ∉ (t.cluster cl).zeroing ∧
      (n < 2048 → n ∉ (s.cluster cl).failing → (t.cluster cl).isFree n = true) ∧
      (n ∈ (s.cluster cl).failing → (t.cluster cl).isFree n = (s.cluster cl).isFree n) := by
  have cluster : (((s.zeroBank cl n).updCluster cl (·.zeroed n)).cluster cl) = (s.cluster cl).zeroed n := State.cluster_updCluster_same ..
  refine ⟨(s.zeroBank cl n).updCluster cl (·.zeroed n), ?_, fun x low high => ?_, fun x out => ?_, ?_⟩
  · rw [exec_bankZeroingComplete ev, State.zeroingDone, if_pos (List.contains_iff_mem.2 zeroing)]
    rfl
  · exact ⟨s.zeroBank_byte_in cl n low high, s.zeroBank_tagAt cl n low high, s.zeroBank_poisoned cl n low high⟩
  · exact s.zeroBank_byte_out cl n out
  · rw [cluster]
    exact ⟨natDel_not_mem _ n, Cluster.zeroed_isFree _, Cluster.zeroed_isFree_failing _⟩

/-! ## No region of a cluster holds proposals for a bank (R156) -/

/-- A context's open region holds proposals for a bank. -/
def Ctx.proposes (c : Ctx) (cl n : Nat) : Bool := match c.region with | some r => r.inBank cl n | none => false

/-- A context listed for a core has such a region. -/
def Core.proposes (c : Core) (cl n : Nat) : Bool := c.ctxs.any (fun e => e.2.proposes cl n)

theorem Sparse.look_eq_or_mem {α : Type} (d : α) (m : Sparse α) (n : Nat) : Sparse.look d m n = d ∨ (n, Sparse.look d m n) ∈ m := by
  induction m with
  | nil => exact .inl rfl
  | cons e m ih =>
    obtain ⟨k, v⟩ := e
    rw [Sparse.look]
    split
    next own => exact .inr (own ▸ List.mem_cons_self)
    next => exact ih.imp_right (List.mem_cons_of_mem _)

theorem Sparse.mem_put {α : Type} [DecidableEq α] {d : α} {m : Sparse α} {n : Nat} {v : α} {e : Nat × α}
    (he : e ∈ Sparse.put d m n v) : e = (n, v) ∨ e ∈ m := by
  unfold Sparse.put at he
  split at he
  · exact .inr (List.mem_of_mem_filter he)
  · exact Sparse.mem_ins he

section
variable {s : State} {cl n : Nat}

theorem State.proposers_eq_nil_iff : s.proposers cl n = [] ↔ ∀ e ∈ s.cores, gidCl e.1 = cl → e.2.proposes cl n = false := by
  simp only [State.proposers, List.flatMap_eq_nil_iff, List.map_eq_nil_iff, List.filter_eq_nil_iff, List.mem_filter, decide_eq_true_eq,
    Core.proposes, List.any_eq_false, and_imp]
  exact Iff.rfl

theorem Core.proposes_ctx {c : Core} (none : c.proposes cl n = false) (i : Nat) : (c.ctx i).proposes cl n = false := by
  rw [Core.proposes, List.any_eq_false] at none
  rcases Sparse.look_eq_or_mem Ctx.reset c.ctxs i with unlisted | listed
  · rw [Core.ctx, unlisted]
    rfl
  · exact Bool.not_eq_true _ ▸ none _ listed

theorem Core.proposes_setCtx {c : Core} (none : c.proposes cl n = false) (i : Nat) {x : Ctx} (hx : x.proposes cl n = false) :
    (c.setCtx i x).proposes cl n = false := by
  rw [Core.proposes, List.any_eq_false] at *
  intro e he
  rcases Sparse.mem_put he with rfl | old
  · exact Bool.not_eq_true _ ▸ hx
  · exact none e old

theorem Core.refetch_proposes (c : Core) : c.refetch.proposes cl n = c.proposes cl n := by
  simp only [Core.proposes, Core.refetch, List.any_map]
  congr 1
  funext e
  simp only [Function.comp_apply]
  split <;> rfl

/-- A change of one core brings no proposals where it brings none to that core. -/
theorem State.proposers_updCore (none : s.proposers cl n = []) (g : Nat) {f : Core → Core}
    (hf : (s.core g).proposes cl n = false → (f (s.core g)).proposes cl n = false) : (s.updCore g f).proposers cl n = [] := by
  rw [State.proposers_eq_nil_iff] at *
  intro e he own
  rcases Sparse.mem_put he with rfl | old
  · refine hf ?_
    rcases Sparse.look_eq_or_mem Core.reset s.cores g with unlisted | listed
    · rw [State.core, unlisted]
      rfl
    · exact none _ listed own
  · exact none e old own

theorem State.proposers_updCtx (none : s.proposers cl n = []) (a : Agent) {f : Ctx → Ctx} (hf : ∀ c, (f c).region = c.region) :
    (s.updCtx a f).proposers cl n = [] :=
  State.proposers_updCore none a.gid fun core => Core.proposes_setCtx core a.ctx <| by
    rw [Ctx.proposes, hf]
    exact Core.proposes_ctx core a.ctx

theorem State.publishing_of_none (none : s.proposers cl n = []) : s.publishing cl n = false := by
  rw [State.publishing, none]
  rfl

theorem State.abandonBank_of_none (none : s.proposers cl n = []) : s.abandonBank cl n = s := by
  rw [State.abandonBank, none]
  rfl

end

/-! ## Rings: the arrivals are compared (R82) -/

theorem exec_ringrotBarrierComplete {s : State} {g : Nat} (ev : s.ev = .one g) :
    exec .ringrotBarrierComplete s = event "RINGROT_BARRIER_COMPLETE" (s.ringStart g) := by
  show execRingrotBarrierComplete s = _
  rw [execRingrotBarrierComplete, ev]

/-- The arrivals of a ring, in ring order. -/
def State.ringArrivals (s : State) (r0 : Arrival) : List Arrival := r0.members.filterMap s.ringArrival

/-- The arrivals of a ring leave the barrier. -/
def State.ringGone (s : State) (r0 : Arrival) : State :=
  { s with arrivals := s.arrivals.filter (fun r => !(s.ringArrivals r0).contains r) }

/-- Every member of a ring retires with one reason. -/
def State.ringEnds (s : State) (r0 : Arrival) (reason : Nat) : State :=
  (s.ringArrivals r0).foldl (fun acc r => acc.release r.agent (fun d c => c.bankResult d reason)) (s.ringGone r0)

/-- The arrivals of a ring agree on the members, the slot and the direction, and their cores on the slot domain. -/
def State.ringAgrees (s : State) (g : Nat) (r0 : Arrival) : Bool :=
  (s.ringArrivals r0).all (fun r => r.members == r0.members && r.w0 == r0.w0 && r.w1 == r0.w1
    && (s.core r.agent.gid).slotDom == (s.core g).slotDom)

/-- The core to whose slot member `i` gives its bank: its successor in the ring, or its predecessor (R81). -/
def Arrival.ringTarget (r0 : Arrival) (i : Nat) : Nat :=
  let n := r0.members.length
  if r0.w1 = 0 then r0.members.getD ((i + 1) % n) 0 else r0.members.getD ((i + n - 1) % n) 0

/-- The drain of one member of a rotation, from what its slot held. -/
def State.ringDrain (s : State) (r0 : Arrival) (i : Nat) (b : Slot) (ctx : Nat) (h : Hdr) : Drain :=
  ⟨3, r0.w0.toNat, if b.valid then b.bank else 2048, r0.ringTarget i, r0.w0.toNat, 0, ctx, true, h.ss, h.si,
    r0.members.map (fun k => (k, s.now, 0))⟩

/-- The indivisible step of member `i` of a rotation. -/
def State.rotateOut (s : State) (cl : Nat) (r0 : Arrival) (acc : State) (i : Nat) : State :=
  let m := r0.members.getD i 0
  let b := (acc.core m).slot r0.w0.toNat
  let ctx := match s.ringArrival m with | some r => r.agent.ctx | none => 0
  match (acc.ctx ⟨m, ctx⟩).busy with
  | some (.barrier h d) =>
    ((if b.valid then acc.abandonBank cl b.bank else acc).updCore m (fun c =>
      { (if b.valid then c.unmapSlot r0.w0.toNat else c) with drains := c.drains ++ [s.ringDrain r0 i b ctx h] })).updCtx ⟨m, ctx⟩
        (fun c => { c with busy := some (.drain h d) })
  | _ => acc

theorem State.ringArrival_gid {s : State} {m : Nat} {r : Arrival} (found : s.ringArrival m = some r) : r.agent.gid = m := by
  have own := List.find?_some found
  rw [Bool.and_eq_true, beq_iff_eq] at own
  exact own.1

theorem State.mem_ringArrivals {s : State} {r0 r : Arrival} : r ∈ s.ringArrivals r0 ↔ ∃ m ∈ r0.members, s.ringArrival m = some r :=
  List.mem_filterMap

/-- No arrival of the ring is left at the barrier. -/
theorem State.ringGone_arrivals {s : State} {r0 r : Arrival} {m : Nat} (member : m ∈ r0.members) (found : s.ringArrival m = some r) :
    r ∉ (s.ringGone r0).arrivals := by
  have listed : r ∈ s.ringArrivals r0 := State.mem_ringArrivals.2 ⟨m, member, found⟩
  simp [State.ringGone, listed]

theorem State.ringEnds_onlyCores (s : State) (r0 : Arrival) (reason : Nat) : (s.ringGone r0).OnlyCores (s.ringEnds r0 reason) :=
  .foldl (fun u (r : Arrival) => .release u r.agent _) _ _

/-- A member's bank is being published from a region. -/
def State.ringPublishes (s : State) (cl : Nat) (r0 : Arrival) : Bool :=
  r0.members.any (fun m => let b := (s.core m).slot r0.w0.toNat; b.valid && s.publishing cl b.bank)

/-- What the comparison of a ring's arrivals comes to, case by case (R82). -/
theorem State.ringStart_eq {s : State} {g : Nat} {r0 : Arrival} (start : s.ringArrival g = some r0) :
    s.ringStart g =
      if (s.ringArrivals r0).length ≠ r0.members.length then none
      else if !s.ringAgrees g r0 then some (s.ringEnds r0 7)
      else if r0.members.length = 1 then some (s.ringEnds r0 0)
      else if s.ringPublishes (gidCl g) r0 then none
      else some ((List.range r0.members.length).foldl (s.rotateOut (gidCl g) r0) (s.ringGone r0)) := by
  rw [State.ringStart, start]
  rfl

section
variable {s : State} {g : Nat} {r0 : Arrival} (start : s.ringArrival g = some r0) (all : ∀ m ∈ r0.members, ∃ r, s.ringArrival m = some r)

include all in
theorem State.ringArrivals_length : (s.ringArrivals r0).length = r0.members.length :=
  List.filterMap_length_eq_length.2 fun m member => Option.isSome_iff_exists.2 (all m member)

include start all

theorem State.ringStart_of_disagree (differ : s.ringAgrees g r0 = false) : s.ringStart g = some (s.ringEnds r0 7) := by
  rw [State.ringStart_eq start, if_neg (not_not.2 (State.ringArrivals_length all)), differ]
  rfl

theorem State.ringStart_alone (agree : s.ringAgrees g r0 = true) (alone : r0.members.length = 1) :
    s.ringStart g = some (s.ringEnds r0 0) := by
  rw [State.ringStart_eq start, if_neg (not_not.2 (State.ringArrivals_length all)), agree, if_pos alone]
  rfl

theorem State.ringStart_rotates (agree : s.ringAgrees g r0 = true) (several : 1 < r0.members.length)
    (idle : ∀ m ∈ r0.members, s.proposers (gidCl g) ((s.core m).slot r0.w0.toNat).bank = []) :
    s.ringStart g = some ((List.range r0.members.length).foldl (s.rotateOut (gidCl g) r0) (s.ringGone r0)) := by
  have quiet : s.ringPublishes (gidCl g) r0 = false := by
    rw [State.ringPublishes, List.any_eq_false]
    intro m member
    simp only [State.publishing_of_none (idle m member), Bool.and_false]
    exact Bool.false_ne_true
  rw [State.ringStart_eq start, if_neg (not_not.2 (State.ringArrivals_length all)), agree, if_neg several.ne', quiet]
  rfl

end

/-! ## The indivisible step of a rotation, member by member (R82) -/

/-- A core has given the contents of its slot on: the slot is on its way out if it was valid, and a drain to the next member of the ring
runs. -/
def Core.HasRotatedOut (before after : Core) (r0 : Arrival) (i : Nat) : Prop :=
  let b := before.slot r0.w0.toNat
  after.slot r0.w0.toNat = (if b.valid then ⟨false, true, false, 0⟩ else b) ∧
    ∃ d, after.drains = before.drains ++ [d] ∧ d.kind = 3 ∧ d.slot = r0.w0.toNat ∧ d.tslot = r0.w0.toNat ∧
      (b.valid = true → d.bank = b.bank) ∧ (b.valid = false → d.bank = 2048) ∧
      r0.members[if r0.w1 = 0 then (i + 1) % r0.members.length else (i + r0.members.length - 1) % r0.members.length]? = some d.tgt

theorem Arrival.ringTarget_spec (r0 : Arrival) (i : Nat) (nonempty : 0 < r0.members.length) :
    r0.members[if r0.w1 = 0 then (i + 1) % r0.members.length else (i + r0.members.length - 1) % r0.members.length]? =
      some (r0.ringTarget i) := by
  unfold Arrival.ringTarget
  split <;>
  · rw [List.getD_eq_getElem?_getD, List.getElem?_eq_getElem (Nat.mod_lt _ nonempty)]
    rfl

/-- A core gives the contents of a slot on with a drain. -/
def Core.giveOn (c : Core) (slot : Nat) (dr : Drain) : Core :=
  { (if (c.slot slot).valid then c.unmapSlot slot else c) with drains := c.drains ++ [dr] }

theorem Core.giveOn_slot (c : Core) (slot : Nat) (dr : Drain) :
    (c.giveOn slot dr).slot slot = if (c.slot slot).valid then ⟨false, true, false, 0⟩ else c.slot slot := by
  show (if (c.slot slot).valid then c.unmapSlot slot else c).slot slot = _
  split
  · rw [Core.unmapSlot, Core.slot_setSlot, if_pos rfl]
  · rfl

theorem Core.giveOn_proposes (c : Core) (slot : Nat) (dr : Drain) (cl n : Nat) : (c.giveOn slot dr).proposes cl n = c.proposes cl n := by
  show (if (c.slot slot).valid then c.unmapSlot slot else c).proposes cl n = _
  split
  · exact c.refetch_proposes
  · rfl

theorem State.hasRotatedOut_giveOn (s : State) (c : Core) {r0 : Arrival} (i : Nat) (nonempty : 0 < r0.members.length) (ctx : Nat) (h : Hdr) :
    c.HasRotatedOut (c.giveOn r0.w0.toNat (s.ringDrain r0 i (c.slot r0.w0.toNat) ctx h)) r0 i := by
  refine ⟨Core.giveOn_slot .., _, rfl, rfl, rfl, rfl, fun valid => if_pos valid, fun empty => if_neg ?_, r0.ringTarget_spec i nonempty⟩
  rw [empty]
  exact Bool.false_ne_true

section
variable {s acc : State} {cl i m : Nat} {r0 r : Arrival} {h : Hdr} {d : Operand}

/-- The step of a member that waits at the barrier, where no region holds proposals for its bank. -/
theorem State.rotateOut_eq (member : r0.members[i]? = some m) (arrival : s.ringArrival m = some r)
    (busy : (acc.ctx r.agent).busy = some (.barrier h d)) (idle : acc.proposers cl ((acc.core m).slot r0.w0.toNat).bank = []) :
    s.rotateOut cl r0 acc i =
      (acc.updCore m (fun c => c.giveOn r0.w0.toNat (s.ringDrain r0 i (c.slot r0.w0.toNat) r.agent.ctx h))).updCtx r.agent
        (fun c => { c with busy := some (.drain h d) }) := by
  have own : (⟨m, r.agent.ctx⟩ : Agent) = r.agent := by rw [← State.ringArrival_gid arrival]
  rw [State.rotateOut, List.getD_eq_getElem?_getD, member]
  simp only [Option.getD_some, arrival, own, busy, State.abandonBank_of_none idle, ite_self]
  rfl

/-- What the step leaves: that core has given its slot on, every other core is the same, and no region has come to hold proposals. -/
theorem State.rotateOut_spec (member : r0.members[i]? = some m) (arrival : s.ringArrival m = some r)
    (busy : (acc.ctx r.agent).busy = some (.barrier h d)) (idle : acc.proposers cl ((acc.core m).slot r0.w0.toNat).bank = []) :
    acc.OnlyCores (s.rotateOut cl r0 acc i) ∧ (∀ k, m ≠ k → (s.rotateOut cl r0 acc i).core k = acc.core k) ∧
      (acc.core m).HasRotatedOut ((s.rotateOut cl r0 acc i).core m) r0 i ∧
      ∀ n, acc.proposers cl n = [] → (s.rotateOut cl r0 acc i).proposers cl n = [] := by
  have gid := State.ringArrival_gid arrival
  have length : 0 < r0.members.length := by
    have := (List.getElem?_eq_some_iff.1 member).1
    omega
  rw [State.rotateOut_eq member arrival busy idle]
  refine ⟨(State.OnlyCores.updCore ..).trans (.updCtx ..), fun k other => ?_, ?_, fun n none => ?_⟩
  · exact (State.core_updCore_ne _ _ (gid ▸ other)).trans (State.core_updCore_ne acc _ other)
  · rw [State.updCtx, State.setCtx, gid, State.core_updCore_same, State.core_updCore_same]
    exact State.hasRotatedOut_giveOn s (acc.core m) i length r.agent.ctx h
  · refine State.proposers_updCtx (State.proposers_updCore none m ?_) r.agent ?_
    · exact fun before => (Core.giveOn_proposes ..).trans before
    · exact fun _ => rfl

end

/-- The steps of several members, one after another: each gives its slot on from what it held at the start. -/
theorem State.rotateOut_foldl {s : State} {cl : Nat} {r0 : Arrival} (once : r0.members.Nodup)
    (waits : ∀ m ∈ r0.members, ∃ r h d, s.ringArrival m = some r ∧ (s.ctx r.agent).busy = some (.barrier h d))
    (l : List Nat) (distinct : l.Nodup) (acc : State) (inRing : ∀ i ∈ l, i < r0.members.length)
    (same : ∀ i ∈ l, ∀ m, r0.members[i]? = some m → acc.core m = s.core m)
    (idle : ∀ m ∈ r0.members, acc.proposers cl ((s.core m).slot r0.w0.toNat).bank = []) :
    let t := l.foldl (s.rotateOut cl r0) acc
    acc.OnlyCores t ∧ (∀ k, (∀ i ∈ l, r0.members[i]? ≠ some k) → t.core k = acc.core k) ∧
      ∀ i ∈ l, ∀ m, r0.members[i]? = some m → (s.core m).HasRotatedOut (t.core m) r0 i := by
  induction l generalizing acc with
  | nil => exact ⟨.refl acc, fun _ _ => rfl, fun i hi => absurd hi List.not_mem_nil⟩
  | cons j l ih =>
    obtain ⟨fresh, distinct⟩ := List.nodup_cons.1 distinct
    obtain ⟨m, member⟩ : ∃ m, r0.members[j]? = some m := ⟨_, List.getElem?_eq_getElem (inRing j List.mem_cons_self)⟩
    have listed : m ∈ r0.members := List.mem_of_getElem? member
    have start := same j List.mem_cons_self m member
    obtain ⟨r, h, d, arrival, busy⟩ := waits m listed
    have apart : ∀ i ∈ l, r0.members[i]? ≠ some m := fun i hi eq =>
      fresh ((List.getElem?_inj (inRing i (List.mem_cons_of_mem j hi)) once).1 (eq.trans member.symm) ▸ hi)
    have busy' : (acc.ctx r.agent).busy = some (.barrier h d) := by
      rw [← busy, State.ctx, State.ctx, State.ringArrival_gid arrival, start]
    obtain ⟨only, others, rotated, idle'⟩ := State.rotateOut_spec (cl := cl) member arrival busy' (start ▸ idle m listed)
    obtain ⟨only', others', rotated'⟩ := ih distinct (s.rotateOut cl r0 acc j) (fun i hi => inRing i (List.mem_cons_of_mem j hi))
      (fun i hi k eq => (others k fun own => apart i hi (own ▸ eq)).trans (same i (List.mem_cons_of_mem j hi) k eq))
      (fun k hk => idle' _ (idle k hk))
    refine ⟨only.trans only', fun k away => ?_, fun i hi k eq => ?_⟩
    · rw [List.foldl_cons, others' k fun i hi => away i (List.mem_cons_of_mem j hi)]
      exact others k fun own => away j List.mem_cons_self (own ▸ member)
    · rcases List.mem_cons.1 hi with rfl | hi
      · obtain rfl : m = k := Option.some.inj (member.symm.trans eq)
        rw [List.foldl_cons, others' m apart, ← start]
        exact rotated
      · exact rotated' i hi k eq

/-! ## What the comparison of the arrivals leaves -/

section
variable {s : State} {g : Nat} {r0 : Arrival}

theorem State.ringAgrees_iff : s.ringAgrees g r0 = true ↔ ∀ m ∈ r0.members, ∀ r, s.ringArrival m = some r →
    r.members = r0.members ∧ r.w0 = r0.w0 ∧ r.w1 = r0.w1 ∧ (s.core m).slotDom = (s.core g).slotDom := by
  simp only [State.ringAgrees, List.all_eq_true, State.mem_ringArrivals, Bool.and_eq_true, beq_iff_eq, and_assoc]
  constructor
  · intro agree m member r found
    exact State.ringArrival_gid found ▸ agree r ⟨m, member, found⟩
  · rintro agree r ⟨m, member, found⟩
    exact (State.ringArrival_gid found).symm ▸ agree m member r found

variable (ev : s.ev = .one g) (start : s.ringArrival g = some r0) (all : ∀ m ∈ r0.members, ∃ r, s.ringArrival m = some r)

include ev in
theorem ringrotBarrierComplete_of_start {t : State} (starts : s.ringStart g = some t) : exec .ringrotBarrierComplete s = .next t := by
  rw [exec_ringrotBarrierComplete ev, starts]
  rfl

/-- No arrival of the ring is left after a change of the cores alone. -/
theorem State.OnlyCores.ring_gone {t : State} (only : (s.ringGone r0).OnlyCores t) :
    ∀ m ∈ r0.members, ∀ r, s.ringArrival m = some r → r ∉ t.arrivals := fun _ member _ found => by
  rw [only.arrivals]
  exact State.ringGone_arrivals member found

theorem State.ringEnds_slots (reason k : Nat) : ((s.ringEnds r0 reason).core k).slots = (s.core k).slots :=
  State.KeepsCores.foldl (p := Core.slots) (fun (u : State) (r : Arrival) => u.release_slots r.agent _) _ (s.ringGone r0) k

include ev start all

theorem ringrotBarrierComplete_disagrees
    (differ : ∃ m r, m ∈ r0.members ∧ s.ringArrival m = some r ∧ (r.members ≠ r0.members ∨ r.w0 ≠ r0.w0 ∨ r.w1 ≠ r0.w1)) :
    ∃ t, exec .ringrotBarrierComplete s = .next t ∧ t.mem = s.mem ∧ (∀ m ∈ r0.members, ∀ r, s.ringArrival m = some r → r ∉ t.arrivals) := by
  obtain ⟨m, r, member, found, other⟩ := differ
  have only := s.ringEnds_onlyCores r0 7
  refine ⟨_, ringrotBarrierComplete_of_start ev (State.ringStart_of_disagree start all ?_), only.mem, only.ring_gone⟩
  rw [← Bool.not_eq_true, State.ringAgrees_iff]
  intro agree
  obtain ⟨members, w0, w1, -⟩ := agree m member r found
  tauto

theorem ringrotBarrierComplete_alone (alone : r0.members = [g]) :
    ∃ t, exec .ringrotBarrierComplete s = .next t ∧ t.mem = s.mem ∧ r0 ∉ t.arrivals ∧ (t.core g).slots = (s.core g).slots := by
  have only := s.ringEnds_onlyCores r0 0
  have member : g ∈ r0.members := alone ▸ List.mem_singleton_self g
  refine ⟨_, ringrotBarrierComplete_of_start ev (State.ringStart_alone start all ?_ (alone ▸ rfl)), only.mem,
    only.ring_gone g member r0 start, State.ringEnds_slots ..⟩
  rw [State.ringAgrees_iff]
  intro m hm r found
  obtain rfl : m = g := List.mem_singleton.1 (alone ▸ hm)
  obtain rfl : r = r0 := Option.some.inj (found.symm.trans start)
  exact ⟨rfl, rfl, rfl, rfl⟩

theorem ringrotBarrierComplete_rotates (once : r0.members.Nodup) (several : 1 < r0.members.length)
    (agree : ∀ m ∈ r0.members, ∀ r, s.ringArrival m = some r → r.members = r0.members ∧ r.w0 = r0.w0 ∧ r.w1 = r0.w1 ∧
      (s.core m).slotDom = (s.core g).slotDom ∧ (∃ h d, (s.ctx r.agent).busy = some (.barrier h d)) ∧
      s.proposers (gidCl g) ((s.core m).slot r0.w0.toNat).bank = []) :
    ∃ t, exec .ringrotBarrierComplete s = .next t ∧ t.mem = s.mem ∧ t.tags = s.tags ∧
      (∀ m ∈ r0.members, ∀ r, s.ringArrival m = some r → r ∉ t.arrivals) ∧
      ∀ i m, r0.members[i]? = some m → (s.core m).HasRotatedOut (t.core m) r0 i := by
  have same : s.ringAgrees g r0 = true := State.ringAgrees_iff.2 fun m member r found =>
    let ⟨members, w0, w1, dom, _⟩ := agree m member r found
    ⟨members, w0, w1, dom⟩
  have idle : ∀ m ∈ r0.members, s.proposers (gidCl g) ((s.core m).slot r0.w0.toNat).bank = [] := fun m member =>
    let ⟨r, found⟩ := all m member
    (agree m member r found).2.2.2.2.2
  have waits : ∀ m ∈ r0.members, ∃ r h d, s.ringArrival m = some r ∧ (s.ctx r.agent).busy = some (.barrier h d) := fun m member =>
    let ⟨r, found⟩ := all m member
    let ⟨_, _, _, _, ⟨h, d, busy⟩, _⟩ := agree m member r found
    ⟨r, h, d, found, busy⟩
  obtain ⟨only, -, rotated⟩ := State.rotateOut_foldl (cl := gidCl g) once waits (List.range r0.members.length) List.nodup_range
    (s.ringGone r0) (fun _ hi => List.mem_range.1 hi) (fun _ _ _ _ => rfl) idle
  refine ⟨_, ringrotBarrierComplete_of_start ev (State.ringStart_rotates start all same several idle), only.mem, only.tags, only.ring_gone,
    fun i m member => ?_⟩
  exact rotated i (List.mem_range.2 (List.getElem?_eq_some_iff.1 member).1) m member

end

/-! ## The end of a rotation between two cores (R82) -/

theorem exec_ringrotDrainComplete {s : State} {g : Nat} (ev : s.ev = .one g) :
    exec .ringrotDrainComplete s = event "RINGROT_DRAIN_COMPLETE" (s.ringDone g) := by
  show execRingrotDrainComplete s = _
  rw [execRingrotDrainComplete, ev]

/-- The first element that passes a test is also the first that passes a narrower one, if it does pass that. -/
theorem find?_and_of_find? {α : Type} {p : α → Bool} {l : List α} {a : α} (found : l.find? p = some a) {q : α → Bool} (hq : q a = true) :
    l.find? (fun x => p x && q x) = some a := by
  rw [List.find?_eq_some_iff_append] at *
  obtain ⟨hp, before, after, parts, none⟩ := found
  refine ⟨by rw [hp, hq]; rfl, before, after, parts, fun x hx => ?_⟩
  rw [Bool.not_eq_true', (Bool.not_eq_true' _).mp (none x hx), Bool.false_and]

section
variable {s : State} {g k : Nat} {d e : Drain}

/-- The drains of a rotation of two members, each the first of a rotation on its core. -/
theorem State.ringOf_pair (first : (s.core g).drains.find? (fun d => d.kind == 3) = some d)
    (second : (s.core k).drains.find? (fun d => d.kind == 3) = some e) (waits : d.waits = e.waits)
    (members : d.waits.map (fun w => w.1) = [g, k]) : s.ringOf d = [(g, d), (k, e)] := by
  have own := find?_and_of_find? first (q := fun x => x.waits == d.waits) (beq_self_eq_true _)
  have other := find?_and_of_find? second (q := fun x => x.waits == d.waits) (by rw [waits]; exact beq_self_eq_true _)
  obtain ⟨w, rest, hd, rfl, hrest⟩ := List.map_eq_cons_iff.1 members
  obtain ⟨v, rest', rfl, rfl, hnil⟩ := List.map_eq_cons_iff.1 hrest
  rw [List.map_eq_nil_iff.1 hnil] at hd
  rw [State.ringOf, hd]
  rw [hd] at own other
  rw [List.filterMap_cons, own, List.filterMap_cons, other]
  rfl

/-- Both banks of a rotation of two members arrive, and no slot is on its way out any more. -/
def State.swapBanks (s : State) (g k : Nat) (d e : Drain) : State :=
  (((s.slotOut g d.slot).slotOut k e.slot).bankIn k d.tslot d.bank).bankIn g e.tslot e.bank

theorem State.ringDone_pair (first : (s.core g).drains.find? (fun d => d.kind == 3) = some d)
    (second : (s.core k).drains.find? (fun d => d.kind == 3) = some e) (waits : d.waits = e.waits)
    (members : d.waits.map (fun w => w.1) = [g, k]) (toK : d.tgt = k) (toG : e.tgt = g) (dBank : d.bank < 2048) (eBank : e.bank < 2048)
    (dFree : s.bankBusy (gidCl g) d.bank = false) (eFree : s.bankBusy (gidCl g) e.bank = false) :
    s.ringDone g = some (((s.swapBanks g k d e).endDrain g d).endDrain k e) := by
  have ring := State.ringOf_pair first second waits members
  have ended := find?_and_of_find? first
    (q := fun d => (s.ringOf d).all (fun e => decide (2048 ≤ e.2.bank) || !s.bankBusy (gidCl g) e.2.bank)) (by simp [ring, dFree, eFree])
  rw [State.ringDone]
  dsimp only
  rw [ended]
  dsimp only
  rw [ring]
  simp only [List.foldl_cons, List.foldl_nil, if_pos dBank, if_pos eBank, toK, toG]
  rfl

theorem State.swapBanks_onlyCores (s : State) (g k : Nat) (d e : Drain) : s.OnlyCores (s.swapBanks g k d e) := by
  unfold State.swapBanks
  exact (((State.OnlyCores.updCore s g _).trans (.updCore _ k _)).trans (.updCore _ k _)).trans (.updCore _ g _)

/-- What the end of a rotation of two members leaves. -/
theorem ringrotDrainComplete_ends (ev : s.ev = .one g) (first : (s.core g).drains.find? (fun d => d.kind == 3) = some d)
    (second : (s.core k).drains.find? (fun d => d.kind == 3) = some e) (apart : g ≠ k) (waits : d.waits = e.waits)
    (members : d.waits.map (fun w => w.1) = [g, k]) (toK : d.tgt = k) (toG : e.tgt = g) (dBank : d.bank < 2048) (eBank : e.bank < 2048)
    (dFree : s.bankBusy (gidCl g) d.bank = false) (eFree : s.bankBusy (gidCl g) e.bank = false) :
    ∃ t, exec .ringrotDrainComplete s = .next t ∧ (t.core k).slot d.tslot = ⟨true, false, false, d.bank⟩ ∧
      (t.core g).slot e.tslot = ⟨true, false, false, e.bank⟩ ∧ t.mem = s.mem ∧ t.tags = s.tags ∧ t.poison = s.poison := by
  have only := ((s.swapBanks_onlyCores g k d e).trans (.endDrain _ g d)).trans (.endDrain _ k e)
  refine ⟨_, ?_, ?_, ?_, only.mem, only.tags, only.poison⟩
  · rw [exec_ringrotDrainComplete ev, State.ringDone_pair first second waits members toK toG dBank eBank dFree eFree]
    rfl
  · rw [State.endDrain_slot, State.endDrain_slot, State.swapBanks, State.bankIn, State.core_updCore_ne _ _ apart]
    exact State.bankIn_slot ((s.slotOut g d.slot).slotOut k e.slot) k d.tslot d.bank
  · rw [State.endDrain_slot, State.endDrain_slot]
    exact State.bankIn_slot (((s.slotOut g d.slot).slotOut k e.slot).bankIn k d.tslot d.bank) g e.tslot e.bank

end

/-! ## Error counters (R431) -/

theorem State.counter_count (s : State) (ctr unit n c u : Nat) :
    (s.count ctr unit n).counter c u =
      if 4096 * ctr + unit = 4096 * c + u then min (2 ^ 32 - 1) (s.counter c u + n) else s.counter c u := by
  unfold State.counter
  show (Sparse.look 0 (Sparse.put 0 s.dev.ctr (4096 * ctr + unit) _) (4096 * c + u)).toNat = _
  rw [Sparse.look_put]
  split
  next same =>
    rw [same]
    split
    next fits =>
      rw [BitVec.toNat_ofNat, Nat.mod_eq_of_lt fits]
      omega
    next wide =>
      rw [min_eq_left (by omega)]
      rfl
  next => rfl

theorem State.counter_countBank (s : State) {ctr : Nat} (health : 16 ≤ ctr) (addr : Nat) {c u : Nat} (other : 4096 * c + u < 65536) :
    (s.countBank ctr addr).counter c u = s.counter c u := by
  unfold State.countBank
  split
  · rw [State.counter_count, if_neg (by omega)]
  · rfl

/-- Nothing but error marks and the device's registers is changed. -/
structure State.OnlyErrors (s t : State) : Prop where
  eq : t = { s with ecc := t.ecc, dev := t.dev }

namespace State.OnlyErrors

variable {s t u : State}

theorem mem (only : s.OnlyErrors t) : t.mem = s.mem := by rw [only.eq]
theorem tags (only : s.OnlyErrors t) : t.tags = s.tags := by rw [only.eq]
theorem poison (only : s.OnlyErrors t) : t.poison = s.poison := by rw [only.eq]

theorem trans (first : s.OnlyErrors t) (second : t.OnlyErrors u) : s.OnlyErrors u :=
  ⟨second.eq.trans (congrArg (fun w : State => { w with ecc := u.ecc, dev := u.dev }) first.eq)⟩

theorem setErr (s : State) (a k : Nat) : s.OnlyErrors (s.setErr a k) := ⟨rfl⟩
theorem count (s : State) (c u n : Nat) : s.OnlyErrors (s.count c u n) := ⟨rfl⟩

theorem countBank (s : State) (c a : Nat) : s.OnlyErrors (s.countBank c a) := by
  unfold State.countBank
  split
  · exact count ..
  · exact ⟨rfl⟩

end State.OnlyErrors

theorem State.errAt_setErr (s : State) (a k b : Nat) : (s.setErr a k).errAt b = if a / 8 = b / 8 then k else s.errAt b := Sparse.look_put ..

theorem State.countBank_errAt (s : State) (c a b : Nat) : (s.countBank c a).errAt b = s.errAt b := by
  unfold State.countBank
  split <;> rfl

/-- Words are corrected: marks and registers alone are changed, no word comes to err, and no poisoned word is counted. -/
structure State.Corrects (s t : State) : Prop where
  only : s.OnlyErrors t
  sound : ∀ a, s.errAt a = 0 → t.errAt a = 0
  poisoned : ∀ cl, cl < 8 → t.counter 3 cl = s.counter 3 cl

namespace State.Corrects

variable {s t u : State}

theorem refl (s : State) : s.Corrects s := ⟨⟨rfl⟩, fun _ zero => zero, fun _ _ => rfl⟩

theorem trans (first : s.Corrects t) (second : t.Corrects u) : s.Corrects u :=
  ⟨first.only.trans second.only, fun a zero => second.sound a (first.sound a zero),
    fun cl small => (second.poisoned cl small).trans (first.poisoned cl small)⟩

theorem foldl {β : Type} {f : State → β → State} (hf : ∀ (s : State) e, s.Corrects (f s e)) (l : List β) (s : State) :
    s.Corrects (l.foldl f s) := by
  induction l generalizing s with
  | nil => exact refl s
  | cons e l ih => exact (hf s e).trans (ih _)

theorem setErr (s : State) (a : Nat) : s.Corrects (s.setErr a 0) where
  only := .setErr ..
  sound b zero := by
    rw [State.errAt_setErr]
    split
    · rfl
    · exact zero
  poisoned _ _ := rfl

/-- A corrected word is counted for its cluster. -/
theorem countWord (s : State) {cl : Nat} (small : cl < 8) : s.Corrects (s.count 2 cl 1) where
  only := .count ..
  sound _ zero := zero
  poisoned c _ := by rw [State.counter_count, if_neg (by omega)]

theorem countBank (s : State) {ctr : Nat} (health : 16 ≤ ctr) (a : Nat) : s.Corrects (s.countBank ctr a) where
  only := .countBank ..
  sound b zero := (s.countBank_errAt ctr a b).trans zero
  poisoned c _ := State.counter_countBank s health a (by omega)

end State.Corrects

/-! ## Rebuilding from parity (R62, R67) -/

section
variable {α β : Type} {op : α → α → α} (comm : ∀ a b c, op (op a b) c = op (op a c) b) (f : β → α)

include comm in
theorem foldl_op_right (l : List β) (a c : α) :
    l.foldl (fun acc k => op acc (f k)) (op a c) = op (l.foldl (fun acc k => op acc (f k)) a) c := by
  induction l generalizing a with
  | nil => rfl
  | cons k l ih => rw [List.foldl_cons, List.foldl_cons, comm, ih]

include comm in
/-- Values folded in twice cancel. -/
theorem foldl_op_twice (cancel : ∀ a b, op (op a b) b = a) (l : List β) (a : α) :
    l.foldl (fun acc k => op acc (f k)) (l.foldl (fun acc k => op acc (f k)) a) = a := by
  induction l generalizing a with
  | nil => rfl
  | cons k l ih => rw [List.foldl_cons, List.foldl_cons, foldl_op_right comm f l a, cancel, ih]

include comm in
/-- What a group's parity and all of the group but one give is that one. -/
theorem rebuild_of_parity (cancel : ∀ a b, op (op a b) b = a) {z : α} (unit : ∀ a, op z a = a) {group rest : List β} {b : β}
    (split : group.Perm (b :: rest)) :
    rest.foldl (fun acc k => op acc (f k)) (group.foldl (fun acc k => op acc (f k)) z) = f b := by
  have : RightCommutative (fun acc k => op acc (f k)) := ⟨fun a k j => comm a (f k) (f j)⟩
  rw [split.foldl_eq, List.foldl_cons, unit, foldl_op_twice comm f cancel]

end

/-- The data banks of a group (R60, R62). -/
def bankGroup (g : Nat) : List Nat := (List.range 4).map (fun i => 4 * g + i)

theorem bankGroup_perm (b : Nat) : (bankGroup (b / 4)).Perm (b :: bankMates b) := by
  have listed : b ∈ bankGroup (b / 4) := List.mem_map.2 ⟨b % 4, List.mem_range.2 (by omega), by omega⟩
  have once : (bankGroup (b / 4)).Nodup := List.nodup_range.map fun i j eq => Nat.add_left_cancel eq
  have mates : bankMates b = (bankGroup (b / 4)).erase b := by
    rw [once.erase_eq_filter]
    refine List.filter_congr fun k _ => ?_
    by_cases same : k = b <;> simp [same]
  exact mates ▸ List.perm_cons_erase listed

theorem State.rebuiltByte_eq (s : State) (cl b off : Nat) : s.rebuiltByte cl b off = s.byte (bankAddr cl b off) := by
  have parity : s.parityByte cl (b / 4) off = (bankGroup (b / 4)).foldl (fun acc k => acc ^^^ s.byte (bankAddr cl k off)) 0 := by
    rw [bankGroup, List.foldl_map]
    rfl
  rw [State.rebuiltByte, parity]
  exact rebuild_of_parity (op := fun a b : Byte => a ^^^ b) (fun a b c => by rw [BitVec.xor_assoc, BitVec.xor_comm b, ← BitVec.xor_assoc])
    (fun k => s.byte (bankAddr cl k off)) (fun a b => by rw [BitVec.xor_assoc, BitVec.xor_self, BitVec.xor_zero])
    (fun a => BitVec.zero_xor) (bankGroup_perm b)

theorem State.rebuiltTag_eq (s : State) (cl b off : Nat) : s.rebuiltTag cl b off = s.tagAt (bankAddr cl b off) := by
  have parity : s.parityTag cl (b / 4) off = (bankGroup (b / 4)).foldl (fun acc k => acc != s.tagAt (bankAddr cl k off)) false := by
    rw [bankGroup, List.foldl_map]
    rfl
  rw [State.rebuiltTag, parity]
  exact rebuild_of_parity (op := fun a b : Bool => a != b) (by decide) (fun k => s.tagAt (bankAddr cl k off)) (by decide) (by decide)
    (bankGroup_perm b)

/-- Bytes that are written as they stand stay as they are. -/
theorem State.byte_setBytes_self {s u : State} (mem : u.mem = s.mem) (a : Nat) {l : List Byte}
    (stand : ∀ i, i < l.length → l.getD i 0 = s.byte (a + i)) (y : Nat) : (u.setBytes a l).byte y = s.byte y := by
  rw [State.byte_setBytes]
  split
  next inside => rw [stand _ (by omega), Nat.add_sub_cancel' inside.1]
  next => rw [State.byte, mem]; rfl

/-- Setting what a set of numbers holds of a number leaves the set's members. -/
theorem contains_natSet_self (l : List Nat) (n k : Nat) : (natSet l n (l.contains n)).contains k = l.contains k := by
  rw [Bool.eq_iff_iff, List.contains_iff_mem, List.contains_iff_mem]
  cases listed : l.contains n
  · rw [← Bool.not_eq_true, List.contains_iff_mem] at listed
    show k ∈ natDel l n ↔ _
    rw [natDel, List.mem_filter]
    exact and_iff_left_of_imp fun hk => decide_eq_true fun same => listed (same ▸ hk)
  · show k ∈ natIns l n ↔ _
    rw [mem_natIns_iff]
    exact or_iff_right_of_imp fun same => same ▸ List.contains_iff_mem.1 listed

/-- A tag that is written as it stands stays as it is, and so do the others. -/
theorem State.tagAt_setTag_self {s u : State} (tags : u.tags = s.tags) (a y : Nat) : (u.setTag a (s.tagAt a)).tagAt y = s.tagAt y := by
  show (natSet u.tags (a / 16) (s.tagAt a)).contains (y / 16) = _
  rw [tags]
  exact contains_natSet_self ..

theorem State.setBytes_frame (s : State) (a : Nat) (l : List Byte) :
    (s.setBytes a l).tags = s.tags ∧ (s.setBytes a l).poison = s.poison ∧ (s.setBytes a l).ecc = s.ecc ∧ (s.setBytes a l).dev = s.dev := by
  induction l generalizing s a with
  | nil => exact ⟨rfl, rfl, rfl, rfl⟩
  | cons b l ih => exact ih (s.setByte a b) (a + 1)

/-! ## A bank word in error (R68) -/

theorem bankOf_bankAddr {cl b off : Nat} (bank : b < 2048) (row : off < 65536) : bankOf (bankAddr cl b off) = (cl, b) := by
  simp only [bankOf, bankAddr, Prod.mk.injEq]
  omega

theorem offset_bankAddr {cl b off : Nat} (row : off < 65536) : (bankAddr cl b off - scratchBase) % 65536 = off := by
  simp only [bankAddr]
  omega

/-- The words that a rebuild reads: that of the parity bank and those of the other banks of the group. -/
def rebuildWords (cl b off : Nat) : List Nat := parityAddr cl (b / 4) off :: (bankMates b).map (fun k => bankAddr cl k off)

/-- A correctable error met in a rebuild is corrected and counted. -/
def State.correctAt (s : State) (cl a : Nat) : State := if s.errAt a = 1 then ((s.setErr a 0).count 2 cl 1).countBank 16 a else s

theorem State.correctAt_corrects (s : State) {cl : Nat} (small : cl < 8) (a : Nat) : s.Corrects (s.correctAt cl a) := by
  unfold State.correctAt
  split
  · exact ((State.Corrects.setErr s a).trans (.countWord _ small)).trans (.countBank _ (by omega) a)
  · exact .refl s

section
variable (s : State) {cl b off : Nat} (bank : b < 2048) (row : off < 65536)

include bank row

theorem State.fixBank_correctable :
    s.fixBank (bankAddr cl b off) 1 = (((s.setErr (bankAddr cl b off) 0).count 2 cl 1).countBank 16 (bankAddr cl b off)) := by
  simp only [State.fixBank, bankOf_bankAddr bank row, if_true]

theorem State.fixBank_poisons (wrong : (rebuildWords cl b off).any (fun a => decide (s.errAt a = 2)) = true) :
    s.fixBank (bankAddr cl b off) 2 =
      ((((s.setErr (bankAddr cl b off) 0).setPoison (bankAddr cl b off) true).count 3 cl 1).countBank 20 (bankAddr cl b off)) := by
  simp only [State.fixBank, bankOf_bankAddr bank row, offset_bankAddr row]
  exact if_pos wrong

theorem State.fixBank_rebuilds (right : (rebuildWords cl b off).any (fun a => decide (s.errAt a = 2)) = false) :
    s.fixBank (bankAddr cl b off) 2 =
      (((rebuildWords cl b off).foldl (fun u a => u.correctAt cl a) ((s.setErr (bankAddr cl b off) 0).countBank 20 (bankAddr cl b off))).setBytes
        (bankAddr cl b off) ((List.range 8).map (fun i => s.byte (bankAddr cl b off + i)))).setTag (bankAddr cl b off)
          (s.tagAt (bankAddr cl b off)) := by
  have shift (i : Nat) : bankAddr cl b (off + i) = bankAddr cl b off + i := (Nat.add_assoc ..).symm
  simp only [State.fixBank, bankOf_bankAddr bank row, offset_bankAddr row, State.rebuiltByte_eq, State.rebuiltTag_eq, shift]
  exact if_neg (Bool.not_eq_true _ ▸ right)

end

theorem rebuildWords_wrong_iff (s : State) (cl b off : Nat) : (rebuildWords cl b off).any (fun a => decide (s.errAt a = 2)) = true ↔
    s.errAt (parityAddr cl (b / 4) off) = 2 ∨ ∃ k ∈ bankMates b, s.errAt (bankAddr cl k off) = 2 := by
  simp [rebuildWords]

/-- Writing bytes and a tag back as they stand, after corrections, leaves every byte and tag, the poison and the count of poisoned words. -/
theorem State.writeBack_ends {s u : State} (fixed : s.Corrects u) {x cl : Nat} (small : cl < 8) (clean : u.errAt x = 0) {l : List Byte}
    (stand : ∀ i, i < l.length → l.getD i 0 = s.byte (x + i)) :
    let t := (u.setBytes x l).setTag x (s.tagAt x)
    t.errAt x = 0 ∧ (∀ y, t.byte y = s.byte y) ∧ (∀ y, t.tagAt y = s.tagAt y) ∧ t.poison = s.poison ∧ t.counter 3 cl = s.counter 3 cl := by
  intro t
  obtain ⟨tags, poison, ecc, dev⟩ := u.setBytes_frame x l
  refine ⟨?_, State.byte_setBytes_self fixed.only.mem x stand, State.tagAt_setTag_self (tags.trans fixed.only.tags) x,
    poison.trans fixed.only.poison, ?_⟩
  · exact (congrArg (fun m => Sparse.look 0 m (x / 8)) ecc).trans clean
  · exact (congrArg (fun d : Device => (Sparse.look 0 d.ctr (4096 * 3 + cl)).toNat) dev).trans (fixed.poisoned cl small)

/-- What the rebuilding of a word leaves: every byte and tag, and no poison or count of it. -/
theorem State.fixBank_rebuilt (s : State) {cl b off : Nat} (small : cl < 8) (bank : b < 2048) (row : off < 65536)
    (right : (rebuildWords cl b off).any (fun a => decide (s.errAt a = 2)) = false) :
    let x := bankAddr cl b off
    let t := s.fixBank x 2
    t.errAt x = 0 ∧ (∀ y, t.byte y = s.byte y) ∧ (∀ y, t.tagAt y = s.tagAt y) ∧ t.poison = s.poison ∧ t.counter 3 cl = s.counter 3 cl := by
  intro x
  have first : s.Corrects ((s.setErr x 0).countBank 20 x) := (State.Corrects.setErr s x).trans (.countBank _ (by omega) x)
  have clean : ((s.setErr x 0).countBank 20 x).errAt x = 0 := by rw [State.countBank_errAt, State.errAt_setErr, if_pos rfl]
  have rest := State.Corrects.foldl (fun w a => w.correctAt_corrects small a) (rebuildWords cl b off) ((s.setErr x 0).countBank 20 x)
  have ends : s.fixBank x 2 = _ := s.fixBank_rebuilds bank row right
  rw [ends]
  refine State.writeBack_ends (first.trans rest) small (rest.sound x clean) fun i hi => ?_
  rw [List.length_map, List.length_range] at hi
  rw [List.getD_eq_getElem?_getD, List.getElem?_map, List.getElem?_range hi]
  rfl

/-- What a word that cannot be rebuilt leaves: it is poisoned and counted. -/
theorem State.fixBank_poisoned (s : State) {cl b off : Nat} (small : cl < 8) (bank : b < 2048) (row : off < 65536)
    (wrong : (rebuildWords cl b off).any (fun a => decide (s.errAt a = 2)) = true) :
    let x := bankAddr cl b off
    let t := s.fixBank x 2
    t.errAt x = 0 ∧ (∀ y, t.byte y = s.byte y) ∧ (∀ y, t.tagAt y = s.tagAt y) ∧ t.poisoned x = true ∧
      t.counter 3 cl = min (2 ^ 32 - 1) (s.counter 3 cl + 1) := by
  intro x t
  let u := ((s.setErr x 0).setPoison x true).count 3 cl 1
  have ends : t = u.countBank 20 x := s.fixBank_poisons bank row wrong
  have only : u.OnlyErrors t := ends ▸ .countBank u 20 x
  refine ⟨?_, fun y => ?_, fun y => ?_, ?_, ?_⟩
  · rw [ends, State.countBank_errAt]
    exact (State.errAt_setErr s x 0 x).trans (if_pos rfl)
  · rw [State.byte, only.mem]; rfl
  · rw [State.tagAt, only.tags]; rfl
  · rw [State.poisoned, only.poison]
    exact List.contains_iff_mem.2 (mem_natIns_iff.2 (.inl rfl))
  · rw [ends, State.counter_countBank u (by omega) x (by omega)]
    exact (State.counter_count ..).trans (if_pos rfl)

/-- What the correction of a word leaves. -/
theorem State.fixBank_corrected (s : State) {cl b off : Nat} (small : cl < 8) (bank : b < 2048) (row : off < 65536) :
    let x := bankAddr cl b off
    let t := s.fixBank x 1
    t.errAt x = 0 ∧ t.mem = s.mem ∧ t.tags = s.tags ∧ t.poison = s.poison ∧ t.counter 2 cl = min (2 ^ 32 - 1) (s.counter 2 cl + 1) := by
  intro x t
  let u := (s.setErr x 0).count 2 cl 1
  have ends : t = u.countBank 16 x := s.fixBank_correctable bank row
  have only : s.OnlyErrors t := ends ▸ ((State.OnlyErrors.setErr s x 0).trans (.count _ 2 cl 1)).trans (.countBank u 16 x)
  refine ⟨?_, only.mem, only.tags, only.poison, ?_⟩
  · rw [ends, State.countBank_errAt]
    exact (State.errAt_setErr s x 0 x).trans (if_pos rfl)
  · rw [ends, State.counter_countBank u (by omega) x (by omega)]
    exact (State.counter_count ..).trans (if_pos rfl)

/-- Settles O43: each event by what it leaves, and the error of a word by whether its rebuild meets another. -/
theorem bankEvents : Obligations.BankEvents := by
  unfold Obligations.BankEvents
  intro s
  refine ⟨fun g slot d ev => ⟨?_, ?_⟩, ?_, fun g r0 ev start all => ⟨?_, ?_, ?_⟩, ?_, ?_⟩
  · exact bgiveDrainComplete_ends ev
  · exact bfreeDrainComplete_ends ev
  · exact fun cl n ev => bankZeroingComplete_ends ev
  · exact ringrotBarrierComplete_disagrees ev start all
  · exact ringrotBarrierComplete_alone ev start all
  · exact ringrotBarrierComplete_rotates ev start all
  · exact fun g k d e ev first second apart => ringrotDrainComplete_ends ev first second apart
  · rintro cl b off small bank row - x rfl
    refine ⟨?_, ?_⟩
    · rintro t rfl
      exact s.fixBank_corrected small bank row
    · rintro t rfl
      cases wrong : (rebuildWords cl b off).any (fun a => decide (s.errAt a = 2))
      · obtain ⟨clean, bytes, tags, poison, count⟩ := s.fixBank_rebuilt small bank row wrong
        refine ⟨clean, bytes, tags, fun met => ?_, fun _ _ => ⟨poison, count⟩⟩
        exact absurd ((rebuildWords_wrong_iff ..).2 met) (by rw [wrong]; exact Bool.false_ne_true)
      · obtain ⟨clean, bytes, tags, poisoned, count⟩ := s.fixBank_poisoned small bank row wrong
        refine ⟨clean, bytes, tags, fun _ => ⟨poisoned, count⟩, fun parity mates => ?_⟩
        rcases (rebuildWords_wrong_iff ..).1 wrong with met | ⟨k, mate, met⟩
        · exact absurd met parity
        · exact absurd met (mates k mate)

end Sys2Proof.Machine
end

section
/-! PROOFS. Time, budgets, fences and the line monitor (R126, R221, R273-R276, R419). -/

namespace Sys2Proof.Machine

open Sys2Proof

theorem exec_dtime (h : Hdr) (o : FmtRR) (s : State) : exec (.dtime h o) s = execDtime h o s := rfl
theorem exec_budget (h : Hdr) (o : FmtS) (s : State) : exec (.budget h o) s = execBudget h o s := rfl
theorem exec_wmon (h : Hdr) (o : FmtM) (s : State) : exec (.wmon h o) s = execWmon h o s := rfl

/-- Two changes of the context in turn that agree on it are one change. -/
theorem State.self_congr {s : State} {f g : Ctx → Ctx} (same : f s.me = g s.me) : s.self f = s.self g :=
  congrArg (s.setCtx s.cur) same

theorem State.after_congr {s : State} {f g : Ctx → Ctx} (same : f s.me = g s.me) (h : Hdr) : s.after h f = s.after h g :=
  congrArg (fun t : State => t.retire s.cur h) (State.self_congr same)

/-! ## Device time (R276, R419) -/

section
variable {h : Hdr} {o : FmtRR} {s s1 : State} (hi : Issues h s .normal [] [o.d] s1)
include hi

/-- `dtime` takes the reading that its context then has as its latest. -/
theorem dtime_reads {ns : Nat} {frac : BitVec 32} (reading : s1.me.readTime s1.dev.ns s1.dev.frac = (ns, frac)) :
    exec (.dtime h o) s = .next (s1.after h (fun c =>
      { c.writeS o.d (BitVec.ofNat 64 ns) with dtLock := s1.locked, dtFrac := frac, dtSeen := ns })) := by
  rw [exec_dtime, execDtime, issue_of_issues hi, reading, hi.close_done]
  rfl

theorem dtime_reads_now (passed : s1.me.dtSeen * 2 ^ 32 + s1.me.dtFrac.toNat ≤ s1.dev.ns * 2 ^ 32 + s1.dev.frac.toNat) :
    exec (.dtime h o) s = .next (s1.after h (fun c =>
      { c.writeS o.d (BitVec.ofNat 64 s1.dev.ns) with
        dtLock := s1.dev.dtst.getLsbD 63, dtFrac := s1.dev.frac, dtSeen := s1.dev.ns })) :=
  dtime_reads hi (if_neg (Nat.not_lt.2 passed))

theorem dtime_reads_again (behind : s1.dev.ns * 2 ^ 32 + s1.dev.frac.toNat < s1.me.dtSeen * 2 ^ 32 + s1.me.dtFrac.toNat) :
    exec (.dtime h o) s = .next (s1.after h (fun c =>
      { c.writeS o.d (BitVec.ofNat 64 c.dtSeen) with
        dtLock := s1.dev.dtst.getLsbD 63, dtFrac := c.dtFrac, dtSeen := c.dtSeen })) := by
  rw [dtime_reads hi (if_pos behind)]
  exact congrArg _ (State.after_congr rfl h)

end

/-! ## Budgets (R221, R275) -/

section
variable {h : Hdr} {o : FmtS} {s s1 : State} {m : Fin 64} (hi : Issues h s .illegal [o.a] [] s1)
include hi

theorem budget_illegal (outside : o.imm.toNat % 16 = 0 ∨ 11 ≤ o.imm.toNat % 16) :
    exec (.budget h o) s = .next (s1.fault s.cur h 5 0 s.me.slotVal) := by
  rw [exec_budget, execBudget, issue_of_issues hi, ← hi.close_illegal]
  exact congrArg (fun r : Res => r.close s.cur h s1) (if_pos outside)

/-- A helper that the core does not have is not armed. -/
theorem budget_denied (inside : ¬(o.imm.toNat % 16 = 0 ∨ 11 ≤ o.imm.toNat % 16))
    (missing : s1.helpers s.cur.gid < o.imm.toNat % 16) :
    exec (.budget h o) s = .next ((s1.self (fun c => (c.readS o.a).2)).after h (fun c => c.writePO o.d false)) := by
  rw [← hi.cur] at missing
  rw [exec_budget, execBudget, issue_of_issues hi]
  dsimp only
  rw [if_neg inside, if_pos missing, ← hi.cur]
  rfl

/-- A helper of the core is armed with the count, or disarmed where that is zero. -/
theorem budget_arms (source : o.a = .x m) (inside : ¬(o.imm.toNat % 16 = 0 ∨ 11 ≤ o.imm.toNat % 16))
    (present : o.imm.toNat % 16 ≤ s1.helpers s.cur.gid) :
    let cnt := (s.me.getX m.val).val.extractLsb' 0 32
    exec (.budget h o) s = .next ((((s1.self (fun c => (c.readS o.a).2)).updCtx ⟨s.cur.gid, o.imm.toNat % 16⟩ (fun c =>
      { c with budg := if cnt = 0 then { c.budg with arm := false } else ⟨true, false, c.budg.kind, o.sem, cnt⟩ })).self
        (fun c => c.writePO o.d true)).retire s.cur h) := by
  intro cnt
  have read : ((s1.me.readS o.a).1.setWidth 32 : BitVec 32) = cnt := by
    have value : (s1.me.readS o.a).1 = (s.me.getX m.val).val := by rw [source, Ctx.readS, Ctx.getX, Ctx.getX, hi.me_x]
    rw [value]
    exact BitVec.eq_of_toNat_eq (by simp [cnt])
  rw [exec_budget, execBudget, issue_of_issues hi]
  dsimp only
  rw [if_neg inside, if_neg (hi.cur ▸ Nat.not_lt.2 present), ← hi.cur, read]
  rfl

end

/-! ## Fences (R126, R274) -/

/-- The four forms of a fence are one meaning with the number of the kind. -/
theorem exec_eq_fence {e : (Hdr → FmtSC → Instr) × Nat}
    (he : e ∈ ([(.fenceLl, 0), (.fenceSs, 1), (.fenceFull, 2), (.fenceEng, 3)] : List ((Hdr → FmtSC → Instr) × Nat)))
    (h : Hdr) (o : FmtSC) (s : State) : exec (e.1 h o) s = fence e.2 h o s := by
  simp only [List.mem_cons, List.not_mem_nil, or_false] at he
  rcases he with rfl | rfl | rfl | rfl <;> rfl

/-- The fence that a context takes its place with. -/
def State.newFence (s1 : State) (kind : Nat) (q : Order) (h : Hdr) : Fence :=
  ⟨kind, q, s1.me.seq, s1.now, if s1.me.pend.any Access.loads then none else some s1.now, h⟩

section
variable {kind : Nat} {h : Hdr} {o : FmtSC} {s s1 : State} (hi : Issues h s .normal [o.b] [] s1)
include hi

theorem fence_illegal (bad : (s1.me.scopeArg o.b).ok = false) : fence kind h o s = .next (s1.fault s.cur h 5 0 s.me.slotVal) := by
  rw [fence, issue_of_issues hi, ← hi.close_illegal]
  simp only [bad, Bool.not_false, if_true]

/-- A fence that stands first and whose condition holds retires at once. -/
theorem fence_retires (good : (s1.me.scopeArg o.b).ok = true) (first : s1.me.fences = [])
    (holds : fenceOk s1 s.cur (s1.newFence kind (s1.me.scopeArg o.b) h) = true) : fence kind h o s = .next (s1.retire s.cur h) := by
  rw [← hi.cur, State.newFence] at holds
  rw [fence, issue_of_issues hi]
  simp only [good, first, List.isEmpty_nil, holds, Bool.not_true, Bool.false_eq_true, if_false, Bool.and_self, if_true]
  rfl

/-- Else it takes its place behind the others, and the context goes on. -/
theorem fence_waits (good : (s1.me.scopeArg o.b).ok = true)
    (behind : s1.me.fences ≠ [] ∨ fenceOk s1 s.cur (s1.newFence kind (s1.me.scopeArg o.b) h) = false) :
    fence kind h o s = .next (s1.self (fun c =>
      { c with fences := c.fences ++ [s1.newFence kind (s1.me.scopeArg o.b) h], seq := c.seq + 1 }.advance)) := by
  have stays : ¬(s1.me.fences.isEmpty && fenceOk s1 s1.cur (s1.newFence kind (s1.me.scopeArg o.b) h)) = true := by
    rw [hi.cur, Bool.and_eq_true, List.isEmpty_iff]
    rintro ⟨first, holds⟩
    exact behind.elim (fun earlier => earlier first) (fun fails => by simp [holds] at fails)
  rw [fence, issue_of_issues hi]
  simp only [good, Bool.not_true, Bool.false_eq_true, if_false]
  exact congrArg (fun r : Res => r.close s.cur h s1) (if_neg stays)

end

section
variable {s : State} {a : Agent} {f : Fence}

theorem State.inFlightTo_eq_false (quiet : s.invals = []) (w : Nat) (o : Order) (own : Nat) : s.inFlightTo w o own = false := by
  rw [State.inFlightTo, quiet, List.any_nil]

theorem relDone_of_quiet (pend : (s.ctx a).pend = []) (sb : (s.ctx a).sb = []) (quiet : s.invals = []) (o : Order) (n : Nat) :
    relDone s a o n = true := by
  simp [relDone, pend, sb, State.inFlightTo_eq_false quiet]

theorem acqDone_of_quiet (quiet : s.invals = []) (o : Order) (t : Nat) : acqDone s a o t = true := by
  rw [acqDone, quiet, List.all_nil]

theorem engDone_of_quiet (idle : (s.core a.gid).cmds = []) (quiet : s.invals = []) (o : Order) (t : Nat) :
    engDone s a o t = true := by
  obtain ⟨channels, matrix⟩ := List.append_eq_nil_iff.1 idle
  have queues : (List.range 4).flatMap (fun i => ((s.core a.gid).chan i).cmds) = [] := by
    rw [List.flatMap_eq_nil_iff] at channels ⊢
    exact fun i hi => List.map_eq_nil_iff.1 (channels i hi)
  have none : (s.core a.gid).matrix.cmds ++ (List.range 4).flatMap (fun i => ((s.core a.gid).chan i).cmds) = [] := by
    rw [queues, List.map_eq_nil_iff.1 matrix, List.append_nil]
  simp only [engDone, none, List.all_nil, State.inFlightTo_eq_false quiet, Bool.and_false, Bool.not_false, Bool.true_and, List.all_eq_true]
  exact fun _ _ => trivial

/-- With nothing pending, nothing buffered, nothing in flight and no command accepted, a fence that is reached holds. -/
theorem fenceOk_of_quiet (pend : (s.ctx a).pend = []) (sb : (s.ctx a).sb = []) (quiet : s.invals = [])
    (idle : (s.core a.gid).cmds = []) {t : Nat} (reached : f.reached = some t) : fenceOk s a f = true := by
  unfold fenceOk
  simp only [reached, acqDone_of_quiet quiet, relDone_of_quiet pend sb quiet, engDone_of_quiet idle quiet, Bool.and_self]
  split <;> rfl

/-- A fence but `ss` does not hold before it is reached. -/
theorem fenceOk_of_unreached (unreached : f.reached = none) (kind : f.kind ≠ 1) : fenceOk s a f = false := by
  unfold fenceOk
  simp only [unreached, Bool.and_false]
  split
  · rfl
  · contradiction
  · rfl
  · rfl

end

/-! ## The line monitor (R273) -/

/-- What a `wmon` that has just issued measures from: what the context's latest load of the line took; else the line as it is now. -/
def State.monitors (t : State) (line home : Nat) : Mon :=
  match Sparse.look none t.me.mon line with
  | some k => k
  | none => ⟨t.me.seq, Sparse.look 0 t.lineVer home + 1, [], []⟩

theorem State.monitored_of_idle {t : State} (idle : t.me.busy = none) (line home : Nat) :
    t.me.monitored line (Sparse.look 0 t.lineVer home) = t.monitors line home := by
  unfold Ctx.monitored State.monitors
  rw [idle]
  cases Sparse.look none t.me.mon line <;> rfl

/-- A later write: a byte that the load did not take from a buffered store has a version at its home above the one taken. -/
theorem State.laterWrite_iff (t : State) (m : Mon) (line home : Nat) :
    t.laterWrite m line home = true ↔ ∃ i, i < 128 ∧
      (∀ e ∈ m.held, ¬ (e.2.1 ≤ line * 128 + i ∧ line * 128 + i < e.2.1 + e.2.2)) ∧
      (if Sparse.look 0 m.took (line * 128 + i) = 0 then m.base else Sparse.look 0 m.took (line * 128 + i)) ≤
        Sparse.look 0 t.byteVer (home * 128 + i) := by
  simp only [State.laterWrite, List.any_eq_true, List.mem_range, Bool.and_eq_true, Bool.not_eq_true', List.any_eq_false,
    decide_eq_true_eq]
  refine exists_congr fun i => and_congr_right fun _ => and_congr_right fun _ => ?_
  cases Sparse.look 0 m.took (line * 128 + i) <;> simp

/-- An access whose elements pass their checks goes on with their places. -/
theorem withAccess_of_ok {t : State} {q : Req} {parts : List Part} {used : List TlbEntry}
    (checked : checkElems t t.cur.gid t.me.cdom q q.elems [] [] = .ok parts used) (k : State → List Part → List TlbEntry → Res) :
    withAccess t q k = k (t.touchAll t.cur.gid used) parts used := by
  rw [withAccess]
  dsimp only
  rw [checked]

theorem State.touchAll_ctx (s : State) (g : Nat) (used : List TlbEntry) (a : Agent) : (s.touchAll g used).ctx a = s.ctx a := by
  have touched : ∀ (l : List TlbEntry) (c : Core), (l.foldr (fun e k => k.touch e) c).ctxs = c.ctxs := fun l c => by
    induction l with
    | nil => rfl
    | cons e l ih => exact ih
  have keeps : s.KeepsCores Core.ctxs (s.touchAll g used) := by
    unfold State.touchAll
    split
    · exact .refl s
    · exact .updCore g (touched used)
  exact congrArg (fun m => Sparse.look Ctx.reset m a.ctx) (keeps a.gid)

theorem State.touchAll_cur (s : State) (g : Nat) (used : List TlbEntry) : (s.touchAll g used).cur = s.cur := by
  unfold State.touchAll
  split <;> rfl

section
variable {h : Hdr} {o : FmtM} {s s1 : State} {el : Elem} {seg : Seg} {segs : List Seg} {used : List TlbEntry}

/-- The byte that a `wmon` asks for. -/
def monReq (c : Ctx) (o : FmtM) : Req := ⟨c.readPair o.a, [permLoad], kLoad, 1, 0, [⟨memEA c o 1, 1, 0⟩], false⟩

/-- A `wmon` goes on, with the line's record spent. -/
def State.monitorEnds (s2 : State) (o : FmtM) (line : Nat) (v : Word) : State :=
  s2.self (fun c => { c.writeS o.d v with mon := Sparse.put none c.mon line none })

/-- What a `wmon` whose byte passes the checks comes to. -/
theorem wmon_of_checked (hi : Issues h s .illegal (pairOps o.a ++ [o.b]) [o.d] s1) (first : s1.me.busy = none)
    (checked : checkElems s1 s.cur.gid s1.me.cdom (monReq s1.me o) [⟨memEA s1.me o 1, 1, 0⟩] [] [] = .ok [⟨el, seg :: segs⟩] used) :
    let s2 := s1.touchAll s.cur.gid used
    let line := seg.addr / 128
    let m := s2.monitors line (fwdAddr s2 seg.addr / 128)
    exec (.wmon h o) s =
      if s2.laterWrite m line (fwdAddr s2 seg.addr / 128) = true then .next ((s2.monitorEnds o line 1).retire s.cur h)
      else if s2.here.req = true then .next ((s2.monitorEnds o line 0).retire s.cur h)
      else .next (s2.self (fun c => { c with busy := some (.monitor line m) })) := by
  intro s2 line m
  have me : s2.me = s1.me := by
    rw [State.me, State.touchAll_cur, State.touchAll_ctx]
    rfl
  have idle : s2.me.busy = none := me ▸ first
  rw [← hi.cur, monReq] at checked
  rw [exec_wmon, execWmon, issue_of_issues hi]
  dsimp only
  rw [withAccess_of_ok checked]
  dsimp only
  rw [hi.cur, State.monitored_of_idle idle]
  split
  · rfl
  · split <;> rfl

end

/-- Settles O36: each instruction by the cases of its meaning, once it issues. -/
theorem timeAndFences : Obligations.TimeAndFences := by
  unfold Obligations.TimeAndFences
  intro h s s1
  refine ⟨fun o hi => ?_, fun o m source hi => ?_, fun o hi => ?_, ?_⟩
  · exact ⟨dtime_reads_now hi, dtime_reads_again hi⟩
  · refine ⟨budget_illegal hi, fun some few missing => ?_, fun some few present => ?_⟩
    · exact budget_denied hi (by omega) missing
    · exact budget_arms hi source (by omega) present
  · intro q e he
    rw [exec_eq_fence he h o s]
    refine ⟨fence_illegal hi, fun good => ?_⟩
    intro f
    refine ⟨fence_retires hi good, ?_, fence_waits hi good, ?_⟩
    · intro first pend sb quiet idle
      rw [hi.me_eq] at pend sb
      rw [State.here, hi.cur] at idle
      have reached : f.reached = some s1.now := by
        show (if s1.me.pend.any Access.loads then none else some s1.now) = _
        rw [hi.me_eq, pend]
        rfl
      exact fence_retires hi good first (fenceOk_of_quiet pend sb quiet idle reached)
    · intro loads kind
      exact fenceOk_of_unreached (if_pos loads) kind
  · intro o el seg segs used hi first checked s2 line now home m goes
    have ends := wmon_of_checked hi first checked
    refine ⟨s2.laterWrite_iff m line home, fun later => ?_, fun none asked => ?_, fun none unasked => ?_⟩
    · exact ends.trans (if_pos later)
    · have early : ¬ s2.laterWrite m line home = true := Bool.eq_false_iff.1 none
      exact ends.trans ((if_neg early).trans (if_pos asked))
    · have early : ¬ s2.laterWrite m line home = true := Bool.eq_false_iff.1 none
      exact ends.trans ((if_neg early).trans (if_neg (Bool.eq_false_iff.1 unasked)))

end Sys2Proof.Machine
end

section
/-! PROOFS. Commands, tickets, budgets and held faults that complete (R133, R135, R155, R179, R180, R209, R222, R224, R350, R351,
R360-R363). -/

namespace Sys2Proof.Machine

open Sys2Proof

theorem exec_engineCommandCompletion {s : State} {g ch i : Nat} (ev : s.ev = .three g ch i) :
    exec .engineCommandCompletion s = event "ENGINE_COMMAND_COMPLETION" (s.engineComplete g ch i) := by
  show execEngineCommandCompletion s = _
  rw [execEngineCommandCompletion, ev]

theorem exec_sequencerFault {s : State} {a : Agent} (ev : s.ev = .agent a) :
    exec .sequencerFault s = event "SEQUENCER_FAULT" (s.seqFault a) := by
  show execSequencerFault s = _
  rw [execSequencerFault, ev]

theorem exec_ticketResolve {s : State} {cl st : Nat} (ev : s.ev = .two cl st) :
    exec .ticketResolve s = event "TICKET_RESOLVE" (s.ticketResolve cl st) := by
  show execTicketResolve s = _
  rw [execTicketResolve, ev]

theorem exec_budgetExpiry {s : State} {a : Agent} (ev : s.ev = .agent a) :
    exec .budgetExpiry s = event "BUDGET_EXPIRY" (s.budgetExpiry a) := by
  show execBudgetExpiry s = _
  rw [execBudgetExpiry, ev]

/-! ## Planes as sparse maps -/

/-- Writing the first `n` places of a map. -/
theorem Sparse.look_putRange {α : Type} [DecidableEq α] (d : α) (m : Sparse α) (f : Nat → α) (n k : Nat) :
    Sparse.look d ((List.range n).foldl (fun m i => Sparse.put d m i (f i)) m) k = if k < n then f k else Sparse.look d m k := by
  induction n with
  | zero => simp
  | succ n ih =>
    rw [List.range_succ, List.foldl_append, List.foldl_cons, List.foldl_nil, Sparse.look_put, ih]
    split_ifs with here below above above
    · rw [here]
    · omega
    · rfl
    · omega
    · omega
    · rfl

/-- The bytes from place `a` on, without the zeros. -/
theorem look_bytesFrom (bs : List Byte) (a k : Nat) :
    Sparse.look 0 (((List.range' a bs.length).zip bs).filter (fun e => e.2 ≠ 0)) k = if k < a then 0 else bs.getD (k - a) 0 := by
  induction bs generalizing a with
  | nil => simp [Sparse.look]
  | cons b bs ih =>
    rw [List.length_cons, List.range'_succ, List.zip_cons_cons]
    rcases Nat.lt_trichotomy k a with before | rfl | after
    · have other : a ≠ k := by omega
      rw [List.filter_cons]
      split
      · simp only [Sparse.look, if_neg other, ih, if_pos (Nat.lt_succ_of_lt before)]
      · simp only [ih, if_pos (Nat.lt_succ_of_lt before)]
    · rw [List.filter_cons]
      split
      · simp [Sparse.look]
      next zero =>
        have none : b = 0 := by simpa using zero
        rw [ih, if_pos (Nat.lt_succ_self k), none]
        simp
    · obtain ⟨j, rfl⟩ : ∃ j, k = a + (j + 1) := ⟨k - a - 1, by omega⟩
      have other : a ≠ a + (j + 1) := by omega
      have rest : a + (j + 1) - (a + 1) = j := by omega
      rw [List.filter_cons]
      split
      · simp only [Sparse.look, if_neg other, ih]
        simp [rest]
      · rw [ih]
        simp [rest]

@[simp] theorem look_sparseBytes (bs : List Byte) (k : Nat) : Sparse.look 0 (sparseBytes bs) k = bs.getD k 0 := by
  have all := look_bytesFrom bs 0 k
  rwa [← List.range_eq_range', if_neg (Nat.not_lt_zero k), Nat.sub_zero] at all

theorem getD_take {α : Type} (l : List α) (d : α) {n k : Nat} (inside : k < n) : (l.take n).getD k d = l.getD k d := by
  simp [List.getD_eq_getElem?_getD, inside]

theorem getD_drop {α : Type} (l : List α) (d : α) (n k : Nat) : (l.drop n).getD k d = l.getD (n + k) d := by
  simp [List.getD_eq_getElem?_getD, List.getElem?_drop]

theorem Matrix.plane_setPlane (m : Matrix) (n k : Nat) (p : Plane) : (m.setPlane n p).plane k = if n = k then p else m.plane k :=
  Sparse.look_put ..

@[simp] theorem Matrix.setPlane_act (m : Matrix) (n : Nat) (p : Plane) : (m.setPlane n p).act = m.act := rfl

@[simp] theorem Matrix.setPlane_cmds (m : Matrix) (n : Nat) (p : Plane) : (m.setPlane n p).cmds = m.cmds := rfl

/-- A pass gives each word of the plane (R179, R180). -/
theorem Plane.pass_word (m : Plane) (p : PassIn) (b : Stat) (psn : Bool) {r k : Nat} (row : r < 64) (column : k < 64) :
    Sparse.look 0 (m.pass p b psn).words (64 * r + k) = passWord p b r k (Sparse.look 0 m.words (64 * r + k)) := by
  have inside : 64 * r + k < 4096 := by omega
  have quotient : (64 * r + k) / 64 = r := by omega
  have rest : (64 * r + k) % 64 = k := by omega
  rw [Plane.pass, Sparse.look_putRange, if_pos inside, quotient, rest]

/-! ## Effects on the planes (R360-R363) -/

/-- What the planes of `n` are after the effect of command `c` on those of `m`. -/
def Matrix.Has (m n : Matrix) (c : Cmd) : Prop :=
  (c.kind = .mswp → n.act = m.shd ∧ n.shd = m.act) ∧
  (c.kind = .mzero → n.plane c.o.mp.toNat = Plane.reset ∧ ∀ k, k ≠ c.o.mp.toNat → n.plane k = m.plane k) ∧
  (c.kind = .mlds → n.act = m.act ∧ n.shd.valid = true ∧ n.shd.fmt = c.o.fmt.toNat ∧
    (∀ k, k < 8192 → Sparse.look 0 n.shd.elems k = c.buf.getD k 0) ∧
    (∀ k, k < 512 → Sparse.look 0 n.shd.scales k = c.buf.getD (8192 + k) 0)) ∧
  (c.kind = .mstream → n.act = m.act ∧ ∀ r k, r < 64 → k < 64 →
    Sparse.look 0 (n.plane c.o.mp.toNat).words (64 * r + k) =
      passWord ⟨c.o.fmt.toNat, c.buf.take 8192, c.buf.drop 8192⟩ m.act r k (Sparse.look 0 (m.plane c.o.mp.toNat).words (64 * r + k)))

theorem Matrix.effect_has (m : Matrix) (g : Nat) (c : Cmd) : m.Has (m.effect g c).1 c := by
  refine ⟨fun kind => ?_, fun kind => ?_, fun kind => ?_, fun kind => ?_⟩
  · simp [Matrix.effect, kind]
  · simp only [Matrix.effect, kind, Matrix.plane_setPlane, if_true, true_and]
    exact fun k other => if_neg other.symm
  · simp only [Matrix.effect, kind, look_sparseBytes, true_and]
    refine ⟨fun k inside => getD_take _ _ inside, fun k inside => ?_⟩
    rw [getD_take _ _ inside, getD_drop]
  · simp only [Matrix.effect, kind, Matrix.plane_setPlane, Matrix.setPlane_act, if_true, true_and]
    exact (fun r k row column => Plane.pass_word _ _ _ _ row column)

/-- An effect leaves the queue. -/
theorem Matrix.effect_cmds (m : Matrix) (g : Nat) (c : Cmd) : (m.effect g c).1.cmds = m.cmds := by
  unfold Matrix.effect
  split
  case h_3 => exact m.setPlane_cmds ..
  case h_4 => exact m.setPlane_cmds ..
  case h_5 =>
    split_ifs
    · rfl
    · split
      · rfl
      · dsimp only
        split_ifs
        · rfl
        · exact Matrix.setPlane_cmds ..
  case h_6 =>
    split_ifs
    · exact m.setPlane_cmds ..
    · rfl
    · rfl
  all_goals rfl

/-- The matrix engine but for the passes that are forwarded to it. -/
def Matrix.unfed (m : Matrix) : Matrix := { m with fwd := [] }

theorem Matrix.effect_has_of_unfed {m m' : Matrix} (same : m'.unfed = m.unfed) (g : Nat) (c : Cmd) : m.Has (m'.effect g c).1 c := by
  have planes : m'.planes = m.planes := (congrArg Matrix.planes same :)
  have act : m'.act = m.act := (congrArg Matrix.act same :)
  have shd : m'.shd = m.shd := (congrArg Matrix.shd same :)
  have has := m'.effect_has g c
  unfold Matrix.Has Matrix.plane at has ⊢
  rwa [planes, act, shd] at has

theorem Matrix.due_get {m : Matrix} {i : Nat} {c : Cmd} (due : m.due = some (i, c)) : m.cmds[i]? = some c := by
  have mem := List.mem_of_find?_eq_some due
  obtain ⟨k, inside, pair⟩ := List.getElem_of_mem mem
  simp only [List.getElem_zip, List.getElem_range, Prod.mk.injEq] at pair
  obtain ⟨rfl, rfl⟩ := pair
  simp

/-! ## The effect that is due (R360) -/

section
variable (s : State) (g : Nat) (c : Cmd)

theorem State.forwardPass_unfed : s.KeepsCores (fun k => k.matrix.unfed) (s.forwardPass g c) := by
  unfold State.forwardPass
  dsimp only
  split
  · exact .refl s
  · refine .foldl (fun st k => ?_) _ s
    exact .updCore k fun _ => rfl

theorem State.forwardPass_mem : (s.forwardPass g c).mem = s.mem := by
  unfold State.forwardPass
  dsimp only
  split
  · rfl
  · exact (State.OnlyCores.foldl (fun st k => .updCore st k _) _ s).mem

end

section
variable {s : State} {g i : Nat} {c : Cmd}

theorem State.settle_one_of_due (early : (s.core g).matrix.lateDue = none) (due : (s.core g).matrix.due = some (i, c))
    (ready : (s.core g).matrix.effectReady g c = true) :
    State.settle 1 s g = (s.forwardPass g c).updCore g (fun k => { k with matrix := k.matrix.act1 g i c }) := by
  simp [State.settle, early, due, ready]

theorem State.settle_one_of_late (late : (s.core g).matrix.lateDue = some c) :
    State.settle 1 s g = (s.forwardPass g c).updCore g (fun k => { k with matrix := k.matrix.actLate g c }) := by
  simp [State.settle, late]

/-- The command that is due has its effect in its place of the queue. -/
theorem State.settle_due (early : (s.core g).matrix.lateDue = none) (due : (s.core g).matrix.due = some (i, c))
    (ready : (s.core g).matrix.effectReady g c = true) (runs : c.stopped = none) :
    (State.settle 1 s g).mem = s.mem ∧
      (∃ e, ((State.settle 1 s g).core g).matrix.cmds[i]? = some e ∧ e.effected = true ∧ e.kind = c.kind ∧ e.o = c.o) ∧
      (s.core g).matrix.Has ((State.settle 1 s g).core g).matrix c := by
  have same := s.forwardPass_unfed g c g
  have cmds : ((s.forwardPass g c).core g).matrix.cmds = (s.core g).matrix.cmds := (congrArg Matrix.cmds same :)
  rw [State.settle_one_of_due early due ready, State.updCore_mem, State.core_updCore_same]
  refine ⟨s.forwardPass_mem g c, ?_, ?_⟩
  · simp only [Matrix.act1, runs, Option.isSome_none, Bool.false_eq_true, if_false, List.getElem?_mapIdx, Matrix.effect_cmds, cmds,
      Matrix.due_get due, Option.map_some, if_true]
    exact ⟨_, rfl, rfl, rfl, rfl⟩
  · simp only [Matrix.act1, runs, Option.isSome_none, Bool.false_eq_true, if_false]
    exact Matrix.effect_has_of_unfed same g c

/-- A command that has completed has its effect in its turn and is kept no more. -/
theorem State.settle_late (late : (s.core g).matrix.lateDue = some c) :
    (State.settle 1 s g).mem = s.mem ∧
      (∀ e, e ∈ ((State.settle 1 s g).core g).matrix.late ↔ e ∈ (s.core g).matrix.late ∧ e.accepted ≠ c.accepted) ∧
      ((State.settle 1 s g).core g).matrix.cmds = (s.core g).matrix.cmds ∧
      (s.core g).matrix.Has ((State.settle 1 s g).core g).matrix c := by
  have same := s.forwardPass_unfed g c g
  have kept : ((s.forwardPass g c).core g).matrix.late = (s.core g).matrix.late := (congrArg Matrix.late same :)
  have cmds : ((s.forwardPass g c).core g).matrix.cmds = (s.core g).matrix.cmds := (congrArg Matrix.cmds same :)
  rw [State.settle_one_of_late late, State.updCore_mem, State.core_updCore_same]
  refine ⟨s.forwardPass_mem g c, fun e => ?_, ?_, Matrix.effect_has_of_unfed same g c⟩
  · simp [Matrix.actLate, kept]
  · exact (Matrix.effect_cmds ..).trans cmds

end

/-! ## Completion (R135, R350) -/

/-- The engines of a core. -/
def Core.engines (k : Core) : Sparse Channel × Matrix := (k.chans, k.matrix)

theorem Core.queueOf_of_engines {k k' : Core} (same : k.engines = k'.engines) (ch : Nat) : k.queueOf ch = k'.queueOf ch := by
  have chans : k.chans = k'.chans := congrArg Prod.fst same
  have matrix : k.matrix = k'.matrix := congrArg Prod.snd same
  rw [Core.queueOf, Core.queueOf, Core.chan, Core.chan, chans, matrix]

theorem Core.queueOf_setQueue (k : Core) (ch : Nat) (l : List Cmd) : (k.setQueue ch l).queueOf ch = l := by
  unfold Core.setQueue Core.queueOf
  split
  · rfl
  · rw [Core.chan, Core.setChan, Sparse.look_put_same]

section
variable (k : Core) (ch i : Nat) (c : Cmd)

theorem Core.leaveQueue_queueOf : (k.leaveQueue ch i c).queueOf ch = (k.queueOf ch).eraseIdx i := by
  unfold Core.leaveQueue
  dsimp only
  split
  next late =>
    obtain ⟨rfl, -⟩ := late
    rfl
  · exact Core.queueOf_setQueue ..

theorem Core.leaveQueue_sems : (k.leaveQueue ch i c).sems = k.sems := by
  unfold Core.leaveQueue Core.setQueue
  dsimp only
  split <;> split <;> rfl

/-- One whose effect is still to come is kept for its turn (R360). -/
theorem Core.mem_leaveQueue_late (matrix : ch = 4) (reads : c.readsOnly = true) (owes : c.effected = false) (runs : c.stopped = none) :
    c ∈ (k.leaveQueue ch i c).matrix.late := by
  have kept : ch = 4 ∧ c.readsOnly ∧ !c.effected ∧ c.stopped.isNone := by simp [matrix, reads, owes, runs]
  simp [Core.leaveQueue, kept, Matrix.putLate, insCmd]

end

/-- The completion code of one that has not stopped, when a record that `mrest` refuses is not at issue. -/
theorem Cmd.code_of_runs {c : Cmd} (runs : c.stopped = none) (done : c.kind ≠ .mrest ∨ c.effected = true) :
    c.code = (if c.bad ≠ 0 then 0xA else 0, 0) := by
  have known : ¬ (c.kind = .mrest ∧ !c.effected ∧ c.o.dim ≠ 0 ∧ !statRecordOk (c.buf.drop 17408)) := by
    rintro ⟨rest, owes, -⟩
    rcases done with other | effected
    · exact other rest
    · simp [effected] at owes
  rw [Cmd.code, runs]
  dsimp only
  rw [if_neg known]

theorem Cmd.code_of_stopped {c : Cmd} {p : Nat × Nat} (stopped : c.stopped = some p) : c.code = p := by simp [Cmd.code, stopped]

/-- Only a command that the Rake halted has that code (R223). -/
theorem Cmd.code_halted_iff (c : Cmd) : c.code.1 = 7 ↔ ∃ sub, c.stopped = some (7, sub) := by
  cases stopped : c.stopped with
  | none =>
    simp only [Cmd.code, stopped, reduceCtorEq, exists_false, iff_false]
    split_ifs <;> decide
  | some p =>
    obtain ⟨code, sub⟩ := p
    simp [Cmd.code_of_stopped stopped]

/-- A signal that a command releases with writes that are still recorded. -/
def Core.relsWith (k : Core) (n : Nat) (ws : List Nat) : Core :=
  if ws.isEmpty then k else { k with relSig := Sparse.put [] k.relSig n (ws.foldl natIns (Sparse.look [] k.relSig n)) }

theorem Core.relsWith_engines (k : Core) (n : Nat) (ws : List Nat) : (k.relsWith n ws).engines = k.engines := by
  unfold Core.relsWith
  split <;> rfl

theorem Core.relsWith_sems (k : Core) (n : Nat) (ws : List Nat) : (k.relsWith n ws).sems = k.sems := by
  unfold Core.relsWith
  split <;> rfl

theorem Core.relsWith_ctxs (k : Core) (n : Nat) (ws : List Nat) : (k.relsWith n ws).ctxs = k.ctxs := by
  unfold Core.relsWith
  split <;> rfl

/-- Command `i` of a queue has left it, with its register written. -/
def State.withdrawn (u : State) (g ch i : Nat) (c : Cmd) : State :=
  ((u.updCore g (fun k => k.leaveQueue ch i c)).updCtx ⟨g, c.kind.seqr⟩ (fun x =>
    x.writeX (opNum c.o.d) (statusWord c.code.1 c.code.2 c.bad c.done))).updCore g (fun k =>
      k.relsWith c.h.ss.toNat (if c.ord.rel ∧ c.h.si ≠ 0 then u.cmdWrites g c else []))

section
variable {s u : State} {g ch i : Nat} {c : Cmd} (hu : u = s.settled g ch) (get : ((u.core g).queueOf ch)[i]? = some c)
include hu get

theorem State.engineComplete_stays (stays : u.canComplete g i c = false) : s.engineComplete g ch i = none := by
  rw [State.engineComplete, ← hu]
  dsimp only
  rw [get]
  simp [stays]

theorem State.engineComplete_leaves (leaves : u.canComplete g i c = true) : s.engineComplete g ch i =
    some (if c.code.1 = 7 then u.withdrawn g ch i c else (u.withdrawn g ch i c).signal g c.h) := by
  rw [State.engineComplete, ← hu]
  dsimp only
  rw [get]
  simp only [leaves, Bool.not_true, Bool.false_eq_true, if_false]
  rfl

end

section
variable (u : State) (g ch i : Nat) (c : Cmd)

theorem State.withdrawn_engines : Core.engines ((u.withdrawn g ch i c).core g) = ((u.core g).leaveQueue ch i c).engines := by
  have keeps : (u.updCore g (fun k => k.leaveQueue ch i c)).KeepsCores Core.engines (u.withdrawn g ch i c) :=
    .trans (.updCtx _ _ fun _ _ _ => rfl) (.updCore g fun k => k.relsWith_engines ..)
  rw [keeps g, State.core_updCore_same]

theorem State.withdrawn_sems : Core.sems ((u.withdrawn g ch i c).core g) = (u.core g).sems := by
  have keeps : (u.updCore g (fun k => k.leaveQueue ch i c)).KeepsCores Core.sems (u.withdrawn g ch i c) :=
    .trans (.updCtx _ _ fun _ _ _ => rfl) (.updCore g fun k => k.relsWith_sems ..)
  rw [keeps g, State.core_updCore_same, Core.leaveQueue_sems]

theorem State.withdrawn_x : ((u.withdrawn g ch i c).ctx ⟨g, c.kind.seqr⟩).x =
    (((u.updCore g (fun k => k.leaveQueue ch i c)).ctx ⟨g, c.kind.seqr⟩).writeX (opNum c.o.d)
      (statusWord c.code.1 c.code.2 c.bad c.done)).x := by
  have keeps : ((u.updCore g (fun k => k.leaveQueue ch i c)).updCtx ⟨g, c.kind.seqr⟩ (fun x =>
      x.writeX (opNum c.o.d) (statusWord c.code.1 c.code.2 c.bad c.done))).KeepsX (u.withdrawn g ch i c) :=
    .updCore_ctxs g fun k => k.relsWith_ctxs ..
  rw [keeps.x, State.ctx_updCtx_same]

/-- The register of the command reads its status word. -/
theorem State.withdrawn_status {r : Fin 64} (d : c.o.d = .x r) (nonzero : r ≠ 0) :
    (((u.withdrawn g ch i c).ctx ⟨g, c.kind.seqr⟩).getX r.val).val = statusWord c.code.1 c.code.2 c.bad c.done := by
  have x := u.withdrawn_x g ch i c
  rw [d] at x
  rw [Ctx.getX, x]
  exact congrArg Reg.val (Ctx.getX_writeS_same _ _ nonzero)

theorem State.withdrawn_mem : (u.withdrawn g ch i c).mem = u.mem := rfl

end

theorem State.signal_engines (s : State) (g : Nat) (h : Hdr) : s.KeepsCores Core.engines (s.signal g h) := by
  unfold State.signal
  split
  · exact .refl s
  · exact .updCore g fun _ => rfl

theorem State.KeepsX.signal (s : State) (g : Nat) (h : Hdr) : s.KeepsX (s.signal g h) := by
  unfold State.signal
  split
  · exact refl s
  · exact addSem ..

theorem State.signal_sem (s : State) (g : Nat) (h : Hdr) : (((s.signal g h).core g).sem h.ss.toNat).val.toNat =
    min 0xFFFF (((s.core g).sem h.ss.toNat).val.toNat + h.si.toNat) := by
  unfold State.signal
  split
  next none =>
    rw [none]
    have bound := ((s.core g).sem h.ss.toNat).val.isLt
    simp
    omega
  · rw [State.addSem, State.core_updCore_same]
    exact (Core.sem_addSem_same ..).1

/-- What a completion leaves, whether it signals or not. -/
theorem State.completed_keeps (u : State) (g ch i : Nat) (c : Cmd) (t : State)
    (ht : t = if c.code.1 = 7 then u.withdrawn g ch i c else (u.withdrawn g ch i c).signal g c.h) :
    (t.core g).engines = ((u.core g).leaveQueue ch i c).engines ∧ t.mem = u.mem ∧ (u.withdrawn g ch i c).KeepsX t := by
  have engines := u.withdrawn_engines g ch i c
  rw [ht]
  split
  · exact ⟨engines, rfl, .refl _⟩
  · exact ⟨((u.withdrawn g ch i c).signal_engines g c.h g).trans engines, State.signal_mem .., .signal ..⟩

/-- A command that can complete leaves its queue, wherever it stands in it, with D, its code and its signal (R135, R350). -/
theorem engineCommandCompletion_leaves {s u : State} {g ch i : Nat} {c : Cmd} (ev : s.ev = .three g ch i) (hu : u = s.settled g ch)
    (get : ((u.core g).queueOf ch)[i]? = some c) (leaves : u.canComplete g i c = true) :
    ∃ t, exec .engineCommandCompletion s = .next t ∧ (t.core g).queueOf ch = ((u.core g).queueOf ch).eraseIdx i ∧ t.mem = u.mem ∧
      (∀ r : Fin 64, c.o.d = .x r → r ≠ 0 →
        ((t.ctx ⟨g, c.kind.seqr⟩).getX r.val).val = statusWord c.code.1 c.code.2 c.bad c.done) ∧
      (ch = 4 → c.readsOnly = true → c.effected = false → c.stopped = none → c ∈ (t.core g).matrix.late) ∧
      ((∀ sub, c.stopped ≠ some (7, sub)) → ((t.core g).sem c.h.ss.toNat).val.toNat =
        min 0xFFFF (((u.core g).sem c.h.ss.toNat).val.toNat + c.h.si.toNat)) ∧
      (∀ sub, c.stopped = some (7, sub) → ∀ n, (t.core g).sem n = (u.core g).sem n) := by
  obtain ⟨t, ht⟩ : ∃ t, t = if c.code.1 = 7 then u.withdrawn g ch i c else (u.withdrawn g ch i c).signal g c.h := ⟨_, rfl⟩
  obtain ⟨engines, mem, x⟩ := u.completed_keeps g ch i c t ht
  have sem (n : Nat) : ((u.withdrawn g ch i c).core g).sem n = (u.core g).sem n := by
    rw [Core.sem, State.withdrawn_sems]
    rfl
  refine ⟨t, ?_, ?_, mem, fun r d nonzero => ?_, fun matrix reads owes runs => ?_, fun signals => ?_, fun sub halted n => ?_⟩
  · rw [exec_engineCommandCompletion ev, State.engineComplete_leaves hu get leaves, ht]
    rfl
  · rw [Core.queueOf_of_engines engines, Core.leaveQueue_queueOf]
  · rw [← u.withdrawn_status g ch i c d nonzero, Ctx.getX, Ctx.getX, x.x]
  · rw [show (t.core g).matrix = _ from congrArg Prod.snd engines]
    exact Core.mem_leaveQueue_late _ _ _ _ matrix reads owes runs
  · have code : c.code.1 ≠ 7 := fun halted => by
      obtain ⟨sub, stopped⟩ := c.code_halted_iff.1 halted
      exact signals sub stopped
    rw [ht, if_neg code, State.signal_sem, sem]
  · rw [ht, if_pos (c.code_halted_iff.2 ⟨sub, halted⟩), sem]

/-! ## Held faults (R351, R363) -/

/-- The end of a run changes matrix engines alone. -/
theorem State.dissolveRow_keeps {α : Type} {p : Core → α} (hp : ∀ (c : Core) m, p { c with matrix := m } = p c) (s : State) (a : Agent) :
    s.KeepsCores p (s.dissolveRow a) := by
  unfold State.dissolveRow
  dsimp only
  have joined : s.KeepsCores p (s.updCore a.gid (fun c => { c with matrix := { c.matrix with joined := true } })) := .updCore _ fun c => hp c _
  split
  · exact .refl s
  · split
    · refine joined.trans (.foldl (fun st k => ?_) _ _)
      exact .updCore k fun c => hp c _
    · exact joined

theorem State.dissolveRow_mem (s : State) (a : Agent) : (s.dissolveRow a).mem = s.mem := by
  unfold State.dissolveRow
  dsimp only
  split
  · rfl
  · split
    · exact (State.OnlyCores.trans (.updCore ..) (.foldl (fun st k => .updCore st k _) _ _)).mem
    · rfl

/-- A held fault joins those of the task, the copy sequencer's first. -/
def Core.holdFault (c : Core) (ctx : Nat) (f : TrapInfo) : Core := { c with faults := if ctx = 12 then f :: c.faults else c.faults ++ [f] }

theorem Core.holdFault_faults (c : Core) (ctx : Nat) (f : TrapInfo) :
    f ∈ (c.holdFault ctx f).faults ∧ (c.holdFault ctx f).faults.length = c.faults.length + 1 := by
  unfold Core.holdFault
  dsimp only
  split <;> simp

theorem sequencerFault_held {s : State} {a : Agent} {f : TrapInfo} (ev : s.ev = .agent a) (fault : (s.ctx a).sfault = some f) :
    ∃ t, exec .sequencerFault s = .next t ∧ (t.ctx a).live = false ∧ (t.ctx a).sfault = none ∧ f ∈ (t.core a.gid).faults ∧
      (t.core a.gid).faults.length = (s.core a.gid).faults.length + 1 ∧ t.mem = s.mem := by
  let ended := s.updCtx a (fun c => { c with live := false, busy := none, blk := none, sfault := none })
  let held := ended.updCore a.gid (fun c => c.holdFault a.ctx f)
  have ctxs : ((held.dissolveRow a).core a.gid).ctxs = (ended.core a.gid).ctxs := by
    rw [State.dissolveRow_keeps (p := Core.ctxs) (fun _ _ => rfl) held a a.gid, State.core_updCore_same]
    rfl
  have ctx : (held.dissolveRow a).ctx a = ended.ctx a := by rw [State.ctx, Core.ctx, ctxs]; rfl
  have faults : ((held.dissolveRow a).core a.gid).faults = ((s.core a.gid).holdFault a.ctx f).faults := by
    have kept : (ended.core a.gid).faults = (s.core a.gid).faults := State.KeepsCores.updCtx (p := Core.faults) a _ (fun _ _ _ => rfl) a.gid
    rw [State.dissolveRow_keeps (p := Core.faults) (fun _ _ => rfl) held a a.gid, State.core_updCore_same]
    simp only [Core.holdFault, kept]
  refine ⟨held.dissolveRow a, ?_, ?_, ?_, ?_, ?_, State.dissolveRow_mem ..⟩
  · rw [exec_sequencerFault ev, State.seqFault, fault]
    rfl
  · rw [ctx, State.ctx_updCtx_same]
  · rw [ctx, State.ctx_updCtx_same]
  · exact faults ▸ ((s.core a.gid).holdFault_faults a.ctx f).1
  · exact faults ▸ ((s.core a.gid).holdFault_faults a.ctx f).2

/-! ## Tickets (R155) -/

theorem State.stream_updStream_same (s : State) (cl st : Nat) (f : Stream → Stream) :
    ((s.updStream cl st f).cluster cl).stream st = f ((s.cluster cl).stream st) := by
  rw [State.updStream, State.cluster_updCluster_same, Cluster.stream, Sparse.look_put_same]

theorem ticketResolve_passes {s : State} {cl st : Nat} {r : BitVec 32 × List Nat} (ev : s.ev = .two cl st)
    (head : ((s.cluster cl).stream st).resolved.find? (fun r => r.1 == ((s.cluster cl).stream st).head) = some r)
    (landed : ∀ v ∈ s.invals, v.wid ∈ r.2 → v.target ≠ allCores ∧ gidCl v.target ≠ cl) :
    ∃ t, exec .ticketResolve s = .next t ∧ ((t.cluster cl).stream st).head = ((s.cluster cl).stream st).head + 1 ∧
      ((t.cluster cl).stream st).resolved = ((s.cluster cl).stream st).resolved.erase r ∧
      ((t.cluster cl).stream st).next = ((s.cluster cl).stream st).next ∧ t.mem = s.mem := by
  have none : ¬ s.invals.any (fun v => r.2.contains v.wid && (v.target == allCores || decide (gidCl v.target = cl))) = true := by
    simp only [List.any_eq_true, Bool.and_eq_true, Bool.or_eq_true, List.contains_iff_mem, beq_iff_eq, decide_eq_true_eq]
    rintro ⟨v, mem, listed, all | here⟩
    · exact (landed v mem listed).1 all
    · exact (landed v mem listed).2 here
  have passes := exec_ticketResolve ev
  rw [State.ticketResolve] at passes
  dsimp only at passes
  rw [head] at passes
  dsimp only at passes
  rw [if_neg none] at passes
  refine ⟨_, passes, ?_, ?_, ?_, rfl⟩
  all_goals rw [State.stream_updStream_same]

/-! ## Budgets (R222) -/

/-- A part of every context is the same. -/
def State.KeepsCtx {α : Type} (p : Ctx → α) (s t : State) : Prop := ∀ a, p (t.ctx a) = p (s.ctx a)

namespace State.KeepsCtx

variable {α : Type} {p : Ctx → α} {s t u : State}

theorem refl (s : State) : s.KeepsCtx p s := fun _ => rfl

theorem trans (first : s.KeepsCtx p t) (second : t.KeepsCtx p u) : s.KeepsCtx p u := fun a => (second a).trans (first a)

theorem of_cores (cores : t.cores = s.cores) : s.KeepsCtx p t := fun a => by rw [State.ctx, State.core_cores t s cores]; rfl

theorem updCore (g : Nat) {f : Core → Core} (hf : ∀ c i, p ((f c).ctx i) = p (c.ctx i)) : s.KeepsCtx p (s.updCore g f) := fun a => by
  rw [State.ctx, State.ctx]
  by_cases own : g = a.gid
  · rw [own, State.core_updCore_same, hf]
  · rw [State.core_updCore_ne s f own]

theorem updCore_ctxs (g : Nat) {f : Core → Core} (hf : ∀ c, (f c).ctxs = c.ctxs) : s.KeepsCtx p (s.updCore g f) :=
  updCore g fun c i => by rw [Core.ctx, hf]; rfl

theorem updCtx (a : Agent) {f : Ctx → Ctx} (hf : ∀ c, p (f c) = p c) : s.KeepsCtx p (s.updCtx a f) := fun b => by
  by_cases own : a = b
  · rw [own, State.ctx_updCtx_same, hf]
  · rw [State.ctx_updCtx_ne s f own]

end State.KeepsCtx

/-- A waiter that abandons its wait waits for no translation, and is the same else. -/
theorem Core.unwait_ctx (c : Core) (i j : Nat) : ∃ m, (c.unwait i).ctx j = { c.ctx j with missEA := m } := by
  simp only [Core.ctx, Core.unwait]
  induction c.ctxs with
  | nil => exact ⟨_, rfl⟩
  | cons e l ih =>
    rw [List.map_cons]
    split <;>
    · simp only [Sparse.look]
      split
      · exact ⟨_, rfl⟩
      · exact ih

theorem State.letGo_ctx {α : Type} {p : Ctx → α} (s : State) (a : Agent) : s.KeepsCtx p (s.letGo a) := by
  unfold State.letGo
  refine State.KeepsCtx.trans (t := { s with arrivals := s.arrivals.filter (fun r => r.agent ≠ a) }) (.of_cores rfl) ?_
  refine .updCore_ctxs a.gid fun c => ?_
  split <;> rfl

theorem State.letGo_sems (s : State) (a : Agent) : s.KeepsCores Core.sems (s.letGo a) := by
  unfold State.letGo
  refine State.KeepsCores.trans (t := { s with arrivals := s.arrivals.filter (fun r => r.agent ≠ a) }) (.of_cores rfl) ?_
  refine .updCore a.gid fun c => ?_
  split <;> rfl

theorem State.abandon_budg (s : State) (a : Agent) : s.KeepsCtx Ctx.budg (s.abandon a) := by
  unfold State.abandon
  split
  · exact .refl s
  · refine .trans (.updCtx a fun c => ?_) (.updCore_ctxs a.gid fun c => ?_) <;> rfl

theorem State.abandon_sems (s : State) (a : Agent) : s.KeepsCores Core.sems (s.abandon a) := by
  unfold State.abandon
  split
  · exact .refl s
  · exact .trans (.updCtx a _ fun _ _ _ => rfl) (.updCore a.gid fun c => rfl)

/-- An abandoned region is open no more (R156). -/
theorem State.abandon_region (s : State) (a : Agent) : ((s.abandon a).ctx a).region = none := by
  unfold State.abandon
  split
  next closed => exact closed
  next r opened =>
    have kept (t : State) : t.KeepsCtx Ctx.region (t.updCore a.gid (fun c => { c with pcntAbnd := c.pcntAbnd + 1 })) :=
      .updCore_ctxs a.gid fun _ => rfl
    rw [kept, State.ctx_updCtx_same]

theorem State.abortTicket_ctx {α : Type} {p : Ctx → α} (hp : ∀ c pres prgn, p { c with pres := pres, prgn := prgn } = p c) (s : State)
    (a : Agent) : s.KeepsCtx p (s.abortTicket a) := by
  unfold State.abortTicket State.resolve
  dsimp only
  split
  · exact .trans (.updCtx a fun c => hp c _ _) (.of_cores (State.updStream_cores ..))
  · exact .refl s

theorem State.abortTicket_sems (s : State) (a : Agent) : s.KeepsCores Core.sems (s.abortTicket a) := by
  unfold State.abortTicket State.resolve
  dsimp only
  split
  · exact .trans (.updCtx a _ fun _ _ _ => rfl) (.of_cores (State.updStream_cores ..))
  · exact .refl s

/-- A helper's end is told to its semaphore, and the helper waits for nothing. -/
def State.tellEnd (s : State) (a : Agent) : State :=
  s.updCore a.gid (fun k => (k.addSem (s.ctx a).budg.sem.toNat 1).unwait a.ctx)

/-- A helper stands ended, with its record. -/
def Ctx.endsWith (c : Ctx) (kind : Nat) : Ctx :=
  { c.stop with budg := { c.budg with ended := true, kind := BitVec.ofNat 5 kind, arm := false } }

theorem Ctx.endsWith_region (c : Ctx) (kind : Nat) : (c.endsWith kind).region = c.region := rfl

theorem State.endHelper_eq (s : State) (a : Agent) (kind : Nat) : s.endHelper a kind =
    (((((s.addBack a (s.ctx a).curHdr).abandon a).letGo a).tellEnd a).abortTicket a).updCtx a (fun c => c.endsWith kind) := rfl

theorem State.tellEnd_region (s : State) (a : Agent) : s.KeepsCtx Ctx.region (s.tellEnd a) :=
  .updCore a.gid fun c j => by
    obtain ⟨m, same⟩ := (c.addSem (s.ctx a).budg.sem.toNat 1).unwait_ctx a.ctx j
    rw [same]
    rfl

theorem State.tellEnd_sems (s : State) (a : Agent) :
    ((s.tellEnd a).core a.gid).sems = ((s.core a.gid).addSem (s.ctx a).budg.sem.toNat 1).sems := by
  rw [State.tellEnd, State.core_updCore_same]
  rfl

/-- A helper that has ended has its record, and no region (R156, R222). -/
theorem State.endHelper_ended (s : State) (a : Agent) (kind : Nat) :
    ((s.endHelper a kind).ctx a).live = false ∧ ((s.endHelper a kind).ctx a).budg.ended = true ∧
      ((s.endHelper a kind).ctx a).budg.kind = BitVec.ofNat 5 kind ∧ ((s.endHelper a kind).ctx a).budg.arm = false ∧
      ((s.endHelper a kind).ctx a).region = none := by
  rw [State.endHelper_eq, State.ctx_updCtx_same]
  refine ⟨rfl, rfl, rfl, rfl, ?_⟩
  have closed := (s.addBack a (s.ctx a).curHdr).abandon_region a
  have kept := (((State.letGo_ctx (p := Ctx.region) ((s.addBack a (s.ctx a).curHdr).abandon a) a).trans (State.tellEnd_region _ a)).trans
    (State.abortTicket_ctx (fun _ _ _ => rfl) _ a)) a
  rw [Ctx.endsWith_region, kept, closed]

/-- Its semaphore gains one, when no wait count is given back. -/
theorem State.endHelper_sem (s : State) (a : Agent) (kind : Nat) (untaken : (s.ctx a).waitTaken = false) :
    (((s.endHelper a kind).core a.gid).sem (s.ctx a).budg.sem.toNat).val.toNat =
      min 0xFFFF (((s.core a.gid).sem (s.ctx a).budg.sem.toNat).val.toNat + 1) := by
  have back : s.addBack a (s.ctx a).curHdr = s := by simp [State.addBack, untaken]
  have budg : (((s.abandon a).letGo a).ctx a).budg = (s.ctx a).budg := ((State.abandon_budg s a).trans (State.letGo_ctx _ a)) a
  have before : (((s.abandon a).letGo a).core a.gid).sems = (s.core a.gid).sems := ((s.abandon_sems a).trans (State.letGo_sems _ a)) a.gid
  have after := (State.KeepsCores.trans (State.abortTicket_sems (((s.abandon a).letGo a).tellEnd a) a)
    (.updCtx a (fun c => c.endsWith kind) fun _ _ _ => rfl)) a.gid
  have told := Core.sem_addSem_same (((s.abandon a).letGo a).core a.gid) (s.ctx a).budg.sem.toNat 1
  rw [State.tellEnd_sems, budg] at after
  rw [State.endHelper_eq, back, Core.sem, after]
  rw [Core.sem, Core.sem, before] at told
  exact told.1

section
variable {s : State} {a : Agent} (ev : s.ev = .agent a)
include ev

/-- A stop of the Rake, a rollback and a forced save come first (R209). -/
theorem budgetExpiry_later
    (later : (s.core a.gid).stopped = true ∨ (s.core a.gid).failed = true ∨ (s.core a.gid).saving = 2 ∨ s.saveDue a.gid = true) :
    exec .budgetExpiry s = .fault (.notEnabled "BUDGET_EXPIRY") := by
  rw [exec_budgetExpiry ev, State.budgetExpiry, if_neg]
  · rfl
  · rintro ⟨-, -, -, -, -, -, stopped, failed, saving, due⟩
    rcases later with stop | fail | save | owed
    · simp [stop] at stopped
    · simp [fail] at failed
    · exact saving save
    · simp [owed] at due

theorem budgetExpiry_ends (low : 1 ≤ a.ctx) (high : a.ctx ≤ 10) (live : (s.ctx a).live = true) (arm : (s.ctx a).budg.arm = true)
    (used : (s.ctx a).budg.cnt = 0) (boundary : (s.ctx a).runsOn = false) (stopped : (s.core a.gid).stopped = false)
    (failed : (s.core a.gid).failed = false) (saving : (s.core a.gid).saving ≠ 2) (due : s.saveDue a.gid = false) :
    exec .budgetExpiry s = .next (s.endHelper a 8) := by
  rw [exec_budgetExpiry ev, State.budgetExpiry, if_pos]
  · rfl
  · simp [low, high, live, arm, used, boundary, stopped, failed, saving, due]

end

/-- Settles O53: each event by what its move does once it is enabled. -/
theorem completionEvents : Obligations.CompletionEvents := by
  unfold Obligations.CompletionEvents
  intro s has
  refine ⟨?_, ?_, ?_, ?_, ?_, ?_⟩
  · rintro g i c early due ready runs t rfl
    exact State.settle_due early due ready runs
  · rintro g c late t rfl
    exact State.settle_late late
  · intro g ch i c u ev hu get inside
    refine ⟨fun stays => ?_, fun leaves => ?_⟩
    · rw [exec_engineCommandCompletion ev, State.engineComplete_stays hu get stays]
      rfl
    · obtain ⟨t, next, queue, mem, status, kept, signals, quiet⟩ := engineCommandCompletion_leaves ev hu get leaves
      exact ⟨t, next, queue, mem, status, fun p => Cmd.code_of_stopped, Cmd.code_of_runs, kept, signals, quiet⟩
  · intro a f ev fault
    exact sequencerFault_held ev fault
  · intro cl st r ev head landed
    exact ticketResolve_passes ev head landed
  · intro a ev low high live arm used boundary
    refine ⟨budgetExpiry_later ev, fun stopped failed saving due => ?_⟩
    obtain ⟨dead, ended, kind, disarmed, region⟩ := s.endHelper_ended a 8
    exact ⟨_, budgetExpiry_ends ev low high live arm used boundary stopped failed saving due, dead, ended, kind, disarmed, region,
      s.endHelper_sem a 8, (State.KeepsOut.endHelper s a 8).mem⟩

end Sys2Proof.Machine
end

section
/-! PROOFS. Barriers that pass, collectives that run and rows that form (R120, R138, R167, R270, R271, R363, R366, R368, R369). -/

namespace Sys2Proof.Machine

open Sys2Proof

theorem exec_barPass {s : State} {a : Agent} (ev : s.ev = .agent a) : exec .barPass s = event "BAR_PASS" (s.barPass a) := by
  show execBarPass s = _
  rw [execBarPass, ev]

theorem exec_collectiveAllArrived {s : State} {part grp : Nat} (ev : s.ev = .two part grp) :
    exec .collectiveAllArrived s = event "COLLECTIVE_ALL_ARRIVED" (s.collectiveRun part grp) := by
  show execCollectiveAllArrived s = _
  rw [execCollectiveAllArrived, ev]

theorem exec_jointRowFormed {s : State} {g : Nat} (ev : s.ev = .one g) : exec .jointRowFormed s = event "JOINT_ROW_FORMED" (s.formRow g) := by
  show execJointRowFormed s = _
  rw [execJointRowFormed, ev]

theorem State.OnlyCores.dev {s t : State} (only : s.OnlyCores t) : t.dev = s.dev := by rw [only.eq]

/-! ## A context released from a barrier -/

theorem Ctx.advance_busy (c : Ctx) : c.advance.busy = none := by
  unfold Ctx.advance
  split <;> rfl

theorem State.retire_ctx_ne (s : State) {a b : Agent} (h : Hdr) (other : a ≠ b) : (s.retire a h).ctx b = s.ctx b := by
  rw [State.retire, State.ctx_updCtx_ne _ _ other, State.signalNext_ctx]

theorem State.retire_keeps {α : Type} {p : Core → α} (hc : ∀ c i x, p (c.setCtx i x) = p c)
    (hs : ∀ (c : Core) l, p { c with semAdds := l } = p c) (s : State) (a : Agent) (h : Hdr) : s.KeepsCores p (s.retire a h) := by
  unfold State.retire State.signalNext
  refine .trans ?_ (.updCtx a _ hc)
  split
  · exact .refl s
  · exact .updCore a.gid fun c => hs c _

section
variable {s : State} {a b : Agent} {h : Hdr} {d : Operand} {f : Operand → Ctx → Ctx}

theorem State.release_ctx_same (waits : (s.ctx a).busy = some (.barrier h d)) : (s.release a f).ctx a = (f d (s.ctx a)).advance := by
  rw [State.release, waits]
  dsimp only
  rw [State.retire_ctx, State.ctx_updCtx_same]

theorem State.release_of_idle (idle : (s.ctx a).busy = none) : s.release a f = s := by
  rw [State.release, idle]

theorem State.release_ctx_ne (other : a ≠ b) : (s.release a f).ctx b = s.ctx b := by
  unfold State.release
  split
  · rw [State.retire_ctx_ne _ _ other, State.ctx_updCtx_ne _ _ other]
  · rfl

theorem State.release_keeps {α : Type} {p : Core → α} (hc : ∀ c i x, p (c.setCtx i x) = p c)
    (hs : ∀ (c : Core) l, p { c with semAdds := l } = p c) (s : State) (a : Agent) (f : Operand → Ctx → Ctx) :
    s.KeepsCores p (s.release a f) := by
  unfold State.release
  split
  · exact .trans (.updCtx a _ hc) (State.retire_keeps hc hs _ a _)
  · exact .refl s

end

/-! ## Exchange phases (R366) -/

/-- The phases of a core with its late instructions. -/
def Core.phases (c : Core) : Option Phase × List Phase × Nat := (c.phase, c.pastPhases, c.lateCount)

/-- What opening a phase makes of them. -/
def openPhases (ph : Phase) (x : Option Phase × List Phase × Nat) : Option Phase × List Phase × Nat :=
  if x.1 = some ph then x else (some ph, x.2.1 ++ x.1.toList, 0)

theorem Core.openPhase_phases (c : Core) (ph : Phase) : (c.openPhase ph).phases = openPhases ph c.phases := by
  unfold Core.openPhase openPhases
  split
  next same => exact (if_pos same).symm
  next other => exact (if_neg other).symm

theorem Core.openPhase_ctxs (c : Core) (ph : Phase) : (c.openPhase ph).ctxs = c.ctxs := by
  unfold Core.openPhase
  split <;> rfl

theorem openPhases_opens (ph : Phase) (x : Option Phase × List Phase × Nat) : (openPhases ph x).1 = some ph := by
  unfold openPhases
  split
  next same => exact same
  · rfl

/-- The second context that passes finds the phase open. -/
theorem openPhases_idem (ph : Phase) (x : Option Phase × List Phase × Nat) : openPhases ph (openPhases ph x) = openPhases ph x :=
  if_pos (openPhases_opens ph x)

/-! ## A barrier passes (R138, R270) -/

/-- An exchange phase opens on the core of an arrival at one. -/
def State.opensFor (acc : State) (r : Arrival) : State :=
  match r.kind with
  | .xphase _ _ len => acc.updCore r.agent.gid (fun c => c.openPhase ⟨acc.dev.cyc + 1, len, r.members, [], [], 0⟩)
  | _ => acc

/-- What a context that passes a barrier at a state takes with it. -/
def State.passing (s : State) (r : Arrival) (d : Operand) (c : Ctx) : Ctx :=
  match r.kind with
  | .xphase _ _ _ => (c.passed r.scope s.now).writeS d (wd (s.core r.agent.gid).lateCount)
  | _ => c.passed r.scope s.now

/-- One arrival at a barrier that passes at a state. -/
def State.passOne (s acc : State) (r : Arrival) : State := (acc.opensFor r).release r.agent (s.passing r)

/-- The arrivals at a barrier of this device and of peers are gone. -/
def State.passedBy (s : State) (r0 : Arrival) : State :=
  { s with
    arrivals := s.arrivals.filter (fun r => !sameBarrier r0 r)
    remote := s.remote.filter (fun q => !s.meets q r0) }

section
variable {s : State} {a : Agent} {r0 : Arrival} (found : s.arrivals.find? (fun r => r.agent == a && sameBarrier r r) = some r0)
include found

theorem State.barPass_waits (waits : s.allArrived r0 (s.arrivals.filter (sameBarrier r0)) = false) : s.barPass a = none := by
  rw [State.barPass, found]
  simp [waits]

theorem State.barPass_passes (arrived : s.allArrived r0 (s.arrivals.filter (sameBarrier r0)) = true)
    (released : ∀ r ∈ s.arrivals.filter (sameBarrier r0), relDone s r.agent r.scope (s.ctx r.agent).seq = true) :
    s.barPass a = some ((s.arrivals.filter (sameBarrier r0)).foldl s.passOne (s.passedBy r0)) := by
  have all : (s.arrivals.filter (sameBarrier r0)).all (fun r => relDone s r.agent r.scope (s.ctx r.agent).seq) = true :=
    List.all_eq_true.2 released
  rw [State.barPass, found]
  dsimp only
  rw [if_neg (by rw [arrived, all]; decide)]
  refine congrArg some (congrArg (fun f => List.foldl f _ _) (funext fun acc => funext fun r => ?_))
  unfold State.passOne State.opensFor
  cases kind : r.kind <;> dsimp only
  all_goals
    refine congrArg _ (funext fun d => funext fun c => ?_)
    rw [State.passing, kind]

theorem agent_of_find : r0.agent = a ∧ r0 ∈ s.arrivals.filter (sameBarrier r0) := by
  have holds := List.find?_some found
  simp only [Bool.and_eq_true, beq_iff_eq] at holds
  exact ⟨holds.1, List.mem_filter.2 ⟨List.mem_of_find?_eq_some found, holds.2⟩⟩

end

section
variable (s acc : State) (r : Arrival)

theorem State.opensFor_only : acc.OnlyCores (acc.opensFor r) := by
  unfold State.opensFor
  split
  · exact .updCore ..
  · exact .refl acc

theorem State.opensFor_ctx (b : Agent) : (acc.opensFor r).ctx b = acc.ctx b := by
  unfold State.opensFor
  split
  · exact State.KeepsCtx.updCore_ctxs (p := id) r.agent.gid (fun c => c.openPhase_ctxs _) b
  · rfl

theorem State.passing_samePlace (d : Operand) (c : Ctx) : c.SamePlace (s.passing r d c) := by
  unfold State.passing
  split
  · refine Ctx.SamePlace.trans ?_ (Ctx.samePlace_writeS ..)
    exact ⟨rfl, rfl, rfl⟩
  · exact ⟨rfl, rfl, rfl⟩

theorem State.passOne_only : acc.OnlyCores (s.passOne acc r) := (acc.opensFor_only r).trans (.release ..)

theorem State.passOne_ctx_ne {b : Agent} (other : r.agent ≠ b) : (s.passOne acc r).ctx b = acc.ctx b :=
  (State.release_ctx_ne other).trans (acc.opensFor_ctx r b)

theorem State.passOne_idle (idle : (acc.ctx r.agent).busy = none) : (s.passOne acc r).ctx r.agent = acc.ctx r.agent := by
  have same := acc.opensFor_ctx r r.agent
  rw [State.passOne, State.release_of_idle (same.symm ▸ idle), same]

theorem State.passOne_ctx_same {h : Hdr} {d : Operand} (waits : (acc.ctx r.agent).busy = some (.barrier h d)) :
    (s.passOne acc r).ctx r.agent = (s.passing r d (acc.ctx r.agent)).advance := by
  have same := acc.opensFor_ctx r r.agent
  rw [State.passOne, State.release_ctx_same (same.symm ▸ waits), same]

/-- The phases of a core: those of others stay, and so do its own at a barrier that opens none. -/
theorem State.passOne_phases (g : Nat) : Core.phases ((s.passOne acc r).core g) =
    match r.kind with
    | .xphase _ _ len =>
      if r.agent.gid = g then openPhases ⟨acc.dev.cyc + 1, len, r.members, [], [], 0⟩ (acc.core g).phases else (acc.core g).phases
    | _ => (acc.core g).phases := by
  have kept : Core.phases ((s.passOne acc r).core g) = Core.phases ((acc.opensFor r).core g) :=
    State.release_keeps (fun _ _ _ => rfl) (fun _ _ => rfl) _ _ _ g
  rw [kept, State.opensFor]
  split
  · split
    next own => rw [own, State.core_updCore_same, Core.openPhase_phases]
    next other => rw [State.core_updCore_ne _ _ other]
  · rfl

end

section
variable {s : State} {rs : List Arrival}

theorem State.passAll_only (s : State) (rs : List Arrival) (acc : State) : acc.OnlyCores (rs.foldl s.passOne acc) :=
  .foldl (fun acc r => s.passOne_only acc r) rs acc

theorem State.passAll_ctx_ne {b : Agent} (other : ∀ r ∈ rs, r.agent ≠ b) (acc : State) : (rs.foldl s.passOne acc).ctx b = acc.ctx b := by
  induction rs generalizing acc with
  | nil => rfl
  | cons r rs ih =>
    obtain ⟨first, rest⟩ := List.forall_mem_cons.1 other
    exact (ih rest _).trans (s.passOne_ctx_ne acc r first)

theorem State.passAll_idle {b : Agent} (acc : State) (idle : (acc.ctx b).busy = none) : (rs.foldl s.passOne acc).ctx b = acc.ctx b := by
  induction rs generalizing acc with
  | nil => rfl
  | cons r rs ih =>
    have same : (s.passOne acc r).ctx b = acc.ctx b := by
      by_cases own : r.agent = b
      · subst own
        exact s.passOne_idle acc r idle
      · exact s.passOne_ctx_ne acc r own
    exact (ih _ (same.symm ▸ idle)).trans same

/-- Every context that waits at the barrier moves on. -/
theorem State.passAll_released {r : Arrival} (mem : r ∈ rs) (acc : State) {h : Hdr} {d : Operand}
    (waits : (acc.ctx r.agent).busy = some (.barrier h d)) :
    (acc.ctx r.agent).Advanced ((rs.foldl s.passOne acc).ctx r.agent) ∧ ((rs.foldl s.passOne acc).ctx r.agent).busy = none := by
  induction rs generalizing acc with
  | nil => exact absurd mem List.not_mem_nil
  | cons q rs ih =>
    by_cases own : q.agent = r.agent
    · rw [← own] at waits ⊢
      have moved := s.passOne_ctx_same acc q waits
      have idle : ((s.passOne acc q).ctx q.agent).busy = none := moved ▸ Ctx.advance_busy _
      rw [List.foldl_cons, State.passAll_idle _ idle]
      exact ⟨moved ▸ (s.passing_samePlace q d _).advanced, idle⟩
    · have rest : r ∈ rs := by
        rcases List.mem_cons.1 mem with rfl | rest
        · exact absurd rfl own
        · exact rest
      have same := s.passOne_ctx_ne acc q own
      exact same ▸ ih rest (s.passOne acc q) (same.symm ▸ waits)

/-- With one arrival of each context, what it takes with it is what it passes with. -/
theorem State.passAll_ctx {r : Arrival} (mem : r ∈ rs) (once : (rs.map (fun r => r.agent)).Nodup) (acc : State) {h : Hdr} {d : Operand}
    (waits : (acc.ctx r.agent).busy = some (.barrier h d)) :
    (rs.foldl s.passOne acc).ctx r.agent = (s.passing r d (acc.ctx r.agent)).advance := by
  obtain ⟨before, after, rfl⟩ := List.append_of_mem mem
  rw [List.map_append, List.map_cons, List.nodup_middle, List.nodup_cons] at once
  have apart : ∀ q ∈ before ++ after, q.agent ≠ r.agent := fun q hq same =>
    once.1 (List.mem_append.2 ((List.mem_append.1 hq).imp (fun m => List.mem_map.2 ⟨q, m, same⟩) (fun m => List.mem_map.2 ⟨q, m, same⟩)))
  have first := State.passAll_ctx_ne (s := s) (fun q hq => apart q (List.mem_append_left _ hq)) acc
  rw [List.foldl_append, List.foldl_cons, State.passAll_ctx_ne (fun q hq => apart q (List.mem_append_right _ hq)),
    State.passOne_ctx_same _ _ _ (first.symm ▸ waits), first]

/-- On core `g` an arrival opens the phase `ph`, if any. -/
def Arrival.Opens (r : Arrival) (ph : Phase) (g : Nat) : Prop :=
  r.agent.gid = g → ∀ w c n, r.kind = .xphase w c n → ph = ⟨ph.start, n, r.members, [], [], 0⟩

section
variable {ph : Phase} {g : Nat}

theorem State.passOne_phases_opens {acc : State} {r : Arrival} (opens : r.Opens ph g) (starts : ph.start = acc.dev.cyc + 1)
    (own : r.agent.gid = g) {w : Word} {c : Bool} {n : Nat} (kind : r.kind = .xphase w c n) :
    Core.phases ((s.passOne acc r).core g) = openPhases ph (acc.core g).phases := by
  rw [State.passOne_phases, kind]
  dsimp only
  rw [if_pos own, opens own w c n kind, ← starts]

theorem State.passOne_phases_cases {acc : State} {r : Arrival} (opens : r.Opens ph g) (starts : ph.start = acc.dev.cyc + 1) :
    Core.phases ((s.passOne acc r).core g) = (acc.core g).phases ∨
      Core.phases ((s.passOne acc r).core g) = openPhases ph (acc.core g).phases := by
  by_cases own : r.agent.gid = g
  · cases kind : r.kind
    case xphase => exact .inr (State.passOne_phases_opens opens starts own kind)
    all_goals
      left
      rw [State.passOne_phases, kind]
  · left
    rw [State.passOne_phases]
    split
    · exact if_neg own
    · rfl

/-- Arrivals of one phase open it at most once. -/
theorem State.passAll_phases_cases (opens : ∀ r ∈ rs, r.Opens ph g) (acc : State) (starts : ph.start = acc.dev.cyc + 1) :
    Core.phases ((rs.foldl s.passOne acc).core g) = (acc.core g).phases ∨
      Core.phases ((rs.foldl s.passOne acc).core g) = openPhases ph (acc.core g).phases := by
  induction rs generalizing acc with
  | nil => exact .inl rfl
  | cons r rs ih =>
    obtain ⟨first, rest⟩ := List.forall_mem_cons.1 opens
    have later : ph.start = (s.passOne acc r).dev.cyc + 1 := (congrArg (fun d : Device => d.cyc + 1) (s.passOne_only acc r).dev).symm ▸ starts
    rcases State.passOne_phases_cases (s := s) first starts with same | opened
    · exact same ▸ ih rest _ later
    · right
      rcases ih rest _ later with same | again
      · exact same.trans opened
      · exact again.trans (by rw [opened, openPhases_idem])

/-- They open it when one of them is an exchange phase on the core. -/
theorem State.passAll_phases (opens : ∀ r ∈ rs, r.Opens ph g) (acc : State) (starts : ph.start = acc.dev.cyc + 1) {r : Arrival}
    (mem : r ∈ rs) (own : r.agent.gid = g) {w : Word} {c : Bool} {n : Nat} (kind : r.kind = .xphase w c n) :
    Core.phases ((rs.foldl s.passOne acc).core g) = openPhases ph (acc.core g).phases := by
  obtain ⟨before, after, rfl⟩ := List.append_of_mem mem
  have first := State.passAll_phases_cases (s := s) (fun q hq => opens q (List.mem_append_left _ hq)) acc starts
  have dev := (s.passAll_only before acc).dev
  have later : ph.start = (before.foldl s.passOne acc).dev.cyc + 1 := dev.symm ▸ starts
  have dev1 := (s.passOne_only (before.foldl s.passOne acc) r).dev
  have last := State.passAll_phases_cases (s := s) (fun q hq => opens q (List.mem_append_right _ (List.mem_cons_of_mem r hq)))
    (s.passOne (before.foldl s.passOne acc) r) (dev1.symm ▸ later)
  have opened : Core.phases ((s.passOne (before.foldl s.passOne acc) r).core g) = openPhases ph (acc.core g).phases := by
    rw [State.passOne_phases_opens (opens r mem) later own kind]
    rcases first with same | open1
    · rw [same]
    · rw [open1, openPhases_idem]
  rw [List.foldl_append, List.foldl_cons]
  rcases last with same | again
  · exact same.trans opened
  · rw [again, opened, openPhases_idem]

end

/-- Arrivals at the barrier of an exchange phase name its members. -/
theorem members_of_sameBarrier {r0 r : Arrival} (same : sameBarrier r0 r = true) {w : Word} {c : Bool} {n : Nat}
    (kind : r0.kind = .xphase w c n) : r.members = r0.members := by
  unfold sameBarrier at same
  rw [kind] at same
  simp only [Bool.and_eq_true, beq_iff_eq] at same
  obtain ⟨⟨⟨_, members⟩, _⟩, _⟩ := same
  exact members.symm

end

/-- The phase of an exchange barrier that passes opens on the core, and each of its contexts takes the late instructions of the one
before (R366). -/
theorem barPass_opens {s : State} {r0 : Arrival} {rs : List Arrival} {a : Agent} {w : Word} {c : Bool} {len : Nat} {ph : Phase}
    (mem : r0 ∈ rs) (own : r0.agent = a) (kind : r0.kind = .xphase w c len) (same : ∀ r ∈ rs, sameBarrier r0 r = true)
    (opens : ∀ r ∈ rs, r.agent.gid = a.gid → ∀ w2 c2 n, r.kind = .xphase w2 c2 n → n = len)
    (hph : ph = ⟨s.dev.cyc + 1, len, r0.members, [], [], 0⟩) :
    let t := rs.foldl s.passOne (s.passedBy r0)
    (t.core a.gid).phase = some ph ∧
      ((s.core a.gid).phase ≠ some ph →
        (t.core a.gid).lateCount = 0 ∧ (t.core a.gid).pastPhases = (s.core a.gid).pastPhases ++ (s.core a.gid).phase.toList) ∧
      ((rs.map (fun r => r.agent)).Nodup → ∀ {r : Arrival}, r ∈ rs → r.agent.gid = a.gid → ∀ {w2 : Word} {c2 : Bool} {n : Nat} {h : Hdr}
        {d : Fin 64}, r.kind = .xphase w2 c2 n → (s.ctx r.agent).busy = some (.barrier h (.x d)) → d ≠ 0 →
          ((t.ctx r.agent).getX d.val).val = BitVec.ofNat 64 (s.core a.gid).lateCount) := by
  intro t
  have one : ∀ r ∈ rs, r.Opens ph a.gid := fun r hr here w2 c2 n k => by
    rw [hph, opens r hr here w2 c2 n k, members_of_sameBarrier (same r hr) kind]
  have starts : ph.start = (s.passedBy r0).dev.cyc + 1 := by rw [hph]; rfl
  have phases : Core.phases (t.core a.gid) = openPhases ph (s.core a.gid).phases :=
    State.passAll_phases one (s.passedBy r0) starts mem (congrArg Agent.gid own) kind
  refine ⟨?_, fun other => ?_, fun once r hr here w2 c2 n h d k waits nonzero => ?_⟩
  · exact (congrArg Prod.fst phases).trans (openPhases_opens ..)
  · have fresh : openPhases ph (s.core a.gid).phases = (some ph, (s.core a.gid).pastPhases ++ (s.core a.gid).phase.toList, 0) := if_neg other
    have rest := congrArg Prod.snd (phases.trans fresh)
    exact ⟨congrArg Prod.snd rest, congrArg Prod.fst rest⟩
  · rw [State.passAll_ctx hr once (s.passedBy r0) waits, State.passing, k]
    dsimp only
    rw [Ctx.getX_advance, Ctx.getX_writeS_same _ _ nonzero, here]
    rfl

/-! ## The members of a barrier on peer devices (R120, R271) -/

section
variable {s : State} {r : Arrival} {w : Word} {core : Bool} (kind : r.kind = .bar w core)
include kind

theorem mem_farDevs_iff (p : Nat) : p ∈ s.farDevs r ↔ p < 16 ∧ r.w0.getLsbD p = true := by
  rw [State.farDevs, kind]
  simp [bit]

theorem farRect_bar : r.farRect = if core = false ∧ w.extractLsb' 32 8 = 0xFF then rectCores w else [] := by
  have every : bits w 39 32 = 255 ↔ w.extractLsb' 32 8 = 0xFF := by
    rw [bits_eq_toNat_extract, BitVec.toNat_eq]
    rfl
  rw [Arrival.farRect, kind]
  simp [every]

theorem farArrived_iff : s.farArrived r = true ↔
    ∀ p ∈ s.farDevs r, ∀ m ∈ r.farRect, ∃ q ∈ s.remote, q.dev = p ∧ q.gid = m ∧ s.meets q r = true := by
  rw [State.farArrived, kind]
  simp [and_assoc]

end

/-! ## The result of a collective (R167, R368) -/

/-- Part `r` of equal parts that stand one after the other. -/
theorem part_flatMap {α β : Type} (l : List α) (f : α → List β) (n : Nat) (even : ∀ x ∈ l, (f x).length = n) {r : Nat} (inside : r < l.length) :
    ((l.flatMap f).drop (r * n)).take n = f l[r] := by
  induction l generalizing r with
  | nil => exact absurd inside (Nat.not_lt_zero r)
  | cons x l ih =>
    obtain ⟨first, rest⟩ := List.forall_mem_cons.1 even
    rw [List.flatMap_cons]
    cases r with
    | zero => rw [Nat.zero_mul, List.drop_zero, ← first, List.take_left, List.getElem_cons_zero]
    | succ r =>
      have past : (r + 1) * n = (f x).length + r * n := by rw [first]; ring
      rw [past, List.drop_length_add_append, List.getElem_cons_succ]
      exact ih rest (Nat.lt_of_succ_lt_succ inside)

theorem length_toBytes (n v : Nat) : (toBytes n v).length = n := by
  induction n generalizing v with
  | zero => rfl
  | succ n ih => rw [toBytes, List.length_cons, ih]

theorem ofBytes_toBytes (n v : Nat) : ofBytes (toBytes n v) = v % 2 ^ (8 * n) := by
  induction n generalizing v with
  | zero => simp [toBytes, ofBytes, Nat.mod_one]
  | succ n ih =>
    have split : 2 ^ (8 * (n + 1)) = 256 * 2 ^ (8 * n) := by rw [Nat.mul_succ, Nat.pow_add]; ring
    rw [toBytes, ofBytes, ih, BitVec.toNat_ofNat, split, Nat.mod_mul]

theorem ofBytes_lt (l : List Byte) : ofBytes l < 2 ^ (8 * l.length) := by
  induction l with
  | nil => simp [ofBytes]
  | cons b l ih =>
    have bound := b.isLt
    have split : 2 ^ (8 * (l.length + 1)) = 256 * 2 ^ (8 * l.length) := by rw [Nat.mul_succ, Nat.pow_add]; ring
    rw [ofBytes, List.length_cons, split]
    omega

/-- A signed reading differs from the number by a multiple of the modulus. -/
theorem sext_emod (w n : Nat) : sext w n % ((2 ^ w : Nat) : Int) = ((n % 2 ^ w : Nat) : Int) := by
  unfold sext
  dsimp only
  split
  · rw [Int.sub_emod, Int.emod_self, Int.sub_zero, Int.emod_emod, Int.emod_eq_of_lt (Int.natCast_nonneg _)]
    exact Int.ofNat_lt.2 (Nat.mod_lt _ (Nat.two_pow_pos w))
  · rw [← Int.natCast_emod, Nat.mod_mod]

theorem decodeI_emod (f n : Nat) : decodeI f n % ((2 ^ fmtBits f : Nat) : Int) = ((n % 2 ^ fmtBits f : Nat) : Int) := by
  unfold decodeI
  split
  · exact sext_emod _ n
  · rw [← Int.natCast_emod, Nat.mod_mod]

/-- One addition of an integer sum. -/
theorem addI_mod (f x y : Nat) :
    ((decodeI f x + decodeI f y) % ((2 ^ fmtBits f : Nat) : Int)).toNat = (x + y) % 2 ^ fmtBits f := by
  rw [Int.add_emod, decodeI_emod, decodeI_emod, ← Int.natCast_add, ← Int.natCast_emod, Int.toNat_natCast, ← Nat.add_mod]

theorem foldl_add_mod (m : Nat) (l : List Nat) {x y : Nat} (same : x % m = y % m) :
    l.foldl (fun acc z => (acc + z) % m) x % m = l.foldl (· + ·) y % m := by
  induction l generalizing x y with
  | nil => exact same
  | cons z l ih =>
    refine ih ?_
    rw [Nat.mod_mod]
    exact Nat.ModEq.add_right z same

/-- An integer sum is the sum modulo the width. -/
theorem reduceElem_sum {f : Nat} (int : fmtIsInt f = true) (xs : List Nat) :
    reduceElem f 0 xs % 2 ^ fmtBits f = xs.foldl (· + ·) 0 % 2 ^ fmtBits f := by
  cases xs with
  | nil => rfl
  | cons x rest =>
    simp only [reduceElem, canonElem, int, if_true, addI_mod, List.foldl_cons, Nat.zero_add]
    exact foldl_add_mod _ _ rfl

theorem getD_elemsOf {w count : Nat} (bytes : 0 < w) {b : List Byte} (length : b.length = count * w) {i : Nat} (inside : i < count) :
    (elemsOf w b).getD i 0 = ofBytes ((b.drop (i * w)).take w) := by
  have n : b.length / w = count := by rw [length, Nat.mul_div_cancel _ bytes]
  simp [elemsOf, n, inside, Nat.mul_comm]

/-- The elements of a reduction's result. -/
def reduced (f op count : Nat) (bufs : List (List Byte)) : List Nat :=
  (List.range count).map (fun i => reduceElem f op ((bufs.map (elemsOf (collWidth f))).map (fun e => e.getD i 0)))

theorem collResult_reduction (f op root count : Nat) (bufs : List (List Byte)) :
    (collResult 0 f op root count bufs).1 = (reduced f op count bufs).flatMap (fun x => toBytes (collWidth f) x) := rfl

theorem collResult_sum {f root count : Nat} {bufs : List (List Byte)} (int : fmtIsInt f = true) (whole : 8 * collWidth f = fmtBits f)
    (lengths : ∀ b ∈ bufs, b.length = count * collWidth f) {i : Nat} (inside : i < count) :
    ofBytes (((collResult 0 f 0 root count bufs).1.drop (i * collWidth f)).take (collWidth f)) =
      (bufs.map (fun b => ofBytes ((b.drop (i * collWidth f)).take (collWidth f)))).foldl (· + ·) 0 % 2 ^ (8 * collWidth f) := by
  have bytes : 0 < collWidth f := by
    have bits : 0 < fmtBits f := by unfold fmtBits; split <;> decide
    omega
  have place : i < (reduced f 0 count bufs).length := by rw [reduced, List.length_map, List.length_range]; exact inside
  have elems : (bufs.map (elemsOf (collWidth f))).map (fun e => e.getD i 0) =
      bufs.map (fun b => ofBytes ((b.drop (i * collWidth f)).take (collWidth f))) := by
    rw [List.map_map]
    exact List.map_congr_left fun b mem => getD_elemsOf bytes (lengths b mem) inside
  rw [collResult_reduction, part_flatMap _ _ _ (fun x _ => length_toBytes ..) place, ofBytes_toBytes, whole]
  simp only [reduced, List.getElem_map, List.getElem_range]
  rw [reduceElem_sum int, elems]

theorem collResult_gather {f op root count : Nat} {bufs : List (List Byte)}
    (lengths : ∀ b ∈ bufs, b.length = bufs.length * (count * collWidth f)) {r : Nat} (inside : r < bufs.length) :
    ((collResult 2 f op root count bufs).1.drop (r * (count * collWidth f))).take (count * collWidth f) =
      ((bufs.getD r []).drop (r * (count * collWidth f))).take (count * collWidth f) := by
  let part (r : Nat) : List Byte := ((bufs.getD r []).drop (r * count * collWidth f)).take (count * collWidth f)
  have even : ∀ r ∈ List.range bufs.length, (part r).length = count * collWidth f := fun r mem => by
    have inside := List.mem_range.1 mem
    have length : (bufs.getD r []).length = bufs.length * (count * collWidth f) := by
      rw [List.getD_eq_getElem _ _ inside]
      exact lengths _ (List.getElem_mem inside)
    have room : r * (count * collWidth f) + count * collWidth f ≤ bufs.length * (count * collWidth f) := by
      rw [← Nat.succ_mul]
      exact Nat.mul_le_mul_right _ inside
    rw [List.length_take, List.length_drop, length, Nat.mul_assoc]
    omega
  have place : r < (List.range bufs.length).length := by rw [List.length_range]; exact inside
  have result : (collResult 2 f op root count bufs).1 = (List.range bufs.length).flatMap part := rfl
  rw [result, part_flatMap _ _ _ even place, List.getElem_range, ← Nat.mul_assoc]

/-! ## Joint rows (R363) -/

section
variable {s : State} {k : Nat} {row : List Nat}

theorem State.joinRow_only (s : State) (k : Nat) (row : List Nat) : s.OnlyCores (s.joinRow k row) := by
  unfold State.joinRow
  split
  · exact .refl s
  · exact (State.OnlyCores.updCore ..).trans (.updCore ..)

theorem State.joinRow_core_ne {m : Nat} (other : k ≠ m) : (s.joinRow k row).core m = s.core m := by
  unfold State.joinRow
  split
  · rfl
  · rw [State.core_updCore_ne _ _ other]
    exact State.core_updCore_ne _ _ other

theorem State.joinRow_joined {i : Nat} {c : Cmd} (due : (s.core k).matrix.due = some (i, c)) :
    ((s.joinRow k row).core k).matrix.row = row ∧ ((s.joinRow k row).core k).matrix.fwd = [] ∧
      ((s.joinRow k row).core k).matrix.cmds[i]? = some { c with readPos := 1 } := by
  rw [State.joinRow, due]
  dsimp only
  rw [State.core_updCore_same, State.updCmd, State.core_updCore_same]
  refine ⟨rfl, rfl, ?_⟩
  show ((s.core k).matrix.cmds.mapIdx (fun j e => if j = i then { e with readPos := 1 } else e))[i]? = _
  rw [List.getElem?_mapIdx, Matrix.due_get due, Option.map_some, if_pos rfl]

theorem State.joinAll_core_ne {l : List Nat} {m : Nat} (other : ∀ k ∈ l, k ≠ m) (s : State) :
    (l.foldl (fun st k => st.joinRow k row) s).core m = s.core m := by
  induction l generalizing s with
  | nil => rfl
  | cons k l ih =>
    obtain ⟨first, rest⟩ := List.forall_mem_cons.1 other
    exact (ih rest _).trans (State.joinRow_core_ne first)

/-- Each member's command that is due has had its effect: the row stands. -/
theorem State.joinAll_joined {l : List Nat} (once : l.Nodup) (mem : k ∈ l) {i : Nat} {c : Cmd} (due : (s.core k).matrix.due = some (i, c)) :
    let t := l.foldl (fun st k => st.joinRow k row) s
    (t.core k).matrix.row = row ∧ (t.core k).matrix.fwd = [] ∧ (t.core k).matrix.cmds[i]? = some { c with readPos := 1 } := by
  obtain ⟨before, after, rfl⟩ := List.append_of_mem mem
  rw [List.nodup_middle, List.nodup_cons] at once
  have apart : ∀ m ∈ before ++ after, m ≠ k := fun m hm same => once.1 (same ▸ hm)
  have first := State.joinAll_core_ne (row := row) (fun m hm => apart m (List.mem_append_left _ hm)) s
  intro t
  have last : t.core k = ((before.foldl (fun st k => st.joinRow k row) s).joinRow k row).core k := by
    show (List.foldl _ s (before ++ k :: after)).core k = _
    rw [List.foldl_append, List.foldl_cons]
    exact State.joinAll_core_ne (fun m hm => apart m (List.mem_append_right _ hm)) _
  rw [last]
  exact State.joinRow_joined (first.symm ▸ due)

theorem State.due_of_gangWaits (waits : s.gangWaits k = true) : ∃ i c, (s.core k).matrix.due = some (i, c) := by
  unfold State.gangWaits at waits
  split at waits
  next i c _ due => exact ⟨i, c, due⟩
  · cases waits

theorem jointRowFormed_forms {u : State} {g : Nat} (ev : s.ev = .one g) (own : g ∈ s.rowOf g) (once : (s.rowOf g).Nodup)
    (hu : u = (s.rowOf g).foldl (fun st k => st.settled k 4) s) (waits : ∀ k ∈ s.rowOf g, u.gangWaits k = true) :
    ∃ t, exec .jointRowFormed s = .next t ∧ t.mem = u.mem ∧ ∀ k ∈ s.rowOf g, (t.core k).matrix.row = s.rowOf g ∧
      (t.core k).matrix.fwd = [] ∧
      ∀ i c, (u.core k).matrix.due = some (i, c) → (t.core k).matrix.cmds[i]? = some { c with readPos := 1 } := by
  have all : ((s.rowOf g).all u.gangWaits && (s.rowOf g).contains g) = true := by
    simp only [Bool.and_eq_true, List.all_eq_true, List.contains_iff_mem]
    exact ⟨waits, own⟩
  have forms := exec_jointRowFormed ev
  rw [State.formRow, ← hu, if_pos all] at forms
  refine ⟨_, forms, (State.OnlyCores.foldl (fun st k => st.joinRow_only k _) _ u).mem, fun k mem => ?_⟩
  obtain ⟨i, c, due⟩ := State.due_of_gangWaits (waits k mem)
  obtain ⟨row, fwd, _⟩ := State.joinAll_joined (row := s.rowOf g) once mem due
  exact ⟨row, fwd, fun i c due => (State.joinAll_joined (row := s.rowOf g) once mem due).2.2⟩

end

/-! ## Reading the buffers of a collective (R112, R225, R368) -/

/-- What a read at a home notes: cores change outside their contexts, and counters of errors. The arrivals are `l` after it. -/
structure State.Noted (l : List Arrival) (s t : State) : Prop where
  eq : t = { s with
    cores := t.cores, arrivals := l, remote := t.remote
    dev := { s.dev with ctr := t.dev.ctr, hole := t.dev.hole } }
  ctxs : s.KeepsCores Core.ctxs t

theorem State.scrub_of_clean {s : State} (clean : s.ecc = []) (addr n : Nat) : s.scrub addr n = s := by
  rw [State.scrub, State.errsIn, clean]
  rfl

theorem State.scrubPlane_of_clean {s : State} (clean : s.ecc = []) (addr n : Nat) : s.scrubPlane addr n = s := by
  rw [State.scrubPlane, State.errsIn, clean]
  rfl

/-- Without an error mark nothing is corrected. -/
theorem State.scrubRead_of_clean {s : State} (clean : s.ecc = []) (addr n : Nat) : s.scrubRead addr n = s := by
  unfold State.scrubRead
  split
  · exact State.scrub_of_clean clean ..
  next i _ =>
    have planes : (List.range (bits (s.fwin i).w0 3 0)).foldl (fun u j => u.scrubPlane (planePlace (s.fwin i) addr j) 16) s = s :=
      List.foldl_fixed' (fun j => State.scrubPlane_of_clean clean ..) _
    dsimp only
    rw [planes]
    split
    · exact State.scrub_of_clean clean ..
    · rfl

namespace State.Noted

variable {l : List Arrival} {s t : State} (h : s.Noted l t)
include h

theorem arrivals : t.arrivals = l := by rw [h.eq]
theorem ecc : t.ecc = s.ecc := by rw [h.eq]
theorem fwdAddr (a : Nat) : fwdAddr t a = Machine.fwdAddr s a := by rw [h.eq]; rfl
theorem partOf (g : Nat) : t.partOf g = s.partOf g := by rw [h.eq]; rfl
theorem reserved (part : Option Nat) (svc : Bool) (a : Nat) : reservedPA t part svc a = reservedPA s part svc a := by rw [h.eq]; rfl
theorem windowOf (a : Nat) : windowOf t a = Machine.windowOf s a := by rw [h.eq]; rfl
theorem bytes (a n : Nat) : t.bytes a n = s.bytes a n := by
  induction n generalizing a with
  | zero => rfl
  | succ n ih => rw [State.bytes, State.bytes, ih, State.byte, State.byte, h.eq]
theorem tagAt (a : Nat) : t.tagAt a = s.tagAt a := by rw [h.eq]; rfl
theorem poisoned (a : Nat) : t.poisoned a = s.poisoned a := by rw [h.eq]; rfl
theorem decoded (a : Nat) : t.decoded a = s.decoded a := by rw [h.eq]; rfl
theorem ctlOf (a : Nat) : t.ctlOf a = s.ctlOf a := by rw [h.eq]; rfl
theorem fwin (i : Nat) : t.fwin i = s.fwin i := by rw [h.eq]; rfl
theorem scaleHeld (ctl i blk : Nat) : t.scaleHeld ctl i blk = s.scaleHeld ctl i blk := by rw [h.eq]; rfl
theorem scaleOf (ctl i : Nat) (w : Words3) (blk : Nat) : scaleOf t ctl i w blk = Machine.scaleOf s ctl i w blk := by
  simp only [Machine.scaleOf, h.scaleHeld, h.fwdAddr, h.bytes, h.poisoned]

theorem planePrefix (base k n : Nat) : planePrefix t base k n = Machine.planePrefix s base k n := by
  induction n with
  | zero => rfl
  | succ n ih =>
    have bit : planeBit t base n k = planeBit s base n k := by rw [h.eq]; rfl
    rw [Machine.planePrefix, Machine.planePrefix, ih, bit]

theorem decodeByte (w : Words3) (scale base k : Nat) : decodeByte t w scale base k = Machine.decodeByte s w scale base k := by
  simp only [Machine.decodeByte, h.planePrefix]

theorem homeLine (line : Nat) : homeLine t line = Machine.homeLine s line := by
  simp only [Machine.homeLine, decodeLine, h.decoded, h.windowOf, h.bytes, h.fwin, h.ctlOf, h.scaleOf, h.decodeByte]

theorem linePoison (a : Nat) : linePoison t a = Machine.linePoison s a := by
  simp only [Machine.linePoison, decodePoison, h.decoded, h.windowOf, h.poisoned, h.fwin, h.ctlOf, h.scaleOf]

theorem readHomeBytes (part : Option Nat) (svc : Bool) (a n : Nat) : readHomeBytes t part svc a n = Machine.readHomeBytes s part svc a n := by
  simp only [Machine.readHomeBytes, h.reserved, h.windowOf, h.bytes, h.tagAt, h.poisoned, h.homeLine, h.linePoison]

theorem count (ctr unit n : Nat) : s.Noted l (t.count ctr unit n) where
  eq := by
    conv => lhs; rw [h.eq]
    rfl
  ctxs := h.ctxs.trans (.of_cores rfl)

theorem countHole (a : Nat) : s.Noted l (t.countHole a) where
  eq := by
    conv => lhs; rw [h.eq]
    rfl
  ctxs := h.ctxs.trans (.of_cores rfl)

theorem mergeFail (g : Nat) : s.Noted l (t.mergeFail g) where
  eq := by
    conv => lhs; rw [h.eq]
    rfl
  ctxs := h.ctxs.trans (.updCore g fun _ => rfl)

end State.Noted

theorem State.Noted.noteRead {l : List Arrival} {s t : State} (h : s.Noted l t) (clean : s.ecc = []) (part : Option Nat) (svc : Bool)
    (a n : Nat) : s.Noted l (t.noteRead part svc a n) := by
  unfold State.noteRead
  split
  · exact h.countHole a
  · rw [State.scrubRead_of_clean (h.ecc.trans clean)]
    exact h

/-- The bytes that a read of a buffer takes of one line: poisoned ones read zero. -/
def State.taken (s : State) (g : Nat) (t : Seg) : List Byte :=
  let r := readHomeBytes s (s.partOf g) (isSvc g) (fwdAddr s t.addr) t.len
  if r.psn then r.bytes.map (fun _ => 0) else r.bytes

/-- One step of reading a buffer. -/
def State.takePart (g : Nat) (acc : List Byte × State) (t : Seg) : List Byte × State :=
  let addr := fwdAddr acc.2 t.addr
  let part := acc.2.partOf g
  let st := acc.2.noteRead part (isSvc g) addr t.len
  let r := readHomeBytes st part (isSvc g) addr t.len
  let counted := if reservedPA st part (isSvc g) addr then st else st.count 7 0 1
  (acc.1 ++ (if r.psn then r.bytes.map (fun _ => 0) else r.bytes), if r.psn then counted.mergeFail g else st)

theorem State.bufRead_eq (s : State) (g : Nat) (places : List (Nat × Nat)) :
    s.bufRead g places = (bufParts places).foldl (State.takePart g) ([], s) := rfl

section
variable {l : List Arrival} {s : State} (clean : s.ecc = [])
include clean

theorem State.takePart_noted {acc : List Byte × State} (h : s.Noted l acc.2) (g : Nat) (t : Seg) :
    (State.takePart g acc t).1 = acc.1 ++ s.taken g t ∧ s.Noted l (State.takePart g acc t).2 := by
  have noted := h.noteRead clean (acc.2.partOf g) (isSvc g) (fwdAddr acc.2 t.addr) t.len
  unfold State.takePart State.taken
  dsimp only
  refine ⟨?_, ?_⟩
  · rw [noted.readHomeBytes, h.partOf, h.fwdAddr]
  · split
    · split
      · exact noted.mergeFail g
      · exact (noted.count 7 0 1).mergeFail g
    · exact noted

theorem State.takeParts_noted (g : Nat) (parts : List Seg) {acc : List Byte × State} (h : s.Noted l acc.2) :
    (parts.foldl (State.takePart g) acc).1 = acc.1 ++ parts.flatMap (s.taken g) ∧ s.Noted l (parts.foldl (State.takePart g) acc).2 := by
  induction parts generalizing acc with
  | nil => exact ⟨(List.append_nil _).symm, h⟩
  | cons t parts ih =>
    obtain ⟨bytes, noted⟩ := State.takePart_noted clean h g t
    obtain ⟨rest, last⟩ := ih noted
    refine ⟨?_, last⟩
    rw [List.foldl_cons, rest, bytes, List.flatMap_cons, List.append_assoc]

/-- A buffer reads the same whatever reads before it noted. -/
theorem State.bufRead_noted {t : State} (h : s.Noted l t) (g : Nat) (places : List (Nat × Nat)) :
    (t.bufRead g places).1 = (s.bufRead g places).1 ∧ s.Noted l (t.bufRead g places).2 := by
  have self : s.Noted s.arrivals s := ⟨rfl, .refl s⟩
  obtain ⟨bytes, noted⟩ := State.takeParts_noted clean g (bufParts places) (acc := ([], t)) h
  obtain ⟨own, -⟩ := State.takeParts_noted clean g (bufParts places) (acc := ([], s)) self
  exact ⟨bytes.trans own.symm, noted⟩

end

/-! ## A collective runs (R368) -/

/-- What a rank brings to the exchange of a collective of `n` bytes of a peer's data. -/
def State.brought (s : State) (n : Nat) (k : Rank) : List Byte :=
  match k with
  | .near r => (s.bufRead r.agent.gid r.places).1
  | .far q => padTo 0 n q.data

/-- One step of bringing the buffers together. -/
def State.bring (n : Nat) (acc : List (List Byte) × State) (k : Rank) : List (List Byte) × State :=
  match k with
  | .near r => (acc.1 ++ [(acc.2.bufRead r.agent.gid r.places).1], (acc.2.bufRead r.agent.gid r.places).2)
  | .far q => (acc.1 ++ [padTo 0 n q.data], acc.2)

theorem State.bringAll_noted {l : List Arrival} {s : State} (clean : s.ecc = []) (n : Nat) (ks : List Rank)
    {acc : List (List Byte) × State} (h : s.Noted l acc.2) :
    (ks.foldl (State.bring n) acc).1 = acc.1 ++ ks.map (s.brought n) ∧ s.Noted l (ks.foldl (State.bring n) acc).2 := by
  induction ks generalizing acc with
  | nil => exact ⟨(List.append_nil _).symm, h⟩
  | cons k ks ih =>
    have step : (State.bring n acc k).1 = acc.1 ++ [s.brought n k] ∧ s.Noted l (State.bring n acc k).2 := by
      cases k with
      | near r =>
        obtain ⟨bytes, noted⟩ := State.bufRead_noted clean h r.agent.gid r.places
        exact ⟨congrArg (fun b => acc.1 ++ [b]) bytes, noted⟩
      | far q => exact ⟨rfl, h⟩
    obtain ⟨bytes, noted⟩ := step
    obtain ⟨rest, last⟩ := ih noted
    refine ⟨?_, last⟩
    rw [List.foldl_cons, rest, bytes, List.map_cons, List.append_assoc]
    rfl

theorem State.KeepsCtx.of_ctxs {α : Type} {p : Ctx → α} {s t : State} (ctxs : s.KeepsCores Core.ctxs t) : s.KeepsCtx p t := fun a => by
  rw [State.ctx, Core.ctx, ctxs a.gid]
  rfl

theorem State.setBytes_arrivals (s : State) (a : Nat) (l : List Byte) : (s.setBytes a l).arrivals = s.arrivals := by
  induction l generalizing s a with
  | nil => rfl
  | cons b l ih => exact ih _ _

theorem State.putWrite_arrivals (s : State) (w : HomeWrite) : (s.putWrite w).arrivals = s.arrivals := by
  have cleared (n : Nat) : ((s.setBytes w.addr w.data).clearTags w.addr n).arrivals = s.arrivals := by
    unfold State.clearTags
    split <;> exact s.setBytes_arrivals ..
  unfold State.putWrite
  dsimp only
  split <;> exact cleared _

/-- A write at its home changes no context. -/
theorem State.writeHome_ctxs (s : State) (w : HomeWrite) : s.KeepsCores Core.ctxs (s.writeHome w) := by
  unfold State.writeHome
  split
  · exact .of_cores rfl
  · have listed (c : Bool) (u : State) (line wid : Nat) : (if c = true then u.collect line wid else u).cores = u.cores := by
      split <;> rfl
    have dirty (u : State) : (if w.owned = true then u else u.markDirty w.addr).prune.cores = u.cores := by
      split
      · rfl
      · exact State.markDirty_cores ..
    have patched (u : State) (tag ver : Nat) : u.KeepsCores Core.ctxs (u.patchOwn w tag ver) := by
      unfold State.patchOwn
      split
      · exact .refl u
      · refine .updCore _ fun c => ?_
        split <;> rfl
    dsimp only
    refine .trans (.trans (.of_cores ?_) (patched _ _ _)) (.of_cores (dirty _))
    exact (listed ..).trans (s.putWrite_cores w)

theorem State.writeHome_arrivals (s : State) (w : HomeWrite) : (s.writeHome w).arrivals = s.arrivals := by
  unfold State.writeHome
  split
  · rfl
  · have listed (c : Bool) (u : State) (line wid : Nat) : (if c = true then u.collect line wid else u).arrivals = u.arrivals := by
      split <;> rfl
    have dirty (u : State) : (if w.owned = true then u else u.markDirty w.addr).prune.arrivals = u.arrivals := by
      unfold State.markDirty
      split
      · rfl
      · split <;> rfl
    have patched (u : State) (tag ver : Nat) : (u.patchOwn w tag ver).arrivals = u.arrivals := by
      unfold State.patchOwn
      split <;> rfl
    dsimp only
    rw [dirty, patched]
    exact (listed ..).trans (s.putWrite_arrivals w)

/-- A step of a collective that changes neither what its contexts wait for nor their registers, nor the arrivals. -/
structure State.KeepsWaits (s t : State) : Prop where
  waits : s.KeepsCtx (fun c => (c.busy, c.x)) t
  arrivals : t.arrivals = s.arrivals

theorem State.KeepsWaits.refl (s : State) : s.KeepsWaits s := ⟨.refl s, rfl⟩

theorem State.KeepsWaits.trans {s t u : State} (first : s.KeepsWaits t) (second : t.KeepsWaits u) : s.KeepsWaits u :=
  ⟨first.waits.trans second.waits, second.arrivals.trans first.arrivals⟩

theorem State.KeepsWaits.observe (s : State) (a : Agent) (ws : List Nat) : s.KeepsWaits (s.observe a ws) := by
  unfold State.observe
  split
  · exact .refl s
  · exact ⟨.updCtx a fun _ => rfl, rfl⟩

theorem State.KeepsWaits.foldl_fst {α β : Type} {f : State × α → β → State × α} (hf : ∀ acc e, State.KeepsWaits acc.1 (f acc e).1) (l : List β)
    (acc : State × α) : acc.1.KeepsWaits (l.foldl f acc).1 := by
  induction l generalizing acc with
  | nil => exact .refl _
  | cons e l ih => exact (hf acc e).trans (ih _)

theorem State.bufWrite_keeps (s : State) (a : Agent) (places : List (Nat × Nat)) (data : List Byte) (bad : Nat → Bool) :
    s.KeepsWaits (s.bufWrite a places data bad) := by
  unfold State.bufWrite
  dsimp only
  refine (State.KeepsWaits.foldl_fst (fun acc t => ?_) _ (s, 0)).trans (.observe ..)
  have written (w : HomeWrite) : acc.1.KeepsWaits (acc.1.writeHome w) := ⟨.of_ctxs (acc.1.writeHome_ctxs w), acc.1.writeHome_arrivals w⟩
  dsimp only
  split
  · exact (written _).trans ⟨.of_cores rfl, rfl⟩
  · exact written _

/-- A member of a collective takes its status, after a step of its own. -/
def State.giveStatus (step : State → Arrival → State) (st : Word) (acc : State) (r : Arrival) : State :=
  (step acc r).release r.agent (fun d c => c.writeS d st)

section
variable {step : State → Arrival → State} (keeps : ∀ (acc : State) r, acc.KeepsWaits (step acc r)) (st : Word)
include keeps

theorem State.giveStatus_arrivals (rs : List Arrival) (acc : State) : (rs.foldl (State.giveStatus step st) acc).arrivals = acc.arrivals := by
  induction rs generalizing acc with
  | nil => rfl
  | cons r rs ih => exact (ih _).trans ((State.OnlyCores.release ..).arrivals.trans (keeps acc r).arrivals)

theorem State.giveStatus_ctx_ne (acc : State) (r : Arrival) {b : Agent} (other : r.agent ≠ b) :
    (((State.giveStatus step st acc r).ctx b).busy, ((State.giveStatus step st acc r).ctx b).x) = ((acc.ctx b).busy, (acc.ctx b).x) := by
  rw [State.giveStatus, State.release_ctx_ne other]
  exact (keeps acc r).waits b

/-- A context that waits for nothing is passed over. -/
theorem State.giveStatus_idle (rs : List Arrival) (acc : State) {b : Agent} (idle : (acc.ctx b).busy = none) :
    ((rs.foldl (State.giveStatus step st) acc).ctx b).x = (acc.ctx b).x := by
  induction rs generalizing acc with
  | nil => rfl
  | cons r rs ih =>
    have same : (((State.giveStatus step st acc r).ctx b).busy, ((State.giveStatus step st acc r).ctx b).x) = ((acc.ctx b).busy, (acc.ctx b).x) := by
      by_cases own : r.agent = b
      · have kept := (keeps acc r).waits b
        have still : ((step acc r).ctx r.agent).busy = none := own ▸ (congrArg Prod.fst kept).trans idle
        rw [State.giveStatus, State.release_of_idle still]
        exact kept
      · exact State.giveStatus_ctx_ne keeps st acc r own
    exact (ih _ ((congrArg Prod.fst same).trans idle)).trans (congrArg Prod.snd same)

/-- Each member that waits receives the status in its register. -/
theorem State.giveStatus_given {rs : List Arrival} {r : Arrival} (mem : r ∈ rs) (acc : State) {h : Hdr} {n : Fin 64}
    (waits : (acc.ctx r.agent).busy = some (.barrier h (.x n))) (nonzero : n ≠ 0) :
    (((rs.foldl (State.giveStatus step st) acc).ctx r.agent).getX n.val).val = st := by
  induction rs generalizing acc with
  | nil => exact absurd mem List.not_mem_nil
  | cons q rs ih =>
    by_cases own : q.agent = r.agent
    · have still : ((step acc q).ctx q.agent).busy = some (.barrier h (.x n)) :=
        own ▸ (congrArg Prod.fst ((keeps acc q).waits r.agent)).trans waits
      have moved : (State.giveStatus step st acc q).ctx q.agent = (((step acc q).ctx q.agent).writeS (.x n) st).advance :=
        State.release_ctx_same still
      have idle : ((State.giveStatus step st acc q).ctx q.agent).busy = none := moved ▸ Ctx.advance_busy _
      rw [← own, List.foldl_cons, Ctx.getX, State.giveStatus_idle keeps st rs _ idle, moved]
      have given := (Ctx.getX_advance ..).trans (Ctx.getX_writeS_same ((step acc q).ctx q.agent) st nonzero)
      exact congrArg Reg.val given
    · have rest : r ∈ rs := by
        rcases List.mem_cons.1 mem with rfl | rest
        · exact absurd rfl own
        · exact rest
      have same := State.giveStatus_ctx_ne keeps st acc q own
      exact ih rest _ ((congrArg Prod.fst same).trans waits)

end

/-- The arrivals of this device at a collective that runs are gone, and those of peers. -/
def State.collGone (s : State) (rs : List Arrival) (qs : List Remote) : State :=
  { s with arrivals := s.arrivals.filter (fun r => !rs.contains r), remote := s.remote.filter (fun q => !qs.contains q) }

theorem State.not_mem_collGone {s : State} {rs : List Arrival} {qs : List Remote} {r : Arrival} (mem : r ∈ rs) :
    r ∉ (s.collGone rs qs).arrivals := by
  simp [State.collGone, mem]

def Rank.near? (k : Rank) : Option Arrival := match k with | .near r => some r | .far _ => none
def Rank.far? (k : Rank) : Option Remote := match k with | .far q => some q | .near _ => none

/-- What a collective makes of its members' buffers, as the ranks stand at a state. -/
def State.collOut (s : State) (ls : List Rank) (r0 : Arrival) : List Byte × List Nat :=
  collResult (bits r0.w1 15 8) (bits r0.w1 3 0) (bits r0.w1 7 4) (bits r0.w0 63 56) (bits r0.w0 31 0)
    (ls.map (s.brought (collBytes (bits r0.w1 15 8) (bits r0.w1 3 0) (bits r0.w0 31 0) ls.length)))

/-- The status word of a collective with a result. -/
def outStatus (out : List Byte × List Nat) : Word := collStatus (if out.2.isEmpty then 0 else 0xA) out.2.length out.1.length

theorem outStatus_eq (out : List Byte × List Nat) :
    outStatus out = collStatus (if out.2 = [] then 0 else 0xA) out.2.length out.1.length := by
  simp only [outStatus, List.isEmpty_iff]

/-- The exchange of a collective whose members agree. -/
def State.collExchange (u : State) (ls : List Rank) (rs : List Arrival) (qs : List Remote) (r0 : Arrival) : State :=
  let rd := ls.foldl (State.bring (collBytes (bits r0.w1 15 8) (bits r0.w1 3 0) (bits r0.w0 31 0) ls.length)) ([], u.collGone rs qs)
  let out := collResult (bits r0.w1 15 8) (bits r0.w1 3 0) (bits r0.w1 7 4) (bits r0.w0 63 56) (bits r0.w0 31 0) rd.1
  rs.foldl (State.giveStatus (fun acc r => acc.bufWrite r.agent r.places out.1 (fun i => out.2.contains (i / 4096))) (outStatus out)) rd.2

/-- What a collective comes to, by the ranks that have arrived and those of this device. -/
def State.collOf (s : State) (ranks : Nat) (ls : List Rank) (rs : List Arrival) : Option State :=
  match rs with
  | [] => none
  | r0 :: _ =>
    if ls.length ≠ ranks then none
    else if !ls.all (fun k => k.words == (r0.w0, r0.w1)) then
      some (rs.foldl (State.giveStatus (fun acc _ => acc) (collStatus 0xE 0 0)) (s.collGone rs (ls.filterMap Rank.far?)))
    else (s.askBuffers rs).andThen (fun u => u.collExchange ls rs (ls.filterMap Rank.far?) r0)

theorem State.collectiveRun_eq (s : State) (part grp : Nat) : s.collectiveRun part grp =
    s.collOf (s.ranks part grp).length ((s.ranks part grp).filterMap id) (((s.ranks part grp).filterMap id).filterMap Rank.near?) := rfl

section
variable {s : State} {ranks : Nat} {ls : List Rank} {rs : List Arrival} {r0 : Arrival} (all : ls.length = ranks) (head : rs.head? = some r0)
include all head

theorem State.collOf_disagree (differ : ∃ k ∈ ls, k.words ≠ (r0.w0, r0.w1)) : s.collOf ranks ls rs =
    some (rs.foldl (State.giveStatus (fun acc _ => acc) (collStatus 0xE 0 0)) (s.collGone rs (ls.filterMap Rank.far?))) := by
  obtain ⟨rest, rfl⟩ := List.head?_eq_some_iff.1 head
  obtain ⟨k, mem, other⟩ := differ
  have some : (!ls.all (fun k => k.words == (r0.w0, r0.w1))) = true := by
    simp only [Bool.not_eq_true', List.all_eq_false, beq_iff_eq]
    exact ⟨k, mem, other⟩
  rw [State.collOf, if_neg (not_not.2 all), if_pos some]

theorem State.collOf_agree (agree : ∀ k ∈ ls, k.words = (r0.w0, r0.w1)) : s.collOf ranks ls rs =
    (s.askBuffers rs).andThen (fun u => u.collExchange ls rs (ls.filterMap Rank.far?) r0) := by
  obtain ⟨rest, rfl⟩ := List.head?_eq_some_iff.1 head
  have none : ¬ (!ls.all (fun k => k.words == (r0.w0, r0.w1))) = true := by
    simpa using agree
  rw [State.collOf, if_neg (not_not.2 all), if_neg none]

end

/-- Members that agree receive the status of the result, and their buffers as they stand make it. -/
theorem State.collExchange_done {u : State} (clean : u.ecc = []) (ls : List Rank) (rs : List Arrival) (qs : List Remote) (r0 : Arrival) :
    (∀ r ∈ rs, r ∉ (u.collExchange ls rs qs r0).arrivals) ∧
      ∀ r ∈ rs, ∀ h (n : Fin 64), (u.ctx r.agent).busy = some (.barrier h (.x n)) → n ≠ 0 →
        (((u.collExchange ls rs qs r0).ctx r.agent).getX n.val).val = outStatus (u.collOut ls r0) := by
  have gone : u.Noted (u.collGone rs qs).arrivals (u.collGone rs qs) := ⟨rfl, .refl u⟩
  obtain ⟨bufs, noted⟩ := State.bringAll_noted clean (collBytes (bits r0.w1 15 8) (bits r0.w1 3 0) (bits r0.w0 31 0) ls.length) ls
    (acc := ([], u.collGone rs qs)) gone
  rw [List.nil_append] at bufs
  unfold State.collExchange State.collOut
  dsimp only
  rw [bufs]
  refine ⟨fun r mem => ?_, fun r mem h n waits nonzero => ?_⟩
  · rw [State.giveStatus_arrivals (fun acc r => acc.bufWrite_keeps ..), noted.arrivals]
    exact State.not_mem_collGone mem
  · have kept : _ = u.ctx r.agent := State.KeepsCtx.of_ctxs (p := id) noted.ctxs r.agent
    exact State.giveStatus_given (fun acc r => acc.bufWrite_keeps ..) _ mem _ (kept ▸ waits) nonzero

/-- Settles O52: barriers and rows by what each arrival or member does in its step, collectives by what the reads of the buffers note. -/
theorem barrierEvents : Obligations.BarrierEvents := by
  unfold Obligations.BarrierEvents
  refine ⟨?_, ?_, ?_, ?_, ?_⟩
  · intro s a r0 ev found rs
    obtain ⟨own, mem⟩ := agent_of_find found
    refine ⟨fun waits => ?_, fun arrived released => ?_⟩
    · rw [exec_barPass ev, State.barPass_waits found waits]
      rfl
    · have passes := exec_barPass ev
      rw [State.barPass_passes found arrived released] at passes
      have only := State.passAll_only s rs (s.passedBy r0)
      refine ⟨_, passes, only.arrivals, only.mem, only.tags, fun h d waits => ?_, fun w c len kind ph hph opens once => ?_⟩
      · rw [← own] at waits ⊢
        exact State.passAll_released mem (s.passedBy r0) waits
      · obtain ⟨opened, reset, late⟩ := barPass_opens mem own kind (fun r hr => (List.mem_filter.1 hr).2) opens hph
        exact ⟨opened, reset, fun r hr here w2 c2 n h d kind2 waits nonzero => late once hr here kind2 waits nonzero⟩
  · intro s r w core kind
    exact ⟨mem_farDevs_iff kind, farRect_bar kind, farArrived_iff kind⟩
  · intro s part grp ls rs r0 ev hls all hrs head
    have run : exec .collectiveAllArrived s = event "COLLECTIVE_ALL_ARRIVED" (s.collOf (s.ranks part grp).length ls rs) := by
      rw [exec_collectiveAllArrived ev, State.collectiveRun_eq, hrs, hls]
      rfl
    refine ⟨fun differ => ?_, fun agree q ask => ?_⟩
    · rw [State.collOf_disagree all head differ] at run
      have keeps (acc : State) (_ : Arrival) : acc.KeepsWaits acc := .refl acc
      refine ⟨_, run, fun r mem => ?_, ?_, fun r mem h n waits nonzero => ?_⟩
      · rw [State.giveStatus_arrivals keeps]
        exact State.not_mem_collGone mem
      · exact (State.OnlyCores.foldl (fun acc r => .release acc r.agent _) rs _).mem
      · exact State.giveStatus_given keeps _ mem (s.collGone rs _) waits nonzero
    · rw [State.collOf_agree all head agree, ← ask] at run
      refine ⟨fun no => ?_, fun u wait => ?_, fun u go clean => ?_⟩
      · rw [run, no]
        rfl
      · rw [run, wait]
        rfl
      · rw [go] at run
        obtain ⟨arrivals, status⟩ := State.collExchange_done clean ls rs (ls.filterMap Rank.far?) r0
        refine ⟨_, run, arrivals, fun r mem h n waits nonzero => ?_⟩
        rw [status r mem h n waits nonzero]
        exact outStatus_eq _
  · intro f root count bufs w
    refine ⟨fun op => rfl, fun op lengths r inside => collResult_gather lengths inside, fun int whole lengths i inside => ?_, fun op x float nan => ?_⟩
    · exact collResult_sum int whole lengths inside
    · simp [reduceElem, canonElem, float, nan]
  · intro s u g ev own once hu waits
    exact jointRowFormed_forms ev own once hu waits

end Sys2Proof.Machine
end

section
/-! PROOFS. The moves of the ordering machine (R92, R95, R100-R103, R118-R133, R298). -/

namespace Sys2Proof.Machine

open Sys2Proof

/-! ## Changes of the caches alone (R88, R92, R100) -/

/-- What of a cluster says whose it is and where its lines have their homes. -/
def Cluster.homes (k : Cluster) : Nat × Sparse Word := (k.part, k.bkt)

/-- Memory is the same, and so is all that says where an access goes. -/
structure State.SameHome (s t : State) : Prop where
  mem : t.mem = s.mem
  tags : t.tags = s.tags
  poison : t.poison = s.poison
  ecc : t.ecc = s.ecc
  dev : t.dev = { s.dev with held := t.dev.held, scales := t.dev.scales, ctr := t.dev.ctr, hole := t.dev.hole }
  homes : ∀ c, (t.cluster c).homes = (s.cluster c).homes

namespace State.SameHome

variable {s t u : State}

theorem refl (s : State) : s.SameHome s := ⟨rfl, rfl, rfl, rfl, rfl, fun _ => rfl⟩

theorem trans (first : s.SameHome t) (second : t.SameHome u) : s.SameHome u where
  mem := second.mem.trans first.mem
  tags := second.tags.trans first.tags
  poison := second.poison.trans first.poison
  ecc := second.ecc.trans first.ecc
  dev := by rw [second.dev, first.dev]
  homes c := (second.homes c).trans (first.homes c)

section
variable (h : s.SameHome t)
include h

/-! What depends on the device's registers alone reads them as they were. -/

theorem fwdAddr (a : Nat) : fwdAddr t a = Machine.fwdAddr s a := by
  have moved : Machine.fwdAddr t a = Machine.fwdAddr { s with dev := t.dev } a := rfl
  rw [moved, h.dev]
  rfl

theorem reserved (part : Option Nat) (svc : Bool) (a : Nat) : reservedPA t part svc a = reservedPA s part svc a := by
  have moved : reservedPA t part svc a = reservedPA { s with dev := t.dev } part svc a := rfl
  rw [moved, h.dev]
  rfl

theorem notReady (part : Option Nat) (svc : Bool) (a : Nat) : notReadyPA t part svc a = notReadyPA s part svc a := by
  have moved : notReadyPA t part svc a = notReadyPA { s with dev := t.dev } part svc a := rfl
  rw [moved, h.dev]
  rfl

theorem windowOf (a : Nat) : windowOf t a = Machine.windowOf s a := by
  have moved : Machine.windowOf t a = Machine.windowOf { s with dev := t.dev } a := rfl
  rw [moved, h.dev]
  rfl

theorem homeCluster (a : Nat) : homeCluster t a = Machine.homeCluster s a := by
  have moved : Machine.homeCluster t a = Machine.homeCluster { s with dev := t.dev } a := rfl
  rw [moved, h.dev]
  rfl

theorem partOf (g : Nat) : t.partOf g = s.partOf g := by
  have part : (t.cluster (gidCl g)).part = (s.cluster (gidCl g)).part := congrArg Prod.fst (h.homes (gidCl g))
  rw [State.partOf, State.partOf, part]

theorem homeSlice (a : Nat) : homeSlice t a = Machine.homeSlice s a := by
  have bkt : (t.cluster (Machine.homeCluster s a)).bkt = (s.cluster (Machine.homeCluster s a)).bkt := congrArg Prod.snd (h.homes _)
  simp only [Machine.homeSlice, h.homeCluster, Cluster.bktReg, bkt]

theorem byte (a : Nat) : t.byte a = s.byte a := congrArg (fun m => Sparse.look 0 m a) h.mem

theorem bytes (a n : Nat) : t.bytes a n = s.bytes a n := by
  induction n generalizing a with
  | zero => rfl
  | succ n ih => rw [State.bytes, State.bytes, h.byte, ih]

theorem poisoned (a : Nat) : t.poisoned a = s.poisoned a := congrArg (fun l : List Nat => l.contains (a / 128)) h.poison

theorem sliceOf (line : Nat) : t.sliceOf line = (t.cluster (Machine.homeSlice s (line * 128)).1).slice (Machine.homeSlice s (line * 128)).2 := by
  rw [State.sliceOf, h.homeSlice]

end

/-- A change beside memory, the device and the clusters. -/
theorem of_rest (mem : t.mem = s.mem) (tags : t.tags = s.tags) (poison : t.poison = s.poison) (ecc : t.ecc = s.ecc) (dev : t.dev = s.dev)
    (clusters : t.clusters = s.clusters) : s.SameHome t :=
  ⟨mem, tags, poison, ecc, dev ▸ rfl, fun c => congrArg (fun m => Cluster.homes (Sparse.look Cluster.reset m c)) clusters⟩

theorem updCore (s : State) (g : Nat) (f : Core → Core) : s.SameHome (s.updCore g f) := of_rest rfl rfl rfl rfl rfl rfl

theorem updCtx (s : State) (a : Agent) (f : Ctx → Ctx) : s.SameHome (s.updCtx a f) := of_rest rfl rfl rfl rfl rfl rfl

theorem updSlice (s : State) (cl i : Nat) (f : Slice → Slice) : s.SameHome (s.updSlice cl i f) where
  mem := rfl
  tags := rfl
  poison := rfl
  ecc := rfl
  dev := rfl
  homes c := by
    by_cases own : cl = c
    · rw [own, State.updSlice, State.cluster_updCluster_same]
      rfl
    · rw [State.updSlice, State.updCluster, State.setCluster, State.cluster, Sparse.look_put, if_neg own]
      rfl

theorem updSliceOf (s : State) (line : Nat) (f : Slice → Slice) : s.SameHome (s.updSliceOf line f) := updSlice ..

theorem count (s : State) (ctr unit n : Nat) : s.SameHome (s.count ctr unit n) := ⟨rfl, rfl, rfl, rfl, rfl, fun _ => rfl⟩
theorem noteHole (s : State) (a : Nat) : s.SameHome (s.noteHole a) := ⟨rfl, rfl, rfl, rfl, rfl, fun _ => rfl⟩
theorem countHole (s : State) (a : Nat) : s.SameHome (s.countHole a) := (count ..).trans (noteHole ..)
theorem hold (s : State) (l : List SReq) : s.SameHome (s.updDev (fun d => { d with held := l })) := ⟨rfl, rfl, rfl, rfl, rfl, fun _ => rfl⟩

theorem foldl {α : Type} {f : State → α → State} (hf : ∀ (s : State) e, s.SameHome (f s e)) (l : List α) (s : State) :
    s.SameHome (l.foldl f s) := by
  induction l generalizing s with
  | nil => exact refl s
  | cons e l ih => exact (hf s e).trans (ih _)

theorem observe (s : State) (a : Agent) (ws : List Nat) : s.SameHome (s.observe a ws) := by
  unfold State.observe
  split
  · exact refl s
  · exact updCtx ..

theorem mergeFail (s : State) (g : Nat) : s.SameHome (s.mergeFail g) := updCore ..

end State.SameHome

/-- A slice of the home of a line after a change of it. -/
theorem State.slice_updSlice_same (s : State) (cl i : Nat) (f : Slice → Slice) :
    ((s.updSlice cl i f).cluster cl).slice i = f ((s.cluster cl).slice i) := by
  rw [State.updSlice, State.cluster_updCluster_same, Cluster.slice, Sparse.look_put_same]

theorem State.sliceOf_updSliceOf_same (s : State) (line : Nat) (f : Slice → Slice) : (s.updSliceOf line f).sliceOf line = f (s.sliceOf line) := by
  rw [(State.SameHome.updSliceOf s line f).sliceOf]
  exact State.slice_updSlice_same ..

/-- The caches change, and no context. -/
structure State.Quiet (s t : State) : Prop where
  home : s.SameHome t
  ctxs : s.KeepsCores Core.ctxs t

namespace State.Quiet

variable {s t u : State}

theorem refl (s : State) : s.Quiet s := ⟨.refl s, .refl s⟩

theorem trans (first : s.Quiet t) (second : t.Quiet u) : s.Quiet u := ⟨first.home.trans second.home, first.ctxs.trans second.ctxs⟩

theorem ctx (h : s.Quiet t) (a : Agent) : t.ctx a = s.ctx a := State.KeepsCtx.of_ctxs (p := id) h.ctxs a

theorem updCore (s : State) (g : Nat) {f : Core → Core} (hf : ∀ c, (f c).ctxs = c.ctxs) : s.Quiet (s.updCore g f) := ⟨.updCore .., .updCore g hf⟩

/-- A change beside the cores. -/
theorem of_home (home : s.SameHome t) (cores : t.cores = s.cores) : s.Quiet t := ⟨home, .of_cores cores⟩

theorem updSlice (s : State) (cl i : Nat) (f : Slice → Slice) : s.Quiet (s.updSlice cl i f) := of_home (.updSlice ..) rfl
theorem updSliceOf (s : State) (line : Nat) (f : Slice → Slice) : s.Quiet (s.updSliceOf line f) := updSlice ..
theorem hold (s : State) (l : List SReq) : s.Quiet (s.updDev (fun d => { d with held := l })) := of_home (.hold ..) rfl

theorem foldl {α : Type} {f : State → α → State} (hf : ∀ (s : State) e, s.Quiet (f s e)) (l : List α) (s : State) :
    s.Quiet (l.foldl f s) := by
  induction l generalizing s with
  | nil => exact refl s
  | cons e l ih => exact (hf s e).trans (ih _)

theorem setSharers (s : State) (line : Nat) (l : List Nat) : s.Quiet (s.setSharers line l) := of_home (.of_rest rfl rfl rfl rfl rfl rfl) rfl

theorem post (s : State) (cl k : Nat) (ws : List Word) : s.Quiet (s.post cl k ws) := of_home (.of_rest rfl rfl rfl rfl rfl rfl) rfl

theorem dropCopy (s : State) (line g : Nat) : s.Quiet (s.dropCopy line g) := by
  unfold State.dropCopy
  refine .trans (.updCore s g fun c => ?_) (.setSharers ..)
  rfl

theorem strip (s : State) (line g : Nat) : s.Quiet (s.strip line g) := by
  unfold State.strip
  refine .trans (.updCore s g fun c => ?_) (.dropCopy ..)
  rfl

theorem addSharer (s : State) (line g : Nat) : s.Quiet (s.addSharer line g) := by
  unfold State.addSharer
  dsimp only
  split
  · exact .refl s
  · split
    · exact .setSharers ..
    · exact .trans (.updSlice ..) (.post ..)

theorem l1Out (s : State) (line g : Nat) : s.Quiet (s.l1Out line g) := by
  have leaves : s.Quiet (s.updCore g (fun c => { c with l1 := c.l1.out line })) := .updCore s g fun _ => rfl
  unfold State.l1Out
  dsimp only
  split
  · exact leaves
  · exact leaves.trans (.dropCopy ..)

theorem l1Data (s : State) (line g pol : Nat) : s.Quiet (s.l1Data line g pol) := by
  unfold State.l1Data
  dsimp only
  refine .trans ?_ (.updCore _ g fun _ => rfl)
  split
  · exact .refl s
  · exact .l1Out ..

theorem gainCopy (s : State) (line g : Nat) : s.Quiet (s.gainCopy line g) := by
  unfold State.gainCopy
  refine .trans (.updCore s g fun c => ?_) (.addSharer ..)
  rfl

theorem recalls (s : State) (line : Nat) : s.Quiet (s.recall line) := by
  unfold State.recall
  split
  · exact .refl s
  · dsimp only
    split
    · refine .trans (.updCore s _ fun c => ?_) (.updSliceOf ..)
      rfl
    · exact .updCore s _ fun _ => rfl

theorem recallFor (s : State) (g line : Nat) : s.Quiet (s.recallFor g line) := by
  unfold State.recallFor
  split
  · exact .refl s
  · exact .recalls ..

theorem ownLine (s : State) (line g pol : Nat) : s.Quiet (s.ownLine line g pol) := by
  unfold State.ownLine
  exact .trans (.l1Data ..) (.updCore _ g fun _ => rfl)

theorem ownCopyOut (s : State) (g line pol : Nat) : s.Quiet (s.ownCopyOut g line pol) := by
  unfold State.ownCopyOut
  dsimp only
  split
  · exact .refl s
  · split
    · exact .trans (.strip ..) (.updSliceOf ..)
    · exact .strip ..

theorem swept (s : State) (line : Nat) : s.Quiet (s.swept line) := by
  unfold State.swept
  split
  · exact .refl s
  · exact .updSliceOf ..

theorem unasked (s : State) (who : ReqWho) (line : Nat) : s.Quiet (s.unasked who line) := by
  unfold State.unasked
  split
  · exact .swept ..
  · exact .refl s

theorem send (s : State) (who : ReqWho) (line pol : Nat) (wr : Bool) : s.Quiet (s.send who line pol wr) := by
  unfold State.send
  dsimp only
  split
  · exact .hold ..
  · exact .updSliceOf ..

theorem readmit (s : State) : s.Quiet s.readmit := by
  unfold State.readmit
  split
  · exact .refl s
  · refine .trans (.hold ..) (.foldl (fun u r => ?_) _ _)
    split
    · exact .hold ..
    · exact .updSliceOf ..

end State.Quiet

/-! ## What asking for a line changes (R92, R100, R102) -/

/-- An access goes on, or waits, in a state whose caches alone differ. -/
def Ask.From (s : State) : Ask → Prop
  | .go u => s.Quiet u
  | .wait u => s.Quiet u
  | .no => True

theorem State.ask_from (s : State) (who : ReqWho) (addr pol : Nat) (wr more : Bool) : (s.ask who addr pol wr more).From s := by
  have take (t : State) (quiet : s.Quiet t) :
      s.Quiet (if more then t else t.updSliceOf (addr / 128) (fun k => k.consume who (addr / 128) pol)) := by
    split
    · exact quiet
    · exact quiet.trans (.updSliceOf ..)
  have readmitted := State.Quiet.readmit s
  unfold State.ask
  dsimp only
  split
  · exact .refl s
  · split
    · exact take _ readmitted
    · split
      · trivial
      · split
        · trivial
        · have sent := readmitted.trans (.send s.readmit who (addr / 128) pol wr)
          split
          · exact take _ sent
          · exact sent

theorem State.askCore_from (s : State) (who : ReqWho) (g addr pol : Nat) (wr more : Bool) : (s.askCore who g addr pol wr more).From s := by
  unfold State.askCore
  dsimp only
  split
  · exact .refl s
  · split
    · trivial
    · split
      · exact .refl s
      · split
        · trivial
        · have asked := s.ask_from who addr pol wr more
          split
          next t go =>
            rw [go] at asked
            exact State.Quiet.trans asked (.recalls ..)
          next => exact asked

theorem State.askAccess_from (s : State) (a : Agent) (who : ReqWho) (addr pol : Nat) (wr more : Bool) :
    (s.askAccess a who addr pol wr more).From s := by
  unfold State.askAccess
  split
  · exact .refl s
  · split
    · trivial
    · exact s.askCore_from ..

/-! ## Copies (R118, R123) -/

theorem exec_deliver {s : State} {wid g : Nat} (ev : s.ev = .two wid g) : exec .deliver s = event "DELIVER" (s.deliverInval wid g) := by
  show execDeliver s = _
  rw [execDeliver, ev]

theorem exec_drop {s : State} {g line : Nat} (ev : s.ev = .two g line) :
    exec .drop s = event "DROP" (if ((s.core g).copy line).isSome then some (s.dropCopy line g) else none) := by
  show execDrop s = _
  rw [execDrop, ev]

theorem State.dropCopy_copy (s : State) (line g : Nat) : ((s.dropCopy line g).core g).copy line = none := by
  have same (u : State) (l : List Nat) : (u.setSharers line l).core g = u.core g := rfl
  rw [State.dropCopy, same, State.core_updCore_same, Core.copy, Sparse.look_put_same]

theorem State.not_mem_sharers_dropCopy (s : State) (line g : Nat) : g ∉ (s.dropCopy line g).sharers line := by
  rw [State.dropCopy, State.setSharers, State.sharers, Sparse.look_put_same]
  simp

theorem deliver_removes {s : State} {wid g : Nat} {v : Inval} (ev : s.ev = .two wid g) (one : g ≠ allCores)
    (found : s.invals.find? (fun v => v.wid == wid && v.target == g) = some v) :
    ∃ t, exec .deliver s = .next t ∧ (t.core g).copy v.line = none ∧ v ∉ t.invals ∧ (∀ w, w ≠ v → w ∈ s.invals → w ∈ t.invals) ∧
      g ∉ t.sharers v.line ∧ t.mem = s.mem ∧ t.tags = s.tags ∧ t.poison = s.poison := by
  have delivers := exec_deliver ev
  rw [State.deliverInval, found] at delivers
  dsimp only at delivers
  rw [if_neg one] at delivers
  have home := (State.Quiet.dropCopy s v.line g).home
  refine ⟨_, delivers, s.dropCopy_copy v.line g, ?_, fun w other mem => ?_, s.not_mem_sharers_dropCopy v.line g, home.mem, home.tags, home.poison⟩
  · intro mem
    have kept := (List.mem_filter.1 mem).2
    simp at kept
  · exact List.mem_filter.2 ⟨mem, by simp [other]⟩

theorem drop_removes {s : State} {g line : Nat} (ev : s.ev = .two g line) (held : ((s.core g).copy line).isSome = true) :
    ∃ t, exec .drop s = .next t ∧ (t.core g).copy line = none ∧ g ∉ t.sharers line ∧ t.mem = s.mem ∧ t.tags = s.tags := by
  have drops := exec_drop ev
  rw [if_pos held] at drops
  have home := (State.Quiet.dropCopy s line g).home
  exact ⟨_, drops, s.dropCopy_copy line g, s.not_mem_sharers_dropCopy line g, home.mem, home.tags⟩

/-! ## Write-backs and directory replies (R101, R143, R144) -/

theorem exec_writeBack {s : State} {line : Nat} (ev : s.ev = .one line) : exec .writeBack s = event "WRITE_BACK" (s.writeBack line) := by
  show execWriteBack s = _
  rw [execWriteBack, ev]

theorem exec_victimOut {s : State} {g line : Nat} (ev : s.ev = .two g line) : exec .writeBack s = event "WRITE_BACK" (s.victimOut g line) := by
  show execWriteBack s = _
  rw [execWriteBack, ev]

theorem exec_sliceFill {s : State} {line : Nat} (ev : s.ev = .one line) : exec .sliceFill s = event "SLICE_FILL" (s.sliceFill line) := by
  show execSliceFill s = _
  rw [execSliceFill, ev]

theorem writeBack_drains {s : State} {line : Nat} {e : Nat × Bool} (ev : s.ev = .one line)
    (slot : (s.sliceOf line).wb.find? (fun e => decide (e.1 = line)) = some e) :
    ∃ t, exec .writeBack s = .next t ∧ (t.sliceOf line).wb = (s.sliceOf line).wb.erase e ∧ t.mem = s.mem := by
  have drains := exec_writeBack ev
  rw [State.writeBack, slot] at drains
  refine ⟨_, drains, ?_, (State.SameHome.updSliceOf ..).mem⟩
  rw [State.sliceOf_updSliceOf_same]

theorem victim_moves {s : State} {g line : Nat} (ev : s.ev = .two g line) (victim : (s.core g).l1.vict.contains line = true)
    (room : (s.sliceOf line).wb.length < 16) :
    ∃ t, exec .writeBack s = .next t ∧ (t.sliceOf line).wb = (s.sliceOf line).wb ++ [(line, true)] ∧
      (t.core g).l1.vict = (s.core g).l1.vict.erase line ∧ t.mem = s.mem := by
  have moves := exec_victimOut ev
  have open_ : ¬ (!(s.core g).l1.vict.contains line || decide (16 ≤ (s.sliceOf line).wb.length)) = true := by
    rw [victim, decide_eq_false (Nat.not_le.2 room)]
    decide
  rw [State.victimOut, if_neg open_] at moves
  refine ⟨_, moves, ?_, ?_, (State.SameHome.updSliceOf ..).mem⟩
  · rw [State.sliceOf_updSliceOf_same]
    rfl
  · have same (u : State) (f : Slice → Slice) : (u.updSliceOf line f).core g = u.core g := rfl
    rw [same, State.core_updCore_same]

theorem exec_directoryReply {s : State} {j cl slice : Nat} {bs : List Byte} (ev : s.ev = .one j) (flight : s.flights[j]? = some (.dir cl slice bs)) :
    exec .directoryReply s = event "DIRECTORY_REPLY" (if s.inOrder j then some ((s.landed j).directoryReply cl slice bs) else none) := by
  show execDirectoryReply s = _
  rw [execDirectoryReply, ev]
  dsimp only
  rw [flight]

/-- A reply changes what slices and invalidations know. -/
theorem State.directoryReply_keeps (s : State) (cl slice : Nat) (bs : List Byte) :
    (s.directoryReply cl slice bs).flights = s.flights ∧ (s.directoryReply cl slice bs).mem = s.mem ∧ (s.directoryReply cl slice bs).tags = s.tags := by
  have flagged (c : Bool) (f : Slice → Slice) : (if c = true then s.updSlice cl slice f else s).flights = s.flights ∧
      (if c = true then s.updSlice cl slice f else s).mem = s.mem ∧ (if c = true then s.updSlice cl slice f else s).tags = s.tags := by
    split <;> exact ⟨rfl, rfl, rfl⟩
  unfold State.directoryReply
  dsimp only
  split
  · exact ⟨rfl, rfl, rfl⟩
  · split
    · exact flagged ..
    · split
      · exact flagged ..
      · exact flagged ..

theorem directoryReply_lands {s : State} {j cl slice : Nat} {bs : List Byte} (ev : s.ev = .one j) (flight : s.flights[j]? = some (.dir cl slice bs))
    (turn : s.inOrder j = true) :
    ∃ t, exec .directoryReply s = .next t ∧ t.flights = s.flights.eraseIdx j ∧ t.mem = s.mem ∧ t.tags = s.tags := by
  have lands := exec_directoryReply ev flight
  rw [if_pos turn] at lands
  obtain ⟨flights, mem, tags⟩ := (s.landed j).directoryReply_keeps cl slice bs
  exact ⟨_, lands, flights, mem, tags⟩

/-! ## Requests of a slice that nothing can serve yet (R100, R102) -/

section
variable {k k2 : Slice} {r : SReq}

theorem Slice.serve_keeps (served : k.serve r = some k2) : k2.queue = k.queue ∧ k2.present = k.present := by
  unfold Slice.serve at served
  split at served
  · cases served
    split <;> exact ⟨rfl, rfl⟩
  · split at served
    · cases served
      exact ⟨rfl, rfl⟩
    · split at served
      · cases served
        exact ⟨rfl, rfl⟩
      · split at served
        · cases served
          exact ⟨rfl, rfl⟩
        · cases served

/-- A request waits in the queue: its line is absent and has no entry, and the miss table is full. -/
theorem Slice.serve_none_iff : k.serve r = none ↔
    k.present.contains r.line = false ∧ k.entry? r.line = none ∧ (r.wr && decide (r.pol = 4)) = false ∧ ¬ k.open_.length < 64 := by
  unfold Slice.serve
  split
  next present =>
    simp only [reduceCtorEq, false_iff]
    intro none
    cases none.1.symm.trans present
  next absent =>
    split
    next entry =>
      rw [Option.isSome_iff_ne_none] at entry
      simp [entry]
    next free =>
      have none : k.entry? r.line = none := by simpa using free
      split
      next bypass => simp [bypass]
      next plain =>
        split
        next room => simp [room]
        next full =>
          simp only [true_iff]
          exact ⟨Bool.eq_false_iff.2 absent, none, Bool.eq_false_iff.2 plain, full⟩

theorem Slice.pump_present (n : Nat) (k : Slice) : (Slice.pump n k).present = k.present := by
  induction n generalizing k with
  | zero => rfl
  | succ n ih =>
    unfold Slice.pump
    split
    · rfl
    · split
      next served => exact (ih _).trans (Slice.serve_keeps served).2
      · rfl

theorem Slice.pump_queue_le (n : Nat) (k : Slice) : (Slice.pump n k).queue.length ≤ k.queue.length := by
  induction n generalizing k with
  | zero => exact le_rfl
  | succ n ih =>
    unfold Slice.pump
    split
    · exact le_rfl
    next r rest queue =>
      split
      next k2 served =>
        have shorter : k2.queue = rest := (Slice.serve_keeps served).1
        rw [queue, List.length_cons]
        exact (shorter ▸ ih k2).trans (Nat.le_succ _)
      · exact le_rfl

/-- The head of the queue can be served by nothing. -/
def Slice.Stuck (k : Slice) : Prop := ∀ r rest, k.queue = r :: rest → ({ k with queue := rest } : Slice).serve r = none

theorem Slice.pump_of_stuck (stuck : k.Stuck) (n : Nat) : Slice.pump n k = k := by
  cases n with
  | zero => rfl
  | succ n =>
    unfold Slice.pump
    split
    · rfl
    next r rest queue => rw [stuck r rest queue]

/-- A queue that does not get shorter is stuck. -/
theorem Slice.stuck_of_pump {n : Nat} (same : (Slice.pump (n + 1) k).queue.length = k.queue.length) : k.Stuck := by
  intro r rest queue
  cases served : ({ k with queue := rest } : Slice).serve r with
  | none => rfl
  | some k2 =>
    have shorter : k2.queue = rest := (Slice.serve_keeps served).1
    have bound := Slice.pump_queue_le n k2
    rw [Slice.pump, queue] at same
    dsimp only at same
    rw [served, List.length_cons] at same
    dsimp only at same
    rw [shorter] at bound
    omega

end

/-- A slice in which nothing can move before a fill comes: its queue is stuck, and no entry is filled and served. -/
structure Slice.Settled (k : Slice) : Prop where
  stuck : k.Stuck
  entries : ∀ e ∈ k.open_, ¬ (e.filled && e.reqs.isEmpty) = true

/-- A slice that sweeping leaves as it is. -/
theorem State.settled_of_sweep {s : State} {k : Slice} (fixed : s.sweep k = k) : k.Settled := by
  have free : ∃ k1 : Slice, k1.queue.length ≤ k.queue.length ∧ (∀ e ∈ k1.open_, ¬ (e.filled && e.reqs.isEmpty) = true) ∧
      ∃ n, Slice.pump (n + 1) k1 = k := by
    refine ⟨_, ?_, ?_, _, fixed⟩
    · exact List.length_filter_le ..
    · intro e mem
      have kept := (List.mem_filter.1 mem).2
      rw [Bool.not_eq_true'] at kept
      exact Bool.eq_false_iff.1 kept
  obtain ⟨k1, shorter, entries, n, pumped⟩ := free
  have same : (Slice.pump (n + 1) k1).queue.length = k1.queue.length :=
    le_antisymm (Slice.pump_queue_le ..) (pumped.symm ▸ shorter)
  have stuck := Slice.stuck_of_pump same
  obtain rfl : k1 = k := (Slice.pump_of_stuck stuck _).symm.trans pumped
  exact ⟨stuck, entries⟩

/-! ## The first element that a test finds -/

section
variable {α : Type} {p : α → Bool} {f : α → α} {l : List α}

theorem updFirst_length : (updFirst p f l).length = l.length := by
  induction l with
  | nil => rfl
  | cons a l ih =>
    unfold updFirst
    split
    · rfl
    · rw [List.length_cons, ih, List.length_cons]

theorem mem_updFirst_of_find {e : α} (found : l.find? p = some e) : f e ∈ updFirst p f l := by
  induction l with
  | nil => cases found
  | cons a l ih =>
    unfold updFirst
    rw [List.find?_cons] at found
    split at found
    next here =>
      cases found
      simp [here]
    next there =>
      simp only [there, Bool.false_eq_true, if_false]
      exact List.mem_cons_of_mem _ (ih found)

theorem of_mem_updFirst {e x : α} (found : l.find? p = some e) (mem : x ∈ updFirst p f l) : x ∈ l ∨ x = f e := by
  induction l with
  | nil => cases found
  | cons a l ih =>
    unfold updFirst at mem
    rw [List.find?_cons] at found
    split at found
    next here =>
      cases found
      rw [here, if_pos rfl] at mem
      rcases List.mem_cons.1 mem with first | rest
      · exact .inr first
      · exact .inl (List.mem_cons_of_mem _ rest)
    next there =>
      rw [there, if_neg Bool.false_ne_true] at mem
      rcases List.mem_cons.1 mem with first | rest
      · exact .inl (first ▸ List.mem_cons_self ..)
      · exact (ih found rest).imp_left (List.mem_cons_of_mem _)

theorem find?_updFirst_none {q : α → Bool} (absent : l.find? q = none) (same : ∀ x, q (f x) = q x) : (updFirst p f l).find? q = none := by
  induction l with
  | nil => rfl
  | cons a l ih =>
    rw [List.find?_cons] at absent
    split at absent
    · cases absent
    next other =>
      unfold updFirst
      split
      · rw [List.find?_cons, same, other]
        exact absent
      · rw [List.find?_cons, other]
        exact ih absent

end

/-! ## A fill (R100) -/

/-- The data of an entry has come, and its prefetches are over. -/
def MissEntry.come (x : MissEntry) : MissEntry := { x with filled := true, reqs := x.reqs.filter (fun r => !r.pref) }

/-- A slice with the entry of a line filled, and the line where the entry installs it. -/
def Slice.fillEntry (k : Slice) (line : Nat) (e : MissEntry) (pol : Nat) : Slice :=
  let k1 := { k with open_ := updFirst (fun x => decide (x.line = line)) MissEntry.come k.open_ }
  if !e.alloc then k1 else
    { k1 with
      present := if pol = 2 then line :: k1.present.erase line else k1.present.erase line ++ [line]
      kept := if pol = 1 then natIns k1.kept line else k1.kept }

section
variable {k : Slice} {line pol : Nat} {e : MissEntry}

theorem Slice.fillEntry_rest (k : Slice) (line : Nat) (e : MissEntry) (pol : Nat) : (k.fillEntry line e pol).queue = k.queue ∧
    (k.fillEntry line e pol).open_ = updFirst (fun x => decide (x.line = line)) MissEntry.come k.open_ := by
  unfold Slice.fillEntry
  dsimp only
  split <;> exact ⟨rfl, rfl⟩

theorem Slice.fillEntry_present (installs : e.alloc = true) : (k.fillEntry line e pol).present.contains line = true := by
  unfold Slice.fillEntry
  simp only [installs, Bool.not_true, Bool.false_eq_true, if_false]
  split <;> simp

theorem Slice.fillEntry_absent {n : Nat} (other : n ≠ line) (absent : k.present.contains n = false) :
    (k.fillEntry line e pol).present.contains n = false := by
  rw [← Bool.not_eq_true, List.contains_iff_mem] at absent ⊢
  have erased : n ∉ k.present.erase line := fun mem => absent (List.mem_of_mem_erase mem)
  unfold Slice.fillEntry
  dsimp only
  split
  · exact absent
  · dsimp only
    split
    · exact List.not_mem_cons_of_ne_of_not_mem other erased
    · rw [List.mem_append, List.mem_singleton]
      exact not_or.2 ⟨erased, other⟩

/-- A fill leaves a stuck queue stuck: it makes no room in the miss table. -/
theorem Slice.fillEntry_stuck (stuck : k.Stuck) (entry : k.entry? line = some e) : (k.fillEntry line e pol).Stuck := by
  intro r rest queue
  obtain ⟨sameQueue, open_⟩ := k.fillEntry_rest line e pol
  obtain ⟨absent, none, plain, full⟩ := Slice.serve_none_iff.1 (stuck r rest (sameQueue.symm.trans queue))
  have other : r.line ≠ line := fun same => by
    rw [← same] at entry
    cases none.symm.trans entry
  refine Slice.serve_none_iff.2 ⟨Slice.fillEntry_absent other absent, ?_, plain, ?_⟩
  · show (k.fillEntry line e pol).open_.find? _ = _
    rw [open_]
    exact find?_updFirst_none none fun _ => rfl
  · show ¬ (k.fillEntry line e pol).open_.length < 64
    rw [open_, updFirst_length]
    exact full

/-- The requests of a filled entry can be performed. -/
theorem Slice.fillEntry_grants (settled : k.Settled) (entry : k.entry? line = some e) {r : SReq} (mem : r ∈ e.reqs) (plain : r.pref = false) :
    (k.fillEntry line e pol).free.grants r.who r.line = true := by
  obtain ⟨-, open_⟩ := k.fillEntry_rest line e pol
  have asks : r ∈ e.come.reqs := List.mem_filter.2 ⟨mem, by rw [plain]; rfl⟩
  have unserved : ∀ x ∈ (k.fillEntry line e pol).open_, ¬ (x.filled && x.reqs.isEmpty) = true := fun x hx => by
    rw [open_] at hx
    rcases of_mem_updFirst entry hx with old | rfl
    · exact settled.entries x old
    · intro served
      rw [Bool.and_eq_true, List.isEmpty_iff] at served
      exact List.ne_nil_of_mem asks served.2
  have all : (k.fillEntry line e pol).open_.filter (fun x => !(x.filled && x.reqs.isEmpty)) = (k.fillEntry line e pol).open_ :=
    List.filter_eq_self.2 fun x hx => by rw [Bool.eq_false_iff.2 (unserved x hx)]; rfl
  have stays : (k.fillEntry line e pol).free = k.fillEntry line e pol := by
    unfold Slice.free
    dsimp only
    rw [all]
    exact Slice.pump_of_stuck (Slice.fillEntry_stuck settled.stuck entry) _
  rw [stays, Slice.grants, open_, Bool.or_eq_true]
  right
  refine List.any_eq_true.2 ⟨e.come, mem_updFirst_of_find entry, ?_⟩
  rw [Bool.and_eq_true]
  exact ⟨rfl, List.any_eq_true.2 ⟨r, asks, by simp⟩⟩

end

/-- A part of every slice is the same. -/
def State.KeepsSlices {α : Type} (p : Slice → α) (s t : State) : Prop := ∀ c i, p ((t.cluster c).slice i) = p ((s.cluster c).slice i)

namespace State.KeepsSlices

variable {α : Type} {p : Slice → α} {s t u : State}

theorem refl (s : State) : s.KeepsSlices p s := fun _ _ => rfl

theorem trans (first : s.KeepsSlices p t) (second : t.KeepsSlices p u) : s.KeepsSlices p u :=
  fun c i => (second c i).trans (first c i)

theorem of_clusters (clusters : t.clusters = s.clusters) : s.KeepsSlices p t := fun c i => by
  rw [State.cluster, clusters]
  rfl

theorem updSlice (s : State) (c i : Nat) {f : Slice → Slice} (hf : ∀ k, p (f k) = p k) : s.KeepsSlices p (s.updSlice c i f) := fun d j => by
  by_cases cluster : c = d
  · subst cluster
    rw [State.updSlice, State.cluster_updCluster_same, Cluster.slice, Sparse.look_put]
    split
    next slice => rw [hf, slice]
    · rfl
  · rw [State.updSlice, State.updCluster, State.setCluster, State.cluster, Sparse.look_put, if_neg cluster]
    rfl

theorem foldl {β : Type} {f : State → β → State} (hf : ∀ (s : State) e, s.KeepsSlices p (f s e)) (l : List β) (s : State) :
    s.KeepsSlices p (l.foldl f s) := by
  induction l generalizing s with
  | nil => exact refl s
  | cons e l ih => exact (hf s e).trans (ih _)

end State.KeepsSlices

theorem State.KeepsSlices.post {α : Type} {p : Slice → α} (s : State) (cl k : Nat) (ws : List Word) : s.KeepsSlices p (s.post cl k ws) :=
  .of_clusters rfl

/-- The tables of a slice, and the lines it holds. -/
def Slice.tables (k : Slice) : List MissEntry × List SReq × List Nat := (k.open_, k.granted, k.present)

/-- The scale that a decode uses stays in the cache of its controller. -/
def State.scaledFor (s : State) (addr i : Nat) : State :=
  if hasScale (s.fwin i) then s.useScale (s.ctlOf addr) i (s.fwin i) (winBlock (s.fwin i) addr) else s

theorem State.scaledFor_keeps (s : State) (addr i : Nat) : s.SameHome (s.scaledFor addr i) ∧ (s.scaledFor addr i).clusters = s.clusters ∧
    (s.scaledFor addr i).cores = s.cores := by
  unfold State.scaledFor
  split
  · exact ⟨⟨rfl, rfl, rfl, rfl, rfl, fun _ => rfl⟩, rfl, rfl⟩
  · exact ⟨.refl s, rfl, rfl⟩

/-- A decode keeps its scale, and the line decoded. -/
theorem State.noteDecode_cases (s : State) (addr pol : Nat) :
    s.noteDecode addr pol = s ∨ ∃ i d, s.noteDecode addr pol = { s.scaledFor addr i with dec := d } := by
  unfold State.noteDecode
  split
  · exact .inl rfl
  · split
    · exact .inl rfl
    · split
      · exact .inl rfl
      next i _ _ =>
        right
        dsimp only
        split
        · exact ⟨i, (s.scaledFor addr i).dec, rfl⟩
        · exact ⟨i, _, rfl⟩

theorem State.noteDecode_parts (s : State) (addr pol : Nat) : ∃ u d, s.noteDecode addr pol = { u with dec := d } ∧ s.SameHome u ∧
    u.clusters = s.clusters ∧ u.cores = s.cores := by
  rcases s.noteDecode_cases addr pol with same | ⟨i, d, noted⟩
  · exact ⟨s, s.dec, same, .refl s, rfl, rfl⟩
  · exact ⟨_, d, noted, s.scaledFor_keeps addr i⟩

theorem State.noteDecode_home (s : State) (addr pol : Nat) : s.SameHome (s.noteDecode addr pol) := by
  obtain ⟨u, d, noted, home, -, -⟩ := s.noteDecode_parts addr pol
  rw [noted]
  exact home.trans (.of_rest rfl rfl rfl rfl rfl rfl)

theorem State.noteDecode_clusters (s : State) (addr pol : Nat) : (s.noteDecode addr pol).clusters = s.clusters := by
  obtain ⟨u, d, noted, -, clusters, -⟩ := s.noteDecode_parts addr pol
  rw [noted]
  exact clusters

theorem State.l1Data_clusters (s : State) (line g pol : Nat) : (s.l1Data line g pol).clusters = s.clusters := by
  have left (v : Nat) : (s.l1Out v g).clusters = s.clusters := by
    unfold State.l1Out
    dsimp only
    split <;> rfl
  unfold State.l1Data
  dsimp only
  refine (State.updCore_clusters ..).trans ?_
  split
  · rfl
  · exact left ..

theorem State.recall_tables (s : State) (line : Nat) : s.KeepsSlices Slice.tables (s.recall line) := by
  unfold State.recall
  split
  · exact .refl s
  · dsimp only
    split
    · refine .trans (.of_clusters ?_) (.updSlice _ _ _ fun _ => ?_)
      · rfl
      · rfl
    · exact .of_clusters rfl

theorem State.gainCopy_tables (s : State) (line g : Nat) : s.KeepsSlices Slice.tables (s.gainCopy line g) := by
  have added (u : State) : u.KeepsSlices Slice.tables (u.addSharer line g) := by
    unfold State.addSharer
    dsimp only
    split
    · exact .refl u
    · split
      · exact .of_clusters rfl
      · refine .trans (t := u.updSlice _ _ _) ?_ (.post _ _ _ _)
        exact .updSlice u _ _ fun _ => rfl
  unfold State.gainCopy
  refine .trans (.of_clusters ?_) (added _)
  rfl

/-- A prefetch brings a copy, and leaves memory and the tables of the slices. -/
theorem State.prefCopy_keeps (s : State) (g line pol : Nat) :
    s.SameHome (s.prefCopy g line pol) ∧ s.KeepsSlices Slice.tables (s.prefCopy g line pol) := by
  unfold State.prefCopy
  split
  · exact ⟨.refl s, .refl s⟩
  · have recalled : s.KeepsSlices Slice.tables (s.recallFor g line) := by
      unfold State.recallFor
      split
      · exact .refl s
      · exact s.recall_tables line
    constructor
    · exact (((State.Quiet.recallFor s g line).home.trans (State.noteDecode_home ..)).trans (State.Quiet.l1Data ..).home).trans
        (State.Quiet.gainCopy ..).home
    · exact ((recalled.trans (.of_clusters (State.noteDecode_clusters ..))).trans (.of_clusters (State.l1Data_clusters ..))).trans
        (State.gainCopy_tables _ _ _)

/-- The copies that a fill's prefetches bring. -/
def State.prefCopies (s : State) (line : Nat) (reqs : List SReq) : State :=
  reqs.foldl (fun u r => match r.who with
    | .unit a 4 _ _ => u.prefCopy a.gid line r.pol
    | _ => u) s

theorem State.prefCopies_keeps (s : State) (line : Nat) (reqs : List SReq) :
    s.SameHome (s.prefCopies line reqs) ∧ s.KeepsSlices Slice.tables (s.prefCopies line reqs) := by
  constructor
  · refine .foldl (fun u r => ?_) reqs s
    split
    · exact (u.prefCopy_keeps ..).1
    · exact .refl u
  · refine .foldl (fun u r => ?_) reqs s
    split
    · exact (u.prefCopy_keeps ..).2
    · exact .refl u

/-- The policy under which the line of a filled entry is used. -/
def MissEntry.fillPolicy (e : MissEntry) : Nat := match e.reqs.find? (fun r => decide (r.pol ≠ 4)) with | some r => r.pol | none => 0

theorem State.fill_of_clean {s : State} (clean : s.ecc = []) (line : Nat) (e : MissEntry) : s.fill line e =
    ((s.noteDecode (line * 128) (if e.alloc then 0 else 4)).updSliceOf line (fun k => (k.fillEntry line e e.fillPolicy).free)).prefCopies
      line e.reqs := by
  unfold State.fill
  rw [State.scrubRead_of_clean clean]
  rfl

/-- What a fill of a settled slice leaves. -/
theorem State.fill_done {s : State} (clean : s.ecc = []) {line : Nat} {e : MissEntry} (settled : (s.sliceOf line).Settled)
    (entry : (s.sliceOf line).entry? line = some e) :
    (e.alloc = true → ((s.fill line e).sliceOf line).present.contains line = true) ∧
      (∀ r ∈ e.reqs, r.pref = false → ((s.fill line e).sliceOf line).grants r.who r.line = true) ∧ s.SameHome (s.fill line e) := by
  have fill := State.fill_of_clean clean line e
  let filled := (s.noteDecode (line * 128) (if e.alloc then 0 else 4)).updSliceOf line (fun k => (k.fillEntry line e e.fillPolicy).free)
  have decoded (n : Nat) : (s.noteDecode (line * 128) n).sliceOf line = s.sliceOf line := by
    rw [(s.noteDecode_home (line * 128) n).sliceOf, State.cluster, State.noteDecode_clusters]
    rfl
  have slice : filled.sliceOf line = ((s.sliceOf line).fillEntry line e e.fillPolicy).free := by
    rw [State.sliceOf_updSliceOf_same, decoded]
  have tables : Slice.tables ((s.fill line e).sliceOf line) = Slice.tables (filled.sliceOf line) := by
    rw [fill, (filled.prefCopies_keeps line e.reqs).1.sliceOf]
    exact (filled.prefCopies_keeps line e.reqs).2 _ _
  rw [slice] at tables
  refine ⟨fun installs => ?_, fun r mem plain => ?_, ?_⟩
  · have present : ((s.fill line e).sliceOf line).present = ((s.sliceOf line).fillEntry line e e.fillPolicy).free.present :=
      congrArg (fun x : List MissEntry × List SReq × List Nat => x.2.2) tables
    rw [present, Slice.free, Slice.pump_present]
    exact Slice.fillEntry_present installs
  · have open_ : ((s.fill line e).sliceOf line).open_ = ((s.sliceOf line).fillEntry line e e.fillPolicy).free.open_ := congrArg Prod.fst tables
    have granted : ((s.fill line e).sliceOf line).granted = ((s.sliceOf line).fillEntry line e e.fillPolicy).free.granted :=
      congrArg (fun x : List MissEntry × List SReq × List Nat => x.2.1) tables
    rw [Slice.grants, open_, granted]
    exact Slice.fillEntry_grants settled entry mem plain
  · rw [fill]
    exact ((s.noteDecode_home ..).trans (.updSliceOf ..)).trans (State.prefCopies_keeps ..).1

theorem sliceFill_fills {s : State} {line : Nat} {e : MissEntry} (ev : s.ev = .one line)
    (swept : (s.updSliceOf line s.sweep).sliceOf line = s.sliceOf line) (entry : (s.sliceOf line).entry? line = some e)
    (waits : e.filled = false) (ready : notReadyPA s none true (line * 128) = false)
    (room : e.alloc = false ∨ ((s.sliceOf line).present.filter (fun l => decide (l % 1024 = line % 1024))).length < 16) (clean : s.ecc = []) :
    ∃ t, exec .sliceFill s = .next t ∧ (e.alloc = true → (t.sliceOf line).present.contains line = true) ∧
      (∀ r ∈ e.reqs, r.pref = false → (t.sliceOf line).grants r.who r.line = true) ∧ t.mem = s.mem ∧ t.tags = s.tags := by
  have home := State.SameHome.updSliceOf s line s.sweep
  have fixed : s.sweep (s.sliceOf line) = s.sliceOf line := (s.sliceOf_updSliceOf_same line s.sweep).symm.trans swept
  have goes : (!e.alloc || decide (((s.sliceOf line).present.filter (fun l => decide (l % 1024 = line % 1024))).length < 16)) = true := by
    rcases room with bypass | free
    · rw [bypass]
      rfl
    · rw [decide_eq_true free, Bool.or_true]
  have fills := exec_sliceFill ev
  rw [State.sliceFill, swept, entry] at fills
  dsimp only at fills
  rw [home.notReady, ready, waits, Bool.or_false, if_neg Bool.false_ne_true, if_pos goes] at fills
  obtain ⟨present, grants, same⟩ := State.fill_done (s := s.updSliceOf line s.sweep) (home.ecc.trans clean) (line := line) (e := e)
    (swept.symm ▸ State.settled_of_sweep fixed) (swept.symm ▸ entry)
  exact ⟨_, fills, present, grants, same.mem.trans home.mem, same.tags.trans home.tags⟩

/-! ## A write at its home (R121, R123) -/

/-- What an access of a context looks at: its pending accesses, its store buffer and its registers. -/
def Ctx.parts (c : Ctx) : List Access × List SbEntry × Sparse Reg × Sparse Line := (c.pend, c.sb, c.x, c.v)

/-- Memory and what accesses look at are the same. -/
structure State.Calm (s t : State) : Prop where
  home : s.SameHome t
  parts : s.KeepsCtx Ctx.parts t

namespace State.Calm

variable {s t u : State}

theorem refl (s : State) : s.Calm s := ⟨.refl s, .refl s⟩
theorem trans (first : s.Calm t) (second : t.Calm u) : s.Calm u := ⟨first.home.trans second.home, first.parts.trans second.parts⟩
theorem of_quiet (quiet : s.Quiet t) : s.Calm t := ⟨quiet.home, .of_ctxs quiet.ctxs⟩
theorem updCtx (s : State) (a : Agent) {f : Ctx → Ctx} (hf : ∀ c, (f c).parts = c.parts) : s.Calm (s.updCtx a f) := ⟨.updCtx .., .updCtx a hf⟩

theorem observe (s : State) (a : Agent) (ws : List Nat) : s.Calm (s.observe a ws) := by
  unfold State.observe
  split
  · exact refl s
  · exact updCtx s a fun _ => rfl

theorem ownWrite (s : State) (a : Agent) (wid : Nat) : s.Calm (s.ownWrite a wid) := by
  unfold State.ownWrite
  split
  · exact updCtx s a fun _ => rfl
  · exact refl s

end State.Calm

theorem mem_clearTags_iff (s : State) (addr n g : Nat) :
    g ∈ (s.clearTags addr n).tags ↔ g ∈ s.tags ∧ ¬ (n ≠ 0 ∧ addr / 16 ≤ g ∧ g ≤ (addr + n - 1) / 16) := by
  unfold State.clearTags
  split
  next none => simp [none]
  next some =>
    rw [List.mem_filter]
    refine and_congr_right fun _ => ?_
    simp only [Bool.not_eq_true', Bool.and_eq_false_iff, decide_eq_false_iff_not, ne_eq, some, not_false_eq_true, true_and]
    omega

/-- A write outside the holes puts its bytes. -/
theorem State.writeHome_stores {s : State} {w : HomeWrite} (lies : reservedPA s w.part w.svc w.addr = false) :
    (s.writeHome w).mem = (s.putWrite w).mem ∧ (s.writeHome w).tags = (s.putWrite w).tags ∧
      (s.writeHome w).poison = (s.putWrite w).poison := by
  unfold State.writeHome
  rw [if_neg (Bool.eq_false_iff.1 lies)]
  refine ⟨?_, ?_, ?_⟩ <;>
  · dsimp only
    split <;> simp only [State.prune_mem, State.prune_tags, State.prune_poison, State.markDirty_mem, State.markDirty_tags,
      State.markDirty_poison, State.patchOwn_mem, State.patchOwn_tags, State.patchOwn_poison, State.nameWriter_mem, State.nameWriter_tags,
      State.nameWriter_poison] <;> split <;> rfl

/-- The bytes `l` stand at an address, the granules they overlap have lost their tags, and nothing else of memory differs. -/
structure State.Stored (s t : State) (addr : Nat) (l : List Byte) : Prop where
  byte : ∀ y, t.byte y = if addr ≤ y ∧ y < addr + l.length then l.getD (y - addr) 0 else s.byte y
  tags : ∀ g, g ∈ t.tags ↔ g ∈ s.tags ∧ ¬ (l.length ≠ 0 ∧ addr / 16 ≤ g ∧ g ≤ (addr + l.length - 1) / 16)
  poison : t.poison = s.poison

section
variable {s t u : State} {addr : Nat} {l : List Byte}

theorem State.Stored.before (same : s.SameHome t) (stored : t.Stored u addr l) : s.Stored u addr l where
  byte y := by rw [stored.byte, same.byte]
  tags g := by rw [stored.tags, same.tags]
  poison := stored.poison.trans same.poison

theorem State.Stored.after (stored : s.Stored t addr l) (same : t.SameHome u) : s.Stored u addr l where
  byte y := by rw [same.byte, stored.byte]
  tags g := by rw [same.tags, stored.tags]
  poison := same.poison.trans stored.poison

theorem State.writeHome_stored {s : State} {w : HomeWrite} (lies : reservedPA s w.part w.svc w.addr = false) (plain : w.tag = false) :
    s.Stored (s.writeHome w) w.addr w.data := by
  obtain ⟨mem, tags, poison⟩ := State.writeHome_stores lies
  obtain ⟨oldTags, oldPoison, -, -⟩ := s.setBytes_frame w.addr w.data
  have put : s.putWrite w = ((s.setBytes w.addr w.data).clearTags w.addr w.data.length).clearErrs w.addr w.data.length := by
    rw [State.putWrite, plain]
    rfl
  have cleared : ((s.setBytes w.addr w.data).clearTags w.addr w.data.length).mem = (s.setBytes w.addr w.data).mem ∧
      ((s.setBytes w.addr w.data).clearTags w.addr w.data.length).poison = (s.setBytes w.addr w.data).poison := by
    unfold State.clearTags
    split <;> exact ⟨rfl, rfl⟩
  rw [put] at mem tags poison
  refine ⟨fun y => ?_, fun g => ?_, poison.trans (cleared.2.trans oldPoison)⟩
  · rw [← State.byte_setBytes]
    exact congrArg (fun m => Sparse.look 0 m y) (mem.trans cleared.1)
  · rw [tags, ← oldTags, ← mem_clearTags_iff]
    rfl

/-- The write of a context at its home (R98, R121). -/
theorem State.ctxWrite_stored {s : State} {a : Agent} {addr pol : Nat} {l : List Byte} {o : Order}
    (lies : reservedPA s (s.partOf a.gid) (isSvc a.gid) addr = false) :
    s.Stored (s.ctxWrite a addr pol l false o) addr l ∧ s.KeepsCtx Ctx.parts (s.ctxWrite a addr pol l false o) := by
  have out := State.Quiet.ownCopyOut s a.gid (addr / 128) pol
  have owned (c : Bool) (t : State) : t.Quiet (if c = true then t.ownLine (addr / 128) a.gid pol else t) := by
    split
    · exact .ownLine ..
    · exact .refl t
  have still : reservedPA (s.ownCopyOut a.gid (addr / 128) pol) (s.partOf a.gid) (isSvc a.gid) addr = false := (out.home.reserved ..).trans lies
  unfold State.ctxWrite
  dsimp only
  constructor
  · exact (State.Stored.before out.home (State.writeHome_stored still rfl)).after ((owned _ _).home.trans (State.Calm.ownWrite ..).home)
  · exact (((State.Calm.of_quiet out).parts.trans (.of_ctxs (State.writeHome_ctxs _ _))).trans (.of_ctxs (owned _ _).ctxs)).trans
      (State.Calm.ownWrite ..).parts

end

/-! ## A store that is performed (R123) -/

theorem exec_performStore {s : State} {a : Agent} {j u : Nat} (ev : s.ev = .access a j u) (low : a.ctx < 11) :
    exec .performStore s = event "PERFORM_STORE" (s.performStore a j u) := by
  show execPerformStore s = _
  rw [execPerformStore, ev]
  dsimp only
  rw [if_neg (Nat.not_le.2 low)]

/-- The last unit of a buffered store takes it from the buffer. -/
theorem Ctx.unitStored_last {c : Ctx} {j : Nat} {e : SbEntry} {x : SUnit} (held : c.sb[j]? = some e) (one : e.units = [x]) (now : Nat) :
    (c.unitStored j 0 now).sb = c.sb.eraseIdx j ∧ (c.unitStored j 0 now).x = c.x := by
  rw [Ctx.unitStored, held]
  simp [one]

theorem Ctx.fwdStored_parts (c : Ctx) (line store addr len ver : Nat) : (c.fwdStored line store addr len ver).parts = c.parts := by
  unfold Ctx.fwdStored
  split <;> rfl

section
variable {s u : State} {a : Agent} {j : Nat} {e : SbEntry} {x : SUnit} (held : (s.ctx a).sb[j]? = some e) (one : e.units = [x])
include held one

theorem State.performStore_asks (waits : x.done = false) (may : s.mayPerform a e.seq e.ord x.addr x.len false true = true)
    (apart : noSbOverlap (s.ctx a) e.seq x.addr x.len = true) : s.performStore a j 0 =
      (s.askAccess a (.unit a 1 e.seq e.firstAddr) (fwdAddr s x.addr) x.pol true false).andThen (fun t => t.storeHome a e j 0 x) := by
  have last : e.moreIn s (fwdAddr s x.addr / 128) 0 = false := by simp [SbEntry.moreIn, one]
  rw [State.performStore, held]
  simp only [one, List.getElem?_cons_zero, waits, may, apart, last, Bool.not_true, Bool.or_false, Bool.false_eq_true, if_false]

/-- What the store leaves of its context and of memory, once the line is there. -/
theorem State.storeHome_done (quiet : s.Quiet u) (part : e.whole = false) (plain : e.tag = false) (offset : x.off = 0)
    (length : e.data.length = x.len) :
    ((u.storeHome a e j 0 x).ctx a).sb = (s.ctx a).sb.eraseIdx j ∧ ((u.storeHome a e j 0 x).ctx a).x = (s.ctx a).x ∧
      (u.storeHome a e j 0 x).poison = s.poison ∧
      (reservedPA s (s.partOf a.gid) (isSvc a.gid) (fwdAddr s x.addr) = true → s.SameHome (u.storeHome a e j 0 x)) ∧
      (reservedPA s (s.partOf a.gid) (isSvc a.gid) (fwdAddr s x.addr) = false →
        s.Stored (u.storeHome a e j 0 x) (fwdAddr s x.addr) e.data) := by
  have last : e.moreIn u (fwdAddr u x.addr / 128) 0 = false := by simp [SbEntry.moreIn, one]
  have data : (e.data.drop x.off).take x.len = e.data := by rw [offset, List.drop_zero, ← length, List.take_length]
  have reserved := quiet.home.reserved (s.partOf a.gid) (isSvc a.gid) (fwdAddr s x.addr)
  -- whatever the write leaves of memory, the context's own change is the same
  have ends (v : State) (keeps : u.KeepsCtx Ctx.parts v) :
      let t := v.updCtx a (fun c => (c.unitStored j 0 u.now).fwdStored (x.addr / 128) e.seq x.addr x.len (v.version (fwdAddr u x.addr)))
      (t.ctx a).sb = (s.ctx a).sb.eraseIdx j ∧ (t.ctx a).x = (s.ctx a).x ∧ v.SameHome t := by
    intro t
    have parts : (v.ctx a).parts = (s.ctx a).parts := (keeps a).trans (congrArg Ctx.parts (quiet.ctx a))
    have sb : (v.ctx a).sb = (s.ctx a).sb := congrArg (fun p : List Access × List SbEntry × Sparse Reg × Sparse Line => p.2.1) parts
    have regs : (v.ctx a).x = (s.ctx a).x := congrArg (fun p : List Access × List SbEntry × Sparse Reg × Sparse Line => p.2.2.1) parts
    obtain ⟨left, same⟩ := Ctx.unitStored_last (c := v.ctx a) (sb ▸ held) one u.now
    have done : (t.ctx a).parts = ((v.ctx a).unitStored j 0 u.now).parts := by
      rw [State.ctx_updCtx_same, Ctx.fwdStored_parts]
    refine ⟨?_, ?_, .updCtx ..⟩
    · exact (congrArg (fun p : List Access × List SbEntry × Sparse Reg × Sparse Line => p.2.1) done).trans (left.trans (congrArg (·.eraseIdx j) sb))
    · exact (congrArg (fun p : List Access × List SbEntry × Sparse Reg × Sparse Line => p.2.2.1) done).trans (same.trans regs)
  have whole (c : Bool) (v : State) : (if (e.whole && c && !reservedPA u (u.partOf a.gid) (isSvc a.gid) (fwdAddr u x.addr)) = true
      then v.soundLine (fwdAddr u x.addr) a.gid else v) = v := by simp [part]
  unfold State.storeHome
  dsimp only
  rw [whole, last, data, plain, quiet.home.fwdAddr, quiet.home.partOf, reserved]
  cases hole : reservedPA s (s.partOf a.gid) (isSvc a.gid) (fwdAddr s x.addr)
  · obtain ⟨stored, keeps⟩ := State.ctxWrite_stored (s := u) (a := a) (addr := fwdAddr s x.addr) (pol := x.pol) (l := e.data) (o := e.ord)
      (by rw [quiet.home.partOf, reserved, hole])
    obtain ⟨sb, regs, same⟩ := ends _ keeps
    rw [quiet.home.fwdAddr] at sb regs same
    have all := (stored.before quiet.home).after same
    exact ⟨sb, regs, all.poison, nofun, fun _ => all⟩
  · obtain ⟨sb, regs, same⟩ := ends (u.countHole (fwdAddr s x.addr)) (.of_cores rfl)
    rw [quiet.home.fwdAddr] at sb regs same
    have all := (quiet.home.trans (.countHole ..)).trans same
    exact ⟨sb, regs, all.poison, fun _ => all, nofun⟩

end

/-! ## What an access of one unit takes (R123, R225) -/

/-- What a context remembers for `wmon` is beside its parts. -/
theorem Ctx.noteMon_parts (c : Ctx) (m : Mon) (line : Nat) : (c.noteMon m line).parts = c.parts := by
  unfold Ctx.noteMon
  dsimp only
  split
  · rfl
  · split
    · rfl
    · split <;> rfl

theorem Ctx.reachFences_parts (c : Ctx) (now : Nat) : (c.reachFences now).parts = c.parts := by
  unfold Ctx.reachFences
  split <;> rfl

/-- An access of one unit that has taken what a read gives. -/
def Access.took (e : Access) (x : AUnit) (r : HomeRead) : Access :=
  { e with units := [{ x with got := some r.bytes, tag := r.tag, psn := r.psn }] }

/-- Bytes are the same number with zeros after them. -/
theorem ofBytes_pad (l : List Byte) {n : Nat} (fits : l.length ≤ n) : ofBytes ((List.range n).map (fun i => l.getD i 0)) = ofBytes l := by
  induction n generalizing l with
  | zero => rw [List.length_eq_zero_iff.1 (Nat.le_zero.1 fits)]; rfl
  | succ n ih =>
    rw [List.range_succ_eq_map, List.map_cons, List.map_map, ofBytes]
    cases l with
    | nil => exact (congrArg (fun v => 0 + 256 * v) (ih [] (Nat.zero_le n)) :)
    | cons b l => exact congrArg (fun v => b.toNat + 256 * v) (ih l (Nat.le_of_succ_le_succ fits))

section
variable {e : Access} {x : AUnit} {r : HomeRead} (offset : x.off = 0) (length : x.len = e.size) (plain : e.ovl = [])
include offset length plain

theorem Access.value_took : (e.took x r).value = (List.range e.size).map (fun i => r.bytes.getD i 0) := by
  unfold Access.value
  refine List.map_congr_left fun i mem => ?_
  have inside : i < e.size := List.mem_range.1 mem
  simp [Access.took, plain, offset, length, inside]

/-- What an access of one unit writes into its register: the bytes it took, and zero for poisoned ones. -/
theorem Ctx.deliver_took {n : Nat} (dest : e.dest = .x n) (fits : r.bytes.length ≤ e.size) (c : Ctx) :
    c.deliver (e.took x r) = c.writeX n (wd (ofBytes (if r.psn = true then [] else r.bytes))) := by
  have poisoned : (e.took x r).poisoned = r.psn := by simp [Access.poisoned, Access.took]
  have goes : (e.took x r).dest = .x n := dest
  have size : (e.took x r).size = e.size := rfl
  unfold Ctx.deliver
  rw [poisoned, goes, size, Access.value_took offset length plain]
  dsimp only
  cases r.psn
  · rw [if_neg Bool.false_ne_true, if_neg Bool.false_ne_true, ofBytes_pad _ fits]
  · have zeros := ofBytes_pad [] (Nat.zero_le e.size)
    simp only [List.getD_nil] at zeros
    rw [if_pos rfl, if_pos rfl, zeros]

end

theorem finishAccess_home (s : State) (a : Agent) (e : Access) : s.SameHome (finishAccess s a e) := by
  unfold finishAccess
  dsimp only
  split
  · exact ((State.SameHome.updCtx ..).trans (.count ..)).trans (.mergeFail ..)
  · exact .updCtx ..

/-- A finished access leaves the pending list, and its context takes its value. -/
theorem finishAccess_ctx (s : State) (a : Agent) (e : Access) : ∃ c : Ctx,
    c.parts = ((s.ctx a).pend.filter (fun f => f.id ≠ e.id), (s.ctx a).sb, (s.ctx a).x, (s.ctx a).v) ∧
      (finishAccess s a e).ctx a = c.deliver e := by
  have failed (u : State) : ((u.count 7 0 e.psnLines.length).mergeFail a.gid).ctx a = u.ctx a :=
    State.Quiet.ctx (s := u) ⟨(State.SameHome.count ..).trans (.mergeFail ..),
      .trans (t := u.count 7 0 e.psnLines.length) (.of_cores rfl) (.updCore a.gid fun _ => rfl)⟩ a
  unfold finishAccess
  dsimp only
  split
  · exact ⟨_, Ctx.reachFences_parts .., by rw [failed, State.ctx_updCtx_same]⟩
  · exact ⟨_, Ctx.reachFences_parts .., by rw [State.ctx_updCtx_same]⟩

/-- What performing the unit of an access of one unit leaves. -/
theorem performUnit_done (s : State) (a : Agent) {e : Access} {x : AUnit} (one : e.units = [x]) (r : HomeRead) (took : Option Took) :
    s.SameHome (performUnit s a e 0 r took) ∧ ∃ c : Ctx,
      c.parts = ((s.ctx a).pend.filter (fun f => f.id ≠ e.id), (s.ctx a).sb, (s.ctx a).x, (s.ctx a).v) ∧
        (performUnit s a e 0 r took).ctx a = c.deliver (e.took x r) := by
  let s1 := s.updCtx a (fun c => { c with pend := c.pend.map (fun f => if f.id = e.id then e.took x r else f) })
  have pend : (s1.ctx a).parts =
      ((s.ctx a).pend.map (fun f => if f.id = e.id then e.took x r else f), (s.ctx a).sb, (s.ctx a).x, (s.ctx a).v) := by
    rw [State.ctx_updCtx_same]
    rfl
  have others : ((s.ctx a).pend.map (fun f => if f.id = e.id then e.took x r else f)).filter (fun f => f.id ≠ e.id) =
      (s.ctx a).pend.filter (fun f => f.id ≠ e.id) := by
    induction (s.ctx a).pend with
    | nil => rfl
    | cons f l ih =>
      rw [List.map_cons]
      by_cases own : f.id = e.id
      · have gone : (e.took x r).id = e.id := rfl
        rw [if_pos own, List.filter_cons_of_neg (by simp [gone]), List.filter_cons_of_neg (by simp [own]), ih]
      · rw [if_neg own, List.filter_cons_of_pos (by simp [own]), List.filter_cons_of_pos (by simp [own]), ih]
  -- with or without a note for `wmon` the access is finished from a state of the same parts
  have finish (s2 : State) (calm : s1.Calm s2) : s.SameHome (finishAccess s2 a (e.took x r)) ∧ ∃ c : Ctx,
      c.parts = ((s.ctx a).pend.filter (fun f => f.id ≠ e.id), (s.ctx a).sb, (s.ctx a).x, (s.ctx a).v) ∧
        (finishAccess s2 a (e.took x r)).ctx a = c.deliver (e.took x r) := by
    refine ⟨((State.SameHome.updCtx ..).trans calm.home).trans (finishAccess_home ..), ?_⟩
    obtain ⟨c, parts, ctx⟩ := finishAccess_ctx s2 a (e.took x r)
    have kept : (s2.ctx a).parts = _ := (calm.parts a).trans pend
    simp only [Ctx.parts, Prod.mk.injEq] at kept parts
    obtain ⟨keptPend, keptSb, keptX, keptV⟩ := kept
    obtain ⟨partPend, partSb, partX, partV⟩ := parts
    refine ⟨c, ?_, ctx⟩
    rw [Ctx.parts, partPend, partSb, partX, partV, keptPend, keptSb, keptX, keptV]
    exact congrArg (fun l => (l, (s.ctx a).sb, (s.ctx a).x, (s.ctx a).v)) others
  have performed : performUnit s a e 0 r took = finishAccess (match took with
      | some t => s1.updCtx a (fun c => c.noteMon ⟨e.seq, t.base, t.ths.mapIdx (fun i v => (x.addr + i, v)), []⟩ (x.addr / 128))
      | none => s1) a (e.took x r) := by
    unfold performUnit
    simp only [one, List.getElem?_cons_zero, List.mapIdx_cons, List.mapIdx_nil, if_true, List.all_cons, List.all_nil, Option.isSome_some, Bool.and_self]
    cases took <;> rfl
  rw [performed]
  cases took with
  | none => exact finish s1 (.refl s1)
  | some t => exact finish _ (.updCtx s1 a fun c => c.noteMon_parts ..)

/-- What an access leaves of a context whose register `n` it loads. -/
structure State.Loaded (s t : State) (a : Agent) (id n : Nat) (bs : List Byte) : Prop where
  reg : (t.ctx a).getX n = ⟨BitVec.ofNat 64 (ofBytes bs), false⟩
  pend : (t.ctx a).pend = (s.ctx a).pend.filter (fun f => f.id ≠ id)
  others : ∀ m, m ≠ n → ((t.ctx a).getX m).val = ((s.ctx a).getX m).val
  v : (t.ctx a).v = (s.ctx a).v

theorem Ctx.getX_of_x {c d : Ctx} (regs : c.x = d.x) (m : Nat) : c.getX m = d.getX m := by rw [Ctx.getX, Ctx.getX, regs]

theorem pairMate_ne {n : Nat} (nonzero : n ≠ 0) : pairMate n ≠ n := by
  unfold pairMate
  split
  · exact Nat.succ_ne_self n
  · exact Nat.pred_ne_self nonzero

theorem State.Loaded.of_parts {s t u : State} {a : Agent} {id n : Nat} {bs : List Byte} (loaded : s.Loaded t a id n bs)
    (same : t.KeepsCtx Ctx.parts u) : s.Loaded u a id n bs := by
  have parts := same a
  simp only [Ctx.parts, Prod.mk.injEq] at parts
  obtain ⟨pend, -, regs, v⟩ := parts
  exact ⟨(Ctx.getX_of_x regs n).trans loaded.reg, pend.trans loaded.pend,
    fun m other => (congrArg Reg.val (Ctx.getX_of_x regs m)).trans (loaded.others m other), v.trans loaded.v⟩

theorem State.performUnit_loaded {s u : State} {a : Agent} (same : s.KeepsCtx Ctx.parts u) {e : Access} {x : AUnit} (one : e.units = [x])
    (offset : x.off = 0) (length : x.len = e.size) (plain : e.ovl = []) {n : Nat} (dest : e.dest = .x n) (nonzero : n ≠ 0) {r : HomeRead}
    (fits : r.bytes.length ≤ x.len) (took : Option Took) :
    s.Loaded (performUnit u a e 0 r took) a e.id n (if r.psn = true then [] else r.bytes) := by
  obtain ⟨-, c, done, ctx⟩ := performUnit_done u a one r took
  have kept := same a
  simp only [Ctx.parts, Prod.mk.injEq] at done kept
  obtain ⟨donePend, -, doneX, doneV⟩ := done
  obtain ⟨keptPend, -, keptX, keptV⟩ := kept
  rw [Ctx.deliver_took offset length plain dest (length ▸ fits)] at ctx
  refine ⟨?_, ?_, fun m other => ?_, ?_⟩
  · rw [ctx, Ctx.getX_writeX, if_neg (by simp [nonzero]), if_neg (pairMate_ne nonzero), if_pos rfl]
    rfl
  · rw [ctx, Ctx.writeX_pend, donePend, keptPend]
  · have before : c.getX m = (s.ctx a).getX m := Ctx.getX_of_x (doneX.trans keptX) m
    rw [ctx, Ctx.getX_writeX, before]
    split
    · rfl
    · split
      · rfl
      · rw [if_neg (Ne.symm other)]
  · rw [ctx, Ctx.writeX_v, doneV, keptV]

/-- An access that returns nothing leaves the registers. -/
theorem State.performUnit_unreturned {s u : State} {a : Agent} (same : s.KeepsCtx Ctx.parts u) {e : Access} {x : AUnit} (one : e.units = [x])
    (dest : e.dest = .none) (r : HomeRead) (took : Option Took) :
    let t := performUnit u a e 0 r took
    (t.ctx a).pend = (s.ctx a).pend.filter (fun f => f.id ≠ e.id) ∧ (t.ctx a).x = (s.ctx a).x ∧ (t.ctx a).v = (s.ctx a).v := by
  obtain ⟨-, c, done, ctx⟩ := performUnit_done u a one r took
  have kept := same a
  simp only [Ctx.parts, Prod.mk.injEq] at done kept
  obtain ⟨donePend, -, doneX, doneV⟩ := done
  obtain ⟨keptPend, -, keptX, keptV⟩ := kept
  have nowhere : (e.took x r).dest = .none := dest
  have still : c.deliver (e.took x r) = c := by
    unfold Ctx.deliver
    rw [nowhere]
  rw [still] at ctx
  dsimp only
  rw [ctx, donePend, doneX, doneV, keptPend, keptX, keptV]
  exact ⟨rfl, rfl, rfl⟩

/-! ## Loads (R123, R124) -/

theorem exec_readHome {s : State} {a : Agent} {j u : Nat} (ev : s.ev = .access a j u) (low : a.ctx < 11) :
    exec .readHome s = event "READ_HOME" (s.readHome a j u) := by
  show execReadHome s = _
  rw [execReadHome, ev]
  dsimp only
  rw [if_neg (Nat.not_le.2 low)]

theorem exec_readCopy {s : State} {a : Agent} {j u : Nat} (ev : s.ev = .access a j u) :
    exec .readCopy s = event "READ_COPY" (s.readCopy a j u) := by
  show execReadCopy s = _
  rw [execReadCopy, ev]

theorem exec_forward {s : State} {a : Agent} {j u : Nat} (ev : s.ev = .access a j u) : exec .forward s = event "FORWARD" (s.forward a j u) := by
  show execForward s = _
  rw [execForward, ev]

theorem exec_atomic {s : State} {a : Agent} {j u : Nat} (ev : s.ev = .access a j u) : exec .atomic s = event "ATOMIC" (s.atomic a j u) := by
  show execAtomic s = _
  rw [execAtomic, ev]

theorem State.noteDecode_of_plain {s : State} {addr : Nat} (plain : isScratch addr = true ∨ windowOf s addr = none) (pol : Nat) :
    s.noteDecode addr pol = s := by
  unfold State.noteDecode
  split
  · rfl
  next outside =>
    rw [plain.resolve_left outside]

/-- A read outside holes and format windows takes the home's bytes. -/
theorem readHomeBytes_of_plain {s : State} {part : Option Nat} {svc : Bool} {addr : Nat} (lies : reservedPA s part svc addr = false)
    (plain : isScratch addr = true ∨ windowOf s addr = none) (len : Nat) :
    readHomeBytes s part svc addr len = ⟨s.bytes addr len, s.tagAt addr, s.poisoned addr⟩ := by
  have whole : (isScratch addr || (windowOf s addr).isNone) = true := by
    rcases plain with scratch | window
    · rw [scratch, Bool.true_or]
    · rw [window, Option.isNone_none, Bool.or_true]
  rw [readHomeBytes, if_neg (Bool.eq_false_iff.1 lies), if_pos whole]

theorem State.length_bytes (s : State) (addr n : Nat) : (s.bytes addr n).length = n := by
  induction n generalizing addr with
  | zero => rfl
  | succ n ih => rw [State.bytes, List.length_cons, ih]

section
variable {s u : State} {a : Agent} {j : Nat} {e : Access} {x : AUnit} (held : (s.ctx a).pend[j]? = some e) (one : e.units = [x])

section
include one

theorem Access.unitFirst_single : e.unitFirst x = true := by simp [Access.unitFirst, one]
theorem Access.moreIn_single (s : State) (line : Nat) : e.moreIn s line 0 = false := by simp [Access.moreIn, one]

include held

theorem State.unitOf_single (waits : x.got = none) : s.unitOf a j 0 = some (e, x) := by simp [State.unitOf, held, one, waits]

theorem State.readHome_asks (waits : x.got = none) (load : e.op = .load) (may : s.mayPerform a e.seq e.ord x.addr x.len true false = true)
    (apart : noSbOverlap (s.ctx a) e.seq x.addr x.len = true) : s.readHome a j 0 =
      (s.askAccess a (.unit a 0 e.id 0) (fwdAddr s x.addr) x.pol false false).andThen (fun t => t.takeHome a e 0 x) := by
  rw [State.readHome, State.unitOf_single held one waits]
  simp [load, may, apart, Access.unitFirst_single one, Access.moreIn_single one]

end

/-- What a read at the home takes: the bytes there, nothing from a hole. -/
theorem State.takeHome_hole (quiet : s.Quiet u) (hole : reservedPA s (s.partOf a.gid) (isSvc a.gid) (fwdAddr s x.addr) = true) :
    ∃ v r took, u.takeHome a e 0 x = performUnit v a e 0 r took ∧ s.Calm v ∧ r.bytes.length = x.len ∧ r.psn = true := by
  have reserved : reservedPA u (s.partOf a.gid) (isSvc a.gid) (fwdAddr s x.addr) = true := (quiet.home.reserved ..).trans hole
  unfold State.takeHome
  dsimp only
  rw [quiet.home.fwdAddr, quiet.home.partOf, if_pos reserved, readHomeBytes, if_pos reserved]
  exact ⟨_, _, _, rfl, (State.Calm.of_quiet quiet).trans ⟨.noteHole .., .of_ctxs (.of_cores rfl)⟩, by simp, rfl⟩

theorem State.takeHome_plain (quiet : s.Quiet u) (clean : s.ecc = [])
    (lies : reservedPA s (s.partOf a.gid) (isSvc a.gid) (fwdAddr s x.addr) = false)
    (plain : isScratch (fwdAddr s x.addr) = true ∨ windowOf s (fwdAddr s x.addr) = none) :
    ∃ v r took, u.takeHome a e 0 x = performUnit v a e 0 r took ∧ s.Calm v ∧ r.bytes = s.bytes (fwdAddr s x.addr) x.len ∧
      r.psn = s.poisoned (fwdAddr s x.addr) := by
  have out := quiet.trans (.ownCopyOut u a.gid (fwdAddr s x.addr / 128) x.pol)
  have window : isScratch (fwdAddr s x.addr) = true ∨
      windowOf (u.ownCopyOut a.gid (fwdAddr s x.addr / 128) x.pol) (fwdAddr s x.addr) = none := plain.imp_right (out.home.windowOf _).trans
  have copied (c : Prop) [Decidable c] (v : State) (line : Nat) :
      v.Quiet (if c then (v.l1Data line a.gid x.pol).gainCopy line a.gid else v) := by
    split
    · exact .trans (.l1Data ..) (.gainCopy ..)
    · exact .refl v
  unfold State.takeHome
  dsimp only
  rw [quiet.home.fwdAddr, quiet.home.partOf, if_neg (Bool.eq_false_iff.1 ((quiet.home.reserved ..).trans lies)),
    State.scrubRead_of_clean (out.home.ecc.trans clean), State.noteDecode_of_plain window,
    readHomeBytes_of_plain ((out.home.reserved ..).trans lies) window]
  exact ⟨_, _, _, rfl, ((State.Calm.of_quiet out).trans (.observe ..)).trans (.of_quiet (copied _ _ _)), out.home.bytes .., out.home.poisoned _⟩

end

/-- The bytes that a load takes reach its register, and nothing of memory changes. -/
theorem performUnit_loads {s v : State} {a : Agent} (calm : s.Calm v) {e : Access} {x : AUnit} (one : e.units = [x]) (offset : x.off = 0)
    (length : x.len = e.size) (plain : e.ovl = []) {n : Nat} (dest : e.dest = .x n) (nonzero : n ≠ 0) {r : HomeRead}
    (fits : r.bytes.length ≤ x.len) (took : Option Took) :
    s.Loaded (performUnit v a e 0 r took) a e.id n (if r.psn = true then [] else r.bytes) ∧ s.SameHome (performUnit v a e 0 r took) :=
  ⟨State.performUnit_loaded calm.parts one offset length plain dest nonzero fits took, calm.home.trans (performUnit_done v a one r took).1⟩

section
variable {s : State} {a : Agent} {j : Nat} {e : Access} {x : AUnit} (held : (s.ctx a).pend[j]? = some e) (one : e.units = [x])
  (waits : x.got = none) (load : e.op = .load) (may : s.mayPerform a e.seq e.ord x.addr x.len true false = true)
include held one waits load may

/-- A read of the core's own copy takes the copy's bytes. -/
theorem State.readCopy_takes {k : CopyLine} (apart : noSbOverlap (s.ctx a) e.seq x.addr x.len = true)
    (copy : (s.core a.gid).copy (fwdAddr s x.addr / 128) = some k) (data : (s.core a.gid).l1.dl.contains (fwdAddr s x.addr / 128) = true)
    (near : x.pol ≤ 2) (below : isScratch (fwdAddr s x.addr) = false) : ∃ v r took,
      s.readCopy a j 0 = some ((performUnit v a e 0 r took).unasked (.unit a 0 e.id 0) (fwdAddr s x.addr / 128)) ∧ s.Calm v ∧
        r.bytes = (List.range x.len).map (fun i => lineByte k.data (fwdAddr s x.addr % 128 + i)) ∧ r.psn = k.psn := by
  rw [State.readCopy, State.unitOf_single held one waits]
  dsimp only
  rw [copy]
  simp only [load, may, apart, data, below, Nat.not_lt.2 near, Access.unitFirst_single one, ne_eq, not_true_eq_false, decide_false, Bool.not_true,
    Bool.or_false, Bool.false_eq_true, if_false]
  exact ⟨_, _, _, rfl, (State.Calm.of_quiet (.l1Data ..)).trans (.observe ..), rfl, rfl⟩

/-- A load takes the bytes of the youngest earlier store that covers it. -/
theorem State.forward_takes {b : SbEntry} {y : SUnit} (youngest : youngestOverlap (s.ctx a) e.seq x.addr x.len = some (b, y))
    (starts : y.addr ≤ x.addr) (ends : x.addr + x.len ≤ y.addr + y.len) : ∃ r m line,
      s.forward a j 0 = some (((performUnit s a e 0 r none).updCtx a (fun c => c.noteMon m line)).unasked (.unit a 0 e.id 0)
        (fwdAddr s x.addr / 128)) ∧ r.bytes = (b.data.drop (y.off + (x.addr - y.addr))).take x.len ∧ r.psn = false := by
  rw [State.forward, State.unitOf_single held one waits]
  dsimp only
  rw [youngest]
  simp only [load, may, starts, ends, Access.unitFirst_single one, ne_eq, not_true_eq_false, decide_false, decide_true, Bool.not_true,
    Bool.and_self, Bool.or_false, Bool.false_eq_true, if_false, List.drop_drop]
  exact ⟨_, _, _, rfl, rfl, rfl⟩

end

/-! ## Atomics (R130, R298-R301) -/

theorem amoNew_length {op n : Nat} {old opnd cmp bs : List Byte} (writes : amoNew op n old opnd cmp = some bs) : bs.length = n := by
  unfold amoNew at writes
  dsimp only at writes
  split at writes
  case h_8 =>
    split at writes
    · cases writes
      exact length_toBytes ..
    · cases writes
  all_goals
    cases writes
    exact length_toBytes ..

/-- What stands at the home after an atomic: the new value, or the old one after a failed comparison. -/
def amoValue (op n : Nat) (old opnd cmp : List Byte) : List Byte := (amoNew op n old opnd cmp).getD old

/-- The results of the atomic operations (R300). -/
theorem ofBytes_amoValue (op n : Nat) (old opnd cmp : List Byte) :
    let new := ofBytes (amoValue op n old opnd cmp)
    let a := ofBytes old
    let b := ofBytes opnd
    let w := 8 * n
    (op = 0 → new = (a + b) % 2 ^ w) ∧ (op = 1 → new = (a &&& b) % 2 ^ w) ∧ (op = 2 → new = (a ||| b) % 2 ^ w) ∧
      (op = 3 → new = (a ^^^ b) % 2 ^ w) ∧ (op = 4 → new = (if sext w a ≤ sext w b then a else b) % 2 ^ w) ∧
      (op = 5 → new = (if sext w a ≤ sext w b then b else a) % 2 ^ w) ∧ (op = 6 → new = b % 2 ^ w) ∧
      (op = 7 → new = if a = ofBytes cmp then b % 2 ^ w else a) ∧
      (op = 8 → n = 4 → new = (faddF 8 0 false (decodeF 8 a) (decodeF 8 b)).raw % 2 ^ w) ∧
      (op = 8 → n = 8 → new = (faddF 7 0 false (decodeF 7 a) (decodeF 7 b)).raw % 2 ^ w) := by
  refine ⟨?_, ?_, ?_, ?_, ?_, ?_, ?_, ?_, ?_, ?_⟩
  case refine_8 =>
    rintro rfl
    unfold amoValue
    by_cases equal : ofBytes old = ofBytes cmp <;> simp [amoNew, equal, ofBytes_toBytes]
  case refine_9 | refine_10 =>
    rintro rfl rfl
    exact ofBytes_toBytes ..
  all_goals
    rintro rfl
    exact ofBytes_toBytes ..

theorem State.bytes_of_byte {s : State} {addr : Nat} {l : List Byte} (stand : ∀ i, i < l.length → s.byte (addr + i) = l.getD i 0) :
    s.bytes addr l.length = l := by
  induction l generalizing addr with
  | nil => rfl
  | cons b l ih =>
    have first := stand 0 (Nat.zero_lt_succ _)
    have rest (i : Nat) (inside : i < l.length) : s.byte (addr + 1 + i) = l.getD i 0 := by
      rw [Nat.add_assoc, Nat.add_comm 1 i]
      exact stand (i + 1) (Nat.succ_lt_succ inside)
    rw [List.length_cons, State.bytes, ih rest]
    exact congrArg (· :: l) first

/-- What an atomic that takes the bytes `old` leaves of memory. -/
structure State.Swapped (s t : State) (addr len : Nat) (new : List Byte) : Prop where
  outside : ∀ y, (y < addr ∨ addr + len ≤ y) → t.byte y = s.byte y
  bytes : t.bytes addr len = new
  poison : t.poison = s.poison

section
variable {s t u : State} {addr len : Nat} {new : List Byte}

theorem State.Swapped.after (swapped : s.Swapped t addr len new) (same : t.SameHome u) : s.Swapped u addr len new where
  outside y out := (same.byte y).trans (swapped.outside y out)
  bytes := (same.bytes addr len).trans swapped.bytes
  poison := same.poison.trans swapped.poison

theorem State.Stored.swapped (stored : s.Stored t addr new) (length : new.length = len) : s.Swapped t addr len new where
  outside y out := by rw [stored.byte, if_neg (by omega)]
  bytes := by
    subst length
    refine State.bytes_of_byte fun i inside => ?_
    rw [stored.byte, if_pos ⟨by omega, by omega⟩, Nat.add_sub_cancel_left]
  poison := stored.poison

theorem State.SameHome.swapped (same : s.SameHome t) (addr len : Nat) : s.Swapped t addr len (s.bytes addr len) :=
  ⟨fun y _ => same.byte y, same.bytes addr len, same.poison⟩

end

/-- The write of an atomic, or what a failed comparison leaves. -/
def State.amoWrite (s : State) (a : Agent) (e : Access) (x : AUnit) (addr : Nat) (new : Option (List Byte)) : State :=
  match new with
  | none => if isScratch addr then s else if x.pol ≤ 2 then s.dropCopy (addr / 128) a.gid else s.ownCopyOut a.gid (addr / 128) x.pol
  | some bs => s.ctxWrite a addr x.pol bs false e.ord

theorem State.amoWrite_swapped {s : State} {a : Agent} (e : Access) (x : AUnit) {addr : Nat}
    (lies : reservedPA s (s.partOf a.gid) (isSvc a.gid) addr = false) (op : Nat) (cmp : List Byte) :
    let t := s.amoWrite a e x addr (amoNew op x.len (s.bytes addr x.len) e.opnd cmp)
    s.Swapped t addr x.len (amoValue op x.len (s.bytes addr x.len) e.opnd cmp) ∧ s.KeepsCtx Ctx.parts t := by
  dsimp only
  unfold amoValue
  cases writes : amoNew op x.len (s.bytes addr x.len) e.opnd cmp with
  | none =>
    have quiet : s.Quiet (s.amoWrite a e x addr none) := by
      unfold State.amoWrite
      dsimp only
      split
      · exact .refl s
      · split
        · exact .dropCopy ..
        · exact .ownCopyOut ..
    exact ⟨quiet.home.swapped .., (State.Calm.of_quiet quiet).parts⟩
  | some bs =>
    obtain ⟨stored, keeps⟩ := State.ctxWrite_stored (s := s) (a := a) (addr := addr) (pol := x.pol) (l := bs) (o := e.ord) lies
    exact ⟨stored.swapped (amoNew_length writes), keeps⟩

section
variable {s u : State} {a : Agent} {j : Nat} {e : Access} {x : AUnit} (one : e.units = [x])
include one

theorem State.atomic_asks (held : (s.ctx a).pend[j]? = some e) (waits : x.got = none) {op : Nat}
    (kind : e.op = .amo op ∧ s.mayPerform a e.seq e.ord x.addr x.len true true = true ∨
      e.op = .red op ∧ s.mayPerform a e.seq e.ord x.addr x.len false true = true)
    (apart : noSbOverlap (s.ctx a) e.seq x.addr x.len = true) : s.atomic a j 0 =
      (s.askAccess a (.unit a 0 e.id 0) (fwdAddr s x.addr) x.pol true false).andThen (fun t => t.atomicHome a e op 0 x) := by
  rw [State.atomic, State.unitOf_single held one waits]
  rcases kind with ⟨kind, may⟩ | ⟨kind, may⟩ <;>
    simp [kind, may, apart, Access.unitFirst_single one, Access.moreIn_single one]

/-- What an atomic takes, and what it leaves at the home. -/
theorem State.atomicHome_takes (quiet : s.Quiet u) (clean : s.ecc = []) {addr : Nat} (home : addr = fwdAddr s x.addr)
    (lies : reservedPA s (s.partOf a.gid) (isSvc a.gid) addr = false) (plain : isScratch addr = true ∨ windowOf s addr = none)
    (sound : s.poisoned addr = false) (op : Nat) : ∃ v r took, u.atomicHome a e op 0 x = performUnit v a e 0 r took ∧
      s.KeepsCtx Ctx.parts v ∧ r.bytes = s.bytes addr x.len ∧ r.psn = false ∧
      s.Swapped (u.atomicHome a e op 0 x) addr x.len (amoValue op x.len (s.bytes addr x.len) e.opnd e.cmp) := by
  subst home
  have calm := (State.Calm.of_quiet quiet).trans (.observe u a (writersOf u.writers (fwdAddr s x.addr) x.len))
  have bytes := quiet.home.bytes (fwdAddr s x.addr) x.len
  have still := calm.home.bytes (fwdAddr s x.addr) x.len
  obtain ⟨swapped, keeps⟩ := State.amoWrite_swapped (s := u.observe a (writersOf u.writers (fwdAddr s x.addr) x.len)) (a := a) e x
    (addr := fwdAddr s x.addr) (by rw [calm.home.partOf, calm.home.reserved, lies]) op e.cmp
  rw [still] at swapped keeps
  have performed : ∃ took, u.atomicHome a e op 0 x = performUnit ((u.observe a (writersOf u.writers (fwdAddr s x.addr) x.len)).amoWrite a e x
      (fwdAddr s x.addr) (amoNew op x.len (s.bytes (fwdAddr s x.addr) x.len) e.opnd e.cmp)) a e 0
      ⟨s.bytes (fwdAddr s x.addr) x.len, u.tagAt (fwdAddr s x.addr), false⟩ took := by
    unfold State.atomicHome
    dsimp only
    rw [quiet.home.fwdAddr, quiet.home.partOf, if_neg (Bool.eq_false_iff.1 ((quiet.home.reserved ..).trans lies)),
      State.scrub_of_clean (quiet.home.ecc.trans clean),
      readHomeBytes_of_plain ((quiet.home.reserved ..).trans lies) (plain.imp_right (quiet.home.windowOf _).trans), bytes,
      (quiet.home.poisoned _).trans sound]
    exact ⟨_, rfl⟩
  obtain ⟨took, performed⟩ := performed
  refine ⟨_, _, took, performed, calm.parts.trans keeps, rfl, rfl, ?_⟩
  rw [performed]
  have all := swapped.after (performUnit_done _ a one ⟨s.bytes (fwdAddr s x.addr) x.len, u.tagAt (fwdAddr s x.addr), false⟩ took).1
  exact ⟨fun y out => (all.outside y out).trans (calm.home.byte y), all.bytes, all.poison.trans calm.home.poison⟩

end

/-! ## The moves (R123, R130) -/

/-- An ask that goes on, waits or is refused decides what the move that makes it does. -/
theorem event_asks {name : String} {r : Option State} {asks : Ask} {k : State → State} (move : r = asks.andThen k) :
    (∀ u, asks = .go u → event name r = .next (k u)) ∧ (∀ u, asks = .wait u → event name r = .next u) ∧
      (asks = .no → event name r = .fault (.notEnabled name)) := by
  subst move
  exact ⟨fun u go => by rw [go]; rfl, fun u wait => by rw [wait]; rfl, fun no => by rw [no]; rfl⟩

theorem State.askAccess_go {s u : State} {a : Agent} {who : ReqWho} {addr pol : Nat} {wr more : Bool}
    (go : s.askAccess a who addr pol wr more = .go u) : s.Quiet u := by
  have asked := s.askAccess_from a who addr pol wr more
  rwa [go] at asked

theorem State.askAccess_wait {s u : State} {a : Agent} {who : ReqWho} {addr pol : Nat} {wr more : Bool}
    (wait : s.askAccess a who addr pol wr more = .wait u) : s.Quiet u := by
  have asked := s.askAccess_from a who addr pol wr more
  rwa [wait] at asked

section
variable {s : State} {a : Agent} {j : Nat} (ev : s.ev = .access a j 0)
include ev

theorem performStore_moves (low : a.ctx < 11) {e : SbEntry} {x : SUnit} (held : (s.ctx a).sb[j]? = some e) (one : e.units = [x])
    (waits : x.done = false) (offset : x.off = 0) (length : e.data.length = x.len) (part : e.whole = false) (plain : e.tag = false)
    (may : s.mayPerform a e.seq e.ord x.addr x.len false true = true) (apart : noSbOverlap (s.ctx a) e.seq x.addr x.len = true) {addr : Nat}
    (home : addr = fwdAddr s x.addr) :
    let asks := s.askAccess a (.unit a 1 e.seq e.firstAddr) addr x.pol true false
    (∀ u, asks = .go u →
      ∃ t, exec .performStore s = .next t ∧ (t.ctx a).sb = (s.ctx a).sb.eraseIdx j ∧ (t.ctx a).x = (s.ctx a).x ∧
        t.poison = s.poison ∧ (∀ y, (y < addr ∨ addr + x.len ≤ y) → t.byte y = s.byte y) ∧
        (reservedPA s (s.partOf a.gid) (isSvc a.gid) addr = true → ∀ y, t.byte y = s.byte y) ∧
        (reservedPA s (s.partOf a.gid) (isSvc a.gid) addr = false →
          (∀ i, i < x.len → t.byte (addr + i) = e.data.getD i 0) ∧
          (∀ g, g ∈ t.tags ↔ g ∈ s.tags ∧ ¬ (x.len ≠ 0 ∧ addr / 16 ≤ g ∧ g ≤ (addr + x.len - 1) / 16)))) ∧
    (∀ u, asks = .wait u → exec .performStore s = .next u ∧ (u.ctx a).sb = (s.ctx a).sb ∧ u.mem = s.mem ∧ u.tags = s.tags) ∧
    (asks = .no → exec .performStore s = .fault (.notEnabled "PERFORM_STORE")) := by
  subst home
  rw [exec_performStore ev low]
  obtain ⟨goes, waiting, refused⟩ := event_asks (name := "PERFORM_STORE") (State.performStore_asks held one waits may apart)
  refine ⟨fun u go => ⟨_, goes u go, ?_⟩, fun u wait => ⟨waiting u wait, ?_⟩, refused⟩
  · obtain ⟨sb, regs, poison, hole, lies⟩ := State.storeHome_done held one (State.askAccess_go go) part plain offset length
    rw [← length]
    refine ⟨sb, regs, poison, fun y out => ?_, fun reserved => (hole reserved).byte, fun free => ⟨fun i inside => ?_, (lies free).tags⟩⟩
    · cases reserved : reservedPA s (s.partOf a.gid) (isSvc a.gid) (fwdAddr s x.addr)
      · rw [(lies reserved).byte, if_neg (by omega)]
      · exact (hole reserved).byte y
    · rw [(lies free).byte, if_pos ⟨by omega, by omega⟩, Nat.add_sub_cancel_left]
  · have quiet := State.askAccess_wait wait
    exact ⟨congrArg Ctx.sb (quiet.ctx a), quiet.home.mem, quiet.home.tags⟩

section
variable {e : Access} {x : AUnit} (held : (s.ctx a).pend[j]? = some e) (one : e.units = [x]) (waits : x.got = none)
include held one waits

theorem red_moves {op : Nat} (kind : e.op = .red op) (dest : e.dest = .none) (may : s.mayPerform a e.seq e.ord x.addr x.len false true = true)
    (apart : noSbOverlap (s.ctx a) e.seq x.addr x.len = true) {addr : Nat} {u : State} (home : addr = fwdAddr s x.addr)
    (go : s.askAccess a (.unit a 0 e.id 0) addr x.pol true false = .go u) (clean : s.ecc = [])
    (lies : reservedPA s (s.partOf a.gid) (isSvc a.gid) addr = false) (plain : isScratch addr = true ∨ windowOf s addr = none)
    (sound : s.poisoned addr = false) :
    ∃ t, exec .atomic s = .next t ∧ (t.ctx a).pend = (s.ctx a).pend.filter (fun f => f.id ≠ e.id) ∧ (t.ctx a).x = (s.ctx a).x ∧
      (t.ctx a).v = (s.ctx a).v ∧ s.Swapped t addr x.len (amoValue op x.len (s.bytes addr x.len) e.opnd e.cmp) := by
  obtain ⟨goes, -, -⟩ := event_asks (name := "ATOMIC") (State.atomic_asks one held waits (.inr ⟨kind, may⟩) apart)
  obtain ⟨v, r, took, performed, keeps, -, -, swapped⟩ := State.atomicHome_takes one (State.askAccess_go go) clean home lies plain sound op
  obtain ⟨pend, regs, vec⟩ := State.performUnit_unreturned keeps one dest r took
  rw [← performed] at pend regs vec
  exact ⟨_, (exec_atomic ev).trans (goes u (home ▸ go)), pend, regs, vec, swapped⟩

variable (offset : x.off = 0) (length : x.len = e.size) (bare : e.ovl = []) {n : Nat} (dest : e.dest = .x n) (nonzero : n ≠ 0)
include offset length bare dest nonzero

section
variable (load : e.op = .load) (may : s.mayPerform a e.seq e.ord x.addr x.len true false = true)
include load may

/-- A load that reads at the home: what it takes outside holes, and zero from holes and poisoned lines. -/
theorem readHome_moves (low : a.ctx < 11) (clean : s.ecc = []) (first : noSbOverlap (s.ctx a) e.seq x.addr x.len = true) {u : State}
    (go : s.askAccess a (.unit a 0 e.id 0) (fwdAddr s x.addr) x.pol false false = .go u) {bs : List Byte}
    (takes : reservedPA s (s.partOf a.gid) (isSvc a.gid) (fwdAddr s x.addr) = true ∧ bs = [] ∨
      reservedPA s (s.partOf a.gid) (isSvc a.gid) (fwdAddr s x.addr) = false ∧
        (isScratch (fwdAddr s x.addr) = true ∨ windowOf s (fwdAddr s x.addr) = none) ∧
        bs = if s.poisoned (fwdAddr s x.addr) = true then [] else s.bytes (fwdAddr s x.addr) x.len) :
    ∃ t, exec .readHome s = .next t ∧ s.Loaded t a e.id n bs ∧ s.SameHome t := by
  obtain ⟨goes, -, -⟩ := event_asks (name := "READ_HOME") (State.readHome_asks held one waits load may first)
  have quiet := State.askAccess_go go
  refine ⟨_, (exec_readHome ev low).trans (goes u go), ?_⟩
  rcases takes with ⟨hole, rfl⟩ | ⟨lies, plain, rfl⟩
  · obtain ⟨v, r, took, performed, calm, bytes, psn⟩ := State.takeHome_hole (e := e) quiet hole
    have loads := performUnit_loads (a := a) calm one offset length bare dest nonzero (r := r) bytes.le took
    rwa [← performed, if_pos psn] at loads
  · obtain ⟨v, r, took, performed, calm, bytes, psn⟩ := State.takeHome_plain (e := e) quiet clean lies plain
    have loads := performUnit_loads (a := a) calm one offset length bare dest nonzero (r := r) (by rw [bytes, State.length_bytes]) took
    rwa [← performed, psn, bytes] at loads

theorem readCopy_moves (first : noSbOverlap (s.ctx a) e.seq x.addr x.len = true) {k : CopyLine}
    (copy : (s.core a.gid).copy (fwdAddr s x.addr / 128) = some k) (data : (s.core a.gid).l1.dl.contains (fwdAddr s x.addr / 128) = true)
    (near : x.pol ≤ 2) (below : isScratch (fwdAddr s x.addr) = false) (sound : k.psn = false) :
    ∃ t, exec .readCopy s = .next t ∧
      s.Loaded t a e.id n ((List.range x.len).map (fun i => lineByte k.data (fwdAddr s x.addr % 128 + i))) ∧ s.SameHome t := by
  obtain ⟨v, r, took, takes, calm, bytes, psn⟩ := State.readCopy_takes held one waits load may first copy data near below
  obtain ⟨loaded, home⟩ := performUnit_loads (a := a) calm one offset length bare dest nonzero (r := r) (by simp [bytes]) took
  rw [psn, sound, if_neg Bool.false_ne_true, bytes] at loaded
  have left := State.Quiet.unasked (performUnit v a e 0 r took) (.unit a 0 e.id 0) (fwdAddr s x.addr / 128)
  exact ⟨_, (exec_readCopy ev).trans (congrArg (event "READ_COPY") takes), loaded.of_parts (State.Calm.of_quiet left).parts, home.trans left.home⟩

theorem forward_moves {b : SbEntry} {y : SUnit} (youngest : youngestOverlap (s.ctx a) e.seq x.addr x.len = some (b, y))
    (starts : y.addr ≤ x.addr) (ends : x.addr + x.len ≤ y.addr + y.len) :
    ∃ t, exec .forward s = .next t ∧ s.Loaded t a e.id n ((b.data.drop (y.off + (x.addr - y.addr))).take x.len) ∧ s.SameHome t := by
  obtain ⟨r, m, line, takes, bytes, psn⟩ := State.forward_takes held one waits load may youngest starts ends
  obtain ⟨loaded, home⟩ := performUnit_loads (a := a) (.refl s) one offset length bare dest nonzero (r := r) (bytes ▸ List.length_take_le ..) none
  rw [psn, if_neg Bool.false_ne_true, bytes] at loaded
  have noted : (performUnit s a e 0 r none).Calm _ := .updCtx _ a fun c => c.noteMon_parts m line
  have left := noted.trans (.of_quiet (.unasked _ (.unit a 0 e.id 0) (fwdAddr s x.addr / 128)))
  exact ⟨_, (exec_forward ev).trans (congrArg (event "FORWARD") takes), loaded.of_parts left.parts, home.trans left.home⟩

end

theorem amo_moves {op : Nat} {u : State} {addr : Nat} (kind : e.op = .amo op)
    (may : s.mayPerform a e.seq e.ord x.addr x.len true true = true) (first : noSbOverlap (s.ctx a) e.seq x.addr x.len = true)
    (home : addr = fwdAddr s x.addr) (go : s.askAccess a (.unit a 0 e.id 0) addr x.pol true false = .go u) (clean : s.ecc = [])
    (lies : reservedPA s (s.partOf a.gid) (isSvc a.gid) addr = false) (plain : isScratch addr = true ∨ windowOf s addr = none)
    (sound : s.poisoned addr = false) :
    ∃ t, exec .atomic s = .next t ∧ s.Loaded t a e.id n (s.bytes addr x.len) ∧
      s.Swapped t addr x.len (amoValue op x.len (s.bytes addr x.len) e.opnd e.cmp) := by
  obtain ⟨goes, -, -⟩ := event_asks (name := "ATOMIC") (State.atomic_asks one held waits (.inl ⟨kind, may⟩) first)
  obtain ⟨v, r, took, performed, keeps, bytes, psn, swapped⟩ :=
    State.atomicHome_takes one (State.askAccess_go go) clean home lies plain sound op
  have loaded := State.performUnit_loaded (a := a) keeps one offset length bare dest nonzero (r := r) (by rw [bytes, State.length_bytes]) took
  rw [← performed, psn, if_neg Bool.false_ne_true, bytes] at loaded
  exact ⟨_, (exec_atomic ev).trans (goes u (home ▸ go)), loaded, swapped⟩

end

end

/-- Settles O41: what each move changes of memory, of its context and of the caches, from the frame lemmas above. -/
theorem orderingMoves : Obligations.OrderingMoves := by
  unfold Obligations.OrderingMoves
  refine ⟨fun s a j ev low clean => ⟨?_, ?_, ?_⟩, fun s => ⟨?_, ?_, ?_, ?_, ?_⟩⟩
  · intro e x held one waits offset length part plain may apart addr home
    exact performStore_moves ev low held one waits offset length part plain may apart home
  · intro e x n held one waits offset length _ plain dest nonzero after hole addr home
    -- what a load leaves, said with the obligation's own words
    have loaded {t : State} {bs : List Byte} (l : s.Loaded t a e.id n bs) (h : s.SameHome t) :
        after t bs ∧ t.mem = s.mem ∧ t.tags = s.tags := ⟨⟨l.reg, l.pend, l.others, l.v, h.poison⟩, h.mem, h.tags⟩
    subst home
    refine ⟨fun u load may first go => ?_, fun u load may first wait => ?_, fun k load may first copy data near below sound => ?_,
      fun b y load may youngest starts ends => ?_, fun op u kind may first go lies plainHome sound => ?_⟩
    · have reads {bs : List Byte} := readHome_moves ev held one waits offset length plain dest nonzero load may low clean first go (bs := bs)
      refine ⟨fun lies plainHome sound => ?_, fun zero => ?_⟩
      · obtain ⟨t, next, l, h⟩ := reads (.inr ⟨lies, plainHome, by rw [if_neg (Bool.eq_false_iff.1 sound)]⟩)
        exact ⟨t, next, loaded l h⟩
      · have takes : reservedPA s (s.partOf a.gid) (isSvc a.gid) (fwdAddr s x.addr) = true ∧ ([] : List Byte) = [] ∨
            reservedPA s (s.partOf a.gid) (isSvc a.gid) (fwdAddr s x.addr) = false ∧
              (isScratch (fwdAddr s x.addr) = true ∨ windowOf s (fwdAddr s x.addr) = none) ∧
              [] = if s.poisoned (fwdAddr s x.addr) = true then [] else s.bytes (fwdAddr s x.addr) x.len := by
          cases lies : reservedPA s (s.partOf a.gid) (isSvc a.gid) (fwdAddr s x.addr)
          · obtain ⟨plainHome, poisoned⟩ := zero.resolve_left (Bool.eq_false_iff.1 lies)
            exact .inr ⟨rfl, plainHome, by rw [if_pos poisoned]⟩
          · exact .inl ⟨rfl, rfl⟩
        obtain ⟨t, next, l, h⟩ := reads takes
        exact ⟨t, next, loaded l h⟩
    · obtain ⟨-, waiting, -⟩ := event_asks (name := "READ_HOME") (State.readHome_asks held one waits load may first)
      have quiet := State.askAccess_wait wait
      exact ⟨(exec_readHome ev low).trans (waiting u wait), congrArg Ctx.pend (quiet.ctx a), quiet.home.mem, quiet.home.tags⟩
    · obtain ⟨t, next, l, h⟩ :=
        readCopy_moves ev held one waits offset length plain dest nonzero load may first copy data near below sound
      exact ⟨t, next, loaded l h⟩
    · obtain ⟨t, next, l, h⟩ := forward_moves ev held one waits offset length plain dest nonzero load may youngest starts ends
      exact ⟨t, next, loaded l h⟩
    · obtain ⟨t, next, l, swapped⟩ :=
        amo_moves ev held one waits offset length plain dest nonzero kind may first rfl go clean lies plainHome sound
      refine ⟨t, next, ⟨l.reg, l.pend, l.others, l.v, swapped.poison⟩, swapped.outside, ?_⟩
      rw [swapped.bytes]
      exact ofBytes_amoValue op x.len (s.bytes (fwdAddr s x.addr) x.len) e.opnd e.cmp
  · intro e x op held one waits kind dest may apart addr u home go lies plain sound
    obtain ⟨t, next, pend, regs, vec, swapped⟩ := red_moves ev held one waits kind dest may apart home go clean lies plain sound
    refine ⟨t, next, pend, regs, vec, swapped.outside, ?_⟩
    rw [swapped.bytes]
    obtain ⟨sum, -, -, -, least, greatest, -, -, single, double⟩ := ofBytes_amoValue op x.len (s.bytes addr x.len) e.opnd e.cmp
    exact ⟨sum, least, greatest, single, double⟩
  · exact fun wid g v ev one found => deliver_removes ev one found
  · exact fun g line ev held => drop_removes ev held
  · exact fun line ev => ⟨fun e swept entry waits ready room clean => sliceFill_fills ev swept entry waits ready room clean,
      fun e slot => writeBack_drains ev slot⟩
  · exact fun g line ev victim room => victim_moves ev victim room
  · exact fun j cl slice bs ev flight turn => directoryReply_lands ev flight turn

end Sys2Proof.Machine
end

section
/-! PROOFS. What an open commit region and the levels forbid (R150, R211, R267, R269). -/

namespace Sys2Proof.Machine

open Sys2Proof

/-! ## Inside an open region (R150) -/

/-- An instruction that no region admits traps inside one, whatever its body. -/
theorem issue_illegal_in_region {h : Hdr} {s : State} (free : s.me.held = false) (guard : s.me.guard h = true)
    (inside : s.me.region.isSome = true) (srcs dsts : List Operand) (body : State → Res) :
    issue h s .illegal srcs dsts body = .next (s.fault s.cur h 5 0 s.me.slotVal) := by
  simp only [State.me] at *
  simp [issue, free, guard, inside]

/-- The meaning of an instruction is an execution that no region admits. -/
def Barred (h : Hdr) (s : State) (r : Out) : Prop := ∃ srcs dsts body, r = issue h s .illegal srcs dsts body

theorem Barred.traps {h : Hdr} {s : State} {r : Out} (barred : Barred h s r) (free : s.me.held = false) (guard : s.me.guard h = true)
    (inside : s.me.region.isSome = true) : r = .next (s.fault s.cur h 5 0 s.me.slotVal) := by
  obtain ⟨srcs, dsts, body, rfl⟩ := barred
  exact issue_illegal_in_region free guard inside ..

/-- `pbegin` within a region traps, at the place its own words ask for and at any other. -/
theorem pbegin_in_region {h : Hdr} {s : State} (free : s.me.held = false) (guard : s.me.guard h = true)
    (inside : s.me.region.isSome = true) (o : FmtPB) : exec (.pbegin h o) s = .next (s.fault s.cur h 5 0 s.me.slotVal) := by
  show execPbegin h o s = _
  unfold execPbegin
  split
  · rfl
  · exact issue_illegal_in_region free guard inside ..

/-! ## What a level forbids (R211, R267, R269) -/

theorem sprRead_eq_none {s : State} {n : Nat}
    (denied : s.me.level = .user ∧ ((0x070 ≤ n ∧ n ≤ 0x076) ∨ n = 0x088 ∨ n = 0x089) ∨
      s.me.level ≠ .hypervisor ∧ ((0x078 ≤ n ∧ n ≤ 0x07E) ∨ n = 0x098)) : sprRead s n = none := by
  rcases denied with ⟨user, range | rfl | rfl⟩ | ⟨below, range | rfl⟩
  · obtain ⟨low, high⟩ := range
    interval_cases n <;> simp [sprRead, user]
  · simp [sprRead, user]
  · simp [sprRead, user]
  · obtain ⟨low, high⟩ := range
    interval_cases n <;> simp [sprRead, below]
  · simp [sprRead, below]

theorem Ctx.sprWrite_eq_none {c : Ctx} {n : Nat}
    (denied : c.level = .user ∧ 0x070 ≤ n ∧ n ≤ 0x076 ∨ c.level ≠ .hypervisor ∧ 0x078 ≤ n ∧ n ≤ 0x07E) (w : Word) :
    c.sprWrite n w = none := by
  rcases denied with ⟨user, low, high⟩ | ⟨below, low, high⟩
  · interval_cases n <;> simp [Ctx.sprWrite, user]
  · interval_cases n <;> simp [Ctx.sprWrite, below]

section
variable {h : Hdr} {s s1 : State}

theorem rfe_denied (hi : Issues h s .illegal [] [] s1) (user : s.me.level = .user) :
    exec (.rfe h) s = .next (s1.fault s.cur h 5 0 s.me.slotVal) := by
  have level : s1.me.level = .user := hi.me_level.trans user
  refine (issue_of_issues hi _).trans (Eq.trans ?_ hi.close_illegal)
  simp only [level, if_true]

theorem mfs_denied {o : FmtSYS} (hi : Issues h s .normal [] [o.d] s1)
    (denied : s.me.level = .user ∧ ((0x070 ≤ o.spr.toNat ∧ o.spr.toNat ≤ 0x076) ∨ o.spr = 0x088 ∨ o.spr = 0x089) ∨
      s.me.level ≠ .hypervisor ∧ ((0x078 ≤ o.spr.toNat ∧ o.spr.toNat ≤ 0x07E) ∨ o.spr = 0x098)) :
    exec (.mfs h o) s = .next (s1.fault s.cur h 5 0 s.me.slotVal) := by
  have number (k : BitVec 12) : o.spr = k ↔ o.spr.toNat = k.toNat := BitVec.toNat_inj.symm
  have unread : sprRead s1 o.spr.toNat = none := sprRead_eq_none (by simpa [number, hi.me_level] using denied)
  have other : ¬ o.spr = 0x012 := by
    rw [number]
    simp only [number] at denied
    simp at denied ⊢
    omega
  show execMfs h o s = _
  simp only [execMfs, other, decide_false, Bool.false_and, Bool.false_eq_true, if_false]
  refine (issue_of_issues hi _).trans (Eq.trans ?_ hi.close_illegal)
  simp only [unread]

theorem mts_denied {o : FmtSYS} (hi : Issues h s .normal [o.a] [] s1)
    (denied : s.me.level = .user ∧ 0x070 ≤ o.spr.toNat ∧ o.spr.toNat ≤ 0x076 ∨
      s.me.level ≠ .hypervisor ∧ 0x078 ≤ o.spr.toNat ∧ o.spr.toNat ≤ 0x07E) :
    exec (.mts h o) s = .next (s1.fault s.cur h 5 0 s.me.slotVal) := by
  have unwritten : (s1.me.readS o.a).2.sprWrite o.spr.toNat (s1.me.readS o.a).1 = none :=
    Ctx.sprWrite_eq_none (by simpa [hi.me_level] using denied) _
  have others : ¬ o.spr = 0x053 ∧ ¬ o.spr = 0x054 := by
    constructor <;> rintro same <;> rw [same] at denied <;> simp at denied
  refine (issue_of_issues hi _).trans (Eq.trans ?_ hi.close_illegal)
  simp only [others.1, others.2, if_false, unwritten]

theorem mqoWrite_denied {o : FmtSYS} (hi : Issues h s .normal [o.a] [] s1) (user : s.me.level = .user) :
    exec (.mqoWrite h o) s = .next (s1.fault s.cur h 5 0 s.me.slotVal) := by
  have level : s1.me.level = .user := hi.me_level.trans user
  refine (issue_of_issues hi _).trans (Eq.trans ?_ hi.close_illegal)
  simp only [level, if_true]

theorem svcrReadyWrite_denied {o : FmtSYS} (hi : Issues h s .normal [o.a] [] s1) (below : s.me.level ≠ .hypervisor) :
    exec (.svcrReadyWrite h o) s = .next (s1.fault s.cur h 5 0 s.me.slotVal) := by
  have level : s1.me.level ≠ .hypervisor := hi.me_level ▸ below
  refine (issue_of_issues hi _).trans (Eq.trans ?_ hi.close_illegal)
  simp only [ne_eq, level, not_false_eq_true, true_or, if_true]

end

/-- Settles O11: inside a region every listed form is an execution that no region admits, and a level's refusals are illegal bodies. -/
theorem forbidden : Obligations.Forbidden := by
  unfold Obligations.Forbidden
  refine ⟨fun h s free guard inside => ?_, fun h s s1 => ⟨rfe_denied, fun o hi => mfs_denied hi, fun o hi => mts_denied hi,
    fun o hi => mqoWrite_denied hi, fun o hi => svcrReadyWrite_denied hi⟩⟩
  have traps {r : Out} (barred : Barred h s r) : r = .next (s.fault s.cur h 5 0 s.me.slotVal) := barred.traps free guard inside
  refine ⟨fun i form => ?_, fun o => ?sysc, fun o => ?fork, fun o => ?start, fun o mk form => ?_, fun o mk form => ?_, fun o mk form => ?_,
    fun o mk form => ?_, fun o mk form => ?_, fun o mk form => ?_, fun o mk form => ?_, pbegin_in_region free guard inside,
    fun o mk form => ?_⟩
  case sysc => exact traps ⟨_, _, _, rfl⟩
  case fork => exact traps ⟨_, _, _, rfl⟩
  case start => exact traps ⟨_, _, _, rfl⟩
  -- the forms of each list: the meaning of every one unfolds to an `issue` that no region admits
  all_goals fin_cases form <;> exact traps ⟨_, _, _, rfl⟩

end Sys2Proof.Machine
end

section
/-! PROOFS. The merge of a superstep whose members have records in their logs (R106, R162, R163). -/

namespace Sys2Proof.Machine

open Sys2Proof

/-! ## When a merge is performed at once (R163, R397) -/

theorem exec_sstepMerge {s : State} {g : Nat} (ev : s.ev = .one g) : exec .sstepMerge s = event "SSTEP_MERGE" (s.sstepMove g) := by
  show execSstepMerge s = _
  rw [execSstepMerge, ev]

theorem State.devGet_of_may {s : State} {rd : Bool} {lines : List Nat} (may : s.devMay rd lines = true) : s.devGet rd lines = .go s :=
  if_pos may

theorem fwdAddr_of_no_migration {s : State} (still : s.dev.migs = []) (a : Nat) : fwdAddr s a = a := by
  rw [fwdAddr, still]
  rfl

/-- Lines of scratch banks are asked for at no slice. -/
theorem State.askLines_of_scratch {s : State} (still : s.dev.migs = []) (noneHeld : s.dev.held = []) {lines : List (Agent × Nat)}
    (scratch : ∀ e ∈ lines, isScratch (e.2 * 128) = true) : s.askLines lines = .go s := by
  have noLine : (lines.map (fun e => (e.1, fwdAddr s (e.2 * 128) / 128))).filter (fun e =>
      !isScratch (e.2 * 128) && !reservedPA s (s.partOf e.1.gid) (isSvc e.1.gid) (e.2 * 128)) = [] := by
    simp only [fwdAddr_of_no_migration still, Nat.mul_div_cancel _ (by decide : 0 < 128), List.map_id', List.filter_eq_nil_iff]
    intro e mem
    simp [scratch e mem]
  have same : s.readmit = s := by simp [State.readmit, noneHeld]
  simp [State.askLines, noLine, State.askAll, same]

/-- A complete superstep whose logs can be read and whose lines are there is merged. -/
theorem sstepMerge_merges {s u v : State} {g : Nat} {r0 : Arrival} {rs : List Arrival} (ev : s.ev = .one g)
    (found : s.arrivals.find? (fun r => decide (r.agent.gid = g) && (match r.kind with | .sstep _ _ _ => true | _ => false)) = some r0)
    (full : s.sstepFull r0 = true) (all : rs = s.arrivals.filter (sameSstep r0))
    (sound : rs.any (fun r => (s.core r.agent.gid).failed || (s.core r.agent.gid).stopped) = false) (first : r0.w1 = 0)
    (records : s.recordsGet (rs.map (fun r => r.agent.gid)) false = .go u)
    (loads : rs.all (fun r => noLoadOverlap (u.ctx r.agent) ((mergedLines (u.mergers rs)).map (fun e => e.2))) = true)
    (lines : u.askLines ((mergedLines (u.mergers rs)).map (fun e => ((⟨e.1, 0⟩ : Agent), e.2.line))) = .go v) :
    exec .sstepMerge s = .next (v.performMerge rs) := by
  subst all
  have merges : s.sstepMove g = some (v.performMerge (s.arrivals.filter (sameSstep r0))) := by
    unfold State.sstepMove
    split
    next none => exact absurd (found.symm.trans none) (by simp)
    next r1 some =>
      obtain rfl := Option.some.inj (found.symm.trans some)
      simp only [full, sound, first, records, Ask.bind, loads, lines, Ask.andThen, Bool.not_true, Bool.or_self, Bool.false_eq_true, if_false,
        if_true]
  rw [exec_sstepMerge ev, merges]
  rfl

/-! ## A log in a format window (R104, R106, R162)

The launch's log lies in format window 0, with a record from byte 1008 on: its first 16 bytes in block 0 of the window and the others in
block 1. The controller holds 64 scales, that of block 1 as the oldest, a NaN that memory no longer holds: there it is zero. -/

/-- A launch of one log slot of four records, whose region begins 1,008 bytes into page 0x40000. -/
def loggingLaunch : Launch :=
  { lid := 1, dom := 0, det := false, gang := false, gangState := 0, peers := [], acks := [], cacks := [], part := 0, clm := [0], pdl := 0,
    gtick := 0, gmarg := 0, widths := [], wbase := 0, logcap := Cap.null, logrec := 4, logPages := [0x40000], logOff := 1008, logFree := [],
    statusAt := 0, stages := [], count := 1, given := [], first := false, alive := 1, ended := 0, counted := 0, waits := [], mc := false,
    code := 0, written := false, storage := 0 }

def loggingTask : Task :=
  { ord := 1, lid := 1, stage := 0, wid := 0, dom := 0, mem := 0, cpi := 1, level := 0, slip := false, det := false, merged := true,
    members := [0], record := [], popped := false, halted := false, logSlot := some 0, sscope := none, reps := 0, pdl := 0, hlp := 0 }

/-- One record in the log, and no line in the Brine. -/
def loggingMerge : Merge :=
  { failed := false, lines := [], up := 1, down := 0, undone := [], wrote := [], via := [], snap := [], snapPlanes := [],
    snapAct := Stat.reset, snapShd := Stat.reset, snapSems := [], snapFaults := [] }

def loggingArrival : Arrival := ⟨.sstep 1 0 true, ⟨0, 0⟩, [0], 0, 0, Cap.null, false, false, [], []⟩

def loggingState : State :=
  { State.reset with
    cores := [(0, { Core.reset with ctxs := [(0, { Ctx.reset with live := true })], task := some loggingTask, mrg := some loggingMerge })]
    dev := { Device.reset with
      memmap := 0x200000
      fwin := [(0, ⟨0x80B0000000040008, 0x60000, 0x70000⟩)]
      scales := (List.range 63).map (fun k => (0, 0, k + 2, 0, false)) ++ [(0, 0, 1, 0x7FC00000, false)]
      launches := [loggingLaunch] }
    arrivals := [loggingArrival], ev := .one 0 }

/-- The record as it reads with the scale that the controller holds: bytes 16 and up are 0x7F. -/
def loggedLine : BrineLine :=
  ⟨scratchBase / 128, 0x7F7F7F7F7F7F7F7F0000000000000000, lineOf (List.replicate 128 0x7F), 0x7F, false⟩

theorem loggingState_merged : mergedLines (loggingState.mergers [loggingArrival]) = [(0, loggedLine)] := by decide +kernel

theorem loggingState_records : loggingState.recordsGet [0] false = .go loggingState := State.devGet_of_may (by decide +kernel)

theorem loggingState_lines : loggingState.askLines
    ((mergedLines (loggingState.mergers [loggingArrival])).map (fun e => ((⟨e.1, 0⟩ : Agent), e.2.line))) = .go loggingState := by
  rw [loggingState_merged]
  exact State.askLines_of_scratch rfl rfl (by decide)

theorem loggingState_loads : noLoadOverlap (loggingState.ctx ⟨0, 0⟩)
    ((mergedLines (loggingState.mergers [loggingArrival])).map (fun e => e.2)) = true := by
  rw [loggingState_merged]
  decide +kernel

/-- The merge reads the log before it collects its writes: block 0 takes the place of the oldest scale, block 1 then reads with the scale of
memory, and the record is zero. -/
theorem loggingState_performMerge : (loggingState.performMerge [loggingArrival]).byte (scratchBase + 64) = 0 := by decide +kernel

theorem loggingState_merges : exec .sstepMerge loggingState = .next (loggingState.performMerge [loggingArrival]) :=
  sstepMerge_merges rfl (r0 := loggingArrival) (by decide +kernel) (by decide +kernel) (by decide +kernel) (by decide +kernel) rfl
    loggingState_records (by simpa [loggingArrival] using loggingState_loads) loggingState_lines

/-- Refutes O55: the clause on a merge of one line names the line that the members' records hold before the merge, and the merge's own read
of the log refetches the scale of the record's block, which the 64 scales of the controller then no longer hold (R106). -/
theorem not_saveMergeEvents : ¬ Obligations.SaveMergeEvents := by
  unfold Obligations.SaveMergeEvents
  intro claim
  obtain ⟨-, events⟩ := claim
  obtain ⟨-, -, merges, -⟩ := events loggingState
  obtain ⟨-, -, performs, -⟩ := merges 0 loggingArrival rfl (by decide +kernel) (by decide +kernel) [loggingArrival] (by decide +kernel)
    (by decide +kernel) (by decide +kernel) _ rfl
  obtain ⟨-, -, goes⟩ := performs rfl loggingState_records (by simpa [loggingArrival] using loggingState_loads) _ rfl
  obtain ⟨t, merged, -, -, oneLine⟩ := goes loggingState loggingState_lines
  obtain ⟨inside, -⟩ := oneLine (0, loggedLine) loggingState_merged rfl rfl (by decide +kernel) (by decide +kernel)
  have written := inside 64 (by decide)
  have same := Host.Outcome.next.inj (loggingState_merges.symm.trans merged)
  have place : loggedLine.line * 128 + 64 = scratchBase + 64 := by decide
  rw [← same, place, loggingState_performMerge] at written
  exact absurd written (by decide +kernel)

end Sys2Proof.Machine
end

section
/-! PROOFS. Commit regions and draws (R145-R156, R309-R314): the writes of a publication. -/

namespace Sys2Proof.Machine

open Sys2Proof

/-! ## What neither asking for lines nor writing them changes -/

/-- The contexts, the agent in turn, and the registers of the device that say where an access goes are the same. -/
structure State.SameTurn (s t : State) : Prop where
  ctxs : s.KeepsCores Core.ctxs t
  cur : t.cur = s.cur
  dev : t.dev = { s.dev with held := t.dev.held, scales := t.dev.scales, ctr := t.dev.ctr, hole := t.dev.hole }

namespace State.SameTurn

variable {s t u : State}

theorem refl (s : State) : s.SameTurn s := ⟨.refl s, rfl, rfl⟩

theorem trans (first : s.SameTurn t) (second : t.SameTurn u) : s.SameTurn u where
  ctxs := first.ctxs.trans second.ctxs
  cur := second.cur.trans first.cur
  dev := by rw [second.dev, first.dev]

theorem foldl {β : Type} {f : State → β → State} (hf : ∀ (s : State) e, s.SameTurn (f s e)) (l : List β) (s : State) :
    s.SameTurn (l.foldl f s) := by
  induction l generalizing s with
  | nil => exact refl s
  | cons e l ih => exact (hf s e).trans (ih _)

theorem of_quiet (quiet : s.Quiet t) (cur : t.cur = s.cur) : s.SameTurn t := ⟨quiet.ctxs, cur, quiet.home.dev⟩

section
variable (h : s.SameTurn t)
include h

theorem ctx (a : Agent) : t.ctx a = s.ctx a := State.KeepsCtx.of_ctxs (p := id) h.ctxs a

theorem me : t.me = s.me := by rw [State.me, h.cur, h.ctx]; rfl

theorem fwdAddr (a : Nat) : fwdAddr t a = Machine.fwdAddr s a := by
  have moved : Machine.fwdAddr t a = Machine.fwdAddr { s with dev := t.dev } a := rfl
  rw [moved, h.dev]
  rfl

theorem reserved (part : Option Nat) (svc : Bool) (a : Nat) : reservedPA t part svc a = reservedPA s part svc a := by
  have moved : reservedPA t part svc a = reservedPA { s with dev := t.dev } part svc a := rfl
  rw [moved, h.dev]
  rfl

end

end State.SameTurn

/-! ## Writes at the home, byte by byte (R121) -/

/-- A write's address range. -/
def HomeWrite.Covers (w : HomeWrite) (y : Nat) : Prop := w.addr ≤ y ∧ y < w.addr + w.data.length

theorem State.putWrite_mem (s : State) (w : HomeWrite) : (s.putWrite w).mem = (s.setBytes w.addr w.data).mem := by
  have cleared (n : Nat) : ((s.setBytes w.addr w.data).clearTags w.addr n).mem = (s.setBytes w.addr w.data).mem := by
    unfold State.clearTags
    split <;> rfl
  unfold State.putWrite
  dsimp only
  split <;> exact cleared _

theorem State.byte_of_putWrite {s t : State} {w : HomeWrite} (put : t.mem = (s.putWrite w).mem) (y : Nat) :
    (w.Covers y → t.byte y = w.data.getD (y - w.addr) 0) ∧ (¬ w.Covers y → t.byte y = s.byte y) := by
  have read : t.byte y = if w.addr ≤ y ∧ y < w.addr + w.data.length then w.data.getD (y - w.addr) 0 else s.byte y := by
    rw [← State.byte_setBytes]
    exact congrArg (fun m => Sparse.look 0 m y) (put.trans (s.putWrite_mem w))
  exact ⟨fun inside => read.trans (if_pos inside), fun outside => read.trans (if_neg outside)⟩

/-- Whose turn it is, and the registers of the device. -/
def State.seat (s : State) : Agent × Device := (s.cur, s.dev)

theorem State.setBytes_seat (s : State) (a : Nat) (l : List Byte) : (s.setBytes a l).seat = s.seat := by
  induction l generalizing s a with
  | nil => rfl
  | cons b l ih => exact ih _ _

theorem State.putWrite_seat (s : State) (w : HomeWrite) : (s.putWrite w).seat = s.seat := by
  have cleared (n : Nat) : ((s.setBytes w.addr w.data).clearTags w.addr n).seat = s.seat := by
    unfold State.clearTags
    split <;> exact s.setBytes_seat ..
  unfold State.putWrite
  dsimp only
  split <;> exact cleared _

theorem State.patchOwn_seat (s : State) (w : HomeWrite) (tag ver : Nat) : (s.patchOwn w tag ver).seat = s.seat := by
  unfold State.patchOwn
  split <;> rfl

theorem State.patchOwn_ctxs (s : State) (w : HomeWrite) (tag ver : Nat) : s.KeepsCores Core.ctxs (s.patchOwn w tag ver) := by
  unfold State.patchOwn
  split
  · exact .refl s
  · refine .updCore _ fun c => ?_
    split <;> rfl

theorem State.writeHome_seat {s : State} {w : HomeWrite} (lies : reservedPA s w.part w.svc w.addr = false) :
    (s.writeHome w).seat = s.seat := by
  have listed (c : Bool) (u : State) (line wid : Nat) : (if c = true then u.collect line wid else u).seat = u.seat := by
    split <;> rfl
  have dirty (u : State) : (if w.owned = true then u else u.markDirty w.addr).prune.seat = u.seat := by
    unfold State.markDirty
    split
    · rfl
    · split <;> rfl
  unfold State.writeHome
  rw [if_neg (Bool.eq_false_iff.1 lies)]
  dsimp only
  rw [dirty, State.patchOwn_seat]
  exact (listed ..).trans (s.putWrite_seat w)

namespace State.SameTurn

variable {s t : State}

theorem of_seat (ctxs : s.KeepsCores Core.ctxs t) (seat : t.seat = s.seat) : s.SameTurn t :=
  ⟨ctxs, congrArg Prod.fst seat, by rw [show t.dev = s.dev from congrArg Prod.snd seat]⟩

/-- A change beside the cores, the turn and the device. -/
theorem of_rest (cores : t.cores = s.cores) (seat : t.seat = s.seat) : s.SameTurn t := of_seat (.of_cores cores) seat

theorem writeHome (s : State) (w : HomeWrite) : s.SameTurn (s.writeHome w) := by
  cases lies : reservedPA s w.part w.svc w.addr
  · exact of_seat (s.writeHome_ctxs w) (State.writeHome_seat lies)
  · rw [State.writeHome, if_pos lies]
    exact .of_quiet (.of_home (.countHole ..) rfl) rfl

theorem writeMore (s : State) (wid : Nat) (w : HomeWrite) : s.SameTurn (s.writeMore wid w) := by
  unfold State.writeMore
  split
  · exact .refl s
  · dsimp only
    exact .trans (of_seat (.of_cores (s.putWrite_cores w)) (s.putWrite_seat w))
      (.trans (of_rest rfl rfl) (of_seat (State.patchOwn_ctxs _ _ _ _) (State.patchOwn_seat ..)))

theorem setPoison (s : State) (a : Nat) (b : Bool) : s.SameTurn (s.setPoison a b) := of_rest rfl rfl

theorem soundLine (s : State) (a own : Nat) : s.SameTurn (s.soundLine a own) := by
  unfold State.soundLine
  refine .trans (setPoison s a false) (of_seat (.updCore own fun c => ?_) rfl)
  split
  · split <;> rfl
  · rfl

end State.SameTurn

theorem State.writeHome_byte {s : State} {w : HomeWrite} (lies : reservedPA s w.part w.svc w.addr = false) (y : Nat) :
    (w.Covers y → (s.writeHome w).byte y = w.data.getD (y - w.addr) 0) ∧ (¬ w.Covers y → (s.writeHome w).byte y = s.byte y) :=
  State.byte_of_putWrite (State.writeHome_stores lies).1 y

theorem State.writeMore_byte {s : State} {w : HomeWrite} (lies : reservedPA s w.part w.svc w.addr = false) (wid y : Nat) :
    (w.Covers y → (s.writeMore wid w).byte y = w.data.getD (y - w.addr) 0) ∧ (¬ w.Covers y → (s.writeMore wid w).byte y = s.byte y) := by
  refine State.byte_of_putWrite ?_ y
  rw [State.writeMore, if_neg (Bool.eq_false_iff.1 lies), State.patchOwn_mem, State.nameWriter_mem]

theorem State.writeHome_byte_out {s : State} {w : HomeWrite} {y : Nat} (out : ¬ w.Covers y) : (s.writeHome w).byte y = s.byte y := by
  cases lies : reservedPA s w.part w.svc w.addr
  · exact (State.writeHome_byte lies y).2 out
  · rw [State.writeHome, if_pos lies]
    rfl

theorem State.writeMore_byte_out {s : State} {w : HomeWrite} {y : Nat} (wid : Nat) (out : ¬ w.Covers y) :
    (s.writeMore wid w).byte y = s.byte y := by
  cases lies : reservedPA s w.part w.svc w.addr
  · exact (State.writeMore_byte lies wid y).2 out
  · rw [State.writeMore, if_pos lies]

/-! ## A Brine line as runs of bytes (R151) -/

/-- A run of a Brine line: masked bytes of it, with the line's data. -/
structure BrineLine.HasRun (b : BrineLine) (e : Nat × List Byte) : Prop where
  nonempty : 0 < e.2.length
  ends : e.1 + e.2.length ≤ 128
  masked : ∀ k, k < e.2.length → b.mask.getLsbD (e.1 + k) = true
  data : ∀ k, k < e.2.length → e.2.getD k 0 = lineByte b.data (e.1 + k)

/-- Byte `i` of a line lies in a run. -/
def InRun (e : Nat × List Byte) (i : Nat) : Prop := e.1 ≤ i ∧ i < e.1 + e.2.length

section
variable {b : BrineLine} {i : Nat}

theorem BrineLine.HasRun.one (inside : i < 128) (masked : b.mask.getLsbD i = true) : b.HasRun (i, [lineByte b.data i]) where
  nonempty := Nat.one_pos
  ends := inside
  masked k small := by
    obtain rfl : k = 0 := by simpa using small
    exact masked
  data k small := by
    obtain rfl : k = 0 := by simpa using small
    rfl

theorem BrineLine.HasRun.longer {o : Nat} {bs : List Byte} (run : b.HasRun (o, bs)) (ends : o + bs.length = i) (inside : i < 128)
    (masked : b.mask.getLsbD i = true) : b.HasRun (o, bs ++ [lineByte b.data i]) where
  nonempty := by simp
  ends := by
    simp only [List.length_append, List.length_singleton]
    omega
  masked k small := by
    simp only [List.length_append, List.length_singleton] at small
    rcases Nat.lt_succ_iff_lt_or_eq.1 small with before | rfl
    · exact run.masked k before
    · exact ends ▸ masked
  data k small := by
    simp only [List.length_append, List.length_singleton] at small
    rcases Nat.lt_succ_iff_lt_or_eq.1 small with before | rfl
    · rw [List.getD_append _ _ _ _ before]
      exact run.data k before
    · rw [List.getD_append_right _ _ _ _ (Nat.le_refl _), Nat.sub_self, ← ends]
      rfl

/-- The runs collected up to byte `i` are the masked bytes below it. -/
structure BrineLine.RunsTo (b : BrineLine) (i : Nat) (l : List (Nat × List Byte)) : Prop where
  runs : ∀ e ∈ l, b.HasRun e
  all : ∀ j, j < i → b.mask.getLsbD j = true → ∃ e ∈ l, InRun e j

theorem BrineLine.RunsTo.skip {l : List (Nat × List Byte)} (upto : b.RunsTo i l) (bare : b.mask.getLsbD i = false) : b.RunsTo (i + 1) l where
  runs := upto.runs
  all j below masked := by
    rcases Nat.lt_succ_iff_lt_or_eq.1 below with before | rfl
    · exact upto.all j before masked
    · exact absurd (bare.symm.trans masked) Bool.false_ne_true

theorem BrineLine.RunsTo.add {l : List (Nat × List Byte)} (upto : b.RunsTo i l) (inside : i < 128) (masked : b.mask.getLsbD i = true) :
    b.RunsTo (i + 1) ((i, [lineByte b.data i]) :: l) where
  runs := List.forall_mem_cons.2 ⟨.one inside masked, upto.runs⟩
  all j below set := by
    rcases Nat.lt_succ_iff_lt_or_eq.1 below with before | rfl
    · obtain ⟨e, mem, run⟩ := upto.all j before set
      exact ⟨e, List.mem_cons_of_mem _ mem, run⟩
    · exact ⟨_, List.mem_cons_self, Nat.le_refl _, Nat.lt_succ_self _⟩

theorem BrineLine.RunsTo.extend {o : Nat} {bs : List Byte} {l : List (Nat × List Byte)} (upto : b.RunsTo i ((o, bs) :: l))
    (ends : o + bs.length = i) (inside : i < 128) (masked : b.mask.getLsbD i = true) :
    b.RunsTo (i + 1) ((o, bs ++ [lineByte b.data i]) :: l) where
  runs := by
    obtain ⟨last, rest⟩ := List.forall_mem_cons.1 upto.runs
    exact List.forall_mem_cons.2 ⟨last.longer ends inside masked, rest⟩
  all j below set := by
    have longer : (bs ++ [lineByte b.data i]).length = bs.length + 1 := by simp
    rcases Nat.lt_succ_iff_lt_or_eq.1 below with before | rfl
    · obtain ⟨e, mem, low, high⟩ := upto.all j before set
      rcases List.mem_cons.1 mem with rfl | old
      · exact ⟨_, List.mem_cons_self, low, by dsimp only at high ⊢; omega⟩
      · exact ⟨e, List.mem_cons_of_mem _ old, low, high⟩
    · exact ⟨_, List.mem_cons_self, by dsimp only; omega, by dsimp only; omega⟩

theorem BrineLine.runsTo_runsFrom (fuel : Nat) {l : List (Nat × List Byte)} (upto : b.RunsTo i l) (left : fuel + i = 128) :
    b.RunsTo 128 (runsFrom b fuel i l) := by
  induction fuel generalizing i l with
  | zero =>
    obtain rfl : i = 128 := by omega
    exact ⟨fun e mem => upto.runs e (List.mem_reverse.1 mem), fun j below masked =>
      (upto.all j below masked).imp fun e run => ⟨List.mem_reverse.2 run.1, run.2⟩⟩
  | succ fuel ih =>
    have inside : i < 128 := by omega
    have next : fuel + (i + 1) = 128 := by omega
    unfold runsFrom
    split
    next masked =>
      split
      next o bs rest =>
        split
        next joins => exact ih (upto.extend joins.1 inside masked) next
        · exact ih (upto.add inside masked) next
      · exact ih (upto.add inside masked) next
    next bare => exact ih (upto.skip (by simpa using bare)) next

theorem BrineLine.runs_spec (b : BrineLine) : b.RunsTo 128 b.runs :=
  BrineLine.runsTo_runsFrom 128 ⟨fun _ none => absurd none List.not_mem_nil, fun _ none => absurd none (Nat.not_lt_zero _)⟩ rfl

end

end Sys2Proof.Machine
end

section
/-! PROOFS. Commit regions and draws (R102, R155): the lines of a publication are asked for, and written. -/

namespace Sys2Proof.Machine

open Sys2Proof

/-! ## Asking for the lines (R102, R397) -/

/-- The caches alone differ, and the turn is the same. -/
structure State.Asked (s t : State) : Prop where
  quiet : s.Quiet t
  cur : t.cur = s.cur

namespace State.Asked

variable {s t u : State}

theorem refl (s : State) : s.Asked s := ⟨.refl s, rfl⟩

theorem trans (first : s.Asked t) (second : t.Asked u) : s.Asked u := ⟨first.quiet.trans second.quiet, second.cur.trans first.cur⟩

theorem foldl {α : Type} {f : State → α → State} (hf : ∀ (s : State) e, s.Asked (f s e)) (l : List α) (s : State) :
    s.Asked (l.foldl f s) := by
  induction l generalizing s with
  | nil => exact refl s
  | cons e l ih => exact (hf s e).trans (ih _)

theorem sameTurn (h : s.Asked t) : s.SameTurn t := .of_quiet h.quiet h.cur

theorem updSliceOf (s : State) (line : Nat) (f : Slice → Slice) : s.Asked (s.updSliceOf line f) := ⟨.updSliceOf .., rfl⟩

theorem send (s : State) (who : ReqWho) (line pol : Nat) (wr : Bool) : s.Asked (s.send who line pol wr) := by
  refine ⟨.send .., ?_⟩
  unfold State.send
  dsimp only
  split <;> rfl

theorem recalls (s : State) (line : Nat) : s.Asked (s.recall line) := by
  refine ⟨.recalls .., ?_⟩
  unfold State.recall
  split
  · rfl
  · dsimp only
    split <;> rfl

theorem hold (s : State) (l : List SReq) : s.Asked (s.updDev (fun d => { d with held := l })) := ⟨.hold .., rfl⟩

theorem readmit (s : State) : s.Asked s.readmit := by
  unfold State.readmit
  split
  · exact .refl s
  · refine .trans (.hold ..) (.foldl (fun u r => ?_) _ _)
    split
    · exact .hold ..
    · exact .updSliceOf ..

end State.Asked

/-- What is asked for goes on, or waits, in a state whose caches alone differ. -/
def Ask.Stays (s : State) : Ask → Prop
  | .go u => s.Asked u
  | .wait u => s.Asked u
  | .no => True

theorem State.askAll_stays (s : State) (pol : Nat) (wr : Bool) (l : List (ReqWho × Nat)) : (s.askAll pol wr l).Stays s := by
  have take (t : State) (asked : s.Asked t) : s.Asked ((l.filter (fun e => !isScratch (e.2 * 128))).foldl
      (fun u e => u.updSliceOf e.2 (fun k => k.consume e.1 e.2 pol)) t) :=
    asked.trans (.foldl (fun u e => .updSliceOf ..) _ _)
  have sent (todo : List (ReqWho × Nat)) : s.Asked (todo.foldl (fun u e =>
      if u.sent e.1 e.2 || (!u.quiesced e.2 && (u.sliceOf e.2).full) then u else u.send e.1 e.2 pol wr) s.readmit) := by
    refine (State.Asked.readmit s).trans (.foldl (fun u e => ?_) _ _)
    split
    · exact .refl u
    · exact .send ..
  unfold State.askAll
  dsimp only
  split
  · exact take _ (.readmit s)
  · split
    · exact take _ (sent _)
    · split
      · trivial
      · exact sent _

theorem State.askLines_stays (s : State) (lines : List (Agent × Nat)) : (s.askLines lines).Stays s := by
  unfold State.askLines
  dsimp only
  split
  · trivial
  · split
    · exact s.askAll_stays ..
    · split
      · trivial
      · refine State.Asked.foldl (fun u e => ?_) _ _
        split
        · exact .recalls ..
        · exact .refl u

theorem State.asked_of_go {s u : State} {lines : List (Agent × Nat)} (go : s.askLines lines = .go u) : s.Asked u := by
  have stays := s.askLines_stays lines
  rwa [go] at stays

/-! ## Writing a line (R155) -/

section
variable (s : State) (own : Nat) (rel : Bool) (obs : List Nat) (b : BrineLine)

/-- The write of a run at its line's home. -/
def runWrite (e : Nat × List Byte) : HomeWrite :=
  ⟨Machine.fwdAddr s (b.line * 128) + e.1, e.2, b.tags.getLsbD (e.1 / 16), own, decide (4096 ≤ own), rel, obs, false,
    s.partOf own, isSvc own, none⟩

/-- The runs of a line, written one after the other. -/
def State.writeRuns (l : List (Nat × List Byte)) (u : State) : State :=
  l.foldl (fun u e => u.writeMore s.nextWid (runWrite s own rel obs b e)) u

/-- What a line's poison mark comes to. -/
def State.markLine (u : State) : State :=
  if reservedPA s (s.partOf own) (isSvc own) (Machine.fwdAddr s (b.line * 128)) then u
  else if b.psn then u.setPoison (Machine.fwdAddr s (b.line * 128)) true
  else if b.mask = BitVec.allOnes 128 then u.soundLine (Machine.fwdAddr s (b.line * 128)) own
  else u

theorem State.writeBrine_of_nil (none : b.runs = []) : s.writeBrine own rel obs b = s := by
  unfold State.writeBrine
  dsimp only
  rw [none]

theorem State.writeBrine_of_cons {e : Nat × List Byte} {rest : List (Nat × List Byte)} (runs : b.runs = e :: rest) :
    s.writeBrine own rel obs b = s.markLine own b (s.writeRuns own rel obs b rest (s.writeHome (runWrite s own rel obs b e))) := by
  unfold State.writeBrine
  dsimp only
  rw [runs]
  rfl

theorem State.markLine_sameTurn (u : State) : u.SameTurn (s.markLine own b u) := by
  unfold State.markLine
  split
  · exact .refl u
  · split
    · exact .setPoison ..
    · split
      · exact .soundLine ..
      · exact .refl u

theorem State.markLine_mem (u : State) : (s.markLine own b u).mem = u.mem := by
  unfold State.markLine
  split
  · rfl
  · split
    · rfl
    · split <;> rfl

theorem State.writeBrine_sameTurn : s.SameTurn (s.writeBrine own rel obs b) := by
  cases runs : b.runs with
  | nil => rw [s.writeBrine_of_nil own rel obs b runs]; exact .refl s
  | cons e rest =>
    rw [s.writeBrine_of_cons own rel obs b runs]
    exact .trans (.trans (.writeHome ..) (.foldl (fun u x => .writeMore ..) _ _)) (s.markLine_sameTurn ..)

end

section
variable {s : State} {own : Nat} {rel : Bool} {obs : List Nat} {b : BrineLine} {y : Nat}

theorem State.writeRuns_out {l : List (Nat × List Byte)} (out : ∀ e ∈ l, ¬ (runWrite s own rel obs b e).Covers y) (u : State) :
    (s.writeRuns own rel obs b l u).byte y = u.byte y := by
  induction l generalizing u with
  | nil => rfl
  | cons e l ih =>
    obtain ⟨here, rest⟩ := List.forall_mem_cons.1 out
    exact (ih rest _).trans (State.writeMore_byte_out _ here)

theorem State.writeBrine_out (out : ∀ e ∈ b.runs, ¬ (runWrite s own rel obs b e).Covers y) :
    (s.writeBrine own rel obs b).byte y = s.byte y := by
  cases runs : b.runs with
  | nil => rw [s.writeBrine_of_nil own rel obs b runs]
  | cons e rest =>
    obtain ⟨first, others⟩ := List.forall_mem_cons.1 (runs ▸ out)
    rw [s.writeBrine_of_cons own rel obs b runs, State.byte, State.markLine_mem]
    exact (State.writeRuns_out others _).trans (State.writeHome_byte_out first)

/-- The byte of a run that a line's address names. -/
theorem runWrite_covers {e : Nat × List Byte} {i : Nat} :
    (runWrite s own rel obs b e).Covers (Machine.fwdAddr s (b.line * 128) + i) ↔ InRun e i := by
  simp only [HomeWrite.Covers, runWrite, InRun]
  omega

/-- No place of the line is reserved. -/
def BrineLine.Lies (b : BrineLine) (s : State) (own : Nat) : Prop :=
  ∀ i, i < 128 → reservedPA s (s.partOf own) (isSvc own) (Machine.fwdAddr s (b.line * 128) + i) = false

theorem BrineLine.Lies.of_sameTurn {u : State} (lies : b.Lies s own) (same : s.SameTurn u) {e : Nat × List Byte} (run : b.HasRun e) :
    reservedPA u (runWrite s own rel obs b e).part (runWrite s own rel obs b e).svc (runWrite s own rel obs b e).addr = false := by
  have small : e.1 < 128 := by have := run.nonempty; have := run.ends; omega
  exact (same.reserved ..).trans (lies e.1 small)

/-- A write of a run puts the line's data there. -/
theorem runWrite_data {e : Nat × List Byte} {i : Nat} (run : b.HasRun e) (inside : InRun e i) :
    (runWrite s own rel obs b e).data.getD (Machine.fwdAddr s (b.line * 128) + i - (runWrite s own rel obs b e).addr) 0 = lineByte b.data i := by
  obtain ⟨low, high⟩ := inside
  have place : Machine.fwdAddr s (b.line * 128) + i - (Machine.fwdAddr s (b.line * 128) + e.1) = i - e.1 := by omega
  have small : i - e.1 < e.2.length := by omega
  have offset : e.1 + (i - e.1) = i := by omega
  calc e.2.getD (Machine.fwdAddr s (b.line * 128) + i - (Machine.fwdAddr s (b.line * 128) + e.1)) 0
      = e.2.getD (i - e.1) 0 := by rw [place]
    _ = lineByte b.data (e.1 + (i - e.1)) := run.data _ small
    _ = lineByte b.data i := by rw [offset]

/-- After the runs are written, a byte that had its new value or lies in one of them has its new value. -/
theorem State.writeRuns_lands {i : Nat} (lies : b.Lies s own) {l : List (Nat × List Byte)} (runs : ∀ e ∈ l, b.HasRun e) {u : State}
    (same : s.SameTurn u)
    (lands : u.byte (Machine.fwdAddr s (b.line * 128) + i) = lineByte b.data i ∨ ∃ e ∈ l, InRun e i) :
    (s.writeRuns own rel obs b l u).byte (Machine.fwdAddr s (b.line * 128) + i) = lineByte b.data i := by
  induction l generalizing u with
  | nil => exact lands.resolve_right (by simp)
  | cons e l ih =>
    obtain ⟨run, others⟩ := List.forall_mem_cons.1 runs
    have byte := State.writeMore_byte (lies.of_sameTurn (rel := rel) (obs := obs) same run) s.nextWid
      (Machine.fwdAddr s (b.line * 128) + i)
    refine ih others (same.trans (.writeMore ..)) ?_
    by_cases inside : InRun e i
    · exact .inl ((byte.1 (runWrite_covers.2 inside)).trans (runWrite_data run inside))
    · refine lands.imp (byte.2 fun covers => inside (runWrite_covers.1 covers)).trans ?_
      rintro ⟨x, mem, there⟩
      rcases List.mem_cons.1 mem with rfl | old
      · exact absurd there inside
      · exact ⟨x, old, there⟩

/-- A line that lies in memory takes its masked bytes, and keeps the others. -/
theorem State.writeBrine_byte (lies : b.Lies s own) {i : Nat} (small : i < 128) :
    (s.writeBrine own rel obs b).byte (Machine.fwdAddr s (b.line * 128) + i) =
      if b.mask.getLsbD i then lineByte b.data i else s.byte (Machine.fwdAddr s (b.line * 128) + i) := by
  have spec := b.runs_spec
  split
  next masked =>
    obtain ⟨x, mem, inside⟩ := spec.all i small masked
    cases runs : b.runs with
    | nil => exact absurd (runs ▸ mem) List.not_mem_nil
    | cons e rest =>
      obtain ⟨first, others⟩ := List.forall_mem_cons.1 (runs ▸ spec.runs)
      have byte := State.writeHome_byte (lies.of_sameTurn (rel := rel) (obs := obs) (.refl s) first) (Machine.fwdAddr s (b.line * 128) + i)
      rw [s.writeBrine_of_cons own rel obs b runs, State.byte, State.markLine_mem]
      refine State.writeRuns_lands lies others (.writeHome ..) ?_
      rcases List.mem_cons.1 (runs ▸ mem) with rfl | later
      · exact .inl ((byte.1 (runWrite_covers.2 inside)).trans (runWrite_data first inside))
      · exact .inr ⟨x, later, inside⟩
  next bare =>
    refine State.writeBrine_out fun e mem covers => bare ?_
    obtain ⟨low, high⟩ := runWrite_covers.1 covers
    have offset : e.1 + (i - e.1) = i := by omega
    exact offset ▸ (spec.runs e mem).masked (i - e.1) (by omega)

/-- The lines of a publication leave every byte outside their runs. -/
theorem State.writeLines_out (own : Nat) (rel : Bool) (obs : List Nat) {l : List BrineLine} (s : State) (out : ∀ b ∈ l, ∀ e ∈ b.runs,
      y < Machine.fwdAddr s (b.line * 128) + e.1 ∨ Machine.fwdAddr s (b.line * 128) + e.1 + e.2.length ≤ y) :
    (l.foldl (fun u b => u.writeBrine own rel obs b) s).byte y = s.byte y := by
  induction l generalizing s with
  | nil => rfl
  | cons b l ih =>
    obtain ⟨here, rest⟩ := List.forall_mem_cons.1 out
    have same := s.writeBrine_sameTurn own rel obs b
    refine (ih _ ?_).trans (State.writeBrine_out fun e mem covers => ?_)
    · simpa only [same.fwdAddr] using rest
    · obtain ⟨low, high⟩ := covers
      rcases here e mem with before | after
      · exact absurd low (Nat.not_le.2 before)
      · exact absurd high (Nat.not_lt.2 after)

theorem State.writeLines_sameTurn (own : Nat) (rel : Bool) (obs : List Nat) (l : List BrineLine) (s : State) :
    s.SameTurn (l.foldl (fun u b => u.writeBrine own rel obs b) s) := .foldl (fun u _ => u.writeBrine_sameTurn ..) l s

end

end Sys2Proof.Machine
end

section
/-! PROOFS. Commit regions and draws (R145-R150, R154, R309-R311): streams, the resolving of a region, `pbegin` and `pabort`. -/

namespace Sys2Proof.Machine

open Sys2Proof

/-! ## Streams (R146) -/

theorem State.psq_of_clusters {s t : State} (clusters : t.clusters = s.clusters) (cur : t.cur = s.cur) (n : Nat) : t.psq n = s.psq n := by
  simp only [State.psq, State.myCluster, State.cluster, clusters, cur]

@[simp] theorem State.psq_self (s : State) (f : Ctx → Ctx) (n : Nat) : (s.self f).psq n = s.psq n := State.psq_of_clusters rfl rfl n

theorem State.psq_updStream {s : State} {a : Agent} (own : a = s.cur) (n : Nat) (f : Stream → Stream) :
    (s.updStream (gidCl a.gid) n f).psq n = f (s.psq n) := own ▸ s.stream_updStream_same (gidCl s.cur.gid) n f

/-! ## The end of an instruction (R235) -/

section
variable {h : Hdr} {s s1 : State} {rg : InRegion} {srcs dsts : List Operand}

/-- A retiring instruction: its context moves on from what its body left, and the body's streams and memory stay. -/
theorem State.retire_ends {u : State} {c : Ctx} (cur : u.cur = s.cur) (ctx : u.me = c) :
    (u.retire s.cur h).me = c.advance ∧ (∀ n, (u.retire s.cur h).psq n = u.psq n) ∧ (u.retire s.cur h).mem = u.mem := by
  refine ⟨?_, fun n => State.psq_of_clusters (u.retire_clusters ..) (u.retire_cur ..) n, u.retire_mem ..⟩
  rw [State.me, State.retire_cur, cur, State.retire_ctx, ← cur, ← ctx]
  rfl

theorem Res.done_ends {out : Host.Outcome State Fault Refusal} {u : State} {c : Ctx} (closes : out = (Res.done u).close s.cur h s1)
    (cur : u.cur = s.cur) (ctx : u.me = c) :
    ∃ t, out = .next t ∧ t.me = c.advance ∧ (∀ n, t.psq n = u.psq n) ∧ t.mem = u.mem :=
  ⟨u.retire s.cur h, closes, State.retire_ends cur ctx⟩

section
variable (hi : Issues h s rg srcs dsts s1)
include hi

theorem Issues.psq (n : Nat) : s1.psq n = s.psq n := State.psq_of_clusters (State.takeWait_clusters hi.wait) hi.cur n

theorem Issues.mem : s1.mem = s.mem := State.takeWait_mem hi.wait

theorem Issues.dev : s1.dev = s.dev := State.takeWait_dev hi.wait

theorem Issues.me_prgn : s1.me.prgn = s.me.prgn := hi.me_eq ▸ State.takeWait_ctx_prgn hi.wait

theorem Issues.me_region : s1.me.region = s.me.region := hi.me_eq ▸ State.takeWait_ctx_region hi.wait

theorem Issues.me_pcc : s1.me.pcc = s.me.pcc := hi.samePlace.pcc

theorem Issues.me_getX (n : Nat) : s1.me.getX n = s.me.getX n := by rw [Ctx.getX, Ctx.getX, hi.me_x]

theorem Issues.ends {out : Host.Outcome State Fault Refusal} {body : State → Res} {u : State} {c : Ctx}
    (issues : out = issue h s rg srcs dsts body) (done : body s1 = .done u) (cur : u.cur = s.cur) (ctx : u.me = c) :
    ∃ t, out = .next t ∧ t.me = c.advance ∧ (∀ n, t.psq n = u.psq n) ∧ t.mem = u.mem :=
  Res.done_ends (by rw [issues, issue_of_issues hi, done]) cur ctx

end

theorem Ctx.getP_writePO_same (c : Ctx) (v : Bool) {d : Operand} {p : Fin 8} (names : d = .p p) (nonzero : p ≠ 0) :
    (c.writePO d v).getP p.val = v := by
  have place : p.val ≠ 0 := fun zero => nonzero (Fin.ext zero)
  rw [names]
  simp [Ctx.writePO, Ctx.getP_writeP, place]

/-- An instruction that answers in a predicate register leaves the scalar registers. -/
theorem Issues.answered (hi : Issues h s rg srcs dsts s1) {d : Ctx} {dst : Operand} {v : Bool} (eq : d = (s1.me.writePO dst v).advance) :
    (∀ p : Fin 8, dst = .p p → p ≠ 0 → d.getP p.val = v) ∧ d.x = s.me.x := by
  subst eq
  exact ⟨fun p names nonzero => (Ctx.getP_advance ..).trans (Ctx.getP_writePO_same _ v names nonzero),
    by rw [Ctx.advance_x, Ctx.writePO_x, hi.me_x]⟩

end

/-! ## A region resolves (R154, R155) -/

/-- The context of a region that has resolved. -/
def Ctx.resolved (c : Ctx) (k stat : Nat) : Ctx :=
  { c with region := none, pres := presWord c.prgn.ticket k stat, prgn := { c.prgn with opn := false, tv := false } }

theorem presWord_eq (ticket : BitVec 32) {k stat : Nat} (draw : k < 2 ^ 24) (status : stat < 16) :
    presWord ticket k stat = BitVec.ofNat 64 (ticket.toNat * 2 ^ 32 + k * 256 + stat) := by
  rw [presWord, Nat.mod_eq_of_lt draw, Nat.mod_eq_of_lt status]
  rfl

section
variable (s : State) (k stat : Nat) (wids : List Nat)

theorem State.resolveRegion_me : (s.resolveRegion s.cur k stat wids).me = s.me.resolved k stat :=
  State.ctx_setCtx_same s s.cur (s.me.resolved k stat)

theorem State.resolveRegion_resolved : ((s.resolveRegion s.cur k stat wids).psq s.me.prgn.strm.toNat).resolved =
    (s.psq s.me.prgn.strm.toNat).resolved ++ [(s.me.prgn.ticket, wids)] :=
  congrArg Stream.resolved (State.psq_updStream (s := s.updCtx s.cur _) (a := s.cur) rfl s.me.prgn.strm.toNat _)

end

/-! ## `pbegin` (R149, R309) -/

section
variable {h : Hdr} {s s1 : State} {o : FmtPB}

theorem pbegin_misplaced (place : s.me.slot ≠ 0 ∨ h.si ≠ 0) : exec (.pbegin h o) s = .next (s.fault s.cur h 5 0 s.me.slotVal) := by
  show execPbegin h o s = _
  rw [execPbegin, if_pos place]
  rfl

theorem Stream.turn_iff (q : Stream) (cyc : Nat) (a : Agent) :
    q.turn cyc a = true ↔ (q.tookAt.1 = cyc + 1 → q.tookAt.2 ≤ 16 * a.gid + a.ctx) := by
  simp only [Stream.turn, Bool.or_eq_true, decide_eq_true_eq]
  exact Decidable.imp_iff_not_or.symm

/-- The region that a `pbegin` opens. -/
def opened (o : FmtPB) (s : State) : Region :=
  ⟨s.me.pcc.addr, s.me.pcc.addr + o.foff.signExtend 64 * 64, [], [], [], s.dev.cyc + 1, none⟩

/-- The region registers of a `pbegin` that takes a ticket. -/
def ticketed (o : FmtPB) (s : State) : Prgn :=
  { s.me.prgn with ticket := (s.psq o.strm.toNat).next, strm := o.strm, tv := true, rpl := 0, opn := true }

section
variable (slot : s.me.slot = 0) (silent : h.si = 0)
include slot silent

theorem pbegin_placed : ¬ (s.me.slot ≠ 0 ∨ h.si ≠ 0) := by simp [slot, silent]

variable (hi : Issues h s .illegal [] [] s1)
include hi

theorem pbegin_otherStream (held : s.me.prgn.tv = true) (other : s.me.prgn.strm ≠ o.strm) :
    exec (.pbegin h o) s = .next (s1.fault s.cur h 5 0 s.me.slotVal) := by
  refine (if_neg (pbegin_placed slot silent)).trans ?_
  rw [issue_of_issues hi]
  simp [hi.me_prgn, held, other, hi.close_illegal]

variable (unmerged : s.me.prgn.mrg = false)
include unmerged

theorem pbegin_waits (free : s.me.prgn.tv = false) (late : (s.psq o.strm.toNat).turn s.dev.cyc s.cur = false) :
    exec (.pbegin h o) s = .next s1 := by
  refine (if_neg (pbegin_placed slot silent)).trans ?_
  rw [issue_of_issues hi]
  simp [hi.me_prgn, hi.psq, hi.dev, hi.cur, unmerged, free, late, Res.close]

theorem pbegin_takes (free : s.me.prgn.tv = false) (turn : (s.psq o.strm.toNat).turn s.dev.cyc s.cur = true) :
    ∃ t, exec (.pbegin h o) s = .next t ∧
      t.me = ({ s1.me with prgn := ticketed o s, region := some (opened o s) } : Ctx).advance ∧
      t.psq o.strm.toNat = (s.psq o.strm.toNat).take s.dev.cyc s.cur ∧ t.mem = s.mem := by
  obtain ⟨t, ends, me, psq, mem⟩ := hi.ends (if_neg (pbegin_placed slot silent) : exec (.pbegin h o) s = _)
    (u := (s1.updStream (gidCl s.cur.gid) o.strm.toNat (fun q => q.take s.dev.cyc s.cur)).self
      (fun c => { c with prgn := ticketed o s, region := some (opened o s) }))
    (by simp [hi.me_prgn, hi.psq, hi.dev, hi.cur, hi.me_pcc, unmerged, free, turn, ticketed, opened]) hi.cur (State.me_self ..)
  refine ⟨t, ends, me, ?_, mem.trans hi.mem⟩
  rw [psq, State.psq_self, State.psq_updStream hi.cur.symm, hi.psq]

theorem pbegin_replays (held : s.me.prgn.tv = true) (same : s.me.prgn.strm = o.strm) :
    ∃ t, exec (.pbegin h o) s = .next t ∧
      t.me = ({ s1.me with prgn := { s.me.prgn with opn := true }, region := some (opened o s) } : Ctx).advance ∧
      t.psq o.strm.toNat = s.psq o.strm.toNat ∧ t.mem = s.mem := by
  obtain ⟨t, ends, me, psq, mem⟩ := hi.ends (if_neg (pbegin_placed slot silent) : exec (.pbegin h o) s = _)
    (u := s1.self (fun c => { c with prgn := { s.me.prgn with opn := true }, region := some (opened o s) }))
    (by simp [hi.me_prgn, hi.dev, hi.me_pcc, unmerged, held, same, opened]) hi.cur (State.me_self ..)
  refine ⟨t, ends, me, ?_, mem.trans hi.mem⟩
  rw [psq, State.psq_self, hi.psq]

end

end

/-! ## `pabort` (R154, R311) -/

section
variable {h : Hdr} {s s1 : State} {o : FmtP} (hi : Issues h s .closes [] [] s1)
include hi

theorem pabort_noRegion (none : s.me.region = none) : exec (.pabort h o) s = .next (s1.fault s.cur h 5 0 s.me.slotVal) := by
  show execPabort h o s = _
  rw [execPabort, issue_of_issues hi]
  simp [hi.me_region, none, hi.close_illegal]

theorem pabort_resolves (inRegion : s.me.region.isSome = true) :
    ∃ t, exec (.pabort h o) s = .next t ∧ t.me = (s1.me.resolved 0 3).advance ∧
      (t.psq s.me.prgn.strm.toNat).resolved = (s.psq s.me.prgn.strm.toNat).resolved ++ [(s.me.prgn.ticket, [])] ∧ t.mem = s.mem := by
  have some : s1.me.region.isNone = false := by rw [hi.me_region, ← Option.not_isSome, inRegion]; rfl
  obtain ⟨t, ends, me, psq, mem⟩ := hi.ends (rfl : exec (.pabort h o) s = _) (u := s1.resolveRegion s1.cur 0 3 [])
    (by simp [some]) hi.cur (s1.resolveRegion_me ..)
  refine ⟨t, ends, me, ?_, mem.trans hi.mem⟩
  have resolved := s1.resolveRegion_resolved 0 3 []
  rw [hi.me_prgn, hi.psq] at resolved
  rw [psq, resolved]

end

end Sys2Proof.Machine
end

section
/-! PROOFS. Commit regions and draws (R151-R155, R310): `pcommit`. -/

namespace Sys2Proof.Machine

open Sys2Proof

/-! ## The publication (R155) -/

/-- Observing writes changes the list of observed writes alone. -/
theorem State.observe_me (s : State) (ws : List Nat) : ∃ o, (s.observe s.cur ws).me = { s.me with obs := o } := by
  unfold State.observe
  split
  · exact ⟨s.me.obs, rfl⟩
  · exact ⟨_, State.me_self s _⟩

section
variable (t u : State) (d ratio : Operand) (r : Region) (k : Nat)

/-- The lines of a region, written. -/
def State.written : State := r.lines.foldl (fun acc b => acc.writeBrine t.cur.gid true t.me.obs b) u

/-- A region resolved after its lines are written. -/
def State.writtenResolved : State :=
  ((t.written u r).observe t.cur ((t.written u r).newWids u.nextWid)).resolveRegion t.cur k 0 ((t.written u r).newWids u.nextWid)

/-- What a publication comes to, from the state in which its lines are there. -/
def State.published : State :=
  ((t.writtenResolved u r k).updStream (gidCl t.cur.gid) t.me.prgn.strm.toNat (fun s =>
    { s with pubs := s.pubs ++ [(t.me.prgn.ticket, 0, (r.lines.map (fun b => b.line)).foldl natIns [])] })).self
      (fun c => (c.readS ratio).2.writePO d true)

theorem State.published_mem : (t.published u d ratio r k).mem = (t.written u r).mem := State.observe_mem ..

variable {t u} (asked : t.Asked u)
include asked

theorem State.written_sameTurn : t.SameTurn (t.written u r) := asked.sameTurn.trans (State.writeLines_sameTurn ..)

theorem State.published_cur : (t.published u d ratio r k).cur = t.cur := (State.observe_cur ..).trans (State.written_sameTurn r asked).cur

theorem State.published_me : ∃ o, (t.published u d ratio r k).me =
    ((Ctx.resolved { t.me with obs := o } k 0).readS ratio).2.writePO d true := by
  have same := State.written_sameTurn r asked
  let ws := (t.written u r).newWids u.nextWid
  obtain ⟨o, observed⟩ := (t.written u r).observe_me ws
  rw [same.cur, same.me] at observed
  have resolved : (t.writtenResolved u r k).me = Ctx.resolved { t.me with obs := o } k 0 := by
    have me := ((t.written u r).observe t.cur ws).resolveRegion_me k 0 ws
    rw [State.observe_cur, same.cur, observed] at me
    exact me
  refine ⟨o, ?_⟩
  rw [State.published, State.me_self, ← resolved]
  rfl

end

section
variable {t u : State} {d ratio : Operand} {q : Order} {r : Region} {k : Nat}

theorem publishStep_early (early : relDone t t.cur q t.me.seq = false ∨ noLoadOverlap t.me r.lines = false) :
    publishStep t d ratio q r k = .wait t := by
  have late : (!(relDone t t.cur q t.me.seq && noLoadOverlap t.me r.lines)) = true := by
    rcases early with e | e <;> simp [e]
  exact if_pos late

variable (ordered : relDone t t.cur q t.me.seq = true) (loads : noLoadOverlap t.me r.lines = true)
include ordered loads

theorem publishStep_ordered : ¬ (!(relDone t t.cur q t.me.seq && noLoadOverlap t.me r.lines)) = true := by simp [ordered, loads]

theorem publishStep_no (ask : t.askLines (r.lines.map (fun b => (t.cur, b.line))) = .no) : publishStep t d ratio q r k = .wait t := by
  refine (if_neg (publishStep_ordered ordered loads)).trans ?_
  rw [ask]

theorem publishStep_wait (ask : t.askLines (r.lines.map (fun b => (t.cur, b.line))) = .wait u) : publishStep t d ratio q r k = .wait u := by
  refine (if_neg (publishStep_ordered ordered loads)).trans ?_
  rw [ask]

theorem publishStep_go (ask : t.askLines (r.lines.map (fun b => (t.cur, b.line))) = .go u) :
    publishStep t d ratio q r k = .done (t.published u d ratio r k) := by
  refine (if_neg (publishStep_ordered ordered loads)).trans ?_
  rw [ask]
  rfl

end

/-! ## `pcommit` (R152, R153, R310) -/

/-- The context of a region that a replay drops, at the block of its `pbegin` (R152). -/
def Ctx.replayed (c : Ctx) (r : Region) : Ctx :=
  { (c.goBlock r.blk 0) with
    region := none
    prgn := { c.prgn with opn := false, rpl := if c.prgn.rpl = 0xFF then 0xFF else c.prgn.rpl + 1 } }

/-- A replay, which its core counts. -/
def State.replayed (s : State) (r : Region) : State :=
  (s.self (fun c => c.replayed r)).updCore s.cur.gid (fun k => { k with pcntRply := k.pcntRply + 1 })

theorem State.replayed_me (s : State) (r : Region) : (s.replayed r).me = s.me.replayed r := by
  have counted : (s.self (fun c => c.replayed r)).KeepsCores Core.ctxs (s.replayed r) := .updCore _ fun _ => rfl
  exact (State.KeepsCtx.of_ctxs (p := id) counted s.cur).trans (s.me_self _)

/-- A `pcommit` has resolved its region with a draw and a status, and its destination holds its answer. -/
structure Ctx.Answers (c d : Ctx) (dst : Operand) (k stat : Nat) (v : Bool) : Prop where
  region : d.region = none
  ticket : d.prgn.tv = false
  pres : d.pres = BitVec.ofNat 64 (c.prgn.ticket.toNat * 2 ^ 32 + k * 256 + stat)
  answer : ∀ p : Fin 8, dst = .p p → p ≠ 0 → d.getP p.val = v
  x : d.x = c.x

theorem Ctx.answers_of_resolved {b c d : Ctx} {dst : Operand} {k stat : Nat} {v : Bool} (eq : d = ((c.writePO dst v).resolved k stat).advance)
    (prgn : c.prgn = b.prgn) (x : c.x = b.x) (draw : k < 2 ^ 24) (status : stat < 16) : b.Answers d dst k stat v := by
  subst eq
  refine ⟨Ctx.advance_region _, ?_, ?_, fun p names nonzero => ?_, ?_⟩
  · rw [Ctx.advance_prgn]
    rfl
  · rw [Ctx.advance_pres, ← presWord_eq _ draw status, ← prgn, ← c.writePO_prgn dst v]
    rfl
  · exact (Ctx.getP_advance ..).trans (Ctx.getP_writePO_same c v names nonzero)
  · rw [Ctx.advance_x, ← x, ← c.writePO_x dst v]
    rfl

theorem Ctx.writePO_resolved (c : Ctx) (dst : Operand) (v : Bool) (k stat : Nat) :
    (c.resolved k stat).writePO dst v = (c.writePO dst v).resolved k stat := by
  cases dst with
  | p n =>
    simp only [Ctx.writePO, Ctx.writeP]
    split <;> rfl
  | x n | v n | k n | lq n | sq n => rfl

theorem State.refused_me (u : State) (c : Ctx) (k stat : Nat) : ((u.setCtx u.cur c).resolveRegion u.cur k stat []).me = c.resolved k stat := by
  have me := (u.setCtx u.cur c).resolveRegion_me k stat []
  rwa [show (u.setCtx u.cur c).me = c from State.ctx_setCtx_same ..] at me

section
variable {h : Hdr} {s s1 : State} {o : FmtP} {m : Fin 64} {r : Region} (hi : Issues h s .closes [o.a, o.b] [o.d] s1)
include hi

theorem pcommit_noRegion (none : s.me.region = none) : exec (.pcommit h o) s = .next (s1.fault s.cur h 5 0 s.me.slotVal) := by
  show execPcommit h o s = _
  rw [execPcommit, issue_of_issues hi]
  simp [hi.me_region, none, hi.close_illegal]

variable (region : s.me.region = some r) (scope : (s1.me.scopeArg o.b).ok = true)
include region scope

section
variable (undrawn : r.drawn = none)
include undrawn

theorem pcommit_notReady (early : s1.drawReady = false ∨ (s.psq s.me.prgn.strm.toNat).head ≠ s.me.prgn.ticket) :
    exec (.pcommit h o) s = .next s1 := by
  have waits : (!s1.drawReady || decide ((s.psq s.me.prgn.strm.toNat).head ≠ s.me.prgn.ticket)) = true := by
    rcases early with e | e <;> simp [e]
  show execPcommit h o s = _
  rw [execPcommit, issue_of_issues hi]
  simp only [hi.me_region, region, scope, undrawn, hi.me_prgn, hi.psq, waits, Bool.not_true, Bool.false_eq_true, if_true, if_false, Res.close]

variable (ready : s1.drawReady = true) (head : (s.psq s.me.prgn.strm.toNat).head = s.me.prgn.ticket)
include ready head

theorem pcommit_replays (must : mustReplay (s.psq s.me.prgn.strm.toNat) r = true) :
    ∃ t, exec (.pcommit h o) s = .next t ∧ t.me = s1.me.replayed r ∧ t.mem = s.mem := by
  refine ⟨s1.replayed r, ?_, s1.replayed_me r, hi.mem⟩
  show execPcommit h o s = _
  rw [execPcommit, issue_of_issues hi]
  simp only [hi.me_region, region, scope, undrawn, hi.me_prgn, hi.psq, ready, head, must, Bool.not_true, Bool.false_eq_true,
    if_true, if_false, ne_eq, not_true_eq_false, decide_false, Bool.or_false]
  rfl

variable (fresh : mustReplay (s.psq s.me.prgn.strm.toNat) r = false)
include fresh

theorem pcommit_spent (names : o.a = .x m) (tbl : (s.psq s.me.prgn.strm.toNat).tbl = true)
    (spent : (s.psq s.me.prgn.strm.toNat).tidx = (s.psq s.me.prgn.strm.toNat).tcnt) :
    ∃ t, exec (.pcommit h o) s = .next t ∧ s.me.Answers t.me o.d 0 5 false ∧ t.mem = s.mem := by
  obtain ⟨t, ends, me, psq, mem⟩ := hi.ends (rfl : exec (.pcommit h o) s = _)
    (u := (s1.setCtx s1.cur (s1.me.writePO o.d false)).resolveRegion s1.cur 0 5 [])
    (by simp [hi.me_region, region, scope, undrawn, hi.me_prgn, hi.psq, ready, head, fresh, tbl, spent, names, Ctx.readS])
    hi.cur (s1.refused_me ..)
  exact ⟨t, ends, Ctx.answers_of_resolved me hi.me_prgn hi.me_x (by decide) (by decide), mem.trans hi.mem⟩

theorem pcommit_refused (names : o.a = .x m)
    (left : (s.psq s.me.prgn.strm.toNat).tbl = false ∨ (s.psq s.me.prgn.strm.toNat).tidx ≠ (s.psq s.me.prgn.strm.toNat).tcnt)
    {k stat : Nat} {q2 : Stream} (draw : (s.psq s.me.prgn.strm.toNat).draw s.me.prgn.strm.toNat s.me.prgn.ticket = (k, q2))
    (refuses : verdict (((s.me.getX m.val).val).setWidth 32) k = stat) (nonzero : stat ≠ 0)
    (draws : k < 2 ^ 24) (status : stat < 16) : ∃ t, exec (.pcommit h o) s = .next t ∧ s.me.Answers t.me o.d k stat false ∧ t.mem = s.mem := by
  obtain ⟨n, rfl⟩ := Nat.exists_eq_succ_of_ne_zero nonzero
  have more : ((s.psq s.me.prgn.strm.toNat).tbl && decide ((s.psq s.me.prgn.strm.toNat).tidx = (s.psq s.me.prgn.strm.toNat).tcnt)) = false := by
    rcases left with e | e <;> simp [e]
  let u := s1.updStream (gidCl s1.cur.gid) s.me.prgn.strm.toNat (fun _ => q2)
  obtain ⟨t, ends, me, psq, mem⟩ := hi.ends (rfl : exec (.pcommit h o) s = _)
    (u := (u.setCtx u.cur (s1.me.writePO o.d false)).resolveRegion u.cur k (n + 1) [])
    (by
      simp only [hi.me_region, region, scope, undrawn, hi.me_prgn, hi.psq, ready, head, fresh, more, names, Ctx.readS, draw, hi.me_getX, refuses,
        Bool.not_true, Bool.false_eq_true, if_false, ne_eq, not_true_eq_false, decide_false, Bool.or_false]
      rfl)
    hi.cur (u.refused_me ..)
  exact ⟨t, ends, Ctx.answers_of_resolved me hi.me_prgn hi.me_x draws status, mem.trans hi.mem⟩

end

section
variable {k : Nat} (drawn : r.drawn = some k)
include drawn

theorem pcommit_of_drawn : exec (.pcommit h o) s = (publishStep s1 o.d o.a (s1.me.scopeArg o.b) r k).close s.cur h s1 := by
  show execPcommit h o s = _
  rw [execPcommit, issue_of_issues hi]
  simp only [hi.me_region, region, scope, drawn, Bool.not_true, Bool.false_eq_true, if_false]

theorem pcommit_waits {t : State} (waits : publishStep s1 o.d o.a (s1.me.scopeArg o.b) r k = .wait t) :
    exec (.pcommit h o) s = .next t := by
  rw [pcommit_of_drawn hi region scope drawn, waits]
  rfl

/-- A publication writes the region's lines, and retires with its verdict. -/
theorem pcommit_publishes {u : State} (names : o.a = .x m) (draws : k < 2 ^ 24)
    (ordered : relDone s1 s1.cur (s1.me.scopeArg o.b) s1.me.seq = true) (loads : noLoadOverlap s1.me r.lines = true)
    (go : s1.askLines (r.lines.map (fun b => (s1.cur, b.line))) = .go u) :
    ∃ t, exec (.pcommit h o) s = .next t ∧ s.me.Answers t.me o.d k 0 true ∧ ∀ y, t.byte y = (s1.written u r).byte y := by
  have asked := State.asked_of_go go
  obtain ⟨e, published⟩ := State.published_me o.d o.a r k asked
  rw [names, Ctx.readS, Ctx.writePO_resolved, ← names] at published
  obtain ⟨t, ends, me, psq, mem⟩ := Res.done_ends ((pcommit_of_drawn hi region scope drawn).trans (by rw [publishStep_go ordered loads go]))
    ((State.published_cur o.d o.a r k asked).trans hi.cur) published
  exact ⟨t, ends, Ctx.answers_of_resolved me hi.me_prgn hi.me_x draws (by decide),
    fun y => congrArg (fun m => Sparse.look 0 m y) (mem.trans (s1.published_mem ..))⟩

end

end

/-! ## What a publication leaves in memory (R155) -/

theorem Issues.home {h : Hdr} {s s1 : State} {rg : InRegion} {srcs dsts : List Operand} (hi : Issues h s rg srcs dsts s1) : s.SameHome s1 := by
  rcases State.takeWait_cases hi.wait with ⟨rfl, -⟩ | ⟨-, -, -, -, rfl⟩
  · exact .refl s1
  · exact .of_rest (by simp) (by simp) (by simp) (by simp) (by simp) (by simp)

section
variable {s s1 u : State} {r : Region} {y : Nat} (same : s.SameHome s1) (asked : s1.Asked u)
include same asked

theorem State.written_out (out : ∀ b ∈ r.lines, ∀ e ∈ b.runs,
      y < Machine.fwdAddr s (b.line * 128) + e.1 ∨ Machine.fwdAddr s (b.line * 128) + e.1 + e.2.length ≤ y) :
    (s1.written u r).byte y = s.byte y := by
  have home := same.trans asked.quiet.home
  rw [State.written, State.writeLines_out _ _ _ u (by simpa only [home.fwdAddr] using out), home.byte]

theorem State.written_byte {b : BrineLine} (one : r.lines = [b]) (still : s.dev.migs = [])
    (lies : ∀ i, i < 128 → reservedPA s (s.partOf s1.cur.gid) (isSvc s1.cur.gid) (b.line * 128 + i) = false) {i : Nat} (small : i < 128) :
    (s1.written u r).byte (b.line * 128 + i) = if b.mask.getLsbD i then lineByte b.data i else s.byte (b.line * 128 + i) := by
  have home := same.trans asked.quiet.home
  have base : Machine.fwdAddr u (b.line * 128) = b.line * 128 := (home.fwdAddr _).trans (fwdAddr_of_no_migration still _)
  have inMemory : b.Lies u s1.cur.gid := fun j below => by
    rw [base, home.reserved, home.partOf]
    exact lies j below
  have byte := State.writeBrine_byte (rel := true) (obs := s1.me.obs) inMemory small
  rw [base, home.byte] at byte
  rw [State.written, one]
  exact byte

end

end Sys2Proof.Machine
end

section
/-! PROOFS. Commit regions and draws (R146, R147, R153, R154, R312-R314): `pseed`, `pseed.tbl`, `pdraw` and `pstat`. -/

namespace Sys2Proof.Machine

open Sys2Proof

/-! ## Seeding a stream (R147) -/

section
variable (t : State) (o : FmtP) (seed : Word) (first : BitVec 32) (tbl : Bool) (ws : List Nat)

/-- A stream's table with its first words replaced. -/
def tableOf (m : Sparse (BitVec 24)) (ws : List Nat) : Sparse (BitVec 24) :=
  (List.range ws.length).foldl (fun m i => Sparse.put 0 m i (BitVec.ofNat 24 (ws.getD i 0))) m

/-- A stream that has been seeded. -/
def Stream.seeded (q : Stream) : Stream :=
  { q with seed := seed, next := first, head := first, tbl := tbl, tcnt := o.tcnt, tidx := 0, table := tableOf q.table ws, pubs := [] }

/-- What seeding a stream at rest comes to. -/
def State.seeded : State :=
  (t.updStream (gidCl t.cur.gid) o.strm.toNat (fun q =>
    { q with seed := seed, next := first, head := first, tbl := tbl, tcnt := o.tcnt, tidx := 0,
             table := tableOf (t.psq o.strm.toNat).table ws, pubs := [] })).self (fun c => c.writePO o.d true)

theorem State.seeded_psq : (t.seeded o seed first tbl ws).psq o.strm.toNat = (t.psq o.strm.toNat).seeded o seed first tbl ws := by
  rw [State.seeded, State.psq_self, State.psq_updStream rfl]
  rfl

theorem State.seeded_me : (t.seeded o seed first tbl ws).me = t.me.writePO o.d true := State.me_self ..

theorem look_tableOf (m : Sparse (BitVec 24)) {i : Nat} (inside : i < ws.length) :
    Sparse.look 0 (tableOf m ws) i = BitVec.ofNat 24 (ws.getD i 0) := by
  rw [tableOf, Sparse.look_putRange, if_pos inside]

variable {t o seed first tbl ws}

theorem seedStream_refuses (taken : (t.psq o.strm.toNat).head ≠ (t.psq o.strm.toNat).next) :
    seedStream t o seed first tbl ws = .done (t.self (fun c => c.writePO o.d false)) := if_pos (.inl taken)

theorem seedStream_seeds (atRest : (t.psq o.strm.toNat).head = (t.psq o.strm.toNat).next) (few : o.tcnt.toNat ≤ 64)
    (small : ∀ w ∈ ws, w < 2 ^ 24) : seedStream t o seed first tbl ws = .done (t.seeded o seed first tbl ws) := by
  refine if_neg ?_
  simp only [atRest, ne_eq, not_true_eq_false, false_or, not_or, Nat.not_lt, List.any_eq_true, decide_eq_true_eq, not_exists, not_and]
  exact ⟨few, fun w mem => Nat.not_le.2 (small w mem)⟩

end

/-! ## `pseed` (R312) -/

section
variable {h : Hdr} {s s1 : State} {o : FmtP}

section
variable {m n : Fin 64} (ready : s1.drawReady = true) (hi : Issues h s .illegal [o.a, o.b] [o.d] s1)
include ready hi

theorem pseed_of_issues : exec (.pseed h o) s = (seedStream (s1.self (fun c => ((c.readS o.a).2.readS o.b).2)) o (s1.me.readS o.a).1
    (((s1.me.readS o.a).2.readS o.b).1.setWidth 32) false []).close s.cur h s1 := by
  show execPseed h o s = _
  rw [execPseed, issue_of_issues hi, ready]
  rfl

theorem pseed_refuses (taken : (s.psq o.strm.toNat).head ≠ (s.psq o.strm.toNat).next) : exec (.pseed h o) s =
    .next ((s1.self (fun c => ((c.readS o.a).2.readS o.b).2)).after h (fun c => c.writePO o.d false)) := by
  rw [pseed_of_issues ready hi, seedStream_refuses (by rwa [State.psq_self, hi.psq]), State.after, State.self_cur, hi.cur]
  rfl

theorem pseed_seeds (seed : o.a = .x m) (first : o.b = .x n) (atRest : (s.psq o.strm.toNat).head = (s.psq o.strm.toNat).next)
    (few : o.tcnt.toNat ≤ 64) :
    ∃ t, exec (.pseed h o) s = .next t ∧ t.me = (s1.me.writePO o.d true).advance ∧
      t.psq o.strm.toNat = (s.psq o.strm.toNat).seeded o (s.me.getX m.val).val ((s.me.getX n.val).val.setWidth 32) false [] ∧ t.mem = s.mem := by
  obtain ⟨t, ends, me, psq, mem⟩ := Res.done_ends
    ((pseed_of_issues ready hi).trans (by rw [seedStream_seeds (by rwa [State.psq_self, hi.psq]) few (by simp)]))
    (by exact hi.cur) (State.seeded_me ..)
  refine ⟨t, ends, ?_, ?_, mem.trans hi.mem⟩
  · rw [me, State.me_self, seed, first]
    rfl
  · rw [psq, State.seeded_psq, State.psq_self, hi.psq, seed, first]
    simp only [Ctx.readS, hi.me_getX]

end

/-! ## `pseed.tbl` (R312) -/

/-- The words of a table. -/
def tableWords (n : Nat) (bs : List Byte) : List Nat := (List.range n).map (fun i => ofBytes ((bs.drop (4 * i)).take 4))

/-- The stream is seeded once its table has been read. -/
def seedTable (o : FmtP) (t : State) (bs : List Byte) : Res :=
  seedStream (t.self (fun c => (c.readS o.b).2)) o 0 ((t.me.readS o.b).1.setWidth 32) true
    (if o.tcnt.toNat ≤ 64 then tableWords o.tcnt.toNat bs else [])

/-- The check of a table's place. -/
def tableReq (o : FmtP) (t : State) : Req :=
  ⟨t.me.readPair o.a, [permLoad], kLoad, 1, 0, [⟨(t.me.readPair o.a).addr, 4 * o.tcnt.toNat, 0⟩], true⟩

theorem withAccess_of_trap {t : State} {q : Req} {kind sub : Nat} {val : Word}
    (checked : checkElems t t.cur.gid t.me.cdom q q.elems [] [] = .trap kind sub val) (k : State → List Part → List TlbEntry → Res) :
    withAccess t q k = .trap kind sub val := by
  rw [withAccess]
  dsimp only
  rw [checked]

theorem withRead_of_read {t : State} {cap : Cap} {perms : List Nat} {ea : Word} {n al : Nat} {bs : List Byte} {gt : List Bool}
    (read : t.me.busy = some (.read bs gt)) (k : State → List Byte → Res) : withRead t cap perms ea n al k = k t bs := by
  rw [withRead, read]

theorem withRead_of_idle {t : State} {cap : Cap} {perms : List Nat} {ea : Word} {n al : Nat}
    (idle : t.me.busy = none) (some : n ≠ 0) (k : State → List Byte → Res) :
    withRead t cap perms ea n al k = readStart t cap perms ea n al := by
  rw [withRead, idle]
  exact if_neg some

section
variable {n : Fin 64} {bs : List Byte} {gt : List Bool} (ready : s1.drawReady = true)
  (hi : Issues h s .illegal (pairOps o.a ++ [o.b]) [o.d] s1)
include ready hi

theorem pseedTbl_empty (empty : o.tcnt.toNat = 0) :
    exec (.pseedTbl h o) s = (withAccess s1 (tableReq o s1) (fun t _ _ => seedTable o t [])).close s.cur h s1 := by
  show execPseedTbl h o s = _
  rw [execPseedTbl, issue_of_issues hi, ready]
  refine congrArg (fun x : Res => x.close s.cur h s1) ((if_pos empty).trans ?_)
  simp only [tableReq, seedTable, tableWords, empty]
  rfl

theorem pseedTbl_full (full : o.tcnt.toNat ≠ 0) : exec (.pseedTbl h o) s =
    (withRead s1 (s1.me.readPair o.a) [permLoad] (s1.me.readPair o.a).addr (4 * o.tcnt.toNat) 1 (seedTable o)).close s.cur h s1 := by
  show execPseedTbl h o s = _
  rw [execPseedTbl, issue_of_issues hi, ready]
  exact congrArg (fun x : Res => x.close s.cur h s1) (if_neg full)

theorem pseedTbl_traps {k sub : Nat} {v : Word} (idle : s1.me.busy = none ∨ o.tcnt = 0)
    (trap : checkElems s1 s.cur.gid s1.me.cdom (tableReq o s1) (tableReq o s1).elems [] [] = .trap k sub v) :
    exec (.pseedTbl h o) s = .next (s1.fault s.cur h k sub v) := by
  rw [← hi.cur] at trap
  by_cases empty : o.tcnt.toNat = 0
  · rw [pseedTbl_empty ready hi empty, withAccess_of_trap trap]
    rfl
  · have free : s1.me.busy = none := idle.resolve_right fun zero => empty (congrArg BitVec.toNat zero)
    rw [pseedTbl_full ready hi empty, withRead_of_idle free (by omega), readStart]
    exact congrArg (fun x : Res => x.close s.cur h s1) (withAccess_of_trap trap _)

/-- The table read, the stream is seeded in a state with the same context, streams and memory. -/
theorem pseedTbl_reads (passes : (o.tcnt ≠ 0 ∧ s1.me.busy = some (.read bs gt)) ∨
      (o.tcnt = 0 ∧ ∃ parts used, checkElems s1 s.cur.gid s1.me.cdom (tableReq o s1) (tableReq o s1).elems [] [] = .ok parts used)) :
    ∃ t, exec (.pseedTbl h o) s = (seedTable o t bs).close s.cur h s1 ∧ t.cur = s.cur ∧ t.me = s1.me ∧
      (∀ n, t.psq n = s.psq n) ∧ t.mem = s.mem := by
  rcases passes with ⟨some, read⟩ | ⟨zero, parts, used, checked⟩
  · have full : o.tcnt.toNat ≠ 0 := fun zero => some (BitVec.eq_of_toNat_eq zero)
    refine ⟨s1, ?_, hi.cur, rfl, hi.psq, hi.mem⟩
    rw [pseedTbl_full ready hi full, withRead_of_read read]
  · rw [← hi.cur] at checked
    have empty : o.tcnt.toNat = 0 := congrArg BitVec.toNat zero
    have cur := s1.touchAll_cur s1.cur.gid used
    have kept : (s1.touchAll s1.cur.gid used).clusters = s1.clusters ∧ (s1.touchAll s1.cur.gid used).mem = s1.mem := by
      unfold State.touchAll
      split <;> exact ⟨rfl, rfl⟩
    refine ⟨s1.touchAll s1.cur.gid used, ?_, cur.trans hi.cur, ?_, fun n => (State.psq_of_clusters kept.1 cur n).trans (hi.psq n),
      kept.2.trans hi.mem⟩
    · rw [pseedTbl_empty ready hi empty, withAccess_of_ok checked, seedTable, seedTable, empty]
      rfl
    · rw [State.me, cur, State.touchAll_ctx]
      rfl

theorem pseedTbl_seeds (first : o.b = .x n) (passes : (o.tcnt ≠ 0 ∧ s1.me.busy = some (.read bs gt)) ∨
      (o.tcnt = 0 ∧ ∃ parts used, checkElems s1 s.cur.gid s1.me.cdom (tableReq o s1) (tableReq o s1).elems [] [] = .ok parts used))
    (atRest : (s.psq o.strm.toNat).head = (s.psq o.strm.toNat).next) (few : o.tcnt.toNat ≤ 64)
    (small : ∀ i, i < o.tcnt.toNat → ofBytes ((bs.drop (4 * i)).take 4) < 2 ^ 24) :
    ∃ t, exec (.pseedTbl h o) s = .next t ∧ t.me = (s1.me.writePO o.d true).advance ∧
      t.psq o.strm.toNat = (s.psq o.strm.toNat).seeded o 0 ((s.me.getX n.val).val.setWidth 32) true (tableWords o.tcnt.toNat bs) ∧
      t.mem = s.mem := by
  obtain ⟨u, exec, cur, same, streams, memory⟩ := pseedTbl_reads ready hi passes
  have words : ∀ w ∈ tableWords o.tcnt.toNat bs, w < 2 ^ 24 := by simpa [tableWords] using small
  obtain ⟨t, ends, me, psq, mem⟩ := Res.done_ends
    (exec.trans (by rw [seedTable, if_pos few, seedStream_seeds (by rwa [State.psq_self, streams]) few words]))
    (by exact cur) (State.seeded_me ..)
  refine ⟨t, ends, ?_, ?_, mem.trans memory⟩
  · rw [me, State.me_self, first, same]
    rfl
  · rw [psq, State.seeded_psq, State.psq_self, streams, first, same]
    simp only [Ctx.readS, hi.me_getX]

end

theorem look_tableWords {bs : List Byte} {n i : Nat} (m : Sparse (BitVec 24)) (inside : i < n) :
    Sparse.look 0 (tableOf m (tableWords n bs)) i = BitVec.ofNat 24 (ofBytes ((bs.drop (4 * i)).take 4)) := by
  rw [look_tableOf _ m (by simpa [tableWords] using inside)]
  simp [tableWords, inside]

end

/-! ## `pdraw` and `pstat` (R154, R313, R314) -/

/-- The value that `pdraw` writes for a draw. -/
def drawValue (wsel : BitVec 2) (k : Nat) : Nat :=
  if wsel = 0 then (toF 8 0 false (.fin false k (-24))).raw
  else if wsel = 1 then k else (toF 7 0 false (.fin false k (-24))).raw

section
variable {h : Hdr} {s s1 : State} {o : FmtP}

theorem drawValue_zero (k : Nat) : drawValue 0 k = (toF 8 0 false (.fin false k (-24))).raw := if_pos rfl

theorem drawValue_one (k : Nat) : drawValue 1 k = k := if_neg (by decide)

theorem drawValue_two (k : Nat) : drawValue 2 k = (toF 7 0 false (.fin false k (-24))).raw := if_neg (by decide)

/-- The counter and the seed of a core's draws. -/
def Core.draws (c : Core) : Word × Word := (c.pdct, c.pdsd)

theorem State.takeWait_draws {a : Agent} (taken : s.takeWait a h = some s1) : s.KeepsCores Core.draws s1 := by
  rcases State.takeWait_cases taken with ⟨rfl, -⟩ | ⟨-, -, -, -, rfl⟩
  · exact .refl s1
  · unfold State.takeSem
    dsimp only
    refine .trans (.updCore (p := Core.draws) a.gid fun _ => ?_) (.trans (.observe _ a _ fun _ _ _ => ?_) (.updCtx a _ fun _ _ _ => ?_)) <;> rfl

/-- A draw of the core's counter has been taken. -/
def State.counted (s : State) : State := s.updCore s.cur.gid (fun c => { c with pdct := c.pdct + 1 })

theorem State.counted_me (s : State) : s.counted.me = s.me := by
  have kept : s.KeepsCores Core.ctxs s.counted := .updCore _ fun _ => rfl
  exact State.KeepsCtx.of_ctxs (p := id) kept s.cur

theorem State.counted_draws (s : State) : (s.counted.core s.cur.gid).draws = (s.here.pdct + 1, s.here.pdsd) := by
  rw [State.counted, State.core_updCore_same]
  rfl

theorem pdraw_retires (hi : Issues h s .illegal [] [o.d] s1) (ready : s1.drawReady = true) : exec (.pdraw h o) s =
    .next ((s1.counted.self (fun c => c.writeS o.d (wd (drawValue o.wsel (drawFn s1.here.pdsd 16 s1.here.pdct))))).retire s.cur h) := by
  show execPdraw h o s = _
  rw [execPdraw, issue_of_issues hi, ready, drawValue]
  rfl

theorem pdraw_draws (hi : Issues h s .illegal [] [o.d] s1) (ready : s1.drawReady = true) :
    ∃ t, exec (.pdraw h o) s = .next t ∧
      t.me = (s1.me.writeS o.d (wd (drawValue o.wsel (drawFn s1.here.pdsd 16 s1.here.pdct)))).advance ∧
      (t.core s.cur.gid).draws = ((s.core s.cur.gid).pdct + 1, (s.core s.cur.gid).pdsd) ∧ t.mem = s.mem := by
  have written (f : Ctx → Ctx) : (s1.counted.self f).me = f s1.me := (State.me_self ..).trans (congrArg f s1.counted_me)
  obtain ⟨me, -, mem⟩ := State.retire_ends (h := h) (s := s) (by exact hi.cur) (written
    (fun c => c.writeS o.d (wd (drawValue o.wsel (drawFn s1.here.pdsd 16 s1.here.pdct)))))
  refine ⟨_, pdraw_retires hi ready, me, ?_, mem.trans hi.mem⟩
  have kept (f : Ctx → Ctx) : s1.counted.KeepsCores Core.draws ((s1.counted.self f).retire s.cur h) := by
    have writes : s1.counted.KeepsCores Core.draws (s1.counted.self f) := .updCtx _ f fun _ _ _ => rfl
    exact writes.trans (State.retire_keeps (fun _ _ _ => rfl) (fun _ _ => rfl) _ _ _)
  have before := State.takeWait_draws hi.wait s.cur.gid
  have counted := s1.counted_draws
  rw [State.here, hi.cur] at counted
  rw [kept, counted]
  exact congrArg (fun d : Word × Word => (d.1 + 1, d.2)) before

theorem Stream.word_zero (q : Stream) : q.word 0 = q.seed := if_pos rfl

theorem Stream.word_one (q : Stream) : q.word 1 = q.next ++ q.head := by
  refine BitVec.eq_of_toNat_eq ?_
  have next := q.next.isLt
  have head := q.head.isLt
  rw [Stream.word, if_neg Nat.one_ne_zero, if_pos rfl, wd, BitVec.toNat_append, ← Nat.shiftLeft_add_eq_or_of_lt head, Nat.shiftLeft_eq,
    BitVec.toNat_ofNat, Nat.mod_eq_of_lt]
  omega

variable (hi : Issues h s .normal [] [o.d] s1)
include hi

theorem pstat_reads : exec (.pstat h o) s = .next (s1.after h (fun c => c.writeS o.d ((s1.psq o.strm.toNat).word o.wsel.toNat))) :=
  (issue_of_issues hi _).trans (hi.close_done _)

theorem pstatE_reads : exec (.pstatE h o) s =
    .next (s1.after h (fun c => c.writeS o.d ((Sparse.look 0 (s1.psq o.strm.toNat).table o.tcnt.toNat).setWidth 64))) :=
  (issue_of_issues hi _).trans (hi.close_done _)

end

end Sys2Proof.Machine
end

section
/-! PROOFS. Commit regions and draws (R145-R156, R309-R314): the obligation. -/

namespace Sys2Proof.Machine

open Sys2Proof

/-- Settles O44: each clause is the lemma of its instruction above. -/
theorem proposalInstructions : Obligations.ProposalInstructions := by
  unfold Obligations.ProposalInstructions
  intro h s s1
  refine ⟨fun _ => pbegin_misplaced, ?_, ?_, ?_, ?_, ?_, fun o => ⟨?_, ?_⟩⟩
  · -- `pbegin`
    intro o slot silent hi unmerged
    refine ⟨pbegin_otherStream slot silent hi, pbegin_waits slot silent hi unmerged, Stream.turn_iff .., ?_, ?_⟩
    · intro free turn
      obtain ⟨t, ends, me, psq, mem⟩ := pbegin_takes slot silent hi unmerged free turn
      refine ⟨t, ends, ?_⟩
      simp [me, psq, mem, ticketed, opened, Stream.take, hi.me_x]
    · intro held same
      obtain ⟨t, ends, me, psq, mem⟩ := pbegin_replays slot silent hi unmerged held same
      refine ⟨t, ends, ?_⟩
      simp [me, psq, mem, hi.me_x]
  · -- `pabort`
    intro o hi
    refine ⟨pabort_noRegion hi, fun inRegion => ?_⟩
    obtain ⟨t, ends, me, resolved, mem⟩ := pabort_resolves (o := o) hi inRegion
    refine ⟨t, ends, ?_⟩
    have pres := presWord_eq s.me.prgn.ticket (k := 0) (stat := 3) (by decide) (by decide)
    simp [me, resolved, mem, Ctx.resolved, hi.me_prgn, hi.me_x, pres]
  · -- `pcommit`
    intro o m names hi q
    refine ⟨pcommit_noRegion hi, ?_, ?_⟩
    · intro r region undrawn scope
      refine ⟨pcommit_notReady hi region scope undrawn, ?_, ?_, ?_⟩
      · intro ready head must
        obtain ⟨t, ends, me, mem⟩ := pcommit_replays hi region scope undrawn ready head must
        refine ⟨t, ends, me ▸ ⟨?_, rfl, rfl, rfl⟩, ?_⟩
        · rw [← hi.me_pcc]
          rfl
        · simp [me, mem, Ctx.replayed, Ctx.goBlock, Ctx.enter, hi.me_prgn, hi.me_x]
      · intro ready head fresh tbl spent
        obtain ⟨t, ends, answers, mem⟩ := pcommit_spent hi region scope undrawn ready head fresh names tbl spent
        exact ⟨t, ends, answers.region, answers.ticket, by simpa using answers.pres, answers.answer, mem⟩
      · intro ready head fresh left k q2 stat draw refuses nonzero status draws
        obtain ⟨t, ends, answers, mem⟩ := pcommit_refused hi region scope undrawn ready head fresh names left draw refuses nonzero draws status
        exact ⟨t, ends, answers.region, answers.ticket, answers.pres, answers.answer, mem⟩
    · intro r k region drawn draws scope
      rw [← hi.cur]
      refine ⟨fun early => pcommit_waits hi region scope drawn (publishStep_early early), fun ordered loads ask asks => ⟨?_, ?_, ?_⟩⟩
      · exact fun no => pcommit_waits hi region scope drawn (publishStep_no ordered loads (asks.symm.trans no))
      · exact fun u waits => pcommit_waits hi region scope drawn (publishStep_wait ordered loads (asks.symm.trans waits))
      · intro u goes
        have go := asks.symm.trans goes
        have asked := State.asked_of_go go
        obtain ⟨t, ends, answers, byte⟩ := pcommit_publishes hi region scope drawn names draws ordered loads go
        refine ⟨t, ends, answers.region, answers.ticket, by simpa using answers.pres, answers.answer, answers.x, fun y out => ?_,
          fun b one still lies i small => ?_⟩
        · rw [byte, State.written_out hi.home asked out]
        · rw [byte, State.written_byte hi.home asked one still lies small]
  · -- `pseed`
    intro o m n seed first ready hi q
    refine ⟨pseed_refuses ready hi, fun atRest few => ?_⟩
    obtain ⟨t, ends, me, psq, mem⟩ := pseed_seeds ready hi seed first atRest few
    obtain ⟨answer, kept⟩ := hi.answered me
    exact ⟨t, ends, psq, answer, kept, mem⟩
  · -- `pseed.tbl`
    intro o n bs gt first ready hi q cap r passed
    refine ⟨fun k sub v => pseedTbl_traps ready hi, fun passes atRest few small => ?_⟩
    obtain ⟨t, ends, me, psq, mem⟩ := pseedTbl_seeds ready hi first passes atRest few small
    obtain ⟨answer, kept⟩ := hi.answered me
    exact ⟨t, ends, psq ▸ ⟨rfl, rfl, rfl, rfl, fun i inside => look_tableWords _ inside, answer, kept, mem⟩⟩
  · -- `pdraw`
    intro hi ready k
    obtain ⟨t, ends, me, draws, mem⟩ := pdraw_draws hi ready
    refine ⟨t, ends, congrArg Prod.fst draws, congrArg Prod.snd draws, fun n names nonzero => ?_, mem⟩
    rw [me, names, Ctx.getX_advance, Ctx.getX_writeS_same _ _ nonzero]
    refine ⟨fun w => ?_, fun w => ?_, fun w => ?_⟩
    · rw [w, drawValue_one]
      rfl
    · rw [w, drawValue_zero]
      rfl
    · rw [w, drawValue_two]
      rfl
  · -- `pstat`
    intro hi q
    refine ⟨fun w => ?_, fun w => ?_, pstatE_reads hi⟩
    · rw [pstat_reads hi, w, ← Stream.word_zero]
      rfl
    · rw [pstat_reads hi, w, ← Stream.word_one]
      rfl

end Sys2Proof.Machine
end

section
/-! PROOFS. Special values and results of the scalar floating instructions (R165-R171, R288-R291). -/

namespace Sys2Proof.Machine

open Sys2Proof

/-! ## Special values (R167, R170, R288) -/

section
variable {f : Nat} (rnd : Nat) (sat : Bool)

/-- A result without a flag takes the flags that join it. -/
@[simp] theorem FRes.orFlags_mk_zero (raw : Nat) (flags : BitVec 6) : (FRes.mk raw 0).orFlags flags = ⟨raw, flags⟩ :=
  congrArg (FRes.mk raw) BitVec.zero_or

/-- Every format but E2M1 answers NaN with its canonical NaN and no flag. -/
theorem toF_nan (h : f ≠ 13) : toF f rnd sat .nan = ⟨fmtNaN f, 0⟩ := by
  rw [toF, if_neg h]

/-- An infinity is kept without the saturation flag where the format has infinities. -/
theorem toF_inf (h13 : f ≠ 13) (h11 : f ≠ 11) (neg : Bool) :
    toF f rnd false (.inf neg) = ⟨(if neg then fmtSignBit f else 0) + fmtInfBits f, 0⟩ := by
  simp [toF, h13, h11]

theorem fsumV_nan_left (b : FVal) : fsumV rnd [.nan, b] = (.nan, false) := rfl

theorem fsumV_nan_right (a : FVal) : fsumV rnd [a, .nan] = (.nan, false) := by
  simp [fsumV]

/-- Opposite infinities have no sum. -/
theorem fsumV_inf_opposite (s : Bool) : fsumV rnd [.inf s, .inf !s] = (.nan, true) := by
  cases s <;> rfl

theorem fmulV_nan_left (b : FVal) : fmulV .nan b = (.nan, false) := rfl

theorem fmulV_nan_right (a : FVal) : fmulV a .nan = (.nan, false) := by
  cases a <;> rfl

/-- An infinity and a zero have no product. -/
theorem fmulV_inf_zero (s t : Bool) (e : Int) : fmulV (.inf s) (.fin t 0 e) = (.nan, true) := rfl

/-- The result of an operation that answers NaN: IV tells whether it was invalid. -/
theorem toF_nan_orFlags (h : f ≠ 13) (inv : Bool) : (toF f rnd sat .nan).orFlags (invFlag inv) = ⟨fmtNaN f, invFlag inv⟩ := by
  rw [toF_nan rnd sat h, FRes.orFlags_mk_zero]

theorem faddF_of_nan (h : f ≠ 13) {a b : FVal} {inv : Bool} (sum : fsumV rnd [a, b] = (.nan, inv)) :
    faddF f rnd sat a b = ⟨fmtNaN f, invFlag inv⟩ := by
  rw [faddF, sum, toF_nan_orFlags rnd sat h]

theorem fmulF_of_nan (h : f ≠ 13) {a b : FVal} {inv : Bool} (product : fmulV a b = (.nan, inv)) :
    fmulF f rnd sat a b = ⟨fmtNaN f, invFlag inv⟩ := by
  rw [fmulF, product, toF_nan_orFlags rnd sat h]

theorem fdivF_nan_left (h : f ≠ 13) (b : FVal) : fdivF f rnd sat .nan b = ⟨fmtNaN f, 0⟩ := toF_nan rnd sat h

theorem fdivF_nan_right (h : f ≠ 13) (a : FVal) : fdivF f rnd sat a .nan = ⟨fmtNaN f, 0⟩ := by
  cases a <;> exact toF_nan rnd sat h

theorem fdivF_inf_inf (h : f ≠ 13) (s t : Bool) : fdivF f rnd sat (.inf s) (.inf t) = ⟨fmtNaN f, flIV⟩ :=
  toF_nan_orFlags rnd sat h true

/-- A finite nonzero value over a zero is an infinity and DZ, with the saturation flag or without (log entry 21). -/
theorem fdivF_by_zero (h13 : f ≠ 13) (h11 : f ≠ 11) (n t : Bool) {m : Nat} (nonzero : m ≠ 0) (e d : Int) :
    fdivF f rnd sat (.fin n m e) (.fin t 0 d) = ⟨(if n != t then fmtSignBit f else 0) + fmtInfBits f, flDZ⟩ := by
  rw [fdivF, if_pos rfl, if_neg nonzero, toF_inf rnd h13 h11, FRes.orFlags_mk_zero]

end

/-! ## The instructions (R171, R288, R290, R291) -/

section
variable {h : Hdr} {o : FmtF} {s s1 : State}

/-- Each instruction of two sources retires with its operation's result. -/
theorem fpBin_retires (f : Nat → Nat → Bool → FVal → FVal → FRes) (hi : Issues h s .normal [o.a, o.b] [o.d] s1) :
    fpBin f h o s = .next (s1.after h
      (fpCtx (fun x y => f o.fmt.toNat o.rnd.toNat o.sat (decodeF o.fmt.toNat x) (decodeF o.fmt.toNat y)) o.d o.a o.b)) :=
  pure1_eq_after hi _

/-- A conversion to a signed integer fills the word with the sign, any other with zeros (R290). -/
theorem cvtWord_eq (f : BitVec 4) (raw : Nat) : cvtWord f.toNat raw =
    if f.toNat ≤ 6 ∧ f ≠ 1 ∧ f ≠ 6 then BitVec.ofInt 64 (decodeI f.toNat raw) else BitVec.ofNat 64 raw := by
  have signed : (fmtIsInt f.toNat && fmtSigned f.toNat) = true ↔ f.toNat ≤ 6 ∧ f ≠ 1 ∧ f ≠ 6 := by
    simp [fmtIsInt, fmtSigned, ← BitVec.toNat_inj]
  by_cases c : f.toNat ≤ 6 ∧ f ≠ 1 ∧ f ≠ 6
  · have both := signed.mpr c
    rw [cvtWord, if_pos both, if_pos c, decodeI, if_pos (Bool.and_eq_true_iff.mp both).2, wdI]
  · rw [cvtWord, if_neg (mt signed.mp c), if_neg c, wd]

end

/-- Settles O23: the special values go through the exact operations' NaN and infinity lemmas, and each instruction is its context
change in the state in which it issues. -/
theorem fpResults : Obligations.FpResults := by
  unfold Obligations.FpResults
  refine ⟨fun f rnd sat _ le => ?_, fun h o s s1 => ⟨fun hi e he => ?_, fun hi => ?_, fun hi => ⟨?_, ?_, ?_⟩⟩⟩
  · have h13 : f ≠ 13 := by omega
    refine ⟨fun b => ⟨?_, ?_, ?_, ?_, ?_, ?_⟩, fun s e => ⟨?_, ?_, ?_⟩, fun m n e d nonzero h11 => ?_⟩
    · exact faddF_of_nan rnd sat h13 (fsumV_nan_left rnd b)
    · exact faddF_of_nan rnd sat h13 (fsumV_nan_right rnd b)
    · exact fmulF_of_nan rnd sat h13 (fmulV_nan_left b)
    · exact fmulF_of_nan rnd sat h13 (fmulV_nan_right b)
    · exact fdivF_nan_left rnd sat h13 b
    · exact fdivF_nan_right rnd sat h13 b
    · exact faddF_of_nan rnd sat h13 (fsumV_inf_opposite rnd s)
    · exact fmulF_of_nan rnd sat h13 (fmulV_inf_zero s false e)
    · exact fdivF_inf_inf rnd sat h13 s s
    · rw [fdivF_by_zero rnd sat h13 h11 n false nonzero e d, Bool.bne_false]
      rfl
  · simp only [List.mem_cons, List.not_mem_nil, or_false] at he
    obtain rfl | rfl | rfl | rfl := he
    · exact fpBin_retires faddF hi
    · exact fpBin_retires fsubF hi
    · exact fpBin_retires fmulF hi
    · exact fpBin_retires fdivF hi
  · -- `ffma`
    exact pure1_eq_after hi _
  · -- `fsqrt`
    exact pure1_eq_after hi _
  · -- `fexp2`
    exact pure1_eq_after hi _
  · -- `fcvt`
    refine (pure1_eq_after hi _).trans ?_
    simp only [cvtWord_eq]
    rfl

end Sys2Proof.Machine
end

section
/-! PROOFS. The floating formats (R165, R166): a pattern of finite value is a sign and a magnitude, and the magnitudes are in the order of
the values. -/

namespace Sys2Proof.Machine

open Sys2Proof

/-- The pattern, without its sign, of `m` units of the `j`-th binade above the least quantum. -/
def magBits (f j m : Nat) : Nat := j * 2 ^ fmtMan f + m

/-- The sign's part of a pattern. -/
def signBits (f : Nat) (neg : Bool) : Nat := if neg then fmtSignBit f else 0

/-- `m` units of the `j`-th binade fill the format's precision, or lie in the lowest binade, where subnormals are. -/
def FillsBinade (f j m : Nat) : Prop := 2 ^ fmtMan f ≤ m ∨ j = 0

/-- The sign of a pattern. -/
def negOf (f raw : Nat) : Bool := decide (fmtSignBit f ≤ raw % 2 ^ fmtBits f)

/-- The magnitude of a pattern. -/
def magOf (f raw : Nat) : Nat := raw % 2 ^ fmtBits f % fmtSignBit f

/-- The binade of a finite magnitude: subnormals lie in the lowest one. -/
def binadeOf (f mag : Nat) : Nat := mag / 2 ^ fmtMan f - 1

/-- The units of a finite magnitude: a normal one has its hidden bit. -/
def unitsOf (f mag : Nat) : Nat :=
  if mag / 2 ^ fmtMan f = 0 then mag % 2 ^ fmtMan f else mag % 2 ^ fmtMan f + 2 ^ fmtMan f

/-! ## The parameters of the formats -/

theorem two_pow_fmtBits (f : Nat) : 2 ^ fmtBits f = 2 * fmtSignBit f := by
  have some : fmtBits f - 1 + 1 = fmtBits f := by
    unfold fmtBits
    split <;> rfl
  rw [fmtSignBit, ← pow_succ', some]

theorem two_dvd_two_pow_fmtMan (f : Nat) : 2 ∣ 2 ^ fmtMan f := by
  refine dvd_pow_self 2 ?_
  unfold fmtMan
  split <;> decide

section
variable {f : Nat} (ge : 7 ≤ f) (le : f ≤ 13)
include ge le

theorem fmtMaxBits_lt_fmtSignBit : fmtMaxBits f < fmtSignBit f := by
  interval_cases f <;> decide

theorem two_pow_fmtMan_le_fmtMaxBits : 2 ^ fmtMan f ≤ fmtMaxBits f := by
  interval_cases f <;> decide

theorem two_dvd_fmtSignBit : 2 ∣ fmtSignBit f := by
  interval_cases f <;> decide

/-- The magnitudes above the largest finite one are those of the infinities and of NaN (R165, R166). -/
theorem special_iff {mag : Nat} (small : mag < fmtSignBit f) :
    ((fmtHasInf f && decide (mag / 2 ^ fmtMan f = 2 ^ fmtExp f - 1)) = true ∨ f = 11 ∧ mag = 0x7F) ↔ fmtMaxBits f < mag := by
  interval_cases f <;> simp [fmtHasInf, fmtMan, fmtExp, fmtMaxBits, fmtSignBit, fmtBits] at small ⊢ <;> omega

/-- The largest finite value, as units of its binade. -/
theorem fmtMax_eq : ∃ J M : Nat, fmtMax f = (M, fmtQmin f + J) ∧ 2 ^ fmtMan f ≤ M ∧ M < 2 * 2 ^ fmtMan f ∧ magBits f J M = fmtMaxBits f := by
  have normal : 1 ≤ fmtMaxBits f / 2 ^ fmtMan f :=
    (Nat.one_le_div_iff (Nat.two_pow_pos _)).mpr (two_pow_fmtMan_le_fmtMaxBits ge le)
  have split := Nat.div_add_mod' (fmtMaxBits f) (2 ^ fmtMan f)
  have low := Nat.mod_lt (fmtMaxBits f) (Nat.two_pow_pos (fmtMan f))
  obtain ⟨J, isNext⟩ := Nat.exists_eq_add_of_le' normal
  refine ⟨J, fmtMaxBits f % 2 ^ fmtMan f + 2 ^ fmtMan f, ?_, by omega, by omega, ?_⟩
  · rw [fmtMax, isNext, fmtQmin, Prod.mk.injEq]
    exact ⟨rfl, by push_cast; ring⟩
  · rw [isNext, Nat.succ_mul] at split
    rw [magBits]
    omega

end

/-! ## Decoding (R166) -/

theorem magOf_lt (f raw : Nat) : magOf f raw < fmtSignBit f := Nat.mod_lt _ (Nat.two_pow_pos _)

section
variable {f raw : Nat} (ge : 7 ≤ f) (le : f ≤ 13)
include ge le

theorem decodeF_of_finite (finite : magOf f raw ≤ fmtMaxBits f) :
    decodeF f raw = .fin (negOf f raw) (unitsOf f (magOf f raw)) (fmtQmin f + binadeOf f (magOf f raw)) := by
  obtain ⟨notInf, notNaN⟩ := not_or.mp (mt (special_iff ge le (magOf_lt f raw)).mp (Nat.not_lt.mpr finite))
  rw [decodeF, ← magOf, ← negOf, if_neg notInf, if_neg notNaN, unitsOf, binadeOf]
  split
  · next subnormal => simp [subnormal]
  · next normal =>
    rw [FVal.fin.injEq]
    refine ⟨rfl, rfl, ?_⟩
    rw [fmtQmin, Nat.cast_pred (Nat.pos_of_ne_zero normal)]
    ring

theorem decodeF_of_special (special : fmtMaxBits f < magOf f raw) (neg : Bool) (m : Nat) (e : Int) : decodeF f raw ≠ .fin neg m e := by
  rw [decodeF, ← magOf]
  obtain isInf | isNaN := (special_iff ge le (magOf_lt f raw)).mpr special
  · rw [if_pos isInf]
    split <;> nofun
  · rw [if_pos isNaN]
    split
    · split <;> nofun
    · nofun

end

theorem binadeOf_unitsOf_magBits {f j m : Nat} (fills : FillsBinade f j m) (lt : m < 2 * 2 ^ fmtMan f) :
    binadeOf f (magBits f j m) = j ∧ unitsOf f (magBits f j m) = m := by
  rw [binadeOf, unitsOf]
  obtain small | normal := Nat.lt_or_ge m (2 ^ fmtMan f)
  · obtain rfl : j = 0 := fills.resolve_left (Nat.not_le.mpr small)
    have low : magBits f 0 m = m := by rw [magBits, Nat.zero_mul, Nat.zero_add]
    rw [low, Nat.div_eq_of_lt small, if_pos rfl, Nat.mod_eq_of_lt small]
    exact ⟨rfl, rfl⟩
  · obtain ⟨t, rfl⟩ := Nat.exists_eq_add_of_le normal
    have high : magBits f j (2 ^ fmtMan f + t) = t + 2 ^ fmtMan f * (j + 1) := by rw [magBits]; ring
    have below : t < 2 ^ fmtMan f := by omega
    rw [high, Nat.add_mul_div_left _ _ (Nat.two_pow_pos _), Nat.add_mul_mod_self_left, Nat.div_eq_of_lt below, Nat.mod_eq_of_lt below,
      if_neg (by omega)]
    omega

/-- Every magnitude is of units that fill a binade. -/
theorem exists_magBits (f mag : Nat) : ∃ j m, mag = magBits f j m ∧ FillsBinade f j m ∧ m < 2 * 2 ^ fmtMan f := by
  have low := Nat.mod_lt mag (Nat.two_pow_pos (fmtMan f))
  have split := Nat.div_add_mod' mag (2 ^ fmtMan f)
  match field : mag / 2 ^ fmtMan f with
  | 0 =>
    rw [field] at split
    exact ⟨0, mag, by simp [magBits], .inr rfl, by omega⟩
  | j + 1 =>
    rw [field, Nat.succ_mul] at split
    exact ⟨j, mag % 2 ^ fmtMan f + 2 ^ fmtMan f, by rw [magBits]; omega, .inl (by omega), by omega⟩

theorem signBits_le (f : Nat) (neg : Bool) : signBits f neg ≤ fmtSignBit f := by
  cases neg
  · exact Nat.zero_le _
  · exact le_rfl

/-- A sign and a magnitude below the sign bit are read back. -/
theorem negOf_magOf_of_pattern {f raw mag : Nat} {neg : Bool} (small : mag < fmtSignBit f)
    (pattern : raw % 2 ^ fmtBits f = signBits f neg + mag) : negOf f raw = neg ∧ magOf f raw = mag := by
  rw [negOf, magOf, pattern, signBits]
  cases neg
  · simpa [Nat.mod_eq_of_lt small] using small
  · simp [Nat.mod_eq_of_lt small]

/-- A pattern is its sign and its magnitude. -/
theorem pattern_eq (f raw : Nat) : raw % 2 ^ fmtBits f = signBits f (negOf f raw) + magOf f raw := by
  have lt := Nat.mod_lt raw (Nat.two_pow_pos (fmtBits f))
  rw [negOf, magOf]
  obtain pos | neg := Nat.lt_or_ge (raw % 2 ^ fmtBits f) (fmtSignBit f)
  · simp [signBits, Nat.not_le.mpr pos, Nat.mod_eq_of_lt pos]
  · have top : raw % 2 ^ fmtBits f - fmtSignBit f < fmtSignBit f := by
      have double := two_pow_fmtBits f
      omega
    rw [Nat.mod_eq_sub_mod neg, Nat.mod_eq_of_lt top, decide_eq_true neg, signBits, if_pos rfl, Nat.add_sub_of_le neg]

/-- The patterns of a finite value: the sign and a magnitude up to the largest, of units that fill their binade. -/
theorem decodeF_eq_fin_iff {f raw : Nat} (ge : 7 ≤ f) (le : f ≤ 13) {neg : Bool} {m : Nat} {e : Int} :
    decodeF f raw = .fin neg m e ↔ ∃ j : Nat, e = fmtQmin f + j ∧ FillsBinade f j m ∧ m < 2 * 2 ^ fmtMan f ∧
      magBits f j m ≤ fmtMaxBits f ∧ raw % 2 ^ fmtBits f = signBits f neg + magBits f j m := by
  constructor
  · intro decoded
    have finite : magOf f raw ≤ fmtMaxBits f := Nat.not_lt.mp fun special => decodeF_of_special ge le special neg m e decoded
    have pattern := pattern_eq f raw
    rw [decodeF_of_finite ge le finite] at decoded
    obtain ⟨j, k, isMag, fills, lt⟩ := exists_magBits f (magOf f raw)
    obtain ⟨binade, units⟩ := binadeOf_unitsOf_magBits fills lt
    rw [isMag] at decoded finite pattern
    rw [binade, units] at decoded
    cases decoded
    exact ⟨j, rfl, fills, lt, finite, pattern⟩
  · rintro ⟨j, rfl, fills, lt, finite, pattern⟩
    obtain ⟨sign, mag⟩ := negOf_magOf_of_pattern (finite.trans_lt (fmtMaxBits_lt_fmtSignBit ge le)) pattern
    obtain ⟨binade, units⟩ := binadeOf_unitsOf_magBits fills lt
    rw [decodeF_of_finite ge le (mag.trans_le finite), sign, mag, binade, units]

/-! ## The order of the magnitudes -/

/-- Magnitudes are in the order of what they stand for; the first may have one unit too many for its binade. -/
theorem magBits_le_iff {f j m J M : Nat} (fills : FillsBinade f j m) (le : m ≤ 2 * 2 ^ fmtMan f) (normal : 2 ^ fmtMan f ≤ M)
    (lt : M < 2 * 2 ^ fmtMan f) : magBits f j m ≤ magBits f J M ↔ m * 2 ^ j ≤ M * 2 ^ J := by
  simp only [magBits]
  obtain below | rfl | above := Nat.lt_trichotomy j J
  · obtain ⟨d, rfl⟩ := Nat.exists_eq_add_of_lt below
    refine iff_of_true (by nlinarith [Nat.zero_le (d * 2 ^ fmtMan f)]) ?_
    calc m * 2 ^ j ≤ 2 * 2 ^ fmtMan f * 2 ^ j := Nat.mul_le_mul_right _ le
      _ = 2 ^ fmtMan f * 2 ^ (j + 1) := by ring
      _ ≤ M * 2 ^ (j + d + 1) := Nat.mul_le_mul normal (Nat.pow_le_pow_right two_pos (by omega))
  · rw [Nat.add_le_add_iff_left, Nat.mul_le_mul_right_iff (Nat.two_pow_pos j)]
  · obtain ⟨d, rfl⟩ := Nat.exists_eq_add_of_lt above
    have full : 2 ^ fmtMan f ≤ m := fills.resolve_right (by omega)
    refine iff_of_false (by nlinarith [Nat.zero_le (d * 2 ^ fmtMan f)]) (Nat.not_le.mpr ?_)
    calc M * 2 ^ J < 2 * 2 ^ fmtMan f * 2 ^ J := Nat.mul_lt_mul_of_pos_right lt (Nat.two_pow_pos J)
      _ = 2 ^ fmtMan f * 2 ^ (J + 1) := by ring
      _ ≤ m * 2 ^ (J + d + 1) := Nat.mul_le_mul full (Nat.pow_le_pow_right two_pos (by omega))

/-- The comparison of two dyadic values over one least quantum. -/
theorem dyGt_eq_false_iff (m M j J : Nat) (q : Int) : dyGt m (q + j) M (q + J) = false ↔ m * 2 ^ j ≤ M * 2 ^ J := by
  obtain above | le := Nat.lt_or_ge J j
  · obtain ⟨d, rfl⟩ := Nat.exists_eq_add_of_lt above
    have gap : (q + ((J + d + 1 : Nat) : Int) - (q + J)).toNat = d + 1 := by omega
    rw [dyGt, if_neg (by omega), gap, decide_eq_false_iff_not, Nat.not_lt, add_assoc, Nat.pow_add' 2 J, ← mul_assoc,
      Nat.mul_le_mul_right_iff (Nat.two_pow_pos J)]
  · obtain ⟨d, rfl⟩ := Nat.exists_eq_add_of_le le
    have gap : (q + ((j + d : Nat) : Int) - (q + j)).toNat = d := by omega
    rw [dyGt, if_pos (by omega), gap, decide_eq_false_iff_not, Nat.not_lt, Nat.pow_add' 2 j, ← mul_assoc,
      Nat.mul_le_mul_right_iff (Nat.two_pow_pos j)]

/-- A rounded value does not overflow exactly where its magnitude is at most the largest one (R169). -/
theorem inRange_iff {f j m : Nat} (ge : 7 ≤ f) (le : f ≤ 13) (fills : FillsBinade f j m) (most : m ≤ 2 * 2 ^ fmtMan f) :
    dyGt m (fmtQmin f + j) (fmtMax f).1 (fmtMax f).2 = false ↔ magBits f j m ≤ fmtMaxBits f := by
  obtain ⟨J, M, largest, normal, lt, bits⟩ := fmtMax_eq ge le
  rw [largest, dyGt_eq_false_iff, ← magBits_le_iff fills most normal lt, bits]

/-! ## Packing -/

/-- The pattern of a rounded value is its sign and its magnitude, where rounding carried into the next binade too. -/
theorem packF_eq {f j m : Nat} (neg : Bool) (fills : FillsBinade f j m) :
    packF f neg m (fmtQmin f + j) = signBits f neg + magBits f j m := by
  have field (k : Nat) : (fmtQmin f + k + fmtMan f + fmtBias f).toNat = k + 1 := by
    rw [fmtQmin]
    omega
  have positive := Nat.two_pow_pos (fmtMan f)
  simp only [packF, pow_succ']
  rw [← signBits]
  by_cases carry : m = 2 * 2 ^ fmtMan f
  · have next : fmtQmin f + (j : Int) + 1 = fmtQmin f + (j + 1 : Nat) := by push_cast; ring
    rw [if_pos carry, if_pos carry, if_neg (Nat.lt_irrefl _), next, field, Nat.sub_self, carry, magBits]
    ring
  · rw [if_neg carry, if_neg carry]
    obtain small | normal := Nat.lt_or_ge m (2 ^ fmtMan f)
    · obtain rfl : j = 0 := fills.resolve_left (Nat.not_le.mpr small)
      rw [if_pos small, magBits, Nat.zero_mul, Nat.zero_add]
    · rw [if_neg (Nat.not_lt.mpr normal), field, Nat.succ_mul, magBits]
      omega

/-- A pattern is even where its units are. -/
theorem packF_mod_two {f j m : Nat} (ge : 7 ≤ f) (le : f ≤ 13) (neg : Bool) (fills : FillsBinade f j m)
    (even : 2 ∣ m) : packF f neg m (fmtQmin f + j) % 2 = 0 := by
  have sign : 2 ∣ signBits f neg := by
    cases neg
    · exact dvd_zero 2
    · exact two_dvd_fmtSignBit ge le
  rw [packF_eq neg fills, magBits]
  exact Nat.mod_eq_zero_of_dvd (dvd_add sign (dvd_add ((two_dvd_two_pow_fmtMan f).mul_left j) even))

/-- A rounded value in range is read back. -/
theorem decodeF_packF {f j m : Nat} (ge : 7 ≤ f) (le : f ≤ 13) (neg : Bool) (fills : FillsBinade f j m) (most : m ≤ 2 * 2 ^ fmtMan f)
    (inRange : magBits f j m ≤ fmtMaxBits f) :
    ∃ k x, decodeF f (packF f neg m (fmtQmin f + j)) = .fin neg k x ∧ (k : ℚ) * 2 ^ x = m * 2 ^ (fmtQmin f + j) := by
  have sign := signBits_le f neg
  have small := fmtMaxBits_lt_fmtSignBit ge le
  have fits : (signBits f neg + magBits f j m) % 2 ^ fmtBits f = signBits f neg + magBits f j m :=
    Nat.mod_eq_of_lt (by rw [two_pow_fmtBits]; omega)
  rw [packF_eq neg fills]
  obtain lt | rfl := most.lt_or_eq
  · exact ⟨m, fmtQmin f + j, (decodeF_eq_fin_iff ge le).mpr ⟨j, rfl, fills, lt, inRange, fits⟩, rfl⟩
  · have carried : magBits f j (2 * 2 ^ fmtMan f) = magBits f (j + 1) (2 ^ fmtMan f) := by
      simp only [magBits]
      ring
    rw [carried] at fits inRange ⊢
    refine ⟨2 ^ fmtMan f, fmtQmin f + (j + 1 : Nat), (decodeF_eq_fin_iff ge le).mpr
      ⟨j + 1, rfl, .inl le_rfl, by have := Nat.two_pow_pos (fmtMan f); omega, inRange, fits⟩, ?_⟩
    push_cast
    rw [← add_assoc, zpow_add_one₀ two_ne_zero]
    ring

/-- The result of an overflow under rounding to nearest without saturation is an infinity, or NaN in E4M3 (R170). -/
theorem decodeF_overflowRes {f : Nat} (ge : 7 ≤ f) (le : f ≤ 12) (neg : Bool) :
    decodeF f (overflowRes f 0 false neg).raw = if f = 11 then .nan else .inf neg := by
  interval_cases f <;> cases neg <;> decide

end Sys2Proof.Machine
end

section
/-! PROOFS. Rounding into a floating format (R169, R170): exact values are kept in every mode, and rounding to nearest gives the nearest value,
the even one of two. -/

namespace Sys2Proof.Machine

open Sys2Proof

/-! ## The result of rounding a finite value -/

/-- The exponent of the unit to which a finite value is rounded: the precision's last place below the leading bit, but no less than the
least quantum. -/
def unitExp (f m : Nat) (e : Int) : Int := max ((bitLen m : Int) - 1 + e - fmtMan f) (fmtQmin f)

/-- A finite value rounded to its unit, and whether that was inexact. -/
def rounded (f rnd : Nat) (neg : Bool) (m : Nat) (e : Int) : Nat × Bool := roundQ rnd neg m e (unitExp f m e) false

/-- The flags of a result in range: NX where it is inexact, UF where it is tiny too (R170). -/
def roundFlags (f m : Nat) (e : Int) (inexact : Bool) : BitVec 6 :=
  (if inexact then flNX else 0) |||
    (if inexact && (decide ((bitLen m : Int) - 1 + e < 1 - (fmtBias f : Int)) || decide (m = 0)) then flUF else 0)

theorem roundFlags_exact (f m : Nat) (e : Int) : roundFlags f m e false = 0 := by
  simp [roundFlags]

/-- A finite nonzero value rounded into a format: the overflow result where its rounded value is above the largest, else that value. -/
theorem toF_fin {f m : Nat} {e : Int} (rnd : Nat) (sat neg : Bool) (nonzero : m ≠ 0) : toF f rnd sat (.fin neg m e) =
    if dyGt (rounded f rnd neg m e).1 (unitExp f m e) (fmtMax f).1 (fmtMax f).2 then overflowRes f rnd sat neg
    else ⟨packF f neg (rounded f rnd neg m e).1 (unitExp f m e), roundFlags f m e (rounded f rnd neg m e).2⟩ := by
  rw [toF, roundF, if_neg (by simp [nonzero])]
  rfl

/-- A zero is a zero of its sign. -/
theorem toF_zero (f rnd : Nat) (sat neg : Bool) (e : Int) : toF f rnd sat (.fin neg 0 e) = ⟨signBits f neg, 0⟩ := rfl

/-! ## Values that a format holds -/

/-- Units of at least the rounding unit are exact in every mode. -/
theorem roundQ_of_le (rnd : Nat) (neg : Bool) (m : Nat) {e q : Int} (le : q ≤ e) :
    roundQ rnd neg m e q false = (m * 2 ^ (e - q).toNat, false) := by
  have kept (r : Nat) : roundsUp rnd neg r 0 0 false = false := by
    simp [roundsUp]
  simp [roundQ, le, kept]

/-- The unit of a value that a format holds is the value's own. -/
theorem unitExp_of_fills {f j m : Nat} (nonzero : m ≠ 0) (fills : FillsBinade f j m) (lt : m < 2 * 2 ^ fmtMan f) :
    unitExp f m (fmtQmin f + j) = fmtQmin f + j := by
  have short : m.log2 < fmtMan f + 1 := (Nat.log2_lt nonzero).mpr (by rw [pow_succ']; exact lt)
  rw [unitExp, bitLen, if_neg nonzero]
  obtain normal | rfl := fills
  · have long : fmtMan f ≤ m.log2 := (Nat.le_log2 nonzero).mpr normal
    omega
  · omega

/-- A finite value that a format holds is kept, with no flag, in every rounding mode. -/
theorem toF_of_decodeF {f raw rnd : Nat} {sat neg : Bool} {m : Nat} {e : Int} (ge : 7 ≤ f) (le : f ≤ 13) (fits : raw < 2 ^ fmtBits f)
    (decoded : decodeF f raw = .fin neg m e) : toF f rnd sat (.fin neg m e) = ⟨raw, 0⟩ := by
  obtain ⟨j, rfl, fills, lt, inRange, pattern⟩ := (decodeF_eq_fin_iff ge le).mp decoded
  rw [Nat.mod_eq_of_lt fits] at pattern
  obtain rfl | nonzero := Nat.eq_zero_or_pos m
  · obtain rfl : j = 0 := fills.resolve_left (Nat.not_le.mpr (Nat.two_pow_pos _))
    rw [toF_zero, pattern, magBits, Nat.zero_mul]
    rfl
  · have unit := unitExp_of_fills nonzero.ne' fills lt
    have exact : rounded f rnd neg m (fmtQmin f + j) = (m, false) := by
      rw [rounded, unit, roundQ_of_le _ _ _ le_rfl, sub_self]
      simp
    rw [toF_fin rnd sat neg nonzero.ne', exact, unit, (inRange_iff ge le fills lt.le).mpr inRange, roundFlags_exact, packF_eq neg fills,
      pattern]
    rfl

/-! ## The nearest integer, the even one of two -/

/-- `r` is a nearest integer of `y`, and even where `y` lies halfway between two. -/
def NearestEven (r : Int) (y : ℚ) : Prop := |(r : ℚ) - y| ≤ 1 / 2 ∧ (|(r : ℚ) - y| = 1 / 2 → 2 ∣ r)

section
variable {r : Int} {y : ℚ}

theorem NearestEven.neg (near : NearestEven r y) : NearestEven (-r) (-y) := by
  have same : |((-r : Int) : ℚ) - -y| = |(r : ℚ) - y| := by
    rw [← abs_neg ((r : ℚ) - y)]
    push_cast
    ring_nf
  rw [NearestEven, same, dvd_neg]
  exact near

/-- Another integer is at least half a unit away. -/
theorem NearestEven.half_le (near : NearestEven r y) {j : Int} (ne : j ≠ r) : 1 / 2 ≤ |(j : ℚ) - y| := by
  have apart : (1 : ℚ) ≤ |(j : ℚ) - r| := by exact_mod_cast Int.one_le_abs (sub_ne_zero.mpr ne)
  have path := abs_sub_le (j : ℚ) y r
  rw [abs_sub_comm y] at path
  linarith [near.1]

/-- No integer lies closer, and none other as close unless the nearest one is even. -/
theorem NearestEven.le_abs (near : NearestEven r y) (j : Int) :
    |(r : ℚ) - y| ≤ |(j : ℚ) - y| ∧ (j ≠ r → |(r : ℚ) - y| = |(j : ℚ) - y| → 2 ∣ r) := by
  refine ⟨?_, fun ne tie => near.2 (le_antisymm near.1 (tie ▸ near.half_le ne))⟩
  obtain rfl | ne := eq_or_ne j r
  · exact le_rfl
  · exact near.1.trans (near.half_le ne)

theorem NearestEven.le_of_le (near : NearestEven r y) {z : Int} (le : y ≤ z) : r ≤ z := by
  by_contra above
  have next : (z : ℚ) + 1 ≤ r := by exact_mod_cast Int.not_le.mp above
  linarith [(abs_le.mp near.1).2]

theorem NearestEven.ge_of_ge (near : NearestEven r y) {z : Int} (ge : z ≤ y) : z ≤ r := by
  by_contra below
  have next : (r : ℚ) + 1 ≤ z := by exact_mod_cast Int.not_le.mp below
  linarith [(abs_le.mp near.1).1]

/-- What lies on the near side of an integer, where `y` lies on its far side, is farther from `y` than the nearest integer. -/
theorem NearestEven.lt_of_abs_lt (near : NearestEven r y) {P : Nat} {w : ℚ} (small : |w| < P) (far : (P : ℚ) ≤ |y|) :
    |(r : ℚ) - y| < |w - y| := by
  obtain ⟨above, below⟩ := abs_lt.mp small
  obtain pos | neg := le_total 0 y
  · rw [abs_of_nonneg pos] at far
    have bound := (near.le_abs P).1
    rw [Int.cast_natCast, abs_of_nonpos (by linarith : (P : ℚ) - y ≤ 0)] at bound
    rw [abs_of_nonpos (by linarith : w - y ≤ 0)]
    linarith
  · rw [abs_of_nonpos neg] at far
    have bound := (near.le_abs (-P)).1
    rw [Int.cast_neg, Int.cast_natCast, abs_of_nonneg (by linarith : 0 ≤ -(P : ℚ) - y)] at bound
    rw [abs_of_nonneg (by linarith : 0 ≤ w - y)]
    linarith

end

/-- The nearest integer of a fraction of denominator `D`: `d` is what the numerator lacks of it. -/
theorem nearestEven_div {r m D d : Int} (pos : 0 < D) (lacks : r * D - m = d) (low : -D ≤ 2 * d) (high : 2 * d ≤ D)
    (even : 2 * d = D ∨ 2 * d = -D → 2 ∣ r) : NearestEven r (m / D : ℚ) := by
  have posQ : (0 : ℚ) < D := by exact_mod_cast pos
  have apart : (r : ℚ) - m / D = d / D := by
    rw [sub_div' posQ.ne', ← lacks]
    push_cast
    rfl
  have lowQ : -(D : ℚ) ≤ 2 * d := by exact_mod_cast low
  have highQ : 2 * (d : ℚ) ≤ D := by exact_mod_cast high
  rw [NearestEven, apart, abs_le, le_div_iff₀ posQ, div_le_iff₀ posQ]
  refine ⟨⟨by linarith, by linarith⟩, fun tie => even ?_⟩
  refine (eq_or_eq_neg_of_abs_eq tie).imp (fun half => ?_) (fun half => ?_)
  all_goals
    rw [div_eq_iff posQ.ne'] at half
    qify
    linarith

theorem roundsUp_nearest_iff (neg : Bool) (r rem h : Nat) :
    roundsUp 0 neg r rem (2 ^ h) false = true ↔ 2 ^ h < rem ∨ rem = 2 ^ h ∧ r % 2 = 1 := by
  simp [roundsUp]

/-- Rounding `r + rem / 2^(h + 1)` to nearest gives its nearest integer. -/
theorem nearestEven_roundsUp (neg : Bool) {m h r rem : Nat} (split : r * 2 ^ (h + 1) + rem = m) (low : rem < 2 ^ (h + 1)) :
    NearestEven ((if roundsUp 0 neg r rem (2 ^ h) false then r + 1 else r : Nat) : Int) ((m : Int) / (2 ^ (h + 1) : Int) : ℚ) := by
  have double : (2 : Int) ^ (h + 1) = 2 * 2 ^ h := pow_succ' 2 h
  have positive : (0 : Int) < 2 ^ h := by positivity
  have splitZ : (r : Int) * 2 ^ (h + 1) + rem = m := by exact_mod_cast split
  have lowZ : (rem : Int) < 2 ^ (h + 1) := by exact_mod_cast low
  have up := roundsUp_nearest_iff neg r rem h
  zify at up
  split
  · next rounds =>
    have cause := up.mp rounds
    refine nearestEven_div (d := 2 ^ (h + 1) - rem) (by positivity) ?_ ?_ ?_ ?_
    · push_cast
      linarith
    all_goals omega
  · next rounds =>
    have cause := mt up.mpr rounds
    refine nearestEven_div (d := -rem) (by positivity) ?_ ?_ ?_ ?_
    · linarith
    all_goals omega

/-- Rounding to nearest gives the nearest integer of the value counted in units. -/
theorem roundQ_nearestEven (neg : Bool) (m : Nat) (e q : Int) :
    NearestEven (roundQ 0 neg m e q false).1 ((m : ℚ) * 2 ^ (e - q)) := by
  obtain le | below := le_or_gt q e
  · obtain ⟨k, rfl⟩ := Int.le.dest le
    rw [roundQ_of_le 0 neg m le, add_sub_cancel_left]
    simp [NearestEven]
  · obtain ⟨h, gap⟩ := Int.lt.dest below
    have shift : (q - e).toNat = h + 1 := by omega
    have fraction : (m : ℚ) * 2 ^ (e - q) = (m : Int) / (2 ^ (h + 1) : Int) := by
      have power : e - q = -((h + 1 : Nat) : Int) := by omega
      rw [power, zpow_neg, zpow_natCast]
      push_cast
      rfl
    rw [roundQ, if_neg (by omega), shift, fraction]
    exact nearestEven_roundsUp neg (Nat.div_add_mod' m (2 ^ (h + 1))) (Nat.mod_lt m (Nat.two_pow_pos _))

/-! ## The value counted in units -/

/-- A finite value as a rational number. -/
def dyadic (neg : Bool) (m : Nat) (e : Int) : ℚ := (if neg then -(m : ℚ) else m) * 2 ^ e

/-- A magnitude with its sign. -/
def signed (neg : Bool) (m : Nat) : Int := if neg then -(m : Int) else m

theorem dyadic_eq (neg : Bool) (m : Nat) (e : Int) : dyadic neg m e = signed neg m * 2 ^ e := by
  cases neg <;> simp [dyadic, signed]

theorem abs_dyadic (neg : Bool) (m : Nat) (e : Int) : |dyadic neg m e| = m * 2 ^ e := by
  have positive : (0 : ℚ) < 2 ^ e := zpow_pos two_pos e
  rw [dyadic, abs_mul, abs_of_pos positive]
  cases neg <;> simp

/-- A value in units of `2^q`. -/
theorem dyadic_sub_mul (neg : Bool) (m : Nat) (e q : Int) : dyadic neg m (e - q) * 2 ^ q = dyadic neg m e := by
  rw [dyadic, mul_assoc, ← zpow_add₀ two_ne_zero, sub_add_cancel, dyadic]

/-- The distance of two values, in units of `2^q`. -/
theorem abs_sub_units (a b : ℚ) (q : Int) : |a * 2 ^ q - b * 2 ^ q| = |a - b| * 2 ^ q := by
  have positive : (0 : ℚ) < 2 ^ q := zpow_pos two_pos q
  rw [← sub_mul, abs_mul, abs_of_pos positive]

theorem rounded_nearestEven (f : Nat) (neg : Bool) (m : Nat) (e : Int) :
    NearestEven (signed neg (rounded f 0 neg m e).1) (dyadic neg m (e - unitExp f m e)) := by
  have near := roundQ_nearestEven neg m e (unitExp f m e)
  cases neg
  · exact near
  · rw [dyadic, if_pos rfl, neg_mul]
    exact near.neg

/-! ## The unit of a value -/

theorem exists_unitExp (f m : Nat) (e : Int) : ∃ j : Nat, unitExp f m e = fmtQmin f + j := by
  obtain ⟨j, eq⟩ := Int.eq_ofNat_of_zero_le (sub_nonneg.mpr (le_max_right ((bitLen m : Int) - 1 + e - fmtMan f) (fmtQmin f)))
  exact ⟨j, by rw [unitExp]; omega⟩

section
variable {f m : Nat} {e : Int} (nonzero : m ≠ 0)
include nonzero

/-- A value is less than twice as many units as the precision holds. -/
theorem units_lt : (m : ℚ) * 2 ^ (e - unitExp f m e) < 2 * 2 ^ fmtMan f := by
  have short : (m : ℚ) < 2 ^ (m.log2 + 1) := by exact_mod_cast Nat.lt_log2_self
  have bound : (m.log2 : Int) + 1 + (e - unitExp f m e) ≤ 1 + (fmtMan f : Int) := by
    rw [unitExp, bitLen, if_neg nonzero]
    omega
  have positive : (0 : ℚ) < 2 ^ (e - unitExp f m e) := zpow_pos two_pos _
  calc (m : ℚ) * 2 ^ (e - unitExp f m e) < 2 ^ (m.log2 + 1) * 2 ^ (e - unitExp f m e) := mul_lt_mul_of_pos_right short positive
    _ = 2 ^ ((m.log2 : Int) + 1 + (e - unitExp f m e)) := by rw [zpow_add₀ two_ne_zero]; norm_cast
    _ ≤ 2 ^ (1 + (fmtMan f : Int)) := zpow_le_zpow_right₀ one_le_two bound
    _ = 2 * 2 ^ fmtMan f := by rw [zpow_one_add₀ two_ne_zero, zpow_natCast]

/-- A value above the least quantum has as many units as the precision holds. -/
theorem le_units (above : unitExp f m e ≠ fmtQmin f) : (2 : ℚ) ^ fmtMan f ≤ m * 2 ^ (e - unitExp f m e) := by
  have long : (2 : ℚ) ^ m.log2 ≤ m := by exact_mod_cast Nat.log2_self_le nonzero
  have unit : (fmtMan f : Int) = m.log2 + (e - unitExp f m e) := by
    rw [unitExp, bitLen, if_neg nonzero] at *
    omega
  have positive : (0 : ℚ) < 2 ^ (e - unitExp f m e) := zpow_pos two_pos _
  calc (2 : ℚ) ^ fmtMan f = 2 ^ (m.log2 + (e - unitExp f m e)) := by rw [← unit, zpow_natCast]
    _ = 2 ^ m.log2 * 2 ^ (e - unitExp f m e) := by rw [zpow_add₀ two_ne_zero, zpow_natCast]
    _ ≤ m * 2 ^ (e - unitExp f m e) := mul_le_mul_of_nonneg_right long positive.le

/-- Rounding to nearest leaves units that fill their binade, or one too many for it. -/
theorem rounded_fills {neg : Bool} {j : Nat} (unit : unitExp f m e = fmtQmin f + j) :
    FillsBinade f j (rounded f 0 neg m e).1 ∧ (rounded f 0 neg m e).1 ≤ 2 * 2 ^ fmtMan f := by
  have near := roundQ_nearestEven neg m e (unitExp f m e)
  constructor
  · by_cases least : j = 0
    · exact .inr least
    · have ge := near.ge_of_ge (z := (2 ^ fmtMan f : Nat)) (by exact_mod_cast le_units nonzero (by omega))
      exact .inl (by exact_mod_cast ge)
  · have le := near.le_of_le (z := (2 * 2 ^ fmtMan f : Nat)) (by exact_mod_cast (units_lt nonzero).le)
    exact_mod_cast le

end

/-- A value of a format is a whole number of units of any of its binades, or is less than that binade holds. -/
theorem dyadic_whole_or_small (f : Nat) (neg : Bool) {m j J : Nat} (lt : m < 2 * 2 ^ fmtMan f) :
    (∃ k : Int, dyadic neg m ((j : Int) - J) = k) ∨ J ≠ 0 ∧ |dyadic neg m ((j : Int) - J)| < (2 ^ fmtMan f : Nat) := by
  obtain le | below := le_or_gt J j
  · refine .inl ⟨signed neg m * 2 ^ (j - J), ?_⟩
    rw [dyadic_eq, ← Nat.cast_sub le]
    push_cast
    rfl
  · refine .inr ⟨by omega, ?_⟩
    have half : (2 : ℚ) ^ ((j : Int) - J) ≤ 2 ^ (-1 : Int) := zpow_le_zpow_right₀ one_le_two (by omega)
    have ltQ : (m : ℚ) < 2 * 2 ^ fmtMan f := by exact_mod_cast lt
    rw [abs_dyadic]
    push_cast
    calc (m : ℚ) * 2 ^ ((j : Int) - J) ≤ m * 2 ^ (-1 : Int) := mul_le_mul_of_nonneg_left half m.cast_nonneg
      _ < 2 * 2 ^ fmtMan f * 2 ^ (-1 : Int) := mul_lt_mul_of_pos_right ltQ (by norm_num)
      _ = 2 ^ fmtMan f := by norm_num; ring

/-! ## The obligation -/

/-- A result that is finite is the rounded value, packed. -/
theorem toF_nearest_finite {f m : Nat} {e : Int} {neg n : Bool} {k : Nat} {x : Int} (ge : 7 ≤ f) (le : f ≤ 12) (nonzero : m ≠ 0)
    (finite : decodeF f (toF f 0 false (.fin neg m e)).raw = .fin n k x) :
    dyGt (rounded f 0 neg m e).1 (unitExp f m e) (fmtMax f).1 (fmtMax f).2 = false ∧
      (toF f 0 false (.fin neg m e)).raw = packF f neg (rounded f 0 neg m e).1 (unitExp f m e) := by
  rw [toF_fin 0 false neg nonzero] at finite ⊢
  split at finite
  · rw [decodeF_overflowRes ge le] at finite
    split at finite <;> nomatch finite
  · next inRange => exact ⟨Bool.eq_false_iff.mpr inRange, by rw [if_neg inRange]⟩

/-- The value of a finite result is the rounded value, and its pattern is even where that is. -/
theorem toF_nearest_value {f m : Nat} {e : Int} {neg n : Bool} {k : Nat} {x : Int} (ge : 7 ≤ f) (le : f ≤ 12) (nonzero : m ≠ 0)
    (finite : decodeF f (toF f 0 false (.fin neg m e)).raw = .fin n k x) :
    dyadic n k x = signed neg (rounded f 0 neg m e).1 * 2 ^ unitExp f m e ∧
      (2 ∣ (rounded f 0 neg m e).1 → (toF f 0 false (.fin neg m e)).raw % 2 = 0) := by
  obtain ⟨inRange, packed⟩ := toF_nearest_finite ge le nonzero finite
  obtain ⟨j, unit⟩ := exists_unitExp f m e
  obtain ⟨fills, most⟩ := rounded_fills (neg := neg) nonzero unit
  rw [packed, unit] at finite ⊢
  rw [unit] at inRange
  have le13 : f ≤ 13 := by omega
  refine ⟨?_, packF_mod_two ge le13 neg fills⟩
  obtain ⟨k', x', decoded, value⟩ := decodeF_packF ge le13 neg fills most ((inRange_iff ge le13 fills most).mp inRange)
  cases decoded.symm.trans finite
  rw [dyadic_eq]
  cases neg <;> simpa [signed] using value

/-- Counted in units of the rounding, no value of the format lies closer than the rounded one, and none other as close unless it is even. -/
theorem rounded_nearest {f m : Nat} {e : Int} {neg n' : Bool} {p k' : Nat} {x' : Int} (ge : 7 ≤ f) (le : f ≤ 13) (nonzero : m ≠ 0)
    (other : decodeF f p = .fin n' k' x') {r : Int} {w y : ℚ} (isR : r = signed neg (rounded f 0 neg m e).1)
    (isW : w = dyadic n' k' (x' - unitExp f m e)) (isY : y = dyadic neg m (e - unitExp f m e)) :
    |r - y| ≤ |w - y| ∧ (w ≠ r → |r - y| = |w - y| → 2 ∣ r) := by
  have near : NearestEven r y := isR ▸ isY ▸ rounded_nearestEven f neg m e
  obtain ⟨j, rfl, -, lt, -, -⟩ := (decodeF_eq_fin_iff ge le).mp other
  obtain ⟨J, unit⟩ := exists_unitExp f m e
  have binades : fmtQmin f + j - unitExp f m e = (j : Int) - J := by omega
  rw [binades] at isW
  obtain ⟨i, whole⟩ | ⟨above, small⟩ := dyadic_whole_or_small f n' (j := j) (J := J) lt
  · obtain ⟨closest, tie⟩ := near.le_abs i
    rw [isW, whole]
    exact ⟨closest, fun ne => tie (by exact_mod_cast ne)⟩
  · have far : ((2 ^ fmtMan f : Nat) : ℚ) ≤ |y| := by
      rw [isY, abs_dyadic]
      exact_mod_cast le_units nonzero (by omega)
    have closer := near.lt_of_abs_lt (isW ▸ small) far
    exact ⟨closer.le, fun _ tie => absurd tie closer.ne⟩

/-- Rounding to nearest gives the nearest value of the format, and the even pattern of two. -/
theorem toF_nearest {f m : Nat} {e : Int} {neg n n' : Bool} {k p k' : Nat} {x x' : Int} (ge : 7 ≤ f) (le : f ≤ 12) (nonzero : m ≠ 0)
    (finite : decodeF f (toF f 0 false (.fin neg m e)).raw = .fin n k x) (other : decodeF f p = .fin n' k' x') :
    |dyadic n k x - dyadic neg m e| ≤ |dyadic n' k' x' - dyadic neg m e| ∧
      (dyadic n' k' x' ≠ dyadic n k x → |dyadic n k x - dyadic neg m e| = |dyadic n' k' x' - dyadic neg m e| →
        (toF f 0 false (.fin neg m e)).raw % 2 = 0) := by
  obtain ⟨value, even⟩ := toF_nearest_value ge le nonzero finite
  obtain ⟨closest, tie⟩ := rounded_nearest (e := e) (neg := neg) ge (by omega) nonzero other rfl rfl rfl
  have positive : (0 : ℚ) < 2 ^ unitExp f m e := zpow_pos two_pos _
  rw [value, ← dyadic_sub_mul n' k' x' (unitExp f m e), ← dyadic_sub_mul neg m e (unitExp f m e), abs_sub_units, abs_sub_units]
  refine ⟨mul_le_mul_of_nonneg_right closest positive.le, fun ne same => even ?_⟩
  have isEven := tie (fun eq => ne (by rw [eq])) (mul_right_cancel₀ positive.ne' same)
  cases neg
  · exact Int.natCast_dvd_natCast.mp isEven
  · exact Int.natCast_dvd_natCast.mp (dvd_neg.mp isEven)

/-- Settles O22: a value that the format holds is kept, and a finite result of rounding to nearest is the nearest value. -/
theorem roundsToNearest : Obligations.RoundsToNearest := by
  unfold Obligations.RoundsToNearest
  refine ⟨fun f raw rnd sat ge le fits _ neg m e decoded => toF_of_decodeF ge le fits decoded, ?_⟩
  intro f neg m e ge le nonzero val n k x finite p n' k' x' other
  obtain ⟨closest, even⟩ := toF_nearest ge le nonzero finite other
  exact ⟨closest, fun _ => even⟩

end Sys2Proof.Machine
end

section
/-! PROOFS. What an instruction reads for itself and what it stores without a merge (R118, R294, R437): the pending access and the entries of
the store buffer that its checked access becomes. -/

namespace Sys2Proof.Machine

open Sys2Proof

section
variable {h : Hdr} {s s1 : State} {rg : InRegion} {srcs dsts : List Operand}

/-- What may not issue inside a region issues outside one (R150). -/
theorem Issues.outside (hi : Issues h s .illegal srcs dsts s1) : s1.me.region = none := by
  rw [hi.me_region]
  by_contra inside
  exact (hi.region (Option.isSome_iff_ne_none.2 inside)).1 rfl

variable (hi : Issues h s rg srcs dsts s1)
include hi

theorem Issues.me_pend : s1.me.pend = s.me.pend := hi.me_eq ▸ State.takeWait_ctx_pend hi.wait
theorem Issues.me_sb : s1.me.sb = s.me.sb := hi.me_eq ▸ State.takeWait_ctx_sb hi.wait
theorem Issues.me_seq : s1.me.seq = s.me.seq := hi.me_eq ▸ State.takeWait_ctx_seq hi.wait

end

/-! ## The places of a checked element (R27, R129) -/

theorem translateParts_prefix {c : Core} {dom kind : Nat} {l : List (Word × Nat × Nat)} {acc segs : List Seg} {used v : List TlbEntry}
    (checked : translateParts c dom kind l acc used = .ok segs v) : acc.reverse <+: segs := by
  induction l generalizing acc used with
  | nil =>
    obtain ⟨rfl, -⟩ := Checked.ok.inj checked
    exact List.prefix_refl _
  | cons p l ih =>
    rw [translateParts] at checked
    split at checked
    · cases checked
    · split at checked
      · exact (List.prefix_append acc.reverse _).trans (List.reverse_cons ▸ ih checked)
      · cases checked

/-- The places of the pages of an access begin with one that holds its first byte. -/
theorem segAt_zero_of_translated {c : Core} {dom kind n : Nat} {ea : Word} {segs : List Seg} {used : List TlbEntry} (nonempty : n ≠ 0)
    (checked : translateParts c dom kind (pageParts ea n) [] [] = .ok segs used) : ∃ g, segAt segs 0 = some g := by
  have first : pageParts ea n = (ea, min n (65536 - ea.toNat % 65536), 0) ::
      cutPages (n / 65536 + 1) (ea + wd (min n (65536 - ea.toNat % 65536))) (n - min n (65536 - ea.toNat % 65536))
        (0 + min n (65536 - ea.toNat % 65536)) := by
    rw [pageParts, cutPages, if_neg nonempty]
  rw [first, translateParts] at checked
  split at checked
  · cases checked
  next e _ =>
    split at checked
    · obtain ⟨rest, rfl⟩ := translateParts_prefix checked
      have holds : 0 < min n (65536 - ea.toNat % 65536) := by omega
      refine ⟨⟨e.pa ea, min n (65536 - ea.toNat % 65536), 0, e.attr⟩, ?_⟩
      simp only [segAt, List.reverse_cons, List.reverse_nil, List.nil_append, List.cons_append, List.find?_cons]
      simp [holds]
    · cases checked

/-- An access that passes its checks has a place for its first byte. -/
theorem segAt_zero_of_checked {s : State} {g kind n al : Nat} {dom : BitVec 12} {c : Cap} {ps : List Nat} {ea : Word} {segs : List Seg}
    {used : List TlbEntry} (nonempty : n ≠ 0) (checked : checkAccess s g dom c ps kind ea n al = .ok segs used) :
    ∃ g, segAt segs 0 = some g := by
  unfold checkAccess at checked
  split at checked
  · cases checked
  · split at checked
    · cases checked
    · split at checked
      · cases checked
      · split at checked
        · split at checked
          · cases checked
          next h _ =>
            obtain ⟨rfl, -⟩ := Checked.ok.inj checked
            exact ⟨⟨h, n, 0, 0⟩, by simp [segAt, Nat.pos_of_ne_zero nonempty]⟩
        · split at checked
          next translated =>
            split at checked
            · cases checked
            · obtain ⟨rfl, -⟩ := Checked.ok.inj checked
              exact segAt_zero_of_translated nonempty translated
          next => exact absurd checked (by simp_all)

/-- A request of one element that passes has one part. -/
theorem checkElems_single {s : State} {g : Nat} {dom : BitVec 12} {q : Req} {el : Elem} {parts : List Part} {used : List TlbEntry}
    (checked : checkElems s g dom q [el] [] [] = .ok parts used) :
    ∃ segs v, parts = [⟨el, segs⟩] ∧ checkAccess s g dom q.cap q.perms q.kind el.ea el.len q.al = .ok segs v := by
  rw [checkElems] at checked
  split at checked
  next segs v passed =>
    rw [checkElems] at checked
    obtain ⟨rfl, -⟩ := Passed.ok.inj checked
    exact ⟨segs, v, rfl, passed⟩
  · cases checked
  · cases checked

/-- A read of whole words has a unit that is still to be performed. -/
theorem exists_loadUnit {p : Part} {q : Req} {sg : Seg} (load : q.kind = kLoad) (words : q.words = true) (nonempty : p.el.len ≠ 0)
    (first : segAt p.segs 0 = some sg) : ∃ u ∈ p.loadUnits q, 0 < u.len ∧ u.got = none := by
  have cuts : unitCuts p.el.ea.toNat p.el.len kLoad true = (0, min p.el.len (8 - p.el.ea.toNat % 8)) ::
      cutWords (p.el.len / 8 + 1) (p.el.ea.toNat + min p.el.len (8 - p.el.ea.toNat % 8)) (p.el.len - min p.el.len (8 - p.el.ea.toNat % 8))
        (0 + min p.el.len (8 - p.el.ea.toNat % 8)) := by
    unfold unitCuts
    rw [if_neg (by decide), if_neg (by simp), cutWords, if_neg nonempty]
  have wide : 0 < min p.el.len (8 - p.el.ea.toNat % 8) := by omega
  unfold Part.loadUnits Machine.loadUnits placeUnits
  rw [load, words, cuts, List.filterMap_cons_some (by rw [first]; rfl), List.map_cons]
  exact ⟨_, List.mem_cons_self .., wide, rfl⟩

/-! ## Reads that an instruction makes for itself (R437) -/

/-- What an instruction asks as it reads `n` bytes for itself. -/
def readReq (cap : Cap) (perms : List Nat) (ea : Word) (n al : Nat) : Req := ⟨cap, perms, kLoad, al, 0, [⟨ea, n, 0⟩], true⟩

section
variable {t : State} {cap : Cap} {perms : List Nat} {ea : Word} {n al : Nat}

theorem readStart_traps {k sub : Nat} {v : Word}
    (trap : checkElems t t.cur.gid t.me.cdom (readReq cap perms ea n al) [⟨ea, n, 0⟩] [] [] = .trap k sub v) :
    readStart t cap perms ea n al = .trap k sub v := by
  rw [readStart]
  exact withAccess_of_trap trap _

/-- A context outside regions and merge mode has proposed nothing (R151, R160). -/
theorem State.unitOverlay_of_plain {a : Agent} (region : (t.ctx a).region = none) (merge : (t.core a.gid).mrg = none) (u : AUnit) :
    t.unitOverlay a u = ([], false) := by
  have none : t.proposals a (u.addr / 128) = [] := by rw [State.proposals, region, merge]
  rw [State.unitOverlay, none]
  rfl

/-- Of a load without proposals every unit is still to be given. -/
theorem mem_loadRest_of_plain {a : Agent} (region : (t.ctx a).region = none) (merge : (t.core a.gid).mrg = none) {units : List AUnit}
    {u : AUnit} (mem : u ∈ units) (wide : 0 < u.len) : u ∈ loadRest (units.map (fun u => (u, t.unitOverlay a u))) := by
  unfold loadRest
  refine List.mem_flatMap.2 ⟨(u, t.unitOverlay a u), List.mem_map_of_mem mem, ?_⟩
  rw [State.unitOverlay_of_plain region merge]
  simp [wide]

/-- The context of a load into its buffer, pending. -/
def Ctx.loading (c : Ctx) (e : Access) (reads : List Nat) : Ctx :=
  { (c.reserve .buffer e.id) with pend := c.pend ++ [e], seq := c.seq + 1, region := c.region.map (fun r => { r with reads := reads }) }

/-- A load of an agent into its buffer is pending. -/
def State.loading (t : State) (a : Agent) (e : Access) (reads : List Nat) : State :=
  { (t.updCtx a (fun c => c.loading e reads)) with nextId := t.nextId + 1 }

theorem State.loading_ctx (a : Agent) (e : Access) (reads : List Nat) : (t.loading a e reads).ctx a = (t.ctx a).loading e reads :=
  State.ctx_updCtx_same t a (fun c => c.loading e reads)

/-- A load outside regions and merge mode with a unit still to be given becomes pending. -/
theorem State.issueLoad_of_plain {a : Agent} (region : (t.ctx a).region = none) (merge : (t.core a.gid).mrg = none) {q : Req}
    {parts : List Part} {u : AUnit} (mem : u ∈ parts.flatMap (fun p => p.loadUnits q)) (wide : 0 < u.len) (waits : u.got = none)
    (used : List TlbEntry) (ord : Order) (size : Nat) :
    ∃ (e : Access) (reads : List Nat), e.size = size ∧ e.dest = .buffer ∧
      t.issueLoad a q parts used ord size .buffer = .ok (t.loading a e reads) := by
  have rest := mem_loadRest_of_plain region merge mem wide
  have pending : ((loadRest ((parts.flatMap (fun p => p.loadUnits q)).map (fun u => (u, t.unitOverlay a u)))).all (fun u => u.got.isSome)) ≠ true :=
    fun all => by
      have got := List.all_eq_true.1 all u rest
      rw [waits] at got
      cases got
  unfold State.issueLoad
  extract_lets c units ovls ovl left tagOver reads id e t1 t2
  have noReads : reads = [] := by simp only [reads, c, region]
  refine ⟨e, reads, rfl, rfl, ?_⟩
  rw [if_neg (noReads ▸ by decide : ¬ 64 < reads.length), if_neg pending]
  rfl

/-! ## What the translations of an access touch -/

theorem State.touchAll_keeps {α : Type} {p : Core → α} (kept : ∀ c e, p (Core.touch c e) = p c) (s : State) (g : Nat) (used : List TlbEntry) :
    s.KeepsCores p (s.touchAll g used) := by
  have touched (c : Core) : p (used.foldr (fun e k => k.touch e) c) = p c := by
    induction used with
    | nil => rfl
    | cons e l ih => exact (kept ..).trans ih
  unfold State.touchAll
  split
  · exact .refl s
  · exact .updCore g touched

theorem State.OnlyCores.touchAll (s : State) (g : Nat) (used : List TlbEntry) : s.OnlyCores (s.touchAll g used) := by
  unfold State.touchAll
  split
  · exact .refl s
  · exact .updCore ..

theorem State.touchAll_me (s : State) (g : Nat) (used : List TlbEntry) : (s.touchAll g used).me = s.me := by
  rw [State.me, State.touchAll_cur, State.touchAll_ctx]
  rfl

theorem State.touchAll_mrg (s : State) (g : Nat) (used : List TlbEntry) (k : Nat) : ((s.touchAll g used).core k).mrg = (s.core k).mrg :=
  State.touchAll_keeps (p := Core.mrg) (fun _ _ => rfl) s g used k

theorem State.logRun_of_plain {g : Nat} (merge : (t.core g).mrg = none) (undo : Bool) : t.logRun g undo = none := by
  rw [State.logRun, merge]
  cases t.logSlotOf g <;> rfl

/-- A load outside merge mode reads no records. -/
theorem mergeLoad_of_plain {a : Agent} (merge : (t.core a.gid).mrg = none) (k : State → Res) : mergeLoad t a k = k t := by
  have go : t.recordsGet [a.gid] false = .go t := by
    rw [State.recordsGet, List.flatMap_singleton, State.logRun_of_plain merge]
    exact State.devGet_of_may rfl
  have trace : t.recordsTrace a.gid false = t := by rw [State.recordsTrace, State.logRun_of_plain merge]
  rw [mergeLoad, go]
  split
  · rfl
  · exact congrArg k trace

/-- The agent in turn waits for what it reads for itself. -/
def State.reading (t : State) : State := t.self (fun c => { c with busy := some .reading })

theorem State.reading_ctx (t : State) : t.reading.ctx t.cur = { t.me with busy := some .reading } := State.ctx_updCtx_same ..

theorem State.reading_core_mrg (t : State) : (t.reading.core t.cur.gid).mrg = t.here.mrg := by
  rw [State.reading, State.self, State.updCtx, State.setCtx, State.core_updCore_same]
  rfl

/-- An instruction that reads for itself outside regions and merge mode waits for its bytes, with one access more (R437). -/
theorem readStart_reads (region : t.me.region = none) (merge : t.here.mrg = none) (nonempty : n ≠ 0) {parts : List Part} {used : List TlbEntry}
    (checked : checkElems t t.cur.gid t.me.cdom (readReq cap perms ea n al) [⟨ea, n, 0⟩] [] [] = .ok parts used) :
    ∃ v e, readStart t cap perms ea n al = .wait v ∧ v.me.busy = some .reading ∧ v.me.pend = t.me.pend ++ [e] ∧ e.size = n ∧
      e.dest = .buffer ∧ v.me.slot = t.me.slot ∧ v.me.x = t.me.x ∧ v.mem = t.mem := by
  obtain ⟨segs, own, rfl, passed⟩ := checkElems_single checked
  obtain ⟨sg, first⟩ := segAt_zero_of_checked nonempty passed
  obtain ⟨unit, mem, wide, waits⟩ := exists_loadUnit (p := ⟨⟨ea, n, 0⟩, segs⟩) (q := readReq cap perms ea n al) rfl rfl nonempty first
  set t1 := t.touchAll t.cur.gid used with touched
  have me : t1.me = t.me := State.touchAll_me ..
  have merge1 : t1.here.mrg = none := by rw [State.here, touched, State.touchAll_cur, State.touchAll_mrg]; exact merge
  obtain ⟨e, reads, size, dest, issued⟩ := State.issueLoad_of_plain (t := t1.reading) (a := t1.cur) (q := readReq cap perms ea n al)
    (parts := [⟨⟨ea, n, 0⟩, segs⟩]) (by rw [State.reading_ctx, me]; exact region) (t1.reading_core_mrg.trans merge1)
    (List.mem_flatMap.2 ⟨_, List.mem_singleton_self _, mem⟩) wide waits used Order.plain n
  have goes : readStart t cap perms ea n al = .wait (t1.reading.loading t1.cur e reads) := by
    rw [readStart]
    refine (withAccess_of_ok checked _).trans ?_
    rw [mergeLoad_of_plain merge1]
    exact congrArg (fun r : Issued => match r with | .ok s => Res.wait s | .aborted s => .keep s) issued
  have ctx : (t1.reading.loading t1.cur e reads).me = Ctx.loading { t.me with busy := some .reading } e reads := by
    rw [← me, ← State.reading_ctx, ← State.loading_ctx]
    rfl
  refine ⟨_, e, goes, ?_⟩
  rw [ctx]
  exact ⟨rfl, rfl, size, dest, rfl, rfl, (State.OnlyCores.touchAll t t.cur.gid used).mem⟩

/-! ## Stores outside regions and merge mode (R123) -/

/-- A context with entries more in its store buffer. -/
def Ctx.storing (c : Ctx) (es : List SbEntry) (n : Nat) : Ctx := { c with sb := c.sb ++ es, seq := c.seq + n }

theorem State.issueStore_of_plain {a : Agent} (region : (t.ctx a).region = none) (merge : (t.core a.gid).mrg = none) (q : Req) (parts : List Part)
    (used : List TlbEntry) (ord : Order) (data : List Byte) (tag multi : Bool) :
    t.issueStore a q parts used ord data tag multi =
      .done (t.updCtx a (fun c => c.storing (sbEntries c.seq q ord data tag multi (viaOf used) parts) (parts.length + 1))) := by
  unfold State.issueStore
  dsimp only
  rw [region, merge]
  rfl

end

end Sys2Proof.Machine
end

section
/-! PROOFS. Launches and clusters after a change of them: which launch a number finds, and what a cluster holds. -/

namespace Sys2Proof.Machine

open Sys2Proof

/-! ## Changes of the clusters alone -/

/-- Nothing outside the clusters is changed. -/
structure State.OnlyClusters (s t : State) : Prop where
  eq : t = { s with clusters := t.clusters }

namespace State.OnlyClusters

variable {s t u : State}

theorem refl (s : State) : s.OnlyClusters s := ⟨rfl⟩

theorem trans (first : s.OnlyClusters t) (second : t.OnlyClusters u) : s.OnlyClusters u :=
  ⟨second.eq.trans (congrArg (fun w : State => { w with clusters := u.clusters }) first.eq)⟩

theorem updCluster (s : State) (c : Nat) (f : Cluster → Cluster) : s.OnlyClusters (s.updCluster c f) := ⟨rfl⟩

theorem foldl {β : Type} {f : State → β → State} (hf : ∀ (s : State) e, s.OnlyClusters (f s e)) (l : List β) (s : State) :
    s.OnlyClusters (l.foldl f s) := by
  induction l generalizing s with
  | nil => exact refl s
  | cons e l ih => exact (hf s e).trans (ih _)

theorem mem (only : s.OnlyClusters t) : t.mem = s.mem := by rw [only.eq]
theorem dev (only : s.OnlyClusters t) : t.dev = s.dev := by rw [only.eq]
theorem cur (only : s.OnlyClusters t) : t.cur = s.cur := by rw [only.eq]
theorem cores (only : s.OnlyClusters t) : t.cores = s.cores := by rw [only.eq]
theorem nextOrd (only : s.OnlyClusters t) : t.nextOrd = s.nextOrd := by rw [only.eq]

theorem core (only : s.OnlyClusters t) (g : Nat) : t.core g = s.core g := State.core_cores t s only.cores g
theorem ctx (only : s.OnlyClusters t) (a : Agent) : t.ctx a = s.ctx a := congrArg (fun k : Core => k.ctx a.ctx) (only.core a.gid)

end State.OnlyClusters

theorem State.cluster_updCluster_ne (s : State) {c d : Nat} (f : Cluster → Cluster) (other : c ≠ d) : (s.updCluster c f).cluster d = s.cluster d := by
  rw [State.updCluster, State.setCluster, State.cluster, Sparse.look_put, if_neg other]
  rfl

theorem State.cluster_foldl_updCluster_ne (f : Nat → Cluster → Cluster) {l : List Nat} {c : Nat} (out : c ∉ l) (s : State) :
    (l.foldl (fun acc d => acc.updCluster d (f d)) s).cluster c = s.cluster c := by
  induction l generalizing s with
  | nil => rfl
  | cons d l ih =>
    rw [List.mem_cons, not_or] at out
    exact (ih out.2 _).trans (s.cluster_updCluster_ne (f d) (Ne.symm out.1))

/-- Each of several clusters is changed once. -/
theorem State.cluster_foldl_updCluster (f : Nat → Cluster → Cluster) {l : List Nat} (once : l.Nodup) {c : Nat} (mem : c ∈ l) (s : State) :
    (l.foldl (fun acc d => acc.updCluster d (f d)) s).cluster c = f c (s.cluster c) := by
  induction l generalizing s with
  | nil => cases mem
  | cons d l ih =>
    obtain ⟨out, rest⟩ := List.nodup_cons.1 once
    rw [List.foldl_cons]
    rcases List.mem_cons.1 mem with rfl | inside
    · rw [State.cluster_foldl_updCluster_ne f out, State.cluster_updCluster_same]
    · rw [ih rest inside, s.cluster_updCluster_ne (f d) (ne_of_mem_of_not_mem inside out).symm]

/-! ## The launch of a number -/

section
variable {s t : State} {lid : Nat} {l : Launch}

theorem State.lid_of_launch? (found : s.launch? lid = some l) : l.lid = lid := by
  rw [State.launch?] at found
  exact beq_iff_eq.1 (List.find?_some (p := fun x : Launch => x.lid == lid) found)

theorem State.launch?_of_launches (launches : t.dev.launches = s.dev.launches) (lid : Nat) : t.launch? lid = s.launch? lid := by
  rw [State.launch?, launches]
  rfl

/-- A change of one launch that keeps its number. -/
theorem State.launch?_updLaunch {f : Launch → Launch} (keeps : ∀ x, (f x).lid = x.lid) (found : s.launch? lid = some l) :
    (s.updLaunch lid f).launch? lid = some (f l) := by
  have changed (x : Launch) : ((if x.lid == lid then f x else x).lid == lid) = (x.lid == lid) := by
    split
    · rw [keeps]
    · rfl
  have own : (l.lid == lid) = true := beq_iff_eq.2 (State.lid_of_launch? found)
  rw [State.launch?] at found
  have same : (fun x : Launch => x.lid == lid) ∘ (fun x => if x.lid == lid then f x else x) = fun x => x.lid == lid := funext changed
  rw [State.launch?, State.updLaunch, State.updDev, List.find?_map, same, found, Option.map_some, if_pos own]

/-- What returning a launch's storage does to the launch (R187). -/
def Launch.emptied (l : Launch) : Launch := { l with storage := 0, count := 0 }

theorem State.launch?_returnStorage (found : s.launch? lid = some l) : (s.returnStorage lid).launch? lid = some l.emptied := by
  rw [State.returnStorage, found]
  refine (State.launch?_of_launches (congrArg Device.launches (State.OnlyClusters.foldl (fun u c => .updCluster ..) ..).dev) lid).trans ?_
  exact State.launch?_updLaunch (f := Launch.emptied) (fun _ => rfl) found

theorem State.returnStorage_mem (s : State) (lid : Nat) : (s.returnStorage lid).mem = s.mem := by
  unfold State.returnStorage
  split
  · rfl
  · exact (State.OnlyClusters.foldl (fun u c => .updCluster ..) ..).mem

theorem State.returnStorage_cores (s : State) (lid : Nat) : (s.returnStorage lid).cores = s.cores := by
  unfold State.returnStorage
  split
  · rfl
  · exact (State.OnlyClusters.foldl (fun u c => .updCluster ..) ..).cores

end

end Sys2Proof.Machine
end

section
/-! PROOFS. `launch` (R184-R187, R370): its checks, the launch it registers, and STATUS. -/

namespace Sys2Proof.Machine

open Sys2Proof

theorem exec_launch (h : Hdr) (o : FmtT) (s : State) : exec (.launch h o) s = execLaunch h o s := rfl

/-! ## What the checks read (R186) -/

theorem descBad_of_dev {s t : State} (dev : t.dev = s.dev) (part : Nat) (bs : List Byte) (d : Desc) (pinned : Bool) :
    descBad t part bs d pinned = descBad s part bs d pinned := by
  have moved : descBad t part bs d pinned = descBad { s with dev := t.dev } part bs d pinned := rfl
  rw [moved, dev]

theorem clmOf_of_clusters {s t : State} (clusters : t.clusters = s.clusters) (part clmBits : Nat) : clmOf t part clmBits = clmOf s part clmBits := by
  have moved : clmOf t part clmBits = clmOf { s with clusters := t.clusters } part clmBits := rfl
  rw [moved, clusters]

theorem launchCode_of_dev {s t : State} (dev : t.dev = s.dev) (part : Nat) (d : Desc) (clm : List Nat) :
    launchCode t part d clm = launchCode s part d clm := by
  have moved : launchCode t part d clm = launchCode { s with dev := t.dev } part d clm := rfl
  rw [moved, dev]

/-- A launch number is found that is not 0, and that no launch holds (R186). -/
theorem nextFreeLid_free {ls : List Launch} {fuel n k : Nat} (found : nextFreeLid ls fuel n = some k) :
    k ≠ 0 ∧ ∀ l ∈ ls, l.holds = true → l.lid ≠ k := by
  induction fuel generalizing n with
  | zero => cases found
  | succ fuel ih =>
    rw [nextFreeLid] at found
    split at found
    next free =>
      obtain rfl := Option.some.inj found
      simp only [Bool.and_eq_true, decide_eq_true_eq, Bool.not_eq_true', List.any_eq_false, beq_iff_eq, not_and] at free
      exact ⟨free.1, fun l mem holds own => free.2 l mem own holds⟩
    · exact ih found

theorem nodup_clmOf (s : State) (part clmBits : Nat) : (clmOf s part clmBits).Nodup := List.nodup_range.filter _

section
variable {s : State} {part : Nat} {d : Desc} {clm : List Nat}

theorem launchCode_prio (own : d.dom ≠ 0) (top : d.stages.any (fun st => st.prio == 23) = true) : launchCode s part d clm = 4 :=
  if_pos ⟨own, top⟩

theorem launchCode_of_prio (fits : d.dom = 0 ∨ d.stages.any (fun st => st.prio == 23) = false) :
    launchCode s part d clm = if clm.isEmpty then 9
      else if d.gang ∧ d.gset ≠ 0 ∧ !s.ready 48 then 8
      else if (Sparse.look Pool.reset s.dev.pools part).size - (Sparse.look Pool.reset s.dev.pools part).used < storageOf d clm.length ∨
        (nextFreeLid s.dev.launches 65536 s.dev.nextLid).isNone then 5
      else 0 :=
  if_neg (by rintro ⟨own, top⟩; rcases fits with zero | low; exacts [own zero, by simp [low] at top])

theorem launchCode_no_cluster (fits : d.dom = 0 ∨ d.stages.any (fun st => st.prio == 23) = false) (empty : clm = []) :
    launchCode s part d clm = 9 := by
  rw [launchCode_of_prio fits, empty]
  rfl

theorem launchCode_of_clusters (fits : d.dom = 0 ∨ d.stages.any (fun st => st.prio == 23) = false) (nonempty : clm ≠ []) :
    launchCode s part d clm = if d.gang ∧ d.gset ≠ 0 ∧ !s.ready 48 then 8
      else if (Sparse.look Pool.reset s.dev.pools part).size - (Sparse.look Pool.reset s.dev.pools part).used < storageOf d clm.length ∨
        (nextFreeLid s.dev.launches 65536 s.dev.nextLid).isNone then 5
      else 0 := by
  rw [launchCode_of_prio fits, if_neg (by simp [nonempty])]

theorem launchCode_zero (accepted : launchCode s part d clm = 0) : ∃ k, nextFreeLid s.dev.launches 65536 s.dev.nextLid = some k := by
  by_contra none
  have taken : (nextFreeLid s.dev.launches 65536 s.dev.nextLid).isNone = true := by
    rwa [← Option.isSome_iff_exists, Bool.not_eq_true, Option.isSome_eq_false_iff] at none
  unfold launchCode at accepted
  simp only [taken, or_true, if_true] at accepted
  split_ifs at accepted

end

/-! ## The launch that is accepted (R186, R187) -/

/-- The launch that a descriptor asks for, as it is accepted. -/
def Desc.launch (d : Desc) (lid part : Nat) (clm pages : List Nat) (logOff slots statusAt : Nat) : Launch :=
  { lid := lid, dom := d.dom, det := d.det, gang := d.gang
    gangState := if d.gang then 1 else 0
    peers := (List.range 16).filter (fun g => d.gset.testBit g)
    acks := [], cacks := [], part := part, clm := clm, pdl := d.pdl, gtick := d.gtick, gmarg := d.gmarg
    widths := d.widths, wbase := d.wbase, logcap := d.logcap, logrec := d.logrec, logPages := pages, logOff := logOff
    logFree := List.range slots, statusAt := statusAt, stages := d.stages, count := d.count, given := [], first := false
    alive := d.count, ended := 0, counted := 0, waits := [], mc := false, code := 0, written := true, storage := storageOf d clm.length }

/-- The device with a launch registered, and its storage taken from the partition's pool. -/
def Device.withLaunch (v : Device) (l : Launch) : Device :=
  { v with
    launches := v.launches.filter (fun x => x.lid ≠ l.lid) ++ [l]
    nextLid := (l.lid + 1) % 65536
    pools := Sparse.put Pool.reset v.pools l.part
      { Sparse.look Pool.reset v.pools l.part with used := (Sparse.look Pool.reset v.pools l.part).used + l.storage } }

/-- A cluster with the queues of a launch's stages, each empty. -/
def Cluster.withLaunch (k : Cluster) (l : Launch) : Cluster :=
  { k with
    lc := Sparse.put 0 k.lc l.lid 0
    queues := k.queues ++ l.stages.mapIdx (fun i st => (⟨l.lid, i, st.prio, 0, 0, 0, 0, [], []⟩ : StageQ)) }

/-- A launch is registered in the device and in its clusters. -/
def State.withLaunch (s : State) (l : Launch) : State :=
  l.clm.foldl (fun acc c => acc.updCluster c (fun k => k.withLaunch l)) (s.updDev (fun v => v.withLaunch l))

theorem State.accept_of_found {s : State} {k : Nat} (found : nextFreeLid s.dev.launches 65536 s.dev.nextLid = some k) {d : Desc}
    (lives : d.count ≠ 0 ∨ d.gang = true) (part : Nat) (clm pages : List Nat) (logOff slots statusAt : Nat) :
    s.accept part d clm pages logOff slots statusAt = (s.withLaunch (d.launch k part clm pages logOff slots statusAt), k) := by
  unfold State.accept
  rw [found]
  refine if_neg ?_
  rintro ⟨zero, alone⟩
  rcases lives with tasks | gang
  · exact tasks zero
  · simp [gang] at alone

section
variable (s : State) (l : Launch)

theorem State.onlyClusters_withLaunch : (s.updDev (fun v => v.withLaunch l)).OnlyClusters (s.withLaunch l) :=
  .foldl (fun _ _ => .updCluster ..) ..

theorem State.withLaunch_dev : (s.withLaunch l).dev = s.dev.withLaunch l := (s.onlyClusters_withLaunch l).dev
theorem State.withLaunch_mem : (s.withLaunch l).mem = s.mem := (s.onlyClusters_withLaunch l).mem
theorem State.withLaunch_cur : (s.withLaunch l).cur = s.cur := (s.onlyClusters_withLaunch l).cur
theorem State.withLaunch_core (g : Nat) : (s.withLaunch l).core g = s.core g := (s.onlyClusters_withLaunch l).core g
theorem State.withLaunch_me : (s.withLaunch l).me = s.me := by
  rw [State.me, s.withLaunch_cur, (s.onlyClusters_withLaunch l).ctx]
  rfl

theorem State.withLaunch_cluster (once : l.clm.Nodup) {c : Nat} (mem : c ∈ l.clm) : (s.withLaunch l).cluster c = (s.cluster c).withLaunch l :=
  State.cluster_foldl_updCluster (fun _ k => k.withLaunch l) once mem _

end

theorem Device.mem_launches_withLaunch (v : Device) (l x : Launch) :
    x ∈ (v.withLaunch l).launches ↔ (x ∈ v.launches ∧ x.lid ≠ l.lid) ∨ x = l := by
  simp [Device.withLaunch]

/-! ## STATUS (R186, R437) -/

theorem statusOf_refusal (c : Nat) : statusOf 0 0 false c = BitVec.ofNat 64 c := by simp [statusOf, b2n, wd]

theorem statusOf_accepted (lid : Nat) : statusOf 0 lid false 0 = BitVec.ofNat 64 (lid * 65536) := by simp [statusOf, b2n, wd]

/-- A word goes to STATUS through the store buffer, and the instruction waits for it. -/
structure State.WritesStatus (s t : State) (q : Req) (ps : List Part) (used : List TlbEntry) (w : Word) : Prop where
  busy : t.me.busy = some (.written w.toNat)
  sb : t.me.sb = s.me.sb ++ sbEntries s.me.seq q Order.device (toBytes 8 w.toNat) false false (viaOf used) ps
  slot : t.me.slot = s.me.slot
  x : t.me.x = s.me.x
  rest : s.OnlyCores t

theorem pushStatus_of_plain {t : State} (region : t.me.region = none) (merge : t.here.mrg = none) (q : Req) (ps : List Part)
    (used : List TlbEntry) (w : Word) : ∃ u, pushStatus t q ps used w = .wait u ∧ t.WritesStatus u q ps used w := by
  rw [pushStatus, State.issueStore_of_plain region merge]
  refine ⟨_, rfl, ?_⟩
  set u := t.updCtx t.cur (fun c => c.storing (sbEntries c.seq q Order.device (toBytes 8 w.toNat) false false (viaOf used) ps) (ps.length + 1)) with stored
  have me : (u.self (fun c => { c with busy := some (.written w.toNat) })).me =
      { t.me.storing (sbEntries t.me.seq q Order.device (toBytes 8 w.toNat) false false (viaOf used) ps) (ps.length + 1) with
        busy := some (.written w.toNat) } := by
    have ctx : u.ctx t.cur = t.me.storing (sbEntries t.me.seq q Order.device (toBytes 8 w.toNat) false false (viaOf used) ps) (ps.length + 1) :=
      State.ctx_updCtx_same ..
    rw [← ctx]
    exact State.ctx_updCtx_same ..
  constructor
  · rw [me]
  · rw [me]
    rfl
  · rw [me]
    rfl
  · rw [me]
    rfl
  · exact (State.OnlyCores.updCtx ..).trans (.updCtx ..)

end Sys2Proof.Machine
end

section
/-! PROOFS. `launch` (R184-R187, R370): what it comes to, with its descriptor read. -/

namespace Sys2Proof.Machine

open Sys2Proof

/-- What `launch` asks of the bytes of its descriptor (R370). -/
def descReq (cap : Cap) (n : Nat) : Req := readReq cap [permLoad, permStore] cap.addr n 64

/-- What `launch` asks as it writes STATUS (R186). -/
def statusReq (cap : Cap) : Req := ⟨cap, [permStore], kStore, 8, 0, [⟨cap.addr + 56, 8, 0⟩], true⟩

/-- Whether the pages of a descriptor are pinned, and none of them lies in a scratch region (R186). -/
def descPinned (parts : List Part) (used : List TlbEntry) : Bool :=
  used.all (fun e => e.pin) && parts.all (fun p => p.segs.all (fun sg => !isScratch sg.addr))

/-- Where STATUS lies at home. -/
def statusPlace : List Part → Nat
  | p :: _ => (match p.segs with | sg :: _ => sg.addr | [] => 0)
  | [] => 0

/-- The state in which `launch` decides: its two accesses have passed their checks. -/
def State.launching (s : State) (used used2 : List TlbEntry) : State := (s.touchAll s.cur.gid used).touchAll s.cur.gid used2

theorem State.launching_rest (s : State) (used used2 : List TlbEntry) : s.OnlyCores (s.launching used used2) :=
  (State.OnlyCores.touchAll ..).trans (.touchAll ..)
theorem State.launching_cur (s : State) (used used2 : List TlbEntry) : (s.launching used used2).cur = s.cur :=
  (State.touchAll_cur ..).trans (State.touchAll_cur ..)
theorem State.launching_me (s : State) (used used2 : List TlbEntry) : (s.launching used used2).me = s.me :=
  (State.touchAll_me ..).trans (State.touchAll_me ..)
theorem State.launching_mrg (s : State) (used used2 : List TlbEntry) : (s.launching used used2).here.mrg = s.here.mrg := by
  rw [State.here, s.launching_cur]
  exact (State.touchAll_mrg ..).trans (State.touchAll_mrg ..)
theorem State.launching_cluster (s : State) (used used2 : List TlbEntry) (c : Nat) : (s.launching used used2).cluster c = s.cluster c :=
  congrArg (fun m => Sparse.look Cluster.reset m c) (s.launching_rest used used2).clusters
theorem State.launching_dev (s : State) (used used2 : List TlbEntry) : (s.launching used used2).dev = s.dev := (s.launching_rest used used2).dev

/-- What `launch` comes to once its descriptor is sound: the later codes decide (R186). -/
def launchDecided (t : State) (cap : Cap) (ps : List Part) (used2 : List TlbEntry) (part : Nat) (d : Desc) : Res :=
  match launchCode t part d (clmOf t part d.clmBits) with
  | 0 =>
    let r := t.accept part d (clmOf t part d.clmBits) [] 0 0 (statusPlace ps)
    pushStatus r.1 (statusReq cap) ps used2 (statusOf 0 r.2 false 0)
  | c => pushStatus t (statusReq cap) ps used2 (statusOf 0 0 false c)

section
variable {t : State} {cap : Cap} {bs : List Byte} {tags : List Bool} {parts ps : List Part} {used used2 : List TlbEntry}
variable (first : checkElems t t.cur.gid t.me.cdom (descReq cap bs.length) (descReq cap bs.length).elems [] [] = .ok parts used)
variable (second : checkElems (t.touchAll t.cur.gid used) t.cur.gid t.me.cdom (statusReq cap) (statusReq cap).elems [] [] = .ok ps used2)
include first second

theorem launchGo_checked (k : State → List Part → List TlbEntry → List Part → List TlbEntry → Res) :
    withAccess t (descReq cap bs.length) (fun t1 parts used => withAccess t1 (statusReq cap) (fun t2 ps su => k t2 parts used ps su)) =
      k (t.launching used used2) parts used ps used2 := by
  have cur : (t.touchAll t.cur.gid used).cur = t.cur := State.touchAll_cur ..
  refine (withAccess_of_ok first _).trans ((withAccess_of_ok (parts := ps) (used := used2) ?_ _).trans ?_)
  · rw [cur, State.touchAll_me]
    exact second
  · rw [cur]
    rfl

theorem launchGo_wrongDomain (wrong : (descOf bs tags).dom = 0xFFF ∨ (t.me.cdom.toNat ≠ (descOf bs tags).dom ∧ t.me.cdom.toNat ≠ 0)) :
    launchGo t cap bs tags = pushStatus (t.launching used used2) (statusReq cap) ps used2 (statusOf 0 0 false 2) := by
  refine (launchGo_checked first second _).trans (if_pos ?_)
  rwa [State.launching_me]

section
variable (right : ¬ ((descOf bs tags).dom = 0xFFF ∨ (t.me.cdom.toNat ≠ (descOf bs tags).dom ∧ t.me.cdom.toNat ≠ 0)))
include right

theorem launchGo_bad (bad : descBad t (t.cluster (gidCl t.cur.gid)).part bs (descOf bs tags) (descPinned parts used) = true) :
    launchGo t cap bs tags = pushStatus (t.launching used used2) (statusReq cap) ps used2 (statusOf 0 0 false 3) := by
  refine (launchGo_checked first second _).trans ((if_neg ?_).trans (if_pos ?_))
  · rwa [State.launching_me]
  · rw [State.launching_cur, State.launching_cluster, descBad_of_dev (t.launching_dev used used2)]
    exact bad

theorem launchGo_decides (good : descBad t (t.cluster (gidCl t.cur.gid)).part bs (descOf bs tags) (descPinned parts used) = false)
    (logless : (descOf bs tags).logrec = 0 ∨ (descOf bs tags).stages.any (fun st => st.mrg) = false) :
    launchGo t cap bs tags = launchDecided (t.launching used used2) cap ps used2 (t.cluster (gidCl t.cur.gid)).part (descOf bs tags) := by
  have part : ((t.launching used used2).cluster (gidCl (t.launching used used2).cur.gid)).part = (t.cluster (gidCl t.cur.gid)).part := by
    rw [State.launching_cur, State.launching_cluster]
  refine (launchGo_checked first second _).trans ((if_neg ?_).trans ((if_neg ?_).trans ((if_neg ?_).trans ?_)))
  · rwa [State.launching_me]
  · rw [part, descBad_of_dev (t.launching_dev used used2), Bool.not_eq_true]
    exact good
  · rintro ⟨records, merges⟩
    rcases logless with none | plain
    · exact records none
    · exact Bool.false_ne_true (plain.symm.trans merges)
  · rw [← part]
    rfl

end
end

/-! ## The statement about `launch` -/

section
variable {s : State} {cap : Cap} {ps : List Part} {used : List TlbEntry} {w : Word}

/-- A code that refuses: no launch is registered. -/
theorem launchDecided_refuses {part : Nat} {d : Desc} {code : Nat} (coded : launchCode s part d (clmOf s part d.clmBits) = code)
    (refused : code ≠ 0) : launchDecided s cap ps used part d = pushStatus s (statusReq cap) ps used (statusOf 0 0 false code) := by
  rw [launchDecided, coded]
  cases code with
  | zero => exact absurd rfl refused
  | succ n => rfl

theorem launchDecided_accepts {part : Nat} {d : Desc} (coded : launchCode s part d (clmOf s part d.clmBits) = 0) (lives : d.count ≠ 0) :
    ∃ k, nextFreeLid s.dev.launches 65536 s.dev.nextLid = some k ∧ launchDecided s cap ps used part d =
      pushStatus (s.withLaunch (d.launch k part (clmOf s part d.clmBits) [] 0 0 (statusPlace ps))) (statusReq cap) ps used (statusOf 0 k false 0) := by
  obtain ⟨k, found⟩ := launchCode_zero coded
  refine ⟨k, found, ?_⟩
  rw [launchDecided, coded]
  dsimp only
  rw [State.accept_of_found found (.inl lives)]
  rfl

end

section
variable {h : Hdr} {o : FmtT} {s s1 : State} (hi : Issues h s .illegal (pairOps o.a) [o.d] s1)
include hi

theorem launch_starts (free : s1.me.busy = none) : exec (.launch h o) s =
    (readStart s1 (s1.me.readPair o.a) [permLoad, permStore] (s1.me.readPair o.a).addr 64 64).close s.cur h s1 := by
  rw [exec_launch, execLaunch, issue_of_issues hi, free]

theorem launch_goes {bs : List Byte} {tags : List Bool} (read : s1.me.busy = some (.read bs tags))
    (whole : bs.length = 64 * (1 + bits (wordAt bs 0) 63 60)) :
    exec (.launch h o) s = (launchGo s1 (s1.me.readPair o.a) bs tags).close s.cur h s1 := by
  rw [exec_launch, execLaunch, issue_of_issues hi, read]
  dsimp only
  rw [if_neg (fun more => more.2.2 whole)]

theorem launch_waits {v : Nat} (written : s1.me.busy = some (.written v)) (buffered : s1.me.sb ≠ []) : exec (.launch h o) s = .next s1 := by
  rw [exec_launch, execLaunch, issue_of_issues hi, written]
  dsimp only
  rw [if_neg (by rwa [List.isEmpty_iff])]
  rfl

/-- The state in which `launch` retires. -/
def State.launched (s1 : State) (o : FmtT) (v : Nat) : State :=
  (s1.updLaunch (v / 65536 % 65536) (fun l => { l with first := true })).self (fun c => c.writeS o.d (wd v))

theorem launch_retires {v : Nat} (written : s1.me.busy = some (.written v)) (performed : s1.me.sb = []) :
    exec (.launch h o) s = .next ((s1.launched o v).retire s.cur h) := by
  rw [exec_launch, execLaunch, issue_of_issues hi, written]
  dsimp only
  rw [if_pos (by rw [performed]; rfl)]
  rfl

theorem State.launched_ctx (v : Nat) : (s1.launched o v).ctx s.cur = s1.me.writeS o.d (wd v) := by
  rw [← hi.cur]
  exact State.ctx_updCtx_same ..

/-- The descriptor's first 64 bytes are asked for (R370). -/
theorem launch_reads (free : s1.me.busy = none) (plain : s1.here.mrg = none) {parts : List Part} {used : List TlbEntry}
    (checked : checkElems s1 s.cur.gid s1.me.cdom (descReq (s1.me.readPair o.a) 64) (descReq (s1.me.readPair o.a) 64).elems [] [] = .ok parts used) :
    ∃ t e, exec (.launch h o) s = .next t ∧ t.me.busy = some .reading ∧ t.me.pend = s.me.pend ++ [e] ∧ e.size = 64 ∧ e.dest = .buffer ∧
      t.me.slot = s.me.slot ∧ t.me.x = s.me.x ∧ t.mem = s.mem := by
  obtain ⟨t, e, reads, busy, pend, size, dest, slot, x, mem⟩ := readStart_reads hi.outside plain (by decide : (64 : Nat) ≠ 0) (hi.cur.symm ▸ checked)
  refine ⟨t, e, ?_, busy, hi.me_pend ▸ pend, size, dest, slot.trans hi.samePlace.slot, x.trans hi.me_x, mem.trans hi.mem⟩
  rw [launch_starts hi free]
  exact congrArg (fun r : Res => r.close s.cur h s1) reads

/-- STATUS goes to the store buffer, in a state with the same context. -/
theorem launch_writes {u : State} (me : u.me = s1.me) (plain : u.here.mrg = none) (mem : u.mem = s1.mem) {ps : List Part} {used : List TlbEntry}
    {w : Word} (writes : exec (.launch h o) s = (pushStatus u (statusReq (s1.me.readPair o.a)) ps used w).close s.cur h s1) :
    ∃ t, exec (.launch h o) s = .next t ∧ u.OnlyCores t ∧ t.me.busy = some (.written w.toNat) ∧
      t.me.sb = s.me.sb ++ sbEntries s.me.seq (statusReq (s1.me.readPair o.a)) Order.device (toBytes 8 w.toNat) false false (viaOf used) ps ∧
      t.me.slot = s.me.slot ∧ t.me.x = s.me.x ∧ t.mem = s.mem := by
  obtain ⟨t, pushed, busy, sb, slot, x, rest⟩ := pushStatus_of_plain (me ▸ hi.outside) plain (statusReq (s1.me.readPair o.a)) ps used w
  refine ⟨t, ?_, rest, busy, ?_, ?_, ?_, ?_⟩
  · rw [writes, pushed]
    rfl
  · rw [sb, me, hi.me_sb, hi.me_seq]
  · rw [slot, me, hi.samePlace.slot]
  · rw [x, me, hi.me_x]
  · rw [rest.mem, mem, hi.mem]

section
variable {bs : List Byte} {tags : List Bool} {ps : List Part} {used used2 : List TlbEntry}
variable (plain : s1.here.mrg = none) (goes : exec (.launch h o) s = (launchGo s1 (s1.me.readPair o.a) bs tags).close s.cur h s1)
include plain goes

/-- A refusal: STATUS is written, and the launches stand as they were. -/
theorem launch_refuses {code : Nat} (refused : launchGo s1 (s1.me.readPair o.a) bs tags =
      pushStatus (s1.launching used used2) (statusReq (s1.me.readPair o.a)) ps used2 (statusOf 0 0 false code)) :
    ∃ t, exec (.launch h o) s = .next t ∧ (t.me.busy = some (.written (BitVec.ofNat 64 code).toNat) ∧
      t.me.sb = s.me.sb ++ sbEntries s.me.seq (statusReq (s1.me.readPair o.a)) Order.device (toBytes 8 (BitVec.ofNat 64 code).toNat) false false
        (viaOf used2) ps ∧ t.me.slot = s.me.slot ∧ t.me.x = s.me.x ∧ t.mem = s.mem) ∧ t.dev.launches = s.dev.launches := by
  rw [statusOf_refusal] at refused
  obtain ⟨t, next, only, writes⟩ := launch_writes hi (s1.launching_me used used2) ((s1.launching_mrg used used2).trans plain)
    (s1.launching_rest used used2).mem (refused ▸ goes)
  exact ⟨t, next, writes, by rw [only.dev, State.launching_dev, hi.dev]⟩

/-- An acceptance: the launch is registered, and STATUS holds its number. -/
theorem launch_accepts {l : Launch} (accepted : launchGo s1 (s1.me.readPair o.a) bs tags =
      pushStatus ((s1.launching used used2).withLaunch l) (statusReq (s1.me.readPair o.a)) ps used2 (statusOf 0 l.lid false 0)) :
    ∃ t, exec (.launch h o) s = .next t ∧ t.dev = s.dev.withLaunch l ∧ (l.clm.Nodup → ∀ c ∈ l.clm, t.cluster c = (s.cluster c).withLaunch l) ∧
      t.me.busy = some (.written (BitVec.ofNat 64 (l.lid * 65536)).toNat) ∧
      t.me.sb = s.me.sb ++ sbEntries s.me.seq (statusReq (s1.me.readPair o.a)) Order.device (toBytes 8 (BitVec.ofNat 64 (l.lid * 65536)).toNat)
        false false (viaOf used2) ps ∧ t.me.slot = s.me.slot ∧ t.me.x = s.me.x ∧ t.mem = s.mem := by
  rw [statusOf_accepted] at accepted
  obtain ⟨t, next, only, writes⟩ := launch_writes hi ((State.withLaunch_me ..).trans (s1.launching_me used used2))
    (by rw [State.here, State.withLaunch_cur, State.withLaunch_core]; exact (s1.launching_mrg used used2).trans plain)
    ((State.withLaunch_mem ..).trans (s1.launching_rest used used2).mem) (accepted ▸ goes)
  refine ⟨t, next, ?_, fun once c mem => ?_, writes⟩
  · rw [only.dev, State.withLaunch_dev, State.launching_dev, hi.dev]
  · rw [State.cluster, only.clusters]
    exact (State.withLaunch_cluster _ l once mem).trans (by rw [State.launching_cluster, hi.cluster])

end

end

/-- Settles O47: `launchGo` by its first code that applies, with the launch registered by `State.withLaunch` when there is none. -/
theorem launchInstruction : Obligations.LaunchInstruction := by
  unfold Obligations.LaunchInstruction
  intro h o s s1 hi
  refine ⟨fun free => ⟨fun k sub v trap => ?_, fun plain parts used checked => launch_reads hi free plain checked⟩, ?_, fun v written =>
    ⟨launch_waits hi written, fun performed => ?_⟩⟩
  · rw [launch_starts hi free]
    exact congrArg (fun r : Res => r.close s.cur h s1) (readStart_traps (hi.cur.symm ▸ trap))
  · intro bs tags parts used ps used2 read plain whole first second
    replace first : checkElems s1 s1.cur.gid s1.me.cdom (descReq (s1.me.readPair o.a) bs.length)
      (descReq (s1.me.readPair o.a) bs.length).elems [] [] = .ok parts used := hi.cur.symm ▸ first
    replace second : checkElems (s1.touchAll s1.cur.gid used) s1.cur.gid s1.me.cdom (statusReq (s1.me.readPair o.a))
      (statusReq (s1.me.readPair o.a)).elems [] [] = .ok ps used2 := hi.cur.symm ▸ second
    have goes := launch_goes hi read whole
    rw [← hi.cur]
    refine ⟨fun wrong => launch_refuses hi plain goes (launchGo_wrongDomain first second wrong), fun named own => ?_⟩
    have right : ¬ ((descOf bs tags).dom = 0xFFF ∨ (s1.me.cdom.toNat ≠ (descOf bs tags).dom ∧ s1.me.cdom.toNat ≠ 0)) := by
      rintro (unnamed | ⟨other, lives⟩)
      · exact named unnamed
      · exact own.elim other lives
    refine ⟨fun bad => launch_refuses hi plain goes (launchGo_bad first second right bad), fun good logless => ?_⟩
    have decides := launchGo_decides first second right good logless
    have moved {code : Nat} (coded : launchCode s1 (s1.cluster (gidCl s1.cur.gid)).part (descOf bs tags)
          (clmOf s1 (s1.cluster (gidCl s1.cur.gid)).part (descOf bs tags).clmBits) = code) :
        launchCode (s1.launching used used2) (s1.cluster (gidCl s1.cur.gid)).part (descOf bs tags)
          (clmOf (s1.launching used used2) (s1.cluster (gidCl s1.cur.gid)).part (descOf bs tags).clmBits) = code := by
      rwa [clmOf_of_clusters (s1.launching_rest used used2).clusters, launchCode_of_dev (s1.launching_dev used used2)]
    have refuses {code : Nat} (nonzero : code ≠ 0) (coded : launchCode s1 (s1.cluster (gidCl s1.cur.gid)).part (descOf bs tags)
        (clmOf s1 (s1.cluster (gidCl s1.cur.gid)).part (descOf bs tags).clmBits) = code) :=
      launch_refuses hi plain goes (decides.trans (launchDecided_refuses (moved coded) nonzero))
    refine ⟨fun own top => refuses (by decide) (launchCode_prio own top), fun fits => ⟨fun none => refuses (by decide) (launchCode_no_cluster fits none),
      fun some gang set late => refuses (by decide) ?_, fun some timely full => refuses (by decide) ?_, fun coded lives => ?_⟩⟩
    · rw [launchCode_of_clusters fits some, if_pos ⟨gang, set, by rw [late]; rfl⟩]
    · rw [launchCode_of_clusters fits some, if_neg, if_pos (.inl full)]
      rintro ⟨gang, set, late⟩
      rcases timely with alone | zero | ready
      · exact Bool.false_ne_true (alone.symm.trans gang)
      · exact set zero
      · rw [ready] at late
        exact Bool.false_ne_true late
    · obtain ⟨k, found, accepted⟩ := launchDecided_accepts (cap := s1.me.readPair o.a) (ps := ps) (used := used2) (moved coded) lives
      rw [clmOf_of_clusters (s1.launching_rest used used2).clusters] at accepted
      obtain ⟨t, next, dev, clusters, writes⟩ := launch_accepts hi plain goes (decides.trans accepted)
      obtain ⟨nonzero, free⟩ := nextFreeLid_free found
      rw [State.launching_dev, hi.dev] at free
      refine ⟨t, _, next, ?_, nonzero, free, fun x mem other => ?_, rfl, rfl, rfl, rfl, rfl, rfl, rfl, rfl, rfl, rfl, rfl, fun c mem => ?_, ?_, writes⟩
      · rw [dev, Device.mem_launches_withLaunch]
        exact .inr rfl
      · rw [dev, Device.mem_launches_withLaunch]
        exact .inl ⟨mem, other⟩
      · rw [clusters (nodup_clmOf ..) c mem]
        rfl
      · rw [dev]
        exact congrArg Pool.used (Sparse.look_put_same ..)
  · obtain ⟨me, advanced⟩ := hi.retired (u := s1.launched o v) rfl (State.launched_ctx hi v) (Ctx.samePlace_writeS ..)
    refine ⟨_, launch_retires hi written performed, fun n d nonzero => ?_, advanced, ?_⟩
    · rw [me, Ctx.getX_advance, d, Ctx.getX_writeS_same _ _ nonzero]
      rfl
    · rw [State.retire_mem]
      exact hi.mem

end Sys2Proof.Machine
end

section
/-! PROOFS. Stage queues and tasks (R183, R188, R196, R371-R373): `tpsh`, `tpop`, `tdecl`, `qprio`, `wid` and `wid.set`. -/

namespace Sys2Proof.Machine

open Sys2Proof

/-! ## A record enters a queue (R188, R196) -/

/-- A cluster with a record in a stage's queue, and its template regions in the dependence unit. -/
def Cluster.enqueued (k : Cluster) (l : Launch) (stage : Nat) (st : Stage) (it : QItem) : Cluster :=
  { (k.updQueue l.lid stage (fun q => { q with items := insBy (fun i => i.ord) it q.items })) with
    deps := k.deps ++ templateRegions l st it.ord it.wid }

theorem State.enqueue_of_stage {l : Launch} {stage : Nat} {st : Stage} (named : l.stages[stage]? = some st) (s : State) (cl idx : Nat) (wid : Word)
    (record : List Byte) (slip : Bool) : s.enqueue cl l stage idx wid record slip =
      { (s.updCluster cl (fun k => k.enqueued l stage st ⟨s.enqOrd idx, wid, record, slip, []⟩)) with nextOrd := s.nextOrd + 1 } := by
  rw [State.enqueue, named]
  rfl

section
variable {l : Launch} {stage : Nat} {st : Stage} (named : l.stages[stage]? = some st) (s : State) (cl idx : Nat) (wid : Word)
  (record : List Byte) (slip : Bool)
include named

theorem State.enqueue_cluster : (s.enqueue cl l stage idx wid record slip).cluster cl =
    (s.cluster cl).enqueued l stage st ⟨s.enqOrd idx, wid, record, slip, []⟩ := by
  rw [State.enqueue_of_stage named]
  exact State.cluster_updCluster_same s cl (fun k => k.enqueued l stage st ⟨s.enqOrd idx, wid, record, slip, []⟩)

theorem State.enqueue_queue? {q : StageQ} (found : (s.cluster cl).queue? l.lid stage = some q) :
    ((s.enqueue cl l stage idx wid record slip).cluster cl).queue? l.lid stage =
      some { q with items := insBy (fun i => i.ord) ⟨s.enqOrd idx, wid, record, slip, []⟩ q.items } := by
  rw [State.enqueue_cluster named]
  exact Cluster.queue?_updQueue (f := fun q => { q with items := insBy (fun i => i.ord) ⟨s.enqOrd idx, wid, record, slip, []⟩ q.items })
    (fun _ => ⟨rfl, rfl⟩) found

theorem State.enqueue_deps : ((s.enqueue cl l stage idx wid record slip).cluster cl).deps =
    (s.cluster cl).deps ++ templateRegions l st (s.enqOrd idx) wid := by
  rw [State.enqueue_cluster named]
  rfl

theorem State.enqueue_nextOrd : (s.enqueue cl l stage idx wid record slip).nextOrd = s.nextOrd + 1 := by
  rw [State.enqueue_of_stage named]

end

section
variable (s : State) (cl : Nat) (l : Launch) (stage idx : Nat) (wid : Word) (record : List Byte) (slip : Bool)

theorem State.enqueue_mem : (s.enqueue cl l stage idx wid record slip).mem = s.mem := by
  unfold State.enqueue
  split <;> rfl

theorem State.enqueue_dev : (s.enqueue cl l stage idx wid record slip).dev = s.dev := by
  unfold State.enqueue
  split <;> rfl

theorem State.enqueue_cores : (s.enqueue cl l stage idx wid record slip).cores = s.cores := by
  unfold State.enqueue
  split <;> rfl

theorem State.enqueue_cur : (s.enqueue cl l stage idx wid record slip).cur = s.cur := by
  unfold State.enqueue
  split <;> rfl

theorem State.enqueue_ctx (a : Agent) : (s.enqueue cl l stage idx wid record slip).ctx a = s.ctx a :=
  congrArg (fun m : Sparse Core => (Sparse.look Core.reset m a.gid).ctx a.ctx) (s.enqueue_cores cl l stage idx wid record slip)

theorem State.enqueue_me : (s.enqueue cl l stage idx wid record slip).me = s.me := by
  rw [State.me, State.enqueue_cur, State.enqueue_ctx]
  rfl

end

/-! ## How an instruction ends that answers in a predicate register -/

/-- An instruction that answers in a predicate register, having popped its sources. -/
theorem Issues.answers {h : Hdr} {s s1 u : State} {rg : InRegion} {srcs dsts : List Operand} {dst : Operand} {v : Bool} {c : Ctx}
    (hi : Issues h s rg srcs dsts s1) (cur : u.cur = s1.cur) (ctx : u.ctx s.cur = c.writePO dst v) (same : s1.me.SamePlace c) (x : c.x = s1.me.x) :
    (∀ p : Fin 8, dst = .p p → p ≠ 0 → (u.retire s.cur h).me.getP p.val = v) ∧ (u.retire s.cur h).me.x = s.me.x ∧
      s.me.Advanced (u.retire s.cur h).me := by
  obtain ⟨me, advanced⟩ := hi.retired cur ctx (same.trans (c.samePlace_writePO dst v))
  refine ⟨fun p names nonzero => ?_, ?_, advanced⟩
  · rw [me, Ctx.getP_advance, Ctx.getP_writePO_same c v names nonzero]
  · rw [me, Ctx.advance_x, Ctx.writePO_x, x, hi.me_x]

/-! ## tpsh (R371) -/

theorem exec_tpsh (h : Hdr) (o : FmtT) (s : State) : exec (.tpsh h o) s = execTpsh h o s := rfl

section
variable {h : Hdr} {o : FmtT} {s s1 : State} (hi : Issues h s .illegal (pairOps o.a ++ [o.b]) [o.d] s1)

theorem State.myLaunch_of_task {t : State} {k : Task} {l : Launch} (task : t.here.task = some k) (launch : t.launch? k.lid = some l) :
    t.myLaunch = some (k, l) := by
  rw [State.myLaunch, task]
  dsimp only
  rw [launch]
  rfl

theorem widBeyond_iff (widths : List Nat) (n : Nat) : widBeyond widths n = true ↔ n / 2 ^ fieldLo widths 6 ≠ 0 := decide_eq_true_iff

include hi

theorem tpsh_without_task (idle : s1.here.task = none) :
    exec (.tpsh h o) s = .next (s1.after h (fun c => (c.readS o.b).2.writePO o.d false)) := by
  rw [exec_tpsh, execTpsh, issue_of_issues hi, State.myLaunch, idle]
  rw [← hi.close_setCtx, hi.cur]

section
variable {k : Task} {l : Launch} (task : s1.here.task = some k) (launch : s1.launch? k.lid = some l)
include task launch

theorem tpsh_without_stage (beyond : l.stages.length ≤ o.sel.toNat) :
    exec (.tpsh h o) s = .next (s1.after h (fun c => (c.readS o.b).2.writePO o.d false)) := by
  rw [exec_tpsh, execTpsh, issue_of_issues hi, State.myLaunch_of_task task launch]
  dsimp only
  rw [List.getElem?_eq_none beyond, ← hi.close_setCtx, hi.cur]

theorem tpsh_beyond (wide : (s1.me.readS o.b).1.toNat / 2 ^ fieldLo l.widths 6 ≠ 0) :
    exec (.tpsh h o) s = .next (s1.after h (fun c => (c.readS o.b).2.writePO o.d false)) := by
  rw [exec_tpsh, execTpsh, issue_of_issues hi, State.myLaunch_of_task task launch]
  dsimp only
  rw [← hi.close_setCtx, hi.cur]
  split
  · rfl
  · exact congrArg (fun r : Res => r.close s.cur h s1) (if_pos ((widBeyond_iff ..).2 wide))

/-- The state in which `tpsh` with its record read retires. -/
def State.pushed (s1 : State) (o : FmtT) (l : Launch) (bs : List Byte) : State :=
  ((s1.enqueue (gidCl s1.cur.gid) l o.sel.toNat (gidIdx s1.cur.gid) (s1.me.readS o.b).1 bs false).updLaunch l.lid
    (fun x => { x with alive := x.alive + 1 })).self (fun c => (c.readS o.b).2.writePO o.d true)

section
variable {st : Stage} (named : l.stages[o.sel.toNat]? = some st) (within : (s1.me.readS o.b).1.toNat / 2 ^ fieldLo l.widths 6 = 0)
include named within

/-- A push in range reads its record first. -/
theorem tpsh_starts (sized : st.rsz ≠ 0) (free : s1.me.busy = none) : exec (.tpsh h o) s =
    (readStart s1 (s1.me.readPair o.a) [permLoad] (s1.me.readPair o.a).addr st.rsz 1).close s.cur h s1 := by
  rw [exec_tpsh, execTpsh, issue_of_issues hi, State.myLaunch_of_task task launch]
  dsimp only
  rw [named]
  dsimp only
  rw [if_neg (by rw [widBeyond_iff]; exact not_not.2 within), withRead_of_idle free sized]

section
variable {bs : List Byte} {gt : List Bool} (read : s1.me.busy = some (.read bs gt))
include read

theorem tpsh_waits (waits : relDone s1 s.cur (Order.cluster (gidCl s.cur.gid)) s1.me.seq = false ∨
    (s1.cluster (gidCl s.cur.gid)).roomFor l o.sel.toNat = false) : exec (.tpsh h o) s = .next s1 := by
  rw [exec_tpsh, execTpsh, issue_of_issues hi, State.myLaunch_of_task task launch]
  dsimp only
  rw [named]
  dsimp only
  rw [if_neg (by rw [widBeyond_iff]; exact not_not.2 within), withRead_of_read read, hi.cur]
  rcases waits with early | full
  · rw [early]
    rfl
  · rw [full]
    split <;> rfl

theorem tpsh_enters (performed : relDone s1 s.cur (Order.cluster (gidCl s.cur.gid)) s1.me.seq = true)
    (room : (s1.cluster (gidCl s.cur.gid)).roomFor l o.sel.toNat = true) : exec (.tpsh h o) s = .next ((s1.pushed o l bs).retire s.cur h) := by
  rw [exec_tpsh, execTpsh, issue_of_issues hi, State.myLaunch_of_task task launch]
  dsimp only
  rw [named]
  dsimp only
  rw [if_neg (by rw [widBeyond_iff]; exact not_not.2 within), withRead_of_read read, State.pushed, hi.cur, performed, room]
  rfl

end
end
end
end

/-- What stands in the state in which a push has retired. -/
theorem tpsh_pushed {h : Hdr} {o : FmtT} {s s1 : State} (hi : Issues h s .illegal (pairOps o.a ++ [o.b]) [o.d] s1) {l : Launch} {st : Stage}
    (named : l.stages[o.sel.toNat]? = some st) (bs : List Byte) {q : StageQ}
    (found : (s1.cluster (gidCl s.cur.gid)).queue? l.lid o.sel.toNat = some q) :
    let t := (s1.pushed o l bs).retire s.cur h
    (t.cluster (gidCl s.cur.gid)).queue? l.lid o.sel.toNat = some { q with
      items := insBy (fun x => x.ord) ⟨s.enqOrd (gidIdx s.cur.gid), (s1.me.readS o.b).1, bs, false, []⟩ q.items } ∧
    (t.cluster (gidCl s.cur.gid)).deps =
      (s.cluster (gidCl s.cur.gid)).deps ++ templateRegions l st (s.enqOrd (gidIdx s.cur.gid)) (s1.me.readS o.b).1 ∧ t.nextOrd = s.nextOrd + 1 ∧
    (∀ p : Fin 8, o.d = .p p → p ≠ 0 → t.me.getP p.val = true) ∧ t.me.x = s.me.x ∧ s.me.Advanced t.me ∧ t.mem = s.mem := by
  intro t
  have ord : s1.enqOrd (gidIdx s.cur.gid) = s.enqOrd (gidIdx s.cur.gid) := by
    rw [State.enqOrd, State.enqOrd, hi.dev, State.takeWait_nextOrd hi.wait]
  have cluster : t.cluster (gidCl s.cur.gid) = (s1.enqueue (gidCl s.cur.gid) l o.sel.toNat (gidIdx s.cur.gid) (s1.me.readS o.b).1 bs false).cluster
      (gidCl s.cur.gid) := by
    rw [State.cluster, State.retire_clusters, State.pushed, hi.cur]
    rfl
  have nextOrd : t.nextOrd = (s1.enqueue (gidCl s1.cur.gid) l o.sel.toNat (gidIdx s1.cur.gid) (s1.me.readS o.b).1 bs false).nextOrd :=
    State.retire_nextOrd ..
  have mem : t.mem = (s1.enqueue (gidCl s1.cur.gid) l o.sel.toNat (gidIdx s1.cur.gid) (s1.me.readS o.b).1 bs false).mem := State.retire_mem ..
  refine ⟨?_, ?_, ?_, ?_⟩
  · rw [cluster, State.enqueue_queue? named _ _ _ _ _ _ found, ord]
  · rw [cluster, State.enqueue_deps named, ord, hi.cluster]
  · rw [nextOrd, State.enqueue_nextOrd named, State.takeWait_nextOrd hi.wait]
  · have cur : (s1.pushed o l bs).cur = s1.cur := s1.enqueue_cur ..
    have ctx : (s1.pushed o l bs).ctx s.cur = (s1.me.readS o.b).2.writePO o.d true := by
      have me : (s1.pushed o l bs).me = (s1.me.readS o.b).2.writePO o.d true :=
        (State.me_self ..).trans (congrArg (fun c : Ctx => (c.readS o.b).2.writePO o.d true) (s1.enqueue_me ..))
      rw [← me, State.me, cur, hi.cur]
    obtain ⟨answer, x, advanced⟩ := hi.answers cur ctx (s1.me.samePlace_readS o.b) (Ctx.readS_x ..)
    exact ⟨answer, x, advanced, mem.trans ((s1.enqueue_mem ..).trans hi.mem)⟩

/-! ## tpop (R371) -/

theorem exec_tpop (h : Hdr) (o : FmtT) (s : State) : exec (.tpop h o) s = execTpop h o s := rfl

/-- A change made twice of a core is made once. -/
theorem State.core_foldl_updCore {f : Core → Core} (once : ∀ c, f (f c) = f c) {l : List Nat} {g : Nat} (mem : g ∈ l) (s : State) :
    (l.foldl (fun acc m => acc.updCore m f) s).core g = f (s.core g) := by
  have others (l : List Nat) (out : g ∉ l) (s : State) : (l.foldl (fun acc m => acc.updCore m f) s).core g = s.core g := by
    induction l generalizing s with
    | nil => rfl
    | cons m l ih =>
      rw [List.mem_cons, not_or] at out
      exact (ih out.2 _).trans (State.core_updCore_ne s f (Ne.symm out.1))
  induction l generalizing s with
  | nil => cases mem
  | cons m l ih =>
    rw [List.foldl_cons]
    by_cases again : g ∈ l
    · rw [ih again]
      by_cases own : m = g
      · rw [own, State.core_updCore_same, once]
      · rw [State.core_updCore_ne s f own]
    · obtain rfl := (List.mem_cons.1 mem).resolve_right again
      rw [others l again, State.core_updCore_same]

/-- A core whose task has taken its record. -/
def Core.popped (c : Core) : Core := { c with task := c.task.map (fun u => { u with popped := true }) }

theorem Core.popped_popped (c : Core) : c.popped.popped = c.popped := by
  unfold Core.popped
  cases c.task <;> rfl

/-- What `tpop` asks as it stores the record. -/
def popReq (cap : Cap) (n : Nat) : Req := ⟨cap, [permStore], kStore, 1, 0, [⟨cap.addr, n, 0⟩], true⟩

/-- The members of a task, whose record is taken. -/
def State.allPopped (t : State) (l : List Nat) : State := l.foldl (fun acc m => acc.updCore m Core.popped) t

theorem State.OnlyCores.allPopped (t : State) (l : List Nat) : t.OnlyCores (t.allPopped l) := .foldl (fun _ _ => .updCore ..) ..

theorem State.allPopped_cur (t : State) (l : List Nat) : (t.allPopped l).cur = t.cur := by rw [(State.OnlyCores.allPopped t l).eq]

theorem State.allPopped_me (t : State) (l : List Nat) : (t.allPopped l).me = t.me := by
  have keeps : t.KeepsCores Core.ctxs (t.allPopped l) := by
    refine State.KeepsCores.foldl (fun u m => ?_) l t
    exact State.KeepsCores.updCore m fun _ => rfl
  rw [State.me, State.allPopped_cur]
  exact State.KeepsCtx.of_ctxs (p := id) keeps t.cur

/-- The agent in turn has a task's record in its store buffer. -/
def State.recordStored (t : State) (cap : Cap) (k : Task) (parts : List Part) (used : List TlbEntry) : State :=
  t.self (fun c => c.storing (sbEntries c.seq (popReq cap k.record.length) Order.plain k.record false false (viaOf used) parts) (parts.length + 1))

theorem State.OnlyCores.self (t : State) (f : Ctx → Ctx) : t.OnlyCores (t.self f) := .updCtx ..

theorem State.self_core_task (t : State) (f : Ctx → Ctx) (g : Nat) : ((t.self f).core g).task = (t.core g).task :=
  State.KeepsCores.updCtx (s := t) (p := Core.task) t.cur f (fun _ _ _ => rfl) g

/-- The state in which `tpop` retires. -/
def State.popsRecord (t : State) (o : FmtT) (cap : Cap) (k : Task) (parts : List Part) (used : List TlbEntry) : State :=
  ((t.recordStored cap k parts used).allPopped k.members).self (fun c => c.writePO o.d true)

theorem State.popsRecord_me (t : State) (o : FmtT) (cap : Cap) (k : Task) (parts : List Part) (used : List TlbEntry) :
    (t.popsRecord o cap k parts used).me = (t.me.storing (sbEntries t.me.seq (popReq cap k.record.length) Order.plain k.record false false
      (viaOf used) parts) (parts.length + 1)).writePO o.d true := by
  rw [State.popsRecord, State.me_self, State.allPopped_me, State.recordStored, State.me_self]

theorem State.popsRecord_cur (t : State) (o : FmtT) (cap : Cap) (k : Task) (parts : List Part) (used : List TlbEntry) :
    (t.popsRecord o cap k parts used).cur = t.cur := by
  rw [State.popsRecord]
  exact State.allPopped_cur ..

theorem State.OnlyCores.popsRecord (t : State) (o : FmtT) (cap : Cap) (k : Task) (parts : List Part) (used : List TlbEntry) :
    t.OnlyCores (t.popsRecord o cap k parts used) := by
  have stored : t.OnlyCores (t.recordStored cap k parts used) := .self ..
  have popped := stored.trans (.allPopped _ k.members)
  exact popped.trans (.self ..)

theorem State.popsRecord_task (t : State) (o : FmtT) (cap : Cap) {k : Task} (parts : List Part) (used : List TlbEntry)
    (task : t.here.task = some k) (member : t.cur.gid ∈ k.members) :
    ((t.popsRecord o cap k parts used).core t.cur.gid).task = some { k with popped := true } := by
  have stored : ((t.recordStored cap k parts used).core t.cur.gid).task = some k := (State.self_core_task t _ t.cur.gid).trans task
  rw [State.popsRecord, State.self_core_task, State.allPopped, State.core_foldl_updCore Core.popped_popped member, Core.popped, stored]
  rfl

section
variable {h : Hdr} {o : FmtT} {s s1 : State} (hi : Issues h s .illegal (pairOps o.a) [o.d] s1)
include hi

theorem tpop_without_task (idle : s1.here.task = none) : exec (.tpop h o) s = .next (s1.after h (fun c => c.writePO o.d false)) := by
  rw [exec_tpop, execTpop, issue_of_issues hi, idle]
  exact hi.close_done _

variable {k : Task} (task : s1.here.task = some k)
include task

theorem tpop_again (popped : k.popped = true) : exec (.tpop h o) s = .next (s1.after h (fun c => c.writePO o.d false)) := by
  rw [exec_tpop, execTpop, issue_of_issues hi, task]
  dsimp only
  rw [if_pos popped]
  exact hi.close_done _

variable (whole : k.popped = false)
include whole

theorem tpop_faults {n sub : Nat} {v : Word} (trap : checkElems s1 s.cur.gid s1.me.cdom (popReq (s1.me.readPair o.a) k.record.length)
    (popReq (s1.me.readPair o.a) k.record.length).elems [] [] = .trap n sub v) : exec (.tpop h o) s = .next (s1.fault s.cur h n sub v) := by
  rw [exec_tpop, execTpop, issue_of_issues hi, task]
  dsimp only
  rw [if_neg (Bool.eq_false_iff.1 whole)]
  exact congrArg (fun r : Res => r.close s.cur h s1) (withAccess_of_trap (hi.cur.symm ▸ trap) _)

theorem tpop_stores (plain : s1.here.mrg = none) {parts : List Part} {used : List TlbEntry} (checked : checkElems s1 s.cur.gid s1.me.cdom
    (popReq (s1.me.readPair o.a) k.record.length) (popReq (s1.me.readPair o.a) k.record.length).elems [] [] = .ok parts used) :
    exec (.tpop h o) s = .next (((s1.touchAll s1.cur.gid used).popsRecord o (s1.me.readPair o.a) k parts used).retire s.cur h) := by
  have cur : (s1.touchAll s1.cur.gid used).cur = s1.cur := State.touchAll_cur ..
  have region : ((s1.touchAll s1.cur.gid used).ctx s1.cur).region = none := (congrArg Ctx.region (State.touchAll_ctx ..)).trans hi.outside
  have merge : ((s1.touchAll s1.cur.gid used).core s1.cur.gid).mrg = none := (State.touchAll_mrg ..).trans plain
  rw [exec_tpop, execTpop, issue_of_issues hi, task]
  dsimp only
  rw [if_neg (Bool.eq_false_iff.1 whole)]
  refine (congrArg (fun r : Res => r.close s.cur h s1) (withAccess_of_ok (hi.cur.symm ▸ checked) _)).trans ?_
  rw [cur, State.issueStore_of_plain region merge, State.popsRecord, State.recordStored, State.self, State.self, cur]
  rfl

omit whole in
/-- What stands in the state in which `tpop` has retired. -/
theorem tpop_stored (member : s.cur.gid ∈ k.members) (parts : List Part) (used : List TlbEntry) :
    let t := ((s1.touchAll s1.cur.gid used).popsRecord o (s1.me.readPair o.a) k parts used).retire s.cur h
    t.me.sb = s.me.sb ++ sbEntries s.me.seq (popReq (s1.me.readPair o.a) k.record.length) Order.plain k.record false false (viaOf used) parts ∧
      (t.core s.cur.gid).task = some { k with popped := true } ∧ (∀ p : Fin 8, o.d = .p p → p ≠ 0 → t.me.getP p.val = true) ∧
      t.me.x = s.me.x ∧ s.me.Advanced t.me ∧ t.mem = s.mem := by
  intro t
  have touched : (s1.touchAll s1.cur.gid used).cur = s1.cur := State.touchAll_cur ..
  have me := State.popsRecord_me (s1.touchAll s1.cur.gid used) o (s1.me.readPair o.a) k parts used
  have cur : ((s1.touchAll s1.cur.gid used).popsRecord o (s1.me.readPair o.a) k parts used).cur = s1.cur := (State.popsRecord_cur ..).trans touched
  rw [State.touchAll_me] at me
  have ctx := (congrArg (State.ctx _) (cur.trans hi.cur)).symm.trans me
  obtain ⟨answer, x, advanced⟩ := hi.answers cur ctx ⟨rfl, rfl, rfl⟩ rfl
  refine ⟨?_, ?_, answer, x, advanced, ?_⟩
  · rw [(hi.retired cur ctx (Ctx.SamePlace.trans (d := s1.me.storing _ _) ⟨rfl, rfl, rfl⟩ (Ctx.samePlace_writePO ..))).1, Ctx.advance_sb, Ctx.writePO_sb, hi.me_seq]
    exact congrArg (· ++ _) hi.me_sb
  · have bound : (s1.touchAll s1.cur.gid used).here.task = some k := by
      rw [State.here, touched, State.touchAll_keeps (p := Core.task) (fun _ _ => rfl) s1 s1.cur.gid used]
      exact task
    have popped := State.popsRecord_task (s1.touchAll s1.cur.gid used) o (s1.me.readPair o.a) parts used bound
      (by rw [touched, hi.cur]; exact member)
    rw [State.retire_keeps (p := Core.task) (fun _ _ _ => rfl) (fun _ _ => rfl), ← hi.cur, ← touched]
    rw [touched] at popped ⊢
    exact popped
  · rw [State.retire_mem, (State.OnlyCores.popsRecord ..).mem, (State.OnlyCores.touchAll ..).mem, hi.mem]

end

/-! ## tdecl and qprio (R372) -/

theorem exec_tdecl (h : Hdr) (o : FmtT) (s : State) : exec (.tdecl h o) s = execTdecl h o s := rfl
theorem exec_qprio (h : Hdr) (o : FmtT) (s : State) : exec (.qprio h o) s = execQprio h o s := rfl

section
variable {h : Hdr} {o : FmtT} {s s1 : State} (hi : Issues h s .illegal [o.a, o.b] [] s1)
include hi

theorem tdecl_idle (idle : s1.here.task = none ∨ ((s1.me.readS o.a).2.readS o.b).1 = 0) :
    exec (.tdecl h o) s = .next (s1.after h (fun c => ((c.readS o.a).2.readS o.b).2)) := by
  rw [exec_tdecl, execTdecl, issue_of_issues hi, ← hi.close_setCtx (fun c => ((c.readS o.a).2.readS o.b).2), hi.cur]
  dsimp only
  split
  · rfl
  next k task =>
    rcases idle with none | zero
    · exact absurd (none.symm.trans task) (by simp)
    · rw [if_pos zero]

variable {k : Task} (task : s1.here.task = some k) (nonzero : ((s1.me.readS o.a).2.readS o.b).1 ≠ 0)
include task nonzero

theorem tdecl_waits (full : 512 ≤ (s1.cluster (gidCl s.cur.gid)).deps.length) : exec (.tdecl h o) s = .next s1 := by
  rw [exec_tdecl, execTdecl, issue_of_issues hi, task, hi.cur]
  dsimp only
  rw [if_neg nonzero, if_pos full]
  rfl

/-- The region that a `tdecl` adds. -/
def declared (c : Ctx) (o : FmtT) (k : Task) : DepRegion :=
  ⟨k.ord, (c.readS o.a).1.toNat, min ((c.readS o.a).1.toNat + ((c.readS o.a).2.readS o.b).1.toNat) (2 ^ 64), decide (o.sub = 1), k.dom⟩

/-- The state in which a `tdecl` that adds a region retires. -/
def State.declares (s1 : State) (a : Agent) (o : FmtT) (k : Task) : State :=
  (s1.setCtx a ((s1.me.readS o.a).2.readS o.b).2).updCluster (gidCl a.gid) (fun c => { c with deps := c.deps ++ [declared s1.me o k] })

theorem tdecl_declares (room : (s1.cluster (gidCl s.cur.gid)).deps.length < 512) : exec (.tdecl h o) s =
    .next ((s1.declares s.cur o k).retire s.cur h) := by
  rw [exec_tdecl, execTdecl, issue_of_issues hi, task, hi.cur]
  dsimp only
  rw [if_neg nonzero, if_neg (Nat.not_le.2 room)]
  rfl

omit task nonzero in
theorem tdecl_declared :
    let t := (s1.declares s.cur o k).retire s.cur h
    (t.cluster (gidCl s.cur.gid)).deps = (s.cluster (gidCl s.cur.gid)).deps ++ [declared s1.me o k] ∧
      t.me.x = s.me.x ∧ s.me.Advanced t.me ∧ t.mem = s.mem := by
  intro t
  have ctx : (s1.declares s.cur o k).ctx s.cur = ((s1.me.readS o.a).2.readS o.b).2 := State.ctx_setCtx_same ..
  obtain ⟨me, advanced⟩ := hi.retired (u := s1.declares s.cur o k) rfl ctx ((Ctx.samePlace_readS ..).trans (Ctx.samePlace_readS ..))
  refine ⟨?_, ?_, advanced, (State.retire_mem ..).trans hi.mem⟩
  · rw [State.cluster, State.retire_clusters, ← hi.cluster]
    exact congrArg Cluster.deps (State.cluster_updCluster_same ..)
  · rw [me, Ctx.advance_x, Ctx.readS_x, Ctx.readS_x, hi.me_x]

end

section
variable {h : Hdr} {o : FmtT} {s s1 : State} (hi : Issues h s .illegal [o.a] [o.d] s1)

/-- The launch whose priority a `qprio` changes. -/
def qprioTarget (s1 : State) (o : FmtT) : Option Launch :=
  if o.a = .x 0 then s1.myLaunch.map (fun e => e.2) else s1.launch? ((s1.me.readS o.a).1.extractLsb' 0 16).toNat

/-- What makes a `qprio` write false. -/
def qprioWrong (s1 : State) (o : FmtT) (l : Launch) : Prop :=
  l.code ≠ 0 ∨ l.stages.length ≤ o.sel.toNat ∨ (l.dom ≠ s1.me.cdom.toNat ∧ s1.me.cdom.toNat ≠ 0) ∨
    (o.imm = 23 ∧ (s1.me.cdom.toNat ≠ 0 ∨ l.dom ≠ 0))

theorem qprioTarget_eq (s1 : State) (o : FmtT) : qprioTarget s1 o =
    if o.a = .x 0 then s1.myLaunch.map (fun e => e.2) else s1.launch? (bits (s1.me.readS o.a).1 15 0) := by
  rw [bits_eq_toNat_extract]
  rfl

include hi

theorem qprio_without_target (missing : qprioTarget s1 o = none) :
    exec (.qprio h o) s = .next (s1.after h (fun c => (c.readS o.a).2.writePO o.d false)) := by
  rw [qprioTarget_eq] at missing
  rw [exec_qprio, execQprio, issue_of_issues hi, ← hi.close_setCtx (fun c => (c.readS o.a).2.writePO o.d false), hi.cur]
  dsimp only
  rw [missing]

variable {l : Launch} (target : qprioTarget s1 o = some l)
include target

theorem qprio_wrong (wrong : qprioWrong s1 o l) :
    exec (.qprio h o) s = .next (s1.after h (fun c => (c.readS o.a).2.writePO o.d false)) := by
  rw [qprioTarget_eq] at target
  rw [exec_qprio, execQprio, issue_of_issues hi, ← hi.close_setCtx (fun c => (c.readS o.a).2.writePO o.d false), hi.cur]
  dsimp only
  rw [target]
  exact congrArg (fun r : Res => r.close s.cur h s1) (if_pos wrong)

/-- The state in which a `qprio` with a change on its way to each cluster retires. -/
def State.sendsPrio (s1 : State) (o : FmtT) (l : Launch) : State :=
  State.setCtx { s1 with flights := s1.flights ++ l.clm.map (fun c => .qprio c l.lid o.sel.toNat o.imm.toNat) } s1.cur
    ((s1.me.readS o.a).2.writePO o.d true)

theorem qprio_sends (right : ¬ qprioWrong s1 o l) : exec (.qprio h o) s =
    .next ((s1.sendsPrio o l).retire s.cur h) := by
  rw [qprioTarget_eq] at target
  rw [exec_qprio, execQprio, issue_of_issues hi]
  dsimp only
  rw [target]
  exact congrArg (fun r : Res => r.close s.cur h s1) (if_neg right)

omit target in
theorem qprio_sent :
    let t := (s1.sendsPrio o l).retire s.cur h
    t.flights = s.flights ++ l.clm.map (fun c => .qprio c l.lid o.sel.toNat o.imm.toNat) ∧
      (∀ p : Fin 8, o.d = .p p → p ≠ 0 → t.me.getP p.val = true) ∧ t.me.x = s.me.x ∧ s.me.Advanced t.me ∧ t.mem = s.mem := by
  intro t
  have ctx : (s1.sendsPrio o l).ctx s.cur = (s1.me.readS o.a).2.writePO o.d true :=
    hi.cur ▸ State.ctx_setCtx_same ..
  obtain ⟨answer, x, advanced⟩ := hi.answers (u := s1.sendsPrio o l) rfl ctx (s1.me.samePlace_readS o.a) (Ctx.readS_x ..)
  refine ⟨?_, answer, x, advanced, (State.retire_mem ..).trans hi.mem⟩
  rw [State.retire_flights, ← State.takeWait_flights hi.wait]
  rfl

end

/-! ## Work IDs (R183, R373) -/

theorem exec_wid (h : Hdr) (o : FmtT) (s : State) : exec (.wid h o) s = execWid h o s := rfl
theorem exec_widSet (h : Hdr) (o : FmtT) (s : State) : exec (.widSet h o) s = execWidSet h o s := rfl

theorem fieldLo_succ (widths : List Nat) (f : Nat) : fieldLo widths (f + 1) = fieldLo widths f + widths.getD f 0 := by
  unfold fieldLo
  rw [List.take_add_one, List.foldl_append, List.getD_eq_getElem?_getD]
  cases widths[f]? <;> rfl

theorem fieldLo_le {widths : List Nat} {f g : Nat} (below : f ≤ g) : fieldLo widths f ≤ fieldLo widths g := by
  induction below with
  | refl => exact Nat.le_refl _
  | step _ ih => exact ih.trans (fieldLo_succ .. ▸ Nat.le_add_right ..)

/-- A number cut at a field that starts at bit `a` and has `b` bits. -/
theorem eq_of_field (n a b : Nat) : n = n / 2 ^ (a + b) * 2 ^ (a + b) + n / 2 ^ a % 2 ^ b * 2 ^ a + n % 2 ^ a := by
  have whole := Nat.div_add_mod n (2 ^ a)
  have upper := Nat.div_add_mod (n / 2 ^ a) (2 ^ b)
  rw [Nat.div_div_eq_div_mul, ← pow_add] at upper
  conv_lhs => rw [← whole, ← upper]
  rw [pow_add]
  ring

/-- A field and what lies below it stay below the field above. -/
theorem field_add_lt {x r a b : Nat} (field : x < 2 ^ b) (low : r < 2 ^ a) : x * 2 ^ a + r < 2 ^ (a + b) :=
  calc x * 2 ^ a + r < x * 2 ^ a + 2 ^ a := Nat.add_lt_add_left low _
    _ = (x + 1) * 2 ^ a := (Nat.succ_mul ..).symm
    _ ≤ 2 ^ b * 2 ^ a := Nat.mul_le_mul_right _ field
    _ = 2 ^ (a + b) := by rw [pow_add, Nat.mul_comm]

section
variable {widths : List Nat} {f : Nat} (fits : fieldLo widths (f + 1) ≤ 64) (w : Word) (v : Nat)

theorem newField_lt : v % 2 ^ widths.getD f 0 * 2 ^ fieldLo widths f + w.toNat % 2 ^ fieldLo widths f < 2 ^ fieldLo widths (f + 1) :=
  fieldLo_succ widths f ▸ field_add_lt (Nat.mod_lt _ (by positivity)) (Nat.mod_lt _ (by positivity))

include fits

/-- The number that a work ID comes to as a field of it is replaced. -/
theorem widPut_toNat : (widPut widths w f v).toNat = w.toNat / 2 ^ fieldLo widths (f + 1) * 2 ^ fieldLo widths (f + 1) +
    (v % 2 ^ widths.getD f 0 * 2 ^ fieldLo widths f + w.toNat % 2 ^ fieldLo widths f) := by
  have cut := eq_of_field w.toNat (fieldLo widths f) (widths.getD f 0)
  have part := newField_lt (widths := widths) (f := f) w v
  have room : w.toNat / 2 ^ fieldLo widths (f + 1) < 2 ^ (64 - fieldLo widths (f + 1)) := by
    rw [Nat.div_lt_iff_lt_mul (by positivity), ← pow_add, Nat.sub_add_cancel fits]
    exact w.isLt
  have top : w.toNat / 2 ^ fieldLo widths (f + 1) * 2 ^ fieldLo widths (f + 1) + 2 ^ fieldLo widths (f + 1) ≤ 2 ^ 64 :=
    calc _ = (w.toNat / 2 ^ fieldLo widths (f + 1) + 1) * 2 ^ fieldLo widths (f + 1) := (Nat.succ_mul ..).symm
      _ ≤ 2 ^ (64 - fieldLo widths (f + 1)) * 2 ^ fieldLo widths (f + 1) := Nat.mul_le_mul_right _ room
      _ = 2 ^ 64 := by rw [← pow_add, Nat.sub_add_cancel fits]
  rw [← fieldLo_succ] at cut
  rw [widPut, widField, wd, BitVec.toNat_ofNat]
  rw [Nat.mod_eq_of_lt] <;> omega

theorem widPut_mod : (widPut widths w f v).toNat % 2 ^ fieldLo widths f = w.toNat % 2 ^ fieldLo widths f := by
  rw [widPut_toNat fits, fieldLo_succ, pow_add, Nat.mul_comm (2 ^ fieldLo widths f), ← Nat.mul_assoc, ← Nat.add_assoc, ← Nat.add_mul,
    Nat.mul_add_mod_self_right, Nat.mod_mod]

theorem widPut_div : (widPut widths w f v).toNat / 2 ^ fieldLo widths (f + 1) = w.toNat / 2 ^ fieldLo widths (f + 1) := by
  rw [widPut_toNat fits, Nat.mul_comm, Nat.mul_add_div (by positivity), Nat.div_eq_of_lt (newField_lt w v), Nat.add_zero]

theorem widField_widPut_same : widField widths (widPut widths w f v) f = v % 2 ^ widths.getD f 0 := by
  rw [widField, widPut_toNat fits, fieldLo_succ, pow_add, Nat.mul_comm (2 ^ fieldLo widths f), ← Nat.mul_assoc, ← Nat.add_assoc, ← Nat.add_mul,
    Nat.mul_comm, Nat.mul_add_div (by positivity), Nat.div_eq_of_lt (Nat.mod_lt _ (by positivity)), Nat.add_zero, Nat.mul_add_mod_self_right,
    Nat.mod_mod]

theorem widField_widPut_ne {g : Nat} (other : g ≠ f) : widField widths (widPut widths w f v) g = widField widths w g := by
  rcases Nat.lt_or_gt_of_ne other with below | above
  · have ends : fieldLo widths g + widths.getD g 0 ≤ fieldLo widths f := fieldLo_succ widths g ▸ fieldLo_le below
    have reads (n : Nat) : n / 2 ^ fieldLo widths g % 2 ^ widths.getD g 0 =
        n % 2 ^ fieldLo widths f / 2 ^ fieldLo widths g % 2 ^ widths.getD g 0 := by
      refine Nat.eq_of_testBit_eq fun i => ?_
      simp only [Nat.testBit_mod_two_pow, Nat.testBit_div_two_pow]
      by_cases inside : i < widths.getD g 0
      · rw [decide_eq_true (by omega : i + fieldLo widths g < fieldLo widths f), Bool.true_and]
      · rw [decide_eq_false inside, Bool.false_and, Bool.false_and]
    rw [widField, widField, reads, widPut_mod fits, ← reads]
  · have starts : fieldLo widths (f + 1) ≤ fieldLo widths g := fieldLo_le above
    have reads (n : Nat) : n / 2 ^ fieldLo widths g = n / 2 ^ fieldLo widths (f + 1) / 2 ^ (fieldLo widths g - fieldLo widths (f + 1)) := by
      rw [Nat.div_div_eq_div_mul, ← pow_add, Nat.add_sub_cancel' starts]
    rw [widField, widField, reads, widPut_div fits, ← reads]

end

/-- Settles O48: each instruction by the lemma about what it comes to, in the order of the statement. -/
theorem taskInstructions : Obligations.TaskInstructions := by
  unfold Obligations.TaskInstructions
  intro h o s s1
  refine ⟨fun hi => ⟨tpsh_without_task hi, fun k l task launch => ⟨tpsh_without_stage hi task launch, tpsh_beyond hi task launch,
      fun st named within some => ⟨fun free => ⟨fun n sub v trap => ?_, fun plain parts used checked => ?_⟩, fun bs gt read =>
        ⟨tpsh_waits hi task launch named within read, fun q performed room found =>
          ⟨_, tpsh_enters hi task launch named within read performed room, tpsh_pushed hi named bs found⟩⟩⟩⟩⟩,
    fun hi => ⟨tpop_without_task hi, fun k task => ⟨tpop_again hi task, fun whole n sub v trap => tpop_faults hi task whole trap,
      fun whole member plain parts used checked => ?_⟩⟩,
    fun hi => ⟨tdecl_idle hi, fun k task some => ⟨tdecl_waits hi task some, fun room => ⟨_, tdecl_declares hi task some room, ?_⟩⟩⟩,
    fun hi => ⟨qprio_without_target hi, fun l target => ⟨qprio_wrong hi target, fun right => ⟨_, qprio_sends hi target right, ?_⟩⟩⟩,
    fun hi => ?_, fun m n a b hi => ?_⟩
  · rw [tpsh_starts hi task launch named within some free]
    exact congrArg (fun r : Res => r.close s.cur h s1) (readStart_traps (hi.cur.symm ▸ trap))
  · obtain ⟨t, e, reads, busy, pend, size, dest, slot, x, mem⟩ := readStart_reads hi.outside plain some (hi.cur.symm ▸ checked)
    refine ⟨t, e, ?_, busy, hi.me_pend ▸ pend, size, dest, slot.trans hi.samePlace.slot, x.trans hi.me_x, mem.trans hi.mem⟩
    rw [tpsh_starts hi task launch named within some free]
    exact congrArg (fun r : Res => r.close s.cur h s1) reads
  · obtain ⟨segs, v, rfl, -⟩ := checkElems_single checked
    obtain ⟨sb, popped, ends⟩ := tpop_stored hi task member _ used
    exact ⟨_, _, tpop_stores hi task whole plain checked, sb, rfl, popped, ends⟩
  · exact tdecl_declared hi
  · exact qprio_sent hi
  · rw [exec_wid, execWid, issue_of_issues hi, hi.close_done]
    rfl
  · refine ⟨widPut s1.myWidths (s.me.getX m.val).val o.sel.toNat (s.me.getX n.val).val.toNat, ?_, fun _ fits => widField_widPut_same fits .., fun f other _ _ fits =>
      widField_widPut_ne fits _ _ other⟩
    rw [exec_widSet, execWidSet, issue_of_issues hi, hi.close_done]
    refine congrArg Host.Outcome.next (State.after_congr ?_ h)
    rw [a, b, ← hi.me_getX, ← hi.me_getX]
    rfl

end Sys2Proof.Machine
end

section
/-! PROOFS. What an access of the device's own units leaves as it was (R57, R101, R112): the turn, the contexts, the launches, and the
clusters but for their slices. -/

namespace Sys2Proof.Machine

open Sys2Proof

/-- A cluster without the slices of its cache. -/
def Cluster.beyondSlices (k : Cluster) : Cluster := { k with slices := [] }

/-- The order of tasks, and the clusters but for their slices. -/
def State.desk (s : State) : Nat × (Nat → Cluster) := (s.nextOrd, fun c => (s.cluster c).beyondSlices)

/-- What no change of stored bytes, tags, marks or records touches. -/
def State.beside (s : State) : Sparse Core × Sparse Cluster × Agent × Nat × Device := (s.cores, s.clusters, s.cur, s.nextOrd, s.dev)

theorem State.desk_of_beside {s t : State} (same : t.beside = s.beside) : t.desk = s.desk :=
  congrArg (fun p : Sparse Core × Sparse Cluster × Agent × Nat × Device =>
    (p.2.2.2.1, fun c => (Sparse.look Cluster.reset p.2.1 c).beyondSlices)) same

theorem State.updSlice_desk (s : State) (cl i : Nat) (f : Slice → Slice) : (s.updSlice cl i f).desk = s.desk := by
  refine Prod.ext rfl (funext fun c => ?_)
  show ((s.updSlice cl i f).cluster c).beyondSlices = (s.cluster c).beyondSlices
  by_cases own : cl = c
  · rw [own, State.updSlice, State.cluster_updCluster_same]
    rfl
  · rw [State.updSlice, s.cluster_updCluster_ne _ own]

theorem State.putWrite_desk (s : State) (w : HomeWrite) : (s.putWrite w).desk = s.desk := by
  have stored (l : List Byte) (u : State) (a : Nat) : (u.setBytes a l).desk = u.desk := by
    induction l generalizing u a with
    | nil => rfl
    | cons b l ih => exact ih _ _
  have cleared (n : Nat) : ((s.setBytes w.addr w.data).clearTags w.addr n).desk = s.desk := by
    unfold State.clearTags
    split <;> exact stored ..
  unfold State.putWrite
  dsimp only
  split <;> exact cleared _

theorem State.patchOwn_desk (s : State) (w : HomeWrite) (tag ver : Nat) : (s.patchOwn w tag ver).desk = s.desk := by
  unfold State.patchOwn
  split <;> rfl

theorem State.collect_desk (s : State) (line wid : Nat) : (s.collect line wid).desk = s.desk :=
  State.updSlice_desk s (homeSlice s (line * 128)).1 (homeSlice s (line * 128)).2 (fun k =>
    { k with
      ovf := natDel k.ovf line, cseq := k.cseq + 1
      collects := k.collects ++
        [(((s.cluster (homeSlice s (line * 128)).1).slice (homeSlice s (line * 128)).2).cseq.toNat, line, wid)] })

theorem State.markDirty_desk (s : State) (a : Nat) : (s.markDirty a).desk = s.desk := by
  unfold State.markDirty
  split
  · rfl
  · exact State.updSlice_desk s (homeSlice s a).1 (homeSlice s a).2 _

theorem State.writeHome_desk (s : State) (w : HomeWrite) : (s.writeHome w).desk = s.desk := by
  have listed (c : Bool) (u : State) (line wid : Nat) : (if c = true then u.collect line wid else u).desk = u.desk := by
    split
    · exact State.collect_desk ..
    · rfl
  have dirty (u : State) : (if w.owned = true then u else u.markDirty w.addr).prune.desk = u.desk := by
    split
    · rfl
    · exact State.markDirty_desk ..
  unfold State.writeHome
  split
  · rfl
  · dsimp only
    rw [dirty, State.patchOwn_desk]
    exact (listed ..).trans (s.putWrite_desk w)

/-- A unit of the device has reached memory: the turn, the contexts, the device's registers, the order of tasks, and the clusters but for
their slices are the same. -/
structure State.Reached (s t : State) : Prop where
  turn : s.SameTurn t
  desk : t.desk = s.desk

namespace State.Reached

variable {s t u : State}

theorem refl (s : State) : s.Reached s := ⟨.refl s, rfl⟩

theorem trans (first : s.Reached t) (second : t.Reached u) : s.Reached u :=
  ⟨first.turn.trans second.turn, second.desk.trans first.desk⟩

theorem foldl {β : Type} {f : State → β → State} (hf : ∀ (s : State) e, s.Reached (f s e)) (l : List β) (s : State) :
    s.Reached (l.foldl f s) := by
  induction l generalizing s with
  | nil => exact refl s
  | cons e l ih => exact (hf s e).trans (ih _)

/-- A change that keeps the clusters and the order of tasks. -/
theorem of_turn (turn : s.SameTurn t) (clusters : t.clusters = s.clusters) (nextOrd : t.nextOrd = s.nextOrd) : s.Reached t :=
  ⟨turn, Prod.ext nextOrd (congrArg (fun m c => (Sparse.look Cluster.reset m c).beyondSlices) clusters)⟩

theorem of_beside (same : t.beside = s.beside) : s.Reached t := by
  obtain ⟨cores, clusters, cur, nextOrd, dev⟩ : t.cores = s.cores ∧ t.clusters = s.clusters ∧ t.cur = s.cur ∧ t.nextOrd = s.nextOrd ∧
    t.dev = s.dev := by simpa [State.beside] using same
  exact of_turn (.of_rest cores (Prod.ext cur dev)) clusters nextOrd

theorem count (s : State) (ctr unit n : Nat) : s.Reached (s.count ctr unit n) := of_turn ⟨.of_cores rfl, rfl, rfl⟩ rfl rfl

theorem countHole (s : State) (a : Nat) : s.Reached (s.countHole a) := of_turn ⟨.of_cores rfl, rfl, rfl⟩ rfl rfl

theorem setErr (s : State) (a k : Nat) : s.Reached (s.setErr a k) := of_beside rfl
theorem setPoison (s : State) (a : Nat) (b : Bool) : s.Reached (s.setPoison a b) := of_beside rfl
theorem setTag (s : State) (a : Nat) (b : Bool) : s.Reached (s.setTag a b) := of_beside rfl

theorem setBytes (s : State) (a : Nat) (l : List Byte) : s.Reached (s.setBytes a l) := by
  refine of_beside ?_
  induction l generalizing s a with
  | nil => rfl
  | cons b l ih => exact ih _ _

theorem updCore (s : State) (g : Nat) {f : Core → Core} (hf : ∀ c, (f c).ctxs = c.ctxs) : s.Reached (s.updCore g f) :=
  of_turn (.of_seat (.updCore g hf) rfl) rfl rfl

theorem updSlice (s : State) (cl i : Nat) (f : Slice → Slice) : s.Reached (s.updSlice cl i f) := ⟨.of_rest rfl rfl, s.updSlice_desk ..⟩
theorem updSliceOf (s : State) (line : Nat) (f : Slice → Slice) : s.Reached (s.updSliceOf line f) := updSlice ..

theorem recalls (s : State) (line : Nat) : s.Reached (s.recall line) := by
  unfold State.recall
  split
  · exact refl s
  · dsimp only
    split
    · refine .trans (updCore s _ fun c => ?_) (updSliceOf ..)
      rfl
    · exact updCore s _ fun _ => rfl

theorem noteMiss (s : State) (pa : Nat) : s.Reached (s.noteMiss pa) := by
  unfold State.noteMiss
  dsimp only
  split
  · exact refl s
  · exact updSliceOf ..

theorem noteDecode (s : State) (addr pol : Nat) : s.Reached (s.noteDecode addr pol) := by
  obtain same | ⟨i, d, noted⟩ := s.noteDecode_cases addr pol
  · exact same.symm ▸ refl s
  · rw [noted]
    refine .trans ?_ (of_beside (s := s.scaledFor addr i) rfl)
    unfold State.scaledFor
    split
    · exact of_turn ⟨.of_cores rfl, rfl, rfl⟩ rfl rfl
    · exact refl s

/-! ## Errors that a read meets (R68, R431) -/

theorem countBank (s : State) (ctr a : Nat) : s.Reached (s.countBank ctr a) := by
  unfold State.countBank
  split
  · exact count ..
  · exact refl s

theorem fixBank (s : State) (a kind : Nat) : s.Reached (s.fixBank a kind) := by
  unfold State.fixBank
  dsimp only
  split
  · exact (setErr s a 0).trans ((count ..).trans (countBank ..))
  · refine (setErr s a 0).trans ?_
    split
    · exact (setPoison ..).trans ((count ..).trans (countBank ..))
    · refine .trans (.trans (.trans (countBank ..) (.foldl (fun u b => ?_) _ _)) (setBytes ..)) (setTag ..)
      split
      · exact (setErr ..).trans ((count ..).trans (countBank ..))
      · exact refl u

theorem fixDram (s : State) (a kind : Nat) : s.Reached (s.fixDram a kind) := by
  unfold State.fixDram
  dsimp only
  split
  · exact (setErr ..).trans (count ..)
  · exact (setErr ..).trans ((setPoison ..).trans (count ..))

theorem spoil (s : State) (a : Nat) : s.Reached (s.spoil a) := by
  unfold State.spoil
  split
  · exact of_beside rfl
  · exact setPoison ..

theorem fixWord (s : State) (a kind : Nat) : s.Reached (s.fixWord a kind) := by
  unfold State.fixWord
  dsimp only
  split
  · exact fixBank ..
  · split
    · exact (setErr ..).trans (count ..)
    · split
      · exact (setErr ..).trans ((spoil ..).trans (count ..))
      · split
        · exact refl s
        · exact fixDram ..

theorem scrub (s : State) (a n : Nat) : s.Reached (s.scrub a n) := .foldl (fun _ _ => .fixWord ..) _ _
theorem scrubPlane (s : State) (a n : Nat) : s.Reached (s.scrubPlane a n) := .foldl (fun _ _ => .fixDram ..) _ _

theorem scrubRead (s : State) (a n : Nat) : s.Reached (s.scrubRead a n) := by
  unfold State.scrubRead
  split
  · exact scrub ..
  · dsimp only
    split
    · exact (State.Reached.foldl (fun _ _ => .scrubPlane ..) _ _).trans (scrub ..)
    · exact .foldl (fun _ _ => .scrubPlane ..) _ _

theorem noteRead (s : State) (part : Option Nat) (svc : Bool) (a n : Nat) : s.Reached (s.noteRead part svc a n) := by
  unfold State.noteRead
  split
  · exact countHole ..
  · exact scrubRead ..

/-! ## A write at its home (R121) -/

theorem writeHome (s : State) (w : HomeWrite) : s.Reached (s.writeHome w) := ⟨.writeHome s w, s.writeHome_desk w⟩

/-! ## Accesses line by line -/

theorem devLine (s : State) (own : Nat) (rel : Bool) (a : Nat) (bs : List Byte) : s.Reached (s.devLine own rel a bs) :=
  (recalls ..).trans (writeHome ..)

theorem devWrite (s : State) (own : Nat) (rel : Bool) (a : Nat) (bs : List Byte) : s.Reached (s.devWrite own rel a bs) :=
  .foldl (fun _ _ => .devLine ..) _ _

theorem physWrite (s : State) (own : Nat) (rel : Bool) (a : Nat) (bs : List Byte) : s.Reached (s.physWrite own rel a bs) := by
  refine .foldl (fun u e => ?_) _ _
  split
  · exact countHole ..
  · exact devLine ..

theorem devTrace (s : State) (a n : Nat) : s.Reached (s.devTrace a n) := by
  refine .foldl (fun u p => ?_) _ _
  split
  · exact countHole ..
  next h _ =>
    have read : u.Reached ((((u.recall (h / 128)).noteMiss h).noteRead none true h p.2).noteDecode h 4) :=
      (recalls ..).trans ((noteMiss ..).trans ((noteRead ..).trans (noteDecode ..)))
    dsimp only
    split
    · exact read.trans (count ..)
    · exact read

theorem slotTrace (s : State) (w : Twin) (n : Nat) : s.Reached (s.slotTrace w n) := devTrace ..
theorem initSlot (s : State) (cl : Nat) (w : Twin) (n : Nat) : s.Reached (s.initSlot cl w n) := physWrite ..

/-! ## What is then the same -/

section
variable (h : s.Reached t)
include h

theorem nextOrd : t.nextOrd = s.nextOrd := congrArg Prod.fst h.desk
theorem clusters (c : Nat) : (t.cluster c).beyondSlices = (s.cluster c).beyondSlices := congrFun (congrArg Prod.snd h.desk) c
theorem win (c n : Nat) : (t.cluster c).win n = (s.cluster c).win n := by
  show (t.cluster c).beyondSlices.win n = (s.cluster c).beyondSlices.win n
  rw [h.clusters]
theorem queue? (c lid stage : Nat) : (t.cluster c).queue? lid stage = (s.cluster c).queue? lid stage := by
  show (t.cluster c).beyondSlices.queue? lid stage = (s.cluster c).beyondSlices.queue? lid stage
  rw [h.clusters]
theorem deps (c : Nat) : (t.cluster c).deps = (s.cluster c).deps := by
  show (t.cluster c).beyondSlices.deps = (s.cluster c).beyondSlices.deps
  rw [h.clusters]
theorem launch? (lid : Nat) : t.launch? lid = s.launch? lid := State.launch?_of_launches (by rw [h.turn.dev]) lid
theorem enqOrd (idx : Nat) : t.enqOrd idx = s.enqOrd idx := by rw [State.enqOrd, State.enqOrd, h.nextOrd, h.turn.dev]
theorem roomFor (c : Nat) (l : Launch) (stage : Nat) : (t.cluster c).roomFor l stage = (s.cluster c).roomFor l stage := by
  show (t.cluster c).beyondSlices.roomFor l stage = (s.cluster c).beyondSlices.roomFor l stage
  rw [h.clusters]

end

end State.Reached

/-! ## Memory, where no word is in error -/

theorem State.SameHome.noteMiss (s : State) (pa : Nat) : s.SameHome (s.noteMiss pa) := by
  unfold State.noteMiss
  dsimp only
  split
  · exact .refl s
  · exact .updSliceOf ..

theorem State.SameHome.noteRead {s : State} (clean : s.ecc = []) (part : Option Nat) (svc : Bool) (a n : Nat) :
    s.SameHome (s.noteRead part svc a n) := by
  unfold State.noteRead
  split
  · exact .countHole ..
  · rw [State.scrubRead_of_clean clean]
    exact .refl s

/-- A read of the device's own leaves memory and its homes where no word is in error (R431). -/
theorem State.SameHome.devTrace {s : State} (clean : s.ecc = []) (a n : Nat) : s.SameHome (s.devTrace a n) := by
  refine List.foldlRecOn (motive := fun u => s.SameHome u) _ _ (.refl s) fun u home p _ => home.trans ?_
  split
  · exact .countHole ..
  next h _ =>
    have missed : u.SameHome ((u.recall (h / 128)).noteMiss h) := (State.Quiet.recalls u _).home.trans (.noteMiss ..)
    have read := missed.trans (.noteRead (missed.ecc.trans (home.ecc.trans clean)) none true h p.2)
    dsimp only
    split
    · exact (read.trans (State.noteDecode_home ..)).trans (.count ..)
    · exact read.trans (State.noteDecode_home ..)

end Sys2Proof.Machine
end

section
/-! PROOFS. Time windows (R201-R204, R374): `twget`, `twput` and `twadv`. -/

namespace Sys2Proof.Machine

open Sys2Proof

/-! ## The words of a window -/

theorem Twin.word_put_same (w : Twin) (i : Nat) (v : Word) : (w.put i v).word i = v := Sparse.look_put_same ..

theorem Twin.word_put_ne (w : Twin) {i j : Nat} (v : Word) (other : i ≠ j) : (w.put i v).word j = w.word j :=
  (Sparse.look_put ..).trans (if_neg other)

/-! A write of word 0 leaves a window's clock. -/

theorem Twin.put_zero_t0 (w : Twin) (v : Word) : (w.put 0 v).t0 = w.t0 := congrArg BitVec.toNat (w.word_put_ne v (by decide : 0 ≠ 3))
theorem Twin.put_zero_ofs (w : Twin) (v : Word) : (w.put 0 v).ofs = w.ofs := congrArg (bits · 31 0) (w.word_put_ne v (by decide : 0 ≠ 4))
theorem Twin.put_zero_per (w : Twin) (v : Word) : (w.put 0 v).per = w.per := congrArg (bits · 63 32) (w.word_put_ne v (by decide : 0 ≠ 4))

theorem State.cluster_updWin (s : State) (cl n : Nat) (f : Twin → Twin) : (s.updWin cl n f).cluster cl =
    { s.cluster cl with twin := Sparse.put Twin.reset (s.cluster cl).twin n (f ((s.cluster cl).win n)) } := State.cluster_updCluster_same ..

theorem State.win_updWin_same (s : State) (cl n : Nat) (f : Twin → Twin) : ((s.updWin cl n f).cluster cl).win n = f ((s.cluster cl).win n) := by
  rw [State.cluster_updWin]
  exact Sparse.look_put_same ..

theorem State.win_updWin_ne (s : State) (cl : Nat) {n m : Nat} (f : Twin → Twin) (other : m ≠ n) :
    ((s.updWin cl n f).cluster cl).win m = (s.cluster cl).win m := by
  rw [State.cluster_updWin]
  exact (Sparse.look_put ..).trans (if_neg other.symm)

/-- A window as it starts: its dropped counts are zero, and its next slot is that of device time (R204). -/
def Twin.started (w : Twin) (ns : Nat) : Twin := ((w.put 5 0).put 6 0).put 7 (wd ((ns - (w.t0 + w.ofs)) / w.per))

theorem Twin.started_word (w : Twin) (ns : Nat) : (w.started ns).word 0 = w.word 0 ∧ (w.started ns).word 5 = 0 ∧ (w.started ns).word 6 = 0 ∧
    (w.started ns).word 7 = wd ((ns - (w.t0 + w.ofs)) / w.per) := by
  refine ⟨?_, ?_, ?_, ?_⟩
  · rw [Twin.started, Twin.word_put_ne _ _ (by decide), Twin.word_put_ne _ _ (by decide), Twin.word_put_ne _ _ (by decide)]
  · rw [Twin.started, Twin.word_put_ne _ _ (by decide), Twin.word_put_ne _ _ (by decide), Twin.word_put_same]
  · rw [Twin.started, Twin.word_put_ne _ _ (by decide), Twin.word_put_same]
  · rw [Twin.started, Twin.word_put_same]

/-- A window that starts stands with its new words, whatever the writes of its slots' headers come to. -/
theorem State.startWindow_reached (s : State) (cl n : Nat) (w : Twin) :
    (s.updWin cl n (fun _ => w.started s.dev.ns)).Reached (s.startWindow cl n w) := .foldl (fun _ _ => .initSlot ..) _ _

/-! ## Lines that cannot be reached yet -/

/-- What waits for lines leaves everything but the caches. -/
theorem State.devGet_waits {s : State} {rd : Bool} {lines : List Nat} (short : s.devMay rd lines = false) (k : State → Res) :
    ∃ u, (s.devGet rd lines).await s k = .wait u ∧ s.Asked u := by
  have asked : s.Asked (lines.foldl (fun u l => if u.recallOk l then u.recall l else u) s) := by
    refine .foldl (fun u l => ?_) _ _
    split
    · exact .recalls ..
    · exact .refl u
  rw [State.devGet, short]
  dsimp only
  rw [if_neg Bool.false_ne_true]
  split
  · exact ⟨s, rfl, .refl s⟩
  · exact ⟨_, rfl, asked⟩

theorem State.Asked.waits {h : Hdr} {s s1 u : State} {rg : InRegion} {srcs dsts : List Operand} (asked : s1.Asked u)
    (hi : Issues h s rg srcs dsts s1) : u.me.slot = s.me.slot ∧ u.me.x = s.me.x ∧ u.mem = s.mem :=
  ⟨(congrArg Ctx.slot asked.sameTurn.me).trans hi.samePlace.slot, (congrArg Ctx.x asked.sameTurn.me).trans hi.me_x,
    asked.quiet.home.mem.trans hi.mem⟩

/-! ## The end of an instruction that answers in a state of its own -/

/-- An instruction answers in a predicate register, in a state with the same turn. -/
theorem Issues.finished {h : Hdr} {s s1 v : State} {rg : InRegion} {srcs dsts : List Operand} {dst : Operand} {b : Bool} {c : Ctx}
    (hi : Issues h s rg srcs dsts s1) (cur : v.cur = s1.cur) (same : s1.me.SamePlace c) (x : c.x = s1.me.x) :
    let t := (v.setCtx s1.cur (c.writePO dst b)).retire s.cur h
    ((∀ p : Fin 8, dst = .p p → p ≠ 0 → t.me.getP p.val = b) ∧ t.me.x = s.me.x ∧ s.me.Advanced t.me) ∧
      (∀ k, t.cluster k = v.cluster k) ∧ t.mem = v.mem := by
  intro t
  have ctx : (v.setCtx s1.cur (c.writePO dst b)).ctx s.cur = c.writePO dst b := hi.cur ▸ State.ctx_setCtx_same ..
  refine ⟨hi.answers (u := v.setCtx s1.cur (c.writePO dst b)) cur ctx same x, fun k => ?_, State.retire_mem ..⟩
  rw [State.cluster, State.retire_clusters]
  rfl

/-! ## twput (R374) -/

theorem exec_twget (h : Hdr) (o : FmtT) (s : State) : exec (.twget h o) s = execTwget h o s := rfl
theorem exec_twput (h : Hdr) (o : FmtT) (s : State) : exec (.twput h o) s = execTwput h o s := rfl
theorem exec_twadv (h : Hdr) (o : FmtT) (s : State) : exec (.twadv h o) s = execTwadv h o s := rfl

theorem bit_eq_getLsbD (w : Word) (i : Nat) : bit w i = w.getLsbD i := rfl

section
variable {h : Hdr} {o : FmtT} {s s1 : State} (hi : Issues h s .illegal [o.a] [o.d] s1)

/-- The window that an instruction names. -/
def State.winOf (s1 : State) (o : FmtT) : Twin := (s1.cluster (gidCl s1.cur.gid)).win o.sel.toNat

/-- The state in which a `twput` retires with its window changed to `w`. -/
def State.winSet (s1 : State) (o : FmtT) (w : Twin) (b : Bool) : State :=
  (s1.updWin (gidCl s1.cur.gid) o.sel.toNat (fun _ => w)).setCtx s1.cur ((s1.me.readS o.a).2.writePO o.d b)

include hi

theorem twput_foreign (foreign : s1.me.cdom ≠ 0) : exec (.twput h o) s = .next (s1.fault s.cur h 5 0 s.me.slotVal) := by
  rw [exec_twput, execTwput, issue_of_issues hi, if_pos foreign, hi.close_illegal]

variable (own : s1.me.cdom = 0)
include own

theorem twput_refused (word : o.imm ≠ 0) (active : (s1.winOf o).active = true) :
    exec (.twput h o) s = .next (s1.after h (fun c => (c.readS o.a).2.writePO o.d false)) := by
  rw [exec_twput, execTwput, issue_of_issues hi, if_neg (not_not.2 own), ← hi.close_setCtx (fun c => (c.readS o.a).2.writePO o.d false), ← hi.cur]
  refine congrArg (fun r : Res => r.close s1.cur h s1) ((if_neg word).trans (if_pos active))

theorem twput_writes (idle : (o.imm ≠ 0 ∧ (s1.winOf o).active = false) ∨ (o.imm = 0 ∧ (s1.me.readS o.a).1.getLsbD 63 = false)) :
    exec (.twput h o) s = .next ((s1.winSet o ((s1.winOf o).put o.imm.toNat (s1.me.readS o.a).1) true).retire s.cur h) := by
  rw [exec_twput, execTwput, issue_of_issues hi, if_neg (not_not.2 own)]
  rcases idle with ⟨word, idle⟩ | ⟨first, clear⟩
  · exact congrArg (fun r : Res => r.close s.cur h s1) ((if_neg word).trans (if_neg (Bool.eq_false_iff.1 idle)))
  · rw [first]
    exact congrArg (fun r : Res => r.close s.cur h s1) ((if_pos rfl).trans (if_pos (by rw [bit_eq_getLsbD, clear]; rfl)))

section
variable (first : o.imm = 0) (set : (s1.me.readS o.a).1.getLsbD 63 = true)
include first set

theorem twput_clears (wrong : ((s1.winOf o).put 0 (s1.me.readS o.a).1).inRange = false) : exec (.twput h o) s =
    .next ((s1.winSet o ((s1.winOf o).put 0 ((s1.winOf o).word 0 &&& 0x7FFFFFFFFFFFFFFF)) false).retire s.cur h) := by
  rw [exec_twput, execTwput, issue_of_issues hi, if_neg (not_not.2 own)]
  refine congrArg (fun r : Res => r.close s.cur h s1) ((if_pos first).trans ((if_neg ?_).trans (if_pos ?_)))
  · rw [bit_eq_getLsbD, set]
    exact Bool.false_ne_true
  · exact (congrArg (!·) wrong).trans rfl

/-- The lines of the headers that a window's start writes. -/
def State.headLines (s1 : State) (o : FmtT) : List Nat :=
  let w := (s1.winOf o).put 0 (s1.me.readS o.a).1
  ((List.range w.nslot).flatMap (s1.slotLines w)).foldl natIns []

theorem twput_reaches (right : ((s1.winOf o).put 0 (s1.me.readS o.a).1).inRange = true) : exec (.twput h o) s =
    ((s1.devGet false (s1.headLines o)).await s1 (fun u => .done ((u.startWindow (gidCl s1.cur.gid) o.sel.toNat
      ((s1.winOf o).put 0 (s1.me.readS o.a).1)).setCtx s1.cur ((s1.me.readS o.a).2.writePO o.d true)))).close s.cur h s1 := by
  rw [exec_twput, execTwput, issue_of_issues hi, if_neg (not_not.2 own)]
  refine congrArg (fun r : Res => r.close s.cur h s1) ((if_pos first).trans ((if_neg ?_).trans (if_neg ?_)))
  · rw [bit_eq_getLsbD, set]
    exact Bool.false_ne_true
  · exact fun wrong => Bool.false_ne_true ((congrArg (!·) right).symm.trans wrong)

end
end

/-! ## twadv (R374) -/

/-- Whether an agent may free slots of a window: its launch is of the agent's domain, or the agent's domain is 0. -/
def State.frees (s1 : State) (w : Twin) : Bool :=
  decide (s1.me.cdom.toNat = 0) || (match s1.launch? w.lid with | some l => l.dom == s1.me.cdom.toNat | none => false)

theorem State.frees_iff (s1 : State) (w : Twin) :
    s1.frees w = true ↔ s1.me.cdom = 0 ∨ ∃ l, s1.launch? w.lid = some l ∧ l.dom = s1.me.cdom.toNat := by
  have zero : s1.me.cdom.toNat = 0 ↔ s1.me.cdom = 0 := ⟨fun zero => BitVec.eq_of_toNat_eq zero, fun zero => zero ▸ rfl⟩
  unfold State.frees
  rw [Bool.or_eq_true, decide_eq_true_iff, zero]
  cases s1.launch? w.lid <;> simp

section
variable {h : Hdr} {o : FmtT} {s s1 : State} (hi : Issues h s .illegal [o.a] [o.d] s1)

/-- The number of a slot that a `twadv` names. -/
def State.slotNamed (s1 : State) (o : FmtT) : Nat := (s1.me.readS o.a).1.toNat

/-- What a `twadv` waits for: its earlier accesses, as a release at cluster scope, and its fences. -/
def State.advances (s1 : State) : Bool :=
  orderOk s1 s1.cur s1.me.seq (Order.cluster (gidCl s1.cur.gid)) && fencesOk s1 s1.cur s1.me.seq false true

/-- The write of a slot's FREE: word 1 of its header (R202). -/
def State.freeWrite (s1 : State) (o : FmtT) (u : State) (home : Nat) : HomeWrite :=
  ⟨home + 8, toBytes 8 (u.slotWord (s1.winOf o) (s1.slotNamed o) 1 ||| 2).toNat, false, s1.cur.gid, true, true, u.me.obs, false, none, true, none⟩

theorem State.freeWrite_covers (s1 : State) (o : FmtT) (u : State) (home y : Nat) :
    (s1.freeWrite o u home).Covers y ↔ home + 8 ≤ y ∧ y < home + 8 + 8 := by
  rw [HomeWrite.Covers, State.freeWrite, length_toBytes]

/-- The state in which a `twadv` has FREE of a slot written. -/
def State.slotFreed (s1 : State) (o : FmtT) (u : State) (home : Nat) : State :=
  (u.setCtx s1.cur ((s1.me.readS o.a).2.writePO o.d true)).writeHome (s1.freeWrite o u home)

/-- What a `twadv` comes to once it has read the header of the slot. -/
def State.slotVisited (s1 : State) (o : FmtT) (u : State) : Res :=
  match u.partHome ((s1.winOf o).slotAt (s1.slotNamed o)) with
  | none => .done (u.setCtx s1.cur ((s1.me.readS o.a).2.writePO o.d false))
  | some home =>
    if (u.slotWord (s1.winOf o) (s1.slotNamed o) 0).toNat ≠ s1.slotNamed o then
      .done (u.setCtx s1.cur ((s1.me.readS o.a).2.writePO o.d false))
    else .done (s1.slotFreed o u home)

include hi

theorem twadv_refused (refused : (s1.winOf o).nslot = 0 ∨ s1.frees (s1.winOf o) = false ∨ s.dev.ns < (s1.winOf o).tickOf (s1.slotNamed o)) :
    exec (.twadv h o) s = .next (s1.after h (fun c => (c.readS o.a).2.writePO o.d false)) := by
  rw [exec_twadv, execTwadv, issue_of_issues hi, ← hi.close_setCtx (fun c => (c.readS o.a).2.writePO o.d false), ← hi.cur]
  refine congrArg (fun r : Res => r.close s1.cur h s1) (if_pos ?_)
  rw [← hi.dev] at refused
  rw [Bool.or_eq_true, Bool.or_eq_true, decide_eq_true_iff, decide_eq_true_iff, or_assoc]
  exact refused.imp_right (Or.imp_left (fun foreign => congrArg (!·) foreign))

variable (slots : (s1.winOf o).nslot ≠ 0) (mine : s1.frees (s1.winOf o) = true) (past : (s1.winOf o).tickOf (s1.slotNamed o) ≤ s.dev.ns)
include slots mine past

theorem twadv_passes : ¬ (decide ((s1.winOf o).nslot = 0) || !s1.frees (s1.winOf o) ||
    decide (s1.dev.ns < (s1.winOf o).tickOf (s1.slotNamed o))) = true := by
  rw [mine, hi.dev, decide_eq_false slots, decide_eq_false (Nat.not_lt.2 past)]
  exact Bool.false_ne_true

theorem twadv_waits (early : s1.advances = false) : exec (.twadv h o) s = .next s1 := by
  rw [exec_twadv, execTwadv, issue_of_issues hi]
  refine congrArg (fun r : Res => r.close s.cur h s1) ((if_neg (twadv_passes hi slots mine past)).trans (if_pos (c := _) ?_))
  rwa [← Bool.not_and, Bool.not_eq_true']

theorem twadv_reaches (free : s1.advances = true) : exec (.twadv h o) s =
    ((s1.devGet true (s1.slotLines (s1.winOf o) (s1.slotNamed o))).await s1 (fun u => s1.slotVisited o
      (u.slotTrace (s1.winOf o) (s1.slotNamed o)))).close s.cur h s1 := by
  rw [exec_twadv, execTwadv, issue_of_issues hi]
  refine congrArg (fun r : Res => r.close s.cur h s1) ((if_neg (twadv_passes hi slots mine past)).trans ((if_neg (c := _) ?_).trans ?_))
  · rw [← Bool.not_and, Bool.not_eq_true', Bool.not_eq_false]
    exact free
  · rfl

end

section
variable {o : FmtT} {s1 u : State}

theorem slotVisited_other (other : scratchBase ≤ (s1.winOf o).slotAt (s1.slotNamed o) ∨
    u.slotWord (s1.winOf o) (s1.slotNamed o) 0 ≠ (s1.me.readS o.a).1) :
    s1.slotVisited o u = .done (u.setCtx s1.cur ((s1.me.readS o.a).2.writePO o.d false)) := by
  rw [State.slotVisited]
  split
  · rfl
  next home lies =>
    rcases other with high | number
    · rw [State.partHome, if_pos high] at lies
      cases lies
    · exact if_pos fun same => number (BitVec.eq_of_toNat_eq same)

theorem slotVisited_named (low : (s1.winOf o).slotAt (s1.slotNamed o) < scratchBase)
    (number : u.slotWord (s1.winOf o) (s1.slotNamed o) 0 = (s1.me.readS o.a).1) :
    s1.slotVisited o u = .done (s1.slotFreed o u (fwdAddr u ((s1.winOf o).slotAt (s1.slotNamed o)))) := by
  rw [State.slotVisited, State.partHome, if_neg (Nat.not_le.2 low)]
  exact if_neg (not_not.2 (congrArg BitVec.toNat number))

end

/-! ## The words of a header that is written -/

/-- A word whose eight bytes stand at an address. -/
theorem State.word_of_bytes {t : State} {a v : Nat} (stand : ∀ i, i < 8 → t.byte (a + i) = (toBytes 8 v).getD i 0) : t.word a = wd v := by
  have bytes : t.bytes a (toBytes 8 v).length = toBytes 8 v := State.bytes_of_byte (by rwa [length_toBytes])
  rw [length_toBytes] at bytes
  rw [State.word, bytes, wordOf, ofBytes_toBytes]
  exact BitVec.eq_of_toNat_eq (by simp [wd])

theorem State.byte_of_mem {s t : State} (mem : t.mem = s.mem) (y : Nat) : t.byte y = s.byte y := congrArg (fun m => Sparse.look 0 m y) mem

theorem State.word_of_mem {s t : State} (mem : t.mem = s.mem) (a : Nat) : t.word a = s.word a := by
  have bytes (n b : Nat) : t.bytes b n = s.bytes b n := by
    induction n generalizing b with
    | zero => rfl
    | succ n ih => rw [State.bytes, State.bytes, ih, State.byte_of_mem mem]
  rw [State.word, State.word, bytes]

section
variable {o : FmtT} {s1 u : State} (reached : s1.Reached u) (home : Nat)
include reached

omit reached in
theorem State.slotFreed_turn : (u.setCtx s1.cur ((s1.me.readS o.a).2.writePO o.d true)).SameTurn (s1.slotFreed o u home) := .writeHome ..

theorem State.slotFreed_lies (lies : reservedPA s1 none true (home + 8) = false) :
    reservedPA (u.setCtx s1.cur ((s1.me.readS o.a).2.writePO o.d true)) none true (home + 8) = false :=
  (reached.turn.reserved none true (home + 8)).trans lies

theorem State.slotFreed_word (lies : reservedPA s1 none true (home + 8) = false) :
    (s1.slotFreed o u home).word (home + 8) = u.slotWord (s1.winOf o) (s1.slotNamed o) 1 ||| 2 := by
  refine (State.word_of_bytes fun i inside => ?_).trans (by rw [wd, BitVec.ofNat_toNat, BitVec.setWidth_eq])
  have written := (State.writeHome_byte (w := s1.freeWrite o u home) (State.slotFreed_lies (o := o) reached home lies) (home + 8 + i)).1
    ((State.freeWrite_covers ..).2 ⟨Nat.le_add_right .., Nat.add_lt_add_left inside _⟩)
  rw [State.freeWrite, Nat.add_sub_cancel_left] at written
  exact written

omit reached in
theorem State.slotFreed_byte {y : Nat} (out : y < home + 8 ∨ home + 16 ≤ y) : (s1.slotFreed o u home).byte y = u.byte y := by
  refine (State.writeHome_byte_out ?_).trans rfl
  rw [State.freeWrite_covers]
  omega

end

/-! ## What stands as a window instruction has retired -/

section
variable {h : Hdr} {o : FmtT} {s s1 : State} (hi : Issues h s .illegal [o.a] [o.d] s1)
include hi

/-- A window has been set, and no other. -/
theorem State.winSet_ends (w : Twin) (b : Bool) :
    let t := (s1.winSet o w b).retire s.cur h
    ((t.cluster (gidCl s.cur.gid)).win o.sel.toNat = w ∧
      ∀ m, m ≠ o.sel.toNat → (t.cluster (gidCl s.cur.gid)).win m = (s.cluster (gidCl s.cur.gid)).win m) ∧
    (∀ p : Fin 8, o.d = .p p → p ≠ 0 → t.me.getP p.val = b) ∧ t.me.x = s.me.x ∧ s.me.Advanced t.me ∧ t.mem = s.mem := by
  intro t
  obtain ⟨⟨answer, x, advanced⟩, clusters, mem⟩ := hi.finished (v := s1.updWin (gidCl s1.cur.gid) o.sel.toNat (fun _ => w)) (dst := o.d) (b := b) rfl
    (s1.me.samePlace_readS o.a) (Ctx.readS_x ..)
  have cluster : t.cluster (gidCl s.cur.gid) = (s1.updWin (gidCl s.cur.gid) o.sel.toNat (fun _ => w)).cluster (gidCl s.cur.gid) :=
    (clusters _).trans (by rw [hi.cur])
  refine ⟨⟨?_, fun m other => ?_⟩, answer, x, advanced, mem.trans hi.mem⟩
  · rw [cluster, State.win_updWin_same]
  · rw [cluster, State.win_updWin_ne _ _ _ other, hi.cluster]

/-- A window has started. -/
theorem State.startWindow_ends (w : Twin) :
    let t := ((s1.startWindow (gidCl s1.cur.gid) o.sel.toNat w).setCtx s1.cur ((s1.me.readS o.a).2.writePO o.d true)).retire s.cur h
    ((∀ p : Fin 8, o.d = .p p → p ≠ 0 → t.me.getP p.val = true) ∧ t.me.x = s.me.x ∧ s.me.Advanced t.me) ∧
    (t.cluster (gidCl s.cur.gid)).win o.sel.toNat = w.started s.dev.ns := by
  intro t
  have reached := s1.startWindow_reached (gidCl s1.cur.gid) o.sel.toNat w
  obtain ⟨answers, clusters, -⟩ := hi.finished (v := s1.startWindow (gidCl s1.cur.gid) o.sel.toNat w) (dst := o.d) (b := true) reached.turn.cur
    (s1.me.samePlace_readS o.a) (Ctx.readS_x ..)
  refine ⟨answers, ?_⟩
  rw [clusters, reached.win, hi.dev, hi.cur, State.win_updWin_same]

end

section
variable {h : Hdr} {o : FmtT} {s s1 u : State} (hi : Issues h s .illegal [o.a] [o.d] s1) (reached : s1.Reached u)
include hi reached

/-- A `twadv` that writes false retires in the state with the traces of its read. -/
theorem State.slotKept_ends : (Res.done (u.setCtx s1.cur ((s1.me.readS o.a).2.writePO o.d false))).close s.cur h s1 =
    .next (u.after h (fun c => (c.readS o.a).2.writePO o.d false)) := by
  have me : u.ctx s1.cur = s1.me := reached.turn.ctx s1.cur
  rw [State.after, State.self, State.updCtx, reached.turn.cur, me, hi.cur]
  rfl

/-- A slot has been freed. -/
theorem State.slotFreed_ends (home : Nat) :
    let t := (s1.slotFreed o u home).retire s.cur h
    (∀ p : Fin 8, o.d = .p p → p ≠ 0 → t.me.getP p.val = true) ∧ t.me.x = s.me.x ∧ s.me.Advanced t.me := by
  intro t
  have turn := State.slotFreed_turn (o := o) (s1 := s1) (u := u) home
  have ctx : (s1.slotFreed o u home).ctx s.cur = (s1.me.readS o.a).2.writePO o.d true :=
    (turn.ctx s.cur).trans (hi.cur ▸ State.ctx_setCtx_same ..)
  exact hi.answers (u := s1.slotFreed o u home) (turn.cur.trans reached.turn.cur) ctx (s1.me.samePlace_readS o.a) (Ctx.readS_x ..)

end

/-- Settles O49: each instruction by the lemma about what it comes to, in the order of the statement. -/
theorem timeWindowInstructions : Obligations.TimeWindowInstructions := by
  unfold Obligations.TimeWindowInstructions
  intro h o s s1 cl n
  refine ⟨fun hi => ?_, fun hi => ⟨twput_foreign hi, fun own => ?_, ?_⟩⟩
  · rw [exec_twget, execTwget, issue_of_issues hi, hi.close_done, State.myCluster, hi.cur]
  · have winOf : s1.winOf o = (s1.cluster cl).win n := congrArg (fun a : Agent => (s1.cluster (gidCl a.gid)).win n) hi.cur
    rw [← winOf]
    refine ⟨twput_refused hi own, fun idle => ?_, fun first set wrong => ?_, fun first set right short => ?_, fun first set right may => ?_⟩
    · obtain ⟨⟨win, others⟩, ends⟩ := State.winSet_ends hi ((s1.winOf o).put o.imm.toNat (s1.me.readS o.a).1) true
      refine ⟨_, twput_writes hi own idle, ?_, fun i other => ?_, others, ends⟩
      · rw [win, Twin.word_put_same]
      · rw [win, Twin.word_put_ne _ _ other.symm]
    · obtain ⟨⟨win, -⟩, ends⟩ := State.winSet_ends hi ((s1.winOf o).put 0 ((s1.winOf o).word 0 &&& 0x7FFFFFFFFFFFFFFF)) false
      refine ⟨_, twput_clears hi own first set wrong, ?_, fun i other => ?_, ends⟩
      · rw [win, Twin.active, Twin.word_put_same, bit_eq_getLsbD, BitVec.getLsbD_and]
        simp
      · rw [win, Twin.word_put_ne _ _ other.symm]
    · obtain ⟨u, waits, asked⟩ := State.devGet_waits short _
      refine ⟨u, (twput_reaches hi own first set right).trans ?_, asked.waits hi⟩
      exact congrArg (fun r : Res => r.close s.cur h s1) waits
    · have go : s1.devGet false (s1.headLines o) = .go s1 := State.devGet_of_may may
      have starts := twput_reaches hi own first set right
      rw [go] at starts
      obtain ⟨ends, win⟩ := State.startWindow_ends hi ((s1.winOf o).put 0 (s1.me.readS o.a).1)
      obtain ⟨word, dropped, missed, next⟩ := ((s1.winOf o).put 0 (s1.me.readS o.a).1).started_word s.dev.ns
      refine ⟨⟨_, starts, ends⟩, _, starts, ?_, ?_, ?_, ?_⟩
      · rw [win, word, Twin.word_put_same]
      · rw [win, dropped]
      · rw [win, missed]
      · rw [win, next, Twin.put_zero_t0, Twin.put_zero_ofs, Twin.put_zero_per]
        rfl
  · have winOf : (s1.cluster cl).win n = s1.winOf o := congrArg (fun a : Agent => (s1.cluster (gidCl a.gid)).win n) hi.cur.symm
    have advances : (orderOk s1 s.cur s1.me.seq (Order.cluster cl) && fencesOk s1 s.cur s1.me.seq false true) = s1.advances := by
      rw [State.advances, hi.cur]
    rw [winOf, ← s1.frees_iff, advances]
    refine ⟨fun refused => twadv_refused hi (refused.imp_right (Or.imp_left Bool.eq_false_iff.2)), fun slots mine past =>
      ⟨twadv_waits hi slots mine past, fun free short => ?_, fun free may u visits => ?_⟩⟩
    · obtain ⟨u, waits, asked⟩ := State.devGet_waits short _
      refine ⟨u, (twadv_reaches hi slots mine past free).trans ?_, asked.waits hi⟩
      exact congrArg (fun r : Res => r.close s.cur h s1) waits
    · have go : s1.devGet true (s1.slotLines (s1.winOf o) (s1.slotNamed o)) = .go s1 := State.devGet_of_may may
      have reaches := twadv_reaches hi slots mine past free
      rw [go] at reaches
      replace reaches : exec (.twadv h o) s = (s1.slotVisited o u).close s.cur h s1 := visits ▸ reaches
      have reached : s1.Reached u := visits ▸ .slotTrace ..
      refine ⟨fun other => ?_, fun low number => ⟨?_, fun home at' lies => ?_⟩⟩
      · rw [reaches, slotVisited_other other, State.slotKept_ends hi reached]
      · exact ⟨_, reaches.trans (by rw [slotVisited_named low number]; rfl), State.slotFreed_ends hi reached _⟩
      · have place : fwdAddr u ((s1.winOf o).slotAt (s1.slotNamed o)) = home := (reached.turn.fwdAddr _).trans at'.symm
        have memory : ((s1.slotFreed o u home).retire s.cur h).mem = (s1.slotFreed o u home).mem := State.retire_mem ..
        refine ⟨_, reaches.trans (by rw [slotVisited_named low number, place]; rfl), ?_, fun clean y out => ?_⟩
        · rw [State.word_of_mem memory, State.slotFreed_word reached home lies]
          rfl
        · have home := State.SameHome.devTrace (s := s1) (hi.home.ecc.trans clean) ((s1.winOf o).slotAt (s1.slotNamed o)) 16
          rw [State.byte_of_mem memory, State.slotFreed_byte _ out, State.byte_of_mem ((congrArg State.mem visits).trans home.mem), State.byte_of_mem hi.mem]

end Sys2Proof.Machine
end

section
/-! PROOFS. The distributor (R190-R197): its selection, and the binding of what it selects. -/

namespace Sys2Proof.Machine

open Sys2Proof

/-! ## Selection (R191, R192) -/

theorem le_foldl_max {α : Type} (f : α → Nat) (l : List α) (n : Nat) :
    n ≤ l.foldl (fun m e => max m (f e)) n ∧ ∀ e ∈ l, f e ≤ l.foldl (fun m e => max m (f e)) n := by
  induction l generalizing n with
  | nil => exact ⟨Nat.le_refl n, fun _ mem => absurd mem List.not_mem_nil⟩
  | cons a l ih =>
    obtain ⟨start, rest⟩ := ih (max n (f a))
    refine ⟨(Nat.le_max_left ..).trans start, fun e mem => ?_⟩
    rcases List.mem_cons.1 mem with rfl | inside
    · exact (Nat.le_max_right ..).trans start
    · exact rest e inside

/-- The greatest level of a ready head of a cluster. -/
def Cluster.topLevel (k : Cluster) : Nat := k.heads.foldl (fun m e => max m e.1.level) 0

/-- What holds of a selection: its launch and its stage are those of its queue. -/
structure State.Selects (s : State) (top : Nat) (r : Selection) : Prop where
  level : r.level = top
  launch : s.launch? r.q.lid = some r.l
  stage : r.l.stages[r.q.stage]? = some r.st

theorem State.trySelect_selects {s : State} {cl level : Nat} {e : StageQ × QItem} {r : Selection} (tried : s.trySelect cl level e = some r) :
    s.Selects level r := by
  unfold State.trySelect at tried
  split at tried
  · cases tried
  next l launch =>
    split at tried
    · cases tried
    next st stage =>
      obtain ⟨ms, -, rfl⟩ := Option.map_eq_some_iff.1 tried
      exact ⟨rfl, launch, stage⟩

/-- A selection is of the greatest level, whether a mark has moved it or not. -/
theorem State.select_selects {s : State} {cl : Nat} {r : Selection} (selected : s.select cl = some r) : s.Selects (s.cluster cl).topLevel r := by
  unfold State.select at selected
  dsimp only at selected
  split at selected
  · cases selected
  · split at selected
    · cases selected
    · split at selected
      · cases selected
      next first tried =>
        have firstSelects := State.trySelect_selects tried
        split at selected
        · cases selected
          exact firstSelects
        · split at selected
          · cases selected
            exact firstSelects
          · split at selected
            next second tried2 =>
              split at selected
              · cases selected
                exact State.trySelect_selects tried2
              · cases selected
                exact firstSelects
            · cases selected
              exact firstSelects

theorem State.Selects.lid {s : State} {top : Nat} {r : Selection} (selects : s.Selects top r) : r.l.lid = r.q.lid :=
  State.lid_of_launch? selects.launch

/-! ## What the banks of a core and the emptying of its slots keep (R70, R71) -/

section
variable {α : Type} {p : Core → α} (slots : ∀ (c : Core) l, p { c with slots := l } = p c)
include slots

theorem State.mapBank_keeps (s : State) (g slot n : Nat) : s.KeepsCores p (s.mapBank g slot n) :=
  .trans (.of_cores rfl) (.updCore g fun c => slots c _)

theorem State.placeBanks_keeps (s : State) (g n : Nat) : s.KeepsCores p (s.placeBanks g n) := by
  induction n generalizing s with
  | zero => exact .refl s
  | succ n ih =>
    unfold State.placeBanks
    split
    · exact State.KeepsCores.trans (State.mapBank_keeps slots s g _ _) (ih _)
    · exact .refl s

theorem Core.setSlots_keeps (l : List (Nat × Nat)) (c : Core) :
    p (l.foldl (fun c e => c.setSlot e.1 ⟨true, false, false, e.2⟩) c) = p c := by
  induction l generalizing c with
  | nil => rfl
  | cons e l ih => exact (ih _).trans (slots c _)

theorem State.memberBanks_keeps (s : State) (g : Nat) (saved : Option Saved) (bnk : Nat) : s.KeepsCores p (s.memberBanks g saved bnk) := by
  unfold State.memberBanks
  split
  · exact State.placeBanks_keeps slots s g bnk
  · exact .updCore g fun c => Core.setSlots_keeps slots _ c

end

theorem State.placeBanks_dev (s : State) (g n : Nat) : (s.placeBanks g n).dev = s.dev := by
  induction n generalizing s with
  | zero => rfl
  | succ n ih =>
    unfold State.placeBanks
    split
    · exact ih _
    · rfl

theorem State.abandon_task (s : State) (a : Agent) : s.KeepsCores Core.task (s.abandon a) := by
  unfold State.abandon
  split
  · exact .refl s
  · exact (State.KeepsCores.updCtx a _ fun _ _ _ => rfl).trans (.updCore a.gid fun _ => rfl)

theorem State.abandonBank_task (s : State) (cl n : Nat) : s.KeepsCores Core.task (s.abandonBank cl n) := by
  refine .foldl (fun u a => ?_) _ s
  exact State.KeepsCores.trans (u.abandon_task a) (.updCore a.gid fun _ => rfl)

theorem State.freeSlots_task (s : State) (g kind : Nat) : s.KeepsCores Core.task (s.freeSlots g kind) := by
  refine .foldl (fun u i => ?_) _ s
  unfold State.freeSlot
  dsimp only
  split
  · exact .refl u
  · split
    · exact .refl u
    · rw [Option.getD_some]
      refine State.KeepsCores.trans (u.abandonBank_task _ _) (.updCore g fun c => ?_)
      rfl

/-! ## Binding keeps the tasks (R190, R220) -/

/-- The contexts of a task have what was acquired before its binding behind them (R197). -/
def State.allBound (s : State) (g now : Nat) (l : List Nat) : State := l.foldl (fun acc i => acc.updCtx ⟨g, i⟩ (fun c => c.bound (gidCl g) now)) s

theorem State.allBound_keeps {α : Type} {p : Core → α} (hp : ∀ c i x, p (c.setCtx i x) = p c) (s : State) (g now : Nat) (l : List Nat) :
    s.KeepsCores p (s.allBound g now l) := .foldl (fun _ i => .updCtx ⟨g, i⟩ _ hp) l s

theorem Core.setCtxs_task (f : Core → Nat × Ctx → Ctx) (l : List (Nat × Ctx)) (c : Core) :
    (l.foldl (fun c e => c.setCtx e.1 (f c e)) c).task = c.task := by
  induction l generalizing c with
  | nil => rfl
  | cons e l ih => exact ih _

theorem State.bindMember_task (s : State) (code : Cap) (g : Nat) : s.KeepsCores Core.task (s.bindMember code g) := by
  have keeps (dom : BitVec 12) (b : Binding) : s.KeepsCores Core.task (if (s.core g).slotDom = dom then s else s.memberBanks g b.saved b.bnk) := by
    split
    · exact .refl s
    · exact State.memberBanks_keeps (p := Core.task) (fun _ _ => rfl) s g b.saved b.bnk
  unfold State.bindMember
  split
  next t b task binding =>
    dsimp only
    split
    · refine State.KeepsCores.trans (keeps _ b) (.trans (.updCore g fun c => ?_) (.trans (.updCtx _ _ fun _ _ _ => rfl)
        (State.allBound_keeps (fun _ _ _ => rfl) _ g _ _)))
      split <;> rfl
    · refine State.KeepsCores.trans (keeps _ b) (.trans (.updCore g fun c => ?_) (.trans (.updCore g fun c => ?_)
        (State.allBound_keeps (fun _ _ _ => rfl) _ g _ _)))
      · split <;> rfl
      · exact Core.setCtxs_task ..
  · exact .refl s

theorem State.bindMore_task {s t : State} {g : Nat} (bound : s.bindMore g = some t) : s.KeepsCores Core.task t := by
  unfold State.bindMore at bound
  split at bound
  · dsimp only at bound
    split at bound
    · split at bound
      · cases bound
      · cases bound
        exact .foldl (fun u m => u.freeSlots_task m 4) _ s
    · split at bound
      · cases bound
      · split at bound
        · cases bound
        · cases bound
          exact .foldl (fun u m => u.bindMember_task _ m) _ s
  · cases bound

/-! ## The members of a selection hold its task (R192) -/

/-- The task of a selection whose record is no saved task. -/
structure Selection.Fresh (r : Selection) (k : Task) : Prop where
  lid : k.lid = r.l.lid
  stage : k.stage = r.q.stage
  ord : k.ord = r.it.ord
  wid : k.wid = r.it.wid
  members : k.members = r.ms
  level : k.level = r.level
  record : k.record = r.it.record
  popped : k.popped = false

/-- A new task. -/
def Selection.newTask (r : Selection) (j : Nat) (logSlot : Option Nat) : Task :=
  { ord := r.it.ord, lid := r.l.lid, stage := r.q.stage, wid := r.it.wid, dom := r.l.dom, mem := j, cpi := r.st.cpi
    level := r.level, slip := r.it.slip, det := r.l.det, merged := r.st.mrg, members := r.ms, record := r.it.record
    popped := false, halted := false, logSlot := logSlot, sscope := none, reps := 0, pdl := r.l.pdl, hlp := r.st.hlp }

theorem Selection.task_of_new {r : Selection} (new : r.it.saved = []) (j : Nat) (logSlot : Option Nat) : r.task j logSlot = r.newTask j logSlot := by
  rw [Selection.task, new]
  rfl

theorem Selection.task_fresh {r : Selection} (new : r.it.saved = []) (j : Nat) (logSlot : Option Nat) : r.Fresh (r.task j logSlot) := by
  rw [Selection.task_of_new new]
  exact ⟨rfl, rfl, rfl, rfl, rfl, rfl, rfl, rfl⟩

/-- Member `j` of a selection takes its task, and its banks where it is of the task's domain. -/
def State.takeMember (r : Selection) (logs : List Nat) (s : State) (j : Nat) : State :=
  let m := r.ms.getD j 0
  let same := decide ((s.core m).slotDom.toNat = r.l.dom)
  let a1 := s.updCore m (fun c => { c with
    task := some (r.task j logs[j]?)
    binding := some ⟨r.it.saved[j]?, r.st.bnk⟩
    slotDom := if same then c.slotDom else 0xFFF })
  if same then a1.memberBanks m r.it.saved[j]? r.st.bnk else a1

/-- The log slots that a selection takes (R162). -/
def Selection.logs (r : Selection) : List Nat :=
  if r.it.saved.isEmpty && r.st.mrg && decide (r.l.logrec ≠ 0) then r.l.logFree.take r.ms.length else []

/-- The record of a selection has left its queue, and its log slots are taken. -/
def State.recordLeaves (s : State) (cl : Nat) (r : Selection) : State :=
  (s.updCluster cl (fun k =>
    let leave : StageQ → StageQ := fun q0 =>
      let q := q0.facing none
      { q with items := q.items.filter (fun i => i.ord ≠ r.it.ord), past := q.past.filter (fun e => e.1 ≠ r.it.ord + 1) }
    { (k.updQueue r.q.lid r.q.stage leave) with
      lastSel := Sparse.put (0, 0) k.lastSel r.level (r.q.lid, r.q.stage)
      ran := k.ran ++ r.ms.map (fun m => (m, r.level, r.q.lid, r.q.stage))
      marks := k.marks.filter (fun m => !r.ms.contains m.1) })).updLaunch r.l.lid
    (fun l => { l with logFree := l.logFree.filter (fun i => !r.logs.contains i) })

theorem State.commitSelection_eq (s : State) (cl : Nat) (r : Selection) :
    s.commitSelection cl r = (List.range r.ms.length).foldl (State.takeMember r r.logs) (s.recordLeaves cl r) := rfl

theorem State.takeMember_task_same (r : Selection) (logs : List Nat) (s : State) (j : Nat) :
    ((s.takeMember r logs j).core (r.ms.getD j 0)).task = some (r.task j logs[j]?) := by
  unfold State.takeMember
  dsimp only
  split
  · rw [State.memberBanks_keeps (p := Core.task) (fun _ _ => rfl), State.core_updCore_same]
  · rw [State.core_updCore_same]

theorem State.takeMember_task_ne (r : Selection) (logs : List Nat) (s : State) {j m : Nat} (other : r.ms.getD j 0 ≠ m) :
    ((s.takeMember r logs j).core m).task = (s.core m).task := by
  unfold State.takeMember
  dsimp only
  split
  · rw [State.memberBanks_keeps (p := Core.task) (fun _ _ => rfl), State.core_updCore_ne _ _ other]
  · rw [State.core_updCore_ne _ _ other]

/-- What one step of a fold establishes and every step keeps holds at its end. -/
theorem foldl_establishes {α β : Type} {f : β → α → β} {P : β → Prop} {l : List α} {a : α} (mem : a ∈ l) (establishes : ∀ u, P (f u a))
    (keeps : ∀ u b, P u → P (f u b)) (s : β) : P (l.foldl f s) := by
  induction l generalizing s with
  | nil => cases mem
  | cons b l ih =>
    rw [List.foldl_cons]
    rcases List.mem_cons.1 mem with rfl | inside
    · exact List.foldlRecOn (motive := P) l f (establishes s) fun u holds c _ => keeps u c holds
    · exact ih inside _

theorem State.commitSelection_task {s : State} {cl : Nat} {r : Selection} (new : r.it.saved = []) {m : Nat} (member : m ∈ r.ms) :
    ∃ k, ((s.commitSelection cl r).core m).task = some k ∧ r.Fresh k := by
  obtain ⟨j, inside, rfl⟩ := List.getElem_of_mem member
  have named : r.ms.getD j 0 = r.ms[j] := by simp [inside]
  rw [State.commitSelection_eq]
  refine foldl_establishes (P := fun u : State => ∃ k, (u.core r.ms[j]).task = some k ∧ r.Fresh k) (List.mem_range.2 inside) (fun u => ?_)
    (fun u i holds => ?_) _
  · exact ⟨_, named ▸ u.takeMember_task_same r r.logs j, r.task_fresh new ..⟩
  · by_cases own : r.ms.getD i 0 = r.ms[j]
    · exact ⟨_, own ▸ u.takeMember_task_same r r.logs i, r.task_fresh new ..⟩
    · rw [u.takeMember_task_ne r r.logs own]
      exact holds

theorem exec_distributorSelect {s : State} {cl : Nat} (ev : s.ev = .one cl) :
    exec .distributorSelect s = event "DISTRIBUTOR_SELECT" (s.distribute cl) := by
  show execDistributorSelect s = _
  rw [execDistributorSelect, ev]

section
variable {s : State} {cl : Nat} {r : Selection} (ev : s.ev = .one cl) (ready : s.ready (8 + cl) = true) (selected : s.select cl = some r)
include ev ready selected

/-- The distributor's selection stands, and goes on as far as it can be bound. -/
theorem distributorSelect_selects :
    exec .distributorSelect s = .next (((s.commitSelection cl r).bindMore (r.ms.headD 0)).getD (s.commitSelection cl r)) := by
  rw [exec_distributorSelect ev, State.distribute, ready, selected]
  rfl

theorem distributorSelect_tasks (new : r.it.saved = []) : ∃ t, exec .distributorSelect s = .next t ∧
    ∀ m ∈ r.ms, ∃ k, (t.core m).task = some k ∧ r.Fresh k := by
  refine ⟨_, distributorSelect_selects ev ready selected, fun m member => ?_⟩
  obtain ⟨k, task, fresh⟩ := State.commitSelection_task (s := s) (cl := cl) new member
  refine ⟨k, ?_, fresh⟩
  cases bound : (s.commitSelection cl r).bindMore (r.ms.headD 0) with
  | none => exact task
  | some t => exact (State.bindMore_task bound m).trans task

end

/-! ## A new task on one core of its domain (R31, R71, R190, R197) -/

/-- A core as a task is bound to it. -/
def Core.binds (c : Core) (pdl : Nat) : Core :=
  { (c.setSem 255 ⟨0, false⟩) with
    req := false, dlc := BitVec.ofNat 32 pdl, saving := 0, binding := none, conflict := none, faults := [], mrg := none }

/-- A core whose slots are of a domain: one of another domain loses its semaphores and planes. -/
def Core.inDomain (c : Core) (dom : BitVec 12) : Core :=
  if c.slotDom = dom then c else
    { c with slotDom := dom, sems := [], relSig := [], matrix := { c.matrix with planes := [], act := Stat.reset, shd := Stat.reset } }

/-- A member with its slots in the task's domain begins the new task at once. -/
theorem State.bindMember_of_new {u : State} {m bnk : Nat} {t : Task} (task : (u.core m).task = some t)
    (binding : (u.core m).binding = some ⟨none, bnk⟩) (dom : (u.core m).slotDom = BitVec.ofNat 12 t.dom) (code : Cap) :
    u.bindMember code m = ((u.updCore m (fun c => c.binds t.pdl)).updCtx ⟨m, 0⟩ (fun c => c.begin t code)).allBound m u.now
      (List.range (t.hlp + 1) ++ [11, 12]) := by
  have bound : u.updCore m (fun c => (c.inDomain (BitVec.ofNat 12 t.dom)).binds t.pdl) = u.updCore m (fun c => c.binds t.pdl) :=
    congrArg (fun c : Core => u.setCore m (c.binds t.pdl)) (if_pos dom)
  unfold State.bindMember
  rw [task, binding]
  dsimp only
  rw [if_pos dom]
  exact congrArg (fun v : State => (v.updCtx ⟨m, 0⟩ (fun c => c.begin t code)).allBound m u.now (List.range (t.hlp + 1) ++ [11, 12])) bound

/-- What a context shows of the task that has begun on it. -/
def Ctx.beginning (c : Ctx) : Bool × Level × Cap × Nat × Option (BitVec 512) × Bool × BitVec 12 × Word × Sparse Reg :=
  (c.live, c.level, c.pcc, c.slot, c.blk, c.waitTaken, c.cdom, c.twid, c.x)

theorem State.allBound_beginning (s : State) (g now : Nat) (l : List Nat) : s.KeepsCtx Ctx.beginning (s.allBound g now l) :=
  List.foldlRecOn (motive := fun u => s.KeepsCtx Ctx.beginning u) l _ (.refl s) fun _ kept i _ => kept.trans (.updCtx ⟨g, i⟩ fun _ => rfl)

theorem Ctx.begin_beginning (c : Ctx) (t : Task) (code : Cap) : (c.begin t code).beginning =
    (true, if t.dom = 0 then .supervisor else .user, code, 0, none, false, BitVec.ofNat 12 t.dom, t.wid,
      (c.bindDom (BitVec.ofNat 12 t.dom)).x) := by
  have dom : (c.bindDom (BitVec.ofNat 12 t.dom)).cdom = BitVec.ofNat 12 t.dom := by
    unfold Ctx.bindDom
    split <;> rfl
  have shows : (c.begin t code).beginning = (true, if t.dom = 0 then .supervisor else .user, code, 0, none, false,
    (c.bindDom (BitVec.ofNat 12 t.dom)).cdom, t.wid, (c.bindDom (BitVec.ofNat 12 t.dom)).x) := rfl
  rw [shows, dom]

theorem Ctx.bindDom_cleared {c : Ctx} {dom : BitVec 12} (other : c.bankDom ≠ dom) : (c.bindDom dom).x = [] := by
  rw [Ctx.bindDom, if_neg other]

theorem slotDom_eq {d : BitVec 12} {n : Nat} (dom : d.toNat = n) : d = BitVec.ofNat 12 n := by
  rw [← dom, BitVec.ofNat_toNat, BitVec.setWidth_eq]

section
variable {u : State} {m bnk : Nat} {t : Task} (task : (u.core m).task = some t) (binding : (u.core m).binding = some ⟨none, bnk⟩)
  (dom : (u.core m).slotDom.toNat = t.dom)
include task binding dom

theorem State.bindMember_keeps {α : Type} {p : Core → α} (hp : ∀ c i x, p (c.setCtx i x) = p c) (code : Cap) :
    p ((u.bindMember code m).core m) = p ((u.core m).binds t.pdl) := by
  rw [State.bindMember_of_new task binding (slotDom_eq dom), State.allBound_keeps hp, State.KeepsCores.updCtx ⟨m, 0⟩ _ hp, State.core_updCore_same]

theorem State.bindMember_begins (code : Cap) :
    ((u.bindMember code m).ctx ⟨m, 0⟩).beginning = ((u.ctx ⟨m, 0⟩).begin t code).beginning := by
  have kept : (u.updCore m (fun c => c.binds t.pdl)).ctx ⟨m, 0⟩ = u.ctx ⟨m, 0⟩ :=
    State.KeepsCtx.updCore_ctxs (p := id) (f := fun c => c.binds t.pdl) m (fun _ => rfl) ⟨m, 0⟩
  rw [State.bindMember_of_new task binding (slotDom_eq dom), State.allBound_beginning, State.ctx_updCtx_same, kept]

/-- Where the task on a core begins: the first block of its stage (R190). -/
def State.codeOf (s : State) (g : Nat) : Cap := match s.stage? g with | some st => st.code | none => Cap.null

/-- A task of one core of its domain is bound as it is selected (R71). -/
theorem State.bindMore_of_new (alone : t.members = [m]) : u.bindMore m = some (u.bindMember (u.codeOf m) m) := by
  have same : decide ((u.core m).slotDom.toNat ≠ t.dom) = false := decide_eq_false (not_not.2 dom)
  unfold State.bindMore
  rw [task, binding]
  dsimp only
  rw [alone]
  simp only [List.filter_cons, List.filter_nil, List.any_cons, List.any_nil, List.map_cons, List.map_nil, same, binding]
  exact (if_neg (by simp)).trans ((if_neg (by simp)).trans ((if_neg (by simp)).trans rfl))

end

section
variable {s : State} {cl : Nat} {r : Selection} {m : Nat} (new : r.it.saved = []) (alone : r.ms = [m])
  (dom : (s.core m).slotDom.toNat = r.l.dom)
include new alone dom

/-- The one member of a selection holds its task, and its banks. -/
theorem State.commitSelection_member {α : Type} {p : Core → α} (slots : ∀ (c : Core) l, p { c with slots := l } = p c) :
    p ((s.commitSelection cl r).core m) =
      p { s.core m with task := some (r.newTask 0 r.logs[0]?), binding := some ⟨none, r.st.bnk⟩ } := by
  have same : decide (((s.recordLeaves cl r).core m).slotDom.toNat = r.l.dom) = true := decide_eq_true dom
  rw [State.commitSelection_eq, alone]
  show p ((State.takeMember r r.logs (s.recordLeaves cl r) 0).core m) = _
  unfold State.takeMember
  have first : r.ms.getD 0 0 = m := by rw [alone]; rfl
  dsimp only
  rw [first, if_pos same, State.memberBanks_keeps slots, State.core_updCore_same, if_pos same, Selection.task_of_new new, new]
  rfl

theorem State.commitSelection_taken : ((s.commitSelection cl r).core m).task = some (r.newTask 0 r.logs[0]?) ∧
    ((s.commitSelection cl r).core m).binding = some ⟨none, r.st.bnk⟩ ∧ ((s.commitSelection cl r).core m).slotDom.toNat = r.l.dom := by
  refine ⟨?_, ?_, ?_⟩
  · exact State.commitSelection_member new alone dom (p := Core.task) fun _ _ => rfl
  · exact State.commitSelection_member new alone dom (p := Core.binding) fun _ _ => rfl
  · exact (congrArg BitVec.toNat (State.commitSelection_member new alone dom (p := Core.slotDom) fun _ _ => rfl)).trans dom

/-- A selection leaves the contexts as they are. -/
theorem State.commitSelection_ctx (i : Nat) : (s.commitSelection cl r).ctx ⟨m, i⟩ = s.ctx ⟨m, i⟩ :=
  congrArg (fun l => Sparse.look Ctx.reset l i) (State.commitSelection_member new alone dom (p := Core.ctxs) fun _ _ => rfl)

end

theorem State.takeMember_dev {r : Selection} (new : r.it.saved = []) (logs : List Nat) (s : State) (j : Nat) :
    (s.takeMember r logs j).dev = s.dev := by
  unfold State.takeMember
  rw [new]
  dsimp only
  split
  · exact State.placeBanks_dev ..
  · rfl

theorem State.commitSelection_launch? {s : State} {cl : Nat} {r : Selection} (new : r.it.saved = []) (found : s.launch? r.l.lid = some r.l) :
    ∃ l, (s.commitSelection cl r).launch? r.l.lid = some l ∧ l.stages = r.l.stages := by
  have left : (s.recordLeaves cl r).launch? r.l.lid = some { r.l with logFree := r.l.logFree.filter (fun i => !r.logs.contains i) } :=
    State.launch?_updLaunch (f := fun l => { l with logFree := l.logFree.filter (fun i => !r.logs.contains i) }) (fun _ => rfl) found
  have dev : (s.commitSelection cl r).dev = (s.recordLeaves cl r).dev := by
    rw [State.commitSelection_eq]
    exact List.foldlRecOn (motive := fun u : State => u.dev = (s.recordLeaves cl r).dev) _ _ rfl fun u kept j _ => (u.takeMember_dev new r.logs j).trans kept
  exact ⟨_, (State.launch?_of_launches (congrArg Device.launches dev) _).trans left, rfl⟩

section
variable {s : State} {cl : Nat} {r : Selection} {m : Nat} (ev : s.ev = .one cl) (ready : s.ready (8 + cl) = true) (selected : s.select cl = some r)
  (new : r.it.saved = []) (alone : r.ms = [m]) (dom : (s.core m).slotDom.toNat = r.l.dom)
include ev ready selected new alone dom

/-- A new task for one core of its domain is bound in the step of its selection. -/
theorem distributorSelect_binds : exec .distributorSelect s = .next ((s.commitSelection cl r).bindMember r.st.code m) := by
  have selects := State.select_selects selected
  obtain ⟨task, binding, slots⟩ := State.commitSelection_taken (cl := cl) new alone dom
  have code : (s.commitSelection cl r).codeOf m = r.st.code := by
    obtain ⟨l, found, stages⟩ := State.commitSelection_launch? (cl := cl) new (selects.lid ▸ selects.launch)
    have stage : (s.commitSelection cl r).stage? m = some r.st := by
      rw [State.stage?, task]
      exact (congrArg (fun o : Option Launch => o.bind fun l => l.stages[r.q.stage]?) found).trans
        ((congrArg (fun l : List Stage => l[r.q.stage]?) stages).trans selects.stage)
    rw [State.codeOf, stage]
  have first : r.ms.headD 0 = m := by rw [alone]; rfl
  rw [distributorSelect_selects ev ready selected, first, State.bindMore_of_new task binding slots alone, code]
  rfl

theorem distributorSelect_core : ∃ t, exec .distributorSelect s = .next t ∧ (t.core m).binding = none ∧ (t.core m).req = false ∧
    (t.core m).dlc = BitVec.ofNat 32 r.l.pdl ∧ ((t.core m).sem 255).val = 0 ∧
    (t.ctx ⟨m, 0⟩).beginning = ((s.ctx ⟨m, 0⟩).begin (r.newTask 0 r.logs[0]?) r.st.code).beginning := by
  obtain ⟨task, binding, slots⟩ := State.commitSelection_taken (cl := cl) new alone dom
  refine ⟨_, distributorSelect_binds ev ready selected new alone dom, ?_, ?_, ?_, ?_, ?_⟩
  · exact State.bindMember_keeps task binding slots (p := Core.binding) (fun _ _ _ => rfl) _
  · exact State.bindMember_keeps task binding slots (p := Core.req) (fun _ _ _ => rfl) _
  · exact State.bindMember_keeps task binding slots (p := Core.dlc) (fun _ _ _ => rfl) _
  · refine (State.bindMember_keeps task binding slots (p := fun c => (c.sem 255).val) (fun _ _ _ => rfl) _).trans ?_
    exact congrArg Sem.val ((Core.sem_setSem _ 255 ⟨0, false⟩ 255).trans (if_pos rfl))
  · rw [State.bindMember_begins task binding slots, State.commitSelection_ctx new alone dom]

end

theorem Ctx.begins_of_beginning {c d : Ctx} {t : Task} {code : Cap} (begins : d.beginning = (c.begin t code).beginning) :
    d.live = true ∧ d.At code ∧ d.cdom = BitVec.ofNat 12 t.dom ∧ d.level = (if t.dom = 0 then .supervisor else .user) ∧ d.twid = t.wid ∧
      (c.bankDom ≠ BitVec.ofNat 12 t.dom → ∀ n, d.getX n = Reg.zero) := by
  rw [Ctx.begin_beginning] at begins
  simp only [Ctx.beginning, Prod.mk.injEq] at begins
  obtain ⟨live, level, pcc, slot, blk, waitTaken, cdom, twid, x⟩ := begins
  refine ⟨live, ⟨pcc, slot, blk, waitTaken⟩, cdom, level, twid, fun other n => ?_⟩
  rw [Ctx.getX, x, Ctx.bindDom_cleared other]
  exact ite_self Reg.zero

end Sys2Proof.Machine
end

section
/-! PROOFS. Aging, the windows of 1,024 cycles, pre-emption requests and stage-0 tasks (R186, R191, R194, R195, R199). -/

namespace Sys2Proof.Machine

open Sys2Proof

/-! ## Aging (R191) -/

theorem Cluster.key_of_queue? {k : Cluster} {lid stage : Nat} {q : StageQ} (found : k.queue? lid stage = some q) :
    q.lid = lid ∧ q.stage = stage := by
  have key := List.find?_some (p := fun q : StageQ => q.lid == lid && q.stage == stage) found
  rw [Bool.and_eq_true, beq_iff_eq, beq_iff_eq] at key
  exact key

/-- A queue that is replaced by one of its launch and stage. -/
theorem Cluster.queue?_replaced {k : Cluster} {lid stage : Nat} {q q2 : StageQ} (lidKept : q2.lid = lid) (stageKept : q2.stage = stage)
    (found : k.queue? lid stage = some q) : (k.updQueue lid stage (fun _ => q2)).queue? lid stage = some q2 := by
  have only : k.updQueue lid stage (fun _ => q2) =
      k.updQueue lid stage (fun x => if x.lid == lid && x.stage == stage then q2 else x) := by
    unfold Cluster.updQueue
    congr 1
    refine List.map_congr_left fun x _ => ?_
    dsimp only
    split <;> rfl
  have keeps (x : StageQ) : (if x.lid == lid && x.stage == stage then q2 else x).lid = x.lid ∧
      (if x.lid == lid && x.stage == stage then q2 else x).stage = x.stage := by
    split
    next key =>
      rw [Bool.and_eq_true, beq_iff_eq, beq_iff_eq] at key
      exact ⟨lidKept.trans key.1.symm, stageKept.trans key.2.symm⟩
    · exact ⟨rfl, rfl⟩
  rw [only]
  refine (Cluster.queue?_updQueue (f := fun x => if x.lid == lid && x.stage == stage then q2 else x) keeps found).trans ?_
  exact congrArg some (if_pos (List.find?_some (p := fun q : StageQ => q.lid == lid && q.stage == stage) found))

theorem StageQ.facing_keeps (q : StageQ) (h : Option QItem) :
    (q.facing h).lid = q.lid ∧ (q.facing h).stage = q.stage ∧ (q.facing h).items = q.items := by
  unfold StageQ.facing
  dsimp only
  repeat' split
  all_goals exact ⟨rfl, rfl, rfl⟩

theorem Cluster.head_of_items (k : Cluster) {q q2 : StageQ} (items : q2.items = q.items) : k.head q2 = k.head q := by
  rw [Cluster.head, Cluster.head, items]

/-- A queue whose head has aged one level. -/
def StageQ.older (q : StageQ) : StageQ := { q with age := q.age + 1, aged := q.aged - 65536 }

theorem headAging_ages {s : State} {cl lid stage : Nat} {q : StageQ} (ev : s.ev = .three cl lid stage)
    (found : (s.cluster cl).queue? lid stage = some q) (head : ((s.cluster cl).head q).isSome = true)
    (old : 65536 ≤ (q.facing ((s.cluster cl).head q)).aged)
    (low : (q.facing ((s.cluster cl).head q)).base + (q.facing ((s.cluster cl).head q)).age < 22) :
    ∃ t, exec .headAging s = .next t ∧ (t.cluster cl).queue? lid stage = some (q.facing ((s.cluster cl).head q)).older ∧ t.mem = s.mem := by
  obtain ⟨lidKept, stageKept, items⟩ := q.facing_keeps ((s.cluster cl).head q)
  obtain ⟨lidOwn, stageOwn⟩ := Cluster.key_of_queue? found
  have ages : s.age cl lid stage = some (s.updCluster cl (fun k => k.updQueue lid stage
      (fun _ => (q.facing ((s.cluster cl).head q)).older))) := by
    have stays : ((s.cluster cl).head (q.facing ((s.cluster cl).head q))).isNone = false := by
      rw [Cluster.head_of_items _ items, ← Option.not_isSome, head]
      rfl
    rw [State.age, found]
    refine if_neg fun h => ?_
    rcases h with none | young | top
    · exact absurd (stays.symm.trans none) Bool.false_ne_true
    · exact absurd old (Nat.not_le.2 young)
    · exact absurd low (Nat.not_lt.2 top)
  refine ⟨s.updCluster cl (fun k => k.updQueue lid stage (fun _ => (q.facing ((s.cluster cl).head q)).older)), ?_, ?_, rfl⟩
  · show execHeadAging s = _
    rw [execHeadAging, ev]
    exact congrArg (event "HEAD_AGING") ages
  · rw [State.cluster_updCluster_same]
    exact Cluster.queue?_replaced (lidKept.trans lidOwn) (stageKept.trans stageOwn) found

/-! ## The end of a window (R194) -/

/-- A window ends in marks, and what runs begins the next one. -/
def State.windowEnds (s : State) (cl : Nat) : State :=
  s.updCluster cl (fun k => { k with
    marks := if s.dev.fallback then [] else (List.range 24).flatMap (fun lv => s.marksOf (s.cluster cl) lv)
    ran := s.running cl, windows := k.windows + 1 })

theorem rebalance_ends {s : State} {cl : Nat} (ev : s.ev = .one cl) (ended : (s.cluster cl).windows < s.dev.cyc / 1024) :
    ∃ t, exec .rebalance s = .next t ∧ (t.cluster cl).windows = (s.cluster cl).windows + 1 ∧ (t.cluster cl).ran = s.running cl ∧
      (t.cluster cl).queues = (s.cluster cl).queues ∧ (s.dev.fallback = true → (t.cluster cl).marks = []) ∧ t.mem = s.mem := by
  have ends : s.rebalance cl = some (s.windowEnds cl) := if_neg (not_le.2 ended)
  refine ⟨s.windowEnds cl, ?_, ?_, ?_, ?_, fun fallback => ?_, rfl⟩
  · show execRebalance s = _
    rw [execRebalance, ev]
    exact congrArg (event "REBALANCE") ends
  all_goals rw [State.windowEnds, State.cluster_updCluster_same]
  exact if_pos fallback

/-! ## Pre-emption requests (R195) -/

theorem exec_preemptionRequest {s : State} {cl : Nat} (ev : s.ev = .one cl) :
    exec .preemptionRequest s = event "PREEMPTION_REQUEST" (s.preempt cl) := by
  show execPreemptionRequest s = _
  rw [execPreemptionRequest, ev]

theorem preemptionRequest_fallback {s : State} {cl : Nat} (ev : s.ev = .one cl) (fallback : s.dev.fallback = true) :
    exec .preemptionRequest s = .fault (.notEnabled "PREEMPTION_REQUEST") := by
  have noRequest : s.preempt cl = none := if_pos (by rw [fallback, Bool.or_true])
  rw [exec_preemptionRequest ev, noRequest]
  rfl

/-- The lower of two tasks that run, by their levels: the first where they have one level. -/
def lowerTask (acc : Option (Nat × Nat × Nat × Nat)) (r : Nat × Nat × Nat × Nat) : Option (Nat × Nat × Nat × Nat) :=
  match acc with
  | none => some r
  | some b => if r.2.1 < b.2.1 then some r else some b

theorem foldl_lowerTask (l : List (Nat × Nat × Nat × Nat)) (b : Nat × Nat × Nat × Nat) :
    ∃ p ∈ b :: l, l.foldl lowerTask (some b) = some p ∧ ∀ q ∈ b :: l, p.2.1 ≤ q.2.1 := by
  induction l generalizing b with
  | nil => exact ⟨b, List.mem_singleton_self b, rfl, fun q mem => by rw [List.mem_singleton.1 mem]⟩
  | cons r l ih =>
    rw [List.foldl_cons]
    by_cases lower : r.2.1 < b.2.1
    · obtain ⟨p, mem, result, least⟩ := ih r
      refine ⟨p, List.mem_cons_of_mem b mem, (congrArg (l.foldl lowerTask) (if_pos lower)).trans result, fun q among => ?_⟩
      rcases List.mem_cons.1 among with rfl | rest
      · exact (least r List.mem_cons_self).trans lower.le
      · exact least q rest
    · obtain ⟨p, mem, result, least⟩ := ih b
      have skips : p ∈ b :: r :: l := by
        rcases List.mem_cons.1 mem with rfl | rest
        · exact List.mem_cons_self
        · exact List.mem_cons_of_mem b (List.mem_cons_of_mem r rest)
      refine ⟨p, skips, (congrArg (l.foldl lowerTask) (if_neg lower)).trans result, fun q among => ?_⟩
      rcases List.mem_cons.1 among with rfl | rest
      · exact least q List.mem_cons_self
      · rcases List.mem_cons.1 rest with rfl | inside
        · exact (least b List.mem_cons_self).trans (not_lt.1 lower)
        · exact least q (List.mem_cons_of_mem b inside)

theorem foldl_lowerTask_of_least {l : List (Nat × Nat × Nat × Nat)} {r : Nat × Nat × Nat × Nat} (mem : r ∈ l)
    (least : ∀ q ∈ l, r.2.1 ≤ q.2.1) : ∃ p ∈ l, l.foldl lowerTask none = some p ∧ p.2.1 = r.2.1 := by
  cases l with
  | nil => cases mem
  | cons b l =>
    obtain ⟨p, among, result, lowest⟩ := foldl_lowerTask l b
    exact ⟨p, among, result, Nat.le_antisymm (lowest r mem) (least p among)⟩

section
variable {s : State} {cl : Nat} {r : Nat × Nat × Nat × Nat} (ev : s.ev = .one cl) (unasked : (s.cluster cl).request = none)
  (locked : s.dev.fallback = false) (mem : r ∈ s.running cl) (least : ∀ q ∈ s.running cl, r.2.1 ≤ q.2.1)
include unasked locked mem least

theorem State.preempt_asks {e : StageQ × QItem} (head : e ∈ (s.cluster cl).heads) (waited : 1024 ≤ e.1.waited) (above : r.2.1 + 2 ≤ e.1.level) :
    ∃ p ∈ s.running cl, p.2.1 = r.2.1 ∧
      s.preempt cl = some ((s.requestCore p.1).updCluster cl (fun k => { k with request := some p.1 })) := by
  obtain ⟨p, among, low, level⟩ := foldl_lowerTask_of_least mem least
  refine ⟨p, among, level, ?_⟩
  have listed : e.1.level ∈ ((s.cluster cl).heads.filter (fun e => decide (1024 ≤ e.1.waited))).map (fun e => e.1.level) :=
    List.mem_map_of_mem (f := fun e : StageQ × QItem => e.1.level) (List.mem_filter.2 ⟨head, decide_eq_true waited⟩)
  have top := (le_foldl_max (fun n : Nat => n) _ 0).2 _ listed
  have free : ¬ ((s.cluster cl).request.isSome || s.dev.fallback) = true := by
    rw [unasked, locked]
    exact Bool.false_ne_true
  unfold State.preempt
  refine (if_neg free).trans ?_
  dsimp only
  split
  next idle => exact absurd (low.symm.trans idle) (Option.some_ne_none p)
  next q first =>
    obtain rfl : p = q := Option.some.inj (low.symm.trans first)
    refine if_neg fun h => ?_
    rcases h with none | below
    · exact absurd none (List.ne_nil_of_mem listed)
    · exact absurd (above.trans top) (Nat.not_le.2 (level ▸ below))

include ev in
theorem preemptionRequest_asks (waits : ∃ e ∈ (s.cluster cl).heads, 1024 ≤ e.1.waited ∧ r.2.1 + 2 ≤ e.1.level) :
    ∃ t p, exec .preemptionRequest s = .next t ∧ p ∈ s.running cl ∧ p.2.1 = r.2.1 ∧ (t.cluster cl).request = some p.1 ∧
      (t.core p.1).req = true ∧ ((t.core p.1).sem 255).val.toNat = min 0xFFFF (((s.core p.1).sem 255).val.toNat + 1) ∧ t.mem = s.mem := by
  obtain ⟨e, head, waited, above⟩ := waits
  obtain ⟨p, among, level, asks⟩ := State.preempt_asks unasked locked mem least head waited above
  have core : (s.requestCore p.1).core p.1 = { (s.core p.1).addSem 255 1 with req := true } := by
    rw [State.requestCore, State.core_updCore_same, State.addSem, State.core_updCore_same]
  refine ⟨(s.requestCore p.1).updCluster cl (fun k => { k with request := some p.1 }), p, ?_, among, level, ?_, ?_, ?_, rfl⟩
  · rw [exec_preemptionRequest ev, asks]
    rfl
  · rw [State.cluster_updCluster_same]
  · exact congrArg Core.req core
  · exact (congrArg (fun c : Core => (c.sem 255).val.toNat) core).trans (Core.sem_addSem_same (s.core p.1) 255 1).1

end

/-! ## Stage-0 tasks (R186) -/

/-- A launch of whose stage-0 tasks a cluster has had one more. -/
def Launch.gave (cl : Nat) (l : Launch) : Launch := { l with given := Sparse.put 0 l.given cl (Sparse.look 0 l.given cl + 1) }

theorem Stage.emptyRecord_eq (st : Stage) : st.emptyRecord = List.replicate st.rsz 0 := by
  rw [Stage.emptyRecord, List.map_const', List.length_range]

section
variable {s : State} {cl lid p : Nat} {l : Launch} {st : Stage} {rest : List Stage} (found : s.launch? lid = some l) (runs : l.code = 0)
  (gang : l.gangState = 0 ∨ l.gangState = 3) (stages : l.stages = st :: rest) (room : (s.cluster cl).roomFor l 0 = true)
  (place : p = l.clm.findIdx (fun c => c == cl)) (inside : p < l.clm.length)
  (left : p + Sparse.look 0 l.given cl * l.clm.length < l.count)
include found runs gang stages room place inside left

theorem State.stage0_enqueues : s.stage0 cl lid = some ((s.enqueue cl l 0 256
    (l.wbase + wd (p + Sparse.look 0 l.given cl * l.clm.length)) (List.replicate st.rsz 0) false).updLaunch lid (Launch.gave cl)) := by
  subst place
  unfold State.stage0
  rw [found]
  dsimp only
  rw [if_neg, stages]
  · exact congrArg (fun record : List Byte => some ((s.enqueue cl l 0 256 _ record false).updLaunch lid _)) st.emptyRecord_eq
  · rintro (outside | given | ended | waits | full)
    · omega
    · omega
    · exact ended runs
    · rcases gang with none | all
      · rw [none] at waits
        cases waits
      · rw [all] at waits
        cases waits
    · rw [room] at full
      cases full

/-- A cluster enqueues the next of its share. -/
theorem stage0Enqueue_enqueues {q : StageQ} (ev : s.ev = .two cl lid) (queue : (s.cluster cl).queue? lid 0 = some q) :
    ∃ t, exec .stage0Enqueue s = .next t ∧
      (t.cluster cl).queue? lid 0 = some { q with items := insBy (fun i => i.ord) ⟨s.enqOrd 256,
        l.wbase + BitVec.ofNat 64 (p + Sparse.look 0 l.given cl * l.clm.length), List.replicate st.rsz 0, false, []⟩ q.items } ∧
      (t.cluster cl).deps = (s.cluster cl).deps ++ templateRegions l st (s.enqOrd 256)
        (l.wbase + BitVec.ofNat 64 (p + Sparse.look 0 l.given cl * l.clm.length)) ∧
      (∃ l2, t.launch? lid = some l2 ∧ Sparse.look 0 l2.given cl = Sparse.look 0 l.given cl + 1) ∧ t.mem = s.mem := by
  have named : l.stages[0]? = some st := by
    rw [stages]
    rfl
  have own : l.lid = lid := State.lid_of_launch? found
  subst own
  refine ⟨(s.enqueue cl l 0 256 (l.wbase + wd (p + Sparse.look 0 l.given cl * l.clm.length)) (List.replicate st.rsz 0) false).updLaunch l.lid
    (Launch.gave cl), ?_, State.enqueue_queue? named s cl 256 _ _ false queue, State.enqueue_deps named s cl 256 _ _ false, ⟨l.gave cl, ?_, ?_⟩, ?_⟩
  · show execStage0Enqueue s = _
    rw [execStage0Enqueue, ev]
    exact congrArg (event "STAGE0_ENQUEUE") (State.stage0_enqueues found runs gang stages room place inside left)
  · refine State.launch?_updLaunch (f := Launch.gave cl) (fun _ => rfl) ?_
    exact (State.launch?_of_launches (congrArg Device.launches (State.enqueue_dev ..)) _).trans found
  · exact Sparse.look_put_same 0 l.given cl (Sparse.look 0 l.given cl + 1)
  · exact State.enqueue_mem ..

end

end Sys2Proof.Machine
end

section
/-! PROOFS. The end of a task (R186, R189, R200). -/

namespace Sys2Proof.Machine

open Sys2Proof

/-! ## A core that becomes idle (R190) -/

theorem Core.idle_ctxs (c : Core) : ∀ e ∈ c.idle.ctxs, e.2.live = false := by
  intro e mem
  obtain ⟨e0, -, rfl⟩ := List.mem_map.1 mem
  rfl

/-- Cores that become idle. -/
def State.idled (s : State) (ms : List Nat) : State := ms.foldl (fun acc m => acc.updCore m Core.idle) s

theorem State.idled_cores (s : State) (ms : List Nat) : s.OnlyCores (s.idled ms) := .foldl (fun u m => State.OnlyCores.updCore u m Core.idle) ms s

theorem State.idled_core {ms : List Nat} {m : Nat} (member : m ∈ ms) (s : State) : ∃ c, (s.idled ms).core m = Core.idle c := by
  refine foldl_establishes (P := fun u : State => ∃ c, u.core m = Core.idle c) member (fun u => ⟨_, State.core_updCore_same ..⟩) (fun u n idle => ?_) s
  by_cases own : n = m
  · subst own
    exact ⟨_, State.core_updCore_same ..⟩
  · rw [State.core_updCore_ne _ _ own]
    exact idle

/-! ## The work that a cluster steals changes no core and no launch (R200) -/

theorem State.stealFor_keeps (s : State) (l : Launch) (cl : Nat) :
    (s.stealFor l cl).cores = s.cores ∧ (s.stealFor l cl).dev = s.dev ∧ (s.stealFor l cl).mem = s.mem := by
  unfold State.stealFor
  dsimp only
  repeat' split
  all_goals exact ⟨rfl, rfl, rfl⟩

/-! ## The launch counts the end (R186) -/

/-- A launch of which a task has ended, with the writes that STATUS waits for and the log slots that the task held. -/
def Launch.taskEnded (obs slots : List Nat) (l : Launch) : Launch :=
  { l with
    alive := l.alive - 1, ended := l.ended + 1, waits := l.waits ++ obs, written := false
    code := if l.alive ≤ 1 ∧ l.code = 0 then 1 else l.code
    logFree := slots.foldl natIns l.logFree }

/-- The writes of a task that may still have an invalidation in flight as it ends. -/
def State.taskObs (s : State) (t : Task) : List Nat :=
  t.members.flatMap (fun m => coreObs (s.core m)) ++
    (s.recs.filter (fun r => t.members.contains r.gid && r.eng.isSome && s.anyInFlight r.wid)).map (fun r => r.wid)

/-- The log slots of a task. -/
def State.taskSlots (s : State) (t : Task) : List Nat := t.members.filterMap (fun m => ((s.core m).task).bind (fun u => u.logSlot))

/-- The launch of a task as it counts its end. -/
def State.countsEnd (s : State) (t : Task) : Launch → Launch := Launch.taskEnded (s.taskObs t) (s.taskSlots t)

/-- The cores of a task are idle, its cluster has nothing more of it, and its launch has counted it. -/
def State.taskLeaves (s : State) (g : Nat) (t : Task) : State :=
  ({ s.idled t.members with arrivals := (s.idled t.members).arrivals.filter (fun r => !t.members.contains r.agent.gid) }.updCluster (gidCl g)
    (fun k => { k with
      deps := k.deps.filter (fun r => r.ord ≠ t.ord)
      request := match k.request with
        | none => none
        | some c => if t.members.contains c then none else some c })).updLaunch t.lid (s.countsEnd t)

section
variable {s : State} {g : Nat} {t : Task} {l : Launch} (task : (s.core g).task = some t) (found : s.launch? t.lid = some l)
include found

theorem State.taskLeaves_launch? : (s.taskLeaves g t).launch? t.lid = some (s.countsEnd t l) := by
  refine State.launch?_updLaunch (f := s.countsEnd t) (fun _ => rfl) ?_
  exact (State.launch?_of_launches (congrArg Device.launches (s.idled_cores t.members).dev) t.lid).trans found

include task

/-- A task that ends leaves its cores idle and its launch with one task more ended. -/
theorem State.endTask_leaves : ∃ l2, (s.endTask g).cores = (s.idled t.members).cores ∧ (s.endTask g).mem = s.mem ∧
    (s.endTask g).launch? t.lid = some l2 ∧ (l2 = s.countsEnd t l ∨ l2 = (s.countsEnd t l).emptied) := by
  have leaves := State.taskLeaves_launch? (g := g) found
  have mem := (s.idled_cores t.members).mem
  unfold State.endTask
  rw [task]
  dsimp only
  split
  next gone => exact absurd (leaves.symm.trans gone) (Option.some_ne_none _)
  next l2 counts =>
    obtain rfl : s.countsEnd t l = l2 := Option.some.inj (leaves.symm.trans counts)
    split
    · exact ⟨_, State.returnStorage_cores .., (State.returnStorage_mem ..).trans mem, State.launch?_returnStorage leaves, .inr rfl⟩
    · obtain ⟨coresKept, devKept, memKept⟩ := State.stealFor_keeps (s.taskLeaves g t) (s.countsEnd t l) (gidCl g)
      exact ⟨_, coresKept, memKept.trans mem, (State.launch?_of_launches (congrArg Device.launches devKept) t.lid).trans leaves, .inl rfl⟩

end

/-! ## The end of a task (R189) -/

theorem State.exitSignal_keeps (s : State) (g : Nat) : s.OnlyCores (s.exitSignal g) := by
  unfold State.exitSignal State.signal
  dsimp only
  split
  · split
    · exact .refl s
    · exact State.OnlyCores.updCore s g _
  · exact .refl s

theorem State.exitSignal_task (s : State) (g : Nat) : s.KeepsCores Core.task (s.exitSignal g) := by
  unfold State.exitSignal State.signal
  dsimp only
  split
  · split
    · exact .refl s
    · exact .updCore g fun _ => rfl
  · exact .refl s

theorem taskEnd_ends {s : State} {g : Nat} {k : Task} {l : Launch} (ev : s.ev = .one g) (task : (s.core g).task = some k) (member : g ∈ k.members)
    (ended : ∀ m ∈ k.members, s.memberOver m = true) (found : s.launch? k.lid = some l) :
    ∃ t l2, exec .taskEnd s = .next t ∧ (∀ m ∈ k.members, (t.core m).task = none ∧ (∀ c ∈ (t.core m).ctxs, c.2.live = false)) ∧
      t.launch? k.lid = some l2 ∧ l2.ended = l.ended + 1 ∧ l2.alive = l.alive - 1 ∧
      l2.code = (if l.alive ≤ 1 ∧ l.code = 0 then 1 else l.code) ∧ t.mem = s.mem := by
  have only : s.OnlyCores (k.members.foldl State.exitSignal s) := .foldl State.exitSignal_keeps k.members s
  have taskKept : s.KeepsCores Core.task (k.members.foldl State.exitSignal s) := .foldl State.exitSignal_task k.members s
  obtain ⟨l2, cores, mem, counts, same⟩ := State.endTask_leaves ((taskKept g).trans task)
    ((State.launch?_of_launches (congrArg Device.launches only.dev) k.lid).trans found)
  have ends : s.taskOver g = some ((k.members.foldl State.exitSignal s).endTask g) := by
    rw [State.taskOver, task]
    exact if_pos (by simpa [member] using ended)
  refine ⟨(k.members.foldl State.exitSignal s).endTask g, l2, ?_, fun m inside => ?_, counts, ?_, ?_, ?_, mem.trans only.mem⟩
  · show execTaskEnd s = _
    rw [execTaskEnd, ev]
    exact congrArg (event "TASK_END") ends
  · obtain ⟨c, idle⟩ := State.idled_core inside (k.members.foldl State.exitSignal s)
    have core : ((k.members.foldl State.exitSignal s).endTask g).core m = c.idle :=
      (congrArg (fun l : Sparse Core => Sparse.look Core.reset l m) cores).trans idle
    rw [core]
    exact ⟨rfl, c.idle_ctxs⟩
  all_goals rcases same with rfl | rfl <;> rfl

end Sys2Proof.Machine
end

section
/-! PROOFS. The write of STATUS (R186), and the obligation about the distributor's events. -/

namespace Sys2Proof.Machine

open Sys2Proof

/-! ## Writes within one line -/

theorem splitLines_nil (n addr : Nat) : splitLines n addr [] = [] := by
  cases n <;> rfl

/-- Bytes that lie within one line are one part. -/
theorem splitLines_of_one {addr : Nat} {bs : List Byte} (nonempty : bs ≠ []) (within : addr % 128 + bs.length ≤ 128) (n : Nat) :
    splitLines (n + 1) addr bs = [(addr, bs)] := by
  have all : bs.length ≤ 128 - addr % 128 := by omega
  rw [splitLines, if_neg (by simpa using nonempty)]
  dsimp only
  rw [List.take_of_length_le all, List.drop_of_length_le all, splitLines_nil]

theorem State.devWrite_of_one {s : State} {own addr : Nat} {rel : Bool} {bs : List Byte} (nonempty : bs ≠ [])
    (within : addr % 128 + bs.length ≤ 128) : s.devWrite own rel addr bs = s.devLine own rel (fwdAddr s addr) bs := by
  rw [State.devWrite, splitLines_of_one nonempty within]
  rfl

/-- A line that a unit of the device writes where memory lies. -/
theorem State.devLine_byte {s : State} {own addr : Nat} {rel : Bool} {bs : List Byte} (lies : reservedPA s none true addr = false) :
    (∀ i, i < bs.length → (s.devLine own rel addr bs).byte (addr + i) = bs.getD i 0) ∧
      ∀ y, (y < addr ∨ addr + bs.length ≤ y) → (s.devLine own rel addr bs).byte y = s.byte y := by
  have home := (State.Quiet.recalls s (addr / 128)).home
  have written := State.writeHome_byte (s := s.recall (addr / 128)) (w := ⟨addr, bs, false, own, true, rel, [], false, none, true, none⟩)
    ((home.reserved none true addr).trans lies)
  refine ⟨fun i inside => ?_, fun y out => ?_⟩
  · refine ((written (addr + i)).1 ⟨Nat.le_add_right .., Nat.add_lt_add_left inside _⟩).trans ?_
    rw [Nat.add_sub_cancel_left]
  · refine ((written y).2 fun covers => ?_).trans (State.byte_of_mem home.mem y)
    obtain ⟨low, high⟩ := covers
    exact out.elim (Nat.not_lt.2 low) (Nat.not_le.2 high)

theorem State.devGet_go {s u : State} {rd : Bool} {lines : List Nat} (go : s.devGet rd lines = .go u) : u = s := by
  unfold State.devGet at go
  dsimp only at go
  split at go
  · exact (Ask.go.inj go).symm
  · split at go <;> cases go

/-! ## The write of STATUS (R186) -/

/-- A launch whose STATUS counts every task that has ended. -/
def Launch.statusWritten (l : Launch) : Launch := { l with counted := l.ended, waits := [], written := true }

/-- The state in which STATUS of a launch is written. -/
def State.withStatus (s : State) (lid : Nat) (l : Launch) : State :=
  (s.devWrite devUnit true l.statusAt (toBytes 8 (statusOf l.ended lid l.mc l.code).toNat)).updLaunch lid Launch.statusWritten

section
variable {s : State} {lid : Nat} {l : Launch} (found : s.launch? lid = some l)
include found

theorem State.withStatus_launch? : (s.withStatus lid l).launch? lid = some l.statusWritten :=
  State.launch?_updLaunch (f := Launch.statusWritten) (fun _ => rfl)
    (((State.Reached.devWrite s devUnit true l.statusAt (toBytes 8 (statusOf l.ended lid l.mc l.code).toNat)).launch? lid).trans found)

omit found in
theorem State.withStatus_byte (aligned : l.statusAt % 8 = 0) (lies : reservedPA s none true (fwdAddr s l.statusAt) = false) :
    (s.withStatus lid l).word (fwdAddr s l.statusAt) = statusOf l.ended lid l.mc l.code ∧
      ∀ y, (y < fwdAddr s l.statusAt ∨ fwdAddr s l.statusAt + 8 ≤ y) → (s.withStatus lid l).byte y = s.byte y := by
  have size : (toBytes 8 (statusOf l.ended lid l.mc l.code).toNat).length = 8 := length_toBytes ..
  have mem : (s.devWrite devUnit true l.statusAt (toBytes 8 (statusOf l.ended lid l.mc l.code).toNat)).mem =
      (s.devLine devUnit true (fwdAddr s l.statusAt) (toBytes 8 (statusOf l.ended lid l.mc l.code).toNat)).mem :=
    congrArg State.mem (State.devWrite_of_one (addr := l.statusAt) (List.ne_nil_of_length_eq_add_one size) (by omega))
  obtain ⟨written, out⟩ := State.devLine_byte (own := devUnit) (rel := true) (bs := toBytes 8 (statusOf l.ended lid l.mc l.code).toNat) lies
  rw [size] at written out
  refine ⟨?_, fun y outside => (State.byte_of_mem (t := s.withStatus lid l) mem y).trans (out y outside)⟩
  refine (State.word_of_bytes fun i inside => (State.byte_of_mem (t := s.withStatus lid l) mem _).trans (written i inside)).trans ?_
  rw [wd, BitVec.ofNat_toNat, BitVec.setWidth_eq]

theorem State.statusWrite_asks (first : l.first = true) (due : l.written = false ∨ l.counted < l.ended)
    (performed : ∀ w ∈ l.waits, s.anyInFlight w = false) (place : l.statusAt ≠ 0) :
    s.statusWrite lid = (s.devGet false (s.devLines l.statusAt 8)).andThen (fun u => u.withStatus lid l) := by
  have waits : l.waits.any s.anyInFlight = false := by
    rw [List.any_eq_false]
    exact fun w mem => by rw [performed w mem]; exact Bool.false_ne_true
  have late : (l.written && decide (l.ended ≤ l.counted)) = false := by
    rcases due with unwritten | more
    · rw [unwritten, Bool.false_and]
    · rw [decide_eq_false (Nat.not_le.2 more), Bool.and_false]
  unfold State.statusWrite
  rw [found]
  dsimp only
  rw [first, late, waits, decide_eq_false place]
  rfl

/-- STATUS is written again once its line can be reached. -/
theorem launchStatusWrite_writes (ev : s.ev = .one lid) (first : l.first = true) (due : l.written = false ∨ l.counted < l.ended)
    (performed : ∀ w ∈ l.waits, s.anyInFlight w = false) (place : l.statusAt ≠ 0) :
    (s.devGet false (s.devLines l.statusAt 8) = .no → exec .launchStatusWrite s = .fault (.notEnabled "LAUNCH_STATUS_WRITE")) ∧
    (∀ u, s.devGet false (s.devLines l.statusAt 8) = .wait u → exec .launchStatusWrite s = .next u) ∧
    (∀ u, s.devGet false (s.devLines l.statusAt 8) = .go u → exec .launchStatusWrite s = .next (s.withStatus lid l)) := by
  obtain ⟨goes, waits, refused⟩ := event_asks (name := "LAUNCH_STATUS_WRITE") (State.statusWrite_asks found first due performed place)
  have runs : exec .launchStatusWrite s = event "LAUNCH_STATUS_WRITE" (s.statusWrite lid) := by
    show execLaunchStatusWrite s = _
    rw [execLaunchStatusWrite, ev]
  rw [runs]
  exact ⟨refused, waits, fun u go => (goes u go).trans (by rw [State.devGet_go go])⟩

end

/-- Settles O54: the selection is of the greatest level and its members take its task, which on one core of its domain begins at once; then
each of the distributor's events by the rule of the operation that it makes. -/
theorem schedulerEvents : Obligations.SchedulerEvents := by
  unfold Obligations.SchedulerEvents
  intro s
  refine ⟨?_, ?_, ?_, ?_, ?_, ?_, ?_, ?_⟩
  · intro cl r ev ready selected
    have selects := State.select_selects selected
    refine ⟨fun e head => ?_, fun new => ?_, fun m new alone _ dom _ => ?_⟩
    · rw [selects.level]
      exact (le_foldl_max (fun e : StageQ × QItem => e.1.level) _ 0).2 e head
    · obtain ⟨t, runs, tasks⟩ := distributorSelect_tasks ev ready selected new
      refine ⟨t, runs, fun m member => ?_⟩
      obtain ⟨k, task, fresh⟩ := tasks m member
      exact ⟨k, task, fresh.lid, fresh.stage, fresh.ord, fresh.wid, fresh.members, fresh.level, fresh.record, fresh.popped⟩
    · obtain ⟨t, runs, binding, req, dlc, sem, begins⟩ := distributorSelect_core ev ready selected new alone dom
      exact ⟨t, runs, binding, req, dlc, sem, Ctx.begins_of_beginning begins⟩
  · intro cl lid stage q0 q ev found head facing old low
    subst facing
    exact headAging_ages ev found head old low
  · exact fun cl ev ended => rebalance_ends ev ended
  · exact fun cl ev fallback => preemptionRequest_fallback ev fallback
  · exact fun cl r ev unasked locked mem least waits => preemptionRequest_asks ev unasked locked mem least waits
  · exact fun cl lid l st rest q ev found runs gang stages room queue p place inside left =>
      stage0Enqueue_enqueues found runs gang stages room place inside left ev queue
  · exact fun g k l ev task member ended found => taskEnd_ends ev task member ended found
  · intro lid l ev found first due performed place q asks
    obtain ⟨refused, waits, goes⟩ := launchStatusWrite_writes found ev first due performed place
    subst asks
    exact ⟨refused, waits, fun u go => ⟨_, _, goes u go, State.withStatus_launch? found, rfl, rfl, rfl,
      fun aligned lies => State.withStatus_byte aligned lies⟩⟩

end Sys2Proof.Machine
end

section
/-! PROOFS. Gangs (R198, R199): acknowledgements, the start, and the cancels. -/

namespace Sys2Proof.Machine

open Sys2Proof

/-! ## Acknowledgements (R198) -/

/-- A launch with the acknowledgements that it has had; with all of them the gang is armed. -/
def Launch.acknowledged (acks cacks : List Nat) (l : Launch) : Launch :=
  { l with
    acks := acks, cacks := cacks
    gangState := if l.peers.all (fun p => acks.contains p) && l.clm.all (fun k => cacks.contains k) then 2 else 1 }

theorem Launch.acknowledged_armed {acks cacks : List Nat} {l : Launch} (all : (∀ p ∈ l.peers, p ∈ acks) ∧ (∀ c ∈ l.clm, c ∈ cacks)) :
    (l.acknowledged acks cacks).gangState = 2 := if_pos (by simpa using all)

theorem Launch.acknowledged_waits {acks cacks : List Nat} {l : Launch} (missing : ¬ ((∀ p ∈ l.peers, p ∈ acks) ∧ (∀ c ∈ l.clm, c ∈ cacks))) :
    (l.acknowledged acks cacks).gangState = 1 := if_neg (by simpa using missing)

theorem exec_gangAcknowledge {s : State} {lid m : Nat} (ev : s.ev = .two lid m) :
    exec .gangAcknowledge s = event "GANG_ACKNOWLEDGE" (s.gangAck lid m) := by
  show execGangAcknowledge s = _
  rw [execGangAcknowledge, ev]

section
variable {s : State} {lid : Nat} {l : Launch} (found : s.launch? lid = some l) (gathers : l.gangState = 1)
  (soon : s.dev.ns + l.gmarg < l.gtick)
include found gathers soon

theorem State.gangAck_peer {peer : Nat} (device : peer < 16) (named : peer ∈ l.peers) (new : peer ∉ l.acks) :
    s.gangAck lid peer = some (s.updLaunch lid (fun x => { x with
      acks := natIns l.acks peer, cacks := l.cacks, gangState := (l.acknowledged (natIns l.acks peer) l.cacks).gangState })) := by
  unfold State.gangAck
  rw [found]
  dsimp only
  rw [if_neg, if_neg, if_neg]
  · rw [if_pos device, if_pos device]
    rfl
  · omega
  · simp [named, new]
  · simp [gathers, Nat.not_le.2 soon]

theorem State.gangAck_cluster {c : Nat} (named : c ∈ l.clm) (new : c ∉ l.cacks) (places : s.clusterPlace l c = true) :
    s.gangAck lid (16 + c) = some (s.updLaunch lid (fun x => { x with
      acks := l.acks, cacks := natIns l.cacks c, gangState := (l.acknowledged l.acks (natIns l.cacks c)).gangState })) := by
  have cluster : ¬ 16 + c < 16 := Nat.not_lt.2 (Nat.le_add_right ..)
  unfold State.gangAck
  rw [found]
  dsimp only
  rw [Nat.add_sub_cancel_left, if_neg, if_neg, if_neg]
  · rw [if_neg cluster, if_neg cluster]
    rfl
  · simp [named, new, places]
  · simp [cluster]
  · simp [gathers, Nat.not_le.2 soon]

theorem State.gangAck_unplaced {c : Nat} (full : s.clusterPlace l c = false) : s.gangAck lid (16 + c) = none := by
  unfold State.gangAck
  rw [found]
  dsimp only
  rw [Nat.add_sub_cancel_left, if_neg, if_neg, if_pos]
  · exact ⟨Nat.le_add_right .., .inr (.inr (by simp [full]))⟩
  · omega
  · simp [gathers, Nat.not_le.2 soon]

end

/-- What holds of a gang that has had one more acknowledgement. -/
theorem gangAcknowledge_joins {s : State} {lid m : Nat} {l : Launch} {acks cacks : List Nat} (ev : s.ev = .two lid m) (found : s.launch? lid = some l)
    (joins : s.gangAck lid m = some (s.updLaunch lid (fun x => { x with
      acks := acks, cacks := cacks, gangState := (l.acknowledged acks cacks).gangState }))) :
    ∃ t, exec .gangAcknowledge s = .next t ∧ t.launch? lid = some (l.acknowledged acks cacks) ∧ t.mem = s.mem := by
  refine ⟨_, ?_, State.launch?_updLaunch (f := fun x => { x with
    acks := acks, cacks := cacks, gangState := (l.acknowledged acks cacks).gangState }) (fun _ => rfl) found, rfl⟩
  rw [exec_gangAcknowledge ev, joins]
  rfl

/-! ## The start (R198, R199) -/

/-- A gang that runs; one without tasks completes at once. -/
def Launch.started (l : Launch) : Launch := { l with gangState := 3 }

def Launch.completed (l : Launch) : Launch := { l with code := 1, written := false }

theorem State.gangRun_runs {s : State} {lid : Nat} {l : Launch} (found : s.launch? lid = some l)
    (due : (s.gangHere l = false ∧ l.gangState = 2 ∧ l.gtick ≤ s.dev.ns) ∨
      (s.gangHere l = true ∧ (l.gangState = 1 ∨ l.gangState = 2) ∧ s.allPlace l = true)) :
    s.gangRun lid = some (if l.count = 0 then ((s.updLaunch lid Launch.started).updLaunch lid Launch.completed).returnStorage lid
      else s.updLaunch lid Launch.started) := by
  have now : (if s.gangHere l then (decide (l.gangState = 1) || decide (l.gangState = 2)) && s.allPlace l
      else decide (l.gangState = 2) && decide (l.gtick ≤ s.dev.ns)) = true := by
    rcases due with ⟨away, armed, tick⟩ | ⟨here, stands, places⟩
    · simp [away, armed, tick]
    · simp [here, stands, places]
  unfold State.gangRun
  rw [found]
  dsimp only
  rw [now]
  show (if l.count = 0 then _ else _) = _
  split <;> rfl

theorem gangStart_runs {s : State} {lid : Nat} {l : Launch} (ev : s.ev = .one lid) (found : s.launch? lid = some l)
    (due : (s.gangHere l = false ∧ l.gangState = 2 ∧ l.gtick ≤ s.dev.ns) ∨
      (s.gangHere l = true ∧ (l.gangState = 1 ∨ l.gangState = 2) ∧ s.allPlace l = true)) :
    ∃ t l2, exec .gangStart s = .next t ∧ t.launch? lid = some l2 ∧ l2.gangState = 3 ∧
      l2.code = (if l.count = 0 then 1 else l.code) ∧ t.mem = s.mem := by
  have runs : exec .gangStart s = event "GANG_START" (s.gangRun lid) := by
    show execGangStart s = _
    rw [execGangStart, ev]
  have started := State.launch?_updLaunch (f := Launch.started) (fun _ => rfl) found
  rw [runs, State.gangRun_runs found due]
  by_cases empty : l.count = 0
  · rw [if_pos empty, if_pos empty]
    exact ⟨_, _, rfl, State.launch?_returnStorage (State.launch?_updLaunch (f := Launch.completed) (fun _ => rfl) started), rfl, rfl,
      State.returnStorage_mem ..⟩
  · rw [if_neg empty, if_neg empty]
    exact ⟨_, _, rfl, started, rfl, rfl, rfl⟩

/-! ## The cancels (R198) -/

/-- A launch that is cancelled before its tick. -/
def Launch.cancelled (l : Launch) : Launch := { l with gangState := 4, code := 6, written := false }

theorem gangCancelBeforeTick_cancels {s : State} {lid : Nat} {l : Launch} (ev : s.ev = .one lid) (found : s.launch? lid = some l)
    (due : (l.gangState = 1 ∧ l.gtick ≤ s.dev.ns + l.gmarg ∧ s.gangHere l = false) ∨ (l.gangState = 2 ∧ s.dev.ns < l.gtick)) :
    ∃ t l2, exec .gangCancelBeforeTick s = .next t ∧ t.launch? lid = some l2 ∧ l2.gangState = 4 ∧ l2.code = 6 ∧ l2.written = false ∧
      l2.storage = 0 ∧ t.mem = s.mem := by
  have cancels : s.gangCancel lid = some ((s.updLaunch lid Launch.cancelled).returnStorage lid) := by
    unfold State.gangCancel
    rw [found]
    exact if_pos (by simpa using due)
  refine ⟨(s.updLaunch lid Launch.cancelled).returnStorage lid, _, ?_,
    State.launch?_returnStorage (State.launch?_updLaunch (f := Launch.cancelled) (fun _ => rfl) found), rfl, rfl, rfl, rfl,
    State.returnStorage_mem ..⟩
  show execGangCancelBeforeTick s = _
  rw [execGangCancelBeforeTick, ev]
  exact congrArg (event "GANG_CANCEL_BEFORE_TICK") cancels

end Sys2Proof.Machine
end

section
/-! PROOFS. The cancel of a gang after its tick, and the offer of a peer (R198, R199, R223). -/

namespace Sys2Proof.Machine

open Sys2Proof

/-! ## The Rake stops the cores of a gang (R223) -/

theorem Core.setQueue_stopped (c : Core) (ch : Nat) (l : List Cmd) : (c.setQueue ch l).stopped = c.stopped := by
  unfold Core.setQueue
  split <;> rfl

/-- A core that the Rake stops. -/
def Core.raked (rkcy : Word) (c : Core) : Core :=
  if c.stopped then c
  else
    (List.range 5).foldl (fun k ch => if (k.queueOf ch).isEmpty then k else k.setQueue ch ((k.queueOf ch).map Cmd.rake))
      { c with stopped := true, rkcy := rkcy, rkms := wd (c.msgSent.toNat * 2 ^ 32 + c.msgRecv.toNat) }

theorem State.rakeCore_eq (s : State) (g : Nat) : s.rakeCore g = s.updCore g (Core.raked s.dev.cycl) := rfl

theorem Core.raked_stopped (rkcy : Word) (c : Core) : (c.raked rkcy).stopped = true := by
  unfold Core.raked
  split
  · assumption
  · refine List.foldlRecOn (motive := fun k : Core => k.stopped = true) _ _ rfl fun k stopped ch _ => ?_
    split
    · exact stopped
    · exact (k.setQueue_stopped ch _).trans stopped

theorem State.rakeCores_stop {l : List Nat} {g : Nat} (mem : g ∈ l) (s : State) : ((l.foldl State.rakeCore s).core g).stopped = true := by
  refine foldl_establishes (P := fun u : State => (u.core g).stopped = true) mem (fun u => ?_) (fun u h stopped => ?_) s
  · rw [State.rakeCore_eq, State.core_updCore_same]
    exact Core.raked_stopped ..
  · rw [State.rakeCore_eq]
    by_cases own : h = g
    · subst own
      rw [State.core_updCore_same]
      exact Core.raked_stopped ..
    · rw [State.core_updCore_ne _ _ own]
      exact stopped

theorem State.rakeCores_only (s : State) (l : List Nat) : s.OnlyCores (l.foldl State.rakeCore s) :=
  .foldl (fun u g => State.OnlyCores.updCore u g _) l s

/-! ## What queued goes (R187) -/

theorem State.updLaunch_stands {s : State} {lid : Nat} {f : Launch → Launch} (keeps : ∀ x, (f x).lid = x.lid)
    (stands : ∃ l, s.launch? lid = some l) : ∃ l, (s.updLaunch lid f).launch? lid = some l :=
  stands.elim fun l found => ⟨f l, State.launch?_updLaunch keeps found⟩

theorem State.dropQueued_keeps {s : State} {l x : Launch} (found : s.launch? l.lid = some x) :
    (s.dropQueued l).cores = s.cores ∧ (s.dropQueued l).mem = s.mem ∧ ∃ y, (s.dropQueued l).launch? l.lid = some y := by
  refine List.foldlRecOn (motive := fun u : State => u.cores = s.cores ∧ u.mem = s.mem ∧ ∃ y, u.launch? l.lid = some y) _ _
    ⟨rfl, rfl, x, found⟩ fun u kept c _ => ?_
  obtain ⟨cores, mem, y, stands⟩ := kept
  exact ⟨cores, mem, State.updLaunch_stands (fun _ => rfl) ⟨y, stands⟩⟩

/-- A launch that is cancelled after its tick. -/
def Launch.halted (l : Launch) : Launch := { l with gangState := 5, code := 7, written := false }

theorem gangCancelAfterTick_stops {s : State} {lid : Nat} {l : Launch} (ev : s.ev = .one lid) (found : s.launch? lid = some l)
    (runs : l.gangState = 3) (code : l.code = 0) :
    ∃ t l2, exec .gangCancelAfterTick s = .next t ∧ t.launch? lid = some l2 ∧ l2.gangState = 5 ∧ l2.code = 7 ∧
      (∀ g ∈ s.launchCores lid, (t.core g).stopped = true) ∧ t.mem = s.mem := by
  obtain rfl : l.lid = lid := State.lid_of_launch? found
  have only := s.rakeCores_only (s.launchCores l.lid)
  obtain ⟨cores, mem, y, stands⟩ := State.dropQueued_keeps
    ((State.launch?_of_launches (congrArg Device.launches only.dev) l.lid).trans found)
  have stops : s.gangStop l.lid =
      some (((((s.launchCores l.lid).foldl State.rakeCore s).dropQueued l).updLaunch l.lid Launch.halted).returnStorage l.lid) := by
    unfold State.gangStop
    rw [found]
    exact if_neg (by simp [runs, code])
  refine ⟨_, _, ?_, State.launch?_returnStorage (State.launch?_updLaunch (f := Launch.halted) (fun _ => rfl) stands), rfl, rfl, fun g runsHere => ?_,
    (State.returnStorage_mem ..).trans (mem.trans only.mem)⟩
  · show execGangCancelAfterTick s = _
    rw [execGangCancelAfterTick, ev]
    exact congrArg (event "GANG_CANCEL_AFTER_TICK") stops
  · have kept := (State.returnStorage_cores ((((s.launchCores l.lid).foldl State.rakeCore s).dropQueued l).updLaunch l.lid Launch.halted) l.lid).trans cores
    exact (congrArg (fun m : Sparse Core => (Sparse.look Core.reset m g).stopped) kept).trans (State.rakeCores_stop runsHere s)

/-! ## The offer of a peer (R198, R199) -/

theorem exec_gangOffer {s : State} {o : GangOffer} (ev : s.ev = .offer o) : exec .gangOffer s = event "GANG_OFFER" (s.gangOffered o) := by
  show execGangOffer s = _
  rw [execGangOffer, ev]

/-- A gang that a peer has offered: the devices that the offer names have acknowledged it. -/
def Launch.offered (o : GangOffer) (l : Launch) : Launch :=
  { l with peers := o.peer :: o.others, acks := o.peer :: o.others, logrec := 0 }

/-- The descriptor of an offer: the devices of the gang are those that the offer names. -/
def offerDesc (o : GangOffer) : Desc := { descOf o.bytes o.tags with gset := 0 }

/-- An offer whose descriptor is refused. -/
def State.refusesOffer (s : State) (o : GangOffer) : Prop :=
  (offerDesc o).gang = false ∨ (offerDesc o).dom = 0xFFF ∨ descBad s o.part o.bytes (offerDesc o) true = true ∨
    launchCode s o.part (offerDesc o) (clmOf s o.part (offerDesc o).clmBits) ≠ 0

theorem gangOffer_stranger {s : State} {o : GangOffer} (ev : s.ev = .offer o)
    (strange : (∃ p ∈ o.peer :: o.others, (s.peer p).valid = false ∨ (s.peer p).part ≠ o.part) ∨ ¬ (o.peer :: o.others).Nodup) :
    exec .gangOffer s = .fault (.notEnabled "GANG_OFFER") := by
  have none : s.gangOffered o = none := by
    unfold State.gangOffered
    refine if_pos ?_
    rcases strange with ⟨p, named, off⟩ | twice
    · have missing : (o.peer :: o.others).all (fun p => (s.peer p).valid && decide ((s.peer p).part = o.part)) = false := by
        rw [List.all_eq_false]
        refine ⟨p, named, ?_⟩
        rcases off with invalid | other
        · simp [invalid]
        · simp [other]
      rw [missing]
      rfl
    · rw [decide_eq_false twice]
      exact Bool.or_true _
  rw [exec_gangOffer ev, none]
  rfl

section
variable {s : State} {o : GangOffer} (known : ∀ p ∈ o.peer :: o.others, (s.peer p).valid = true ∧ (s.peer p).part = o.part)
  (once : (o.peer :: o.others).Nodup)
include known once

theorem State.gangOffered_of_known : s.gangOffered o =
    if !(offerDesc o).gang || (offerDesc o).dom == 0xFFF || descBad s o.part o.bytes (offerDesc o) true ||
        decide (launchCode s o.part (offerDesc o) (clmOf s o.part (offerDesc o).clmBits) ≠ 0) then some s
    else
      let r := s.accept o.part (offerDesc o) (clmOf s o.part (offerDesc o).clmBits) [] 0 0 0
      some (r.1.updLaunch r.2 (Launch.offered o)) := by
  have all : (o.peer :: o.others).all (fun p => (s.peer p).valid && decide ((s.peer p).part = o.part)) = true := by
    rw [List.all_eq_true]
    exact fun p named => by simp [known p named]
  unfold State.gangOffered
  rw [all, decide_eq_true once]
  rfl

variable (ev : s.ev = .offer o)
include ev

/-- An offer which cannot be accepted leaves nothing (log entry 42). -/
theorem gangOffer_refused (bad : s.refusesOffer o) : exec .gangOffer s = .next s := by
  rw [exec_gangOffer ev, State.gangOffered_of_known known once, if_pos (by simpa [State.refusesOffer, or_assoc] using bad)]
  rfl

theorem gangOffer_taken (good : ¬ s.refusesOffer o) :
    ∃ t l, exec .gangOffer s = .next t ∧ l ∈ t.dev.launches ∧ l.gang = true ∧ l.gangState = 1 ∧ l.peers = o.peer :: o.others ∧
      l.acks = o.peer :: o.others ∧ l.cacks = [] ∧ l.gtick = (offerDesc o).gtick ∧ l.clm = clmOf s o.part (offerDesc o).clmBits ∧
      l.stages = (offerDesc o).stages ∧ l.count = (offerDesc o).count ∧ (∀ x ∈ s.dev.launches, x.holds = true → x.lid ≠ l.lid) ∧ t.mem = s.mem := by
  have takes := State.gangOffered_of_known known once
  rw [if_neg (by simpa [State.refusesOffer, or_assoc] using good)] at takes
  have gang : (offerDesc o).gang = true := by
    rw [← Bool.not_eq_false]
    exact fun single => good (.inl single)
  have code : launchCode s o.part (offerDesc o) (clmOf s o.part (offerDesc o).clmBits) = 0 := by
    by_contra refused
    exact good (.inr (.inr (.inr refused)))
  obtain ⟨k, free⟩ := launchCode_zero code
  rw [State.accept_of_found free (.inr gang)] at takes
  refine ⟨(s.withLaunch ((offerDesc o).launch k o.part (clmOf s o.part (offerDesc o).clmBits) [] 0 0 0)).updLaunch k (Launch.offered o),
    ((offerDesc o).launch k o.part (clmOf s o.part (offerDesc o).clmBits) [] 0 0 0).offered o, ?_, ?_, gang, if_pos gang, rfl, rfl, rfl, rfl, rfl, rfl, rfl,
    (nextFreeLid_free free).2, ?_⟩
  · rw [exec_gangOffer ev, takes]
    rfl
  · refine List.mem_map.2 ⟨(offerDesc o).launch k o.part (clmOf s o.part (offerDesc o).clmBits) [] 0 0 0, ?_, if_pos (beq_self_eq_true k)⟩
    rw [State.withLaunch_dev]
    exact (Device.mem_launches_withLaunch ..).2 (.inr rfl)
  · exact State.withLaunch_mem ..

end

end Sys2Proof.Machine
end

section
/-! PROOFS. The reports without time lock (R199), and the ticks of a time window (R203, R204). -/

namespace Sys2Proof.Machine

open Sys2Proof

/-! ## Reports (R199) -/

/-- What a cluster reports: the cores of it that are idle, and its free banks. -/
def Cluster.reported (free : List Nat) (k : Cluster) : Cluster := { k with freeCores := free, freeBanks := k.freeCount }

/-- The idle cores of a cluster. -/
def State.idleCores (s : State) (cl : Nat) : List Nat := ((List.range 256).map (gidOf cl)).filter s.coreIdle

/-- The state in which every cluster has reported. -/
def State.reported (s : State) : State :=
  (List.range 8).foldl (fun acc cl => acc.updCluster cl (Cluster.reported (s.idleCores cl)))
    (s.updDev (fun d => { d with reports := d.cyc / 64 }))

theorem State.reported_only (s : State) : (s.updDev (fun d => { d with reports := d.cyc / 64 })).OnlyClusters s.reported :=
  .foldl (fun u cl => State.OnlyClusters.updCluster u cl _) ..

theorem State.report_of_due (s : State) (fallback : s.dev.fallback = true) (due : s.dev.reports < s.dev.cyc / 64) : s.report = some s.reported := by
  unfold State.report State.reported
  rw [if_neg (by simp [fallback, due])]
  rfl

theorem fallbackReport_reports {s : State} (fallback : s.dev.fallback = true) (due : s.dev.reports < s.dev.cyc / 64) :
    ∃ t, exec .fallbackReport s = .next t ∧ t.dev.reports = s.dev.cyc / 64 ∧ t.mem = s.mem ∧
      ∀ cl, cl < 8 → (t.cluster cl).freeBanks = (s.cluster cl).freeCount ∧
        ∀ g, g ∈ (t.cluster cl).freeCores ↔ ∃ i, i < 256 ∧ g = gidOf cl i ∧ s.coreIdle g = true := by
  have reports : exec .fallbackReport s = .next s.reported := by
    show event "FALLBACK_REPORT" s.report = _
    rw [s.report_of_due fallback due]
    rfl
  refine ⟨s.reported, reports, congrArg Device.reports s.reported_only.dev, s.reported_only.mem, fun cl inside => ?_⟩
  have cluster : s.reported.cluster cl = (s.cluster cl).reported (s.idleCores cl) :=
    State.cluster_foldl_updCluster (fun cl => Cluster.reported (s.idleCores cl)) List.nodup_range (List.mem_range.2 inside) _
  rw [cluster]
  refine ⟨rfl, fun g => ?_⟩
  simp only [Cluster.reported, State.idleCores, List.mem_filter, List.mem_map, List.mem_range]
  constructor
  · rintro ⟨⟨i, below, rfl⟩, idle⟩
    exact ⟨i, below, rfl, idle⟩
  · rintro ⟨i, below, rfl, idle⟩
    exact ⟨⟨i, below, rfl⟩, idle⟩

/-! ## The words of a window at its tick (R204) -/

/-- A window at a tick: its next slot is the one after. -/
def Twin.ticked (n : Nat) (w : Twin) : Twin := w.put 7 (wd (n + 1))

/-- A window whose count of missed ticks is one more. -/
def Twin.missed (w : Twin) : Twin := w.put 6 (wd ((bits (w.word 6) 63 32 + 1) % 2 ^ 32 * 2 ^ 32 + bits (w.word 6) 31 0))

theorem Twin.ticked_word (w : Twin) : (w.ticked w.nexts).word 7 = w.word 7 + 1 ∧ (w.ticked w.nexts).word 6 = w.word 6 := by
  refine ⟨?_, w.word_put_ne _ (by decide)⟩
  rw [Twin.ticked, Twin.word_put_same]
  exact BitVec.eq_of_toNat_eq (by simp [wd, Twin.nexts])

theorem extract_halves {a b : Nat} (high : a < 2 ^ 32) (low : b < 2 ^ 32) :
    (wd (a * 2 ^ 32 + b)).extractLsb' 32 32 = BitVec.ofNat 32 a ∧ (wd (a * 2 ^ 32 + b)).extractLsb' 0 32 = BitVec.ofNat 32 b := by
  have whole : (wd (a * 2 ^ 32 + b)).toNat = 2 ^ 32 * a + b := by
    rw [wd, BitVec.toNat_ofNat, Nat.mod_eq_of_lt (by omega), Nat.mul_comm]
  constructor
  · apply BitVec.eq_of_toNat_eq
    rw [BitVec.extractLsb'_toNat, Nat.shiftRight_eq_div_pow, whole, Nat.mul_add_div (Nat.two_pow_pos 32), Nat.div_eq_of_lt low,
      BitVec.toNat_ofNat]
    rfl
  · apply BitVec.eq_of_toNat_eq
    rw [BitVec.extractLsb'_toNat, Nat.shiftRight_zero, whole, Nat.mul_add_mod, BitVec.toNat_ofNat]

theorem ofNat_succ_mod (n : Nat) : BitVec.ofNat 32 ((n + 1) % 2 ^ 32) = BitVec.ofNat 32 n + 1 := by
  apply BitVec.eq_of_toNat_eq
  rw [BitVec.toNat_add, BitVec.toNat_ofNat, BitVec.toNat_ofNat, Nat.mod_mod, Nat.mod_add_mod]
  rfl

theorem ofNat_bits (w : Word) (hi lo n : Nat) (width : hi + 1 - lo = n) : BitVec.ofNat n (bits w hi lo) = w.extractLsb' lo n := by
  subst width
  rw [bits_eq_toNat_extract, BitVec.ofNat_toNat, BitVec.setWidth_eq]

theorem Twin.missed_word (w : Twin) : w.missed.word 7 = w.word 7 ∧
    (w.missed.word 6).extractLsb' 32 32 = (w.word 6).extractLsb' 32 32 + 1 ∧
    (w.missed.word 6).extractLsb' 0 32 = (w.word 6).extractLsb' 0 32 := by
  obtain ⟨high, low⟩ := extract_halves (Nat.mod_lt (bits (w.word 6) 63 32 + 1) (Nat.two_pow_pos 32))
    (Nat.mod_lt ((w.word 6).toNat / 2 ^ 0) (Nat.two_pow_pos 32))
  refine ⟨w.word_put_ne _ (by decide), ?_, ?_⟩
  · rw [Twin.missed, Twin.word_put_same]
    refine high.trans ?_
    rw [ofNat_succ_mod, ofNat_bits (w.word 6) 63 32 32 rfl]
  · rw [Twin.missed, Twin.word_put_same]
    exact low.trans (ofNat_bits (w.word 6) 31 0 32 rfl)

end Sys2Proof.Machine
end

section
/-! PROOFS. The ticks of a time window (R203, R204), and the obligation about gangs and windows. -/

namespace Sys2Proof.Machine

open Sys2Proof

/-- A queue has room at a tick that the dependence unit has none for. -/
def State.tickFull (s : State) (cl : Nat) (w : Twin) : Bool :=
  match s.launch? w.lid, (s.cluster cl).queue? w.lid w.stage with
  | some l, some q => (match l.stages[w.stage]? with
      | some st => decide (q.fill < st.qdep) && !(s.cluster cl).roomFor l w.stage
      | none => false)
  | _, _ => false

/-- A tick in a state in which its header has been read, and its slot's number and flags stand. -/
def State.tickNext (u : State) (cl i n : Nat) : State := u.updWin cl i (Twin.ticked n)

def State.tickMissed (u : State) (cl i n : Nat) : State := (u.tickNext cl i n).updWin cl i Twin.missed

/-- A decode step is late where its slot stands with its number and is not free. -/
def State.tickLate (u : State) (w : Twin) (n : Nat) : Bool := decide ((u.slotWord w n 0).toNat = n) && bit (u.slotWord w n 1) 0

def State.tickEnqueues (u : State) (cl i : Nat) (w : Twin) (l : Launch) (st : Stage) (late : Bool) : State :=
  ((u.tickNext cl i w.nexts).enqueue cl l w.stage 256 (widPut l.widths l.wbase 0 w.nexts) st.emptyRecord late).updLaunch l.lid
    (fun l => { l with alive := l.alive + 1 })

/-- The tick once its header is in reach. -/
def State.tickGoes (s1 : State) (cl i : Nat) (w : Twin) : State :=
  let n := w.nexts
  let s := s1.slotTrace w n
  let older := decide ((s.slotWord w n 0).toNat < n) && bit (s.slotWord w n 1) 1
  let late := !older && decide ((s.slotWord w n 0).toNat = n) && bit (s.slotWord w n 1) 0
  let next := (if older then s.initSlot cl w n else s).updWin cl i (Twin.ticked n)
  match s.launch? w.lid with
  | none => next.updWin cl i Twin.missed
  | some l =>
    match l.stages[w.stage]?, (s.cluster cl).queue? w.lid w.stage with
    | some st, some q =>
      if st.qdep ≤ q.fill then next.updWin cl i Twin.missed
      else (next.enqueue cl l w.stage 256 (widPut l.widths l.wbase 0 n) st.emptyRecord late).updLaunch l.lid (fun l => { l with alive := l.alive + 1 })
    | _, _ => next.updWin cl i Twin.missed

theorem exec_timeWindowTick {s : State} {cl i : Nat} (ev : s.ev = .two cl i) :
    exec .timeWindowTick s = event "TIME_WINDOW_TICK" (s.windowTick cl i) := by
  show execTimeWindowTick s = _
  rw [execTimeWindowTick, ev]

section
variable {s : State} {cl i : Nat} {w : Twin} (window : w = (s.cluster cl).win i) (active : w.active = true) (due : w.tickOf w.nexts ≤ s.dev.ns)
include window active due

theorem State.windowTick_eq : s.windowTick cl i = if s.tickFull cl w then none
    else (s.devGet true (s.slotLines w w.nexts)).andThen (fun u => u.tickGoes cl i w) := by
  subst window
  unfold State.windowTick
  dsimp only
  rw [if_neg]
  · rfl
  · simp [active, Nat.not_lt.2 due]

end

section
variable {s : State} {cl i : Nat} {w : Twin} (kept : ((s.slotTrace w w.nexts).slotWord w w.nexts 1).getLsbD 1 = false)
include kept

theorem State.tickGoes_gone (gone : s.launch? w.lid = none) : s.tickGoes cl i w = (s.slotTrace w w.nexts).tickMissed cl i w.nexts := by
  unfold State.tickGoes
  dsimp only
  rw [bit_eq_getLsbD _ 1, kept, (State.Reached.slotTrace s w w.nexts).launch?, gone, Bool.and_false]
  rfl

variable {l : Launch} {st : Stage} {q : StageQ} (found : s.launch? w.lid = some l) (named : l.stages[w.stage]? = some st)
  (queue : (s.cluster cl).queue? w.lid w.stage = some q)
include found named queue

theorem State.tickGoes_queued : s.tickGoes cl i w = if st.qdep ≤ q.fill then (s.slotTrace w w.nexts).tickMissed cl i w.nexts
    else (s.slotTrace w w.nexts).tickEnqueues cl i w l st ((s.slotTrace w w.nexts).tickLate w w.nexts) := by
  have reached := State.Reached.slotTrace s w w.nexts
  unfold State.tickGoes
  dsimp only
  rw [bit_eq_getLsbD _ 1, kept, reached.launch?, found, reached.queue?, Bool.and_false]
  dsimp only
  rw [named, queue]
  rfl

end

/-! ## What stands after a tick -/

theorem State.queue?_updWin (s : State) (cl i : Nat) (f : Twin → Twin) (lid stage : Nat) :
    ((s.updWin cl i f).cluster cl).queue? lid stage = (s.cluster cl).queue? lid stage := by
  rw [State.cluster_updWin, Cluster.queue?, Cluster.queue?]

section
variable {u : State} {cl i : Nat} {w : Twin} (window : (u.cluster cl).win i = w)
include window

theorem State.tickNext_win : ((u.tickNext cl i w.nexts).cluster cl).win i = w.ticked w.nexts := by
  rw [State.tickNext, State.win_updWin_same, window]

theorem State.tickMissed_win : ((u.tickMissed cl i w.nexts).cluster cl).win i = (w.ticked w.nexts).missed := by
  rw [State.tickMissed, State.win_updWin_same, State.tickNext_win window]

/-- A miss is counted: the window goes on to its next slot, and has one miss more. -/
theorem State.tickMissed_words : (((u.tickMissed cl i w.nexts).cluster cl).win i).word 7 = w.word 7 + 1 ∧
    ((((u.tickMissed cl i w.nexts).cluster cl).win i).word 6).extractLsb' 32 32 = (w.word 6).extractLsb' 32 32 + 1 ∧
    ((((u.tickMissed cl i w.nexts).cluster cl).win i).word 6).extractLsb' 0 32 = (w.word 6).extractLsb' 0 32 := by
  obtain ⟨next, counts⟩ := w.ticked_word
  obtain ⟨same, high, low⟩ := (w.ticked w.nexts).missed_word
  rw [counts] at high low
  rw [State.tickMissed_win window]
  exact ⟨same.trans next, high, low⟩

omit window in
theorem State.tickNext_queue? (n lid stage : Nat) : ((u.tickNext cl i n).cluster cl).queue? lid stage = (u.cluster cl).queue? lid stage :=
  State.queue?_updWin ..

omit window in
theorem State.tickMissed_queue? (n lid stage : Nat) : ((u.tickMissed cl i n).cluster cl).queue? lid stage = (u.cluster cl).queue? lid stage :=
  (State.queue?_updWin ..).trans (State.tickNext_queue? n lid stage)

variable {l : Launch} {st : Stage} (named : l.stages[w.stage]? = some st) (late : Bool)
include named

theorem State.tickEnqueues_win : ((u.tickEnqueues cl i w l st late).cluster cl).win i = w.ticked w.nexts := by
  refine (congrArg (fun k : Cluster => k.win i) (State.enqueue_cluster named ..)).trans ?_
  exact State.tickNext_win window

omit window in
theorem State.tickEnqueues_queue? {q : StageQ} (queue : (u.cluster cl).queue? l.lid w.stage = some q) :
    ((u.tickEnqueues cl i w l st late).cluster cl).queue? l.lid w.stage = some
      { q with items := insBy (fun i => i.ord) ⟨u.enqOrd 256, widPut l.widths l.wbase 0 w.nexts, List.replicate st.rsz 0, late, []⟩ q.items } := by
  rw [← st.emptyRecord_eq]
  exact State.enqueue_queue? named (u.tickNext cl i w.nexts) cl 256 _ _ late ((State.tickNext_queue? ..).trans queue)

end

theorem State.tickLate_iff (u : State) (w : Twin) : u.tickLate w w.nexts = true ↔
    u.slotWord w w.nexts 0 = w.word 7 ∧ (u.slotWord w w.nexts 1).getLsbD 0 = true := by
  rw [State.tickLate, Bool.and_eq_true, decide_eq_true_iff, bit_eq_getLsbD, Twin.nexts, BitVec.toNat_inj]

/-! ## The tick (R203, R204) -/

section
variable {s : State} {cl i : Nat} {w : Twin} (ev : s.ev = .two cl i) (window : w = (s.cluster cl).win i) (active : w.active = true)
  (due : w.tickOf w.nexts ≤ s.dev.ns)
include ev window active due

/-- A tick for which the dependence unit has no room waits. -/
theorem timeWindowTick_full (full : s.tickFull cl w = true) : exec .timeWindowTick s = .fault (.notEnabled "TIME_WINDOW_TICK") := by
  rw [exec_timeWindowTick ev, State.windowTick_eq window active due, if_pos full]
  rfl

/-- A tick goes on once its header is in reach (log entry 38). -/
theorem timeWindowTick_asks (room : s.tickFull cl w = false) :
    (s.devGet true (s.slotLines w w.nexts) = .no → exec .timeWindowTick s = .fault (.notEnabled "TIME_WINDOW_TICK")) ∧
    (∀ x, s.devGet true (s.slotLines w w.nexts) = .wait x → exec .timeWindowTick s = .next x) ∧
    (s.devGet true (s.slotLines w w.nexts) = .go s → exec .timeWindowTick s = .next (s.tickGoes cl i w)) := by
  have move := (State.windowTick_eq window active due).trans (if_neg (Bool.eq_false_iff.1 room))
  obtain ⟨goes, waits, refused⟩ := event_asks (name := "TIME_WINDOW_TICK") move
  rw [exec_timeWindowTick ev]
  exact ⟨refused, waits, goes s⟩

variable (asks : s.devGet true (s.slotLines w w.nexts) = .go s) (clean : s.ecc = [])
  (kept : ((s.slotTrace w w.nexts).slotWord w w.nexts 1).getLsbD 1 = false)
include asks clean kept

/-- A tick whose launch is gone counts a miss. -/
theorem timeWindowTick_gone (gone : s.launch? w.lid = none) : ∃ t, exec .timeWindowTick s = .next t ∧
    ((t.cluster cl).win i).word 7 = w.word 7 + 1 ∧
    (((t.cluster cl).win i).word 6).extractLsb' 32 32 = (w.word 6).extractLsb' 32 32 + 1 ∧
    (((t.cluster cl).win i).word 6).extractLsb' 0 32 = (w.word 6).extractLsb' 0 32 ∧ t.mem = s.mem := by
  have room : s.tickFull cl w = false := by rw [State.tickFull, gone]
  obtain ⟨-, -, goes⟩ := timeWindowTick_asks ev window active due room
  obtain ⟨next, high, low⟩ := State.tickMissed_words ((State.Reached.slotTrace s w w.nexts).win cl i |>.trans window.symm)
  refine ⟨_, goes asks, ?_⟩
  rw [State.tickGoes_gone kept gone]
  exact ⟨next, high, low, (State.SameHome.devTrace clean ..).mem⟩

variable {l : Launch} {st : Stage} {q : StageQ} (found : s.launch? w.lid = some l) (named : l.stages[w.stage]? = some st)
  (queue : (s.cluster cl).queue? w.lid w.stage = some q)
include found named queue

omit ev window active due asks clean kept in
theorem State.tickFull_eq : s.tickFull cl w = (decide (q.fill < st.qdep) && !(s.cluster cl).roomFor l w.stage) := by
  rw [State.tickFull, found, queue]
  dsimp only
  rw [named]

/-- A tick whose queue is full counts a miss. -/
theorem timeWindowTick_misses (full : st.qdep ≤ q.fill) : ∃ t, exec .timeWindowTick s = .next t ∧
    ((t.cluster cl).win i).word 7 = w.word 7 + 1 ∧
    (((t.cluster cl).win i).word 6).extractLsb' 32 32 = (w.word 6).extractLsb' 32 32 + 1 ∧
    (t.cluster cl).queue? w.lid w.stage = some q ∧ t.mem = s.mem := by
  have reached := State.Reached.slotTrace s w w.nexts
  have room : s.tickFull cl w = false := by
    rw [State.tickFull_eq found named queue, decide_eq_false (Nat.not_lt.2 full), Bool.false_and]
  obtain ⟨-, -, goes⟩ := timeWindowTick_asks ev window active due room
  obtain ⟨next, high, -⟩ := State.tickMissed_words ((reached.win cl i).trans window.symm)
  refine ⟨_, goes asks, ?_⟩
  rw [State.tickGoes_queued kept found named queue, if_pos full]
  exact ⟨next, high, (State.tickMissed_queue? ..).trans ((reached.queue? ..).trans queue), (State.SameHome.devTrace clean ..).mem⟩

/-- A tick enqueues its decode-step task, numbered by the slot. -/
theorem timeWindowTick_enqueues (free : q.fill < st.qdep) (fits : (s.cluster cl).roomFor l w.stage = true) :
    ∃ t late, exec .timeWindowTick s = .next t ∧ ((t.cluster cl).win i).word 7 = w.word 7 + 1 ∧
      ((t.cluster cl).win i).word 6 = w.word 6 ∧
      (t.cluster cl).queue? w.lid w.stage = some { q with items := insBy (fun i => i.ord) ⟨s.enqOrd 256,
        widPut l.widths l.wbase 0 w.nexts, List.replicate st.rsz 0, late, []⟩ q.items } ∧
      (late = true ↔ (s.slotTrace w w.nexts).slotWord w w.nexts 0 = w.word 7 ∧
        ((s.slotTrace w w.nexts).slotWord w w.nexts 1).getLsbD 0 = true) ∧ t.mem = s.mem := by
  have reached := State.Reached.slotTrace s w w.nexts
  have room : s.tickFull cl w = false := by rw [State.tickFull_eq found named queue, fits, Bool.not_true, Bool.and_false]
  obtain ⟨-, -, goes⟩ := timeWindowTick_asks ev window active due room
  obtain ⟨next, counts⟩ := w.ticked_word
  have own : l.lid = w.lid := State.lid_of_launch? found
  have win := State.tickEnqueues_win (u := s.slotTrace w w.nexts) (cl := cl) (i := i) ((reached.win cl i).trans window.symm) named
    ((s.slotTrace w w.nexts).tickLate w w.nexts)
  have stands := State.tickEnqueues_queue? (u := s.slotTrace w w.nexts) (cl := cl) (i := i) named ((s.slotTrace w w.nexts).tickLate w w.nexts)
    ((reached.queue? ..).trans (own ▸ queue))
  rw [reached.enqOrd, own] at stands
  refine ⟨_, (s.slotTrace w w.nexts).tickLate w w.nexts, goes asks, ?_⟩
  rw [State.tickGoes_queued kept found named queue, if_neg (Nat.not_le.2 free), win]
  exact ⟨next, counts, stands, State.tickLate_iff .., (State.enqueue_mem ..).trans (State.SameHome.devTrace clean ..).mem⟩

end

/-- Settles O56: each event of a gang by what it makes of the launch, and a tick by what it makes of its window and of the queue. -/
theorem gangEvents : Obligations.GangEvents := by
  unfold Obligations.GangEvents
  intro s
  refine ⟨?_, ?_, ?_, ?_, ?_, ?_, ?_⟩
  · intro lid peer l ev found gathers device named new soon
    obtain ⟨t, runs, stands, mem⟩ := gangAcknowledge_joins ev found (State.gangAck_peer found gathers soon device named new)
    refine ⟨t, _, runs, stands, fun p => mem_natIns_iff, rfl, fun all => Launch.acknowledged_armed ?_,
      fun missing => Launch.acknowledged_waits fun all => missing ?_, mem⟩
    · exact ⟨fun p member => mem_natIns_iff.2 (all.1 p member), all.2⟩
    · exact ⟨fun p member => mem_natIns_iff.1 (all.1 p member), all.2⟩
  · intro lid c l ev found gathers named new soon
    refine ⟨fun full => ?_, fun places => ?_⟩
    · rw [exec_gangAcknowledge ev, State.gangAck_unplaced found gathers soon full]
      rfl
    · obtain ⟨t, runs, stands, mem⟩ := gangAcknowledge_joins ev found (State.gangAck_cluster found gathers soon named new places)
      refine ⟨t, _, runs, stands, fun p => mem_natIns_iff, rfl, fun all => Launch.acknowledged_armed ?_,
        fun missing => Launch.acknowledged_waits fun all => missing ?_, mem⟩
      · exact ⟨all.1, fun k member => mem_natIns_iff.2 (all.2 k member)⟩
      · exact ⟨all.1, fun k member => mem_natIns_iff.1 (all.2 k member)⟩
  · intro lid l ev found
    exact ⟨fun due => gangStart_runs ev found due, fun due => gangCancelBeforeTick_cancels ev found due,
      fun runs code => gangCancelAfterTick_stops ev found runs code⟩
  · exact fun o ev strange => gangOffer_stranger ev strange
  · exact fun o ev known once => ⟨fun bad => gangOffer_refused known once ev bad, fun good => gangOffer_taken known once ev good⟩
  · exact fun fallback due => fallbackReport_reports fallback due
  · intro cl i ev w window active due ask u asked visited
    subst asked visited
    refine ⟨fun l st q found named queue free full => ?_, fun gone => ?_, fun asks clean kept => ⟨fun gone => ?_, fun l st q found named queue => ?_⟩⟩
    · refine timeWindowTick_full ev window active due ?_
      rw [State.tickFull_eq found named queue, full, decide_eq_true free]
      rfl
    · have room : s.tickFull cl w = false := by rw [State.tickFull, gone]
      obtain ⟨refused, waits, -⟩ := timeWindowTick_asks ev window active due room
      exact ⟨refused, waits⟩
    · exact timeWindowTick_gone ev window active due asks clean kept gone
    · exact ⟨fun full => timeWindowTick_misses ev window active due asks clean kept found named queue full,
        fun free fits => timeWindowTick_enqueues ev window active due asks clean kept found named queue free fits⟩

end Sys2Proof.Machine
end
